-- ==== Sys2Proof/Word.lean ====
section
/-!
DEFINITION. The words of the machine: 64-bit registers, 32-bit instruction words, bytes and 128-bit vector registers
(R2, R24, R142).
-/

namespace Sys2Proof

/-- A 64-bit register, address or memory word. -/
abbrev Word := BitVec 64

/-- An instruction word. -/
abbrev Word32 := BitVec 32

/-- One byte of memory. -/
abbrev Byte := BitVec 8

/-- A vector register (R243). -/
abbrev Vec := BitVec 128

end Sys2Proof
end

