-- ==== Sys2Proof/Config.lean ====
section
/-!
DEFINITION. What the machine fixes for good: the sizes of 00, the address map of R43, the standard CQ4 levels of R95,
the typical charge weights of R399; and the values the spec leaves open, as constants without a body.
-/

namespace Sys2Proof.Config

/-- Free values (entry 6): nothing constrains what the spec does not state. -/
opaque freeValue : Nat → BitVec 64

/-- The SM3 digest of a run of bytes (R374, R385, R387, R388), which the spec names and does not define (entry 7). -/
opaque sm3 : List Byte → BitVec 256

/-- The identity key's SM2 signature over a digest, r then s (R388; entry 7). -/
opaque sm2Sign : BitVec 256 → BitVec 512

/-- The identity public key, x then y (R388; entry 7). -/
opaque sm2Public : BitVec 512

/-- What a line's 128 bytes decrypt to under a key slot's present key when another key encrypted them (R67; entry 11):
old key, new key, line address, contents. -/
opaque rekeyed : Nat → Nat → Nat → BitVec 1024 → BitVec 1024

/-- The address of the line that holds a cell of a stack's DRAM, by channel, bank, row and column: the spec does not lay
channels, banks and rows out (R391; entry 23). -/
opaque dramLine : Nat → Nat → Nat → Nat → Nat → Nat

/-- The frames with bytes in a bank of a stack's DRAM, or in one row or column of it (R391; entry 23): stack, channel, bank,
row, column. -/
opaque dramFrames : Nat → Nat → Nat → Option Nat → Option Nat → List Nat

/-- COREID.CHIP, the package number (R190 says "firmware"; DESIGN CHOICE, entry 2). -/
def chip : BitVec 8 := 0

/-- Worker cores, at x 0 to 255 and y 0 to 127 (00). -/
def workers : Nat := 32768
/-- Clusters, and so keeper cores (00). -/
def clusters : Nat := 512
/-- Keeper core of cluster `c` is core number `workers + c` of the model (entry 1). -/
def keeperOf (c : Nat) : Nat := workers + c

/-- First address of the window on every core's local store (R43). -/
def lsWindow : Nat := 0xFFFFFFFFC0000000
/-- First address of the window on the cluster stores (R43). -/
def csWindow : Nat := 0xFFFFFFFFA0000000
/-- First address of the own-store window (R43). -/
def ownWindow : Nat := 0xFFFFFFFF9FFF8000
/-- First reserved window address (R43). -/
def reservedWindow : Nat := 0xFFFFFFFF80000000
/-- Bytes of a local store (00, R43). -/
def lsSize : Nat := 0x8000
/-- Bytes of a weight slice (00, R47). -/
def sliceSize : Nat := 0x40000
/-- End of the FIFO ring area of a local store (R48). -/
def ringEnd : Nat := 0x5400

/-- The standard CQ4 levels (R95). -/
def standardLevels : List Int := [-127, -98, -77, -60, -46, -33, -21, -10, 0, 10, 21, 33, 46, 60, 77, 98]

/-- The same levels as INT8 bytes, the codebook after package reset (R276). -/
def standardBook : List Byte := standardLevels.map (BitVec.ofInt 8)

/-- The typical weights of R399 in units of 1/16 pJ, taken for "firmware" (DESIGN CHOICE, entry 2). -/
def chargeWeights : List Nat :=
  [32, 224, 512, 48, 64, 160, 480, 24960, 80, 640, 560, 32, 960, 0, 0, 0]

end Sys2Proof.Config
end

