-- ==== Sys2Proof/Syntax.lean ====
section
/-!
DEFINITION. Every operation of the opcode table as syntax: one constructor of `Instr` for each row of
spec/opcode_table.json (276 rows have a 32-bit word, R143 to R175; 141 rows are steps of the part or commands of its
tools, which have none). A word's operands stand in one structure per field layout.
-/

namespace Sys2Proof

/-- R format with a register class (R143, R154): two sources. -/
structure Alu2 where
  rd : BitVec 5
  ra : BitVec 5
  rb : BitVec 5
  cls : BitVec 2
  ea : Bool
  eb : Bool
  sz : BitVec 2
  deriving DecidableEq, Repr

/-- R format with a register class (R143, R154): one source. -/
structure Alu1 where
  rd : BitVec 5
  ra : BitVec 5
  cls : BitVec 2
  ea : Bool
  sz : BitVec 2
  deriving DecidableEq, Repr

/-- I format (R144). -/
structure ImmI where
  rd : BitVec 5
  ra : BitVec 5
  imm : BitVec 15
  ea : Bool
  deriving DecidableEq, Repr

/-- Shift-immediate words of the I format (R165). -/
structure ShiftI where
  rd : BitVec 5
  ra : BitVec 5
  amt : BitVec 6
  ea : Bool
  deriving DecidableEq, Repr

/-- U format (R145). -/
structure ImmU where
  rd : BitVec 5
  imm : BitVec 21
  deriving DecidableEq, Repr

/-- Scalar floating point, two sources (R166). -/
structure Fp2 where
  rd : BitVec 5
  ra : BitVec 5
  rb : BitVec 5
  ea : Bool
  eb : Bool
  sz : BitVec 2
  deriving DecidableEq, Repr

/-- R format, one source and a width (R166, R277). -/
structure Fp1 where
  rd : BitVec 5
  ra : BitVec 5
  ea : Bool
  sz : BitVec 2
  deriving DecidableEq, Repr

/-- FCVT words: rb holds the source type code (R166). -/
structure FpCvt where
  rd : BitVec 5
  ra : BitVec 5
  src : BitVec 5
  ea : Bool
  sz : BitVec 2
  deriving DecidableEq, Repr

/-- F format (R146). -/
structure Quad where
  rd : BitVec 5
  ra : BitVec 5
  rb : BitVec 5
  rc : BitVec 5
  ea : Bool
  eb : Bool
  ec : Bool
  deriving DecidableEq, Repr

/-- F format, FMA forms: ty is fn[4:3] (R167). -/
structure QuadFp where
  rd : BitVec 5
  ra : BitVec 5
  rb : BitVec 5
  rc : BitVec 5
  ty : BitVec 2
  ea : Bool
  eb : Bool
  ec : Bool
  deriving DecidableEq, Repr

/-- CRR (R165). -/
structure CrRead where
  rd : BitVec 5
  reg : BitVec 12
  deriving DecidableEq, Repr

/-- CRW (R165). -/
structure CrWrite where
  ra : BitVec 5
  reg : BitVec 12
  ea : Bool
  deriving DecidableEq, Repr

/-- CRS and CRC (R165). -/
structure CrMod where
  rd : BitVec 5
  ra : BitVec 5
  reg : BitVec 12
  ea : Bool
  deriving DecidableEq, Repr

/-- M format (R147). -/
structure MemM where
  rt : BitVec 5
  base : BitVec 5
  mode : BitVec 3
  ea : Bool
  off : BitVec 12
  deriving DecidableEq, Repr

/-- LDS and STS (R168). -/
structure MemS where
  rt : BitVec 5
  base : BitVec 5
  scope : BitVec 3
  ea : Bool
  size : BitVec 2
  off : BitVec 10
  deriving DecidableEq, Repr

/-- LDV (R168). -/
structure ViewLd where
  rd : BitVec 5
  ra : BitVec 5
  view : BitVec 3
  zext : Bool
  ea : Bool
  eb : Bool
  sz : BitVec 2
  deriving DecidableEq, Repr

/-- STV (R168). -/
structure ViewSt where
  rd : BitVec 5
  ra : BitVec 5
  view : BitVec 3
  ea : Bool
  eb : Bool
  sz : BitVec 2
  deriving DecidableEq, Repr

/-- LDP and STP (R168). -/
structure MemP where
  rt : BitVec 5
  base : BitVec 5
  ea : Bool
  off : BitVec 12
  deriving DecidableEq, Repr

/-- PREF (R207). -/
structure Prefetch where
  level : BitVec 2
  base : BitVec 5
  ea : Bool
  off : BitVec 12
  deriving DecidableEq, Repr

/-- CFLUSH, CINV.line and TLBI.page (R216 to R218). -/
structure KeeperM where
  base : BitVec 5
  ea : Bool
  off : BitVec 12
  deriving DecidableEq, Repr

/-- BANKMODE (R219). -/
structure KeeperB where
  base : BitVec 5
  ea : Bool
  deriving DecidableEq, Repr

/-- ATOM and ATN (R169). -/
structure Atomic where
  scope : BitVec 3
  ra : BitVec 5
  rb : BitVec 5
  rc : BitVec 5
  view : Bool
  mode : BitVec 2
  deriving DecidableEq, Repr

/-- CAS128 (R170). -/
structure Cas128 where
  scope : BitVec 3
  ra : BitVec 5
  rb : BitVec 5
  rc : BitVec 5
  view : Bool
  deriving DecidableEq, Repr

/-- FENCE.X (R171). -/
structure FenceX where
  scope : BitVec 3
  ca : BitVec 2
  cb : BitVec 2
  deriving DecidableEq, Repr

/-- CRNEW (R214). -/
structure ViewNew where
  wd : BitVec 3
  ra : BitVec 5
  ea : Bool
  deriving DecidableEq, Repr

/-- VSPLIT (R214). -/
structure ViewSplit where
  wd : BitVec 3
  ra : BitVec 5
  ws : BitVec 3
  ea : Bool
  eb : Bool
  deriving DecidableEq, Repr

/-- VSHARE and VMOVE (R214). -/
structure ViewTwo where
  wd : BitVec 3
  ws : BitVec 3
  eb : Bool
  deriving DecidableEq, Repr

/-- VDEMOTE (R214). -/
structure ViewMask where
  ws : BitVec 3
  mask : BitVec 3
  deriving DecidableEq, Repr

/-- VNARROW (R214). -/
structure ViewNarrow where
  ws : BitVec 3
  ra : BitVec 5
  rb : BitVec 5
  ea : Bool
  eb : Bool
  deriving DecidableEq, Repr

/-- VQUERY (R214). -/
structure ViewQuery where
  rd : BitVec 5
  ws : BitVec 3
  eb : Bool
  sel : BitVec 2
  deriving DecidableEq, Repr

/-- QCFG and QNEXT (R237). -/
structure StreamW where
  qd : BitVec 2
  ra : BitVec 5
  ea : Bool
  deriving DecidableEq, Repr

/-- QRD (R237). -/
structure StreamRd where
  rd : BitVec 5
  qs : BitVec 2
  eb : Bool
  sel : BitVec 2
  deriving DecidableEq, Repr

/-- REP and REPX (R240). -/
structure RepW where
  len : BitVec 3
  ra : BitVec 5
  rb : BitVec 5
  ea : Bool
  eb : Bool
  deriving DecidableEq, Repr

/-- V format, two sources (R150). -/
structure Vec2 where
  vd : BitVec 4
  va : BitVec 4
  vb : BitVec 4
  et : BitVec 3
  me : Bool
  msk : BitVec 2
  pol : Bool
  ea : Bool
  eb : Bool
  deriving DecidableEq, Repr

/-- V format, one source (R150). -/
structure Vec1 where
  vd : BitVec 4
  va : BitVec 4
  et : BitVec 3
  me : Bool
  msk : BitVec 2
  pol : Bool
  ea : Bool
  deriving DecidableEq, Repr

/-- VLD and VBCAST (R251). -/
structure VecMem where
  vd : BitVec 4
  xb : BitVec 4
  off : BitVec 4
  et : BitVec 3
  me : Bool
  msk : BitVec 2
  pol : Bool
  ea : Bool
  deriving DecidableEq, Repr

/-- VST (R251). -/
structure VecStore where
  vd : BitVec 4
  xb : BitVec 4
  off : BitVec 4
  et : BitVec 3
  me : Bool
  msk : BitVec 2
  ea : Bool
  deriving DecidableEq, Repr

/-- VLDQ (R251). -/
structure VecStream where
  vd : BitVec 4
  qn : BitVec 2
  et : BitVec 3
  me : Bool
  msk : BitVec 2
  pol : Bool
  deriving DecidableEq, Repr

/-- VSTQ (R251). -/
structure VecStreamSt where
  vd : BitVec 4
  qn : BitVec 2
  et : BitVec 3
  me : Bool
  msk : BitVec 2
  deriving DecidableEq, Repr

/-- VSCAT (R251). -/
structure VecScatter where
  vd : BitVec 4
  xb : BitVec 4
  vi : BitVec 4
  et : BitVec 3
  me : Bool
  msk : BitVec 2
  ea : Bool
  eb : Bool
  deriving DecidableEq, Repr

/-- VSLIDE (R255). -/
structure VecSlide where
  vd : BitVec 4
  va : BitVec 4
  vb : BitVec 4
  et : BitVec 3
  k : BitVec 4
  ea : Bool
  eb : Bool
  deriving DecidableEq, Repr

/-- VEXT (R255). -/
structure VecExt where
  xd : BitVec 4
  va : BitVec 4
  lane : BitVec 4
  et : BitVec 3
  ea : Bool
  deriving DecidableEq, Repr

/-- VINS (R255). -/
structure VecIns where
  vd : BitVec 4
  xs : BitVec 4
  lane : BitVec 4
  et : BitVec 3
  ea : Bool
  deriving DecidableEq, Repr

/-- VSPLAT (R255). -/
structure VecSplat where
  vd : BitVec 4
  xs : BitVec 4
  et : BitVec 3
  me : Bool
  msk : BitVec 2
  pol : Bool
  ea : Bool
  deriving DecidableEq, Repr

/-- VCVT (R257). -/
structure VecCvt where
  vd : BitVec 4
  va : BitVec 4
  src : BitVec 4
  et : BitVec 3
  me : Bool
  msk : BitVec 2
  pol : Bool
  ea : Bool
  deriving DecidableEq, Repr

/-- VUNPK (R258). -/
structure VecUnpk where
  vd : BitVec 4
  va : BitVec 4
  half : Bool
  et : BitVec 3
  me : Bool
  msk : BitVec 2
  pol : Bool
  ea : Bool
  deriving DecidableEq, Repr

/-- VBXQ (R260). -/
structure BlockQ where
  xd : BitVec 4
  xs : BitVec 4
  ea : Bool
  eb : Bool
  deriving DecidableEq, Repr

/-- VCQ4 (R260). -/
structure BlockC where
  vd : BitVec 4
  xd : BitVec 4
  xs : BitVec 4
  et : BitVec 3
  ea : Bool
  eb : Bool
  deriving DecidableEq, Repr

/-- VMAND, VMOR and VMXOR (R262). -/
structure Mask2 where
  vd : BitVec 4
  va : BitVec 4
  vb : BitVec 4
  ea : Bool
  eb : Bool
  deriving DecidableEq, Repr

/-- VMNOT (R262). -/
structure Mask1 where
  vd : BitVec 4
  va : BitVec 4
  ea : Bool
  deriving DecidableEq, Repr

/-- VMCNT and VMFST (R262). -/
structure MaskCount where
  vd : BitVec 4
  va : BitVec 4
  et : BitVec 3
  ea : Bool
  deriving DecidableEq, Repr

/-- MGANG (R268). -/
structure Gang where
  acc : BitVec 3
  ra : BitVec 5
  rb : BitVec 5
  deriving DecidableEq, Repr

/-- MMAS (R268). -/
structure GangOne where
  acc : BitVec 3
  ra : BitVec 5
  deriving DecidableEq, Repr

/-- MDRAIN (R272). -/
structure Drain where
  acc : BitVec 3
  ra : BitVec 5
  rb : BitVec 5
  rc : BitVec 5
  sat : Bool
  deriving DecidableEq, Repr

/-- MDRAINC (R274): mode[0] ADD, mode[1] SAT. -/
structure DrainC where
  acc : BitVec 3
  ra : BitVec 5
  rb : BitVec 5
  rc : BitVec 5
  mode : BitVec 2
  deriving DecidableEq, Repr

/-- ARD (R265). -/
structure AccRead where
  acc : BitVec 3
  rd : BitVec 5
  ri : BitVec 5
  deriving DecidableEq, Repr

/-- AWR (R265). -/
structure AccWrite where
  acc : BitVec 3
  ri : BitVec 5
  rs : BitVec 5
  deriving DecidableEq, Repr

/-- ACHK (R265). -/
structure AccCheck where
  acc : BitVec 3
  rd : BitVec 5
  deriving DecidableEq, Repr

/-- ACFG (R275). -/
structure AccCfg where
  rcore : BitVec 5
  rval : BitVec 5
  rold : BitVec 5
  deriving DecidableEq, Repr

/-- HINT.MOD payload (R158). -/
structure HintMod where
  re : Bool
  rnd : BitVec 3
  se : Bool
  scope : BitVec 3
  cpol : BitVec 2
  na : Bool
  deriving DecidableEq, Repr

/-- HINT.SCHED payload (R160). -/
structure HintSched where
  prio : BitVec 2
  count : BitVec 6
  deriving DecidableEq, Repr

/-- B format (R148). -/
structure Branch where
  ra : BitVec 5
  rb : BitVec 5
  off : BitVec 13
  deriving DecidableEq, Repr

/-- SEND (R220). -/
structure SendW where
  ra : BitVec 5
  rb : BitVec 5
  n : BitVec 2
  ea : Bool
  mp : Bool
  deriving DecidableEq, Repr

/-- SENDV (R220). -/
structure SendView where
  ra : BitVec 5
  view : BitVec 3
  ea : Bool
  deriving DecidableEq, Repr

/-- SENDM (R220). -/
structure SendLadle where
  ra : BitVec 5
  rb : BitVec 5
  ea : Bool
  mp : Bool
  deriving DecidableEq, Repr

/-- R format, two sources (R143). -/
structure Reg2 where
  rd : BitVec 5
  ra : BitVec 5
  rb : BitVec 5
  ea : Bool
  eb : Bool
  deriving DecidableEq, Repr

/-- R format, one source (R143). -/
structure Reg1 where
  rd : BitVec 5
  ra : BitVec 5
  ea : Bool
  deriving DecidableEq, Repr

/-- SPAWN (R229). -/
structure SpawnW where
  hint : BitVec 5
  ra : BitVec 5
  rb : BitVec 5
  n : BitVec 2
  ea : Bool
  mp : Bool
  deriving DecidableEq, Repr

/-- HSTART (R229). -/
structure HstartW where
  rd : BitVec 5
  ra : BitVec 5
  rb : BitVec 5
  n : BitVec 2
  ea : Bool
  mp : Bool
  deriving DecidableEq, Repr

/-- R format, one source and no destination (R143). -/
structure Src1 where
  ra : BitVec 5
  ea : Bool
  deriving DecidableEq, Repr

/-- CPY, CPYA, CPYW and CPYG (R282). -/
structure CopyW where
  weir : BitVec 5
  ra : BitVec 5
  rb : BitVec 5
  ea : Bool
  eb : Bool
  deriving DecidableEq, Repr

/-- WEIRADD (R286). -/
structure WeirAdd where
  ra : BitVec 5
  rb : BitVec 5
  ea : Bool
  eb : Bool
  deriving DecidableEq, Repr

/-- The kinds of unit that keep a leaky bucket (R390), in the code order of the warning's word 0. -/
inductive BucketKind where
  | localStore | clusterStore | l2 | weightSlice | meshLink | ueLane | cluster
  deriving DecidableEq, Repr

/-- One leaky bucket: its kind and its index among the buckets of that kind (R390). -/
structure BucketId where
  kind  : BucketKind
  index : Nat
  deriving DecidableEq, Repr

/-- What a hardware error is (R390): corrected, uncorrectable, or a link-level retry. -/
inductive ErrKind where
  | corrected | uncorrectable | retry
  deriving DecidableEq, Repr

/-- Where a hardware error happened, as the rows of R398 tell the places apart. -/
inductive ErrPlace where
  | bridge (i : Nat)
  | port (i : Nat)
  | ueLane (lane : Nat)
  | wharf
  | dramLine (line : Nat)
  | l2Line (stack slice line : Nat)
  | cacheLine (cluster bank line : Nat)
  | localStore (core : Nat) (ctx : Option Nat)
  | clusterStore (cluster bank : Nat)
  | weightSlice (core : Nat)
  | tile (core acc : Nat) (ctx : Option Nat)
  | coreLogic (core : Nat) (ctx : Option Nat)
  | meshLink (fromCore toCore : Nat) (sender : Nat)
  deriving DecidableEq, Repr

/-- One DRAM cell of a stack as its controllers report it (R391). -/
structure DramCell where
  channel : Nat
  bank    : Nat
  row     : Nat
  col     : Nat
  deriving DecidableEq, Repr

/-- A layout record (R374). -/
structure LayoutRecord where
  node     : Word
  vdTags   : List (BitVec 16)
  sysMask  : BitVec 16
  keyMasks : List Word
  deriving DecidableEq, Repr

/-- The device registers of keeper and wharf space that the part gives a map for and no row of their own:
R53, R68, R89, R330, R332, R335, R341, R345, R354, R359, R365, R366, R368, R370, R374, R379, R382, R390, R399, R401. -/
inductive DevReg where
  | bankCfg (cluster bank : Nat)
  | crPoolBase (stack tag : Nat)
  | crPoolLen (stack tag : Nat)
  | fpUnion (cluster : Nat)
  | faultCh (cluster : Nat)
  | svcCh (cluster : Nat)
  | ptShard (cluster tag : Nat)
  | rtRoot (cluster tag : Nat)
  | flight (core : Nat)
  | saveBase (cluster : Nat)
  | saveXBase (tag : Nat)
  | cutBase (tag : Nat)
  | ovfRing (cluster index : Nat)
  | rte (tag index : Nat)
  | emTag (tag index : Nat)
  | emEntry (tag index : Nat)
  | emRcb (tag index : Nat)
  | rmaBase (tag index : Nat)
  | rmaLen (tag index : Nat)
  | compCtl (tag index : Nat)
  | keyMask (node stack : Nat)
  | migVa (stack entry : Nat)
  | migDst (stack entry : Nat)
  | migCtl (stack entry : Nat)
  | poundSch (node : Nat)
  | vdCfg (tag : Nat)
  | vdTok (tag : Nat)
  | wayOwn (stack slice : Nat)
  | wayMon (stack slice k : Nat)
  | bucket (id : BucketId)
  | chgw (stack n : Nat)
  | estk (stack : Nat)
  | estkUse (stack : Nat)
  deriving DecidableEq, Repr

/-- The kinds of section of an object that hold bytes (R135, R302). -/
inductive SectionKind where
  | text | data | ls | cstore | wslice (x y : Nat)
  deriving DecidableEq, Repr

/-- A section of an object: its kind, element format, base-2 logarithm of its alignment, and bytes (R302). -/
structure GofSection where
  kind  : SectionKind
  fmt   : BitVec 4
  align : Nat
  bytes : List Byte
  deriving DecidableEq, Repr

/-- A channel record of an object (R136, R322): kind and operation codes of R225, depth or threshold minus one, a relay's target
record, home coordinates relative to the pound's corner, the creating region's record (none for root), name and symbol. -/
structure GofChannel where
  kind   : BitVec 2
  op     : BitVec 2
  nm1    : BitVec 8
  target : Option Nat
  x      : Nat
  y      : Nat
  region : Option Nat
  name   : String
  sym    : Nat
  deriving DecidableEq, Repr

/-- A pattern record of an object (R137, R323): rank, flags, channel records, body symbol, the body's region record (none for
root), home coordinates and name. -/
structure GofPattern where
  rank  : BitVec 3
  ctrl  : Bool
  fair  : Bool
  chans : List Nat
  body  : Nat
  region : Option Nat
  x     : Nat
  y     : Nat
  name  : String
  deriving DecidableEq, Repr

/-- A region record of an object (R138, R324): the parent's record (none for root), the fields given, and the name. -/
structure GofRegion where
  name     : String
  parent   : Option Nat
  watchdog : Option (BitVec 32)
  energy   : Option Word
  cycles   : Option Word
  spans    : Option Word
  priority : Option (BitVec 3)
  domain   : Option (BitVec 32)
  paired   : Option Bool
  error    : Option Nat
  budget   : Option Nat
  radius   : Option (BitVec 4)
  deriving DecidableEq, Repr

/-- The kinds of symbol (R303). -/
inductive SymKind where
  | label | equ | channel | pattern | body | region | gang
  deriving DecidableEq, Repr

/-- A symbol of an object (R303): its name, kind, binding, section (none when absolute), value and byte length. -/
structure GofSymbol where
  name    : String
  kind    : SymKind
  isGlobal : Bool
  section_ : Option Nat
  value   : Word
  size    : Nat
  deriving DecidableEq, Repr

/-- The types of relocation (R304). -/
inductive RelocType where
  | abs64 | chan64 | imm39 | rcb64
  deriving DecidableEq, Repr

/-- A relocation of an object (R304): the offset, the section, the type and the symbol's number. -/
structure GofReloc where
  offset  : Nat
  section_ : Nat
  type    : RelocType
  symbol  : Nat
  deriving DecidableEq, Repr

/-- A GOF object (R301 to R304, R322 to R324). -/
structure GofObject where
  sysbase  : Nat
  sections : List GofSection
  channels : List GofChannel
  patterns : List GofPattern
  regions  : List GofRegion
  symbols  : List GofSymbol
  relocs   : List GofReloc
  deriving DecidableEq, Repr

/-- What the driver supplies with a launch (R403): the addresses of .text, .data, the root block and each region's block, and
the root's values, where it gives any. -/
structure LaunchRequest where
  textAt  : Word
  dataAt  : Word
  rootAt  : Word
  blocks  : List Word
  wdog    : Option (BitVec 32)
  energy  : Option Word
  cycles  : Option Word
  spans   : Option Word
  prio    : Option (BitVec 3)
  domain  : Option (BitVec 32)
  paired  : Option Bool
  radius  : Option (BitVec 4)
  errCh   : Option Word
  budCh   : Option Word
  cntEp   : Option Word
  thr     : List (BitVec 32)
  deriving DecidableEq, Repr

/-- What a packet that reaches a port asks for (R328, R332): a send under a 64-bit tag, or an option that the part does not
implement: an untyped send, a deferrable send, an atomic operation, or any other. -/
inductive UeUse where
  | tagged (tag : Word)
  | untyped | deferrable | atomic | other
  deriving DecidableEq, Repr

/-- What a message from a peer package holds (R331): words, or words for a ladle and the code of its operation (R225). -/
inductive PeerPayload where
  | words (ws : List Word)
  | ladle (op : BitVec 2) (ws : List Word)
  deriving DecidableEq, Repr

/-- A completion endpoint of a host (R341, R342): the chip number of the host's route, and the endpoint's number there. -/
structure HostEndpoint where
  chip   : Nat
  number : Nat
  deriving DecidableEq, Repr

/-- What a sampling reads (R292): a slice of the core's stack, at an interval of the core's cycles. -/
structure Sampling where
  slice    : Nat
  interval : Nat
  deriving DecidableEq, Repr

/-- The full/empty policy of ngatur (R299, R310). -/
inductive FePolicy where
  | wait | strict | off
  deriving DecidableEq, Repr

/-- A run of ngatur (R299): the source file by path, the other files by path, and the command line: the -I directories in
order, and --sysbase and --fe where they are given. -/
structure AsmJob where
  file     : String
  text     : String
  includes : List (String × String)
  dirs     : List String
  defines  : List (String × String)
  output   : Option String
  sysbase  : Option Nat
  pound    : Option (Nat × Nat)
  fe       : Option FePolicy
  werror   : Bool
  noWarn   : List String
  deriving DecidableEq, Repr

/-- How the mem command prints (R298, R313): doublewords, words, or words as binary32 values. -/
inductive MemUnit where
  | dword | word | f32
  deriving DecidableEq, Repr

/-- A register that a snivis command prints (R290, R313). -/
inductive SnvReg where
  | pc | x (i : BitVec 5) | v (i : BitVec 4) | m (i : BitVec 4) | w (i : BitVec 3)
  | mstat | fpctl | fpflags | wdleft | fe
  deriving DecidableEq, Repr

/-- The operations and events of the part (spec/opcode_table.json), one constructor for each row: the rows
that have a word in the table's order, those of majors 0x20 to 0x27, 0x3A and 0x3B after the others; then the steps and
commands in the table's order. -/
inductive Instr where
  /-- ADD (R178). Adds two registers at the chosen width and sign-extends the result. -/
  | add (o : Alu2)
  /-- SUB (R178). Subtracts rb from ra at the chosen width and sign-extends the result. -/
  | sub (o : Alu2)
  /-- AND (R178). Bitwise AND of two registers. -/
  | and (o : Alu2)
  /-- OR (R178). Bitwise OR of two registers. -/
  | or (o : Alu2)
  /-- XOR (R178). Bitwise XOR of two registers. -/
  | xor (o : Alu2)
  /-- ANDN (R178). ra AND NOT rb. -/
  | andn (o : Alu2)
  /-- ORN (R178). ra OR NOT rb. -/
  | orn (o : Alu2)
  /-- SLL (R178). Shifts left by rb mod n. -/
  | sll (o : Alu2)
  /-- SRL (R178). Logical shift right by rb mod n, zero-extended. -/
  | srl (o : Alu2)
  /-- SRA (R178). Arithmetic shift right by rb mod n. -/
  | sra (o : Alu2)
  /-- ROL (R178). Rotates left within n bits. -/
  | rol (o : Alu2)
  /-- SLT (R178). Writes 1 if ra is less than rb signed. -/
  | slt (o : Alu2)
  /-- SLTU (R178). Writes 1 if ra is less than rb unsigned. -/
  | sltu (o : Alu2)
  /-- SEQ (R178). Writes 1 if ra equals rb. -/
  | seq (o : Alu2)
  /-- SNE (R178). Writes 1 if ra differs from rb. -/
  | sne (o : Alu2)
  /-- MIN (R178). Signed minimum. -/
  | min (o : Alu2)
  /-- MAX (R178). Signed maximum. -/
  | max (o : Alu2)
  /-- MINU (R178). Unsigned minimum, zero-extended. -/
  | minu (o : Alu2)
  /-- MAXU (R178). Unsigned maximum, zero-extended. -/
  | maxu (o : Alu2)
  /-- CLZ (R178). Counts leading zeros of ra at width n. -/
  | clz (o : Alu1)
  /-- CTZ (R178). Counts trailing zeros of ra at width n. -/
  | ctz (o : Alu1)
  /-- POPC (R178). Counts the ones of ra at width n. -/
  | popc (o : Alu1)
  /-- BREV (R178). Reverses the bits of ra within n bits. -/
  | brev (o : Alu1)
  /-- BSWAP (R178). Reverses the bytes of ra within n bits. -/
  | bswap (o : Alu1)
  /-- SEXT (R178). Sign-extends the low n bits of ra. -/
  | sext (o : Alu1)
  /-- ZEXT (R178). Zero-extends the low n bits of ra. -/
  | zext (o : Alu1)
  /-- ADDI (R179). Adds a sign-extended immediate to ra. -/
  | addi (o : ImmI)
  /-- ANDI (R179). ANDs ra with a sign-extended immediate. -/
  | andi (o : ImmI)
  /-- ORI (R179). ORs ra with a zero-extended immediate. -/
  | ori (o : ImmI)
  /-- XORI (R179). XORs ra with a zero-extended immediate. -/
  | xori (o : ImmI)
  /-- SLLI (R180). Shifts all 64 bits of ra left by an immediate amount. -/
  | slli (o : ShiftI)
  /-- SRLI (R180). Logical shift right of ra by an immediate amount. -/
  | srli (o : ShiftI)
  /-- SRAI (R180). Arithmetic shift right of ra by an immediate amount. -/
  | srai (o : ShiftI)
  /-- SLTI (R179). Writes 1 if ra is below the immediate, signed. -/
  | slti (o : ImmI)
  /-- SLTUI (R179). Writes 1 if ra is below the sign-extended immediate, unsigned. -/
  | sltui (o : ImmI)
  /-- LIH (R179). Places the immediate field at the top of rd with zeros below. -/
  | lih (o : ImmU)
  /-- ADDPC (R179). Writes the word's own address plus a sign-extended offset. -/
  | addpc (o : ImmU)
  /-- MUL (R181). Low n bits of the product. -/
  | mul (o : Alu2)
  /-- MULH (R181). High half of the signed 2n-bit product. -/
  | mulh (o : Alu2)
  /-- MULHU (R181). High half of the unsigned 2n-bit product. -/
  | mulhu (o : Alu2)
  /-- DIV (R181). Signed division truncated toward zero, holding the context until it writes rd. -/
  | div (o : Alu2)
  /-- DIVU (R181). Unsigned division. -/
  | divu (o : Alu2)
  /-- REM (R181). Signed remainder. -/
  | rem (o : Alu2)
  /-- REMU (R181). Unsigned remainder. -/
  | remu (o : Alu2)
  /-- FADD (R184). Floating addition rounded once. -/
  | fadd (o : Fp2)
  /-- FSUB (R184). Floating subtraction rounded once. -/
  | fsub (o : Fp2)
  /-- FMUL (R184). Floating multiplication rounded once. -/
  | fmul (o : Fp2)
  /-- FDIV (R184). Floating division rounded once. -/
  | fdiv (o : Fp2)
  /-- FSQRT (R184). Floating square root rounded once. -/
  | fsqrt (o : Fp1)
  /-- FMIN (R184). IEEE minimum of two floating values. -/
  | fmin (o : Fp2)
  /-- FMAX (R184). IEEE maximum of two floating values. -/
  | fmax (o : Fp2)
  /-- FCMP_EQ (R185). Writes 1 when the operands are equal. -/
  | fcmpEq (o : Fp2)
  /-- FCMP_LT (R185). Writes 1 when ra is less than rb. -/
  | fcmpLt (o : Fp2)
  /-- FCMP_LE (R185). Writes 1 when ra is at most rb. -/
  | fcmpLe (o : Fp2)
  /-- FCMP_UN (R185). Writes 1 when either operand is a NaN. -/
  | fcmpUn (o : Fp2)
  /-- FCLASS (R185). Writes the sign-and-kind word of the operand. -/
  | fclass (o : Fp1)
  /-- FCVT_TO_FLOAT (R186). Converts a source of the type coded in rb to the floating type sz. -/
  | fcvtToFloat (o : FpCvt)
  /-- FCVT_TO_SIGNED (R186). Converts a floating source to a signed integer of width sz. -/
  | fcvtToSigned (o : FpCvt)
  /-- FCVT_TO_UNSIGNED (R186). Converts a floating source to an unsigned integer of width sz. -/
  | fcvtToUnsigned (o : FpCvt)
  /-- FSIGN_B (R187). Magnitude of ra with the sign of rb. -/
  | fsignB (o : Fp2)
  /-- FSIGN_NB (R187). Magnitude of ra with the inverse of rb's sign. -/
  | fsignNb (o : Fp2)
  /-- FSIGN_X (R187). Magnitude of ra with the XOR of both signs. -/
  | fsignX (o : Fp2)
  /-- MADD (R182). rd := ra times rb plus rc modulo 2^64. -/
  | madd (o : Quad)
  /-- SEL (R182). Selects ra when rc is nonzero, else rb. -/
  | sel (o : Quad)
  /-- FMA (R188). Fused multiply-add rounded once in the type given by fn. -/
  | fma (o : QuadFp)
  /-- CRR (R189). Reads a control register into rd. -/
  | crr (o : CrRead)
  /-- CRW (R189). Writes a control register field by field. -/
  | crw (o : CrWrite)
  /-- CRS (R189). Indivisibly sets bits of a control register and returns the old value. -/
  | crs (o : CrMod)
  /-- CRC (R189). Indivisibly clears bits of a control register and returns the old value. -/
  | crc (o : CrMod)
  /-- LD (R203). Weak load of 1 to 8 bytes, marking rt empty until the value arrives. -/
  | ld (o : MemM)
  /-- ST (R203). Weak store of 1 to 8 bytes into the store buffer. -/
  | st (o : MemM)
  /-- LDS (R204). Strong load of a scope, issued after earlier strong work has performed. -/
  | lds (o : MemS)
  /-- STS (R204). Strong store of a scope. -/
  | sts (o : MemS)
  /-- LDV (R206). Weak load through a view after the checks of R77. -/
  | ldv (o : ViewLd)
  /-- STV (R206). Weak store through a view that carries W. -/
  | stv (o : ViewSt)
  /-- LDP (R205). Loads a 16-byte aligned pair into an even register pair. -/
  | ldp (o : MemP)
  /-- STP (R205). Stores an even register pair to 16 aligned bytes. -/
  | stp (o : MemP)
  /-- PREF (R207). Asks for a line to be brought into a cache level; dropped on any fault but ILLEGAL, EMPTY_READ or VIEW_CLASS. -/
  | pref (o : Prefetch)
  /-- CFLUSH_DROP (R216). Drops a line from the cluster's L1s and cluster cache. -/
  | cflushDrop (o : KeeperM)
  /-- CFLUSH_HOME (R216). Writes a dirty line back at its home slice and drops it. -/
  | cflushHome (o : KeeperM)
  /-- CFLUSH_CLEAN (R216). Writes a dirty line back at its home slice and keeps it. -/
  | cflushClean (o : KeeperM)
  /-- CINV_LINE (R217). Drops one line from every instruction cache of the cluster. -/
  | cinvLine (o : KeeperM)
  /-- CINV_ALL (R217). Drops every line of the cluster's instruction caches. -/
  | cinvAll
  /-- TLBI_PAGE (R218). Drops the cluster's translations covering one page and waits for their accesses. -/
  | tlbiPage (o : KeeperM)
  /-- TLBI_POUND (R218). Drops every translation of the resident pound in the cluster. -/
  | tlbiPound
  /-- TLBI_ALL (R218). Drops every translation in the cluster. -/
  | tlbiAll
  /-- BANKMODE (R219). Keeper changes a bank's mode under R55, completing when BUSY clears. -/
  | bankmode (o : KeeperB)
  /-- ATOM_ADD (R209). Return atomic add at the home. -/
  | atomAdd (o : Atomic)
  /-- ATOM_AND (R209). Return atomic AND. -/
  | atomAnd (o : Atomic)
  /-- ATOM_OR (R209). Return atomic OR. -/
  | atomOr (o : Atomic)
  /-- ATOM_XOR (R209). Return atomic XOR. -/
  | atomXor (o : Atomic)
  /-- ATOM_MIN (R209). Return atomic signed minimum. -/
  | atomMin (o : Atomic)
  /-- ATOM_MAX (R209). Return atomic signed maximum. -/
  | atomMax (o : Atomic)
  /-- ATOM_MINU (R209). Return atomic unsigned minimum. -/
  | atomMinu (o : Atomic)
  /-- ATOM_MAXU (R209). Return atomic unsigned maximum. -/
  | atomMaxu (o : Atomic)
  /-- ATOM_SWAP (R209). Return atomic swap. -/
  | atomSwap (o : Atomic)
  /-- ATOM_CAS (R209). Return atomic compare-and-swap. -/
  | atomCas (o : Atomic)
  /-- ATOM_INCB (R209). Return atomic bounded increment. -/
  | atomIncb (o : Atomic)
  /-- ATOM_DECB (R209). Return atomic decrement that stops at zero. -/
  | atomDecb (o : Atomic)
  /-- ATOM_FADD (R209). Return atomic floating add in RNE. -/
  | atomFadd (o : Atomic)
  /-- ATOM_FMIN (R209). Return atomic floating minimum. -/
  | atomFmin (o : Atomic)
  /-- ATOM_FMAX (R209). Return atomic floating maximum. -/
  | atomFmax (o : Atomic)
  /-- ATOM_FADD_P2 (R209). Return atomic packed floating add on two halves. -/
  | atomFaddP2 (o : Atomic)
  /-- ATOM_FMIN_P2 (R209). Return atomic packed floating minimum. -/
  | atomFminP2 (o : Atomic)
  /-- ATOM_FMAX_P2 (R209). Return atomic packed floating maximum. -/
  | atomFmaxP2 (o : Atomic)
  /-- ATN_ADD (R211). No-return atomic add entering the atomic queue. -/
  | atnAdd (o : Atomic)
  /-- ATN_AND (R211). No-return atomic AND. -/
  | atnAnd (o : Atomic)
  /-- ATN_OR (R211). No-return atomic OR. -/
  | atnOr (o : Atomic)
  /-- ATN_XOR (R211). No-return atomic XOR. -/
  | atnXor (o : Atomic)
  /-- ATN_MIN (R211). No-return atomic signed minimum. -/
  | atnMin (o : Atomic)
  /-- ATN_MAX (R211). No-return atomic signed maximum. -/
  | atnMax (o : Atomic)
  /-- ATN_MINU (R211). No-return atomic unsigned minimum. -/
  | atnMinu (o : Atomic)
  /-- ATN_MAXU (R211). No-return atomic unsigned maximum. -/
  | atnMaxu (o : Atomic)
  /-- ATN_SWAP (R211). No-return atomic swap. -/
  | atnSwap (o : Atomic)
  /-- ATN_CAS (R211). No-return atomic compare-and-swap. -/
  | atnCas (o : Atomic)
  /-- ATN_INCB (R211). No-return atomic bounded increment. -/
  | atnIncb (o : Atomic)
  /-- ATN_DECB (R211). No-return atomic decrement that stops at zero. -/
  | atnDecb (o : Atomic)
  /-- ATN_FADD (R211). No-return atomic floating add. -/
  | atnFadd (o : Atomic)
  /-- ATN_FMIN (R211). No-return atomic floating minimum. -/
  | atnFmin (o : Atomic)
  /-- ATN_FMAX (R211). No-return atomic floating maximum. -/
  | atnFmax (o : Atomic)
  /-- ATN_FADD_P2 (R211). No-return atomic packed floating add. -/
  | atnFaddP2 (o : Atomic)
  /-- ATN_FMIN_P2 (R211). No-return atomic packed floating minimum. -/
  | atnFminP2 (o : Atomic)
  /-- ATN_FMAX_P2 (R211). No-return atomic packed floating maximum. -/
  | atnFmaxP2 (o : Atomic)
  /-- CAS128 (R212). 16-byte single-copy compare-and-swap at the home. -/
  | cas128 (o : Cas128)
  /-- FENCE_ACQ (R118). Waits for earlier loads at the scope, then acquires. -/
  | fenceAcq (scope : BitVec 3)
  /-- FENCE_REL (R118). Orders every earlier access before later stores, atomics, sends and fences at the scope. -/
  | fenceRel (scope : BitVec 3)
  /-- FENCE_SC (R118). Acquire and release plus store-before-load order, with a place in the fence order. -/
  | fenceSc (scope : BitVec 3)
  /-- FENCE_X (R119). Orders accesses of one path class before those of another. -/
  | fenceX (o : FenceX)
  /-- CRNEW (R75). Requests a new covered region of the Colander, leaving wd empty until the answer. -/
  | crnew (o : ViewNew)
  /-- VSPLIT (R75). Splits a live view at an offset into two views. -/
  | vsplit (o : ViewSplit)
  /-- VSHARE (R75). Requests a new handle copying a view without W. -/
  | vshare (o : ViewTwo)
  /-- VDEMOTE (R75). Clears the named rights of a live view. -/
  | vdemote (o : ViewMask)
  /-- VNARROW (R75). Shrinks a view's interval at once and sends its notice. -/
  | vnarrow (o : ViewNarrow)
  /-- VDROP (R75). Nulls a view and releases its whole interval. -/
  | vdrop (ws : BitVec 3)
  /-- VQUERY (R75). Reads a selected part of a view into an x register. -/
  | vquery (o : ViewQuery)
  /-- VMOVE (R75). Moves a view between registers, nulling the source. -/
  | vmove (o : ViewTwo)
  /-- QCFG_AFF (R238). Configures an affine stream from a 32-byte descriptor. -/
  | qcfgAff (o : StreamW)
  /-- QCFG_SKIP (R238). Configures a skip stream and places it at its first kept step. -/
  | qcfgSkip (o : StreamW)
  /-- QNEXT (R239). Steps a stream a given number of times. -/
  | qnext (o : StreamW)
  /-- QRD (R239). Reads a selected part of a stream's state. -/
  | qrd (o : StreamRd)
  /-- REP (R241). Captures 1 to 8 words and has the sequencer reissue them count times with staggered fields. -/
  | rep (o : RepW)
  /-- REPX (R241). As REP, but exits at a stream's DONE or runs without limit for count 0. -/
  | repx (o : RepW)
  /-- VADD (R247). Lane-wise integer add. -/
  | vadd (o : Vec2)
  /-- VSUB (R247). Lane-wise integer subtract. -/
  | vsub (o : Vec2)
  /-- VMUL (R247). Lane-wise low product. -/
  | vmul (o : Vec2)
  /-- VMULH (R247). Lane-wise high signed product. -/
  | vmulh (o : Vec2)
  /-- VDOT (R248). Accumulates exact four-term dot products into wider lanes of vd. -/
  | vdot (o : Vec2)
  /-- VMIN (R247). Lane-wise signed minimum. -/
  | vmin (o : Vec2)
  /-- VMAX (R247). Lane-wise signed maximum. -/
  | vmax (o : Vec2)
  /-- VAND (R247). Lane-wise AND. -/
  | vand (o : Vec2)
  /-- VOR (R247). Lane-wise OR. -/
  | vor (o : Vec2)
  /-- VXOR (R247). Lane-wise XOR. -/
  | vxor (o : Vec2)
  /-- VSLL (R247). Lane-wise shift left. -/
  | vsll (o : Vec2)
  /-- VSRL (R247). Lane-wise logical shift right. -/
  | vsrl (o : Vec2)
  /-- VSRA (R247). Lane-wise arithmetic shift right. -/
  | vsra (o : Vec2)
  /-- VABS (R247). Lane-wise absolute value modulo 2^z. -/
  | vabs (o : Vec1)
  /-- VADDS (R247). Lane-wise saturating add. -/
  | vadds (o : Vec2)
  /-- VSUBS (R247). Lane-wise saturating subtract. -/
  | vsubs (o : Vec2)
  /-- VFADD (R249). Lane-wise floating add. -/
  | vfadd (o : Vec2)
  /-- VFSUB (R249). Lane-wise floating subtract. -/
  | vfsub (o : Vec2)
  /-- VFMUL (R249). Lane-wise floating multiply. -/
  | vfmul (o : Vec2)
  /-- VFDIV (R249). Lane-wise floating divide. -/
  | vfdiv (o : Vec2)
  /-- VFSQRT (R249). Lane-wise floating square root. -/
  | vfsqrt (o : Vec1)
  /-- VFMIN (R249). Lane-wise IEEE minimum. -/
  | vfmin (o : Vec2)
  /-- VFMAX (R249). Lane-wise IEEE maximum. -/
  | vfmax (o : Vec2)
  /-- VFMA (R249). Lane-wise fused multiply-add with vd as addend. -/
  | vfma (o : Vec2)
  /-- VLD (R253). Weak 16-byte vector load at base plus scaled offset. -/
  | vld (o : VecMem)
  /-- VST (R253). Weak 16-byte vector store. -/
  | vst (o : VecStore)
  /-- VLDQ (R253). Vector load at a stream's address, stepping the stream. -/
  | vldq (o : VecStream)
  /-- VSTQ (R253). Vector store at a stream's address, stepping the stream. -/
  | vstq (o : VecStreamSt)
  /-- VGATH (R253). Gathers lanes from base plus scaled indices. -/
  | vgath (o : Vec2)
  /-- VSCAT (R253). Scatters lanes in ascending lane order. -/
  | vscat (o : VecScatter)
  /-- VLDF (R254). Loads elements decoded by the page format and converted to the type. -/
  | vldf (o : Vec1)
  /-- VBCAST (R253). Loads one element into every active lane. -/
  | vbcast (o : VecMem)
  /-- VSHUF (R255). Permutes lanes of va by indices in vb. -/
  | vshuf (o : Vec2)
  /-- VZIP (R255). Interleaves lanes of va and vb. -/
  | vzip (o : Vec2)
  /-- VUZP (R255). De-interleaves lanes of va and vb. -/
  | vuzp (o : Vec2)
  /-- VSLIDE (R255). Takes N lanes starting at k from the pair {vb, va}. -/
  | vslide (o : VecSlide)
  /-- VEXT (R255). Moves one lane to an x register. -/
  | vext (o : VecExt)
  /-- VINS (R255). Inserts an x register into one lane. -/
  | vins (o : VecIns)
  /-- VSPLAT (R255). Copies an x register into every active lane. -/
  | vsplat (o : VecSplat)
  /-- VRED_ADD (R256). Reduces the lanes by addition into lane 0. -/
  | vredAdd (o : Vec1)
  /-- VRED_MIN (R256). Reduces the lanes by minimum into lane 0. -/
  | vredMin (o : Vec1)
  /-- VRED_MAX (R256). Reduces the lanes by maximum into lane 0. -/
  | vredMax (o : Vec1)
  /-- VCVT (R257). Converts lanes between types. -/
  | vcvt (o : VecCvt)
  /-- VPACK (R258). Narrows two registers' lanes by saturation. -/
  | vpack (o : Vec2)
  /-- VUNPK (R258). Sign-extends one half of va to wider lanes. -/
  | vunpk (o : VecUnpk)
  /-- VCBX (R259). Expands CQ4 indices with a scale and super-scale. -/
  | vcbx (o : Vec2)
  /-- VBXQ (R260). Quantises 256 bf16 values into one BX16 block in memory. -/
  | vbxq (o : BlockQ)
  /-- VCQ4 (R260). Quantises 256 elements into one CQ4 super-block in memory. -/
  | vcq4 (o : BlockC)
  /-- VEXP2 (R250). Lane-wise correctly rounded 2^x. -/
  | vexp2 (o : Vec1)
  /-- VLOG2 (R250). Lane-wise correctly rounded log2 x. -/
  | vlog2 (o : Vec1)
  /-- VRCP (R250). Lane-wise correctly rounded reciprocal. -/
  | vrcp (o : Vec1)
  /-- VRSQ (R250). Lane-wise correctly rounded reciprocal square root. -/
  | vrsq (o : Vec1)
  /-- VSIN (R250). Lane-wise sin 2πx. -/
  | vsin (o : Vec1)
  /-- VCOS (R250). Lane-wise cos 2πx. -/
  | vcos (o : Vec1)
  /-- VCMP_EQ (R261). Mask of lanes that are equal. -/
  | vcmpEq (o : Vec2)
  /-- VCMP_NE (R261). Mask of lanes that differ. -/
  | vcmpNe (o : Vec2)
  /-- VCMP_LT (R261). Mask of lanes where a < b. -/
  | vcmpLt (o : Vec2)
  /-- VCMP_LE (R261). Mask of lanes where a ≤ b. -/
  | vcmpLe (o : Vec2)
  /-- VCMP_LTU (R261). Mask of lanes where a < b unsigned. -/
  | vcmpLtu (o : Vec2)
  /-- VCMP_LEU (R261). Mask of lanes where a ≤ b unsigned. -/
  | vcmpLeu (o : Vec2)
  /-- VMAND (R262). AND of two 128-bit masks. -/
  | vmand (o : Mask2)
  /-- VMOR (R262). OR of two masks. -/
  | vmor (o : Mask2)
  /-- VMXOR (R262). XOR of two masks. -/
  | vmxor (o : Mask2)
  /-- VMNOT (R262). NOT of a mask. -/
  | vmnot (o : Mask1)
  /-- VMCNT (R262). Counts the ones of the low N mask bits. -/
  | vmcnt (o : MaskCount)
  /-- VMFST (R262). Index of the lowest one of the low N mask bits. -/
  | vmfst (o : MaskCount)
  /-- MGANG (R268). Checks its descriptor and arrives at the cluster-row barrier of the gang. -/
  | mgang (o : Gang)
  /-- MMAS (R268). Starts a one-core matrix operation with no barrier. -/
  | mmas (o : GangOne)
  /-- MZERO (R265). Clears a tile's VALID and KSTEPS. -/
  | mzero (acc : BitVec 3)
  /-- MDRAIN_I64 (R273). Decodes a tile and stores 64-bit integers to the own local store. -/
  | mdrainI64 (o : Drain)
  /-- MDRAIN_I32S (R273). Decodes a tile and stores saturated 32-bit integers. -/
  | mdrainI32s (o : Drain)
  /-- MDRAIN_F32 (R273). Decodes a tile and stores scaled f32 values. -/
  | mdrainF32 (o : Drain)
  /-- MDRAIN_F32A (R273). Decodes a tile and adds scaled f32 values into memory. -/
  | mdrainF32a (o : Drain)
  /-- MDRAIN_BF16 (R273). Decodes a tile and stores bf16 values. -/
  | mdrainBf16 (o : Drain)
  /-- MDRAINC (R274). Decodes a tile and hands its values to a copy engine as one command. -/
  | mdrainc (o : DrainC)
  /-- ARD (R265). Reads one tile word without decoding. -/
  | ard (o : AccRead)
  /-- AWR (R265). Writes one tile word unchecked. -/
  | awr (o : AccWrite)
  /-- ACHK (R265). Decodes all tile words, correcting, and counts corrections. -/
  | achk (o : AccCheck)
  /-- ACFG (R275). Keeper sets a core's degraded-mode configuration. -/
  | acfg (o : AccCfg)
  /-- CBLD (R276). Loads the core's alternate 16-level codebook. -/
  | cbld (ra : BitVec 5)
  /-- HINT_IMM (R157). Widens the immediate of its target by 24 bits. -/
  | hintImm (payload : BitVec 24)
  /-- HINT_MOD (R158). Overrides rounding, scope or cache policy of its target. -/
  | hintMod (o : HintMod)
  /-- HINT_SCHED (R160). Raises the context's issue priority for the next n issues. -/
  | hintSched (o : HintSched)
  /-- BEQ (R191). Branches when ra equals rb. -/
  | beq (o : Branch)
  /-- BNE (R191). Branches when ra differs from rb. -/
  | bne (o : Branch)
  /-- BLT (R191). Branches when ra is less than rb signed. -/
  | blt (o : Branch)
  /-- BGE (R191). Branches when ra is at least rb signed. -/
  | bge (o : Branch)
  /-- BLTU (R191). Branches when ra is less than rb unsigned. -/
  | bltu (o : Branch)
  /-- BGEU (R191). Branches when ra is at least rb unsigned. -/
  | bgeu (o : Branch)
  /-- JAL (R192). Links PC+4 into x31 and jumps by a word offset. -/
  | jal (off : BitVec 26)
  /-- JALR (R192). Jumps to ra plus an immediate, linking into rd. -/
  | jalr (o : ImmI)
  /-- END (R193). Ends the body after its empty registers fill, adds FP deltas, drops views and frees the context. -/
  | endBody
  /-- TRAP (R194). Raises TRAP with a code, freezing the context. -/
  | trap (code : BitVec 16)
  /-- BKPT (R194). Raises BKPT with a code, freezing the context. -/
  | bkpt (code : BitVec 16)
  /-- SVC (R195). Sends a service request to the keeper's SVCCH and marks x10 empty. -/
  | svc (code : BitVec 16)
  /-- SEND (R221). Places a plain message of 1 to 4 words in the outbox, clearing a matching OWE. -/
  | send (o : SendW)
  /-- SENDV (R221). Places a view in a message and nulls the register. -/
  | sendv (o : SendView)
  /-- SENDM_PM (R221). Sends a pair-merge ladle arrival of two words. -/
  | sendmPm (o : SendLadle)
  /-- SENDM_IADD (R221). Sends an integer-add ladle arrival. -/
  | sendmIadd (o : SendLadle)
  /-- SENDM_F32 (R221). Sends an FP32-add ladle arrival. -/
  | sendmF32 (o : SendLadle)
  /-- SENDM_F64 (R221). Sends an FP64-add ladle arrival. -/
  | sendmF64 (o : SendLadle)
  /-- CHNEW (R228). Allocates the lowest free channel slot and returns its name or a failure code. -/
  | chnew (o : Reg2)
  /-- CHFREE (R228). Frees a channel slot, removing its patterns and stepping its generation. -/
  | chfree (o : Reg1)
  /-- CHCFG (R228). Changes a FIFO's depth or a ladle's threshold when empty. -/
  | chcfg (o : Reg2)
  /-- CHCNT (R228). Reads a channel's count word. -/
  | chcnt (o : Reg1)
  /-- PATSET (R228). Installs a pattern in a pattern slot. -/
  | patset (o : Reg2)
  /-- PATCLR (R228). Removes a pattern. -/
  | patclr (o : Reg1)
  /-- PATRANK (R228). Changes a pattern's rank and FAIR flag. -/
  | patrank (o : Reg2)
  /-- RELAY (R228). Retargets a relay channel. -/
  | relay (o : Reg2)
  /-- SPAWN (R230). Creates a work item with a hint and radius and places it in the outbox. -/
  | spawn (o : SpawnW)
  /-- HSTART (R231). Control context starts the lowest free helper or waits for one. -/
  | hstart (o : HstartW)
  /-- HSTAT (R232). Reads the core's outbox, spill, spawn-queue and context status. -/
  | hstat (rd : BitVec 5)
  /-- CBCFG_SET (R234). Configures a ring, making every slot FREE and STATE RUN. -/
  | cbcfgSet (o : Reg2)
  /-- CBCFG_STATE (R234). Sets a ring's STATE to RUN or QUIESCED. -/
  | cbcfgState (o : Reg2)
  /-- CBCFG_REBUILD (R234). Frees mistagged slots and recounts a quiesced ring. -/
  | cbcfgRebuild (o : Reg2)
  /-- CBCFG_CLEAR (R234). Unconfigures a quiesced ring. -/
  | cbcfgClear (o : Reg2)
  /-- CBRET (R235). Returns a FILLED slot to its bank and waits for the answer. -/
  | cbret (o : Src1)
  /-- CBCNT (R235). Reads a ring's counter word from its bank. -/
  | cbcnt (o : Reg1)
  /-- CBAUDIT (R236). Checks a ring's invariant and tags at its bank. -/
  | cbaudit (o : Reg1)
  /-- RNFWD (R277). Converts an integer to its residue word. -/
  | rnfwd (o : Fp1)
  /-- RNREV (R278). Decodes a residue word, correcting or faulting at the next issue. -/
  | rnrev (o : Reg1)
  /-- RNADD (R277). Channel-wise residue addition. -/
  | rnadd (o : Reg2)
  /-- RNSUB (R277). Channel-wise residue subtraction. -/
  | rnsub (o : Reg2)
  /-- RNMUL (R277). Channel-wise residue multiplication. -/
  | rnmul (o : Reg2)
  /-- RNCHK (R278). Writes the decode outcome word without correcting. -/
  | rnchk (o : Reg1)
  /-- CPY (R282). Sends a converting copy command to the core's engine. -/
  | cpy (o : CopyW)
  /-- CPYA (R282). Sends an accumulating copy command. -/
  | cpya (o : CopyW)
  /-- CPYW (R282). Sends a raw copy into a weight slice. -/
  | cpyw (o : CopyW)
  /-- CPYG (R282). Sends a row-gather copy command. -/
  | cpyg (o : CopyW)
  /-- WEIRNEW (R286). Requests a new weir bound to a channel. -/
  | weirnew (o : Reg1)
  /-- WEIRADD (R286). Sends a signed amount to add to a weir's COUNT. -/
  | weiradd (o : WeirAdd)
  /-- WEIRARM (R286). Arms a weir, keeping it after it fires. -/
  | weirarm (o : Src1)
  /-- WEIRARM_FREE (R286). Arms a weir that frees itself when it fires. -/
  | weirarmFree (o : Src1)
  /-- WEIRRD (R286). Reads a weir's state word. -/
  | weirrd (o : Reg1)
  /-- SLICEOCC_WRITE (R62). A write to SLICEOCCn sets PEAK to the slice's current QDEPTH. -/
  | sliceoccWrite (stack : Nat) (slice : Nat)
  /-- CB_RETURN_APPLY (R57). The bank applies a CBRET, freeing the slot or answering CB_AUDIT. -/
  | cbReturnApply (cluster : Nat)
  /-- REP_WORD_ISSUE (R241). The repetition sequencer issues one captured word of a pass. -/
  | repWordIssue (core : Nat)
  /-- ACFG_APPLY (R275). A waiting configuration change takes effect once no tile of the core is BUSY. -/
  | acfgApply (core : Nat)
  /-- ILLEGAL_WORD (R176). A word that is no instruction raises ILLEGAL or PRIV through the fault path. -/
  | illegalWord (w : Word32)
  /-- PACKAGE_RESET (R9). Package reset sets every register to its reset value and every slot generation to 1. -/
  | packageReset
  /-- MESSAGE_ADMIT (R31). The outbox hands its oldest message to the router once the context's earlier accesses have performed at its scope. -/
  | messageAdmit (core : Nat)
  /-- MESSAGE_ACCEPT (R23). The home checks an arriving message under R10 and R222, numbers it and queues, combines or forwards it. -/
  | messageAccept (k : Nat)
  /-- OVERFLOW_MOVE_BACK (R33). The home moves one overflow message back into its channel as space opens. -/
  | overflowMoveBack (core : Nat) (slot : Nat)
  /-- RELAY_FORWARD (R14). A relay forwards an arrival to its target as a new release from its home. -/
  | relayForward (core : Nat)
  /-- SLUICE_EVALUATE (R20). The sluice picks at most one enabled pattern by rank, slot and FAIR rotation. -/
  | sluiceEvaluate (core : Nat)
  /-- CONTEXT_LOADED (R24). LOADING ends and the body starts with its initial state and acquire. -/
  | contextLoaded (core : Nat) (ctx : Nat)
  /-- HSTART_RETRY (R231). A waiting HSTART retries in a cycle when a helper frees. -/
  | hstartRetry (core : Nat)
  /-- SPAWN_ITEM_ARRIVE (R28). A walking spawn item reaches a core that takes it or passes it on. -/
  | spawnItemArrive (k : Nat)
  /-- REGISTER_FILL (R156). A producer's value arrives and fills its empty destination, waking a waiting context. -/
  | registerFill (core : Nat) (ctx : Nat) (k : Nat)
  /-- STORE_BUFFER_DRAIN (R201). The oldest store leaves the core's store buffer toward its point of service. -/
  | storeBufferDrain (core : Nat)
  /-- ATOMIC_QUEUE_SEND (R115). The atomic queue sends its oldest entry once earlier strong work has performed. -/
  | atomicQueueSend (core : Nat)
  /-- HOME_ATOMIC_APPLY (R209). A home applies an atomic in the location's single total order. -/
  | homeAtomicApply (k : Nat)
  /-- SLICE_REQUEST_ACCEPT (R62). A home slice accepts a request into its 64-entry queue. -/
  | sliceRequestAccept (k : Nat)
  /-- SLICE_ANSWER (R291). A slice answers a queued request, leaving QDEPTH. -/
  | sliceAnswer (stack : Nat) (slice : Nat)
  /-- BANK_MODE_DONE (R55). A bank finishes zeroing, takes its new mode and clears BUSY. -/
  | bankModeDone (cluster : Nat) (bank : Nat)
  /-- CB_SLOT_START (R57). An engine starts filling slot FILLPTR of a running ring. -/
  | cbSlotStart (stack : Nat) (engine : Nat)
  /-- CB_SLOT_FILLED (R57). The engine writes a slot's last byte and the slot becomes FILLED. -/
  | cbSlotFilled (stack : Nat) (engine : Nat)
  /-- SLICE_COUNTER_FLUSH (R92). Every 2^16 cycles a slice adds its FP-atomic deltas to region counters. -/
  | sliceCounterFlush (stack : Nat) (slice : Nat)
  /-- FPUNION_UPDATE (R89). Within 16 cycles the cluster's FPUNION sets the raised flag. -/
  | fpunionUpdate (cluster : Nat)
  /-- COLANDER_ALLOCATE (R70). The Colander handles a CRNEW request, allocating spans and charging the budget or refusing. -/
  | colanderAllocate (stack : Nat)
  /-- COLANDER_SPLIT (R75). The Colander handles a VSPLIT request. -/
  | colanderSplit (stack : Nat)
  /-- COLANDER_SHARE (R75). The Colander handles a VSHARE request. -/
  | colanderShare (stack : Nat)
  /-- COLANDER_NOTICE (R81). The Colander applies a narrowing or drop notice to its coverage tree. -/
  | colanderNotice (stack : Nat)
  /-- COLANDER_ANSWER (R75). A Colander answer reaches the core and fills the view registers. -/
  | colanderAnswer (k : Nat)
  /-- VIEW_NOTICE_SEND (R80). A held notice leaves once earlier accesses through the view have completed. -/
  | viewNoticeSend (core : Nat)
  /-- WATCHDOG_EXPIRE (R37). A run counter reaches zero and the context is force-saved, FROZEN, with a WATCHDOG packet. -/
  | watchdogExpire (core : Nat) (ctx : Nat)
  /-- SLICE_END_SIGNAL (R38). A core receives the slice-end signal and stops firing. -/
  | sliceEndSignal (core : Nat)
  /-- GRACE_EXPIRE (R38). The grace interval ends and live contexts begin to be saved. -/
  | graceExpire (core : Nat)
  /-- CONTEXT_SAVE (R369). One context is saved at instruction level in 48 cycles. -/
  | contextSave (core : Nat)
  /-- MESSAGE_STATE_SAVE (R38). The core saves the pound's message state to the pinned save area. -/
  | messageStateSave (core : Nat)
  /-- POUND_RESUME (R38). A core restores saved state, resumes contexts and lets the sluice evaluate. -/
  | poundResume (core : Nat)
  /-- DEFERRED_FAULT_TAKE (R40). A fault detected after retirement is taken at the context's next issue. -/
  | deferredFaultTake (core : Nat) (ctx : Nat)
  /-- FAULT_PACKET_RESEND (R359). A held packet is sent again when the fault channel has room. -/
  | faultPacketResend (core : Nat)
  /-- TRANSLATION_WALK (R343). A walker queries the shard keeper, then the range B-tree, for a TLB miss. -/
  | translationWalk (cluster : Nat)
  /-- KEEPER_PT_LOOKUP (R346). The keeper's lookup unit answers a walker from the bucket. -/
  | keeperPtLookup (cluster : Nat)
  /-- MISSDONE (R350). The keeper closes a pending miss: walk again or end the accesses with PAGE. -/
  | missdone (cluster : Nat) (value : Word)
  /-- SIDE_LOG_REPLAY (R353). The memory unit replays a mapped page's side-log entries in log order. -/
  | sideLogReplay (core : Nat) (k : Nat)
  /-- ENGINE_COMMAND_START (R279). A copy engine takes the next command in arrival order. -/
  | engineCommandStart (stack : Nat) (engine : Nat)
  /-- ENGINE_COMMAND_DONE (R283). A copy engine finishes or stops a command. -/
  | engineCommandDone (stack : Nat) (engine : Nat)
  /-- WEIR_CHARGE (R285). A command's byte charge is added to its weir's COUNT. -/
  | weirCharge (stack : Nat)
  /-- WEIR_SUBTRACT (R285). An engine subtracts accepted bytes from a weir. -/
  | weirSubtract (stack : Nat) (k : Nat)
  /-- WEIR_ADD_APPLY (R286). The weir table applies a WEIRADD amount. -/
  | weirAddApply (stack : Nat)
  /-- WEIR_ARM_APPLY (R286). The weir table arms a weir. -/
  | weirArmApply (stack : Nat)
  /-- WEIR_CREATE (R286). The weir table allocates a weir and answers its handle. -/
  | weirCreate (stack : Nat)
  /-- WEIR_STATE_READ (R286). The weir table answers a state read. -/
  | weirStateRead (stack : Nat)
  /-- GANG_START (R269). The barrier starts the operation when every member has arrived and its array is free. -/
  | gangStart (core : Nat)
  /-- GANG_TIMEOUT (R269). A member's barrier timer reaches zero and it withdraws with GANG_TIMEOUT. -/
  | gangTimeout (core : Nat)
  /-- GANG_OPERATION_DONE (R271). The array finishes and clears the tiles' BUSY. -/
  | gangOperationDone (k : Nat)
  /-- TAGGED_SEND_ACCEPT (R332). A port accepts a tagged send matching an entry and forwards it. -/
  | taggedSendAccept (port : Nat) (asks : UeUse) (payload : (List Word))
  /-- PEER_MESSAGE_RECEIVE (R331). A message from a peer package enters through a port. -/
  | peerMessageReceive (port : Nat) (name : Word) (status : (BitVec 2)) (holds : PeerPayload)
  /-- RMA_WRITE (R336). A host or peer RMA write is checked and applied through the pound's tables. -/
  | rmaWrite (key : Word) (off : Nat) (data : (List Byte))
  /-- RMA_READ (R336). A host or peer RMA read is checked and served. -/
  | rmaRead (key : Word) (off : Nat) (n : Nat)
  /-- RMA_WRITE_COMPLETE (R336). The transport completion is sent once every byte has performed. -/
  | rmaWriteComplete (k : Nat)
  /-- REMOTE_TARGET_ACK (R337). A host, peer or pool target acknowledges an access, performing it. -/
  | remoteTargetAck (k : Nat) (data : Nat) (poison : Bool)
  /-- COMPLETION_ACCEPT (R342). The port accepts a message for a completion endpoint into its batch. -/
  | completionAccept (k : Nat)
  /-- COMPLETION_TIMER_EXPIRE (R342). An endpoint's coalescing timer runs out and the batch is emitted. -/
  | completionTimerExpire (tag : Nat) (endpoint : HostEndpoint)
  /-- ENERGY_CHARGE_POST (R399). A unit posts its charge deltas to the block that supplies the budget. -/
  | energyChargePost (k : Nat)
  /-- ENERGY_INTERVAL_END (R401). At an interval boundary the stack zeroes USED and clears THR. -/
  | energyIntervalEnd (stack : Nat)
  /-- POWER_SAMPLE (R402). The wharf reads module power and adjusts next allotments. -/
  | powerSample (milliwatts : Nat)
  /-- CLAIM (R355). Claims a migration entry for a page, or sets REFUSED. -/
  | claim (stack : Nat) (entry : Nat) (req : Nat) (va : Word)
  /-- START (R355). Starts a claimed migration, entering HOLD. -/
  | start (stack : Nat) (entry : Nat)
  /-- MIG_RELEASE (R355). Ends FORWARD and frees or retires the old frame. -/
  | migRelease (stack : Nat) (entry : Nat)
  /-- CANCEL (R355). Returns a CLAIMED or ABORTED entry to IDLE. -/
  | cancel (stack : Nat) (entry : Nat)
  /-- MIGRATION_HOLD_READY (R355). Every old home slice is holding and the copy begins. -/
  | migrationHoldReady (stack : Nat) (entry : Nat)
  /-- MIGRATION_COPY_DONE (R355). The 64 KiB copy is written and REMAP begins. -/
  | migrationCopyDone (stack : Nat) (entry : Nat)
  /-- MIGRATION_REMAP_DONE (R355). Every keeper has answered the remap and DRAIN begins. -/
  | migrationRemapDone (stack : Nat) (entry : Nat)
  /-- MIGRATION_DRAIN_DONE (R355). The hold is empty and the entry forwards. -/
  | migrationDrainDone (stack : Nat) (entry : Nat)
  /-- DEBUG_WINDOW_WRITE (R362). A keeper write to a context field; to an empty x register it fills it. -/
  | debugWindowWrite (core : Nat) (offset : Nat) (value : Word)
  /-- STOP (R363). Freezes the selected context at its next group boundary. -/
  | stop (core : Nat)
  /-- DEBUG_RESUME (R363). Returns a FROZEN context to RUNNING or WAITING, optionally via the step slot. -/
  | debugResume (core : Nat) (slot : Bool)
  /-- RESTART (R363). Restarts the body from its entry with its consumed inputs. -/
  | restart (core : Nat)
  /-- KILL (R364). Kills the core: performs stores, drops views, substitutes errors, frees slots. -/
  | kill (core : Nat) (cause : Nat)
  /-- STEP (R363). Lets one group issue and freezes the context again. -/
  | step (core : Nat) (slot : Bool)
  /-- HALT (R365). A core of the flight stops issuing and firing and sets HALTED. -/
  | halt (core : Nat) (flight : Nat)
  /-- FLIGHT_RELEASE (R365). A halted core of the flight resumes. -/
  | flightRelease (core : Nat) (flight : Nat)
  /-- CUT (R370). The wharf sends CUT(n) to every core, engine and entry port of the pound. -/
  | cut (node : Nat) (number : Nat)
  /-- CUT_MARKER_FORWARD (R370). A router sends marker n once it has it on every input. -/
  | cutMarkerForward (core : Nat)
  /-- CORE_CUT_RECORD (R370). A core records its cut state and queues its marker. -/
  | coreCutRecord (core : Nat)
  /-- ENGINE_CUT_RECORD (R370). An engine completes earlier commands, records and sends its marker. -/
  | engineCutRecord (stack : Nat) (engine : Nat)
  /-- PORT_CUT_INJECT (R370). An entry port injects its marker. -/
  | portCutInject (port : Nat)
  /-- LAYOUT_COMMIT (R375). The wharf commits a split or merge through the journal. -/
  | layoutCommit (removed : (List Nat)) (records : (List LayoutRecord))
  /-- WHARF_RESET (R376). After a wharf reset boot code replays or discards the journal. -/
  | wharfReset
  /-- WHARF_BOOT (R385). The wharf verifies and measures its images. -/
  | wharfBoot (digests : (List Nat)) (verified : Bool)
  /-- EXTEND (R385). Extends MR6 or MR7 with an operator value. -/
  | extend (register : Nat) (digest : Nat)
  /-- TOKEN_REFILL (R380). At each PERIOD boundary each device's tokens are refilled up to 2·ALLOT. -/
  | tokenRefill (node : Nat)
  /-- VD_RESUME (R381). The wharf chooses a ready device and resumes it. -/
  | vdResume (node : Nat)
  /-- VD_SLICE_END (R381). The wharf signals the end of a device's slice. -/
  | vdSliceEnd (node : Nat)
  /-- WAY_REBALANCE (R383). Every 2^24 cycles a slice may pass one way between pounds. -/
  | wayRebalance (stack : Nat) (slice : Nat)
  /-- LOCK (R386). Locks a pound and computes the frozen-set digest. -/
  | lock (node : Nat)
  /-- UNLOCK (R386). Unlocks a LOCKED pound or a scrubbed ERROR pound. -/
  | unlock (node : Nat)
  /-- REPORT (R388). Produces a signed interface report with the tenant's nonce. -/
  | report (node : Nat) (nonce : Nat)
  /-- ACCEPT (R386). Moves a LOCKED pound to RUN when the digest matches the last report. -/
  | accept (node : Nat) (digest : Nat)
  /-- TEARDOWN (R386). Scrubs a RUN pound and returns it to UNLOCKED with fresh keys. -/
  | teardown (node : Nat)
  /-- SCRUB (R389). Hands over every cluster, clears save areas and releases keys of an ERROR pound. -/
  | scrub (node : Nat)
  /-- FROZEN_SET_WRITE (R387). A write to the frozen set outside UNLOCKED. -/
  | frozenSetWrite (node : Nat) (reg : DevReg) (value : Word)
  /-- CLEAR (R397). Resets an error-counter block. -/
  | clear (block : Nat)
  /-- ENVELOPE_SET (R402). Sets the module power envelope. -/
  | envelopeSet (watts : Nat)
  /-- HW_ERROR_DETECT (R390). A corrected, uncorrectable error or link retry adds to its bucket and tenant counter. -/
  | hwErrorDetect (place : ErrPlace) (kind : ErrKind)
  /-- BUCKET_LEAK (R390). A bucket's COUNT falls by one every 2^LEAK cycles. -/
  | bucketLeak (unit : BucketId)
  /-- DRAM_ERROR_REPORT (R391). A DRAM error enters the classification table and may request repair. -/
  | dramErrorReport (stack : Nat) (cell : DramCell) (uncorrectable : Bool)
  /-- SPARING_DONE (R392). A row or column sparing completes and its entry leaves the table. -/
  | sparingDone (stack : Nat) (cell : DramCell)
  /-- PAIR_REQUEST_RELEASE (R393). The router releases a paired request once both copies issued it with matching hashes. -/
  | pairRequestRelease (core : Nat)
  /-- MEMORY_CUT (R396). A cut with flights halted, followed by a checkpoint copy. -/
  | memoryCut (node : Nat) (number : Nat)
  /-- ROLLBACK (R396). Restores a pound to its last memory cut and redelivers logged messages. -/
  | rollback (node : Nat)
  /-- REGISTER_WRITE (R4). A write to a register with no row of its own, applied field by field. -/
  | registerWrite (reg : DevReg) (value : Word)
  /-- NGATUR_ASSEMBLE (R299). ngatur assembles a file, reporting diagnostics and writing an object. -/
  | ngaturAssemble (job : AsmJob)
  /-- ATTACH (R313). snivis opens a session on a pound. -/
  | attach (tag : Nat)
  /-- LOAD (R313). snivis launches an object, creating channels and patterns. -/
  | load (image : GofObject) (request : LaunchRequest)
  /-- SYM (R313). Prints a symbol's placed value. -/
  | sym (name : String)
  /-- SLUICE (R313). Prints a core's channel and pattern tables. -/
  | sluice (core : Nat) (chans : Bool)
  /-- TRACE_ARRIVALS (R313). Prints each accepted message of a core. -/
  | traceArrivals (core : Nat) (chan : (Option Nat))
  /-- WATCH_FIRE (R313). Prints each firing with listed registers. -/
  | watchFire (core : Nat) (regs : (List SnvReg))
  /-- POST (R313). Sends a DATA message from the host to each listed channel. -/
  | post (chans : (List Word)) (words : (List Word))
  /-- XLATE (R313). Prints the leaf a core's translation finds. -/
  | xlate (core : Nat) (va : Word)
  /-- REGS (R313). Prints registers of a stopped context. -/
  | regs (core : Nat) (ctx : Nat) (regs : (List SnvReg))
  /-- STREAM (R313). Prints a stream's state. -/
  | streamCmd (core : Nat) (ctx : Nat) (q : Nat)
  /-- MEM (R313). Prints local-store words. -/
  | mem (core : Nat) (off : Nat) (n : Nat) (unit : MemUnit)
  /-- BREAK (R314). Plants a BKPT and invalidates instruction caches. -/
  | breakAt (va : Word) (cores : (List Nat))
  /-- DELETE (R314). Restores a breakpointed word. -/
  | delete (number : Nat)
  /-- CONT (R314). Resumes every context snivis stopped. -/
  | cont
  /-- OCC (R292). Reads SLICEOCC0 to SLICEOCC15 as a core would. -/
  | occ (core : Nat)
  /-- OCC_CLEAR (R292). Writes every SLICEOCCn, resetting PEAK. -/
  | occClear (core : Nat)
  /-- SAMPLE (R292). Reads one slice's register at a fixed interval. -/
  | sample (core : Nat) (sampling : Sampling)
  /-- PREEMPT (R293). Ends a pound's slice with a given grace, optionally at a PC. -/
  | preempt (node : Nat) (grace : Nat) (at_ : (Option (Nat × Word)))
  /-- RESUME_POUND (R293). Resumes a pound under R38. -/
  | resumePound (node : Nat)
  /-- SAVE (R293). Prints a core's part of the save area. -/
  | save (core : Nat)
  /-- TILE (R296). Reads a tile and reports decode outcomes without writing. -/
  | tile (core : Nat) (acc : Nat) (elem : (Option (Nat × Nat)))
  /-- FLIP (R296). XORs one bit of a tile word when no context of the core runs. -/
  | flip (core : Nat) (acc : Nat) (row : Nat) (col : Nat) (bit : Nat)
  /-- ACFG_COMMAND (R297). Has the keeper issue ACFG for a core. -/
  | acfgCommand (core : Nat) (deg : Nat) (fch : Nat)
  /-- RESUME_CONTEXT (R297). Writes a FROZEN context's PC and resumes it. -/
  | resumeContext (cores : (List Nat)) (ctx : Nat) (va : Word)
  /-- TRACE_GANG (R297). Prints each barrier start of a gang. -/
  | traceGang (lead : Nat) (mask : Nat)
  /-- WATCH_PC (R298). Prints registers each time a word issues. -/
  | watchPc (va : Word) (cores : (List Nat)) (regs : (List SnvReg))
  /-- COLANDER (R298). Prints a region's live views and cover counts. -/
  | colander (region : Nat)
  /-- VIEW (R298). Prints the fields of a view register. -/
  | viewCmd (core : Nat) (ctx : Nat) (w : Nat)
  /-- DRAIN_COMPLETE (R273). A drain ends 28 cycles after it began: its writes have been made, the tile's BUSY clears and the MDRAIN retires. -/
  | drainComplete (core : Nat)
  deriving DecidableEq, Repr

end Sys2Proof
end

