-- ==== Sys2Proof/WellFormed.lean ====
section
/-!
DEFINITION. Which operands an operation admits: the reserved values, register pairs, payload runs, element types and
register classes that R131, R152, R154, R164 to R175 and the reference chapters make ILLEGAL, and the numbers of
the units an event names.
-/

namespace Sys2Proof

/-- A scope code in use (R108). -/
def scopeOk (s : BitVec 3) : Bool := decide (s.toNat ≤ 4)

/-- The source type codes of R166. -/
def srcCodeOk (c : BitVec 5) : Bool := decide (c.toNat ≤ 7) || (decide (12 ≤ c.toNat) && decide (c.toNat ≤ 15))

/-- The control-register numbers of R165. -/
def crNumberOk (n : BitVec 12) : Bool :=
  let n := n.toNat
  decide (n ≤ 0x002) || (decide (0x010 ≤ n) && decide (n ≤ 0x012)) || (decide (0x020 ≤ n) && decide (n ≤ 0x025)) ||
    n == 0x030 || n == 0x031 || (decide (0x040 ≤ n) && decide (n ≤ 0x04F)) || (decide (0x100 ≤ n) && decide (n ≤ 0x11F))

/-- A payload run of `n + 1` registers stays within x31, or within m15 with its top field bit zero (R152). -/
def payloadOk (mp : Bool) (rb : BitVec 5) (n : Nat) : Bool := decide (rb.toNat + n ≤ if mp then 15 else 31)

/-- Lanes of an element type (R243). -/
def lanes (et : BitVec 3) : Nat :=
  match et.toNat with
  | 0 => 16 | 1 => 8 | 2 => 4 | 3 => 2 | 4 => 8 | 5 => 8 | 6 => 4 | _ => 2

/-- The register class of a two-source word and the field bit it makes must-be-zero (R154). -/
def Alu2.classOk (o : Alu2) : Bool :=
  match o.cls.toNat with
  | 0 => true
  | 1 => decide (o.ra.toNat < 16)
  | 2 => decide (o.rb.toNat < 16)
  | _ => false

/-- The register class of a one-source word (R154, R164). -/
def Alu1.classOk (o : Alu1) : Bool :=
  match o.cls.toNat with
  | 0 => true
  | 1 => decide (o.ra.toNat < 16)
  | _ => false

/-- A worker core, or the keeper core of cluster `c` as number 32768 + c (00, R108). -/
def coreOk (n : Nat) : Bool := decide (n < 33280)
/-- A cluster (R43). -/
def clusterOk (n : Nat) : Bool := decide (n < 512)
/-- A stack (00). -/
def stackOk (n : Nat) : Bool := decide (n < 4)
/-- A home slice of a stack (R61). -/
def sliceOk (n : Nat) : Bool := decide (n < 16)
/-- A copy engine of a stack (R279). -/
def engineOk (n : Nat) : Bool := decide (n < 16)
/-- A bank of a cluster store (R53). -/
def bankOk (n : Nat) : Bool := decide (n < 16)
/-- A context of a core (R24). -/
def ctxOk (n : Nat) : Bool := decide (n < 11)
/-- A half code of an Ultra Ethernet port (R329). -/
def portOk (n : Nat) : Bool := decide (n < 24)
/-- A migration entry, or a flight number (R354, R365). -/
def entryOk (n : Nat) : Bool := decide (n < 16)
/-- An accumulator tile (R263). -/
def accOk (n : Nat) : Bool := decide (n < 8)
/-- A stream register (R237). -/
def streamOk (n : Nat) : Bool := decide (n < 4)
/-- A view register (R71). -/
def viewOk (n : Nat) : Bool := decide (n < 8)

/-- The instruction is one the part can be asked to perform: every operand lies in the range its rule gives. -/
def Instr.wf (i : Instr) : Bool :=
  match i with
  | .add o => o.classOk
  | .sub o => o.classOk
  | .and o => o.classOk
  | .or o => o.classOk
  | .xor o => o.classOk
  | .andn o => o.classOk
  | .orn o => o.classOk
  | .sll o => o.classOk
  | .srl o => o.classOk
  | .sra o => o.classOk
  | .rol o => o.classOk
  | .slt o => o.classOk
  | .sltu o => o.classOk
  | .seq o => o.classOk
  | .sne o => o.classOk
  | .min o => o.classOk
  | .max o => o.classOk
  | .minu o => o.classOk
  | .maxu o => o.classOk
  | .clz o => o.classOk
  | .ctz o => o.classOk
  | .popc o => o.classOk
  | .brev o => o.classOk
  | .bswap o => o.classOk && o.sz != 3#2
  | .sext o => o.classOk
  | .zext o => o.classOk
  | .addi _ => true
  | .andi _ => true
  | .ori _ => true
  | .xori _ => true
  | .slli _ => true
  | .srli _ => true
  | .srai _ => true
  | .slti _ => true
  | .sltui _ => true
  | .lih _ => true
  | .addpc _ => true
  | .mul o => o.classOk
  | .mulh o => o.classOk
  | .mulhu o => o.classOk
  | .div o => o.classOk
  | .divu o => o.classOk
  | .rem o => o.classOk
  | .remu o => o.classOk
  | .fadd _ => true
  | .fsub _ => true
  | .fmul _ => true
  | .fdiv _ => true
  | .fsqrt _ => true
  | .fmin _ => true
  | .fmax _ => true
  | .fcmpEq _ => true
  | .fcmpLt _ => true
  | .fcmpLe _ => true
  | .fcmpUn _ => true
  | .fclass _ => true
  | .fcvtToFloat o => srcCodeOk o.src
  | .fcvtToSigned o => decide (o.src.toNat ≤ 3)
  | .fcvtToUnsigned o => decide (o.src.toNat ≤ 3)
  | .fsignB _ => true
  | .fsignNb _ => true
  | .fsignX _ => true
  | .madd _ => true
  | .sel _ => true
  | .fma _ => true
  | .crr o => crNumberOk o.reg
  | .crw o => crNumberOk o.reg
  | .crs o => crNumberOk o.reg
  | .crc o => crNumberOk o.reg
  | .ld o => o.mode != 7#3
  | .st o => decide (o.mode.toNat ≤ 3)
  | .lds o => scopeOk o.scope
  | .sts o => scopeOk o.scope
  | .ldv o => !(o.zext && o.sz == 0#2)
  | .stv _ => true
  | .ldp o => o.rt.toNat % 2 == 0
  | .stp o => o.rt.toNat % 2 == 0
  | .pref o => o.level != 3#2
  | .cflushDrop _ => true
  | .cflushHome _ => true
  | .cflushClean _ => true
  | .cinvLine _ => true
  | .cinvAll => true
  | .tlbiPage _ => true
  | .tlbiPound => true
  | .tlbiAll => true
  | .bankmode _ => true
  | .atomAdd o => scopeOk o.scope && decide (o.mode.toNat ≤ 1) && (!o.view || o.rc.toNat % 4 == 0)
  | .atomAnd o => scopeOk o.scope && decide (o.mode.toNat ≤ 1) && (!o.view || o.rc.toNat % 4 == 0)
  | .atomOr o => scopeOk o.scope && decide (o.mode.toNat ≤ 1) && (!o.view || o.rc.toNat % 4 == 0)
  | .atomXor o => scopeOk o.scope && decide (o.mode.toNat ≤ 1) && (!o.view || o.rc.toNat % 4 == 0)
  | .atomMin o => scopeOk o.scope && decide (o.mode.toNat ≤ 1) && (!o.view || o.rc.toNat % 4 == 0)
  | .atomMax o => scopeOk o.scope && decide (o.mode.toNat ≤ 1) && (!o.view || o.rc.toNat % 4 == 0)
  | .atomMinu o => scopeOk o.scope && decide (o.mode.toNat ≤ 1) && (!o.view || o.rc.toNat % 4 == 0)
  | .atomMaxu o => scopeOk o.scope && decide (o.mode.toNat ≤ 1) && (!o.view || o.rc.toNat % 4 == 0)
  | .atomSwap o => scopeOk o.scope && decide (o.mode.toNat ≤ 1) && (!o.view || o.rc.toNat % 4 == 0)
  | .atomCas o => scopeOk o.scope && decide (o.mode.toNat ≤ 1) && (!o.view || o.rc.toNat % 4 == 0) && (!o.view || o.ra.toNat % 2 == 0)
  | .atomIncb o => scopeOk o.scope && decide (o.mode.toNat ≤ 1) && (!o.view || o.rc.toNat % 4 == 0)
  | .atomDecb o => scopeOk o.scope && decide (o.mode.toNat ≤ 1) && (!o.view || o.rc.toNat % 4 == 0) && (o.view || o.rc == 0#5)
  | .atomFadd o => scopeOk o.scope && o.mode != 3#2 && (!o.view || o.rc.toNat % 4 == 0)
  | .atomFmin o => scopeOk o.scope && o.mode != 3#2 && (!o.view || o.rc.toNat % 4 == 0)
  | .atomFmax o => scopeOk o.scope && o.mode != 3#2 && (!o.view || o.rc.toNat % 4 == 0)
  | .atomFaddP2 o => scopeOk o.scope && (o.mode == 1#2 || o.mode == 2#2) && (!o.view || o.rc.toNat % 4 == 0)
  | .atomFminP2 o => scopeOk o.scope && (o.mode == 1#2 || o.mode == 2#2) && (!o.view || o.rc.toNat % 4 == 0)
  | .atomFmaxP2 o => scopeOk o.scope && (o.mode == 1#2 || o.mode == 2#2) && (!o.view || o.rc.toNat % 4 == 0)
  | .atnAdd o => scopeOk o.scope && decide (o.mode.toNat ≤ 1) && (!o.view || o.rc.toNat % 4 == 0) && (o.view || o.ra == 0#5)
  | .atnAnd o => scopeOk o.scope && decide (o.mode.toNat ≤ 1) && (!o.view || o.rc.toNat % 4 == 0) && (o.view || o.ra == 0#5)
  | .atnOr o => scopeOk o.scope && decide (o.mode.toNat ≤ 1) && (!o.view || o.rc.toNat % 4 == 0) && (o.view || o.ra == 0#5)
  | .atnXor o => scopeOk o.scope && decide (o.mode.toNat ≤ 1) && (!o.view || o.rc.toNat % 4 == 0) && (o.view || o.ra == 0#5)
  | .atnMin o => scopeOk o.scope && decide (o.mode.toNat ≤ 1) && (!o.view || o.rc.toNat % 4 == 0) && (o.view || o.ra == 0#5)
  | .atnMax o => scopeOk o.scope && decide (o.mode.toNat ≤ 1) && (!o.view || o.rc.toNat % 4 == 0) && (o.view || o.ra == 0#5)
  | .atnMinu o => scopeOk o.scope && decide (o.mode.toNat ≤ 1) && (!o.view || o.rc.toNat % 4 == 0) && (o.view || o.ra == 0#5)
  | .atnMaxu o => scopeOk o.scope && decide (o.mode.toNat ≤ 1) && (!o.view || o.rc.toNat % 4 == 0) && (o.view || o.ra == 0#5)
  | .atnSwap o => scopeOk o.scope && decide (o.mode.toNat ≤ 1) && (!o.view || o.rc.toNat % 4 == 0) && (o.view || o.ra == 0#5)
  | .atnCas o => scopeOk o.scope && decide (o.mode.toNat ≤ 1) && (!o.view || o.rc.toNat % 4 == 0) && (!o.view || o.ra.toNat % 2 == 0)
  | .atnIncb o => scopeOk o.scope && decide (o.mode.toNat ≤ 1) && (!o.view || o.rc.toNat % 4 == 0) && (o.view || o.ra == 0#5)
  | .atnDecb o => scopeOk o.scope && decide (o.mode.toNat ≤ 1) && (!o.view || o.rc.toNat % 4 == 0) && (o.view || o.rc == 0#5) && o.ra == 0#5
  | .atnFadd o => scopeOk o.scope && o.mode != 3#2 && (!o.view || o.rc.toNat % 4 == 0) && (o.view || o.ra == 0#5)
  | .atnFmin o => scopeOk o.scope && o.mode != 3#2 && (!o.view || o.rc.toNat % 4 == 0) && (o.view || o.ra == 0#5)
  | .atnFmax o => scopeOk o.scope && o.mode != 3#2 && (!o.view || o.rc.toNat % 4 == 0) && (o.view || o.ra == 0#5)
  | .atnFaddP2 o => scopeOk o.scope && (o.mode == 1#2 || o.mode == 2#2) && (!o.view || o.rc.toNat % 4 == 0) && (o.view || o.ra == 0#5)
  | .atnFminP2 o => scopeOk o.scope && (o.mode == 1#2 || o.mode == 2#2) && (!o.view || o.rc.toNat % 4 == 0) && (o.view || o.ra == 0#5)
  | .atnFmaxP2 o => scopeOk o.scope && (o.mode == 1#2 || o.mode == 2#2) && (!o.view || o.rc.toNat % 4 == 0) && (o.view || o.ra == 0#5)
  | .cas128 o => scopeOk o.scope && (if o.view then o.ra.toNat % 4 == 0 && o.rc.toNat % 4 == 0 else o.ra.toNat % 2 == 0 && o.rc.toNat % 2 == 0)
  | .fenceAcq scope => scopeOk scope
  | .fenceRel scope => scopeOk scope
  | .fenceSc scope => scopeOk scope
  | .fenceX o => scopeOk o.scope && o.ca != 0#2 && o.cb != 0#2 && o.ca != o.cb
  | .crnew _ => true
  | .vsplit o => o.wd != o.ws
  | .vshare o => o.wd != o.ws
  | .vdemote _ => true
  | .vnarrow _ => true
  | .vdrop _ => true
  | .vquery o => o.sel != 3#2
  | .vmove o => o.wd != o.ws
  | .qcfgAff _ => true
  | .qcfgSkip _ => true
  | .qnext _ => true
  | .qrd o => o.sel != 3#2
  | .rep _ => true
  | .repx _ => true
  | .vadd o => (o.me || (o.msk == 0#2 && !o.pol)) && decide (o.et.toNat ≤ 3)
  | .vsub o => (o.me || (o.msk == 0#2 && !o.pol)) && decide (o.et.toNat ≤ 3)
  | .vmul o => (o.me || (o.msk == 0#2 && !o.pol)) && decide (o.et.toNat ≤ 3)
  | .vmulh o => (o.me || (o.msk == 0#2 && !o.pol)) && decide (o.et.toNat ≤ 3)
  | .vdot o => (o.me || (o.msk == 0#2 && !o.pol)) && decide (o.et.toNat ≤ 1)
  | .vmin o => (o.me || (o.msk == 0#2 && !o.pol)) && decide (o.et.toNat ≤ 3)
  | .vmax o => (o.me || (o.msk == 0#2 && !o.pol)) && decide (o.et.toNat ≤ 3)
  | .vand o => (o.me || (o.msk == 0#2 && !o.pol)) && decide (o.et.toNat ≤ 3)
  | .vor o => (o.me || (o.msk == 0#2 && !o.pol)) && decide (o.et.toNat ≤ 3)
  | .vxor o => (o.me || (o.msk == 0#2 && !o.pol)) && decide (o.et.toNat ≤ 3)
  | .vsll o => (o.me || (o.msk == 0#2 && !o.pol)) && decide (o.et.toNat ≤ 3)
  | .vsrl o => (o.me || (o.msk == 0#2 && !o.pol)) && decide (o.et.toNat ≤ 3)
  | .vsra o => (o.me || (o.msk == 0#2 && !o.pol)) && decide (o.et.toNat ≤ 3)
  | .vabs o => (o.me || (o.msk == 0#2 && !o.pol)) && decide (o.et.toNat ≤ 3)
  | .vadds o => (o.me || (o.msk == 0#2 && !o.pol)) && decide (o.et.toNat ≤ 3)
  | .vsubs o => (o.me || (o.msk == 0#2 && !o.pol)) && decide (o.et.toNat ≤ 3)
  | .vfadd o => (o.me || (o.msk == 0#2 && !o.pol)) && decide (4 ≤ o.et.toNat)
  | .vfsub o => (o.me || (o.msk == 0#2 && !o.pol)) && decide (4 ≤ o.et.toNat)
  | .vfmul o => (o.me || (o.msk == 0#2 && !o.pol)) && decide (4 ≤ o.et.toNat)
  | .vfdiv o => (o.me || (o.msk == 0#2 && !o.pol)) && decide (4 ≤ o.et.toNat)
  | .vfsqrt o => (o.me || (o.msk == 0#2 && !o.pol)) && decide (4 ≤ o.et.toNat)
  | .vfmin o => (o.me || (o.msk == 0#2 && !o.pol)) && decide (4 ≤ o.et.toNat)
  | .vfmax o => (o.me || (o.msk == 0#2 && !o.pol)) && decide (4 ≤ o.et.toNat)
  | .vfma o => (o.me || (o.msk == 0#2 && !o.pol)) && decide (4 ≤ o.et.toNat)
  | .vld o => (o.me || (o.msk == 0#2 && !o.pol))
  | .vst o => (o.me || (o.msk == 0#2))
  | .vldq o => (o.me || (o.msk == 0#2 && !o.pol))
  | .vstq o => (o.me || (o.msk == 0#2))
  | .vgath o => (o.me || (o.msk == 0#2 && !o.pol))
  | .vscat o => (o.me || (o.msk == 0#2))
  | .vldf o => (o.me || (o.msk == 0#2 && !o.pol))
  | .vbcast o => (o.me || (o.msk == 0#2 && !o.pol))
  | .vshuf o => (o.me || (o.msk == 0#2 && !o.pol))
  | .vzip o => (o.me || (o.msk == 0#2 && !o.pol))
  | .vuzp o => (o.me || (o.msk == 0#2 && !o.pol))
  | .vslide o => decide (o.k.toNat < lanes o.et)
  | .vext o => decide (o.lane.toNat < lanes o.et)
  | .vins o => decide (o.lane.toNat < lanes o.et)
  | .vsplat o => (o.me || (o.msk == 0#2 && !o.pol))
  | .vredAdd o => (o.me || (o.msk == 0#2 && !o.pol))
  | .vredMin o => (o.me || (o.msk == 0#2 && !o.pol))
  | .vredMax o => (o.me || (o.msk == 0#2 && !o.pol))
  | .vcvt o => (o.me || (o.msk == 0#2 && !o.pol)) && srcCodeOk (o.src.setWidth 5)
  | .vpack o => (o.me || (o.msk == 0#2 && !o.pol)) && decide (o.et.toNat ≤ 2)
  | .vunpk o => (o.me || (o.msk == 0#2 && !o.pol)) && decide (1 ≤ o.et.toNat) && decide (o.et.toNat ≤ 3)
  | .vcbx o => (o.me || (o.msk == 0#2 && !o.pol))
  | .vbxq _ => true
  | .vcq4 o => decide (4 ≤ o.et.toNat) && o.et != 7#3
  | .vexp2 o => (o.me || (o.msk == 0#2 && !o.pol)) && decide (4 ≤ o.et.toNat) && o.et != 7#3
  | .vlog2 o => (o.me || (o.msk == 0#2 && !o.pol)) && decide (4 ≤ o.et.toNat) && o.et != 7#3
  | .vrcp o => (o.me || (o.msk == 0#2 && !o.pol)) && decide (4 ≤ o.et.toNat) && o.et != 7#3
  | .vrsq o => (o.me || (o.msk == 0#2 && !o.pol)) && decide (4 ≤ o.et.toNat) && o.et != 7#3
  | .vsin o => (o.me || (o.msk == 0#2 && !o.pol)) && decide (4 ≤ o.et.toNat) && o.et != 7#3
  | .vcos o => (o.me || (o.msk == 0#2 && !o.pol)) && decide (4 ≤ o.et.toNat) && o.et != 7#3
  | .vcmpEq o => (o.me || (o.msk == 0#2 && !o.pol))
  | .vcmpNe o => (o.me || (o.msk == 0#2 && !o.pol))
  | .vcmpLt o => (o.me || (o.msk == 0#2 && !o.pol))
  | .vcmpLe o => (o.me || (o.msk == 0#2 && !o.pol))
  | .vcmpLtu o => (o.me || (o.msk == 0#2 && !o.pol)) && decide (o.et.toNat ≤ 3)
  | .vcmpLeu o => (o.me || (o.msk == 0#2 && !o.pol)) && decide (o.et.toNat ≤ 3)
  | .vmand _ => true
  | .vmor _ => true
  | .vmxor _ => true
  | .vmnot _ => true
  | .vmcnt _ => true
  | .vmfst _ => true
  | .mgang _ => true
  | .mmas _ => true
  | .mzero _ => true
  | .mdrainI64 _ => true
  | .mdrainI32s _ => true
  | .mdrainF32 _ => true
  | .mdrainF32a _ => true
  | .mdrainBf16 _ => true
  | .mdrainc _ => true
  | .ard _ => true
  | .awr _ => true
  | .achk _ => true
  | .acfg _ => true
  | .cbld _ => true
  | .hintImm _ => true
  | .hintMod o => (if o.re then decide (o.rnd.toNat ≤ 4) else o.rnd == 0#3) && (if o.se then scopeOk o.scope else o.scope == 0#3) && o.cpol != 3#2
  | .hintSched _ => true
  | .beq _ => true
  | .bne _ => true
  | .blt _ => true
  | .bge _ => true
  | .bltu _ => true
  | .bgeu _ => true
  | .jal _ => true
  | .jalr _ => true
  | .endBody => true
  | .trap _ => true
  | .bkpt _ => true
  | .svc _ => true
  | .send o => payloadOk o.mp o.rb o.n.toNat
  | .sendv _ => true
  | .sendmPm o => payloadOk o.mp o.rb 1
  | .sendmIadd o => payloadOk o.mp o.rb 0
  | .sendmF32 o => payloadOk o.mp o.rb 0
  | .sendmF64 o => payloadOk o.mp o.rb 0
  | .chnew _ => true
  | .chfree _ => true
  | .chcfg _ => true
  | .chcnt _ => true
  | .patset o => o.ra.toNat % 2 == 0
  | .patclr _ => true
  | .patrank _ => true
  | .relay _ => true
  | .spawn o => payloadOk o.mp o.rb o.n.toNat
  | .hstart o => payloadOk o.mp o.rb o.n.toNat
  | .hstat _ => true
  | .cbcfgSet o => o.rb.toNat % 2 == 0
  | .cbcfgState o => o.rb.toNat % 2 == 0
  | .cbcfgRebuild o => o.rb.toNat % 2 == 0 && !o.eb
  | .cbcfgClear o => o.rb.toNat % 2 == 0 && !o.eb
  | .cbret _ => true
  | .cbcnt _ => true
  | .cbaudit _ => true
  | .rnfwd _ => true
  | .rnrev _ => true
  | .rnadd _ => true
  | .rnsub _ => true
  | .rnmul _ => true
  | .rnchk _ => true
  | .cpy _ => true
  | .cpya _ => true
  | .cpyw _ => true
  | .cpyg o => o.rb.toNat % 2 == 0
  | .weirnew _ => true
  | .weiradd _ => true
  | .weirarm _ => true
  | .weirarmFree _ => true
  | .weirrd _ => true
  | .sliceoccWrite stack slice => stackOk stack && sliceOk slice
  | .cbReturnApply cluster => clusterOk cluster
  | .repWordIssue core => coreOk core
  | .acfgApply core => coreOk core
  | .illegalWord _ => true
  | .packageReset => true
  | .messageAdmit core => coreOk core
  | .messageAccept _ => true
  | .overflowMoveBack core _ => coreOk core
  | .relayForward core => coreOk core
  | .sluiceEvaluate core => coreOk core
  | .contextLoaded core ctx => coreOk core && ctxOk ctx
  | .hstartRetry core => coreOk core
  | .spawnItemArrive _ => true
  | .registerFill core ctx _ => coreOk core && ctxOk ctx
  | .storeBufferDrain core => coreOk core
  | .atomicQueueSend core => coreOk core
  | .homeAtomicApply _ => true
  | .sliceRequestAccept _ => true
  | .sliceAnswer stack slice => stackOk stack && sliceOk slice
  | .bankModeDone cluster bank => clusterOk cluster && bankOk bank
  | .cbSlotStart stack engine => stackOk stack && engineOk engine
  | .cbSlotFilled stack engine => stackOk stack && engineOk engine
  | .sliceCounterFlush stack slice => stackOk stack && sliceOk slice
  | .fpunionUpdate cluster => clusterOk cluster
  | .colanderAllocate stack => stackOk stack
  | .colanderSplit stack => stackOk stack
  | .colanderShare stack => stackOk stack
  | .colanderNotice stack => stackOk stack
  | .colanderAnswer _ => true
  | .viewNoticeSend core => coreOk core
  | .watchdogExpire core ctx => coreOk core && ctxOk ctx
  | .sliceEndSignal core => coreOk core
  | .graceExpire core => coreOk core
  | .contextSave core => coreOk core
  | .messageStateSave core => coreOk core
  | .poundResume core => coreOk core
  | .deferredFaultTake core ctx => coreOk core && ctxOk ctx
  | .faultPacketResend core => coreOk core
  | .translationWalk cluster => clusterOk cluster
  | .keeperPtLookup cluster => clusterOk cluster
  | .missdone cluster _ => clusterOk cluster
  | .sideLogReplay core _ => coreOk core
  | .engineCommandStart stack engine => stackOk stack && engineOk engine
  | .engineCommandDone stack engine => stackOk stack && engineOk engine
  | .weirCharge stack => stackOk stack
  | .weirSubtract stack _ => stackOk stack
  | .weirAddApply stack => stackOk stack
  | .weirArmApply stack => stackOk stack
  | .weirCreate stack => stackOk stack
  | .weirStateRead stack => stackOk stack
  | .gangStart core => coreOk core
  | .gangTimeout core => coreOk core
  | .gangOperationDone _ => true
  | .taggedSendAccept port _ _ => portOk port
  | .peerMessageReceive port _ _ _ => portOk port
  | .rmaWrite _ _ _ => true
  | .rmaRead _ _ _ => true
  | .rmaWriteComplete _ => true
  | .remoteTargetAck _ _ _ => true
  | .completionAccept _ => true
  | .completionTimerExpire _ _ => true
  | .energyChargePost _ => true
  | .energyIntervalEnd stack => stackOk stack
  | .powerSample _ => true
  | .claim stack entry _ _ => stackOk stack && entryOk entry
  | .start stack entry => stackOk stack && entryOk entry
  | .migRelease stack entry => stackOk stack && entryOk entry
  | .cancel stack entry => stackOk stack && entryOk entry
  | .migrationHoldReady stack entry => stackOk stack && entryOk entry
  | .migrationCopyDone stack entry => stackOk stack && entryOk entry
  | .migrationRemapDone stack entry => stackOk stack && entryOk entry
  | .migrationDrainDone stack entry => stackOk stack && entryOk entry
  | .debugWindowWrite core _ _ => coreOk core
  | .stop core => coreOk core
  | .debugResume core _ => coreOk core
  | .restart core => coreOk core
  | .kill core _ => coreOk core
  | .step core _ => coreOk core
  | .halt core flight => coreOk core && entryOk flight
  | .flightRelease core flight => coreOk core && entryOk flight
  | .cut _ _ => true
  | .cutMarkerForward core => coreOk core
  | .coreCutRecord core => coreOk core
  | .engineCutRecord stack engine => stackOk stack && engineOk engine
  | .portCutInject port => portOk port
  | .layoutCommit _ _ => true
  | .wharfReset => true
  | .wharfBoot _ _ => true
  | .extend _ _ => true
  | .tokenRefill _ => true
  | .vdResume _ => true
  | .vdSliceEnd _ => true
  | .wayRebalance stack slice => stackOk stack && sliceOk slice
  | .lock _ => true
  | .unlock _ => true
  | .report _ _ => true
  | .accept _ _ => true
  | .teardown _ => true
  | .scrub _ => true
  | .frozenSetWrite _ _ _ => true
  | .clear _ => true
  | .envelopeSet _ => true
  | .hwErrorDetect _ _ => true
  | .bucketLeak _ => true
  | .dramErrorReport stack _ _ => stackOk stack
  | .sparingDone stack _ => stackOk stack
  | .pairRequestRelease core => coreOk core
  | .memoryCut _ _ => true
  | .rollback _ => true
  | .registerWrite _ _ => true
  | .ngaturAssemble _ => true
  | .attach _ => true
  | .load _ _ => true
  | .sym _ => true
  | .sluice core _ => coreOk core
  | .traceArrivals core _ => coreOk core
  | .watchFire core _ => coreOk core
  | .post _ _ => true
  | .xlate core _ => coreOk core
  | .regs core ctx _ => coreOk core && ctxOk ctx
  | .streamCmd core ctx q => coreOk core && ctxOk ctx && streamOk q
  | .mem core _ _ _ => coreOk core
  | .breakAt _ _ => true
  | .delete _ => true
  | .cont => true
  | .occ core => coreOk core
  | .occClear core => coreOk core
  | .sample core x => coreOk core && sliceOk x.slice && decide (0 < x.interval)
  | .preempt _ _ _ => true
  | .resumePound _ => true
  | .save core => coreOk core
  | .tile core acc _ => coreOk core && accOk acc
  | .flip core acc _ _ _ => coreOk core && accOk acc
  | .acfgCommand core _ _ => coreOk core
  | .resumeContext _ ctx _ => ctxOk ctx
  | .traceGang lead _ => coreOk lead
  | .watchPc _ _ _ => true
  | .colander _ => true
  | .viewCmd core ctx w => coreOk core && ctxOk ctx && viewOk w
  | .drainComplete core => coreOk core

end Sys2Proof
end

