-- ==== Sys2Proof/Decode.lean ====
section
/-!
DEFINITION. The decoder, total on every word (R142 to R176): the major opcode, then the function code, then the
must-be-zero fields, then the reserved operand values; and after it the encoder, from the same tables. Definitions that
build a constructor past the 244 that Lean's code generator can tag are marked noncomputable; the kernel evaluates them.
-/

namespace Sys2Proof

/-- Why a word is no instruction (the fate table of R176). -/
inductive Reject where
  /-- Major 0x00, or an unassigned major. -/
  | major
  /-- A function code that the tables leave blank or do not list. -/
  | function
  /-- A nonzero must-be-zero bit or field. -/
  | mustBeZero
  /-- A reserved field value, or a register number that breaks its form. -/
  | reserved
  /-- Fewer than four bytes. -/
  | short
  deriving DecidableEq, Repr

/-- Bits `lo` to `lo + len - 1` of a word (R2). -/
def fld {n : Nat} (w : BitVec n) (lo len : Nat) : BitVec len := w.extractLsb' lo len

/-- One bit of a word. -/
def flag {n : Nat} (w : BitVec n) (k : Nat) : Bool := w.getLsbD k

/-- An instruction whose must-be-zero fields have been checked, refused when an operand breaks its form. -/
def accept (i : Instr) : Except Reject Instr := if i.wf then .ok i else .error .reserved

/-- Major 0x01 (R163 to R175). -/
def decodeMajor01 (w : Word32) : Except Reject Instr :=
  match (fld w 4 5).toNat with
  | 0 => accept (.add ⟨fld w 21 5, fld w 16 5, fld w 11 5, fld w 9 2, flag w 3, flag w 2, fld w 0 2⟩)
  | 1 => accept (.sub ⟨fld w 21 5, fld w 16 5, fld w 11 5, fld w 9 2, flag w 3, flag w 2, fld w 0 2⟩)
  | 2 => accept (.and ⟨fld w 21 5, fld w 16 5, fld w 11 5, fld w 9 2, flag w 3, flag w 2, fld w 0 2⟩)
  | 3 => accept (.or ⟨fld w 21 5, fld w 16 5, fld w 11 5, fld w 9 2, flag w 3, flag w 2, fld w 0 2⟩)
  | 4 => accept (.xor ⟨fld w 21 5, fld w 16 5, fld w 11 5, fld w 9 2, flag w 3, flag w 2, fld w 0 2⟩)
  | 5 => accept (.andn ⟨fld w 21 5, fld w 16 5, fld w 11 5, fld w 9 2, flag w 3, flag w 2, fld w 0 2⟩)
  | 6 => accept (.orn ⟨fld w 21 5, fld w 16 5, fld w 11 5, fld w 9 2, flag w 3, flag w 2, fld w 0 2⟩)
  | 8 => accept (.sll ⟨fld w 21 5, fld w 16 5, fld w 11 5, fld w 9 2, flag w 3, flag w 2, fld w 0 2⟩)
  | 9 => accept (.srl ⟨fld w 21 5, fld w 16 5, fld w 11 5, fld w 9 2, flag w 3, flag w 2, fld w 0 2⟩)
  | 10 => accept (.sra ⟨fld w 21 5, fld w 16 5, fld w 11 5, fld w 9 2, flag w 3, flag w 2, fld w 0 2⟩)
  | 11 => accept (.rol ⟨fld w 21 5, fld w 16 5, fld w 11 5, fld w 9 2, flag w 3, flag w 2, fld w 0 2⟩)
  | 16 => accept (.slt ⟨fld w 21 5, fld w 16 5, fld w 11 5, fld w 9 2, flag w 3, flag w 2, fld w 0 2⟩)
  | 17 => accept (.sltu ⟨fld w 21 5, fld w 16 5, fld w 11 5, fld w 9 2, flag w 3, flag w 2, fld w 0 2⟩)
  | 18 => accept (.seq ⟨fld w 21 5, fld w 16 5, fld w 11 5, fld w 9 2, flag w 3, flag w 2, fld w 0 2⟩)
  | 19 => accept (.sne ⟨fld w 21 5, fld w 16 5, fld w 11 5, fld w 9 2, flag w 3, flag w 2, fld w 0 2⟩)
  | 20 => accept (.min ⟨fld w 21 5, fld w 16 5, fld w 11 5, fld w 9 2, flag w 3, flag w 2, fld w 0 2⟩)
  | 21 => accept (.max ⟨fld w 21 5, fld w 16 5, fld w 11 5, fld w 9 2, flag w 3, flag w 2, fld w 0 2⟩)
  | 22 => accept (.minu ⟨fld w 21 5, fld w 16 5, fld w 11 5, fld w 9 2, flag w 3, flag w 2, fld w 0 2⟩)
  | 23 => accept (.maxu ⟨fld w 21 5, fld w 16 5, fld w 11 5, fld w 9 2, flag w 3, flag w 2, fld w 0 2⟩)
  | 24 => if fld w 2 1 == 0#1 && fld w 11 5 == 0#5 then accept (.clz ⟨fld w 21 5, fld w 16 5, fld w 9 2, flag w 3, fld w 0 2⟩) else .error .mustBeZero
  | 25 => if fld w 2 1 == 0#1 && fld w 11 5 == 0#5 then accept (.ctz ⟨fld w 21 5, fld w 16 5, fld w 9 2, flag w 3, fld w 0 2⟩) else .error .mustBeZero
  | 26 => if fld w 2 1 == 0#1 && fld w 11 5 == 0#5 then accept (.popc ⟨fld w 21 5, fld w 16 5, fld w 9 2, flag w 3, fld w 0 2⟩) else .error .mustBeZero
  | 27 => if fld w 2 1 == 0#1 && fld w 11 5 == 0#5 then accept (.brev ⟨fld w 21 5, fld w 16 5, fld w 9 2, flag w 3, fld w 0 2⟩) else .error .mustBeZero
  | 28 => if fld w 2 1 == 0#1 && fld w 11 5 == 0#5 then accept (.bswap ⟨fld w 21 5, fld w 16 5, fld w 9 2, flag w 3, fld w 0 2⟩) else .error .mustBeZero
  | 29 => if fld w 2 1 == 0#1 && fld w 11 5 == 0#5 then accept (.sext ⟨fld w 21 5, fld w 16 5, fld w 9 2, flag w 3, fld w 0 2⟩) else .error .mustBeZero
  | 30 => if fld w 2 1 == 0#1 && fld w 11 5 == 0#5 then accept (.zext ⟨fld w 21 5, fld w 16 5, fld w 9 2, flag w 3, fld w 0 2⟩) else .error .mustBeZero
  | _ => .error .function

/-- Major 0x02 (R163 to R175). -/
def decodeMajor02 (w : Word32) : Except Reject Instr :=
  accept (.addi ⟨fld w 21 5, fld w 16 5, fld w 1 15, flag w 0⟩)

/-- Major 0x03 (R163 to R175). -/
def decodeMajor03 (w : Word32) : Except Reject Instr :=
  accept (.andi ⟨fld w 21 5, fld w 16 5, fld w 1 15, flag w 0⟩)

/-- Major 0x04 (R163 to R175). -/
def decodeMajor04 (w : Word32) : Except Reject Instr :=
  accept (.ori ⟨fld w 21 5, fld w 16 5, fld w 1 15, flag w 0⟩)

/-- Major 0x05 (R163 to R175). -/
def decodeMajor05 (w : Word32) : Except Reject Instr :=
  accept (.xori ⟨fld w 21 5, fld w 16 5, fld w 1 15, flag w 0⟩)

/-- Major 0x06 (R163 to R175). -/
def decodeMajor06 (w : Word32) : Except Reject Instr :=
  match (fld w 7 9).toNat with
  | 0 => accept (.slli ⟨fld w 21 5, fld w 16 5, fld w 1 6, flag w 0⟩)
  | 1 => accept (.srli ⟨fld w 21 5, fld w 16 5, fld w 1 6, flag w 0⟩)
  | 2 => accept (.srai ⟨fld w 21 5, fld w 16 5, fld w 1 6, flag w 0⟩)
  | _ => .error .function

/-- Major 0x07 (R163 to R175). -/
def decodeMajor07 (w : Word32) : Except Reject Instr :=
  accept (.slti ⟨fld w 21 5, fld w 16 5, fld w 1 15, flag w 0⟩)

/-- Major 0x08 (R163 to R175). -/
def decodeMajor08 (w : Word32) : Except Reject Instr :=
  accept (.sltui ⟨fld w 21 5, fld w 16 5, fld w 1 15, flag w 0⟩)

/-- Major 0x09 (R163 to R175). -/
def decodeMajor09 (w : Word32) : Except Reject Instr :=
  accept (.lih ⟨fld w 21 5, fld w 0 21⟩)

/-- Major 0x0A (R163 to R175). -/
def decodeMajor0A (w : Word32) : Except Reject Instr :=
  accept (.addpc ⟨fld w 21 5, fld w 0 21⟩)

/-- Major 0x0B (R163 to R175). -/
def decodeMajor0B (w : Word32) : Except Reject Instr :=
  match (fld w 4 5).toNat with
  | 0 => accept (.mul ⟨fld w 21 5, fld w 16 5, fld w 11 5, fld w 9 2, flag w 3, flag w 2, fld w 0 2⟩)
  | 1 => accept (.mulh ⟨fld w 21 5, fld w 16 5, fld w 11 5, fld w 9 2, flag w 3, flag w 2, fld w 0 2⟩)
  | 2 => accept (.mulhu ⟨fld w 21 5, fld w 16 5, fld w 11 5, fld w 9 2, flag w 3, flag w 2, fld w 0 2⟩)
  | 4 => accept (.div ⟨fld w 21 5, fld w 16 5, fld w 11 5, fld w 9 2, flag w 3, flag w 2, fld w 0 2⟩)
  | 5 => accept (.divu ⟨fld w 21 5, fld w 16 5, fld w 11 5, fld w 9 2, flag w 3, flag w 2, fld w 0 2⟩)
  | 6 => accept (.rem ⟨fld w 21 5, fld w 16 5, fld w 11 5, fld w 9 2, flag w 3, flag w 2, fld w 0 2⟩)
  | 7 => accept (.remu ⟨fld w 21 5, fld w 16 5, fld w 11 5, fld w 9 2, flag w 3, flag w 2, fld w 0 2⟩)
  | _ => .error .function

/-- Major 0x0C (R163 to R175). -/
def decodeMajor0C (w : Word32) : Except Reject Instr :=
  match (fld w 4 7).toNat with
  | 0 => accept (.fadd ⟨fld w 21 5, fld w 16 5, fld w 11 5, flag w 3, flag w 2, fld w 0 2⟩)
  | 1 => accept (.fsub ⟨fld w 21 5, fld w 16 5, fld w 11 5, flag w 3, flag w 2, fld w 0 2⟩)
  | 2 => accept (.fmul ⟨fld w 21 5, fld w 16 5, fld w 11 5, flag w 3, flag w 2, fld w 0 2⟩)
  | 3 => accept (.fdiv ⟨fld w 21 5, fld w 16 5, fld w 11 5, flag w 3, flag w 2, fld w 0 2⟩)
  | 4 => if fld w 2 1 == 0#1 && fld w 11 5 == 0#5 then accept (.fsqrt ⟨fld w 21 5, fld w 16 5, flag w 3, fld w 0 2⟩) else .error .mustBeZero
  | 5 => accept (.fmin ⟨fld w 21 5, fld w 16 5, fld w 11 5, flag w 3, flag w 2, fld w 0 2⟩)
  | 6 => accept (.fmax ⟨fld w 21 5, fld w 16 5, fld w 11 5, flag w 3, flag w 2, fld w 0 2⟩)
  | 8 => accept (.fcmpEq ⟨fld w 21 5, fld w 16 5, fld w 11 5, flag w 3, flag w 2, fld w 0 2⟩)
  | 9 => accept (.fcmpLt ⟨fld w 21 5, fld w 16 5, fld w 11 5, flag w 3, flag w 2, fld w 0 2⟩)
  | 10 => accept (.fcmpLe ⟨fld w 21 5, fld w 16 5, fld w 11 5, flag w 3, flag w 2, fld w 0 2⟩)
  | 11 => accept (.fcmpUn ⟨fld w 21 5, fld w 16 5, fld w 11 5, flag w 3, flag w 2, fld w 0 2⟩)
  | 12 => if fld w 2 1 == 0#1 && fld w 11 5 == 0#5 then accept (.fclass ⟨fld w 21 5, fld w 16 5, flag w 3, fld w 0 2⟩) else .error .mustBeZero
  | 16 => if fld w 2 1 == 0#1 then accept (.fcvtToFloat ⟨fld w 21 5, fld w 16 5, fld w 11 5, flag w 3, fld w 0 2⟩) else .error .mustBeZero
  | 17 => if fld w 2 1 == 0#1 then accept (.fcvtToSigned ⟨fld w 21 5, fld w 16 5, fld w 11 5, flag w 3, fld w 0 2⟩) else .error .mustBeZero
  | 18 => if fld w 2 1 == 0#1 then accept (.fcvtToUnsigned ⟨fld w 21 5, fld w 16 5, fld w 11 5, flag w 3, fld w 0 2⟩) else .error .mustBeZero
  | 24 => accept (.fsignB ⟨fld w 21 5, fld w 16 5, fld w 11 5, flag w 3, flag w 2, fld w 0 2⟩)
  | 25 => accept (.fsignNb ⟨fld w 21 5, fld w 16 5, fld w 11 5, flag w 3, flag w 2, fld w 0 2⟩)
  | 26 => accept (.fsignX ⟨fld w 21 5, fld w 16 5, fld w 11 5, flag w 3, flag w 2, fld w 0 2⟩)
  | _ => .error .function

/-- Major 0x0D (R163 to R175). -/
def decodeMajor0D (w : Word32) : Except Reject Instr :=
  match (fld w 5 1).toNat with
  | 0 =>
    match (fld w 3 2).toNat with
    | 0 => accept (.madd ⟨fld w 21 5, fld w 16 5, fld w 11 5, fld w 6 5, flag w 2, flag w 1, flag w 0⟩)
    | 1 => accept (.sel ⟨fld w 21 5, fld w 16 5, fld w 11 5, fld w 6 5, flag w 2, flag w 1, flag w 0⟩)
    | _ => .error .function
  | 1 => accept (.fma ⟨fld w 21 5, fld w 16 5, fld w 11 5, fld w 6 5, fld w 3 2, flag w 2, flag w 1, flag w 0⟩)
  | _ => .error .function

/-- Major 0x0E (R163 to R175). -/
def decodeMajor0E (w : Word32) : Except Reject Instr :=
  match (fld w 13 3).toNat with
  | 0 => if fld w 0 1 == 0#1 && fld w 16 5 == 0#5 then accept (.crr ⟨fld w 21 5, fld w 1 12⟩) else .error .mustBeZero
  | 1 => if fld w 21 5 == 0#5 then accept (.crw ⟨fld w 16 5, fld w 1 12, flag w 0⟩) else .error .mustBeZero
  | 2 => accept (.crs ⟨fld w 21 5, fld w 16 5, fld w 1 12, flag w 0⟩)
  | 3 => accept (.crc ⟨fld w 21 5, fld w 16 5, fld w 1 12, flag w 0⟩)
  | _ => .error .function

/-- Major 0x10 (R163 to R175). -/
def decodeMajor10 (w : Word32) : Except Reject Instr :=
  accept (.ld ⟨fld w 21 5, fld w 16 5, fld w 13 3, flag w 12, fld w 0 12⟩)

/-- Major 0x11 (R163 to R175). -/
def decodeMajor11 (w : Word32) : Except Reject Instr :=
  accept (.st ⟨fld w 21 5, fld w 16 5, fld w 13 3, flag w 12, fld w 0 12⟩)

/-- Major 0x12 (R163 to R175). -/
def decodeMajor12 (w : Word32) : Except Reject Instr :=
  accept (.lds ⟨fld w 21 5, fld w 16 5, fld w 13 3, flag w 12, fld w 10 2, fld w 0 10⟩)

/-- Major 0x13 (R163 to R175). -/
def decodeMajor13 (w : Word32) : Except Reject Instr :=
  accept (.sts ⟨fld w 21 5, fld w 16 5, fld w 13 3, flag w 12, fld w 10 2, fld w 0 10⟩)

/-- Major 0x14 (R163 to R175). -/
def decodeMajor14 (w : Word32) : Except Reject Instr :=
  if fld w 5 6 == 0#6 && fld w 14 2 == 0#2 then accept (.ldv ⟨fld w 21 5, fld w 16 5, fld w 11 3, flag w 4, flag w 3, flag w 2, fld w 0 2⟩) else .error .mustBeZero

/-- Major 0x15 (R163 to R175). -/
def decodeMajor15 (w : Word32) : Except Reject Instr :=
  if fld w 4 7 == 0#7 && fld w 14 2 == 0#2 then accept (.stv ⟨fld w 21 5, fld w 16 5, fld w 11 3, flag w 3, flag w 2, fld w 0 2⟩) else .error .mustBeZero

/-- Major 0x16 (R163 to R175). -/
def decodeMajor16 (w : Word32) : Except Reject Instr :=
  match (fld w 13 3).toNat with
  | 0 => accept (.ldp ⟨fld w 21 5, fld w 16 5, flag w 12, fld w 0 12⟩)
  | 1 => accept (.stp ⟨fld w 21 5, fld w 16 5, flag w 12, fld w 0 12⟩)
  | _ => .error .function

/-- Major 0x17 (R163 to R175). -/
def decodeMajor17 (w : Word32) : Except Reject Instr :=
  match (fld w 13 3).toNat with
  | 0 => if fld w 23 3 == 0#3 then accept (.pref ⟨fld w 21 2, fld w 16 5, flag w 12, fld w 0 12⟩) else .error .mustBeZero
  | 1 =>
    match (fld w 21 5).toNat with
    | 0 => accept (.cflushDrop ⟨fld w 16 5, flag w 12, fld w 0 12⟩)
    | 1 => accept (.cflushHome ⟨fld w 16 5, flag w 12, fld w 0 12⟩)
    | 2 => accept (.cflushClean ⟨fld w 16 5, flag w 12, fld w 0 12⟩)
    | _ => .error .function
  | 2 =>
    match (fld w 21 5).toNat with
    | 0 => accept (.cinvLine ⟨fld w 16 5, flag w 12, fld w 0 12⟩)
    | 1 => if fld w 0 13 == 0#13 && fld w 16 5 == 0#5 then accept (.cinvAll) else .error .mustBeZero
    | _ => .error .function
  | 3 =>
    match (fld w 21 5).toNat with
    | 0 => accept (.tlbiPage ⟨fld w 16 5, flag w 12, fld w 0 12⟩)
    | 1 => if fld w 0 13 == 0#13 && fld w 16 5 == 0#5 then accept (.tlbiPound) else .error .mustBeZero
    | 2 => if fld w 0 13 == 0#13 && fld w 16 5 == 0#5 then accept (.tlbiAll) else .error .mustBeZero
    | _ => .error .function
  | 4 => if fld w 0 12 == 0#12 && fld w 21 5 == 0#5 then accept (.bankmode ⟨fld w 16 5, flag w 12⟩) else .error .mustBeZero
  | _ => .error .function

/-- Major 0x18 (R163 to R175). -/
def decodeMajor18 (w : Word32) : Except Reject Instr :=
  match (fld w 2 5).toNat with
  | 0 => accept (.atomAdd ⟨fld w 23 3, fld w 18 5, fld w 13 5, fld w 8 5, flag w 7, fld w 0 2⟩)
  | 1 => accept (.atomAnd ⟨fld w 23 3, fld w 18 5, fld w 13 5, fld w 8 5, flag w 7, fld w 0 2⟩)
  | 2 => accept (.atomOr ⟨fld w 23 3, fld w 18 5, fld w 13 5, fld w 8 5, flag w 7, fld w 0 2⟩)
  | 3 => accept (.atomXor ⟨fld w 23 3, fld w 18 5, fld w 13 5, fld w 8 5, flag w 7, fld w 0 2⟩)
  | 4 => accept (.atomMin ⟨fld w 23 3, fld w 18 5, fld w 13 5, fld w 8 5, flag w 7, fld w 0 2⟩)
  | 5 => accept (.atomMax ⟨fld w 23 3, fld w 18 5, fld w 13 5, fld w 8 5, flag w 7, fld w 0 2⟩)
  | 6 => accept (.atomMinu ⟨fld w 23 3, fld w 18 5, fld w 13 5, fld w 8 5, flag w 7, fld w 0 2⟩)
  | 7 => accept (.atomMaxu ⟨fld w 23 3, fld w 18 5, fld w 13 5, fld w 8 5, flag w 7, fld w 0 2⟩)
  | 8 => accept (.atomSwap ⟨fld w 23 3, fld w 18 5, fld w 13 5, fld w 8 5, flag w 7, fld w 0 2⟩)
  | 9 => accept (.atomCas ⟨fld w 23 3, fld w 18 5, fld w 13 5, fld w 8 5, flag w 7, fld w 0 2⟩)
  | 10 => accept (.atomIncb ⟨fld w 23 3, fld w 18 5, fld w 13 5, fld w 8 5, flag w 7, fld w 0 2⟩)
  | 11 => accept (.atomDecb ⟨fld w 23 3, fld w 18 5, fld w 13 5, fld w 8 5, flag w 7, fld w 0 2⟩)
  | 16 => accept (.atomFadd ⟨fld w 23 3, fld w 18 5, fld w 13 5, fld w 8 5, flag w 7, fld w 0 2⟩)
  | 17 => accept (.atomFmin ⟨fld w 23 3, fld w 18 5, fld w 13 5, fld w 8 5, flag w 7, fld w 0 2⟩)
  | 18 => accept (.atomFmax ⟨fld w 23 3, fld w 18 5, fld w 13 5, fld w 8 5, flag w 7, fld w 0 2⟩)
  | 20 => accept (.atomFaddP2 ⟨fld w 23 3, fld w 18 5, fld w 13 5, fld w 8 5, flag w 7, fld w 0 2⟩)
  | 21 => accept (.atomFminP2 ⟨fld w 23 3, fld w 18 5, fld w 13 5, fld w 8 5, flag w 7, fld w 0 2⟩)
  | 22 => accept (.atomFmaxP2 ⟨fld w 23 3, fld w 18 5, fld w 13 5, fld w 8 5, flag w 7, fld w 0 2⟩)
  | _ => .error .function

/-- Major 0x19 (R163 to R175). -/
def decodeMajor19 (w : Word32) : Except Reject Instr :=
  match (fld w 2 5).toNat with
  | 0 => accept (.atnAdd ⟨fld w 23 3, fld w 18 5, fld w 13 5, fld w 8 5, flag w 7, fld w 0 2⟩)
  | 1 => accept (.atnAnd ⟨fld w 23 3, fld w 18 5, fld w 13 5, fld w 8 5, flag w 7, fld w 0 2⟩)
  | 2 => accept (.atnOr ⟨fld w 23 3, fld w 18 5, fld w 13 5, fld w 8 5, flag w 7, fld w 0 2⟩)
  | 3 => accept (.atnXor ⟨fld w 23 3, fld w 18 5, fld w 13 5, fld w 8 5, flag w 7, fld w 0 2⟩)
  | 4 => accept (.atnMin ⟨fld w 23 3, fld w 18 5, fld w 13 5, fld w 8 5, flag w 7, fld w 0 2⟩)
  | 5 => accept (.atnMax ⟨fld w 23 3, fld w 18 5, fld w 13 5, fld w 8 5, flag w 7, fld w 0 2⟩)
  | 6 => accept (.atnMinu ⟨fld w 23 3, fld w 18 5, fld w 13 5, fld w 8 5, flag w 7, fld w 0 2⟩)
  | 7 => accept (.atnMaxu ⟨fld w 23 3, fld w 18 5, fld w 13 5, fld w 8 5, flag w 7, fld w 0 2⟩)
  | 8 => accept (.atnSwap ⟨fld w 23 3, fld w 18 5, fld w 13 5, fld w 8 5, flag w 7, fld w 0 2⟩)
  | 9 => accept (.atnCas ⟨fld w 23 3, fld w 18 5, fld w 13 5, fld w 8 5, flag w 7, fld w 0 2⟩)
  | 10 => accept (.atnIncb ⟨fld w 23 3, fld w 18 5, fld w 13 5, fld w 8 5, flag w 7, fld w 0 2⟩)
  | 11 => accept (.atnDecb ⟨fld w 23 3, fld w 18 5, fld w 13 5, fld w 8 5, flag w 7, fld w 0 2⟩)
  | 16 => accept (.atnFadd ⟨fld w 23 3, fld w 18 5, fld w 13 5, fld w 8 5, flag w 7, fld w 0 2⟩)
  | 17 => accept (.atnFmin ⟨fld w 23 3, fld w 18 5, fld w 13 5, fld w 8 5, flag w 7, fld w 0 2⟩)
  | 18 => accept (.atnFmax ⟨fld w 23 3, fld w 18 5, fld w 13 5, fld w 8 5, flag w 7, fld w 0 2⟩)
  | 20 => accept (.atnFaddP2 ⟨fld w 23 3, fld w 18 5, fld w 13 5, fld w 8 5, flag w 7, fld w 0 2⟩)
  | 21 => accept (.atnFminP2 ⟨fld w 23 3, fld w 18 5, fld w 13 5, fld w 8 5, flag w 7, fld w 0 2⟩)
  | 22 => accept (.atnFmaxP2 ⟨fld w 23 3, fld w 18 5, fld w 13 5, fld w 8 5, flag w 7, fld w 0 2⟩)
  | _ => .error .function

/-- Major 0x1A (R163 to R175). -/
def decodeMajor1A (w : Word32) : Except Reject Instr :=
  if fld w 0 7 == 0#7 then accept (.cas128 ⟨fld w 23 3, fld w 18 5, fld w 13 5, fld w 8 5, flag w 7⟩) else .error .mustBeZero

/-- Major 0x1B (R163 to R175). -/
def decodeMajor1B (w : Word32) : Except Reject Instr :=
  match (fld w 4 4).toNat with
  | 0 => if fld w 0 4 == 0#4 && fld w 11 15 == 0#15 then accept (.fenceAcq (fld w 8 3)) else .error .mustBeZero
  | 1 => if fld w 0 4 == 0#4 && fld w 11 15 == 0#15 then accept (.fenceRel (fld w 8 3)) else .error .mustBeZero
  | 2 => if fld w 0 4 == 0#4 && fld w 11 15 == 0#15 then accept (.fenceSc (fld w 8 3)) else .error .mustBeZero
  | _ => if fld w 0 4 == 0#4 && fld w 11 15 == 0#15 then accept (.fenceX ⟨fld w 8 3, fld w 6 2, fld w 4 2⟩) else .error .mustBeZero

/-- Major 0x1C (R163 to R175). -/
def decodeMajor1C (w : Word32) : Except Reject Instr :=
  match (fld w 4 7).toNat with
  | 0 => if fld w 0 3 == 0#3 && fld w 11 5 == 0#5 && fld w 24 2 == 0#2 then accept (.crnew ⟨fld w 21 3, fld w 16 5, flag w 3⟩) else .error .mustBeZero
  | 1 => if fld w 0 2 == 0#2 && fld w 14 2 == 0#2 && fld w 24 2 == 0#2 then accept (.vsplit ⟨fld w 21 3, fld w 16 5, fld w 11 3, flag w 3, flag w 2⟩) else .error .mustBeZero
  | 2 => if fld w 0 2 == 0#2 && fld w 3 1 == 0#1 && fld w 14 7 == 0#7 && fld w 24 2 == 0#2 then accept (.vshare ⟨fld w 21 3, fld w 11 3, flag w 2⟩) else .error .mustBeZero
  | 3 => if fld w 0 4 == 0#4 && fld w 11 5 == 0#5 && fld w 19 2 == 0#2 && fld w 24 2 == 0#2 then accept (.vdemote ⟨fld w 21 3, fld w 16 3⟩) else .error .mustBeZero
  | 4 => if fld w 0 2 == 0#2 && fld w 24 2 == 0#2 then accept (.vnarrow ⟨fld w 21 3, fld w 16 5, fld w 11 5, flag w 3, flag w 2⟩) else .error .mustBeZero
  | 5 => if fld w 0 4 == 0#4 && fld w 11 10 == 0#10 && fld w 24 2 == 0#2 then accept (.vdrop (fld w 21 3)) else .error .mustBeZero
  | 6 => if fld w 3 1 == 0#1 && fld w 14 7 == 0#7 then accept (.vquery ⟨fld w 21 5, fld w 11 3, flag w 2, fld w 0 2⟩) else .error .mustBeZero
  | 7 => if fld w 0 2 == 0#2 && fld w 3 1 == 0#1 && fld w 14 7 == 0#7 && fld w 24 2 == 0#2 then accept (.vmove ⟨fld w 21 3, fld w 11 3, flag w 2⟩) else .error .mustBeZero
  | _ => .error .function

/-- Major 0x20 (R163 to R175). -/
def decodeMajor20 (w : Word32) : Except Reject Instr :=
  match (fld w 13 3).toNat with
  | 0 => accept (.beq ⟨fld w 21 5, fld w 16 5, fld w 0 13⟩)
  | 1 => accept (.bne ⟨fld w 21 5, fld w 16 5, fld w 0 13⟩)
  | 2 => accept (.blt ⟨fld w 21 5, fld w 16 5, fld w 0 13⟩)
  | 3 => accept (.bge ⟨fld w 21 5, fld w 16 5, fld w 0 13⟩)
  | 4 => accept (.bltu ⟨fld w 21 5, fld w 16 5, fld w 0 13⟩)
  | 5 => accept (.bgeu ⟨fld w 21 5, fld w 16 5, fld w 0 13⟩)
  | _ => .error .function

/-- Major 0x21 (R163 to R175). -/
def decodeMajor21 (w : Word32) : Except Reject Instr :=
  accept (.jal (fld w 0 26))

/-- Major 0x22 (R163 to R175). -/
def decodeMajor22 (w : Word32) : Except Reject Instr :=
  accept (.jalr ⟨fld w 21 5, fld w 16 5, fld w 1 15, flag w 0⟩)

/-- Major 0x23 (R163 to R175). -/
def decodeMajor23 (w : Word32) : Except Reject Instr :=
  match (fld w 16 10).toNat with
  | 0 => if fld w 0 16 == 0#16 then accept (.endBody) else .error .mustBeZero
  | 4 => accept (.trap (fld w 0 16))
  | 8 => accept (.bkpt (fld w 0 16))
  | 12 => accept (.svc (fld w 0 16))
  | _ => .error .function

/-- Major 0x24 (R163 to R175). -/
def decodeMajor24 (w : Word32) : Except Reject Instr :=
  match (fld w 1 2).toNat with
  | 0 =>
    match (fld w 4 5).toNat with
    | 0 => if fld w 21 5 == 0#5 then accept (.send ⟨fld w 16 5, fld w 11 5, fld w 9 2, flag w 3, flag w 0⟩) else .error .mustBeZero
    | 1 => if fld w 0 1 == 0#1 && fld w 9 2 == 0#2 && fld w 14 2 == 0#2 && fld w 21 5 == 0#5 then accept (.sendv ⟨fld w 16 5, fld w 11 3, flag w 3⟩) else .error .mustBeZero
    | 2 => if fld w 9 2 == 1#2 && fld w 21 5 == 0#5 then accept (.sendmPm ⟨fld w 16 5, fld w 11 5, flag w 3, flag w 0⟩) else .error .mustBeZero
    | _ => .error .function
  | 1 => if fld w 4 7 == 2#7 && fld w 21 5 == 0#5 then accept (.sendmIadd ⟨fld w 16 5, fld w 11 5, flag w 3, flag w 0⟩) else .error .mustBeZero
  | 2 => if fld w 4 7 == 2#7 && fld w 21 5 == 0#5 then accept (.sendmF32 ⟨fld w 16 5, fld w 11 5, flag w 3, flag w 0⟩) else .error .mustBeZero
  | 3 => if fld w 4 7 == 2#7 && fld w 21 5 == 0#5 then accept (.sendmF64 ⟨fld w 16 5, fld w 11 5, flag w 3, flag w 0⟩) else .error .mustBeZero
  | _ => .error .function

/-- Major 0x25 (R163 to R175). -/
noncomputable def decodeMajor25 (w : Word32) : Except Reject Instr :=
  match (fld w 4 7).toNat with
  | 0 => if fld w 0 2 == 0#2 then accept (.chnew ⟨fld w 21 5, fld w 16 5, fld w 11 5, flag w 3, flag w 2⟩) else .error .mustBeZero
  | 1 => if fld w 0 3 == 0#3 && fld w 11 5 == 0#5 then accept (.chfree ⟨fld w 21 5, fld w 16 5, flag w 3⟩) else .error .mustBeZero
  | 2 => if fld w 0 2 == 0#2 then accept (.chcfg ⟨fld w 21 5, fld w 16 5, fld w 11 5, flag w 3, flag w 2⟩) else .error .mustBeZero
  | 3 => if fld w 0 3 == 0#3 && fld w 11 5 == 0#5 then accept (.chcnt ⟨fld w 21 5, fld w 16 5, flag w 3⟩) else .error .mustBeZero
  | 4 => if fld w 0 2 == 0#2 then accept (.patset ⟨fld w 21 5, fld w 16 5, fld w 11 5, flag w 3, flag w 2⟩) else .error .mustBeZero
  | 5 => if fld w 0 3 == 0#3 && fld w 11 5 == 0#5 then accept (.patclr ⟨fld w 21 5, fld w 16 5, flag w 3⟩) else .error .mustBeZero
  | 6 => if fld w 0 2 == 0#2 then accept (.patrank ⟨fld w 21 5, fld w 16 5, fld w 11 5, flag w 3, flag w 2⟩) else .error .mustBeZero
  | 7 => if fld w 0 2 == 0#2 then accept (.relay ⟨fld w 21 5, fld w 16 5, fld w 11 5, flag w 3, flag w 2⟩) else .error .mustBeZero
  | _ => .error .function

/-- Major 0x26 (R163 to R175). -/
noncomputable def decodeMajor26 (w : Word32) : Except Reject Instr :=
  match (fld w 4 5).toNat with
  | 0 => if fld w 1 2 == 0#2 then accept (.spawn ⟨fld w 21 5, fld w 16 5, fld w 11 5, fld w 9 2, flag w 3, flag w 0⟩) else .error .mustBeZero
  | 1 => if fld w 1 2 == 0#2 then accept (.hstart ⟨fld w 21 5, fld w 16 5, fld w 11 5, fld w 9 2, flag w 3, flag w 0⟩) else .error .mustBeZero
  | 2 => if fld w 0 4 == 0#4 && fld w 9 12 == 0#12 then accept (.hstat (fld w 21 5)) else .error .mustBeZero
  | _ => .error .function

/-- Major 0x27 (R163 to R175). -/
noncomputable def decodeMajor27 (w : Word32) : Except Reject Instr :=
  match (fld w 4 7).toNat with
  | 0 =>
    match (fld w 0 2).toNat with
    | 0 => accept (.cbcfgSet ⟨fld w 21 5, fld w 16 5, fld w 11 5, flag w 3, flag w 2⟩)
    | 1 => accept (.cbcfgState ⟨fld w 21 5, fld w 16 5, fld w 11 5, flag w 3, flag w 2⟩)
    | 2 => accept (.cbcfgRebuild ⟨fld w 21 5, fld w 16 5, fld w 11 5, flag w 3, flag w 2⟩)
    | 3 => accept (.cbcfgClear ⟨fld w 21 5, fld w 16 5, fld w 11 5, flag w 3, flag w 2⟩)
    | _ => .error .function
  | 1 => if fld w 0 3 == 0#3 && fld w 11 5 == 0#5 && fld w 21 5 == 0#5 then accept (.cbret ⟨fld w 16 5, flag w 3⟩) else .error .mustBeZero
  | 2 => if fld w 0 3 == 0#3 && fld w 11 5 == 0#5 then accept (.cbcnt ⟨fld w 21 5, fld w 16 5, flag w 3⟩) else .error .mustBeZero
  | 3 => if fld w 0 3 == 0#3 && fld w 11 5 == 0#5 then accept (.cbaudit ⟨fld w 21 5, fld w 16 5, flag w 3⟩) else .error .mustBeZero
  | _ => .error .function

/-- Major 0x28 (R163 to R175). -/
def decodeMajor28 (w : Word32) : Except Reject Instr :=
  match (fld w 4 7).toNat with
  | 0 =>
    match (fld w 0 3).toNat with
    | 0 => if fld w 11 5 == 0#5 && fld w 23 3 == 0#3 then accept (.qcfgAff ⟨fld w 21 2, fld w 16 5, flag w 3⟩) else .error .mustBeZero
    | 1 => if fld w 11 5 == 0#5 && fld w 23 3 == 0#3 then accept (.qcfgSkip ⟨fld w 21 2, fld w 16 5, flag w 3⟩) else .error .mustBeZero
    | _ => .error .function
  | 1 => if fld w 0 3 == 0#3 && fld w 11 5 == 0#5 && fld w 23 3 == 0#3 then accept (.qnext ⟨fld w 21 2, fld w 16 5, flag w 3⟩) else .error .mustBeZero
  | 2 => if fld w 3 1 == 0#1 && fld w 13 8 == 0#8 then accept (.qrd ⟨fld w 21 5, fld w 11 2, flag w 2, fld w 0 2⟩) else .error .mustBeZero
  | 4 => if fld w 0 2 == 0#2 && fld w 24 2 == 0#2 then accept (.rep ⟨fld w 21 3, fld w 16 5, fld w 11 5, flag w 3, flag w 2⟩) else .error .mustBeZero
  | 5 => if fld w 0 2 == 0#2 && fld w 24 2 == 0#2 then accept (.repx ⟨fld w 21 3, fld w 16 5, fld w 11 5, flag w 3, flag w 2⟩) else .error .mustBeZero
  | _ => .error .function

/-- Major 0x30 (R163 to R175). -/
def decodeMajor30 (w : Word32) : Except Reject Instr :=
  match (fld w 2 5).toNat with
  | 0 => accept (.vadd ⟨fld w 22 4, fld w 18 4, fld w 14 4, fld w 11 3, flag w 10, fld w 8 2, flag w 7, flag w 1, flag w 0⟩)
  | 1 => accept (.vsub ⟨fld w 22 4, fld w 18 4, fld w 14 4, fld w 11 3, flag w 10, fld w 8 2, flag w 7, flag w 1, flag w 0⟩)
  | 2 => accept (.vmul ⟨fld w 22 4, fld w 18 4, fld w 14 4, fld w 11 3, flag w 10, fld w 8 2, flag w 7, flag w 1, flag w 0⟩)
  | 3 => accept (.vmulh ⟨fld w 22 4, fld w 18 4, fld w 14 4, fld w 11 3, flag w 10, fld w 8 2, flag w 7, flag w 1, flag w 0⟩)
  | 4 => accept (.vdot ⟨fld w 22 4, fld w 18 4, fld w 14 4, fld w 11 3, flag w 10, fld w 8 2, flag w 7, flag w 1, flag w 0⟩)
  | 5 => accept (.vmin ⟨fld w 22 4, fld w 18 4, fld w 14 4, fld w 11 3, flag w 10, fld w 8 2, flag w 7, flag w 1, flag w 0⟩)
  | 6 => accept (.vmax ⟨fld w 22 4, fld w 18 4, fld w 14 4, fld w 11 3, flag w 10, fld w 8 2, flag w 7, flag w 1, flag w 0⟩)
  | 7 => accept (.vand ⟨fld w 22 4, fld w 18 4, fld w 14 4, fld w 11 3, flag w 10, fld w 8 2, flag w 7, flag w 1, flag w 0⟩)
  | 8 => accept (.vor ⟨fld w 22 4, fld w 18 4, fld w 14 4, fld w 11 3, flag w 10, fld w 8 2, flag w 7, flag w 1, flag w 0⟩)
  | 9 => accept (.vxor ⟨fld w 22 4, fld w 18 4, fld w 14 4, fld w 11 3, flag w 10, fld w 8 2, flag w 7, flag w 1, flag w 0⟩)
  | 10 => accept (.vsll ⟨fld w 22 4, fld w 18 4, fld w 14 4, fld w 11 3, flag w 10, fld w 8 2, flag w 7, flag w 1, flag w 0⟩)
  | 11 => accept (.vsrl ⟨fld w 22 4, fld w 18 4, fld w 14 4, fld w 11 3, flag w 10, fld w 8 2, flag w 7, flag w 1, flag w 0⟩)
  | 12 => accept (.vsra ⟨fld w 22 4, fld w 18 4, fld w 14 4, fld w 11 3, flag w 10, fld w 8 2, flag w 7, flag w 1, flag w 0⟩)
  | 13 => if fld w 0 1 == 0#1 && fld w 14 4 == 0#4 then accept (.vabs ⟨fld w 22 4, fld w 18 4, fld w 11 3, flag w 10, fld w 8 2, flag w 7, flag w 1⟩) else .error .mustBeZero
  | 14 => accept (.vadds ⟨fld w 22 4, fld w 18 4, fld w 14 4, fld w 11 3, flag w 10, fld w 8 2, flag w 7, flag w 1, flag w 0⟩)
  | 15 => accept (.vsubs ⟨fld w 22 4, fld w 18 4, fld w 14 4, fld w 11 3, flag w 10, fld w 8 2, flag w 7, flag w 1, flag w 0⟩)
  | _ => .error .function

/-- Major 0x31 (R163 to R175). -/
def decodeMajor31 (w : Word32) : Except Reject Instr :=
  match (fld w 2 5).toNat with
  | 0 => accept (.vfadd ⟨fld w 22 4, fld w 18 4, fld w 14 4, fld w 11 3, flag w 10, fld w 8 2, flag w 7, flag w 1, flag w 0⟩)
  | 1 => accept (.vfsub ⟨fld w 22 4, fld w 18 4, fld w 14 4, fld w 11 3, flag w 10, fld w 8 2, flag w 7, flag w 1, flag w 0⟩)
  | 2 => accept (.vfmul ⟨fld w 22 4, fld w 18 4, fld w 14 4, fld w 11 3, flag w 10, fld w 8 2, flag w 7, flag w 1, flag w 0⟩)
  | 3 => accept (.vfdiv ⟨fld w 22 4, fld w 18 4, fld w 14 4, fld w 11 3, flag w 10, fld w 8 2, flag w 7, flag w 1, flag w 0⟩)
  | 4 => if fld w 0 1 == 0#1 && fld w 14 4 == 0#4 then accept (.vfsqrt ⟨fld w 22 4, fld w 18 4, fld w 11 3, flag w 10, fld w 8 2, flag w 7, flag w 1⟩) else .error .mustBeZero
  | 5 => accept (.vfmin ⟨fld w 22 4, fld w 18 4, fld w 14 4, fld w 11 3, flag w 10, fld w 8 2, flag w 7, flag w 1, flag w 0⟩)
  | 6 => accept (.vfmax ⟨fld w 22 4, fld w 18 4, fld w 14 4, fld w 11 3, flag w 10, fld w 8 2, flag w 7, flag w 1, flag w 0⟩)
  | _ => .error .function

/-- Major 0x32 (R163 to R175). -/
def decodeMajor32 (w : Word32) : Except Reject Instr :=
  if fld w 2 5 == 0#5 then accept (.vfma ⟨fld w 22 4, fld w 18 4, fld w 14 4, fld w 11 3, flag w 10, fld w 8 2, flag w 7, flag w 1, flag w 0⟩) else .error .mustBeZero

/-- Major 0x33 (R163 to R175). -/
def decodeMajor33 (w : Word32) : Except Reject Instr :=
  match (fld w 2 5).toNat with
  | 0 => if fld w 0 1 == 0#1 then accept (.vld ⟨fld w 22 4, fld w 18 4, fld w 14 4, fld w 11 3, flag w 10, fld w 8 2, flag w 7, flag w 1⟩) else .error .mustBeZero
  | 1 => if fld w 0 1 == 0#1 && fld w 7 1 == 0#1 then accept (.vst ⟨fld w 22 4, fld w 18 4, fld w 14 4, fld w 11 3, flag w 10, fld w 8 2, flag w 1⟩) else .error .mustBeZero
  | 2 => if fld w 0 2 == 0#2 && fld w 16 6 == 0#6 then accept (.vldq ⟨fld w 22 4, fld w 14 2, fld w 11 3, flag w 10, fld w 8 2, flag w 7⟩) else .error .mustBeZero
  | 3 => if fld w 0 2 == 0#2 && fld w 7 1 == 0#1 && fld w 16 6 == 0#6 then accept (.vstq ⟨fld w 22 4, fld w 14 2, fld w 11 3, flag w 10, fld w 8 2⟩) else .error .mustBeZero
  | 4 => accept (.vgath ⟨fld w 22 4, fld w 18 4, fld w 14 4, fld w 11 3, flag w 10, fld w 8 2, flag w 7, flag w 1, flag w 0⟩)
  | 5 => if fld w 7 1 == 0#1 then accept (.vscat ⟨fld w 22 4, fld w 18 4, fld w 14 4, fld w 11 3, flag w 10, fld w 8 2, flag w 1, flag w 0⟩) else .error .mustBeZero
  | 6 => if fld w 0 1 == 0#1 && fld w 14 4 == 0#4 then accept (.vldf ⟨fld w 22 4, fld w 18 4, fld w 11 3, flag w 10, fld w 8 2, flag w 7, flag w 1⟩) else .error .mustBeZero
  | 7 => if fld w 0 1 == 0#1 then accept (.vbcast ⟨fld w 22 4, fld w 18 4, fld w 14 4, fld w 11 3, flag w 10, fld w 8 2, flag w 7, flag w 1⟩) else .error .mustBeZero
  | _ => .error .function

/-- Major 0x34 (R163 to R175). -/
def decodeMajor34 (w : Word32) : Except Reject Instr :=
  match (fld w 2 5).toNat with
  | 0 => accept (.vshuf ⟨fld w 22 4, fld w 18 4, fld w 14 4, fld w 11 3, flag w 10, fld w 8 2, flag w 7, flag w 1, flag w 0⟩)
  | 1 => accept (.vzip ⟨fld w 22 4, fld w 18 4, fld w 14 4, fld w 11 3, flag w 10, fld w 8 2, flag w 7, flag w 1, flag w 0⟩)
  | 2 => accept (.vuzp ⟨fld w 22 4, fld w 18 4, fld w 14 4, fld w 11 3, flag w 10, fld w 8 2, flag w 7, flag w 1, flag w 0⟩)
  | 3 => accept (.vslide ⟨fld w 22 4, fld w 18 4, fld w 14 4, fld w 11 3, fld w 7 4, flag w 1, flag w 0⟩)
  | 4 => if fld w 0 1 == 0#1 && fld w 7 4 == 0#4 then accept (.vext ⟨fld w 22 4, fld w 18 4, fld w 14 4, fld w 11 3, flag w 1⟩) else .error .mustBeZero
  | 5 => if fld w 0 1 == 0#1 && fld w 7 4 == 0#4 then accept (.vins ⟨fld w 22 4, fld w 18 4, fld w 14 4, fld w 11 3, flag w 1⟩) else .error .mustBeZero
  | 6 => if fld w 0 1 == 0#1 && fld w 14 4 == 0#4 then accept (.vsplat ⟨fld w 22 4, fld w 18 4, fld w 11 3, flag w 10, fld w 8 2, flag w 7, flag w 1⟩) else .error .mustBeZero
  | 8 => if fld w 0 1 == 0#1 && fld w 14 4 == 0#4 then accept (.vredAdd ⟨fld w 22 4, fld w 18 4, fld w 11 3, flag w 10, fld w 8 2, flag w 7, flag w 1⟩) else .error .mustBeZero
  | 9 => if fld w 0 1 == 0#1 && fld w 14 4 == 0#4 then accept (.vredMin ⟨fld w 22 4, fld w 18 4, fld w 11 3, flag w 10, fld w 8 2, flag w 7, flag w 1⟩) else .error .mustBeZero
  | 10 => if fld w 0 1 == 0#1 && fld w 14 4 == 0#4 then accept (.vredMax ⟨fld w 22 4, fld w 18 4, fld w 11 3, flag w 10, fld w 8 2, flag w 7, flag w 1⟩) else .error .mustBeZero
  | _ => .error .function

/-- Major 0x35 (R163 to R175). -/
def decodeMajor35 (w : Word32) : Except Reject Instr :=
  match (fld w 2 5).toNat with
  | 0 => if fld w 0 1 == 0#1 then accept (.vcvt ⟨fld w 22 4, fld w 18 4, fld w 14 4, fld w 11 3, flag w 10, fld w 8 2, flag w 7, flag w 1⟩) else .error .mustBeZero
  | 1 => accept (.vpack ⟨fld w 22 4, fld w 18 4, fld w 14 4, fld w 11 3, flag w 10, fld w 8 2, flag w 7, flag w 1, flag w 0⟩)
  | 2 => if fld w 0 1 == 0#1 && fld w 15 3 == 0#3 then accept (.vunpk ⟨fld w 22 4, fld w 18 4, flag w 14, fld w 11 3, flag w 10, fld w 8 2, flag w 7, flag w 1⟩) else .error .mustBeZero
  | 3 => accept (.vcbx ⟨fld w 22 4, fld w 18 4, fld w 14 4, fld w 11 3, flag w 10, fld w 8 2, flag w 7, flag w 1, flag w 0⟩)
  | 4 => if fld w 7 7 == 64#7 && fld w 22 4 == 0#4 then accept (.vbxq ⟨fld w 18 4, fld w 14 4, flag w 1, flag w 0⟩) else .error .mustBeZero
  | 5 => if fld w 7 4 == 0#4 then accept (.vcq4 ⟨fld w 22 4, fld w 18 4, fld w 14 4, fld w 11 3, flag w 1, flag w 0⟩) else .error .mustBeZero
  | _ => .error .function

/-- Major 0x36 (R163 to R175). -/
def decodeMajor36 (w : Word32) : Except Reject Instr :=
  match (fld w 2 5).toNat with
  | 0 => if fld w 0 1 == 0#1 && fld w 14 4 == 0#4 then accept (.vexp2 ⟨fld w 22 4, fld w 18 4, fld w 11 3, flag w 10, fld w 8 2, flag w 7, flag w 1⟩) else .error .mustBeZero
  | 1 => if fld w 0 1 == 0#1 && fld w 14 4 == 0#4 then accept (.vlog2 ⟨fld w 22 4, fld w 18 4, fld w 11 3, flag w 10, fld w 8 2, flag w 7, flag w 1⟩) else .error .mustBeZero
  | 2 => if fld w 0 1 == 0#1 && fld w 14 4 == 0#4 then accept (.vrcp ⟨fld w 22 4, fld w 18 4, fld w 11 3, flag w 10, fld w 8 2, flag w 7, flag w 1⟩) else .error .mustBeZero
  | 3 => if fld w 0 1 == 0#1 && fld w 14 4 == 0#4 then accept (.vrsq ⟨fld w 22 4, fld w 18 4, fld w 11 3, flag w 10, fld w 8 2, flag w 7, flag w 1⟩) else .error .mustBeZero
  | 4 => if fld w 0 1 == 0#1 && fld w 14 4 == 0#4 then accept (.vsin ⟨fld w 22 4, fld w 18 4, fld w 11 3, flag w 10, fld w 8 2, flag w 7, flag w 1⟩) else .error .mustBeZero
  | 5 => if fld w 0 1 == 0#1 && fld w 14 4 == 0#4 then accept (.vcos ⟨fld w 22 4, fld w 18 4, fld w 11 3, flag w 10, fld w 8 2, flag w 7, flag w 1⟩) else .error .mustBeZero
  | _ => .error .function

/-- Major 0x37 (R163 to R175). -/
def decodeMajor37 (w : Word32) : Except Reject Instr :=
  match (fld w 2 5).toNat with
  | 0 => accept (.vcmpEq ⟨fld w 22 4, fld w 18 4, fld w 14 4, fld w 11 3, flag w 10, fld w 8 2, flag w 7, flag w 1, flag w 0⟩)
  | 1 => accept (.vcmpNe ⟨fld w 22 4, fld w 18 4, fld w 14 4, fld w 11 3, flag w 10, fld w 8 2, flag w 7, flag w 1, flag w 0⟩)
  | 2 => accept (.vcmpLt ⟨fld w 22 4, fld w 18 4, fld w 14 4, fld w 11 3, flag w 10, fld w 8 2, flag w 7, flag w 1, flag w 0⟩)
  | 3 => accept (.vcmpLe ⟨fld w 22 4, fld w 18 4, fld w 14 4, fld w 11 3, flag w 10, fld w 8 2, flag w 7, flag w 1, flag w 0⟩)
  | 4 => accept (.vcmpLtu ⟨fld w 22 4, fld w 18 4, fld w 14 4, fld w 11 3, flag w 10, fld w 8 2, flag w 7, flag w 1, flag w 0⟩)
  | 5 => accept (.vcmpLeu ⟨fld w 22 4, fld w 18 4, fld w 14 4, fld w 11 3, flag w 10, fld w 8 2, flag w 7, flag w 1, flag w 0⟩)
  | 8 => if fld w 7 7 == 0#7 then accept (.vmand ⟨fld w 22 4, fld w 18 4, fld w 14 4, flag w 1, flag w 0⟩) else .error .mustBeZero
  | 9 => if fld w 7 7 == 0#7 then accept (.vmor ⟨fld w 22 4, fld w 18 4, fld w 14 4, flag w 1, flag w 0⟩) else .error .mustBeZero
  | 10 => if fld w 7 7 == 0#7 then accept (.vmxor ⟨fld w 22 4, fld w 18 4, fld w 14 4, flag w 1, flag w 0⟩) else .error .mustBeZero
  | 11 => if fld w 0 1 == 0#1 && fld w 7 11 == 0#11 then accept (.vmnot ⟨fld w 22 4, fld w 18 4, flag w 1⟩) else .error .mustBeZero
  | 12 => if fld w 0 1 == 0#1 && fld w 7 4 == 0#4 && fld w 14 4 == 0#4 then accept (.vmcnt ⟨fld w 22 4, fld w 18 4, fld w 11 3, flag w 1⟩) else .error .mustBeZero
  | 13 => if fld w 0 1 == 0#1 && fld w 7 4 == 0#4 && fld w 14 4 == 0#4 then accept (.vmfst ⟨fld w 22 4, fld w 18 4, fld w 11 3, flag w 1⟩) else .error .mustBeZero
  | _ => .error .function

/-- Major 0x38 (R163 to R175). -/
def decodeMajor38 (w : Word32) : Except Reject Instr :=
  match (fld w 0 13).toNat with
  | 0 => accept (.mgang ⟨fld w 23 3, fld w 18 5, fld w 13 5⟩)
  | 4 => if fld w 13 5 == 0#5 then accept (.mmas ⟨fld w 23 3, fld w 18 5⟩) else .error .mustBeZero
  | 8 => if fld w 13 10 == 0#10 then accept (.mzero (fld w 23 3)) else .error .mustBeZero
  | _ => .error .function

/-- Major 0x39 (R163 to R175). -/
def decodeMajor39 (w : Word32) : Except Reject Instr :=
  match (fld w 2 6).toNat with
  | 0 => if fld w 1 1 == 0#1 then accept (.mdrainI64 ⟨fld w 23 3, fld w 18 5, fld w 13 5, fld w 8 5, flag w 0⟩) else .error .mustBeZero
  | 1 => if fld w 1 1 == 0#1 then accept (.mdrainI32s ⟨fld w 23 3, fld w 18 5, fld w 13 5, fld w 8 5, flag w 0⟩) else .error .mustBeZero
  | 2 => if fld w 1 1 == 0#1 then accept (.mdrainF32 ⟨fld w 23 3, fld w 18 5, fld w 13 5, fld w 8 5, flag w 0⟩) else .error .mustBeZero
  | 3 => if fld w 1 1 == 0#1 then accept (.mdrainF32a ⟨fld w 23 3, fld w 18 5, fld w 13 5, fld w 8 5, flag w 0⟩) else .error .mustBeZero
  | 4 => if fld w 1 1 == 0#1 then accept (.mdrainBf16 ⟨fld w 23 3, fld w 18 5, fld w 13 5, fld w 8 5, flag w 0⟩) else .error .mustBeZero
  | 8 => accept (.mdrainc ⟨fld w 23 3, fld w 18 5, fld w 13 5, fld w 8 5, fld w 0 2⟩)
  | 16 => if fld w 0 2 == 0#2 && fld w 8 5 == 0#5 then accept (.ard ⟨fld w 23 3, fld w 18 5, fld w 13 5⟩) else .error .mustBeZero
  | 17 => if fld w 0 2 == 0#2 && fld w 18 5 == 0#5 then accept (.awr ⟨fld w 23 3, fld w 13 5, fld w 8 5⟩) else .error .mustBeZero
  | 18 => if fld w 0 2 == 0#2 && fld w 8 10 == 0#10 then accept (.achk ⟨fld w 23 3, fld w 18 5⟩) else .error .mustBeZero
  | 24 => if fld w 0 2 == 0#2 && fld w 23 3 == 0#3 then accept (.acfg ⟨fld w 18 5, fld w 13 5, fld w 8 5⟩) else .error .mustBeZero
  | 25 => if fld w 0 2 == 0#2 && fld w 8 10 == 0#10 && fld w 23 3 == 0#3 then accept (.cbld (fld w 18 5)) else .error .mustBeZero
  | _ => .error .function

/-- Major 0x3A (R163 to R175). -/
noncomputable def decodeMajor3A (w : Word32) : Except Reject Instr :=
  match (fld w 4 7).toNat with
  | 0 => if fld w 2 1 == 0#1 && fld w 11 5 == 0#5 then accept (.rnfwd ⟨fld w 21 5, fld w 16 5, flag w 3, fld w 0 2⟩) else .error .mustBeZero
  | 1 => if fld w 0 3 == 0#3 && fld w 11 5 == 0#5 then accept (.rnrev ⟨fld w 21 5, fld w 16 5, flag w 3⟩) else .error .mustBeZero
  | 2 => if fld w 0 2 == 0#2 then accept (.rnadd ⟨fld w 21 5, fld w 16 5, fld w 11 5, flag w 3, flag w 2⟩) else .error .mustBeZero
  | 3 => if fld w 0 2 == 0#2 then accept (.rnsub ⟨fld w 21 5, fld w 16 5, fld w 11 5, flag w 3, flag w 2⟩) else .error .mustBeZero
  | 4 => if fld w 0 2 == 0#2 then accept (.rnmul ⟨fld w 21 5, fld w 16 5, fld w 11 5, flag w 3, flag w 2⟩) else .error .mustBeZero
  | 5 => if fld w 0 3 == 0#3 && fld w 11 5 == 0#5 then accept (.rnchk ⟨fld w 21 5, fld w 16 5, flag w 3⟩) else .error .mustBeZero
  | _ => .error .function

/-- Major 0x3B (R163 to R175). -/
noncomputable def decodeMajor3B (w : Word32) : Except Reject Instr :=
  match (fld w 4 7).toNat with
  | 0 => if fld w 0 2 == 0#2 then accept (.cpy ⟨fld w 21 5, fld w 16 5, fld w 11 5, flag w 3, flag w 2⟩) else .error .mustBeZero
  | 1 => if fld w 0 2 == 0#2 then accept (.cpya ⟨fld w 21 5, fld w 16 5, fld w 11 5, flag w 3, flag w 2⟩) else .error .mustBeZero
  | 2 => if fld w 0 2 == 0#2 then accept (.cpyw ⟨fld w 21 5, fld w 16 5, fld w 11 5, flag w 3, flag w 2⟩) else .error .mustBeZero
  | 3 => if fld w 0 2 == 0#2 then accept (.cpyg ⟨fld w 21 5, fld w 16 5, fld w 11 5, flag w 3, flag w 2⟩) else .error .mustBeZero
  | 8 => if fld w 0 3 == 0#3 && fld w 11 5 == 0#5 then accept (.weirnew ⟨fld w 21 5, fld w 16 5, flag w 3⟩) else .error .mustBeZero
  | 9 => if fld w 0 2 == 0#2 && fld w 21 5 == 0#5 then accept (.weiradd ⟨fld w 16 5, fld w 11 5, flag w 3, flag w 2⟩) else .error .mustBeZero
  | 10 =>
    match (fld w 0 3).toNat with
    | 0 => if fld w 11 5 == 0#5 && fld w 21 5 == 0#5 then accept (.weirarm ⟨fld w 16 5, flag w 3⟩) else .error .mustBeZero
    | 1 => if fld w 11 5 == 0#5 && fld w 21 5 == 0#5 then accept (.weirarmFree ⟨fld w 16 5, flag w 3⟩) else .error .mustBeZero
    | _ => .error .function
  | 11 => if fld w 0 3 == 0#3 && fld w 11 5 == 0#5 then accept (.weirrd ⟨fld w 21 5, fld w 16 5, flag w 3⟩) else .error .mustBeZero
  | _ => .error .function

/-- Major 0x3F (R163 to R175). -/
def decodeMajor3F (w : Word32) : Except Reject Instr :=
  match (fld w 24 2).toNat with
  | 0 => accept (.hintImm (fld w 0 24))
  | 1 => if fld w 0 13 == 0#13 then accept (.hintMod ⟨flag w 23, fld w 20 3, flag w 19, fld w 16 3, fld w 14 2, flag w 13⟩) else .error .mustBeZero
  | 2 => if fld w 0 16 == 0#16 then accept (.hintSched ⟨fld w 22 2, fld w 16 6⟩) else .error .mustBeZero
  | _ => .error .function

/-- The instruction a word encodes (R142 step 2), or why it encodes none (R176). -/
noncomputable def decode (w : Word32) : Except Reject Instr :=
  match (fld w 26 6).toNat with
  | 1 => decodeMajor01 w
  | 2 => decodeMajor02 w
  | 3 => decodeMajor03 w
  | 4 => decodeMajor04 w
  | 5 => decodeMajor05 w
  | 6 => decodeMajor06 w
  | 7 => decodeMajor07 w
  | 8 => decodeMajor08 w
  | 9 => decodeMajor09 w
  | 10 => decodeMajor0A w
  | 11 => decodeMajor0B w
  | 12 => decodeMajor0C w
  | 13 => decodeMajor0D w
  | 14 => decodeMajor0E w
  | 16 => decodeMajor10 w
  | 17 => decodeMajor11 w
  | 18 => decodeMajor12 w
  | 19 => decodeMajor13 w
  | 20 => decodeMajor14 w
  | 21 => decodeMajor15 w
  | 22 => decodeMajor16 w
  | 23 => decodeMajor17 w
  | 24 => decodeMajor18 w
  | 25 => decodeMajor19 w
  | 26 => decodeMajor1A w
  | 27 => decodeMajor1B w
  | 28 => decodeMajor1C w
  | 32 => decodeMajor20 w
  | 33 => decodeMajor21 w
  | 34 => decodeMajor22 w
  | 35 => decodeMajor23 w
  | 36 => decodeMajor24 w
  | 37 => decodeMajor25 w
  | 38 => decodeMajor26 w
  | 39 => decodeMajor27 w
  | 40 => decodeMajor28 w
  | 48 => decodeMajor30 w
  | 49 => decodeMajor31 w
  | 50 => decodeMajor32 w
  | 51 => decodeMajor33 w
  | 52 => decodeMajor34 w
  | 53 => decodeMajor35 w
  | 54 => decodeMajor36 w
  | 55 => decodeMajor37 w
  | 56 => decodeMajor38 w
  | 57 => decodeMajor39 w
  | 58 => decodeMajor3A w
  | 59 => decodeMajor3B w
  | 63 => decodeMajor3F w
  | _ => .error .major

/-- The instruction a word encodes if its major is one whose words a sequence may capture (R241: majors 0x28, 0x30 to
0x39 and 0x3F): `decode` on those majors, as a definition that is also compiled. -/
def decodeCaptured (w : Word32) : Except Reject Instr :=
  match (fld w 26 6).toNat with
  | 40 => decodeMajor28 w
  | 48 => decodeMajor30 w
  | 49 => decodeMajor31 w
  | 50 => decodeMajor32 w
  | 51 => decodeMajor33 w
  | 52 => decodeMajor34 w
  | 53 => decodeMajor35 w
  | 54 => decodeMajor36 w
  | 55 => decodeMajor37 w
  | 56 => decodeMajor38 w
  | 57 => decodeMajor39 w
  | 63 => decodeMajor3F w
  | _ => .error .major

/-- Four bytes as a word, the lowest address first (R2, R142). -/
def wordOfBytes (b0 b1 b2 b3 : Byte) : Word32 := b3 ++ (b2 ++ (b1 ++ b0))

/-- The first instruction of a run of bytes, and the bytes after it. -/
noncomputable def decodeBytes (bs : List Byte) : Except Reject (Instr × List Byte) :=
  match bs with
  | b0 :: b1 :: b2 :: b3 :: rest => (decode (wordOfBytes b0 b1 b2 b3)).map (·, rest)
  | _ => .error .short

/-- The bytes of a word as memory holds them (R2). -/
def bytesOfWord (w : Word32) : List Byte :=
  [w.extractLsb' 0 8, w.extractLsb' 8 8, w.extractLsb' 16 8, w.extractLsb' 24 8]

/-- The instruction the decoder reads from the `nbits` low bits of `w`, laid out as the part stores words. -/
noncomputable def decodeTableWord (nbits w : Nat) : Option Instr :=
  match decodeBytes (bytesOfWord (BitVec.ofNat 32 (w % 2 ^ nbits))) with
  | .ok (i, _) => some i
  | .error _ => none

/-- Two runs of bits side by side, the first above the second, `n` bits in all (R6). -/
def cat (n : Nat) {v w : Nat} (hi : BitVec v) (lo : BitVec w) : BitVec n := (hi ++ lo).setWidth n

/-- The word of an encoded operation, from the formats of R143 to R153 and the tables of R163 to R175; none for the
steps and commands that have no word. -/
def encode (i : Instr) : Option Word32 :=
  match i with
  | .add o => some (cat 32 1#6 (cat 26 o.rd (cat 21 o.ra (cat 16 o.rb (cat 11 o.cls (cat 9 0#5 (cat 4 (BitVec.ofBool o.ea) (cat 3 (BitVec.ofBool o.eb) o.sz))))))))
  | .sub o => some (cat 32 1#6 (cat 26 o.rd (cat 21 o.ra (cat 16 o.rb (cat 11 o.cls (cat 9 1#5 (cat 4 (BitVec.ofBool o.ea) (cat 3 (BitVec.ofBool o.eb) o.sz))))))))
  | .and o => some (cat 32 1#6 (cat 26 o.rd (cat 21 o.ra (cat 16 o.rb (cat 11 o.cls (cat 9 2#5 (cat 4 (BitVec.ofBool o.ea) (cat 3 (BitVec.ofBool o.eb) o.sz))))))))
  | .or o => some (cat 32 1#6 (cat 26 o.rd (cat 21 o.ra (cat 16 o.rb (cat 11 o.cls (cat 9 3#5 (cat 4 (BitVec.ofBool o.ea) (cat 3 (BitVec.ofBool o.eb) o.sz))))))))
  | .xor o => some (cat 32 1#6 (cat 26 o.rd (cat 21 o.ra (cat 16 o.rb (cat 11 o.cls (cat 9 4#5 (cat 4 (BitVec.ofBool o.ea) (cat 3 (BitVec.ofBool o.eb) o.sz))))))))
  | .andn o => some (cat 32 1#6 (cat 26 o.rd (cat 21 o.ra (cat 16 o.rb (cat 11 o.cls (cat 9 5#5 (cat 4 (BitVec.ofBool o.ea) (cat 3 (BitVec.ofBool o.eb) o.sz))))))))
  | .orn o => some (cat 32 1#6 (cat 26 o.rd (cat 21 o.ra (cat 16 o.rb (cat 11 o.cls (cat 9 6#5 (cat 4 (BitVec.ofBool o.ea) (cat 3 (BitVec.ofBool o.eb) o.sz))))))))
  | .sll o => some (cat 32 1#6 (cat 26 o.rd (cat 21 o.ra (cat 16 o.rb (cat 11 o.cls (cat 9 8#5 (cat 4 (BitVec.ofBool o.ea) (cat 3 (BitVec.ofBool o.eb) o.sz))))))))
  | .srl o => some (cat 32 1#6 (cat 26 o.rd (cat 21 o.ra (cat 16 o.rb (cat 11 o.cls (cat 9 9#5 (cat 4 (BitVec.ofBool o.ea) (cat 3 (BitVec.ofBool o.eb) o.sz))))))))
  | .sra o => some (cat 32 1#6 (cat 26 o.rd (cat 21 o.ra (cat 16 o.rb (cat 11 o.cls (cat 9 10#5 (cat 4 (BitVec.ofBool o.ea) (cat 3 (BitVec.ofBool o.eb) o.sz))))))))
  | .rol o => some (cat 32 1#6 (cat 26 o.rd (cat 21 o.ra (cat 16 o.rb (cat 11 o.cls (cat 9 11#5 (cat 4 (BitVec.ofBool o.ea) (cat 3 (BitVec.ofBool o.eb) o.sz))))))))
  | .slt o => some (cat 32 1#6 (cat 26 o.rd (cat 21 o.ra (cat 16 o.rb (cat 11 o.cls (cat 9 16#5 (cat 4 (BitVec.ofBool o.ea) (cat 3 (BitVec.ofBool o.eb) o.sz))))))))
  | .sltu o => some (cat 32 1#6 (cat 26 o.rd (cat 21 o.ra (cat 16 o.rb (cat 11 o.cls (cat 9 17#5 (cat 4 (BitVec.ofBool o.ea) (cat 3 (BitVec.ofBool o.eb) o.sz))))))))
  | .seq o => some (cat 32 1#6 (cat 26 o.rd (cat 21 o.ra (cat 16 o.rb (cat 11 o.cls (cat 9 18#5 (cat 4 (BitVec.ofBool o.ea) (cat 3 (BitVec.ofBool o.eb) o.sz))))))))
  | .sne o => some (cat 32 1#6 (cat 26 o.rd (cat 21 o.ra (cat 16 o.rb (cat 11 o.cls (cat 9 19#5 (cat 4 (BitVec.ofBool o.ea) (cat 3 (BitVec.ofBool o.eb) o.sz))))))))
  | .min o => some (cat 32 1#6 (cat 26 o.rd (cat 21 o.ra (cat 16 o.rb (cat 11 o.cls (cat 9 20#5 (cat 4 (BitVec.ofBool o.ea) (cat 3 (BitVec.ofBool o.eb) o.sz))))))))
  | .max o => some (cat 32 1#6 (cat 26 o.rd (cat 21 o.ra (cat 16 o.rb (cat 11 o.cls (cat 9 21#5 (cat 4 (BitVec.ofBool o.ea) (cat 3 (BitVec.ofBool o.eb) o.sz))))))))
  | .minu o => some (cat 32 1#6 (cat 26 o.rd (cat 21 o.ra (cat 16 o.rb (cat 11 o.cls (cat 9 22#5 (cat 4 (BitVec.ofBool o.ea) (cat 3 (BitVec.ofBool o.eb) o.sz))))))))
  | .maxu o => some (cat 32 1#6 (cat 26 o.rd (cat 21 o.ra (cat 16 o.rb (cat 11 o.cls (cat 9 23#5 (cat 4 (BitVec.ofBool o.ea) (cat 3 (BitVec.ofBool o.eb) o.sz))))))))
  | .clz o => some (cat 32 1#6 (cat 26 o.rd (cat 21 o.ra (cat 16 0#5 (cat 11 o.cls (cat 9 24#5 (cat 4 (BitVec.ofBool o.ea) (cat 3 0#1 o.sz))))))))
  | .ctz o => some (cat 32 1#6 (cat 26 o.rd (cat 21 o.ra (cat 16 0#5 (cat 11 o.cls (cat 9 25#5 (cat 4 (BitVec.ofBool o.ea) (cat 3 0#1 o.sz))))))))
  | .popc o => some (cat 32 1#6 (cat 26 o.rd (cat 21 o.ra (cat 16 0#5 (cat 11 o.cls (cat 9 26#5 (cat 4 (BitVec.ofBool o.ea) (cat 3 0#1 o.sz))))))))
  | .brev o => some (cat 32 1#6 (cat 26 o.rd (cat 21 o.ra (cat 16 0#5 (cat 11 o.cls (cat 9 27#5 (cat 4 (BitVec.ofBool o.ea) (cat 3 0#1 o.sz))))))))
  | .bswap o => some (cat 32 1#6 (cat 26 o.rd (cat 21 o.ra (cat 16 0#5 (cat 11 o.cls (cat 9 28#5 (cat 4 (BitVec.ofBool o.ea) (cat 3 0#1 o.sz))))))))
  | .sext o => some (cat 32 1#6 (cat 26 o.rd (cat 21 o.ra (cat 16 0#5 (cat 11 o.cls (cat 9 29#5 (cat 4 (BitVec.ofBool o.ea) (cat 3 0#1 o.sz))))))))
  | .zext o => some (cat 32 1#6 (cat 26 o.rd (cat 21 o.ra (cat 16 0#5 (cat 11 o.cls (cat 9 30#5 (cat 4 (BitVec.ofBool o.ea) (cat 3 0#1 o.sz))))))))
  | .addi o => some (cat 32 2#6 (cat 26 o.rd (cat 21 o.ra (cat 16 o.imm (BitVec.ofBool o.ea)))))
  | .andi o => some (cat 32 3#6 (cat 26 o.rd (cat 21 o.ra (cat 16 o.imm (BitVec.ofBool o.ea)))))
  | .ori o => some (cat 32 4#6 (cat 26 o.rd (cat 21 o.ra (cat 16 o.imm (BitVec.ofBool o.ea)))))
  | .xori o => some (cat 32 5#6 (cat 26 o.rd (cat 21 o.ra (cat 16 o.imm (BitVec.ofBool o.ea)))))
  | .slli o => some (cat 32 6#6 (cat 26 o.rd (cat 21 o.ra (cat 16 0#9 (cat 7 o.amt (BitVec.ofBool o.ea))))))
  | .srli o => some (cat 32 6#6 (cat 26 o.rd (cat 21 o.ra (cat 16 1#9 (cat 7 o.amt (BitVec.ofBool o.ea))))))
  | .srai o => some (cat 32 6#6 (cat 26 o.rd (cat 21 o.ra (cat 16 2#9 (cat 7 o.amt (BitVec.ofBool o.ea))))))
  | .slti o => some (cat 32 7#6 (cat 26 o.rd (cat 21 o.ra (cat 16 o.imm (BitVec.ofBool o.ea)))))
  | .sltui o => some (cat 32 8#6 (cat 26 o.rd (cat 21 o.ra (cat 16 o.imm (BitVec.ofBool o.ea)))))
  | .lih o => some (cat 32 9#6 (cat 26 o.rd o.imm))
  | .addpc o => some (cat 32 10#6 (cat 26 o.rd o.imm))
  | .mul o => some (cat 32 11#6 (cat 26 o.rd (cat 21 o.ra (cat 16 o.rb (cat 11 o.cls (cat 9 0#5 (cat 4 (BitVec.ofBool o.ea) (cat 3 (BitVec.ofBool o.eb) o.sz))))))))
  | .mulh o => some (cat 32 11#6 (cat 26 o.rd (cat 21 o.ra (cat 16 o.rb (cat 11 o.cls (cat 9 1#5 (cat 4 (BitVec.ofBool o.ea) (cat 3 (BitVec.ofBool o.eb) o.sz))))))))
  | .mulhu o => some (cat 32 11#6 (cat 26 o.rd (cat 21 o.ra (cat 16 o.rb (cat 11 o.cls (cat 9 2#5 (cat 4 (BitVec.ofBool o.ea) (cat 3 (BitVec.ofBool o.eb) o.sz))))))))
  | .div o => some (cat 32 11#6 (cat 26 o.rd (cat 21 o.ra (cat 16 o.rb (cat 11 o.cls (cat 9 4#5 (cat 4 (BitVec.ofBool o.ea) (cat 3 (BitVec.ofBool o.eb) o.sz))))))))
  | .divu o => some (cat 32 11#6 (cat 26 o.rd (cat 21 o.ra (cat 16 o.rb (cat 11 o.cls (cat 9 5#5 (cat 4 (BitVec.ofBool o.ea) (cat 3 (BitVec.ofBool o.eb) o.sz))))))))
  | .rem o => some (cat 32 11#6 (cat 26 o.rd (cat 21 o.ra (cat 16 o.rb (cat 11 o.cls (cat 9 6#5 (cat 4 (BitVec.ofBool o.ea) (cat 3 (BitVec.ofBool o.eb) o.sz))))))))
  | .remu o => some (cat 32 11#6 (cat 26 o.rd (cat 21 o.ra (cat 16 o.rb (cat 11 o.cls (cat 9 7#5 (cat 4 (BitVec.ofBool o.ea) (cat 3 (BitVec.ofBool o.eb) o.sz))))))))
  | .fadd o => some (cat 32 12#6 (cat 26 o.rd (cat 21 o.ra (cat 16 o.rb (cat 11 0#7 (cat 4 (BitVec.ofBool o.ea) (cat 3 (BitVec.ofBool o.eb) o.sz)))))))
  | .fsub o => some (cat 32 12#6 (cat 26 o.rd (cat 21 o.ra (cat 16 o.rb (cat 11 1#7 (cat 4 (BitVec.ofBool o.ea) (cat 3 (BitVec.ofBool o.eb) o.sz)))))))
  | .fmul o => some (cat 32 12#6 (cat 26 o.rd (cat 21 o.ra (cat 16 o.rb (cat 11 2#7 (cat 4 (BitVec.ofBool o.ea) (cat 3 (BitVec.ofBool o.eb) o.sz)))))))
  | .fdiv o => some (cat 32 12#6 (cat 26 o.rd (cat 21 o.ra (cat 16 o.rb (cat 11 3#7 (cat 4 (BitVec.ofBool o.ea) (cat 3 (BitVec.ofBool o.eb) o.sz)))))))
  | .fsqrt o => some (cat 32 12#6 (cat 26 o.rd (cat 21 o.ra (cat 16 4#12 (cat 4 (BitVec.ofBool o.ea) (cat 3 0#1 o.sz))))))
  | .fmin o => some (cat 32 12#6 (cat 26 o.rd (cat 21 o.ra (cat 16 o.rb (cat 11 5#7 (cat 4 (BitVec.ofBool o.ea) (cat 3 (BitVec.ofBool o.eb) o.sz)))))))
  | .fmax o => some (cat 32 12#6 (cat 26 o.rd (cat 21 o.ra (cat 16 o.rb (cat 11 6#7 (cat 4 (BitVec.ofBool o.ea) (cat 3 (BitVec.ofBool o.eb) o.sz)))))))
  | .fcmpEq o => some (cat 32 12#6 (cat 26 o.rd (cat 21 o.ra (cat 16 o.rb (cat 11 8#7 (cat 4 (BitVec.ofBool o.ea) (cat 3 (BitVec.ofBool o.eb) o.sz)))))))
  | .fcmpLt o => some (cat 32 12#6 (cat 26 o.rd (cat 21 o.ra (cat 16 o.rb (cat 11 9#7 (cat 4 (BitVec.ofBool o.ea) (cat 3 (BitVec.ofBool o.eb) o.sz)))))))
  | .fcmpLe o => some (cat 32 12#6 (cat 26 o.rd (cat 21 o.ra (cat 16 o.rb (cat 11 10#7 (cat 4 (BitVec.ofBool o.ea) (cat 3 (BitVec.ofBool o.eb) o.sz)))))))
  | .fcmpUn o => some (cat 32 12#6 (cat 26 o.rd (cat 21 o.ra (cat 16 o.rb (cat 11 11#7 (cat 4 (BitVec.ofBool o.ea) (cat 3 (BitVec.ofBool o.eb) o.sz)))))))
  | .fclass o => some (cat 32 12#6 (cat 26 o.rd (cat 21 o.ra (cat 16 12#12 (cat 4 (BitVec.ofBool o.ea) (cat 3 0#1 o.sz))))))
  | .fcvtToFloat o => some (cat 32 12#6 (cat 26 o.rd (cat 21 o.ra (cat 16 o.src (cat 11 16#7 (cat 4 (BitVec.ofBool o.ea) (cat 3 0#1 o.sz)))))))
  | .fcvtToSigned o => some (cat 32 12#6 (cat 26 o.rd (cat 21 o.ra (cat 16 o.src (cat 11 17#7 (cat 4 (BitVec.ofBool o.ea) (cat 3 0#1 o.sz)))))))
  | .fcvtToUnsigned o => some (cat 32 12#6 (cat 26 o.rd (cat 21 o.ra (cat 16 o.src (cat 11 18#7 (cat 4 (BitVec.ofBool o.ea) (cat 3 0#1 o.sz)))))))
  | .fsignB o => some (cat 32 12#6 (cat 26 o.rd (cat 21 o.ra (cat 16 o.rb (cat 11 24#7 (cat 4 (BitVec.ofBool o.ea) (cat 3 (BitVec.ofBool o.eb) o.sz)))))))
  | .fsignNb o => some (cat 32 12#6 (cat 26 o.rd (cat 21 o.ra (cat 16 o.rb (cat 11 25#7 (cat 4 (BitVec.ofBool o.ea) (cat 3 (BitVec.ofBool o.eb) o.sz)))))))
  | .fsignX o => some (cat 32 12#6 (cat 26 o.rd (cat 21 o.ra (cat 16 o.rb (cat 11 26#7 (cat 4 (BitVec.ofBool o.ea) (cat 3 (BitVec.ofBool o.eb) o.sz)))))))
  | .madd o => some (cat 32 13#6 (cat 26 o.rd (cat 21 o.ra (cat 16 o.rb (cat 11 o.rc (cat 6 0#3 (cat 3 (BitVec.ofBool o.ea) (cat 2 (BitVec.ofBool o.eb) (BitVec.ofBool o.ec)))))))))
  | .sel o => some (cat 32 13#6 (cat 26 o.rd (cat 21 o.ra (cat 16 o.rb (cat 11 o.rc (cat 6 1#3 (cat 3 (BitVec.ofBool o.ea) (cat 2 (BitVec.ofBool o.eb) (BitVec.ofBool o.ec)))))))))
  | .fma o => some (cat 32 13#6 (cat 26 o.rd (cat 21 o.ra (cat 16 o.rb (cat 11 o.rc (cat 6 1#1 (cat 5 o.ty (cat 3 (BitVec.ofBool o.ea) (cat 2 (BitVec.ofBool o.eb) (BitVec.ofBool o.ec))))))))))
  | .crr o => some (cat 32 14#6 (cat 26 o.rd (cat 21 0#8 (cat 13 o.reg 0#1))))
  | .crw o => some (cat 32 448#11 (cat 21 o.ra (cat 16 1#3 (cat 13 o.reg (BitVec.ofBool o.ea)))))
  | .crs o => some (cat 32 14#6 (cat 26 o.rd (cat 21 o.ra (cat 16 2#3 (cat 13 o.reg (BitVec.ofBool o.ea))))))
  | .crc o => some (cat 32 14#6 (cat 26 o.rd (cat 21 o.ra (cat 16 3#3 (cat 13 o.reg (BitVec.ofBool o.ea))))))
  | .ld o => some (cat 32 16#6 (cat 26 o.rt (cat 21 o.base (cat 16 o.mode (cat 13 (BitVec.ofBool o.ea) o.off)))))
  | .st o => some (cat 32 17#6 (cat 26 o.rt (cat 21 o.base (cat 16 o.mode (cat 13 (BitVec.ofBool o.ea) o.off)))))
  | .lds o => some (cat 32 18#6 (cat 26 o.rt (cat 21 o.base (cat 16 o.scope (cat 13 (BitVec.ofBool o.ea) (cat 12 o.size o.off))))))
  | .sts o => some (cat 32 19#6 (cat 26 o.rt (cat 21 o.base (cat 16 o.scope (cat 13 (BitVec.ofBool o.ea) (cat 12 o.size o.off))))))
  | .ldv o => some (cat 32 20#6 (cat 26 o.rd (cat 21 o.ra (cat 16 0#2 (cat 14 o.view (cat 11 0#6 (cat 5 (BitVec.ofBool o.zext) (cat 4 (BitVec.ofBool o.ea) (cat 3 (BitVec.ofBool o.eb) o.sz)))))))))
  | .stv o => some (cat 32 21#6 (cat 26 o.rd (cat 21 o.ra (cat 16 0#2 (cat 14 o.view (cat 11 0#7 (cat 4 (BitVec.ofBool o.ea) (cat 3 (BitVec.ofBool o.eb) o.sz))))))))
  | .ldp o => some (cat 32 22#6 (cat 26 o.rt (cat 21 o.base (cat 16 0#3 (cat 13 (BitVec.ofBool o.ea) o.off)))))
  | .stp o => some (cat 32 22#6 (cat 26 o.rt (cat 21 o.base (cat 16 1#3 (cat 13 (BitVec.ofBool o.ea) o.off)))))
  | .pref o => some (cat 32 184#9 (cat 23 o.level (cat 21 o.base (cat 16 0#3 (cat 13 (BitVec.ofBool o.ea) o.off)))))
  | .cflushDrop o => some (cat 32 736#11 (cat 21 o.base (cat 16 1#3 (cat 13 (BitVec.ofBool o.ea) o.off))))
  | .cflushHome o => some (cat 32 737#11 (cat 21 o.base (cat 16 1#3 (cat 13 (BitVec.ofBool o.ea) o.off))))
  | .cflushClean o => some (cat 32 738#11 (cat 21 o.base (cat 16 1#3 (cat 13 (BitVec.ofBool o.ea) o.off))))
  | .cinvLine o => some (cat 32 736#11 (cat 21 o.base (cat 16 2#3 (cat 13 (BitVec.ofBool o.ea) o.off))))
  | .cinvAll => some (1545617408#32)
  | .tlbiPage o => some (cat 32 736#11 (cat 21 o.base (cat 16 3#3 (cat 13 (BitVec.ofBool o.ea) o.off))))
  | .tlbiPound => some (1545625600#32)
  | .tlbiAll => some (1547722752#32)
  | .bankmode o => some (cat 32 736#11 (cat 21 o.base (cat 16 4#3 (cat 13 (BitVec.ofBool o.ea) 0#12))))
  | .atomAdd o => some (cat 32 24#6 (cat 26 o.scope (cat 23 o.ra (cat 18 o.rb (cat 13 o.rc (cat 8 (BitVec.ofBool o.view) (cat 7 0#5 o.mode)))))))
  | .atomAnd o => some (cat 32 24#6 (cat 26 o.scope (cat 23 o.ra (cat 18 o.rb (cat 13 o.rc (cat 8 (BitVec.ofBool o.view) (cat 7 1#5 o.mode)))))))
  | .atomOr o => some (cat 32 24#6 (cat 26 o.scope (cat 23 o.ra (cat 18 o.rb (cat 13 o.rc (cat 8 (BitVec.ofBool o.view) (cat 7 2#5 o.mode)))))))
  | .atomXor o => some (cat 32 24#6 (cat 26 o.scope (cat 23 o.ra (cat 18 o.rb (cat 13 o.rc (cat 8 (BitVec.ofBool o.view) (cat 7 3#5 o.mode)))))))
  | .atomMin o => some (cat 32 24#6 (cat 26 o.scope (cat 23 o.ra (cat 18 o.rb (cat 13 o.rc (cat 8 (BitVec.ofBool o.view) (cat 7 4#5 o.mode)))))))
  | .atomMax o => some (cat 32 24#6 (cat 26 o.scope (cat 23 o.ra (cat 18 o.rb (cat 13 o.rc (cat 8 (BitVec.ofBool o.view) (cat 7 5#5 o.mode)))))))
  | .atomMinu o => some (cat 32 24#6 (cat 26 o.scope (cat 23 o.ra (cat 18 o.rb (cat 13 o.rc (cat 8 (BitVec.ofBool o.view) (cat 7 6#5 o.mode)))))))
  | .atomMaxu o => some (cat 32 24#6 (cat 26 o.scope (cat 23 o.ra (cat 18 o.rb (cat 13 o.rc (cat 8 (BitVec.ofBool o.view) (cat 7 7#5 o.mode)))))))
  | .atomSwap o => some (cat 32 24#6 (cat 26 o.scope (cat 23 o.ra (cat 18 o.rb (cat 13 o.rc (cat 8 (BitVec.ofBool o.view) (cat 7 8#5 o.mode)))))))
  | .atomCas o => some (cat 32 24#6 (cat 26 o.scope (cat 23 o.ra (cat 18 o.rb (cat 13 o.rc (cat 8 (BitVec.ofBool o.view) (cat 7 9#5 o.mode)))))))
  | .atomIncb o => some (cat 32 24#6 (cat 26 o.scope (cat 23 o.ra (cat 18 o.rb (cat 13 o.rc (cat 8 (BitVec.ofBool o.view) (cat 7 10#5 o.mode)))))))
  | .atomDecb o => some (cat 32 24#6 (cat 26 o.scope (cat 23 o.ra (cat 18 o.rb (cat 13 o.rc (cat 8 (BitVec.ofBool o.view) (cat 7 11#5 o.mode)))))))
  | .atomFadd o => some (cat 32 24#6 (cat 26 o.scope (cat 23 o.ra (cat 18 o.rb (cat 13 o.rc (cat 8 (BitVec.ofBool o.view) (cat 7 16#5 o.mode)))))))
  | .atomFmin o => some (cat 32 24#6 (cat 26 o.scope (cat 23 o.ra (cat 18 o.rb (cat 13 o.rc (cat 8 (BitVec.ofBool o.view) (cat 7 17#5 o.mode)))))))
  | .atomFmax o => some (cat 32 24#6 (cat 26 o.scope (cat 23 o.ra (cat 18 o.rb (cat 13 o.rc (cat 8 (BitVec.ofBool o.view) (cat 7 18#5 o.mode)))))))
  | .atomFaddP2 o => some (cat 32 24#6 (cat 26 o.scope (cat 23 o.ra (cat 18 o.rb (cat 13 o.rc (cat 8 (BitVec.ofBool o.view) (cat 7 20#5 o.mode)))))))
  | .atomFminP2 o => some (cat 32 24#6 (cat 26 o.scope (cat 23 o.ra (cat 18 o.rb (cat 13 o.rc (cat 8 (BitVec.ofBool o.view) (cat 7 21#5 o.mode)))))))
  | .atomFmaxP2 o => some (cat 32 24#6 (cat 26 o.scope (cat 23 o.ra (cat 18 o.rb (cat 13 o.rc (cat 8 (BitVec.ofBool o.view) (cat 7 22#5 o.mode)))))))
  | .atnAdd o => some (cat 32 25#6 (cat 26 o.scope (cat 23 o.ra (cat 18 o.rb (cat 13 o.rc (cat 8 (BitVec.ofBool o.view) (cat 7 0#5 o.mode)))))))
  | .atnAnd o => some (cat 32 25#6 (cat 26 o.scope (cat 23 o.ra (cat 18 o.rb (cat 13 o.rc (cat 8 (BitVec.ofBool o.view) (cat 7 1#5 o.mode)))))))
  | .atnOr o => some (cat 32 25#6 (cat 26 o.scope (cat 23 o.ra (cat 18 o.rb (cat 13 o.rc (cat 8 (BitVec.ofBool o.view) (cat 7 2#5 o.mode)))))))
  | .atnXor o => some (cat 32 25#6 (cat 26 o.scope (cat 23 o.ra (cat 18 o.rb (cat 13 o.rc (cat 8 (BitVec.ofBool o.view) (cat 7 3#5 o.mode)))))))
  | .atnMin o => some (cat 32 25#6 (cat 26 o.scope (cat 23 o.ra (cat 18 o.rb (cat 13 o.rc (cat 8 (BitVec.ofBool o.view) (cat 7 4#5 o.mode)))))))
  | .atnMax o => some (cat 32 25#6 (cat 26 o.scope (cat 23 o.ra (cat 18 o.rb (cat 13 o.rc (cat 8 (BitVec.ofBool o.view) (cat 7 5#5 o.mode)))))))
  | .atnMinu o => some (cat 32 25#6 (cat 26 o.scope (cat 23 o.ra (cat 18 o.rb (cat 13 o.rc (cat 8 (BitVec.ofBool o.view) (cat 7 6#5 o.mode)))))))
  | .atnMaxu o => some (cat 32 25#6 (cat 26 o.scope (cat 23 o.ra (cat 18 o.rb (cat 13 o.rc (cat 8 (BitVec.ofBool o.view) (cat 7 7#5 o.mode)))))))
  | .atnSwap o => some (cat 32 25#6 (cat 26 o.scope (cat 23 o.ra (cat 18 o.rb (cat 13 o.rc (cat 8 (BitVec.ofBool o.view) (cat 7 8#5 o.mode)))))))
  | .atnCas o => some (cat 32 25#6 (cat 26 o.scope (cat 23 o.ra (cat 18 o.rb (cat 13 o.rc (cat 8 (BitVec.ofBool o.view) (cat 7 9#5 o.mode)))))))
  | .atnIncb o => some (cat 32 25#6 (cat 26 o.scope (cat 23 o.ra (cat 18 o.rb (cat 13 o.rc (cat 8 (BitVec.ofBool o.view) (cat 7 10#5 o.mode)))))))
  | .atnDecb o => some (cat 32 25#6 (cat 26 o.scope (cat 23 o.ra (cat 18 o.rb (cat 13 o.rc (cat 8 (BitVec.ofBool o.view) (cat 7 11#5 o.mode)))))))
  | .atnFadd o => some (cat 32 25#6 (cat 26 o.scope (cat 23 o.ra (cat 18 o.rb (cat 13 o.rc (cat 8 (BitVec.ofBool o.view) (cat 7 16#5 o.mode)))))))
  | .atnFmin o => some (cat 32 25#6 (cat 26 o.scope (cat 23 o.ra (cat 18 o.rb (cat 13 o.rc (cat 8 (BitVec.ofBool o.view) (cat 7 17#5 o.mode)))))))
  | .atnFmax o => some (cat 32 25#6 (cat 26 o.scope (cat 23 o.ra (cat 18 o.rb (cat 13 o.rc (cat 8 (BitVec.ofBool o.view) (cat 7 18#5 o.mode)))))))
  | .atnFaddP2 o => some (cat 32 25#6 (cat 26 o.scope (cat 23 o.ra (cat 18 o.rb (cat 13 o.rc (cat 8 (BitVec.ofBool o.view) (cat 7 20#5 o.mode)))))))
  | .atnFminP2 o => some (cat 32 25#6 (cat 26 o.scope (cat 23 o.ra (cat 18 o.rb (cat 13 o.rc (cat 8 (BitVec.ofBool o.view) (cat 7 21#5 o.mode)))))))
  | .atnFmaxP2 o => some (cat 32 25#6 (cat 26 o.scope (cat 23 o.ra (cat 18 o.rb (cat 13 o.rc (cat 8 (BitVec.ofBool o.view) (cat 7 22#5 o.mode)))))))
  | .cas128 o => some (cat 32 26#6 (cat 26 o.scope (cat 23 o.ra (cat 18 o.rb (cat 13 o.rc (cat 8 (BitVec.ofBool o.view) 0#7))))))
  | .fenceAcq scope => some (cat 32 884736#21 (cat 11 scope 0#8))
  | .fenceRel scope => some (cat 32 884736#21 (cat 11 scope 16#8))
  | .fenceSc scope => some (cat 32 884736#21 (cat 11 scope 32#8))
  | .fenceX o => some (cat 32 884736#21 (cat 11 o.scope (cat 8 o.ca (cat 6 o.cb 0#4))))
  | .crnew o => some (cat 32 112#8 (cat 24 o.wd (cat 21 o.ra (cat 16 0#12 (cat 4 (BitVec.ofBool o.ea) 0#3)))))
  | .vsplit o => some (cat 32 112#8 (cat 24 o.wd (cat 21 o.ra (cat 16 0#2 (cat 14 o.ws (cat 11 1#7 (cat 4 (BitVec.ofBool o.ea) (cat 3 (BitVec.ofBool o.eb) 0#2))))))))
  | .vshare o => some (cat 32 112#8 (cat 24 o.wd (cat 21 0#7 (cat 14 o.ws (cat 11 4#8 (cat 3 (BitVec.ofBool o.eb) 0#2))))))
  | .vdemote o => some (cat 32 112#8 (cat 24 o.ws (cat 21 0#2 (cat 19 o.mask 48#16))))
  | .vnarrow o => some (cat 32 112#8 (cat 24 o.ws (cat 21 o.ra (cat 16 o.rb (cat 11 4#7 (cat 4 (BitVec.ofBool o.ea) (cat 3 (BitVec.ofBool o.eb) 0#2)))))))
  | .vdrop ws => some (cat 32 112#8 (cat 24 ws 80#21))
  | .vquery o => some (cat 32 28#6 (cat 26 o.rd (cat 21 0#7 (cat 14 o.ws (cat 11 12#8 (cat 3 (BitVec.ofBool o.eb) o.sel))))))
  | .vmove o => some (cat 32 112#8 (cat 24 o.wd (cat 21 0#7 (cat 14 o.ws (cat 11 14#8 (cat 3 (BitVec.ofBool o.eb) 0#2))))))
  | .qcfgAff o => some (cat 32 320#9 (cat 23 o.qd (cat 21 o.ra (cat 16 0#12 (cat 4 (BitVec.ofBool o.ea) 0#3)))))
  | .qcfgSkip o => some (cat 32 320#9 (cat 23 o.qd (cat 21 o.ra (cat 16 0#12 (cat 4 (BitVec.ofBool o.ea) 1#3)))))
  | .qnext o => some (cat 32 320#9 (cat 23 o.qd (cat 21 o.ra (cat 16 1#12 (cat 4 (BitVec.ofBool o.ea) 0#3)))))
  | .qrd o => some (cat 32 40#6 (cat 26 o.rd (cat 21 0#8 (cat 13 o.qs (cat 11 4#8 (cat 3 (BitVec.ofBool o.eb) o.sel))))))
  | .rep o => some (cat 32 160#8 (cat 24 o.len (cat 21 o.ra (cat 16 o.rb (cat 11 4#7 (cat 4 (BitVec.ofBool o.ea) (cat 3 (BitVec.ofBool o.eb) 0#2)))))))
  | .repx o => some (cat 32 160#8 (cat 24 o.len (cat 21 o.ra (cat 16 o.rb (cat 11 5#7 (cat 4 (BitVec.ofBool o.ea) (cat 3 (BitVec.ofBool o.eb) 0#2)))))))
  | .vadd o => some (cat 32 48#6 (cat 26 o.vd (cat 22 o.va (cat 18 o.vb (cat 14 o.et (cat 11 (BitVec.ofBool o.me) (cat 10 o.msk (cat 8 (BitVec.ofBool o.pol) (cat 7 0#5 (cat 2 (BitVec.ofBool o.ea) (BitVec.ofBool o.eb)))))))))))
  | .vsub o => some (cat 32 48#6 (cat 26 o.vd (cat 22 o.va (cat 18 o.vb (cat 14 o.et (cat 11 (BitVec.ofBool o.me) (cat 10 o.msk (cat 8 (BitVec.ofBool o.pol) (cat 7 1#5 (cat 2 (BitVec.ofBool o.ea) (BitVec.ofBool o.eb)))))))))))
  | .vmul o => some (cat 32 48#6 (cat 26 o.vd (cat 22 o.va (cat 18 o.vb (cat 14 o.et (cat 11 (BitVec.ofBool o.me) (cat 10 o.msk (cat 8 (BitVec.ofBool o.pol) (cat 7 2#5 (cat 2 (BitVec.ofBool o.ea) (BitVec.ofBool o.eb)))))))))))
  | .vmulh o => some (cat 32 48#6 (cat 26 o.vd (cat 22 o.va (cat 18 o.vb (cat 14 o.et (cat 11 (BitVec.ofBool o.me) (cat 10 o.msk (cat 8 (BitVec.ofBool o.pol) (cat 7 3#5 (cat 2 (BitVec.ofBool o.ea) (BitVec.ofBool o.eb)))))))))))
  | .vdot o => some (cat 32 48#6 (cat 26 o.vd (cat 22 o.va (cat 18 o.vb (cat 14 o.et (cat 11 (BitVec.ofBool o.me) (cat 10 o.msk (cat 8 (BitVec.ofBool o.pol) (cat 7 4#5 (cat 2 (BitVec.ofBool o.ea) (BitVec.ofBool o.eb)))))))))))
  | .vmin o => some (cat 32 48#6 (cat 26 o.vd (cat 22 o.va (cat 18 o.vb (cat 14 o.et (cat 11 (BitVec.ofBool o.me) (cat 10 o.msk (cat 8 (BitVec.ofBool o.pol) (cat 7 5#5 (cat 2 (BitVec.ofBool o.ea) (BitVec.ofBool o.eb)))))))))))
  | .vmax o => some (cat 32 48#6 (cat 26 o.vd (cat 22 o.va (cat 18 o.vb (cat 14 o.et (cat 11 (BitVec.ofBool o.me) (cat 10 o.msk (cat 8 (BitVec.ofBool o.pol) (cat 7 6#5 (cat 2 (BitVec.ofBool o.ea) (BitVec.ofBool o.eb)))))))))))
  | .vand o => some (cat 32 48#6 (cat 26 o.vd (cat 22 o.va (cat 18 o.vb (cat 14 o.et (cat 11 (BitVec.ofBool o.me) (cat 10 o.msk (cat 8 (BitVec.ofBool o.pol) (cat 7 7#5 (cat 2 (BitVec.ofBool o.ea) (BitVec.ofBool o.eb)))))))))))
  | .vor o => some (cat 32 48#6 (cat 26 o.vd (cat 22 o.va (cat 18 o.vb (cat 14 o.et (cat 11 (BitVec.ofBool o.me) (cat 10 o.msk (cat 8 (BitVec.ofBool o.pol) (cat 7 8#5 (cat 2 (BitVec.ofBool o.ea) (BitVec.ofBool o.eb)))))))))))
  | .vxor o => some (cat 32 48#6 (cat 26 o.vd (cat 22 o.va (cat 18 o.vb (cat 14 o.et (cat 11 (BitVec.ofBool o.me) (cat 10 o.msk (cat 8 (BitVec.ofBool o.pol) (cat 7 9#5 (cat 2 (BitVec.ofBool o.ea) (BitVec.ofBool o.eb)))))))))))
  | .vsll o => some (cat 32 48#6 (cat 26 o.vd (cat 22 o.va (cat 18 o.vb (cat 14 o.et (cat 11 (BitVec.ofBool o.me) (cat 10 o.msk (cat 8 (BitVec.ofBool o.pol) (cat 7 10#5 (cat 2 (BitVec.ofBool o.ea) (BitVec.ofBool o.eb)))))))))))
  | .vsrl o => some (cat 32 48#6 (cat 26 o.vd (cat 22 o.va (cat 18 o.vb (cat 14 o.et (cat 11 (BitVec.ofBool o.me) (cat 10 o.msk (cat 8 (BitVec.ofBool o.pol) (cat 7 11#5 (cat 2 (BitVec.ofBool o.ea) (BitVec.ofBool o.eb)))))))))))
  | .vsra o => some (cat 32 48#6 (cat 26 o.vd (cat 22 o.va (cat 18 o.vb (cat 14 o.et (cat 11 (BitVec.ofBool o.me) (cat 10 o.msk (cat 8 (BitVec.ofBool o.pol) (cat 7 12#5 (cat 2 (BitVec.ofBool o.ea) (BitVec.ofBool o.eb)))))))))))
  | .vabs o => some (cat 32 48#6 (cat 26 o.vd (cat 22 o.va (cat 18 0#4 (cat 14 o.et (cat 11 (BitVec.ofBool o.me) (cat 10 o.msk (cat 8 (BitVec.ofBool o.pol) (cat 7 13#5 (cat 2 (BitVec.ofBool o.ea) 0#1))))))))))
  | .vadds o => some (cat 32 48#6 (cat 26 o.vd (cat 22 o.va (cat 18 o.vb (cat 14 o.et (cat 11 (BitVec.ofBool o.me) (cat 10 o.msk (cat 8 (BitVec.ofBool o.pol) (cat 7 14#5 (cat 2 (BitVec.ofBool o.ea) (BitVec.ofBool o.eb)))))))))))
  | .vsubs o => some (cat 32 48#6 (cat 26 o.vd (cat 22 o.va (cat 18 o.vb (cat 14 o.et (cat 11 (BitVec.ofBool o.me) (cat 10 o.msk (cat 8 (BitVec.ofBool o.pol) (cat 7 15#5 (cat 2 (BitVec.ofBool o.ea) (BitVec.ofBool o.eb)))))))))))
  | .vfadd o => some (cat 32 49#6 (cat 26 o.vd (cat 22 o.va (cat 18 o.vb (cat 14 o.et (cat 11 (BitVec.ofBool o.me) (cat 10 o.msk (cat 8 (BitVec.ofBool o.pol) (cat 7 0#5 (cat 2 (BitVec.ofBool o.ea) (BitVec.ofBool o.eb)))))))))))
  | .vfsub o => some (cat 32 49#6 (cat 26 o.vd (cat 22 o.va (cat 18 o.vb (cat 14 o.et (cat 11 (BitVec.ofBool o.me) (cat 10 o.msk (cat 8 (BitVec.ofBool o.pol) (cat 7 1#5 (cat 2 (BitVec.ofBool o.ea) (BitVec.ofBool o.eb)))))))))))
  | .vfmul o => some (cat 32 49#6 (cat 26 o.vd (cat 22 o.va (cat 18 o.vb (cat 14 o.et (cat 11 (BitVec.ofBool o.me) (cat 10 o.msk (cat 8 (BitVec.ofBool o.pol) (cat 7 2#5 (cat 2 (BitVec.ofBool o.ea) (BitVec.ofBool o.eb)))))))))))
  | .vfdiv o => some (cat 32 49#6 (cat 26 o.vd (cat 22 o.va (cat 18 o.vb (cat 14 o.et (cat 11 (BitVec.ofBool o.me) (cat 10 o.msk (cat 8 (BitVec.ofBool o.pol) (cat 7 3#5 (cat 2 (BitVec.ofBool o.ea) (BitVec.ofBool o.eb)))))))))))
  | .vfsqrt o => some (cat 32 49#6 (cat 26 o.vd (cat 22 o.va (cat 18 0#4 (cat 14 o.et (cat 11 (BitVec.ofBool o.me) (cat 10 o.msk (cat 8 (BitVec.ofBool o.pol) (cat 7 4#5 (cat 2 (BitVec.ofBool o.ea) 0#1))))))))))
  | .vfmin o => some (cat 32 49#6 (cat 26 o.vd (cat 22 o.va (cat 18 o.vb (cat 14 o.et (cat 11 (BitVec.ofBool o.me) (cat 10 o.msk (cat 8 (BitVec.ofBool o.pol) (cat 7 5#5 (cat 2 (BitVec.ofBool o.ea) (BitVec.ofBool o.eb)))))))))))
  | .vfmax o => some (cat 32 49#6 (cat 26 o.vd (cat 22 o.va (cat 18 o.vb (cat 14 o.et (cat 11 (BitVec.ofBool o.me) (cat 10 o.msk (cat 8 (BitVec.ofBool o.pol) (cat 7 6#5 (cat 2 (BitVec.ofBool o.ea) (BitVec.ofBool o.eb)))))))))))
  | .vfma o => some (cat 32 50#6 (cat 26 o.vd (cat 22 o.va (cat 18 o.vb (cat 14 o.et (cat 11 (BitVec.ofBool o.me) (cat 10 o.msk (cat 8 (BitVec.ofBool o.pol) (cat 7 0#5 (cat 2 (BitVec.ofBool o.ea) (BitVec.ofBool o.eb)))))))))))
  | .vld o => some (cat 32 51#6 (cat 26 o.vd (cat 22 o.xb (cat 18 o.off (cat 14 o.et (cat 11 (BitVec.ofBool o.me) (cat 10 o.msk (cat 8 (BitVec.ofBool o.pol) (cat 7 0#5 (cat 2 (BitVec.ofBool o.ea) 0#1))))))))))
  | .vst o => some (cat 32 51#6 (cat 26 o.vd (cat 22 o.xb (cat 18 o.off (cat 14 o.et (cat 11 (BitVec.ofBool o.me) (cat 10 o.msk (cat 8 1#6 (cat 2 (BitVec.ofBool o.ea) 0#1)))))))))
  | .vldq o => some (cat 32 51#6 (cat 26 o.vd (cat 22 0#6 (cat 16 o.qn (cat 14 o.et (cat 11 (BitVec.ofBool o.me) (cat 10 o.msk (cat 8 (BitVec.ofBool o.pol) 8#7))))))))
  | .vstq o => some (cat 32 51#6 (cat 26 o.vd (cat 22 0#6 (cat 16 o.qn (cat 14 o.et (cat 11 (BitVec.ofBool o.me) (cat 10 o.msk 12#8)))))))
  | .vgath o => some (cat 32 51#6 (cat 26 o.vd (cat 22 o.va (cat 18 o.vb (cat 14 o.et (cat 11 (BitVec.ofBool o.me) (cat 10 o.msk (cat 8 (BitVec.ofBool o.pol) (cat 7 4#5 (cat 2 (BitVec.ofBool o.ea) (BitVec.ofBool o.eb)))))))))))
  | .vscat o => some (cat 32 51#6 (cat 26 o.vd (cat 22 o.xb (cat 18 o.vi (cat 14 o.et (cat 11 (BitVec.ofBool o.me) (cat 10 o.msk (cat 8 5#6 (cat 2 (BitVec.ofBool o.ea) (BitVec.ofBool o.eb))))))))))
  | .vldf o => some (cat 32 51#6 (cat 26 o.vd (cat 22 o.va (cat 18 0#4 (cat 14 o.et (cat 11 (BitVec.ofBool o.me) (cat 10 o.msk (cat 8 (BitVec.ofBool o.pol) (cat 7 6#5 (cat 2 (BitVec.ofBool o.ea) 0#1))))))))))
  | .vbcast o => some (cat 32 51#6 (cat 26 o.vd (cat 22 o.xb (cat 18 o.off (cat 14 o.et (cat 11 (BitVec.ofBool o.me) (cat 10 o.msk (cat 8 (BitVec.ofBool o.pol) (cat 7 7#5 (cat 2 (BitVec.ofBool o.ea) 0#1))))))))))
  | .vshuf o => some (cat 32 52#6 (cat 26 o.vd (cat 22 o.va (cat 18 o.vb (cat 14 o.et (cat 11 (BitVec.ofBool o.me) (cat 10 o.msk (cat 8 (BitVec.ofBool o.pol) (cat 7 0#5 (cat 2 (BitVec.ofBool o.ea) (BitVec.ofBool o.eb)))))))))))
  | .vzip o => some (cat 32 52#6 (cat 26 o.vd (cat 22 o.va (cat 18 o.vb (cat 14 o.et (cat 11 (BitVec.ofBool o.me) (cat 10 o.msk (cat 8 (BitVec.ofBool o.pol) (cat 7 1#5 (cat 2 (BitVec.ofBool o.ea) (BitVec.ofBool o.eb)))))))))))
  | .vuzp o => some (cat 32 52#6 (cat 26 o.vd (cat 22 o.va (cat 18 o.vb (cat 14 o.et (cat 11 (BitVec.ofBool o.me) (cat 10 o.msk (cat 8 (BitVec.ofBool o.pol) (cat 7 2#5 (cat 2 (BitVec.ofBool o.ea) (BitVec.ofBool o.eb)))))))))))
  | .vslide o => some (cat 32 52#6 (cat 26 o.vd (cat 22 o.va (cat 18 o.vb (cat 14 o.et (cat 11 o.k (cat 7 3#5 (cat 2 (BitVec.ofBool o.ea) (BitVec.ofBool o.eb)))))))))
  | .vext o => some (cat 32 52#6 (cat 26 o.xd (cat 22 o.va (cat 18 o.lane (cat 14 o.et (cat 11 4#9 (cat 2 (BitVec.ofBool o.ea) 0#1)))))))
  | .vins o => some (cat 32 52#6 (cat 26 o.vd (cat 22 o.xs (cat 18 o.lane (cat 14 o.et (cat 11 5#9 (cat 2 (BitVec.ofBool o.ea) 0#1)))))))
  | .vsplat o => some (cat 32 52#6 (cat 26 o.vd (cat 22 o.xs (cat 18 0#4 (cat 14 o.et (cat 11 (BitVec.ofBool o.me) (cat 10 o.msk (cat 8 (BitVec.ofBool o.pol) (cat 7 6#5 (cat 2 (BitVec.ofBool o.ea) 0#1))))))))))
  | .vredAdd o => some (cat 32 52#6 (cat 26 o.vd (cat 22 o.va (cat 18 0#4 (cat 14 o.et (cat 11 (BitVec.ofBool o.me) (cat 10 o.msk (cat 8 (BitVec.ofBool o.pol) (cat 7 8#5 (cat 2 (BitVec.ofBool o.ea) 0#1))))))))))
  | .vredMin o => some (cat 32 52#6 (cat 26 o.vd (cat 22 o.va (cat 18 0#4 (cat 14 o.et (cat 11 (BitVec.ofBool o.me) (cat 10 o.msk (cat 8 (BitVec.ofBool o.pol) (cat 7 9#5 (cat 2 (BitVec.ofBool o.ea) 0#1))))))))))
  | .vredMax o => some (cat 32 52#6 (cat 26 o.vd (cat 22 o.va (cat 18 0#4 (cat 14 o.et (cat 11 (BitVec.ofBool o.me) (cat 10 o.msk (cat 8 (BitVec.ofBool o.pol) (cat 7 10#5 (cat 2 (BitVec.ofBool o.ea) 0#1))))))))))
  | .vcvt o => some (cat 32 53#6 (cat 26 o.vd (cat 22 o.va (cat 18 o.src (cat 14 o.et (cat 11 (BitVec.ofBool o.me) (cat 10 o.msk (cat 8 (BitVec.ofBool o.pol) (cat 7 0#5 (cat 2 (BitVec.ofBool o.ea) 0#1))))))))))
  | .vpack o => some (cat 32 53#6 (cat 26 o.vd (cat 22 o.va (cat 18 o.vb (cat 14 o.et (cat 11 (BitVec.ofBool o.me) (cat 10 o.msk (cat 8 (BitVec.ofBool o.pol) (cat 7 1#5 (cat 2 (BitVec.ofBool o.ea) (BitVec.ofBool o.eb)))))))))))
  | .vunpk o => some (cat 32 53#6 (cat 26 o.vd (cat 22 o.va (cat 18 0#3 (cat 15 (BitVec.ofBool o.half) (cat 14 o.et (cat 11 (BitVec.ofBool o.me) (cat 10 o.msk (cat 8 (BitVec.ofBool o.pol) (cat 7 2#5 (cat 2 (BitVec.ofBool o.ea) 0#1)))))))))))
  | .vcbx o => some (cat 32 53#6 (cat 26 o.vd (cat 22 o.va (cat 18 o.vb (cat 14 o.et (cat 11 (BitVec.ofBool o.me) (cat 10 o.msk (cat 8 (BitVec.ofBool o.pol) (cat 7 3#5 (cat 2 (BitVec.ofBool o.ea) (BitVec.ofBool o.eb)))))))))))
  | .vbxq o => some (cat 32 848#10 (cat 22 o.xd (cat 18 o.xs (cat 14 2052#12 (cat 2 (BitVec.ofBool o.ea) (BitVec.ofBool o.eb))))))
  | .vcq4 o => some (cat 32 53#6 (cat 26 o.vd (cat 22 o.xd (cat 18 o.xs (cat 14 o.et (cat 11 5#9 (cat 2 (BitVec.ofBool o.ea) (BitVec.ofBool o.eb))))))))
  | .vexp2 o => some (cat 32 54#6 (cat 26 o.vd (cat 22 o.va (cat 18 0#4 (cat 14 o.et (cat 11 (BitVec.ofBool o.me) (cat 10 o.msk (cat 8 (BitVec.ofBool o.pol) (cat 7 0#5 (cat 2 (BitVec.ofBool o.ea) 0#1))))))))))
  | .vlog2 o => some (cat 32 54#6 (cat 26 o.vd (cat 22 o.va (cat 18 0#4 (cat 14 o.et (cat 11 (BitVec.ofBool o.me) (cat 10 o.msk (cat 8 (BitVec.ofBool o.pol) (cat 7 1#5 (cat 2 (BitVec.ofBool o.ea) 0#1))))))))))
  | .vrcp o => some (cat 32 54#6 (cat 26 o.vd (cat 22 o.va (cat 18 0#4 (cat 14 o.et (cat 11 (BitVec.ofBool o.me) (cat 10 o.msk (cat 8 (BitVec.ofBool o.pol) (cat 7 2#5 (cat 2 (BitVec.ofBool o.ea) 0#1))))))))))
  | .vrsq o => some (cat 32 54#6 (cat 26 o.vd (cat 22 o.va (cat 18 0#4 (cat 14 o.et (cat 11 (BitVec.ofBool o.me) (cat 10 o.msk (cat 8 (BitVec.ofBool o.pol) (cat 7 3#5 (cat 2 (BitVec.ofBool o.ea) 0#1))))))))))
  | .vsin o => some (cat 32 54#6 (cat 26 o.vd (cat 22 o.va (cat 18 0#4 (cat 14 o.et (cat 11 (BitVec.ofBool o.me) (cat 10 o.msk (cat 8 (BitVec.ofBool o.pol) (cat 7 4#5 (cat 2 (BitVec.ofBool o.ea) 0#1))))))))))
  | .vcos o => some (cat 32 54#6 (cat 26 o.vd (cat 22 o.va (cat 18 0#4 (cat 14 o.et (cat 11 (BitVec.ofBool o.me) (cat 10 o.msk (cat 8 (BitVec.ofBool o.pol) (cat 7 5#5 (cat 2 (BitVec.ofBool o.ea) 0#1))))))))))
  | .vcmpEq o => some (cat 32 55#6 (cat 26 o.vd (cat 22 o.va (cat 18 o.vb (cat 14 o.et (cat 11 (BitVec.ofBool o.me) (cat 10 o.msk (cat 8 (BitVec.ofBool o.pol) (cat 7 0#5 (cat 2 (BitVec.ofBool o.ea) (BitVec.ofBool o.eb)))))))))))
  | .vcmpNe o => some (cat 32 55#6 (cat 26 o.vd (cat 22 o.va (cat 18 o.vb (cat 14 o.et (cat 11 (BitVec.ofBool o.me) (cat 10 o.msk (cat 8 (BitVec.ofBool o.pol) (cat 7 1#5 (cat 2 (BitVec.ofBool o.ea) (BitVec.ofBool o.eb)))))))))))
  | .vcmpLt o => some (cat 32 55#6 (cat 26 o.vd (cat 22 o.va (cat 18 o.vb (cat 14 o.et (cat 11 (BitVec.ofBool o.me) (cat 10 o.msk (cat 8 (BitVec.ofBool o.pol) (cat 7 2#5 (cat 2 (BitVec.ofBool o.ea) (BitVec.ofBool o.eb)))))))))))
  | .vcmpLe o => some (cat 32 55#6 (cat 26 o.vd (cat 22 o.va (cat 18 o.vb (cat 14 o.et (cat 11 (BitVec.ofBool o.me) (cat 10 o.msk (cat 8 (BitVec.ofBool o.pol) (cat 7 3#5 (cat 2 (BitVec.ofBool o.ea) (BitVec.ofBool o.eb)))))))))))
  | .vcmpLtu o => some (cat 32 55#6 (cat 26 o.vd (cat 22 o.va (cat 18 o.vb (cat 14 o.et (cat 11 (BitVec.ofBool o.me) (cat 10 o.msk (cat 8 (BitVec.ofBool o.pol) (cat 7 4#5 (cat 2 (BitVec.ofBool o.ea) (BitVec.ofBool o.eb)))))))))))
  | .vcmpLeu o => some (cat 32 55#6 (cat 26 o.vd (cat 22 o.va (cat 18 o.vb (cat 14 o.et (cat 11 (BitVec.ofBool o.me) (cat 10 o.msk (cat 8 (BitVec.ofBool o.pol) (cat 7 5#5 (cat 2 (BitVec.ofBool o.ea) (BitVec.ofBool o.eb)))))))))))
  | .vmand o => some (cat 32 55#6 (cat 26 o.vd (cat 22 o.va (cat 18 o.vb (cat 14 8#12 (cat 2 (BitVec.ofBool o.ea) (BitVec.ofBool o.eb)))))))
  | .vmor o => some (cat 32 55#6 (cat 26 o.vd (cat 22 o.va (cat 18 o.vb (cat 14 9#12 (cat 2 (BitVec.ofBool o.ea) (BitVec.ofBool o.eb)))))))
  | .vmxor o => some (cat 32 55#6 (cat 26 o.vd (cat 22 o.va (cat 18 o.vb (cat 14 10#12 (cat 2 (BitVec.ofBool o.ea) (BitVec.ofBool o.eb)))))))
  | .vmnot o => some (cat 32 55#6 (cat 26 o.vd (cat 22 o.va (cat 18 11#16 (cat 2 (BitVec.ofBool o.ea) 0#1)))))
  | .vmcnt o => some (cat 32 55#6 (cat 26 o.vd (cat 22 o.va (cat 18 0#4 (cat 14 o.et (cat 11 12#9 (cat 2 (BitVec.ofBool o.ea) 0#1)))))))
  | .vmfst o => some (cat 32 55#6 (cat 26 o.vd (cat 22 o.va (cat 18 0#4 (cat 14 o.et (cat 11 13#9 (cat 2 (BitVec.ofBool o.ea) 0#1)))))))
  | .mgang o => some (cat 32 56#6 (cat 26 o.acc (cat 23 o.ra (cat 18 o.rb 0#13))))
  | .mmas o => some (cat 32 56#6 (cat 26 o.acc (cat 23 o.ra 4#18)))
  | .mzero acc => some (cat 32 56#6 (cat 26 acc 8#23))
  | .mdrainI64 o => some (cat 32 57#6 (cat 26 o.acc (cat 23 o.ra (cat 18 o.rb (cat 13 o.rc (cat 8 0#7 (BitVec.ofBool o.sat)))))))
  | .mdrainI32s o => some (cat 32 57#6 (cat 26 o.acc (cat 23 o.ra (cat 18 o.rb (cat 13 o.rc (cat 8 2#7 (BitVec.ofBool o.sat)))))))
  | .mdrainF32 o => some (cat 32 57#6 (cat 26 o.acc (cat 23 o.ra (cat 18 o.rb (cat 13 o.rc (cat 8 4#7 (BitVec.ofBool o.sat)))))))
  | .mdrainF32a o => some (cat 32 57#6 (cat 26 o.acc (cat 23 o.ra (cat 18 o.rb (cat 13 o.rc (cat 8 6#7 (BitVec.ofBool o.sat)))))))
  | .mdrainBf16 o => some (cat 32 57#6 (cat 26 o.acc (cat 23 o.ra (cat 18 o.rb (cat 13 o.rc (cat 8 8#7 (BitVec.ofBool o.sat)))))))
  | .mdrainc o => some (cat 32 57#6 (cat 26 o.acc (cat 23 o.ra (cat 18 o.rb (cat 13 o.rc (cat 8 8#6 o.mode))))))
  | .ard o => some (cat 32 57#6 (cat 26 o.acc (cat 23 o.rd (cat 18 o.ri 64#13))))
  | .awr o => some (cat 32 57#6 (cat 26 o.acc (cat 23 0#5 (cat 18 o.ri (cat 13 o.rs 68#8)))))
  | .achk o => some (cat 32 57#6 (cat 26 o.acc (cat 23 o.rd 72#18)))
  | .acfg o => some (cat 32 456#9 (cat 23 o.rcore (cat 18 o.rval (cat 13 o.rold 96#8))))
  | .cbld ra => some (cat 32 456#9 (cat 23 ra 100#18))
  | .hintImm payload => some (cat 32 252#8 payload)
  | .hintMod o => some (cat 32 253#8 (cat 24 (BitVec.ofBool o.re) (cat 23 o.rnd (cat 20 (BitVec.ofBool o.se) (cat 19 o.scope (cat 16 o.cpol (cat 14 (BitVec.ofBool o.na) 0#13)))))))
  | .hintSched o => some (cat 32 254#8 (cat 24 o.prio (cat 22 o.count 0#16)))
  | .beq o => some (cat 32 32#6 (cat 26 o.ra (cat 21 o.rb (cat 16 0#3 o.off))))
  | .bne o => some (cat 32 32#6 (cat 26 o.ra (cat 21 o.rb (cat 16 1#3 o.off))))
  | .blt o => some (cat 32 32#6 (cat 26 o.ra (cat 21 o.rb (cat 16 2#3 o.off))))
  | .bge o => some (cat 32 32#6 (cat 26 o.ra (cat 21 o.rb (cat 16 3#3 o.off))))
  | .bltu o => some (cat 32 32#6 (cat 26 o.ra (cat 21 o.rb (cat 16 4#3 o.off))))
  | .bgeu o => some (cat 32 32#6 (cat 26 o.ra (cat 21 o.rb (cat 16 5#3 o.off))))
  | .jal off => some (cat 32 33#6 off)
  | .jalr o => some (cat 32 34#6 (cat 26 o.rd (cat 21 o.ra (cat 16 o.imm (BitVec.ofBool o.ea)))))
  | .endBody => some (2348810240#32)
  | .trap code => some (cat 32 35844#16 code)
  | .bkpt code => some (cat 32 35848#16 code)
  | .svc code => some (cat 32 35852#16 code)
  | .send o => some (cat 32 1152#11 (cat 21 o.ra (cat 16 o.rb (cat 11 o.n (cat 9 0#5 (cat 4 (BitVec.ofBool o.ea) (cat 3 0#2 (BitVec.ofBool o.mp))))))))
  | .sendv o => some (cat 32 1152#11 (cat 21 o.ra (cat 16 0#2 (cat 14 o.view (cat 11 1#7 (cat 4 (BitVec.ofBool o.ea) 0#3))))))
  | .sendmPm o => some (cat 32 1152#11 (cat 21 o.ra (cat 16 o.rb (cat 11 34#7 (cat 4 (BitVec.ofBool o.ea) (cat 3 0#2 (BitVec.ofBool o.mp)))))))
  | .sendmIadd o => some (cat 32 1152#11 (cat 21 o.ra (cat 16 o.rb (cat 11 2#7 (cat 4 (BitVec.ofBool o.ea) (cat 3 1#2 (BitVec.ofBool o.mp)))))))
  | .sendmF32 o => some (cat 32 1152#11 (cat 21 o.ra (cat 16 o.rb (cat 11 2#7 (cat 4 (BitVec.ofBool o.ea) (cat 3 2#2 (BitVec.ofBool o.mp)))))))
  | .sendmF64 o => some (cat 32 1152#11 (cat 21 o.ra (cat 16 o.rb (cat 11 2#7 (cat 4 (BitVec.ofBool o.ea) (cat 3 3#2 (BitVec.ofBool o.mp)))))))
  | .chnew o => some (cat 32 37#6 (cat 26 o.rd (cat 21 o.ra (cat 16 o.rb (cat 11 0#7 (cat 4 (BitVec.ofBool o.ea) (cat 3 (BitVec.ofBool o.eb) 0#2)))))))
  | .chfree o => some (cat 32 37#6 (cat 26 o.rd (cat 21 o.ra (cat 16 1#12 (cat 4 (BitVec.ofBool o.ea) 0#3)))))
  | .chcfg o => some (cat 32 37#6 (cat 26 o.rd (cat 21 o.ra (cat 16 o.rb (cat 11 2#7 (cat 4 (BitVec.ofBool o.ea) (cat 3 (BitVec.ofBool o.eb) 0#2)))))))
  | .chcnt o => some (cat 32 37#6 (cat 26 o.rd (cat 21 o.ra (cat 16 3#12 (cat 4 (BitVec.ofBool o.ea) 0#3)))))
  | .patset o => some (cat 32 37#6 (cat 26 o.rd (cat 21 o.ra (cat 16 o.rb (cat 11 4#7 (cat 4 (BitVec.ofBool o.ea) (cat 3 (BitVec.ofBool o.eb) 0#2)))))))
  | .patclr o => some (cat 32 37#6 (cat 26 o.rd (cat 21 o.ra (cat 16 5#12 (cat 4 (BitVec.ofBool o.ea) 0#3)))))
  | .patrank o => some (cat 32 37#6 (cat 26 o.rd (cat 21 o.ra (cat 16 o.rb (cat 11 6#7 (cat 4 (BitVec.ofBool o.ea) (cat 3 (BitVec.ofBool o.eb) 0#2)))))))
  | .relay o => some (cat 32 37#6 (cat 26 o.rd (cat 21 o.ra (cat 16 o.rb (cat 11 7#7 (cat 4 (BitVec.ofBool o.ea) (cat 3 (BitVec.ofBool o.eb) 0#2)))))))
  | .spawn o => some (cat 32 38#6 (cat 26 o.hint (cat 21 o.ra (cat 16 o.rb (cat 11 o.n (cat 9 0#5 (cat 4 (BitVec.ofBool o.ea) (cat 3 0#2 (BitVec.ofBool o.mp)))))))))
  | .hstart o => some (cat 32 38#6 (cat 26 o.rd (cat 21 o.ra (cat 16 o.rb (cat 11 o.n (cat 9 1#5 (cat 4 (BitVec.ofBool o.ea) (cat 3 0#2 (BitVec.ofBool o.mp)))))))))
  | .hstat rd => some (cat 32 38#6 (cat 26 rd 32#21))
  | .cbcfgSet o => some (cat 32 39#6 (cat 26 o.rd (cat 21 o.ra (cat 16 o.rb (cat 11 0#7 (cat 4 (BitVec.ofBool o.ea) (cat 3 (BitVec.ofBool o.eb) 0#2)))))))
  | .cbcfgState o => some (cat 32 39#6 (cat 26 o.rd (cat 21 o.ra (cat 16 o.rb (cat 11 0#7 (cat 4 (BitVec.ofBool o.ea) (cat 3 (BitVec.ofBool o.eb) 1#2)))))))
  | .cbcfgRebuild o => some (cat 32 39#6 (cat 26 o.rd (cat 21 o.ra (cat 16 o.rb (cat 11 0#7 (cat 4 (BitVec.ofBool o.ea) (cat 3 (BitVec.ofBool o.eb) 2#2)))))))
  | .cbcfgClear o => some (cat 32 39#6 (cat 26 o.rd (cat 21 o.ra (cat 16 o.rb (cat 11 0#7 (cat 4 (BitVec.ofBool o.ea) (cat 3 (BitVec.ofBool o.eb) 3#2)))))))
  | .cbret o => some (cat 32 1248#11 (cat 21 o.ra (cat 16 1#12 (cat 4 (BitVec.ofBool o.ea) 0#3))))
  | .cbcnt o => some (cat 32 39#6 (cat 26 o.rd (cat 21 o.ra (cat 16 2#12 (cat 4 (BitVec.ofBool o.ea) 0#3)))))
  | .cbaudit o => some (cat 32 39#6 (cat 26 o.rd (cat 21 o.ra (cat 16 3#12 (cat 4 (BitVec.ofBool o.ea) 0#3)))))
  | .rnfwd o => some (cat 32 58#6 (cat 26 o.rd (cat 21 o.ra (cat 16 0#12 (cat 4 (BitVec.ofBool o.ea) (cat 3 0#1 o.sz))))))
  | .rnrev o => some (cat 32 58#6 (cat 26 o.rd (cat 21 o.ra (cat 16 1#12 (cat 4 (BitVec.ofBool o.ea) 0#3)))))
  | .rnadd o => some (cat 32 58#6 (cat 26 o.rd (cat 21 o.ra (cat 16 o.rb (cat 11 2#7 (cat 4 (BitVec.ofBool o.ea) (cat 3 (BitVec.ofBool o.eb) 0#2)))))))
  | .rnsub o => some (cat 32 58#6 (cat 26 o.rd (cat 21 o.ra (cat 16 o.rb (cat 11 3#7 (cat 4 (BitVec.ofBool o.ea) (cat 3 (BitVec.ofBool o.eb) 0#2)))))))
  | .rnmul o => some (cat 32 58#6 (cat 26 o.rd (cat 21 o.ra (cat 16 o.rb (cat 11 4#7 (cat 4 (BitVec.ofBool o.ea) (cat 3 (BitVec.ofBool o.eb) 0#2)))))))
  | .rnchk o => some (cat 32 58#6 (cat 26 o.rd (cat 21 o.ra (cat 16 5#12 (cat 4 (BitVec.ofBool o.ea) 0#3)))))
  | .cpy o => some (cat 32 59#6 (cat 26 o.weir (cat 21 o.ra (cat 16 o.rb (cat 11 0#7 (cat 4 (BitVec.ofBool o.ea) (cat 3 (BitVec.ofBool o.eb) 0#2)))))))
  | .cpya o => some (cat 32 59#6 (cat 26 o.weir (cat 21 o.ra (cat 16 o.rb (cat 11 1#7 (cat 4 (BitVec.ofBool o.ea) (cat 3 (BitVec.ofBool o.eb) 0#2)))))))
  | .cpyw o => some (cat 32 59#6 (cat 26 o.weir (cat 21 o.ra (cat 16 o.rb (cat 11 2#7 (cat 4 (BitVec.ofBool o.ea) (cat 3 (BitVec.ofBool o.eb) 0#2)))))))
  | .cpyg o => some (cat 32 59#6 (cat 26 o.weir (cat 21 o.ra (cat 16 o.rb (cat 11 3#7 (cat 4 (BitVec.ofBool o.ea) (cat 3 (BitVec.ofBool o.eb) 0#2)))))))
  | .weirnew o => some (cat 32 59#6 (cat 26 o.rd (cat 21 o.ra (cat 16 8#12 (cat 4 (BitVec.ofBool o.ea) 0#3)))))
  | .weiradd o => some (cat 32 1888#11 (cat 21 o.ra (cat 16 o.rb (cat 11 9#7 (cat 4 (BitVec.ofBool o.ea) (cat 3 (BitVec.ofBool o.eb) 0#2))))))
  | .weirarm o => some (cat 32 1888#11 (cat 21 o.ra (cat 16 10#12 (cat 4 (BitVec.ofBool o.ea) 0#3))))
  | .weirarmFree o => some (cat 32 1888#11 (cat 21 o.ra (cat 16 10#12 (cat 4 (BitVec.ofBool o.ea) 1#3))))
  | .weirrd o => some (cat 32 59#6 (cat 26 o.rd (cat 21 o.ra (cat 16 11#12 (cat 4 (BitVec.ofBool o.ea) 0#3)))))
  | .sliceoccWrite _ _ => none
  | .cbReturnApply _ => none
  | .repWordIssue _ => none
  | .acfgApply _ => none
  | .illegalWord _ => none
  | .packageReset => none
  | .messageAdmit _ => none
  | .messageAccept _ => none
  | .overflowMoveBack _ _ => none
  | .relayForward _ => none
  | .sluiceEvaluate _ => none
  | .contextLoaded _ _ => none
  | .hstartRetry _ => none
  | .spawnItemArrive _ => none
  | .registerFill _ _ _ => none
  | .storeBufferDrain _ => none
  | .atomicQueueSend _ => none
  | .homeAtomicApply _ => none
  | .sliceRequestAccept _ => none
  | .sliceAnswer _ _ => none
  | .bankModeDone _ _ => none
  | .cbSlotStart _ _ => none
  | .cbSlotFilled _ _ => none
  | .sliceCounterFlush _ _ => none
  | .fpunionUpdate _ => none
  | .colanderAllocate _ => none
  | .colanderSplit _ => none
  | .colanderShare _ => none
  | .colanderNotice _ => none
  | .colanderAnswer _ => none
  | .viewNoticeSend _ => none
  | .watchdogExpire _ _ => none
  | .sliceEndSignal _ => none
  | .graceExpire _ => none
  | .contextSave _ => none
  | .messageStateSave _ => none
  | .poundResume _ => none
  | .deferredFaultTake _ _ => none
  | .faultPacketResend _ => none
  | .translationWalk _ => none
  | .keeperPtLookup _ => none
  | .missdone _ _ => none
  | .sideLogReplay _ _ => none
  | .engineCommandStart _ _ => none
  | .engineCommandDone _ _ => none
  | .weirCharge _ => none
  | .weirSubtract _ _ => none
  | .weirAddApply _ => none
  | .weirArmApply _ => none
  | .weirCreate _ => none
  | .weirStateRead _ => none
  | .gangStart _ => none
  | .gangTimeout _ => none
  | .gangOperationDone _ => none
  | .taggedSendAccept _ _ _ => none
  | .peerMessageReceive _ _ _ _ => none
  | .rmaWrite _ _ _ => none
  | .rmaRead _ _ _ => none
  | .rmaWriteComplete _ => none
  | .remoteTargetAck _ _ _ => none
  | .completionAccept _ => none
  | .completionTimerExpire _ _ => none
  | .energyChargePost _ => none
  | .energyIntervalEnd _ => none
  | .powerSample _ => none
  | .claim _ _ _ _ => none
  | .start _ _ => none
  | .migRelease _ _ => none
  | .cancel _ _ => none
  | .migrationHoldReady _ _ => none
  | .migrationCopyDone _ _ => none
  | .migrationRemapDone _ _ => none
  | .migrationDrainDone _ _ => none
  | .debugWindowWrite _ _ _ => none
  | .stop _ => none
  | .debugResume _ _ => none
  | .restart _ => none
  | .kill _ _ => none
  | .step _ _ => none
  | .halt _ _ => none
  | .flightRelease _ _ => none
  | .cut _ _ => none
  | .cutMarkerForward _ => none
  | .coreCutRecord _ => none
  | .engineCutRecord _ _ => none
  | .portCutInject _ => none
  | .layoutCommit _ _ => none
  | .wharfReset => none
  | .wharfBoot _ _ => none
  | .extend _ _ => none
  | .tokenRefill _ => none
  | .vdResume _ => none
  | .vdSliceEnd _ => none
  | .wayRebalance _ _ => none
  | .lock _ => none
  | .unlock _ => none
  | .report _ _ => none
  | .accept _ _ => none
  | .teardown _ => none
  | .scrub _ => none
  | .frozenSetWrite _ _ _ => none
  | .clear _ => none
  | .envelopeSet _ => none
  | .hwErrorDetect _ _ => none
  | .bucketLeak _ => none
  | .dramErrorReport _ _ _ => none
  | .sparingDone _ _ => none
  | .pairRequestRelease _ => none
  | .memoryCut _ _ => none
  | .rollback _ => none
  | .registerWrite _ _ => none
  | .ngaturAssemble _ => none
  | .attach _ => none
  | .load _ _ => none
  | .sym _ => none
  | .sluice _ _ => none
  | .traceArrivals _ _ => none
  | .watchFire _ _ => none
  | .post _ _ => none
  | .xlate _ _ => none
  | .regs _ _ _ => none
  | .streamCmd _ _ _ => none
  | .mem _ _ _ _ => none
  | .breakAt _ _ => none
  | .delete _ => none
  | .cont => none
  | .occ _ => none
  | .occClear _ => none
  | .sample _ _ => none
  | .preempt _ _ _ => none
  | .resumePound _ => none
  | .save _ => none
  | .tile _ _ _ => none
  | .flip _ _ _ _ _ => none
  | .acfgCommand _ _ _ => none
  | .resumeContext _ _ _ => none
  | .traceGang _ _ => none
  | .watchPc _ _ _ => none
  | .colander _ => none
  | .viewCmd _ _ _ => none
  | .drainComplete _ => none

end Sys2Proof
end

