-- ==== Sys2Proof/Machine/Bits.lean ====
section
/-!
DEFINITION. Bit fields, extensions, byte runs and integer helpers the meanings share (R2, R6, R83).
-/

namespace Sys2Proof.Machine

/-- Bits `hi` to `lo` of a word as a number (R6). -/
def bits {n : Nat} (w : BitVec n) (hi lo : Nat) : Nat := w.toNat / 2 ^ lo % 2 ^ (hi - lo + 1)

/-- The word with bits `hi` to `lo` replaced by the low bits of `v`. -/
def setBits {n : Nat} (w : BitVec n) (hi lo v : Nat) : BitVec n :=
  BitVec.ofNat n (w.toNat - bits w hi lo * 2 ^ lo + v % 2 ^ (hi - lo + 1) * 2 ^ lo)

/-- The low `n` bits of `v`, sign-extended to 64 (R83). -/
def sextN (n v : Nat) : Word :=
  let u := v % 2 ^ n
  if 2 ^ (n - 1) ≤ u then BitVec.ofNat 64 (2 ^ 64 - 2 ^ n + u) else BitVec.ofNat 64 u

/-- The low `n` bits of `v`, zero-extended to 64 (R83). -/
def zextN (n v : Nat) : Word := BitVec.ofNat 64 (v % 2 ^ n)

/-- The low `n` bits of `v` read as two's complement (R83). -/
def toSigned (n v : Nat) : Int :=
  let u := v % 2 ^ n
  if 2 ^ (n - 1) ≤ u then (u : Int) - 2 ^ n else u

/-- An integer as `n` bits of two's complement (R83). -/
def ofSigned (n : Nat) (v : Int) : Nat := (v % 2 ^ n).toNat

/-- SatS (R83). -/
def satS (n : Nat) (v : Int) : Int := min (max v (-(2 ^ (n - 1)))) (2 ^ (n - 1) - 1)

/-- SatN (R83). -/
def satN (n : Nat) (v : Int) : Int := min (max v 0) (2 ^ n - 1)

/-- One bit of a number. -/
def bitOf (v i : Nat) : Bool := v / 2 ^ i % 2 == 1

/-- A truth value as a number. -/
def num (b : Bool) : Nat := if b then 1 else 0

/-- Number of bits of a number up to its leading one; 0 for 0. -/
def bitLen (v : Nat) : Nat := if v = 0 then 0 else Nat.log2 v + 1

/-- Number of ones among the low `n` bits. -/
def popCount : Nat → Nat → Nat
  | 0, _ => 0
  | n + 1, v => v % 2 + popCount n (v / 2)

/-- Index of the lowest one among `n` bits, or `n`. -/
def lowestOne : Nat → Nat → Nat
  | 0, _ => 0
  | n + 1, v => if v % 2 = 1 then 0 else lowestOne n (v / 2) + 1

/-- The low `n` bits in reverse order. -/
def reverseBits : Nat → Nat → Nat
  | 0, _ => 0
  | n + 1, v => v % 2 * 2 ^ n + reverseBits n (v / 2)

/-- The low `n` bytes in reverse order. -/
def reverseBytes : Nat → Nat → Nat
  | 0, _ => 0
  | n + 1, v => v % 256 * 256 ^ n + reverseBytes n (v / 256)

/-- A number as `n` bytes, the lowest first (R2). -/
def toBytes : Nat → Nat → List Byte
  | 0, _ => []
  | n + 1, v => BitVec.ofNat 8 v :: toBytes n (v / 256)

/-- A run of bytes as a number, the lowest first (R2). -/
def ofBytes : List Byte → Nat
  | [] => 0
  | b :: bs => b.toNat + 256 * ofBytes bs

/-- The greatest `r` with `r * r ≤ v`, from bit `k` down. -/
def isqrtFrom : Nat → Nat → Nat → Nat
  | 0, v, r => if (r + 1) * (r + 1) ≤ v then r + 1 else r
  | k + 1, v, r =>
    let r' := r + 2 ^ (k + 1)
    isqrtFrom k v (if r' * r' ≤ v then r' else r)

/-- The integer square root. -/
def isqrt (v : Nat) : Nat := isqrtFrom (bitLen v / 2 + 1) v 0

/-- The numbers from `a` to `a + n - 1`. -/
def span (a n : Nat) : List Nat := (List.range n).map (a + ·)

end Sys2Proof.Machine
end

