-- ==== Sys2Proof/Machine/State.lean ====
section
/-!
DEFINITION. The machine's state as plain data: every piece of state the spec gives the part, and the few fields the
model needs of its own (the acting context, the agenda, the counters of issue order and of free values, the occurrences
a step charges for). A unit that a list does not hold is at its reset value.
-/

namespace Sys2Proof.Machine

/-- The machine stops with a fault. -/
inductive Fault where
  /-- An event names a core, cluster, stack, slice, engine, context or other unit that the part does not have
  (00, R24, R61, R279). Raised by the meanings of events. Safe: the part has no such unit to act. -/
  | noSuchUnit
  deriving DecidableEq, Repr

/-- The model gives no meaning. -/
inductive Refusal where
  /-- The instruction has no meaning in the model yet. Raised by `exec`. Safe: nothing is claimed of it. -/
  | notModelled (mnemonic : String)
  deriving DecidableEq, Repr

/-! ## Small types -/

/-- The five scopes (R108). -/
inductive Scope where
  | core | clus | stack | dev | sys
  deriving DecidableEq, Repr

/-- The states of a context (R26). -/
inductive CtxState where
  | free | loading | running | waiting | xstall | frozen | saved
  deriving DecidableEq, Repr

/-- A message's status (R15). -/
inductive Status where
  | data | error | undeliv | notice
  deriving DecidableEq, Repr

/-- The ladle operations (R13, R225). -/
inductive LadleOp where
  | pm | iadd | f32 | f64
  deriving DecidableEq, Repr

/-- The channel kinds (R11). -/
inductive ChanKind where
  | fifo | ladle | relay
  deriving DecidableEq, Repr

/-- How a body came to start (R25 ORIGIN). -/
inductive Origin where
  | firing | hstart | spawn | launch
  deriving DecidableEq, Repr

/-- A view, as a view register, a message or a save slot holds it (R71). -/
structure View where
  base   : Word
  region : BitVec 24
  handle : BitVec 32
  canW   : Bool
  canR   : Bool
  canA   : Bool
  status : BitVec 3
  hi     : BitVec 32
  lo     : BitVec 32
  deriving DecidableEq, Repr

/-- The null view of R71's Reset column: STATUS 001, all else zero. -/
def View.null : View := ⟨0, 0, 0, false, false, false, 1, 0, 0⟩

/-- A stream register (R238). -/
inductive Stream where
  /-- Unconfigured (R24, R237). -/
  | off
  /-- `.aff`: base, extents, strides, indices, COUNT and DONE. -/
  | aff (base : Word) (ext : Vector (BitVec 16) 4) (str : Vector (BitVec 32) 4) (idx : Vector (BitVec 16) 4)
      (count : Nat) (done : Bool)
  /-- `.skip`: list offset, index of the list's first K-step, byte offset from LIST of the present entry, steps left in
  the present run after the current one, current value, number of Steps and DONE. -/
  | skip (list : Nat) (k0 : Nat) (at_ : Nat) (left : Nat) (value : Nat) (count : Nat) (done : Bool)
  deriving DecidableEq, Repr

/-- The fault causes of R361, with their codes in `FaultCause.code`. -/
inductive Cause where
  | illegal | emptyRead | align | page | priv | viewBounds | viewRights | viewWiden | viewClass | windowBounds
  | bankMode | outboxOverflow | gangTimeout | watchdog | rnsOverflow | residueMismatch | cbAudit | budget | poison
  | pairMismatch | contextLost | trap | bkpt | residueCorrected
  deriving DecidableEq, Repr

/-- What a fault packet says besides where and who (R360, R361). -/
structure FaultInfo where
  cause  : Cause
  detail : BitVec 24
  word3  : Word
  deriving DecidableEq, Repr

/-- The hints of a group that has begun (R157 to R162). -/
structure Group where
  start : Word
  first : Word32
  imm   : Option (BitVec 24)
  mod   : Option HintMod
  sched : Option HintSched
  deriving DecidableEq, Repr

/-- A running repetition sequence (R240 to R242). -/
structure RepSeq where
  words   : List Word32
  at_     : Word
  stag    : BitVec 24
  win     : Nat
  count   : Nat
  untilDone : Bool
  pass    : Nat
  index   : Nat
  spc     : Word
  streamDone : Bool
  group   : Option Group
  xwrites : BitVec 32
  xreads  : BitVec 32
  deriving DecidableEq, Repr

/-- A region as a body start resolves it (R29, R338, R339): the effective fields and the blocks that supply the
budgets and thresholds. -/
structure Region where
  rcb      : Word
  root     : Word
  wdog     : BitVec 32
  prio     : BitVec 3
  domain   : BitVec 32
  paired   : Bool
  errCh    : Word
  budCh    : Word
  radius   : BitVec 4
  cntEp    : Word
  energyAt : Word
  cyclesAt : Word
  spansAt  : Word
  thrAt    : Word
  deriving DecidableEq, Repr

/-- No region: what a context holds before any body has started on it. -/
def Region.none : Region := ⟨0, 0, 0, 0, 0, false, 0, 0, 0, 0, 0, 0, 0, 0⟩

/-- A register that a producer has marked empty (R156). -/
inductive Dest where
  | none
  | x (i : BitVec 5)
  | xx (i j : BitVec 5)
  | v (i : BitVec 4)
  | w (i : BitVec 3)
  | ww (i j : BitVec 3)
  deriving DecidableEq, Repr

/-- One contiguous part of a load that waits for its bytes: where its bytes go in the gathered value, its address and
length, where it is served and under which key slot, the bytes it merged from the core's buffered stores (R46, R50),
and its bytes once bound (R111). -/
structure Piece where
  slot : Nat
  va   : Word
  len  : Nat
  key  : Nat
  slotKey : Nat
  window : Bool
  remote : Bool
  omask : BitVec 16
  odata : BitVec 128
  value : Option Nat
  deriving DecidableEq, Repr

/-- A buffered store (R201): its bytes lie at `va` under `mask`. -/
structure Store where
  seq    : Nat
  ctx    : Nat
  va     : Word
  len    : Nat
  mask   : BitVec 16
  data   : BitVec 128
  pa     : Nat
  key    : Nat
  window : Bool
  remote : Bool
  strong : Option Scope
  view   : Option (BitVec 32 × BitVec 24)
  rcb    : Word
  leaf   : Word
  energyAt : Word
  deriving DecidableEq, Repr

/-- How the gathered bytes become register contents. -/
inductive Finish where
  /-- A scalar load of `n` bytes, sign- or zero-extended (R203). -/
  | load (n : Nat) (signed : Bool)
  /-- LDP (R205). -/
  | pair
  /-- A vector load: lane width, active lanes, the lanes kept or zeroed elsewhere (R245, R252). -/
  | lanes (z : Nat) (active : BitVec 16) (old : Vec)
  /-- VBCAST (R253). -/
  | splat (z : Nat) (active : BitVec 16) (old : Vec)
  /-- VLDF with its page format (R254): format, destination type, mode, super-block scales. -/
  | vldf (fmt : BitVec 4) (et : BitVec 3) (mode : BitVec 3) (active : BitVec 16) (old : Vec) (c : Nat)
  /-- The old value of an atomic of `n` bytes (R209). -/
  | old (n : Nat) (signed : Bool)
  /-- A value known at issue, with the flags its arrival raises (R156, R250). -/
  | known (value : BitVec 192) (value2 : BitVec 192) (flags : BitVec 5)
  /-- A value the unit named by the request supplies whole. -/
  | whole
  /-- A block quantised and stored (R260): VCQ4's element type, counts and flush limit, or none for VBXQ, and its stores without
  their bytes. -/
  | block (cq4 : Option (BitVec 3 × List Nat × Nat)) (dst : List Store)
  deriving DecidableEq, Repr

/-- A producer whose value has not arrived (R156). -/
structure Pend where
  seq    : Nat
  dest   : Dest
  pieces : List Piece
  finish : Finish
  ready  : Bool
  poison : Option Word
  pc     : Word
  isAtomic : Bool
  strong : Option Scope
  view   : Option (BitVec 32 × BitVec 24)
  deriving DecidableEq, Repr

/-- An access that waits in XSTALL (R200, R350): the page, its pending index while one is open, and the kind code of R361;
with `log` it waits for the side log to let an entry go too. -/
structure Stall where
  vpn     : BitVec 48
  va      : Word
  index   : Option Nat
  kind    : BitVec 3
  dests   : Dest
  log     : Bool
  deriving DecidableEq, Repr

/-- A fault to be taken at the context's next issue (R40, R202, R278, R353). -/
structure Deferred where
  info : FaultInfo
  fpc  : Word
  deriving DecidableEq, Repr

/-- What has become of an arrival at a barrier: it waits, its operation has started, or its word is to fault (R269). -/
inductive GangPhase where
  | waiting
  | started
  | failed (f : FaultInfo)
  deriving DecidableEq, Repr

/-- A context's arrival at the barrier of its cluster row (R269): the core's cycle, the gang, the cycles left of its timer, its
acc field and its descriptor. -/
structure Arrival where
  cycle : Word
  mask  : BitVec 8
  left  : BitVec 32
  acc   : BitVec 3
  desc  : Nat
  phase : GangPhase
  deriving DecidableEq, Repr

/-- Accesses of one context up to an issue number, which a release covers (R116). -/
structure Cover where
  core : Nat
  ctx  : Nat
  upTo : Nat
  deriving DecidableEq, Repr

/-- A CBRET that has been sent to its bank, by its number, and what the bank answered (R235). -/
inductive CbRet where
  | asked (seq : Nat)
  | ok
  | bad (f : FaultInfo)
  deriving DecidableEq, Repr

/-- One context of a core (R24 to R26, R362). -/
structure Ctx where
  pc      : Word
  x       : Vector Word 32
  v       : Vector Vec 16
  m       : Vector Word 16
  w       : Vector View 8
  q       : Vector Stream 4
  xfull   : BitVec 32
  vfull   : BitVec 16
  wfull   : BitVec 8
  state   : CtxState
  mstat   : Word
  fpctl   : Word
  fpflags : Word
  wdleft  : BitVec 32
  owe     : Vector Word 4
  rcbptr  : Word
  entry   : Word
  start4  : Word
  start5  : Word
  fpc     : Word
  acqL1   : BitVec 16
  acqCl   : BitVec 16
  group   : Option Group
  ir      : Word32
  prio    : BitVec 2
  prioLeft : BitVec 6
  rep     : Option RepSeq
  pends   : List Pend
  stall   : Option Stall
  deferred : List Deferred
  fpDelta : Vector Nat 16
  arrival : Option Arrival
  stepping : Bool
  stopReq : Bool
  slot    : List Word32
  startScope : Scope
  region  : Region
  live    : Bool
  since   : Nat
  claim   : Bool
  startCover : List Cover
  cbRet   : Option CbRet
  forced  : Bool
  barred  : Option Word
  deriving DecidableEq, Repr

/-- A context right after package reset: FREE or IDLE (R26), flags and modes zero (R25, R87, R88, R190), and the values
of entry 2 elsewhere. -/
def Ctx.reset : Ctx where
  pc := 0
  x := Vector.replicate 32 0
  v := Vector.replicate 16 0
  m := Vector.replicate 16 0
  w := Vector.replicate 8 View.null
  q := Vector.replicate 4 Stream.off
  xfull := BitVec.allOnes 32
  vfull := BitVec.allOnes 16
  wfull := BitVec.allOnes 8
  state := .free
  mstat := 0
  fpctl := 0
  fpflags := 0
  wdleft := 0
  owe := Vector.replicate 4 0
  rcbptr := 0
  entry := 0
  start4 := 0
  start5 := 0
  fpc := 0
  acqL1 := 0
  acqCl := 0
  group := none
  ir := 0
  prio := 0
  prioLeft := 0
  rep := none
  pends := []
  stall := none
  deferred := []
  fpDelta := Vector.replicate 16 0
  arrival := none
  stepping := false
  stopReq := false
  slot := []
  startScope := .core
  region := Region.none
  live := false
  since := 0
  claim := false
  startCover := []
  cbRet := none
  forced := false
  barred := none

/-! ## Messages and requests -/

/-- What a message carries (R15, R222). -/
inductive Payload where
  | words (ws : List Word)
  | view (v : View)
  | ladle (op : LadleOp) (ws : List Word)
  deriving DecidableEq, Repr

/-- A channel message with what travels beside it: the sender for ordering and returns, the release scope it carries
(R116), and the region and device charged with its loss (R34, R35). -/
structure Msg where
  name    : Word
  status  : Status
  payload : Payload
  chip    : BitVec 8
  sender  : Nat
  scope   : Scope
  cover   : List Cover
  errCh   : Word
  lostAt  : Word
  isReturn : Bool
  tag     : BitVec 16
  deriving DecidableEq, Repr

/-- A spawn item (R28, R230), or a launch once it has parked (R334). -/
structure SpawnItem where
  origin  : Origin
  entry   : Word
  rcb     : Word
  words   : List Word
  spawner : Nat
  hint    : Nat
  radius  : Nat
  errCh   : Word
  tag     : BitVec 16
  scope   : Scope
  cover   : List Cover
  deriving DecidableEq, Repr

/-- A request of a core to a Colander (R215). -/
inductive ViewReq where
  | alloc (core ctx seq : Nat) (wd : BitVec 3) (bytes : Word) (spansAt rcb : Word) (tag : BitVec 16)
  | split (core ctx seq : Nat) (wd ws : BitVec 3) (v : View) (at_ : BitVec 32)
  | share (core ctx seq : Nat) (wd : BitVec 3) (v : View)
  | notice (handle : BitVec 32) (region : BitVec 24) (interval : Option (BitVec 32 × BitVec 32))
  deriving DecidableEq, Repr

/-- A Colander's answer on its way to the core (R75, R215). -/
structure ViewAnswer where
  core : Nat
  ctx  : Nat
  seq  : Nat
  dest : BitVec 3
  view : View
  back : Option (BitVec 3 × View)
  deriving DecidableEq, Repr

/-- A value of a number format taken exactly (R84, R87). -/
inductive FVal where
  | nan (signalling : Bool)
  | inf (neg : Bool)
  | fin (neg : Bool) (man : Nat) (exp : Int)
  deriving DecidableEq, Repr

/-- A tensor shape record as an engine command carries it (R280), with the view it names. -/
structure Tsr where
  base  : Word
  fmt   : BitVec 4
  view  : Option View
  rank  : Nat
  rm    : BitVec 3
  qlim  : Nat
  ext   : List Nat
  str   : List Int
  org   : List Nat
  clip  : List Nat
  deriving DecidableEq, Repr

/-- What an engine does (R274, R282). -/
inductive EngOp where
  | cpy | cpya
  | cpyw (target offset : Nat)
  | cpyg (index : List Nat)
  | drain (add : Bool) (vals : List FVal)
  deriving DecidableEq, Repr

/-- A command of a copy engine (R279), with the context it came from for charging and packets. -/
structure EngCmd where
  id     : Nat
  op     : EngOp
  dst    : Tsr
  src    : Tsr
  weir   : Word
  bytes  : Nat
  core   : Nat
  ctx    : Nat
  tag    : BitVec 16
  rcb    : Word
  domain : BitVec 32
  energyAt : Word
  deriving DecidableEq, Repr

/-- A message to a weir table (R285, R286). -/
inductive WeirMsg where
  | charge (handle : Word) (bytes cmd : Nat) (tag : BitVec 16) (rcb : Word)
  | add (handle : Word) (amount : Int) (tag : BitVec 16) (rcb : Word)
  | arm (handle : Word) (free : Bool) (tag : BitVec 16) (rcb : Word)
  | create (core ctx seq : Nat) (chan : Word) (tag : BitVec 16) (rcb errCh : Word)
  | read (core ctx seq : Nat) (handle : Word) (tag : BitVec 16)
  deriving DecidableEq, Repr

/-- An atomic as the core issues it (R169, R208): function code, type code, operands, address and whether it returns. -/
structure AtomOp where
  fn    : BitVec 5
  ty    : BitVec 2
  wide  : Bool
  op    : BitVec 128
  cmp   : BitVec 128
  deriving DecidableEq, Repr

/-- A no-return atomic in the atomic queue or the spill ring (R115, R211). -/
structure AtomEntry where
  seq   : Nat
  ctx   : Nat
  va    : Word
  pa    : Nat
  key   : Nat
  remote : Bool
  view  : Option (BitVec 32 × BitVec 24)
  atom  : AtomOp
  scope : Scope
  pc    : Word
  rcb   : Word
  leaf  : Word
  energyAt : Word
  deriving DecidableEq, Repr

/-- What an outbox or spill entry holds (R30, R215, R279, R370). -/
inductive OutItem where
  | msg (m : Msg)
  | svc (m : Msg)
  | spawn (it : SpawnItem)
  | view (stack : Nat) (r : ViewReq)
  | engine (stack engine : Nat) (c : EngCmd)
  | weir (stack : Nat) (w : WeirMsg)
  | marker (cut : Nat)
  deriving DecidableEq, Repr

/-- An outbox entry: its item, the issuing context, and the accesses that must have performed at a scope before it may
leave (R80, R116). -/
structure OutEntry where
  item  : OutItem
  ctx   : Nat
  scope : Scope
  cover : List Cover
  view  : Option (BitVec 32)
  seq   : Nat
  deriving DecidableEq, Repr

/-- A spill-ring entry: an outbox spill or a spilled no-return atomic (R48). -/
inductive Spill where
  | out (e : OutEntry)
  | atom (a : AtomEntry)
  deriving DecidableEq, Repr

/-- A side-log entry (R352). `mapped`: its page has been found; `sent`: its access has been made, and the entry waits for it to
perform or be applied (R353). -/
structure SideEntry where
  op     : BitVec 3
  ctx    : Nat
  sent   : Bool
  mask   : BitVec 16
  va     : Word
  data   : BitVec 128
  atom   : Option AtomOp
  scope  : Scope
  view   : Option (BitVec 32 × BitVec 24)
  seq    : Nat
  pc     : Word
  mapped : Bool
  index  : Option Nat
  rcb    : Word
  domain : BitVec 32
  deriving DecidableEq, Repr

/-! ## A core -/

/-- One entry of a FIFO ring, with its arrival sequence (R12, R23). -/
structure RingEntry where
  msg : Msg
  seq : BitVec 32
  deriving DecidableEq, Repr

/-- A channel slot (R9, R11, R13, R225); `headAt` is where its head stands in a FIFO's ring (R366). -/
structure ChanSlot where
  alloc   : Bool
  kind    : ChanKind
  op      : LadleOp
  nm1     : BitVec 8
  gen     : BitVec 19
  start   : Nat
  ring    : List RingEntry
  headAt  : Nat
  part0   : Word
  part1   : Word
  count   : Nat
  presented : Option RingEntry
  lastSeq : BitVec 32
  scope   : Scope
  cover   : List Cover
  target  : Word
  region  : Word
  errCh   : Word
  deriving DecidableEq, Repr

/-- A free slot of generation 1 (R9). -/
def ChanSlot.reset : ChanSlot where
  alloc := false
  kind := .fifo
  op := .pm
  nm1 := 0
  gen := 1
  start := 0
  ring := []
  headAt := 0
  part0 := 0
  part1 := 0
  count := 0
  presented := none
  lastSeq := 0
  scope := .core
  cover := []
  target := 0
  region := 0
  errCh := 0

/-- An installed pattern (R16, R226). -/
structure Pattern where
  chans  : List (BitVec 6)
  rank   : BitVec 3
  fair   : Bool
  ctrl   : Bool
  entry  : Word
  region : Word
  deriving DecidableEq, Repr

/-- An accumulator tile (R263). -/
structure Tile where
  word   : Vector Word 128
  ksteps : BitVec 16
  afmt   : BitVec 2
  bfmt   : BitVec 2
  busy   : Bool
  valid  : Bool
  rowexp : Vector Byte 16
  cols   : Vector (BitVec 32) 8
  deriving DecidableEq, Repr

/-- A never-written tile (R263): VALID 0, words zero, exponents 141, column scales 1.0. -/
def Tile.reset : Tile :=
  ⟨Vector.replicate 128 0, 0, 0, 0, false, false, Vector.replicate 16 141, Vector.replicate 8 0x3F800000⟩

/-- A line of an L1, a cluster cache or an instruction cache, in its way (R49, R50, R67, R78). -/
structure Line where
  pa     : Nat
  key    : Nat
  region : Option (BitVec 24)
  fill   : BitVec 16
  data   : BitVec 1024
  rank   : BitVec 2
  way    : Nat
  deriving DecidableEq, Repr

/-- A cached translation (R343): a page or a range of a pound's tag, and its leaf word; the target address
is the virtual address plus `offset` modulo 2^64 (R347, R349). -/
structure TlbEntry where
  tag   : BitVec 16
  first : Nat
  limit : Nat
  offset : Nat
  leaf  : Word
  deriving DecidableEq, Repr

/-- A cut a core takes part in (R370): whether it has recorded, whether its marker has entered its router, and on which
outputs the router has sent the marker on (east, west, north, south, and to the core). -/
structure CutState where
  number : Nat
  recorded : Bool
  injected : Bool
  sent : BitVec 5
  log    : List Msg
  failed : Bool
  deriving DecidableEq, Repr

/-- One copy of a paired firing as the cluster's router holds it (R393, R394): its own context, the other copy's core and
context, the requests it has issued, each by its number and its content, how many of them both copies agreed on, how many
an earlier run had already sent, the results of return atomics and of weir requests by place, and those of view requests,
whether it has reached END, and the context as the body started it. -/
structure PairState where
  ctx      : Nat
  other    : Nat
  otherCtx : Nat
  home     : Bool
  issued   : List (Nat × List Nat)
  released : Nat
  skip     : Nat
  results  : List (Nat × Nat)
  answers  : List (Nat × ViewAnswer)
  rerun    : Bool
  done     : Bool
  start    : Ctx
  deriving DecidableEq, Repr

/-- What a drain stores of each element (R272). -/
inductive DrainKind where
  | i64 | i32s | f32 | f32a | bf16
  deriving DecidableEq, Repr

/-- What has become of a drain (R273): it runs, or it has ended with its flags, or with a fault. -/
inductive DrainPhase where
  | busy
  | done (flags : BitVec 5)
  | failed (f : FaultInfo)
  deriving DecidableEq, Repr

/-- A drain that holds a tile (R273): its context, by body and word, and its operands. -/
structure DrainJob where
  ctx   : Nat
  since : Nat
  pc    : Word
  tile  : Nat
  kind  : DrainKind
  base  : Nat
  pitch : Nat
  scale : BitVec 32
  sat   : Bool
  phase : DrainPhase
  deriving DecidableEq, Repr

/-- A change of a core's residue configuration on its way (R275): who asked, the new value, and the old one once it has
taken effect. -/
structure AcfgWait where
  keeper : Nat
  ctx    : Nat
  deg    : Bool
  fch    : BitVec 3
  old    : Option Word
  deriving DecidableEq, Repr

/-- A release notice the core owes for a view (R76, R80): the handle, the region, the interval left (none when the view
has gone), and the last access it waits for. -/
structure Owed where
  handle : BitVec 32
  region : BitVec 24
  left   : Option (BitVec 32 × BitVec 32)
  upTo   : Nat
  deriving DecidableEq, Repr

/-- What a TLBI has dropped and waits for (R218): its context, the number below which accesses count, and the ranges of
addresses. -/
structure TlbWait where
  ctx    : Nat
  before : Nat
  ranges : List (Nat × Nat)
  deriving DecidableEq, Repr

/-- A worker or keeper core. -/
structure Core where
  ctxs     : Vector Ctx 11
  chans    : Vector ChanSlot 64
  pats     : Vector (Option Pattern) 32
  ptr      : Vector (BitVec 5) 8
  arrivals : BitVec 32
  outbox   : List OutEntry
  spill    : List Spill
  spawnQ   : List SpawnItem
  stores   : List Store
  atomQ    : List AtomEntry
  atomsOut : List AtomEntry
  sideLog  : List SideEntry
  tiles    : Vector Tile 8
  codebook : Vector Byte 16
  acfgDeg  : Bool
  acfgFch  : BitVec 3
  acfgWait : Option AcfgWait
  perf     : Vector Word 32
  cycle    : Word
  l1Epoch  : BitVec 16
  l1       : List Line
  icache   : List Line
  dtlb     : List TlbEntry
  itlb     : List TlbEntry
  rrNext   : Nat
  prioRun  : Nat
  repOwner : Option Nat
  packets  : List (List Word × List Cover)
  stopping : Bool
  grace    : Nat
  saving   : Option (Nat × Nat)
  savedCtx : BitVec 11
  msgSaved : Bool
  halted   : Bool
  killing  : Option Nat
  signal   : Option Nat
  ending   : Bool
  devTag   : BitVec 16
  ctxsel   : BitVec 4
  lssel    : BitVec 4
  slotMem  : Vector Word32 4
  cut      : Option CutState
  pairs    : List PairState
  sluiceDue : Bool
  bankWait : Option (Nat × Nat × Bool)
  relays   : List Msg
  energy   : List (Word × Nat)
  cycles   : List (Word × Nat)
  drain    : Option DrainJob
  sysbase  : Nat
  owed     : List Owed
  tlbWait  : Option TlbWait
  deriving DecidableEq, Repr

/-- A core right after package reset. -/
def Core.reset : Core where
  ctxs := Vector.replicate 11 Ctx.reset
  chans := Vector.replicate 64 ChanSlot.reset
  pats := Vector.replicate 32 none
  ptr := Vector.replicate 8 0
  arrivals := 0
  outbox := []
  spill := []
  spawnQ := []
  stores := []
  atomQ := []
  atomsOut := []
  sideLog := []
  tiles := Vector.replicate 8 Tile.reset
  codebook := ⟨Config.standardBook.toArray, by decide⟩
  acfgDeg := false
  acfgFch := 0
  acfgWait := none
  perf := Vector.replicate 32 0
  cycle := 0
  l1Epoch := 0
  l1 := []
  icache := []
  dtlb := []
  itlb := []
  rrNext := 0
  prioRun := 0
  repOwner := none
  packets := []
  stopping := false
  grace := 0
  saving := none
  savedCtx := 0
  msgSaved := false
  halted := false
  killing := none
  signal := none
  ending := false
  devTag := 0
  ctxsel := 0
  lssel := 0
  slotMem := Vector.replicate 4 0
  cut := none
  pairs := []
  sluiceDue := false
  bankWait := none
  relays := []
  energy := []
  cycles := []
  drain := none
  sysbase := 0x5000
  owed := []
  tlbWait := none

/-! ## A cluster -/

/-- The modes of a cluster-store bank (R53). -/
inductive BankMode where
  | cache | scratch | fifo
  deriving DecidableEq, Repr

/-- A ring's STATE (R56). -/
inductive RingState where
  | off | run | suspect | quiesced
  deriving DecidableEq, Repr

/-- A slot's state (R56). -/
inductive SlotState where
  | free | inflight | filled
  deriving DecidableEq, Repr

/-- A circular buffer ring (R56). -/
structure Ring where
  base    : Nat
  slot    : Nat
  depth   : Nat
  pf      : Bool
  free    : Nat
  pl      : Bool
  filled  : Nat
  fillPtr : Nat
  lap     : Nat
  state   : RingState
  chan    : Word
  slots   : List (SlotState × BitVec 4)
  deriving DecidableEq, Repr

/-- An unconfigured ring: R56's Reset columns. -/
def Ring.reset : Ring := ⟨0, 0, 0, true, 0, true, 0, 0, 0, .off, 0, []⟩

/-- A cluster-store bank (R53, R55): `busy` holds the mode a BANKMODE in progress will set. -/
structure Bank where
  sys   : Bool
  mode  : BankMode
  busy  : Option BankMode
  rings : Vector Ring 4
  deriving DecidableEq, Repr

/-- A bank after package reset; "firmware" in R53 is read as CACHE with SYS clear (entry 2). -/
def Bank.reset : Bank := ⟨false, .cache, none, Vector.replicate 4 Ring.reset⟩

/-- An open pending miss (R350). -/
structure Miss where
  tag  : BitVec 16
  vpn  : BitVec 48
  kind : BitVec 3
  va   : Word
  core : Nat
  ctx  : Nat
  side : BitVec 5
  deriving DecidableEq, Repr

/-- A walk in a cluster's walkers (R343): `answer` is the keeper's lookup once it has been made. -/
structure Walk where
  miss   : Miss
  answer : Option (Option Word)
  deriving DecidableEq, Repr

/-- An overflow-ring entry (R33, R367): an arrival for a channel of a home core, or a launch that waits for its device
(R334). -/
inductive OvfEntry where
  | msg (home : Nat) (m : Msg)
  | launch (core : Nat) (it : SpawnItem)
  deriving DecidableEq, Repr

/-- A cluster. -/
structure Cluster where
  banks   : Vector Bank 16
  epoch   : BitVec 16
  lines   : List Line
  tlb     : List TlbEntry
  misses  : Vector (Option Miss) 16
  walks   : List Walk
  ovf     : Vector (List OvfEntry) 8
  ovfHead : Vector Nat 8
  fpRaised : BitVec 5
  fpunion : BitVec 5
  returns : List (Nat × Nat × Nat × Word)
  codeAcq : BitVec 16
  deriving DecidableEq, Repr

/-- A cluster after package reset. -/
def Cluster.reset : Cluster where
  banks := Vector.replicate 16 Bank.reset
  epoch := 0
  lines := []
  tlb := []
  misses := Vector.replicate 16 none
  walks := []
  ovf := Vector.replicate 8 []
  ovfHead := Vector.replicate 8 0
  fpRaised := 0
  fpunion := 0
  returns := []
  codeAcq := 0

/-! ## A stack -/

/-- What an engine writes at one place: bytes as they are, or elements converted there (R281, R282). -/
inductive EngWrite where
  /-- Raw bytes. -/
  | raw (bytes : List Byte)
  /-- One element: destination format, rounding mode, value. -/
  | put (fmt : BitVec 4) (rm : BitVec 3) (v : FVal)
  /-- One element added to what is there (CPYA, or MDRAINC with ADD). -/
  | add (fmt : BitVec 4) (rm : BitVec 3) (v : FVal)
  /-- Elements of one CQ4 or BX16 block, replaced or added, then quantised again. -/
  | block (fmt : BitVec 4) (rm : BitVec 3) (qlim : Nat) (add : Bool) (els : List (Nat × FVal))
  deriving DecidableEq, Repr

/-- Who waits for a memory request. -/
inductive Asker where
  /-- Piece `piece` of the producer `seq` of a context. -/
  | load (core ctx seq piece : Nat)
  /-- A store of a context. -/
  | store (core ctx seq : Nat)
  /-- A return atomic's producer. -/
  | atomic (core ctx seq : Nat)
  /-- A no-return atomic. -/
  | queued (core ctx seq : Nat)
  /-- A copy engine's command. -/
  | engine (stack engine cmd : Nat) (weir : Word)
  /-- An RMA of the host, by number. -/
  | rma (k : Nat)
  /-- A core's fetch of a line of code (R49). -/
  | fetch (core : Nat)
  /-- A CRR of SLICEOCC (R62). -/
  | occ (core ctx seq : Nat)
  deriving DecidableEq, Repr

/-- What a memory request does at its point of service. -/
inductive MemOp where
  | read (len : Nat) (fillL1 fillCl : Bool) (rank : BitVec 2)
  | write (mask : BitVec 16) (data : BitVec 128)
  | atomic (a : AtomOp)
  | engine (w : EngWrite) (len : Nat)
  | sample
  deriving DecidableEq, Repr

/-- A request in the memory class (R62), or one to a host, peer or pool target (R337). -/
structure MemReq where
  asker  : Asker
  op     : MemOp
  va     : Word
  pa     : Nat
  key    : Nat
  region : Option (BitVec 24)
  tag    : BitVec 16
  node   : Nat
  rcb    : Word
  energyAt : Word
  clusDone : Bool
  strong : Option Scope
  chip   : Nat
  target : BitVec 2
  deriving DecidableEq, Repr

/-- An L2 line's bookkeeping (R49, R67, R382): its address, key slot, way, dirtiness and last use. -/
structure L2Line where
  pa    : Nat
  key   : Nat
  way   : Nat
  dirty : Bool
  used  : Nat
  deriving DecidableEq, Repr

/-- A home slice (R62, R382, R383). -/
structure Slice where
  queue  : List MemReq
  peak   : Nat
  wayown : BitVec 48
  waymon : Vector Word 4
  lines  : List L2Line
  clock  : Nat
  shadow : List ((Nat × Nat) × List Nat)
  hits   : Vector (Vector Nat 17) 4
  fpDelta : List ((Nat × Word) × Vector Nat 16)
  energy : List ((Nat × Word) × Nat)
  held   : List MemReq
  deriving DecidableEq, Repr

/-- A slice after package reset: R62 and R382's Reset columns. -/
def Slice.reset : Slice where
  queue := []
  peak := 0
  wayown := BitVec.allOnes 48
  waymon := Vector.replicate 4 0x1000000000000000
  lines := []
  clock := 0
  shadow := []
  hits := Vector.replicate 4 (Vector.replicate 17 0)
  fpDelta := []
  energy := []
  held := []

/-- A covered region in a Colander's table (R69, R70). -/
structure CovRegion where
  id      : BitVec 24
  base    : Word
  spans   : Nat
  freed   : List Nat
  spansAt : Word
  tag     : BitVec 16
  deriving DecidableEq, Repr

/-- A live view in a Colander's table (R79). -/
structure CovView where
  handle : BitVec 32
  region : BitVec 24
  lo     : BitVec 32
  hi     : BitVec 32
  deriving DecidableEq, Repr

/-- A Colander (R69, R79). `serial` and `handle` are none until the first use, whose values R69 and R71 leave open; `zero`
holds the spans whose zero-on-first-touch bit is set, by tag and virtual address ÷ 1024 (R70). -/
structure Colander where
  queue   : List ViewReq
  regions : List CovRegion
  views   : List CovView
  serial  : Option (BitVec 22)
  handle  : Option (BitVec 32)
  zero    : List (Nat × Nat)
  deriving DecidableEq, Repr

/-- A weir (R284 to R287). -/
structure Weir where
  gen   : BitVec 10
  live  : Bool
  tag   : BitVec 16
  count : Nat
  chan  : Word
  armed : Bool
  autoFree : Bool
  ovf   : Bool
  fails : Nat
  rcb   : Word
  errCh : Word
  deriving DecidableEq, Repr

/-- A free weir entry of generation 1 (R284). -/
def Weir.reset : Weir := ⟨1, false, 0, 0, 0, false, false, false, 0, 0, 0⟩

/-- A subtraction an engine has sent to a weir (R283, R285). -/
structure WeirSub where
  handle : Word
  cmd    : Nat
  bytes  : Nat
  fail   : Bool
  tag    : BitVec 16
  rcb    : Word
  deriving DecidableEq, Repr

/-- What stands in an engine's queue: a command or a cut marker (R279, R370). -/
inductive EngItem where
  | cmd (c : EngCmd)
  | marker (cut : Nat)
  deriving DecidableEq, Repr

/-- A command in progress (R283): whether all its elements have been done; of a ring it fills (R57), the selector, the
writes not made by offset and length, and the slot under way with the offset its bytes start at; the requests not
answered, the bytes it has written or sent, what stops it or holds it up, whether its next elements' bytes have been asked
for, and what has come of them, by address (none for bytes that came marked as uncorrectable); how many elements have been
done, and the page that will not be mapped. -/
structure EngRun where
  cmd     : EngCmd
  planned : Bool
  ring    : Word
  todo    : List (Nat × Nat × EngWrite)
  slot    : Option (Nat × Nat)
  out     : Nat
  written : Nat
  failed  : Option FaultInfo
  stalled : Option (BitVec 48)
  asked   : Bool
  got     : List (Word × Option Nat)
  next    : Nat
  refused : Option (BitVec 48)
  deriving DecidableEq, Repr

/-- A copy engine (R279). -/
structure Engine where
  queue : List EngItem
  run   : Option EngRun
  cut   : Option Nat
  energy : List ((Nat × Word) × Nat)
  deriving DecidableEq, Repr

/-- An idle engine. -/
def Engine.reset : Engine := ⟨[], none, none, []⟩

/-- The states of a migration entry (R354). -/
inductive MigState where
  | idle | claimed | hold | copy | remap | drain | forward | aborted
  deriving DecidableEq, Repr

/-- A migration entry (R354 to R356). -/
structure Mig where
  va      : Word
  dst     : Word
  state   : MigState
  req     : BitVec 2
  refused : Bool
  retire  : Bool
  held    : List MemReq
  oldLeaf : Word
  deriving DecidableEq, Repr

/-- An idle migration entry: R354's Reset column. -/
def Mig.reset : Mig := ⟨0, 0, .idle, 0, false, false, [], 0⟩

/-- The classes of DRAM errors (R391). -/
inductive DramClass where
  | cell | row | column | bank
  deriving DecidableEq, Repr

/-- An entry of the DRAM classification table (R391): its class once it has one, and whether a spare repairs it; otherwise the
retirement of its pages does. -/
structure DramEntry where
  cell  : DramCell
  count : Nat
  cls   : Option DramClass
  spared : Bool
  deriving DecidableEq, Repr

/-- A stack. -/
structure Stack where
  slices   : Vector Slice 16
  colander : Colander
  weirs    : List (Nat × Weir)
  weirQ    : List WeirMsg
  subs     : List WeirSub
  charged  : List Nat
  engines  : Vector Engine 16
  mig      : Vector Mig 16
  dram     : List DramEntry
  sparesRow : List (Nat × Nat)
  sparesCol : List (Nat × Nat)
  used     : Nat
  usedPj   : Nat
  throttled : Bool
  nextAllot : Option (BitVec 32)
  deriving DecidableEq, Repr

/-- A stack after package reset. -/
def Stack.reset : Stack where
  slices := Vector.replicate 16 Slice.reset
  colander := ⟨[], [], [], none, none, []⟩
  weirs := []
  weirQ := []
  subs := []
  charged := []
  engines := Vector.replicate 16 Engine.reset
  mig := Vector.replicate 16 Mig.reset
  dram := []
  sparesRow := []
  sparesCol := []
  used := 0
  usedPj := 0
  throttled := false
  nextAllot := none

/-! ## The package -/

/-- An admitted message on its way to its home, or to a port (R31, R329); `mark` is the cut whose marker its source had sent
before it (R370), 0 for none, and `tag` the device whose route it took (R330). -/
structure Flight where
  source : Nat
  home   : Nat
  msg    : Msg
  mark   : Nat
  tag    : Nat
  deriving DecidableEq, Repr

/-- A spawn item walking the mesh (R28): where it is, and the cores still to visit. -/
structure Walker where
  item  : SpawnItem
  route : List Nat
  deriving DecidableEq, Repr

/-- A gang operation whose arrays hold their tiles (R271). -/
structure GangOp where
  members : List (Nat × Nat)
  steps   : Nat
  deriving DecidableEq, Repr

/-- The states of a pound's trusted interface (R386). -/
inductive Trust where
  | unlocked | locked | run | error
  deriving DecidableEq, Repr

/-- A live pound (R374, R386). -/
structure Pound where
  record   : LayoutRecord
  trust    : Trust
  frozen   : BitVec 256
  report   : Option (BitVec 256)
  counter  : Word
  resident : Option (BitVec 16)
  lastVd   : Nat
  keysLive : Bool
  scrubbed : Bool
  tagsOpen : Bool
  deriving DecidableEq, Repr

/-- A journal entry's phase (R374). -/
inductive JournalPhase where
  | prepared | committed | done
  deriving DecidableEq, Repr

/-- The journal's one entry (R374). -/
structure Journal where
  seq     : Word
  phase   : JournalPhase
  removed : List Word
  records : List LayoutRecord
  digest  : BitVec 256
  deriving DecidableEq, Repr

/-- A virtual device as the wharf keeps it (R378 to R381). -/
structure Vd where
  tokens  : Int
  root    : Word
  held    : Nat
  ending  : Bool
  deriving DecidableEq, Repr

/-- A virtual device nothing has used. -/
def Vd.reset : Vd := ⟨0, 0, 0, false⟩

/-- A leaky bucket (R390). -/
structure Bucket where
  leak  : BitVec 6
  mark  : BitVec 16
  fired : Bool
  count : BitVec 16
  deriving DecidableEq, Repr

/-- A bucket after package reset: R390's Reset column. -/
def Bucket.reset : Bucket := ⟨20, 0xFFFF, false, 0⟩

/-- A completion endpoint's batch (R342). -/
structure Batch where
  msgs  : List Msg
  timer : Nat
  port  : Nat
  deriving DecidableEq, Repr

/-- What leaves the package through a port (R331, R341, R342), or a unit's notice to the wharf (R390). -/
inductive Egress where
  | tagged (tag : Word) (msgs : List Msg)
  | peer (route : Word) (m : Msg)
  | rmaRead (data : List Byte)
  | rmaDone (k : Nat)
  | refused
  | wharf (words : List Word)
  deriving DecidableEq, Repr

/-- An RMA in progress (R336): its window key and offset, its length and the bytes it writes, the page it waits for, how
many bytes have not been performed, and the bytes read by offset, none for those marked as uncorrectable. -/
structure Rma where
  id    : Nat
  write : Bool
  key   : Word
  off   : Nat
  len   : Nat
  data  : List Byte
  stall : Option (BitVec 16 × BitVec 48)
  left  : Nat
  got   : List (Nat × Option (List Byte))
  deriving DecidableEq, Repr

/-- A cut the wharf has started (R370, R396), with the cores that have logged their router's marker and the ports that have
injected theirs. -/
structure Cut where
  node   : Nat
  number : Nat
  memory : Bool
  failed : Bool
  cores  : List Nat
  ports  : List Nat
  deriving DecidableEq, Repr

/-- A memory cut's copy (R396): the pound, the cut, memory and weight slices as they were, with the frames the pound's tables
mapped. -/
structure Checkpoint where
  node    : Nat
  number  : Nat
  mem     : List Host.Cell
  weights : List Host.Cell
  keys    : List (Nat × Nat)
  frames  : List Nat
  deriving DecidableEq, Repr

/-- A breakpoint of snivis (R314). -/
structure Breakpoint where
  number : Nat
  va     : Word
  cores  : List Nat
  word   : Word32
  deriving DecidableEq, Repr

/-- The snivis session (R290, R292, R293, R297, R298, R313, R314): its pound's tag, the symbols as placed, breakpoints, traces and watches,
a pre-emption that waits for a word to issue (core, address, node and grace), the slices sampled (core, slice, interval and the
core's cycle at the start), and the reports of R315 that hold and have been printed. -/
structure Snivis where
  tag     : Option Nat
  syms    : List GofSymbol
  breaks  : List Breakpoint
  traces  : List (Nat × Option Nat)
  watches : List (Nat × List SnvReg)
  pcWatches : List (Word × List Nat × List SnvReg)
  gangs   : List (Nat × Nat)
  stopAt  : Option (Nat × Word × Nat × Nat)
  samples : List (Nat × Nat × Nat × Word)
  said    : List (String × List Word)
  deriving DecidableEq, Repr

/-- One line of tool output: what was asked, what it names as text (cores, code, decimal values), and the values printed. -/
structure Printed where
  command : String
  text    : List String
  values  : List Word
  deriving DecidableEq, Repr

/-- What the package's units are charged for and count (R190 PERF, R399), put down by an operation and settled by the
step that ran it. -/
inductive Occur where
  /-- A word issued: the energy class of R399, and whether the sequencer issued it. -/
  | issued (core ctx cls : Nat) (sequencer : Bool)
  | l1Miss (core : Nat)
  | clMiss (core : Nat)
  | sent (core : Nat)
  | fired (core : Nat)
  | spilled (core : Nat)
  | tlbMiss (core : Nat)
  /-- A gang operation has walked a skip stream of a context (R241, R270). -/
  | kept (core ctx : Nat) (q : BitVec 2)
  /-- An energy charge of class `cls`, `n` times, to a budget block. -/
  | charge (core cls n : Nat) (at_ : Word)
  deriving DecidableEq, Repr

/-- An interval that a unit counts on its own clock (R1): the refill period of a pound, by node (R380); a stack's energy interval
(R401); a slice's cache-way interval (R383); the posts of an engine and of a port (R399); and the leak of a bucket (R390). -/
inductive Timed where
  | refill (node : Nat)
  | stack (stack : Nat)
  | slice (stack slice : Nat)
  | engine (stack engine : Nat)
  | port (i : Nat)
  | bucket (id : BucketId)
  deriving DecidableEq, Repr

/-- One move of the part: which agent acts next. -/
inductive Move where
  /-- A core issues one word of one of its contexts. -/
  | issue (core : Nat)
  /-- An event of the table, or a tool command. -/
  | event (i : Instr)
  /-- A cycle of a core's clock passes without an issue. -/
  | tick (core : Nat)
  /-- A cycle of the wharf's clock passes. -/
  | wharf
  /-- A cycle of a port's clock passes. -/
  | port (i : Nat)
  /-- A cycle of the clock of a unit that counts an interval passes. -/
  | clock (u : Timed)
  deriving DecidableEq, Repr

/-- Memory: bytes at addresses, in one canonical form (Laws/Memory.lean). -/
abbrev Memory := List Host.Cell

/-- The whole machine; `noticed` lists the budget words whose notice has gone out since software last raised them (R29): tag,
address and place. `ages` holds the cycles each counted interval has lasted so far (R1). -/
structure State where
  mem      : Memory
  weights  : Memory
  lineKeys : List (Nat × Nat)
  keyGens  : List ((Nat × Nat) × Nat)
  poisoned : List Nat
  cores    : List (Nat × Core)
  clusters : List (Nat × Cluster)
  stk      : Vector Stack 4
  net      : List MemReq
  remote   : List MemReq
  flight   : List Flight
  walkers  : List Walker
  answers  : List ViewAnswer
  gangOps  : List GangOp
  pounds   : List Pound
  shadow   : List LayoutRecord
  journal  : Option Journal
  vds      : List (Nat × Vd)
  booted   : Bool
  devRegs  : List (DevReg × Word)
  batches  : List ((Nat × Nat × Nat) × Batch)
  egress   : List Egress
  rmas     : List Rma
  buckets  : List (BucketId × Bucket)
  errors   : List (Nat × Vector (BitVec 32) 16)
  mr       : Vector (BitVec 256) 8
  envelope : Nat
  retired  : List Nat
  cuts     : List Cut
  checkpoints : List Checkpoint
  cutRecs  : List ((Nat × Nat) × Core)
  portEnergy : List ((Nat × Nat × Word) × Nat)
  saves    : List ((Nat × Nat) × Core)
  console  : List Printed
  files    : List (String × List Byte)
  snivis   : Snivis
  cur      : Nat × Nat
  agenda   : List Move
  freeCtr  : Nat
  seq      : Nat
  occurs   : List Occur
  noticed  : List (Nat × Word × Nat)
  ages     : List (Timed × Nat)
  deriving DecidableEq, Repr

/-- The machine right after package reset. -/
def State.reset : State where
  mem := []
  weights := []
  lineKeys := []
  keyGens := []
  poisoned := []
  cores := []
  clusters := []
  stk := Vector.replicate 4 Stack.reset
  net := []
  remote := []
  flight := []
  walkers := []
  answers := []
  gangOps := []
  pounds := []
  shadow := []
  journal := none
  vds := []
  booted := false
  devRegs := []
  batches := []
  egress := []
  rmas := []
  buckets := []
  errors := []
  mr := Vector.replicate 8 0
  envelope := 3200
  retired := []
  cuts := []
  checkpoints := []
  cutRecs := []
  portEnergy := []
  saves := []
  console := []
  files := []
  snivis := ⟨none, [], [], [], [], [], [], none, [], []⟩
  cur := (0, 0)
  agenda := []
  freeCtr := 0
  seq := 0
  occurs := []
  noticed := []
  ages := []

end Sys2Proof.Machine
end

