-- ==== Sys2Proof/Machine/Ops.lean ====
section
/-!
DEFINITION. The named operations over units, registers and memory; the issue of a word with the checks of R142 and R155;
and the fault path of R40, which every cause takes.
-/

namespace Sys2Proof.Machine

/-- The outcome type of every meaning. -/
abbrev Out := Host.Outcome State Fault Refusal

/-! ## Units by number -/

/-- The value a list holds for a number, or the reset value `d`. -/
def lookupD {α : Type} (d : α) (k : Nat) : List (Nat × α) → α
  | [] => d
  | (j, v) :: rest => if j = k then v else lookupD d k rest

/-- The list with the value for a number set, in rising order of number. -/
def insertAt {α : Type} (k : Nat) (v : α) : List (Nat × α) → List (Nat × α)
  | [] => [(k, v)]
  | (j, u) :: rest => if k < j then (k, v) :: (j, u) :: rest else if k = j then (k, v) :: rest else (j, u) :: insertAt k v rest

/-- The value a list holds for any kind of key, or `d`. -/
def lookupKey {κ α : Type} [DecidableEq κ] (d : α) (k : κ) : List (κ × α) → α
  | [] => d
  | (j, v) :: rest => if j = k then v else lookupKey d k rest

/-- The list with the value for any kind of key set. -/
def insertKey {κ α : Type} [DecidableEq κ] (k : κ) (v : α) : List (κ × α) → List (κ × α)
  | [] => [(k, v)]
  | (j, u) :: rest => if j = k then (k, v) :: rest else (j, u) :: insertKey k v rest

/-- The cycles an interval has lasted so far on its unit's clock (R1). -/
def State.age (s : State) (u : Timed) : Nat := lookupKey 0 u s.ages
/-- An interval that begins again. -/
def State.restart (s : State) (u : Timed) : State := { s with ages := insertKey u 0 s.ages }
/-- A cycle of a unit's clock. -/
def State.older (s : State) (u : Timed) : State := { s with ages := insertKey u (s.age u + 1) s.ages }

/-- A core. -/
def State.core (s : State) (n : Nat) : Core := lookupD Core.reset n s.cores
/-- The state with a core replaced. -/
def State.setCore (s : State) (n : Nat) (c : Core) : State := { s with cores := insertAt n c s.cores }
/-- The state with a core changed. -/
def State.modCore (s : State) (n : Nat) (f : Core → Core) : State := s.setCore n (f (s.core n))
/-- A context of a core. -/
def Core.ctx (c : Core) (k : Nat) : Ctx := c.ctxs[k % 11]'(Nat.mod_lt _ (by decide))
/-- The core with a context replaced. -/
def Core.setCtx (c : Core) (k : Nat) (x : Ctx) : Core :=
  { c with ctxs := c.ctxs.set (k % 11) x (Nat.mod_lt _ (by decide)) }
/-- The core with a context changed. -/
def Core.modCtx (c : Core) (k : Nat) (f : Ctx → Ctx) : Core := c.setCtx k (f (c.ctx k))
/-- The core with every context changed. -/
def Core.modAll (c : Core) (f : Ctx → Ctx) : Core := { c with ctxs := c.ctxs.mapIdx fun _ x => f x }
/-- The core the acting context belongs to. -/
def State.me (s : State) : Core := s.core s.cur.1
/-- The acting context (R24). -/
def State.ctx (s : State) : Ctx := s.me.ctx s.cur.2
/-- The state with the acting core changed. -/
def State.modMe (s : State) (f : Core → Core) : State := s.modCore s.cur.1 f
/-- The state with the acting context changed. -/
def State.modCtx (s : State) (f : Ctx → Ctx) : State := s.modMe (·.modCtx s.cur.2 f)
/-- The state with a context of a core changed. -/
def State.modCtxOf (s : State) (n k : Nat) (f : Ctx → Ctx) : State := s.modCore n (·.modCtx k f)
/-- A cluster. -/
def State.cluster (s : State) (n : Nat) : Cluster := lookupD Cluster.reset n s.clusters
/-- The state with a cluster changed. -/
def State.modCluster (s : State) (n : Nat) (f : Cluster → Cluster) : State :=
  { s with clusters := insertAt n (f (s.cluster n)) s.clusters }
/-- A stack. -/
def State.stack (s : State) (n : Nat) : Stack := s.stk[n % 4]'(Nat.mod_lt _ (by decide))
/-- The state with a stack changed. -/
def State.modStack (s : State) (n : Nat) (f : Stack → Stack) : State :=
  { s with stk := s.stk.set (n % 4) (f (s.stack n)) (Nat.mod_lt _ (by decide)) }
/-- A home slice of a stack. -/
def Stack.slice (t : Stack) (i : Nat) : Slice := t.slices[i % 16]'(Nat.mod_lt _ (by decide))
/-- The stack with a slice changed. -/
def Stack.modSlice (t : Stack) (i : Nat) (f : Slice → Slice) : Stack :=
  { t with slices := t.slices.set (i % 16) (f (t.slice i)) (Nat.mod_lt _ (by decide)) }
/-- A copy engine of a stack. -/
def Stack.engine (t : Stack) (i : Nat) : Engine := t.engines[i % 16]'(Nat.mod_lt _ (by decide))
/-- The stack with an engine changed. -/
def Stack.modEngine (t : Stack) (i : Nat) (f : Engine → Engine) : Stack :=
  { t with engines := t.engines.set (i % 16) (f (t.engine i)) (Nat.mod_lt _ (by decide)) }
/-- A migration entry of a stack. -/
def Stack.migEntry (t : Stack) (i : Nat) : Mig := t.mig[i % 16]'(Nat.mod_lt _ (by decide))
/-- The stack with a migration entry changed. -/
def Stack.modMig (t : Stack) (i : Nat) (f : Mig → Mig) : Stack :=
  { t with mig := t.mig.set (i % 16) (f (t.migEntry i)) (Nat.mod_lt _ (by decide)) }
/-- A bank of a cluster store. -/
def Cluster.bank (c : Cluster) (i : Nat) : Bank := c.banks[i % 16]'(Nat.mod_lt _ (by decide))
/-- The cluster with a bank changed. -/
def Cluster.modBank (c : Cluster) (i : Nat) (f : Bank → Bank) : Cluster :=
  { c with banks := c.banks.set (i % 16) (f (c.bank i)) (Nat.mod_lt _ (by decide)) }
/-- A ring of a bank. -/
def Bank.ring (b : Bank) (i : Nat) : Ring := b.rings[i % 4]'(Nat.mod_lt _ (by decide))
/-- The bank with a ring changed. -/
def Bank.modRing (b : Bank) (i : Nat) (f : Ring → Ring) : Bank :=
  { b with rings := b.rings.set (i % 4) (f (b.ring i)) (Nat.mod_lt _ (by decide)) }
/-- A channel slot of a core. -/
def Core.chan (c : Core) (i : Nat) : ChanSlot := c.chans[i % 64]'(Nat.mod_lt _ (by decide))
/-- The core with a channel slot changed. -/
def Core.modChan (c : Core) (i : Nat) (f : ChanSlot → ChanSlot) : Core :=
  { c with chans := c.chans.set (i % 64) (f (c.chan i)) (Nat.mod_lt _ (by decide)) }
/-- A pattern slot of a core. -/
def Core.pat (c : Core) (i : Nat) : Option Pattern := c.pats[i % 32]'(Nat.mod_lt _ (by decide))
/-- The core with a pattern slot set. -/
def Core.setPat (c : Core) (i : Nat) (p : Option Pattern) : Core :=
  { c with pats := c.pats.set (i % 32) p (Nat.mod_lt _ (by decide)) }
/-- A tile of a core. -/
def Core.tile (c : Core) (i : Nat) : Tile := c.tiles[i % 8]'(Nat.mod_lt _ (by decide))
/-- The core with a tile changed. -/
def Core.modTile (c : Core) (i : Nat) (f : Tile → Tile) : Core :=
  { c with tiles := c.tiles.set (i % 8) (f (c.tile i)) (Nat.mod_lt _ (by decide)) }
/-- A virtual device. -/
def State.vd (s : State) (tag : Nat) : Vd := lookupD Vd.reset tag s.vds
/-- The state with a virtual device changed. -/
def State.modVd (s : State) (tag : Nat) (f : Vd → Vd) : State := { s with vds := insertAt tag (f (s.vd tag)) s.vds }

/-- The next free value and the state that has drawn it (entry 6). -/
def State.free (s : State) : Word × State := (Config.freeValue s.freeCtr, { s with freeCtr := s.freeCtr + 1 })

/-- The next issue number and the state that has drawn it. -/
def State.nextSeq (s : State) : Nat × State := (s.seq, { s with seq := s.seq + 1 })

/-- A note of something the step will charge for or count. -/
def State.note (s : State) (o : Occur) : State := { s with occurs := o :: s.occurs }

/-! ## Geometry (00, R43, R61, R109, R371) -/

/-- An address as the PC holds it: a multiple of 4 (R142). -/
def wordAlign (v : Word) : Word := v &&& ~~~3
/-- x and y of a worker core. -/
def coreX (n : Nat) : Nat := n % 256
/-- y of a worker core. -/
def coreY (n : Nat) : Nat := n / 256
/-- A core number from its coordinates. -/
def coreAt (x y : Nat) : Nat := y * 256 + x
/-- The cluster of a worker or keeper core. -/
def clusterOf (n : Nat) : Nat := if n < Config.workers then coreY n / 8 * 32 + coreX n / 8 else n - Config.workers
/-- Whether a core is a keeper core. -/
def isKeeper (n : Nat) : Bool := decide (Config.workers ≤ n)
/-- The stack of a cluster: {y[6], x[7]} of its cores. -/
def stackOfCluster (c : Nat) : Nat := c / 32 / 8 * 2 + c % 32 / 16
/-- The stack of a core. -/
def stackOf (n : Nat) : Nat := stackOfCluster (clusterOf n)
/-- A core's index in its cluster (R362). -/
def indexInCluster (n : Nat) : Nat := 8 * (coreY n % 8) + coreX n % 8
/-- The worker cores of a cluster. -/
def coresOfCluster (c : Nat) : List Nat :=
  (List.range 64).map fun i => coreAt (c % 32 * 8 + i % 8) (c / 32 * 8 + i / 8)
/-- The corner core of a stack (R62). -/
def stackCorner (t : Nat) : Nat := coreAt (128 * (t % 2)) (64 * (t / 2))

/-- The smallest scope containing two cores of the package (R109). -/
def smallestScope (a b : Nat) : Scope :=
  if a = b then .core
  else if clusterOf a = clusterOf b then .clus
  else if stackOf a = stackOf b then .stack
  else .dev

/-- Scopes in rising order (R108). -/
def scopeRank : Scope → Nat
  | .core => 0 | .clus => 1 | .stack => 2 | .dev => 3 | .sys => 4
/-- The wider of two scopes. -/
def widest (a b : Scope) : Scope := if scopeRank a < scopeRank b then b else a
/-- The scope a code names; reserved codes never reach here (R108). -/
def scopeOf (c : BitVec 3) : Scope :=
  match c.toNat with
  | 0 => .core | 1 => .clus | 2 => .stack | 3 => .dev | _ => .sys

/-- Width and height in clusters of a level's nodes (R371). -/
def nodeSize (level : Nat) : Nat × Nat :=
  [(32, 16), (16, 16), (16, 8), (8, 8), (8, 4), (4, 4), (4, 2), (2, 2), (2, 1), (1, 1)].getD level (1, 1)
/-- The level of a node word (R372). -/
def nodeLevel (node : Word) : Nat := bits node 12 9
/-- The corner cluster of a node word (R372). -/
def nodeCorner (node : Word) : Nat := bits node 8 0
/-- Whether a node word names a node of the tree (R372). -/
def nodeOk (node : Word) : Bool :=
  decide (nodeLevel node ≤ 9) && nodeCorner node % 32 % (nodeSize (nodeLevel node)).1 == 0 &&
    nodeCorner node / 32 % (nodeSize (nodeLevel node)).2 == 0
/-- Whether a node holds a cluster (R371). -/
def nodeHas (node : Word) (c : Nat) : Bool :=
  let (w, h) := nodeSize (nodeLevel node)
  let k := nodeCorner node
  decide (k % 32 ≤ c % 32) && decide (c % 32 < k % 32 + w) && decide (k / 32 ≤ c / 32) && decide (c / 32 < k / 32 + h)
/-- The clusters of a node in increasing number (R344, R371). -/
def nodeClusters (node : Word) : List Nat :=
  let (w, h) := nodeSize (nodeLevel node)
  let k := nodeCorner node
  (List.range (w * h)).map fun i => (k / 32 + i / w) * 32 + k % 32 + i % w

/-- The pound that holds a cluster. -/
def State.poundOf (s : State) (c : Nat) : Option Pound := s.pounds.find? fun p => nodeHas p.record.node c
/-- The pound of the acting core. -/
def State.myPound (s : State) : Option Pound := s.poundOf (clusterOf s.cur.1)
/-- Tag of the device resident on a cluster; 0 when none (R190). -/
def State.tagOfCluster (s : State) (c : Nat) : BitVec 16 := ((s.poundOf c).bind (·.resident)).getD 0
/-- Tag of the device a core runs for. -/
def State.tagOf (s : State) (n : Nat) : BitVec 16 := s.tagOfCluster (clusterOf n)
/-- Whether a worker core lies in the pound of core `core` (R44). -/
def State.inPoundOf (s : State) (core n : Nat) : Bool :=
  (s.poundOf (clusterOf core)).any fun p => decide (n < Config.workers) && nodeHas p.record.node (clusterOf n)
/-- Whether a worker core lies in the acting core's pound (R44). -/
def State.inPound (s : State) (n : Nat) : Bool := s.inPoundOf s.cur.1 n
/-- Whether a cluster lies in the pound of core `core` (R44). -/
def State.clusterInPound (s : State) (core c : Nat) : Bool :=
  (s.poundOf (clusterOf core)).any fun p => decide (c < Config.clusters) && nodeHas p.record.node c
/-- The pound one of whose devices has a tag (R374). -/
def State.poundOfTag (s : State) (tag : Nat) : Option Pound :=
  if tag = 0 then none else s.pounds.find? fun p => p.record.vdTags.any (·.toNat == tag)
/-- The pound at a node. -/
def State.poundAt (s : State) (node : Nat) : Option Pound := s.pounds.find? fun p => p.record.node.toNat == node % 2 ^ 13
/-- The state with the pound at a node changed. -/
def State.modPound (s : State) (node : Nat) (f : Pound → Pound) : State :=
  { s with pounds := s.pounds.map fun p => if p.record.node.toNat = node then f p else p }
/-- Index of a device's tag among its pound's VDTAGs (R368). -/
def Pound.vdIndex (p : Pound) (tag : BitVec 16) : Nat := p.record.vdTags.findIdx (· == tag)

/-! ## Memory -/

/-- What an address that nothing has written reads as (entry 3). -/
def unwritten : Byte := 0

/-- One byte of a memory. -/
def readByte (m : Memory) (a : Nat) : Byte :=
  match m with
  | [] => unwritten
  | (b, v) :: rest => if b = a then v else readByte rest a

/-- A memory with one byte written, in canonical form: no entry of its address stays beside the new one. -/
def writeByte (m : Memory) (a : Nat) (v : Byte) : Memory :=
  match m with
  | [] => if v = unwritten then [] else [(a, v)]
  | (b, u) :: rest =>
    if a < b then
      let kept := (b, u) :: rest.filter (·.1 != a)
      if v = unwritten then kept else (a, v) :: kept
    else if a = b then writeByte rest a v
    else (b, u) :: writeByte rest a v

/-- The canonical form: addresses strictly rising, no entry equal to what an unlisted address reads as. -/
def Memory.wf : Memory → Bool
  | [] => true
  | [(_, v)] => v != unwritten
  | (a, v) :: (b, u) :: rest => v != unwritten && decide (a < b) && Memory.wf ((b, u) :: rest)

/-- `n` bytes from an address up, as a number (R2). -/
def readMem (m : Memory) (a : Nat) : Nat → Nat
  | 0 => 0
  | n + 1 => (readByte m a).toNat + 256 * readMem m (a + 1) n

/-- A memory with a run of bytes written from an address up. -/
def writeMem (m : Memory) (a : Nat) : List Byte → Memory
  | [] => m
  | b :: bs => writeMem (writeByte m a b) (a + 1) bs

/-- `n` bytes from an address up. -/
def readBytes (m : Memory) (a n : Nat) : List Byte := (List.range n).map fun i => readByte m (a + i)

/-- A memory with the addresses from `lo` to below `hi` reading as unwritten. -/
def clearMem (m : Memory) (lo hi : Nat) : Memory := m.filter fun c => !(decide (lo ≤ c.1) && decide (c.1 < hi))

/-- The bytes of a 16-byte datum that a mask selects, written at an address. -/
def writeMasked (m : Memory) (a : Nat) (mask : BitVec 16) (data : Nat) : Nat → Memory
  | 0 => m
  | n + 1 =>
    let m' := writeMasked m a mask data n
    if mask.getLsbD n then writeByte m' (a + n) (BitVec.ofNat 8 (data / 256 ^ n)) else m'

/-- Whether two byte runs overlap. -/
def overlaps (a n b m : Nat) : Bool := decide (a < b + m) && decide (b < a + n)

/-- The bytes of a run at `va` that a masked datum at `at_` gives, as a mask and a datum over the run. -/
def cut16 (va at_ : Nat) (mask : BitVec 16) (data : BitVec 128) : BitVec 16 × BitVec 128 :=
  if at_ ≤ va then (mask >>> (va - at_), data >>> (8 * (va - at_))) else (mask <<< (at_ - va), data <<< (8 * (at_ - va)))

/-- A mask of bytes as a mask of bits. -/
def byteMask (m : BitVec 16) : BitVec 128 :=
  BitVec.ofNat 128 ((List.range 16).foldl (fun a i => a + num (m.getLsbD i) * 255 * 256 ^ i) 0)

/-- The mask of the first `n` bytes. -/
def firstBytes (n : Nat) : BitVec 16 := BitVec.ofNat 16 (2 ^ n - 1)

/-- One run of bytes laid over another. -/
def layOver (a b : BitVec 16 × BitVec 128) : BitVec 16 × BitVec 128 :=
  let m := byteMask b.1
  (a.1 ||| b.1, (a.2 &&& ~~~m) ||| (b.2 &&& m))

/-- The value of a run of bytes with merged bytes laid over it. -/
def merge (n : Nat) (under : Nat) (mask : BitVec 16) (data : BitVec 128) : Nat :=
  ((layOver (firstBytes n, BitVec.ofNat 128 under) (mask, data)).2.toNat) % 256 ^ n

/-- Where the bytes of a local store lie in `State.mem`: under their global window address (R43). -/
def lsKey (core off : Nat) : Nat := Config.lsWindow + core * Config.lsSize + off
/-- Where the bytes of a cluster store lie in `State.mem`: under their window address (R43). -/
def csKey (cluster bank off : Nat) : Nat := Config.csWindow + cluster * 2 ^ 20 + bank * 2 ^ 16 + off
/-- Where the bytes of a weight slice lie in `State.weights` (R47). -/
def wsKey (core off : Nat) : Nat := core * Config.sliceSize + off

/-! ## Registers (R24, R154 to R156) -/

/-- An x register; x0 reads zero (R154). -/
def Ctx.readX (c : Ctx) (i : BitVec 5) : Word := if i = 0 then 0 else c.x[i.toNat]'(i.isLt)
/-- A write to an x register; x0 discards it (R154). -/
def Ctx.writeX (c : Ctx) (i : BitVec 5) (v : Word) : Ctx :=
  if i = 0 then c else { c with x := c.x.set i.toNat v i.isLt }
/-- A v register (R243). -/
def Ctx.readV (c : Ctx) (i : BitVec 4) : Vec := c.v[i.toNat]'(i.isLt)
/-- A write to a v register. -/
def Ctx.writeV (c : Ctx) (i : BitVec 4) (v : Vec) : Ctx := { c with v := c.v.set i.toNat v i.isLt }
/-- An m register (R24). -/
def Ctx.readM (c : Ctx) (i : Nat) : Word := c.m[i % 16]'(Nat.mod_lt _ (by decide))
/-- A view register (R71). -/
def Ctx.readW (c : Ctx) (i : BitVec 3) : View := c.w[i.toNat]'(i.isLt)
/-- A write to a view register. -/
def Ctx.writeW (c : Ctx) (i : BitVec 3) (v : View) : Ctx := { c with w := c.w.set i.toNat v i.isLt }
/-- A stream register (R237). -/
def Ctx.readQ (c : Ctx) (i : BitVec 2) : Stream := c.q[i.toNat]'(i.isLt)
/-- A write to a stream register. -/
def Ctx.writeQ (c : Ctx) (i : BitVec 2) (v : Stream) : Ctx := { c with q := c.q.set i.toNat v i.isLt }
/-- Whether a view is LIVE (R72). -/
def View.live (v : View) : Bool := v.status == 0

/-- A register a word reads or writes. -/
inductive RegName where
  | x (i : BitVec 5)
  | v (i : BitVec 4)
  | m (i : Nat)
  | w (i : BitVec 3)
  deriving DecidableEq, Repr

/-- Whether a register is full; x0 and every m register always are (R154). -/
def Ctx.full (c : Ctx) : RegName → Bool
  | .x i => i == 0 || c.xfull.getLsbD i.toNat
  | .v i => c.vfull.getLsbD i.toNat
  | .m _ => true
  | .w i => c.wfull.getLsbD i.toNat

/-- A register marked empty or full (R156); x0 stays full. -/
def Ctx.mark (c : Ctx) (r : RegName) (full : Bool) : Ctx :=
  match r with
  | .x i => if i = 0 then c else
      { c with xfull := if full then c.xfull ||| (1 <<< i.toNat) else c.xfull &&& ~~~((1 : BitVec 32) <<< i.toNat) }
  | .v i => { c with vfull := if full then c.vfull ||| (1 <<< i.toNat) else c.vfull &&& ~~~((1 : BitVec 16) <<< i.toNat) }
  | .m _ => c
  | .w i => { c with wfull := if full then c.wfull ||| (1 <<< i.toNat) else c.wfull &&& ~~~((1 : BitVec 8) <<< i.toNat) }

/-- The registers of a producer's destination. -/
def Dest.regs : Dest → List RegName
  | .none => []
  | .x i => [.x i]
  | .xx i j => [.x i, .x j]
  | .v i => [.v i]
  | .w i => [.w i]
  | .ww i j => [.w i, .w j]

/-- A producer's destination marked empty or full. -/
def Ctx.markDest (c : Ctx) (d : Dest) (full : Bool) : Ctx := d.regs.foldl (fun c r => c.mark r full) c

/-! ## Taking a fault (R40, R360, R361) -/

/-- The cause codes of R361. -/
def Cause.code : Cause → Nat
  | .illegal => 0x01 | .emptyRead => 0x02 | .align => 0x03 | .page => 0x04 | .priv => 0x05 | .viewBounds => 0x06
  | .viewRights => 0x07 | .viewWiden => 0x08 | .viewClass => 0x09 | .windowBounds => 0x0A | .bankMode => 0x0B
  | .outboxOverflow => 0x0C | .gangTimeout => 0x0D | .watchdog => 0x0E | .rnsOverflow => 0x0F | .residueMismatch => 0x10
  | .cbAudit => 0x11 | .budget => 0x12 | .poison => 0x13 | .pairMismatch => 0x14 | .contextLost => 0x15 | .trap => 0x16
  | .bkpt => 0x17 | .residueCorrected => 0x20

/-- A cause with no detail and no address. -/
def plain (c : Cause) : FaultInfo := ⟨c, 0, 0⟩
/-- A cause with the address concerned. -/
def atAddr (c : Cause) (va : Word) : FaultInfo := ⟨c, 0, va⟩

/-- Word 0 of a packet (R360); `ctx` is 15 when no context is named. -/
def packetHead (core ctx : Nat) (f : FaultInfo) : Word :=
  BitVec.ofNat 64 (Config.chip.toNat * 2 ^ 56 + core % 2 ^ 15 * 2 ^ 41 + ctx % 16 * 2 ^ 37 + f.cause.code * 2 ^ 31 + f.detail.toNat)

/-- The four words of a packet (R360). -/
def packetWords (core ctx : Nat) (f : FaultInfo) (pc : Word) (domain : BitVec 32) (low : BitVec 32) : List Word :=
  [packetHead core ctx f, pc, domain ++ low, f.word3]

/-- The counter of a tenant that a packet's cause adds to (R397). -/
def causeCounter (code : Nat) : Option Nat :=
  match code with
  | 0x20 => some 6 | 0x10 => some 7 | 0x14 => some 9 | 0x15 => some 10 | 0x11 => some 11 | 0x13 => some 12 | _ => none

/-- One more in a counter of an error-counter block (R397): block 0 is the wharf's, a tag its virtual device's, and
2^16 plus a node word that node's pound's. -/
def State.countError (s : State) (block i : Nat) : State :=
  let b := lookupD (Vector.replicate 16 0) block s.errors
  let n : BitVec 32 := b.getD i 0
  { s with errors := insertAt block (b.setIfInBounds i (if n = BitVec.allOnes 32 then n else n + 1)) s.errors }

/-- The block of what strikes a core with no body to charge (R398): its resident device's, else its pound's, else the
wharf's. -/
def State.blockOf (s : State) (core : Nat) : Nat :=
  match s.poundOf (clusterOf core) with
  | none => 0
  | some p => (p.resident.map (·.toNat)).getD (2 ^ 16 + p.record.node.toNat)

/-- Whether the cores of a cluster may run contexts: a keeper always, a worker while its pound has a resident device and is
not in ERROR (R378, R389). -/
def State.poundUp (s : State) (core : Nat) : Bool :=
  isKeeper core || (s.poundOf (clusterOf core)).any fun p => p.resident.isSome && p.trust != .error

/-- A packet or event report put on its way to the keeper of a core's cluster (R359), and counted for its tenant (R397). -/
def State.packet (s : State) (core : Nat) (ws : List Word) : State :=
  let s := match causeCounter (bits (ws.headD 0) 36 31) with
    | none => s
    | some i => s.countError (s.blockOf core) i
  s.modCore core fun c => { c with packets := c.packets ++ [(ws, [])] }

/-- A packet of a context: a release at cluster scope of its earlier accesses but those of the side log (R117). -/
def State.packetOf (s : State) (core k : Nat) (ws : List Word) : State :=
  let s := match causeCounter (bits (ws.headD 0) 36 31) with
    | none => s
    | some i => s.countError (s.blockOf core) i
  { s.modCore core (fun c => { c with packets := c.packets ++ [(ws, [⟨core, k, s.seq⟩])] }) with seq := s.seq + 1 }

/-- The address a precise fault of a context is reported at: its group's first HINT, or its word (R162, R360). -/
def Ctx.faultPc (c : Ctx) : Word := (c.group.map (·.start)).getD c.pc
/-- The word a precise fault carries: the group's first HINT, or the word as fetched (R176, R360). -/
def Ctx.faultWord (c : Ctx) : Word32 := (c.group.map (·.first)).getD c.ir

/-- Whether a producer stands for bytes its own word waits for before it acts (R238): the word starts over when it is
stopped. -/
def Pend.isRead (p : Pend) : Bool := p.dest == .none && p.finish == .whole && p.pieces.any (·.len != 0)

/-- A context stopped by a precise fault: FROZEN at the word or its group's first HINT, with every register, view and
stream as it was (R40 steps 1 and 2). -/
def Ctx.freeze (c : Ctx) : Ctx :=
  { c with
    state := .frozen
    pc := c.faultPc
    group := none
    fpc := 0
    stall := none
    stepping := false
    arrival := none
    slot := []
    pends := c.pends.filter fun p => !p.isRead }

/-- TAKING A FAULT (R40): the acting context freezes at the word, its destinations untouched, and one packet goes to the
keeper. Every precise fault of every word takes this path; the return from it is `resumeCtx` of Keeper.lean (R363). -/
def State.raise (s : State) (f : FaultInfo) : State :=
  let c := s.ctx
  (s.packetOf s.cur.1 s.cur.2 (packetWords s.cur.1 s.cur.2 f c.faultPc c.region.domain c.faultWord)).modCtx Ctx.freeze

/-- A fault reported at the next issue (R40, R202, R278, R353): FROZEN with the PC at the next word, FPC naming the
culprit, and no word of the context in the packet but the culprit's kind. -/
def State.raiseDeferred (s : State) (core k : Nat) (d : Deferred) : State :=
  let c := (s.core core).ctx k
  (s.packetOf core k (packetWords core k d.info c.faultPc c.region.domain c.ir)).modCtxOf core k
    fun c => { c.freeze with fpc := d.fpc, deferred := c.deferred.drop 1 }

/-! ## Issuing a word (R142, R155, R157 to R162) -/

/-- What comes of a word once its operands are there. -/
inductive Did where
  /-- It retires; the PC moves past it. -/
  | done (s : State)
  /-- It retires; the PC goes to an address. -/
  | jump (s : State) (pc : Word)
  /-- It waits in RUNNING and issues again. -/
  | stay (s : State)
  /-- Its context waits in WAITING. -/
  | wait (s : State)
  /-- Its context waits in XSTALL (R26, R200). -/
  | stall (s : State)
  /-- It raises a precise fault; `s` holds only what the rule lets stand. -/
  | fault (s : State) (f : FaultInfo)
  /-- It ends its body; the context's state is already set (R193). -/
  | ended (s : State)

/-- What a word accepts and needs before its own effect: whether it is privileged, which HINT parts suit it (R157,
R159), whether it waits for a running repetition (R242), the registers it reads with their e bits, the registers it
writes, and its energy class (R399). -/
structure WordRule where
  priv  : Bool := false
  imm   : Bool := false
  rm    : Bool := false
  scope : Bool := false
  cpol  : Bool := false
  noHint : Bool := false
  rep   : Bool := false
  srcs  : List (RegName × Bool) := []
  dests : List RegName := []
  cls   : Nat := 0

/-- Whether a group suits its target (R157, R159, R161). -/
def groupSuits (r : WordRule) (g : Group) : Bool :=
  !r.noHint && (r.imm || g.imm.isNone) &&
    match g.mod with
    | none => true
    | some m => (r.rm || !m.re) && (r.scope || !m.se) && (r.cpol || (m.cpol == 0#2 && !m.na))

/-- Number and class code of a register for EMPTY_READ (R361). -/
def RegName.detail : RegName → BitVec 24
  | .x i => BitVec.ofNat 24 i.toNat
  | .v i => BitVec.ofNat 24 (i.toNat + 2 ^ 5)
  | .m _ => 0
  | .w i => BitVec.ofNat 24 (i.toNat + 2 * 2 ^ 5)

/-- The context after a word has issued: the group is over and a HINT.SCHED count has one less to go (R160, R198). -/
def Ctx.retire (c : Ctx) (pc : Word) : Ctx :=
  { c with
    pc := pc
    group := none
    prio := if c.prioLeft.toNat ≤ 1 then 0 else c.prio
    ir := 0
    prioLeft := c.prioLeft - (if c.prioLeft = 0 then 0 else 1) }

/-- A word retires: its context goes on at `pc`, and the issue is noted for the counters (R190, R399). -/
def State.retire (s : State) (cls : Nat) (pc : Word) : State :=
  (s.modCtx (·.retire pc)).note (.issued s.cur.1 s.cur.2 cls false)

/-- The outcome of what came of a word. -/
def Did.outcome (cls : Nat) : Did → Out
  | .done s => .next (s.retire cls (s.ctx.pc + 4))
  | .jump s pc => .next (s.retire cls pc)
  | .stay s => .next s
  | .wait s => .next (s.modCtx fun c => { c with state := .waiting })
  | .stall s => .next (s.modCtx fun c => { c with state := .xstall })
  | .fault s f => .next (s.raise f)
  | .ended s => .next s

/-- Whether the operand test of R155 passes, else what it makes of the word. -/
def operandTest (r : WordRule) (s : State) : Option Did :=
  let c := s.ctx
  match r.srcs.find? fun p => p.2 && !c.full p.1 with
  | some p => some (.fault s ⟨.emptyRead, p.1.detail, 0⟩)
  | none =>
    if r.srcs.all (fun p => c.full p.1) && r.dests.all c.full then none else some (.wait s)

/-- Whether a word waits for the end of its context's repetition sequence (R242). -/
def repHolds (r : WordRule) (s : State) : Bool :=
  match s.ctx.rep with
  | none => false
  | some q => r.rep || r.dests.any fun d => match d with
      | .x i => q.xreads.getLsbD i.toNat
      | _ => false

/-- Issue of a decoded word by the acting context: a fault reported at this issue (R40), the group (R161), privilege
(R142 step 3), the limits of R242, operands (R155), and then the word's own effect. -/
def issue (r : WordRule) (body : State → Did) (s : State) : Out :=
  match s.ctx.deferred with
  | d :: _ => .next (s.raiseDeferred s.cur.1 s.cur.2 d)
  | [] =>
    if !(s.ctx.group.all (groupSuits r)) then .next (s.raise (plain .illegal))
    else if r.priv && !isKeeper s.cur.1 then .next (s.raise (plain .priv))
    else if repHolds r s then .next s
    else match operandTest r s with
      | some d => d.outcome r.cls
      | none => (body s).outcome r.cls

/-! ## Fields of the pending group -/

/-- An immediate joined with a HINT.IMM payload (R157): the payload above the field, and the joined width. -/
def Ctx.joinImm (c : Ctx) (w : Nat) (f : Nat) : Nat × Nat :=
  match c.group.bind (·.imm) with
  | none => (f, w)
  | some p => (p.toNat * 2 ^ w + f, w + 24)
/-- The immediate sign-extended from its top bit. -/
def Ctx.immS (c : Ctx) {w : Nat} (f : BitVec w) : Int := let (v, n) := c.joinImm w f.toNat; toSigned n v
/-- The immediate zero-extended. -/
def Ctx.immZ (c : Ctx) {w : Nat} (f : BitVec w) : Nat := (c.joinImm w f.toNat).1
/-- The rounding mode: FPCTL.RM, or the HINT.MOD override (R87, R158). -/
def Ctx.mode (c : Ctx) : BitVec 3 :=
  match c.group.bind (·.mod) with
  | some m => if m.re then m.rnd else c.fpctl.setWidth 3
  | none => c.fpctl.setWidth 3
/-- The scope: the word's own, or the HINT.MOD override (R159). -/
def Ctx.scopeOr (c : Ctx) (s : BitVec 3) : Scope :=
  match c.group.bind (·.mod) with
  | some m => if m.se then scopeOf m.scope else scopeOf s
  | none => scopeOf s
/-- The cache policy of HINT.MOD and whether a miss allocates (R158). -/
def Ctx.policy (c : Ctx) : BitVec 2 × Bool :=
  match c.group.bind (·.mod) with
  | some m => (m.cpol, !m.na)
  | none => (0, true)

/-- Flags raised in the acting context (R88), noted for the cluster's union, which the keeper's own flags do not enter (R89). -/
def State.raiseFlags (s : State) (f : BitVec 5) : State :=
  if f = 0 then s else
    let s := s.modCtx fun c => { c with fpflags := c.fpflags ||| f.setWidth 64 }
    if isKeeper s.cur.1 then s else s.modCluster (clusterOf s.cur.1) fun k => { k with fpRaised := k.fpRaised ||| f }

/-- Exception events of one result counted in the context's deltas (R92). -/
def Ctx.countEvents (c : Ctx) (fmt : Nat) (ev : BitVec 4) : Ctx :=
  if ev = 0 then c else
    { c with fpDelta := (List.range 4).foldl (fun (d : Vector Nat 16) v =>
        if ev.getLsbD v then d.set ((4 * fmt + v) % 16) (d[(4 * fmt + v) % 16]'(Nat.mod_lt _ (by decide)) + 1)
          (Nat.mod_lt _ (by decide)) else d) c.fpDelta }

/-- An event that happens only to units the part has (00, R24, R61). -/
def event (ok : Bool) (s : State) : Out := if ok then .next s else .fault .noSuchUnit

end Sys2Proof.Machine
end

