-- ==== Sys2Proof/Machine/Operands.lean ====
section
/-!
DEFINITION. The operand forms: register sources with their e bits and classes (R154, R155, R177), immediates under
HINT.IMM (R157), memory operands (R131, R203 to R205), view operands (R77), stream operands (R239), payload runs (R152)
and channel names (R8).
-/

namespace Sys2Proof.Machine

/-- The width a `sz` field selects (R143). -/
def szBits (sz : BitVec 2) : Nat :=
  match sz.toNat with
  | 0 => 64 | 1 => 32 | 2 => 16 | _ => 8

/-- The source an `ra` field names under a register class (R154). -/
def srcA (cls : BitVec 2) (ra : BitVec 5) : RegName := if cls = 1 then .m ra.toNat else .x ra
/-- The source an `rb` field names under a register class (R154). -/
def srcB (cls : BitVec 2) (rb : BitVec 5) : RegName := if cls = 2 then .m rb.toNat else .x rb
/-- The value of a scalar source. -/
def Ctx.src (c : Ctx) : RegName → Word
  | .x i => c.readX i
  | .m i => c.readM i
  | _ => 0

/-- The rule of a two-source word with a register class. -/
def alu2Rule (o : Alu2) : WordRule := { srcs := [(srcA o.cls o.ra, o.ea), (srcB o.cls o.rb, o.eb)], dests := [.x o.rd] }
/-- The rule of a one-source word with a register class. -/
def alu1Rule (o : Alu1) : WordRule := { srcs := [(srcA o.cls o.ra, o.ea)], dests := [.x o.rd] }
/-- The rule of an immediate word (R144, R157). -/
def immIRule (o : ImmI) : WordRule := { imm := true, srcs := [(.x o.ra, o.ea)], dests := [.x o.rd] }
/-- The rule of a scalar floating word with two sources (R159, R166). -/
def fp2Rule (o : Fp2) : WordRule := { rm := true, srcs := [(.x o.ra, o.ea), (.x o.rb, o.eb)], dests := [.x o.rd] }
/-- The rule of a scalar floating word with one source. -/
def fp1Rule (rd ra : BitVec 5) (ea : Bool) : WordRule := { rm := true, srcs := [(.x ra, ea)], dests := [.x rd] }
/-- The rule of an R-format word with two sources (R143). -/
def reg2Rule (o : Reg2) : WordRule := { srcs := [(.x o.ra, o.ea), (.x o.rb, o.eb)], dests := [.x o.rd] }
/-- The rule of an R-format word with one source (R143). -/
def reg1Rule (o : Reg1) : WordRule := { srcs := [(.x o.ra, o.ea)], dests := [.x o.rd] }

/-- A base register plus a signed, scaled and perhaps widened offset (R131, R157, R203). -/
def Ctx.memAddr (c : Ctx) (base : BitVec 5) {w : Nat} (off : BitVec w) (scale : Nat) : Word :=
  c.readX base + BitVec.ofInt 64 (c.immS off * scale)

/-- Bytes a mode of LD or ST moves (R131, R203). -/
def modeBytes (mode : BitVec 3) : Nat := 2 ^ (mode.toNat % 4)
/-- Bytes the size field of LDS and STS moves (R204). -/
def sizeBytes (size : BitVec 2) : Nat := 2 ^ size.toNat

/-- The rights an access through a view needs (R71, R77). -/
inductive Right where
  | r | w | a
  deriving DecidableEq, Repr

/-- Whether a view grants a right. -/
def View.grants (v : View) : Right → Bool
  | .r => v.canR
  | .w => v.canW
  | .a => v.canA

/-- The check of a view operand for `n` bytes at offset `off`, aligned to `al` (R77): the address, or the fault. -/
def viewCheck (v : View) (need : Right) (off : Word) (n al : Nat) : Except FaultInfo Word :=
  let va := v.base + off
  if !v.live || !v.grants need then .error (atAddr .viewRights va)
  else if off.toNat < v.lo.toNat || v.hi.toNat < off.toNat + n then .error (atAddr .viewBounds va)
  else if off.toNat % al ≠ 0 then .error (atAddr .align va)
  else .ok va

/-- The address an affine stream stands at (R238). -/
def affAddr (base : Word) (str : Vector (BitVec 32) 4) (idx : Vector (BitVec 16) 4) : Word :=
  BitVec.ofInt 64 ((List.range 4).foldl (fun (a : Int) k =>
    a + (idx.getD k 0).toNat * (str.getD k 0).toInt) base.toNat)

/-- An extent; 0 acts as 1 (R238). -/
def extent (ext : Vector (BitVec 16) 4) (k : Nat) : Nat := max 1 (ext.getD k 0).toNat

/-- How many steps an affine stream takes from indices zero to the ones given, and in a full round. -/
def affPlace (ext idx : Vector (BitVec 16) 4) : Nat × Nat :=
  (List.range 4).foldr (fun k (a : Nat × Nat) =>
    ((idx.getD k 0).toNat + extent ext k * a.1, extent ext k * a.2)) (0, 1)

/-- The indices of an affine stream `p` steps from zero. -/
def affAt (ext : Vector (BitVec 16) 4) (p : Nat) : Vector (BitVec 16) 4 :=
  let e := extent ext
  #v[BitVec.ofNat 16 (p % e 0), BitVec.ofNat 16 (p / e 0 % e 1), BitVec.ofNat 16 (p / e 0 / e 1 % e 2),
    BitVec.ofNat 16 (p / e 0 / e 1 / e 2 % e 3)]

/-- The 16-bit entry of a skip list at a local-store offset. -/
def skipEntry (s : State) (core at_ : Nat) : Nat := readMem s.mem (lsKey core at_) 2

/-- The first kept step at or after the entry at offset `at_`, whose run starts at K-step `k` (R238): the entry's offset,
the K-step and the steps left in its run after it; the K-step at the list's end when there is none; or none when an
entry at or above SYSBASE must be read. -/
def skipSeek (s : State) (core : Nat) (at_ k : Nat) : Nat → Option (Nat × Nat × Option Nat)
  | 0 => none
  | fuel + 1 =>
    if (s.core core).sysbase < at_ + 2 then none
    else
      let e := skipEntry s core at_
      let len := e % 2 ^ 15
      if len = 0 then some (at_, k, none)
      else if 2 ^ 15 ≤ e then some (at_, k, some (len - 1))
      else skipSeek s core (at_ + 2) (k + len) fuel

/-- `n` Steps along a skip list from the entry at offset `a` with `left` steps left in its run and current value `v`:
the entry, the steps left, the value and whether the list ended (R238). -/
def skipSteps (s : State) (core : Nat) (a left v n : Nat) : Nat → Option (Nat × Nat × Nat × Bool)
  | 0 => none
  | fuel + 1 =>
    if n ≤ left then some (a, left - n, v + n, false)
    else match skipSeek s core (a + 2) (v + left + 1) 0x4001 with
      | none => none
      | some (_, _, none) => some (a, 0, v + left, true)
      | some (a', v', some lf) => skipSteps s core a' lf v' (n - left - 1) fuel

/-- A number of Steps of a stream (R238, R239): the stream after them, or none when one of them reads a list entry
outside the program area. -/
def streamSteps (s : State) (core n : Nat) (q : Stream) : Option Stream :=
  match q with
  | .off => some .off
  | .aff b e st i c d =>
    let (p, round) := affPlace e i
    some (.aff b e st (affAt e ((p + n) % round)) (c + n) (d || decide (round ≤ p + n)))
  | .skip l k0 a left v c d =>
    if d then some (.skip l k0 a left v (c + n) d)
    else match skipSteps s core (l + a) left v n 0x4001 with
      | none => none
      | some (a', lf, v', done) => some (.skip l k0 (a' - l) lf v' (c + n) done)

/-- Registers of a payload run (R152, R220). -/
def payloadRegs (mp : Bool) (rb : BitVec 5) (k : Nat) : List RegName :=
  (List.range k).map fun i => if mp then .m (rb.toNat + i) else .x (BitVec.ofNat 5 (rb.toNat + i))

/-- Fields of a channel name (R8): package, core, slot, generation, tag. -/
def nameChip (n : Word) : Nat := bits n 63 56
def nameCore (n : Word) : Nat := bits n 55 41
def nameSlot (n : Word) : Nat := bits n 40 35
def nameGen (n : Word) : Nat := bits n 34 16
def nameTag (n : Word) : Nat := bits n 15 0

/-- A channel name from its fields (R8). -/
def mkName (chip core slot gen tag : Nat) : Word :=
  BitVec.ofNat 64 (chip % 2 ^ 8 * 2 ^ 56 + core % 2 ^ 15 * 2 ^ 41 + slot % 2 ^ 6 * 2 ^ 35 + gen % 2 ^ 19 * 2 ^ 16 + tag % 2 ^ 16)

end Sys2Proof.Machine
end

