-- ==== Sys2Proof/Machine/Translate.lean ====
section
/-!
DEFINITION. Device registers; DRAM under its key slots (R67, R384); home slices (R61); leaves, the walk and the pending
misses (R343 to R350).
-/

namespace Sys2Proof.Machine

/-! ## Device registers (R4) -/

/-- What a device register holds after package reset, for those `State.devRegs` keeps. -/
def devReset : DevReg → Word
  | .chgw _ n => BitVec.ofNat 64 (Config.chargeWeights.getD n 0)
  | .estk _ => 0xBA284000F4240
  | .poundSch _ => BitVec.ofNat 64 (4096 * 2 ^ 32)
  | _ => 0

/-- The value of a device register that `State.devRegs` keeps. -/
def State.devReg (s : State) (r : DevReg) : Word := lookupKey (devReset r) r s.devRegs
/-- A device register set. -/
def State.setDevReg (s : State) (r : DevReg) (v : Word) : State := { s with devRegs := insertKey r v s.devRegs }

/-! ## DRAM lines, stacks, slices and keys -/

/-- The line of an address. -/
def lineOf (a : Nat) : Nat := a / 128 * 128
/-- The stack of a physical address (R61). -/
def paStack (pa : Nat) : Nat := pa / 2 ^ 36 % 4
/-- The home slice of a physical address in its stack (R61). -/
def paSlice (pa : Nat) : Nat :=
  (List.range 7).foldl (fun a k => a ^^^ (pa / 2 ^ (7 + 4 * k) % 16)) (pa / 2 ^ 35 % 2)
/-- The set of a physical address in its slice (R61). -/
def paSet (pa : Nat) : Nat := pa / 2 ^ 11 % 4096

/-- A key slot's present key, named by its slot and how often the slot has been drawn anew (R384). -/
def State.keyNow (s : State) (stack slot : Nat) : Nat := slot + 64 * lookupKey 0 (stack, slot) s.keyGens

/-- A line's 128 bytes as they decrypt under a key slot (R67, R384). -/
def State.lineUnder (s : State) (line slot : Nat) : Nat :=
  let raw := readMem s.mem line 128
  let k := s.keyNow (paStack line) slot
  match s.lineKeys.find? (·.1 == line) with
  | none => raw
  | some (_, j) => if j = k then raw else (Config.rekeyed j k line (BitVec.ofNat 1024 raw)).toNat

/-- `n` bytes of DRAM as they decrypt under a key slot. -/
def State.readDram (s : State) (pa n slot : Nat) : Nat :=
  let l := lineOf pa
  let lo := s.lineUnder l slot / 256 ^ (pa - l)
  if pa + n ≤ l + 128 then lo % 256 ^ n
  else (lo + s.lineUnder (l + 128) slot * 256 ^ (l + 128 - pa)) % 256 ^ n

/-- A line held under a key slot from now on: its other bytes keep what they decrypt to. -/
def State.rekey (s : State) (line slot : Nat) : State :=
  let k := s.keyNow (paStack line) slot
  match s.lineKeys.find? (·.1 == line) with
  | some (_, j) =>
    if j = k then s
    else { s with mem := writeMem s.mem line (toBytes 128 (s.lineUnder line slot)), lineKeys := insertAt line k s.lineKeys }
  | none => { s with lineKeys := insertAt line k s.lineKeys }

/-- DRAM with the masked bytes written under a key slot. -/
def State.writeDram (s : State) (pa slot : Nat) (mask : BitVec 16) (data : Nat) : State :=
  let s := s.rekey (lineOf pa) slot
  let s := if lineOf (pa + 15) = lineOf pa then s else s.rekey (lineOf (pa + 15)) slot
  { s with mem := writeMasked s.mem pa mask data 16 }

/-- Whether a line is marked uncorrectable (R202, R391). -/
def State.linePoisoned (s : State) (pa : Nat) : Bool := s.poisoned.contains (lineOf pa)


/-! ## Leaves (R347, R348, R65) -/

def leafV (l : Word) : Bool := l.getLsbD 63
def leafTgt (l : Word) : BitVec 2 := l.extractLsb' 61 2
def leafChip (l : Word) : Nat := bits l 60 53
def leafFmt (l : Word) : Nat := bits l 52 49
def leafGeo (l : Word) : Nat := bits l 48 47
def leafCR (l : Word) : Bool := l.getLsbD 46
def leafR (l : Word) : Bool := l.getLsbD 45
def leafW (l : Word) : Bool := l.getLsbD 44
def leafX (l : Word) : Bool := l.getLsbD 43
def leafAT (l : Word) : Bool := l.getLsbD 42
def leafCpol (l : Word) : BitVec 2 := l.extractLsb' 40 2
def leafKey (l : Word) : Nat := bits l 37 32
def leafFrame (l : Word) : Nat := bits l 31 0

/-- Whether a format code and its geometry suit (R65). -/
def fmtSuits (fmt geo : Nat) : Bool :=
  decide (fmt ≤ 8) && geo == (if fmt = 5 then 1 else if fmt = 6 then 2 else 0)

/-- Whether a target address is one a leaf may give (R348): local and peer frames lie in the populated DRAM. -/
def frameOk (tgt : BitVec 2) (target : Nat) : Bool :=
  if tgt.toNat ≤ 1 then decide (target < 2 ^ 38) && target / 2 ^ 34 % 4 != 3 else true

/-- Whether a pound's key masks hold a local leaf's key slot for its frame's stack (R384). -/
def State.keyOk (s : State) (tag : Nat) (l : Word) (target : Nat) : Bool :=
  leafTgt l != 0 ||
    match s.poundOfTag tag with
    | none => false
    | some p => (p.record.keyMasks.getD (paStack target) 0).getLsbD (leafKey l)

/-- Whether the route of a remote leaf is valid and of its kind (R330, R337). -/
def State.routeOk (s : State) (tag : Nat) (l : Word) : Bool :=
  leafTgt l == 0 ||
    let r := s.devReg (.rte tag (leafChip l))
    r.getLsbD 63 && bits r 62 61 + 1 == (leafTgt l).toNat && decide (bits r 59 55 < 24)

/-- Whether a leaf lets any access through (R348, R384, R330, R337). -/
def State.leafOk (s : State) (tag : Nat) (l : Word) (target : Nat) : Bool :=
  leafCpol l != 3#2 && frameOk (leafTgt l) target && s.keyOk tag l target &&
    s.routeOk tag l

/-! ## What a home slice reads (R355, R356) -/

/-- Whether a migration state is one in which the old home slices treat the page (R355, R356). -/
def MigState.active : MigState → Bool
  | .hold | .copy | .remap | .drain | .forward => true
  | _ => false

/-- The active migration entry that treats a physical address, its stack and number: one whose old frame holds it, or, while
leaves change and the hold empties, whose new frame does. -/
def State.migOf (s : State) (pa : Nat) : Option (Nat × Nat × Mig) :=
  (List.range 64).findSome? fun i =>
    let m := (s.stack (i / 16)).migEntry (i % 16)
    let old := m.state.active && leafTgt m.oldLeaf == 0 && leafFrame m.oldLeaf == pa / 2 ^ 16
    let new := (m.state == .remap || m.state == .drain) && leafTgt m.dst == 0 && leafFrame m.dst == pa / 2 ^ 16
    if old || new then some (i / 16, i % 16, m) else none

/-- The address of a page's byte in a migration's old frame. -/
def oldAddr (m : Mig) (pa : Nat) : Nat := leafFrame m.oldLeaf * 2 ^ 16 + pa % 2 ^ 16

/-- The address of a page's byte in a migration's new frame. -/
def newAddr (m : Mig) (pa : Nat) : Nat := leafFrame m.dst * 2 ^ 16 + pa % 2 ^ 16

/-- The bytes a held write leaves of a run (R356). -/
def heldOver (pa n : Nat) (under : Nat) (r : MemReq) : Nat :=
  match r.op with
  | .write mask data =>
    let at_ := pa % 2 ^ 16
    let by_ := r.pa % 2 ^ 16
    let (m, d) := cut16 at_ by_ mask data
    if overlaps at_ n by_ 16 then merge n under (m &&& firstBytes n) d else under
  | _ => under

/-- A byte that a frame at a peer holds: open (entry 16). -/
def State.peerByte (s : State) (pa : Nat) : Byte := (Config.freeValue (2 ^ 64 * (s.freeCtr + 1) + pa)).setWidth 8

/-- `n` bytes (16 at most) as a home slice reads them (R356): the old frame, or from DRAIN on the new one, merged with the
writes held. A new frame at a peer is not in this machine's memory: its bytes are open (entry 16). -/
def State.homeRead (s : State) (pa n key : Nat) : Nat :=
  match s.migOf pa with
  | none => s.readDram pa n key
  | some (_, _, m) =>
    let base :=
      if m.state == .drain || m.state == .forward || leafTgt m.oldLeaf != 0 then
        if leafTgt m.dst = 0 then s.readDram (newAddr m pa) n (leafKey m.dst) else ofBytes ((List.range n).map fun i => s.peerByte (pa + i))
      else s.readDram (oldAddr m pa) n (leafKey m.oldLeaf)
    m.held.foldl (heldOver pa n) base % 256 ^ n

/-- Any number of bytes as the home slices read them. -/
def State.homeReadN (s : State) (pa key : Nat) : Nat → Nat
  | 0 => 0
  | n + 1 => s.homeRead pa 1 key + 256 * s.homeReadN (pa + 1) key n

/-- DRAM the part itself reads with a physical address, as a strong load at the home slice gives it (R346, R349, R366): in a
migrating frame with the writes held, under the frame's key slot. -/
def State.readPhys (s : State) (pa n : Nat) : Nat :=
  match s.migOf pa with
  | none => readMem s.mem pa n
  | some (_, _, m) => s.homeReadN pa (leafKey m.oldLeaf) n

/-! ## The walk (R343 to R349) -/

/-- The hash of R344. -/
def pageHash (vpn tag : Nat) : Nat := (vpn ^^^ (tag * 2 ^ 48)) * 0x9E3779B97F4A7C15 % 2 ^ 64

/-- The keeper's cluster that holds a page's shard (R344). -/
def State.shardOf (s : State) (tag vpn : Nat) : Option Nat :=
  (s.poundOfTag tag).map fun p =>
    let cs := nodeClusters p.record.node
    cs.getD (pageHash vpn tag / 2 ^ 55 % 2 ^ 9 % cs.length) 0

/-- The lowest-numbered matching entry of a bucket (R346), from entry `i` on. -/
def bucketFind (s : State) (at_ : Nat) (tagWord : Nat) (i : Nat) : Nat → Option Word
  | 0 => none
  | n + 1 =>
    let leaf := BitVec.ofNat 64 (s.readPhys (at_ + 16 * i + 8) 8)
    if s.readPhys (at_ + 16 * i) 8 = tagWord && leafV leaf then some leaf else bucketFind s at_ tagWord (i + 1) n

/-- What a keeper's lookup unit answers for a page (R344 to R346). -/
def State.bucketLookup (s : State) (tag vpn : Nat) : Option Word :=
  (s.shardOf tag vpn).bind fun c =>
    let r := s.devReg (.ptShard c tag)
    let b := bits r 4 0
    if b < 4 || 20 < b then none
    else bucketFind s (bits r 37 12 * 2 ^ 12 + 128 * (pageHash vpn tag % 2 ^ b)) (vpn * 2 ^ 16 + tag) 0 8

/-- The last slot of a node whose BASE does not pass a VA (R349): its index, from slot `i` on. -/
def nodeSlot (s : State) (node va : Nat) (best : Option Nat) (i : Nat) : Nat → Option Nat
  | 0 => best
  | n + 1 =>
    if s.readPhys (node + 32 * (i + 1)) 8 ≤ va then nodeSlot s node va (some i) (i + 1) n
    else nodeSlot s node va best (i + 1) n

/-- The range B-tree's answer for a VA (R349): first and end address of the range, its offset and its leaf word. -/
def treeFind (s : State) (node va : Nat) : Nat → Option (Nat × Nat × Nat × Word)
  | 0 => none
  | fuel + 1 =>
    let head := s.readPhys node 8
    match nodeSlot s node va none 0 (min 7 (head % 16)) with
    | none => none
    | some i =>
      let at_ := node + 32 * (i + 1)
      let base := s.readPhys at_ 8
      let limit := s.readPhys (at_ + 8) 8
      if limit ≤ va then none
      else if head / 16 % 2 = 1 then
        let leaf := BitVec.ofNat 64 (s.readPhys (at_ + 24) 8)
        if leafV leaf then some (base, limit, s.readPhys (at_ + 16) 8, leaf) else none
      else treeFind s (s.readPhys (at_ + 16) 8) va fuel

/-- The range B-tree's answer through a cluster's RTROOT (R345, R349): at most eight nodes. -/
def State.treeLookup (s : State) (cluster tag va : Nat) : Option (Nat × Nat × Nat × Word) :=
  let root := bits (s.devReg (.rtRoot cluster tag)) 37 8 * 2 ^ 8
  if root = 0 then none else treeFind s root va 8

/-- The page entry of a hashed leaf (R343, R347). -/
def pageEntry (tag : BitVec 16) (va : Nat) (leaf : Word) : TlbEntry :=
  let first := va / 2 ^ 16 * 2 ^ 16
  ⟨tag, first, first + 2 ^ 16, (leafFrame leaf * 2 ^ 16 + 2 ^ 64 - first) % 2 ^ 64, leaf⟩

/-- The whole walk of a page (R343): the entry for the cluster TLB, or none. -/
def State.walk (s : State) (cluster : Nat) (tag : BitVec 16) (va : Nat) : Option TlbEntry :=
  match s.bucketLookup tag.toNat (va / 2 ^ 16) with
  | some leaf => some (pageEntry tag va leaf)
  | none => (s.treeLookup cluster tag.toNat va).map fun (b, l, o, leaf) => ⟨tag, b, l, o, leaf⟩

/-- The 64 KiB page entry a core's TLB takes from any entry (R343). -/
def pageOf (e : TlbEntry) (va : Nat) : TlbEntry :=
  let first := va / 2 ^ 16 * 2 ^ 16
  ⟨e.tag, first, first + 2 ^ 16, e.offset, e.leaf⟩

/-- The entry of a TLB that holds an address for a tag. -/
def tlbFind (t : List TlbEntry) (tag : BitVec 16) (va : Nat) : Option TlbEntry :=
  t.find? fun e => e.tag == tag && decide (e.first ≤ va) && decide (va < e.limit)

/-- The target address an entry gives (R347, R349). -/
def TlbEntry.target (e : TlbEntry) (va : Nat) : Nat := (va + e.offset) % 2 ^ 64

/-- Translation for a core (R343): its TLB, the cluster TLB, then a walk; the target address and leaf, or a miss. The
walk of one access is one step (entry 12); TLBs keep an entry until it is invalidated (entry 13). -/
def State.translate (s : State) (core : Nat) (fetch : Bool) (va : Word) : Option (Nat × Word) × State :=
  let c := s.core core
  let k := clusterOf core
  let tag := s.tagOf core
  let a := va.toNat
  let put (s : State) (e : TlbEntry) : State := s.modCore core fun c =>
    if fetch then { c with itlb := pageOf e a :: c.itlb } else { c with dtlb := pageOf e a :: c.dtlb }
  match tlbFind (if fetch then c.itlb else c.dtlb) tag a with
  | some e => (some (e.target a, e.leaf), s)
  | none =>
    let s := s.note (.tlbMiss core)
    match tlbFind (s.cluster k).tlb tag a with
    | some e => (some (e.target a, e.leaf), put s e)
    | none =>
      match s.walk k tag a with
      | some e => (some (e.target a, e.leaf), put (s.modCluster k fun k => { k with tlb := e :: k.tlb }) e)
      | none => (none, s)

/-! ## Pending misses (R350) -/

/-- DETAIL of a PAGE packet (R361). -/
def pageDetail (miss : Bool) (index : Nat) (kind : BitVec 3) (side : Nat) : BitVec 24 :=
  BitVec.ofNat 24 (num miss * 2 ^ 23 + index % 16 * 2 ^ 19 + kind.toNat * 2 ^ 16 + side % 32)

/-- A precise PAGE of an access of a kind at an address. -/
def pageFault (kind : BitVec 3) (va : Word) : FaultInfo := ⟨.page, pageDetail false 0 kind 0, va⟩

/-- The lowest index of a list that a test accepts. -/
def findIndex {α : Type} (p : α → Bool) (l : List α) : Option Nat :=
  let i := l.findIdx p
  if i < l.length then some i else none

/-- A miss of a cluster (R350): it joins the page's pending miss, or opens the lowest free one and sends the keeper a
PAGE packet marked as a miss, or, when all 16 are open, waits in the walkers (no index). -/
def State.openMiss (s : State) (m : Miss) : Option Nat × State :=
  let k := clusterOf m.core
  let c := s.cluster k
  match findIndex (fun o => o.any fun p => p.tag == m.tag && p.vpn == m.vpn) c.misses.toList with
  | some i => (some i, s)
  | none =>
    match findIndex (·.isNone) c.misses.toList with
    | none => (none, s.modCluster k fun c => { c with walks := c.walks ++ [⟨m, none⟩] })
    | some i =>
      let x := (s.core m.core).ctx m.ctx
      let f : FaultInfo := ⟨.page, pageDetail true i m.kind m.side.toNat, m.va⟩
      let ws := if m.kind.toNat = 6 then packetWords m.core 15 f 0 0 0 else if m.kind.toNat = 5 then packetWords m.core 15 f 0 x.region.domain (BitVec.ofNat 32 m.side.toNat)
        else packetWords m.core m.ctx f x.faultPc x.region.domain x.faultWord
      (some i, (s.modCluster k fun c => { c with misses := c.misses.setIfInBounds i (some m) }).packet m.core ws)

end Sys2Proof.Machine
end

