-- ==== Sys2Proof/Machine/Access.lean ====
section
/-!
DEFINITION. The path every access takes (R199): windows and banks (R43 to R54), leaves and rights, and what a miss does
(R200); when accesses have performed at a scope (R52, R114 to R118).
-/

namespace Sys2Proof.Machine

/-- The kinds of access, with what their leaf must permit (R199). -/
inductive AccKind where
  | load | store | atn | atom
  deriving DecidableEq, Repr

/-- Where an access is served. -/
inductive Place where
  /-- A worker's local store. -/
  | sram (core : Nat)
  /-- A bank of a cluster store. -/
  | bank (cluster bank : Nat)
  /-- Local DRAM. -/
  | dram
  /-- A peer, host or pool target (R337). -/
  | remote
  deriving DecidableEq, Repr

/-- An access that has passed its checks: its place, its key in that memory (a window address, a physical address, or the
target's address), and its leaf (0 for a window). -/
structure Acc where
  place : Place
  pa    : Nat
  leaf  : Word
  deriving DecidableEq, Repr

/-- What the checks of R199 answer. -/
inductive Checked where
  | ok (a : Acc)
  | fault (f : FaultInfo)
  | miss
  /-- The bank is changing its mode: the access waits (R55). -/
  | busy
  deriving DecidableEq, Repr

/-- The kind code of a PAGE packet (R361). A weak store's is open: the table has none (entry 14). -/
def State.pageKind (s : State) : AccKind → BitVec 3
  | .load => 0
  | .store => (Config.freeValue s.freeCtr).setWidth 3
  | .atn | .atom => 2

/-- Whether a byte range lies in a configured ring's slots (R54, R56). -/
def inRing (b : Bank) (off n : Nat) : Bool :=
  b.rings.toList.any fun r => r.depth != 0 && decide (64 * r.base ≤ off) &&
    decide (off + n ≤ 64 * r.base + r.depth * (64 * 2 ^ r.slot))

/-- CheckBank (R54) for a window access. -/
def checkBank (b : Bank) (off n : Nat) (va : Word) : Except FaultInfo Unit :=
  match b.mode with
  | .cache => .error (atAddr .bankMode va)
  | .scratch => if b.sys then .error (atAddr .priv va) else .ok ()
  | .fifo => if inRing b off n then .ok () else .error (atAddr .bankMode va)

/-- Whether an address lies in the windows or the reserved range below them (R43). -/
def inWindows (va : Word) : Bool := decide (Config.reservedWindow ≤ va.toNat)

/-- The checks of a window access of `n` bytes (R43, R44, R48, R54). -/
def State.checkWindow (s : State) (core : Nat) (va : Word) (n : Nat) : Checked :=
  let a := va.toNat
  let checkLocal (c off : Nat) (inP : Bool) : Checked :=
    if !inP || Config.lsSize < off + n then .fault (atAddr .windowBounds va)
    else if (s.core c).sysbase < off + n then .fault (atAddr .priv va)
    else .ok ⟨.sram c, lsKey c off, 0⟩
  if Config.lsWindow ≤ a then
    let c := (a - Config.lsWindow) / Config.lsSize
    checkLocal c (a % Config.lsSize) (s.inPoundOf core c)
  else if Config.csWindow ≤ a then
    let k := (a - Config.csWindow) / 2 ^ 20
    let b := a / 2 ^ 16 % 16
    let bank := (s.cluster k).bank b
    if !s.clusterInPound core k then .fault (atAddr .windowBounds va)
    else if bank.busy.isSome then .busy
    else match checkBank bank (a % 2 ^ 16) n va with
      | .error f => .fault f
      | .ok () => .ok ⟨.bank k b, a, 0⟩
  else if Config.ownWindow ≤ a then checkLocal core (a % Config.lsSize) true
  else .fault (atAddr .windowBounds va)

/-- Whether a leaf permits an access (R199, R347). -/
def permits (l : Word) : AccKind → Bool
  | .load => leafR l
  | .store => leafW l
  | .atn => leafW l && leafAT l
  | .atom => leafR l && leafW l && leafAT l

/-- The checks from translation on (R77, R199, R348): an access through a view needs the CR class, any other its
absence. -/
def State.checkLeaf (s : State) (tag : Nat) (kind : AccKind) (va : Word) (viaView : Bool) (target : Nat) (l : Word) :
    Checked :=
  let page : FaultInfo := pageFault (s.pageKind kind) va
  if leafCR l && !viaView then .fault (atAddr .viewClass va)
  else if viaView && !leafCR l then .fault page
  else if !permits l kind || !s.leafOk tag l target then .fault page
  else if (kind == .atn || kind == .atom) && (leafTgt l).toNat ≥ 2 then .fault page
  else .ok ⟨if leafTgt l = 0 then .dram else .remote, target, l⟩

/-- R199 for an access of `n` bytes aligned to `al` by a core; with `viaView` from the translation step on. -/
def State.access (s : State) (core : Nat) (kind : AccKind) (va : Word) (n al : Nat) (viaView : Bool) : Checked × State :=
  if va.toNat % al ≠ 0 then (.fault (atAddr .align va), s)
  else if !viaView && inWindows va then (s.checkWindow core va n, s)
  else match s.translate core false va with
    | (none, s) => (.miss, s)
    | (some (t, l), s) => (s.checkLeaf (s.tagOf core).toNat kind va viaView t l, s)

/-! ## Overlaps, the side log and the store buffer -/

/-- Entries of a core's store buffer (R201). -/
def bufferSize : Nat := 16

/-- What the core's buffered stores hold of the `n` bytes at a virtual address, the youngest winning (R46, R50); parts of a
block beyond the buffer's entries have not entered it (R260). -/
def Core.buffered (c : Core) (va : Word) (n : Nat) : BitVec 16 × BitVec 128 :=
  let r := (c.stores.take bufferSize).foldl (fun a st =>
    if overlaps va.toNat n st.va.toNat st.len then layOver a (cut16 va.toNat st.va.toNat st.mask st.data) else a) (0, 0)
  (r.1 &&& firstBytes n, r.2)

/-- What the core's side log holds of the `n` bytes at a virtual address in entries that wait for their page, and whether an atomic
entry touches them (R200). -/
def Core.logged (c : Core) (va : Word) (n : Nat) : (BitVec 16 × BitVec 128) × Bool :=
  let hit := c.sideLog.filter fun e => !e.sent && overlaps va.toNat n e.va.toNat 16 &&
    (cut16 va.toNat e.va.toNat e.mask e.data).1 &&& firstBytes n != 0
  let r := hit.foldl (fun a e => layOver a (cut16 va.toNat e.va.toNat e.mask e.data)) (0, 0)
  ((r.1 &&& firstBytes n, r.2), hit.any (·.atom.isSome))

/-- Whether the side log holds an entry of an address's page that waits for it. -/
def Core.pageLogged (c : Core) (va : Word) : Bool := c.sideLog.any fun e => !e.sent && e.va.toNat / 2 ^ 16 == va.toNat / 2 ^ 16

/-! ## What has performed (R52, R114 to R118) -/

/-- Whether a pending load or atomic has not been performed: a part of it is not bound. A piece of no bytes stands for a
value that is no access (R156). -/
def Pend.open_ (p : Pend) : Bool := p.pieces.any fun q => q.value.isNone && q.len != 0

/-- The requests in the memory system: on the network, in the slices' queues, held by a slice, or at remote targets. -/
def State.requests (s : State) : List MemReq :=
  s.net ++ s.stk.toList.flatMap (fun t => t.slices.toList.flatMap fun l => l.queue) ++ s.remote

/-- The context and issue number behind a request of a core. -/
def MemReq.of (r : MemReq) : Option (Nat × Nat × Nat) :=
  match r.asker with
  | .load c k q _ | .store c k q | .atomic c k q | .queued c k q => some (c, k, q)
  | _ => none

/-- Whether a request is a store or atomic of a cover that has not performed at a scope (R52). A store of another context of
the core counts, which the L1 may have shown the context, and for a stack scope or wider one of another core of the cluster
too, which the cluster cache may have shown it (R118, R120). -/
def MemReq.pends (r : MemReq) (sc : Scope) (v : Cover) : Bool :=
  match r.asker with
  | .store c _ q => decide (q ≤ v.upTo) && match sc with
      | .core => false
      | .clus => c == v.core && !r.clusDone
      | _ => clusterOf c == clusterOf v.core
  | .atomic c k q | .queued c k q => c == v.core && k == v.ctx && decide (q ≤ v.upTo)
  | _ => false

/-- Whether every access of a cover has performed at a scope, side-log entries included when `log` (R116 to R118). Every
older store of the core's buffer and of its side log counts: the context may have loaded it (R118, R120, R200). -/
def State.performed (s : State) (sc : Scope) (log : Bool) (v : Cover) : Bool :=
  let c := s.core v.core
  let x := c.ctx v.ctx
  let mine (k q : Nat) : Bool := k == v.ctx && decide (q ≤ v.upTo)
  x.pends.all (fun p => !(decide (p.seq ≤ v.upTo) && p.open_)) &&
    c.stores.all (fun st => decide (v.upTo < st.seq)) &&
    c.atomQ.all (fun a => !mine a.ctx a.seq) &&
    c.atomsOut.all (fun a => !mine a.ctx a.seq) &&
    c.spill.all (fun e => match e with
      | .atom a => !mine a.ctx a.seq
      | .out _ => true) &&
    (!log || c.sideLog.all (fun e => !(mine e.ctx e.seq || (decide (e.seq ≤ v.upTo) && e.atom.isNone)))) &&
    s.requests.all (fun r => !r.pends sc v)

/-- Whether the context's earlier no-return atomics have been applied (R115). -/
def Core.atomsApplied (c : Core) (k : Nat) : Bool :=
  c.atomQ.all (·.ctx != k) && c.atomsOut.all (·.ctx != k) &&
    c.spill.all (fun e => match e with | .atom a => a.ctx != k | .out _ => true) &&
    c.sideLog.all (fun e => e.ctx != k || e.atom.isNone)

/-- The narrower of two scopes. -/
def narrowest (a b : Scope) : Scope := if scopeRank a < scopeRank b then a else b

/-- Whether the context's earlier strong accesses and return atomics, before issue number `upTo`, have performed at every
scope that both they and an access of scope `sc` are strong at (R114, R121 to R126, R204). -/
def State.strongDone (s : State) (core k : Nat) (sc : Scope) (upTo : Nat) : Bool :=
  let c := s.core core
  (c.ctx k).pends.all (fun p => !(decide (p.seq < upTo) && p.strong.isSome && p.open_)) &&
    c.stores.all (fun st => !(st.ctx == k && decide (st.seq < upTo) && st.strong.isSome)) &&
    s.requests.all fun r => match r.asker with
      | .store a b q => !(a == core && b == k && decide (q < upTo) && r.strong.any fun x => r.pends (narrowest x sc) ⟨core, k, upTo⟩)
      | _ => true

/-- Whether a strong access or return atomic of a scope may issue (R114, R115, R121, R204). -/
def State.strongReady (s : State) (sc : Scope) : Bool :=
  s.me.atomsApplied s.cur.2 && s.strongDone s.cur.1 s.cur.2 sc s.seq

/-- Whether an unapplied atomic of the context touches the bytes (R210). -/
def State.atomicOpen (s : State) (va : Word) (n : Nat) : Bool :=
  let c := s.me
  let k := s.cur.2
  let touch (e : AtomEntry) : Bool := e.ctx == k && overlaps va.toNat n e.va.toNat 8
  s.ctx.pends.any (fun p => p.isAtomic && p.pieces.any fun q => q.value.isNone && overlaps va.toNat n q.va.toNat q.len) ||
    c.atomQ.any touch || c.atomsOut.any touch ||
    c.spill.any fun e => match e with | .atom a => touch a | .out _ => false

/-- Whether the context's stores to the bytes have all performed at their home (R122, R210). -/
def State.storesHome (s : State) (va : Word) (n : Nat) : Bool :=
  s.me.stores.all (fun st => !(st.ctx == s.cur.2 && overlaps va.toNat n st.va.toNat st.len)) &&
    s.requests.all fun r => match r.asker with
      | .store c k _ => !(c == s.cur.1 && k == s.cur.2 && overlaps va.toNat n r.va.toNat 16)
      | _ => true

/-! ## Paired bodies (R393) -/

/-- The pair state of a copy that runs on a context. -/
def Core.pairOf (c : Core) (k : Nat) : Option PairState := c.pairs.find? (·.ctx == k)

/-- The place of a request among those a copy has issued. -/
def PairState.place (p : PairState) (seq : Nat) : Option Nat := findIndex (·.1 == seq) p.issued

/-- An outgoing request of a paired body recorded with its content (R393); any other body records nothing. -/
def State.pairNote (s : State) (core k seq : Nat) (d : List Nat) : State :=
  if ((s.core core).pairOf k).isNone then s
  else s.modCore core fun c => { c with pairs := c.pairs.map (fun p =>
    if p.ctx = k then { p with issued := p.issued ++ [(seq, d)] } else p) }

/-- Whether a store of a core waits in its buffer or in the memory system. -/
def State.storeOpen (s : State) (core seq : Nat) : Bool :=
  (s.core core).stores.any (·.seq == seq) ||
    s.requests.any fun r => match r.asker with | .store c _ q => c == core && q == seq | _ => false

/-- The number of the other copy's request at the same place. -/
def State.twin (s : State) (p : PairState) (i : Nat) : Option Nat :=
  ((s.core p.other).pairOf p.otherCtx).bind fun q => (q.issued[i]?).map (·.1)

/-- What becomes of a request that is ready to leave (R393, R394): none holds it until both copies have issued it alike,
`some true` sends it, and `some false` discards it: the partner's copy, or one an earlier run has sent. -/
def State.pairGate (s : State) (core k seq : Nat) : Option Bool :=
  match (s.core core).pairOf k with
  | none => some true
  | some p =>
    match p.place seq with
    | none => some true
    | some i =>
      if p.released ≤ i then none
      else if p.home then some (decide (p.skip ≤ i))
      else if (s.twin p i).any fun q => s.storeOpen p.other q then none
      else some false

/-! ## A miss in translation (R200, R350) -/

/-- The acting context's access misses: the pending miss is opened or joined, and the context waits in XSTALL with its
destinations empty until the page is mapped (R26, R156, R200), or, with `log`, until the side log lets an entry go. -/
def State.stallOn (s : State) (va : Word) (kind : BitVec 3) (dests : Dest) (log : Bool) : Did :=
  let (i, s) := s.openMiss ⟨s.tagOf s.cur.1, va.extractLsb' 16 48, kind, va, s.cur.1, s.cur.2, 0⟩
  .stall (s.modCtx fun c => { c.markDest dests false with stall := some ⟨va.extractLsb' 16 48, va, i, kind, dests, log⟩ })

/-- An access that waits on its page alone. -/
def State.stallMiss (s : State) (va : Word) (kind : BitVec 3) (dests : Dest) : Did := s.stallOn va kind dests false

/-- The acting context waits in XSTALL for the side log alone (R200). -/
def State.stallLog (s : State) (va : Word) (kind : BitVec 3) (dests : Dest) : Did :=
  .stall (s.modCtx fun c => { c.markDest dests false with stall := some ⟨va.extractLsb' 16 48, va, none, kind, dests, true⟩ })

/-- A store or no-return atomic that finds the side log full (R200): the keeper is told of its page, as of a side-log
entry's (entry 14), unless entries of that page stand in the log, whose miss is open or over. -/
def State.stallFull (s : State) (va : Word) : Did :=
  match s.me.sideLog.find? fun e => !e.sent && e.va.toNat / 2 ^ 16 == va.toNat / 2 ^ 16 with
  | some e => .stall (s.modCtx fun c => { c with stall := some ⟨va.extractLsb' 16 48, va, e.index, 4, .none, true⟩ })
  | none => s.stallOn va 4 .none true

/-- What a context woken from XSTALL is: its destinations as they were, but for those its sequence keeps empty, ready to
issue its word again (R26, R241). -/
def Ctx.unstall (c : Ctx) : Ctx :=
  match c.stall with
  | none => c
  | some t =>
    let full := (c.markDest t.dests true).xfull
    { c.markDest t.dests true with
      stall := none
      state := if c.state = .xstall then .running else c.state
      xfull := match c.rep with
        | none => full
        | some q => full &&& ~~~q.xwrites }

end Sys2Proof.Machine
end

