-- ==== Sys2Proof/Machine/Cache.lean ====
section
/-!
DEFINITION. The L1, the cluster cache and line epochs (R49 to R52, R67, R78), and the loads and stores built on them:
what a load binds at once, what it asks a home for, and how its value reaches its register (R156, R203).
-/

namespace Sys2Proof.Machine

/-! ## Lines -/

/-- Whether a line holds an address under a key slot for a view's region, or none (R67, R78). -/
def Line.holds (l : Line) (pa key : Nat) (region : Option (BitVec 24)) : Bool :=
  l.pa == lineOf pa && l.key == key && l.region == region

/-- The line of a cache that holds an address. -/
def findLine (ls : List Line) (pa key : Nat) (region : Option (BitVec 24)) : Option Line :=
  ls.find? (·.holds pa key region)

/-- A cache without any copy of an address's line. -/
def dropLine (ls : List Line) (pa : Nat) : List Line := ls.filter (·.pa != lineOf pa)

/-- Bytes of a line. -/
def Line.bytes (l : Line) (pa n : Nat) : Nat := l.data.toNat / 256 ^ (pa - l.pa) % 256 ^ n

/-- A cache with the masked bytes written into a present line (R49): a store allocates none. -/
def storeLine (ls : List Line) (pa key : Nat) (region : Option (BitVec 24)) (mask : BitVec 16) (data : BitVec 128) :
    List Line :=
  ls.map fun l => if l.holds pa key region then
      let sh := 8 * (pa - l.pa)
      let m := (byteMask mask).setWidth 1024 <<< sh
      { l with data := (l.data &&& ~~~m) ||| ((data.setWidth 1024 <<< sh) &&& m) }
    else l

/-- Whether line `a` is replaced before line `b`: evict first (1), then normal (0), then retain (2) (R203). -/
def rankOrder (r : BitVec 2) : Nat :=
  match r.toNat with
  | 1 => 0 | 2 => 2 | _ => 1

/-- A cache with a line filled into one of the `ways` of its set: a free one, else that of a line of the lowest rank, which
of them being open (entry 6). -/
def fillLine (ls : List Line) (new : Line) (ways : List Nat) (setOf : Nat → Nat) (pick : Nat) : List Line :=
  let rest := ls.filter fun l => !(l.pa == new.pa)
  let set := rest.filter fun l => setOf l.pa == setOf new.pa
  match ways.find? fun w => set.all (·.way != w) with
  | some w => { new with way := w } :: rest
  | none =>
    let low := set.foldl (fun m l => min m (rankOrder l.rank)) 2
    let worst := set.filter fun l => rankOrder l.rank == low
    match worst[pick % worst.length]? with
    | none => rest
    | some victim => { new with way := victim.way } :: rest.filter (· != victim)

/-- The set of an L1 (R49): 16 sets of 4 ways. -/
def l1Set (pa : Nat) : Nat := pa / 128 % 16
/-- The set of a cluster cache (R49). -/
def clSet (pa : Nat) : Nat := pa / 128 % 512
/-- Whether a bank serves its cluster's cache as a way (R49); a changing bank does not (R55). -/
def Bank.isWay (b : Bank) : Bool := b.mode == .cache && b.busy.isNone
/-- The ways of a cluster cache: its CACHE-mode banks (R49). -/
def Cluster.ways (c : Cluster) : List Nat := (List.range 16).filter fun i => (c.bank i).isWay
/-- The line of a cluster cache that holds an address; with no bank in CACHE mode it holds nothing (R49). -/
def Cluster.find (c : Cluster) (pa key : Nat) (region : Option (BitVec 24)) : Option Line :=
  if c.ways.isEmpty then none else findLine c.lines pa key region
/-- The lines a bank held dropped (R55 step 2). -/
def Cluster.dropWay (c : Cluster) (bank : Nat) : Cluster := { c with lines := c.lines.filter (·.way != bank) }

/-- A line's data with the stores of some cores laid over them that have left those cores and are on their way to its home
(R52): what the line would hold had it been present. -/
def State.onTheWay (s : State) (mine : Nat → Bool) (pa key : Nat) (region : Option (BitVec 24)) (data : BitVec 1024) :
    BitVec 1024 :=
  let line : Line := ⟨lineOf pa, key, region, 0, data, 0, 0⟩
  ((s.stk.toList.flatMap fun t => t.slices.toList.flatMap (·.queue)) ++ s.net).foldl (fun d r =>
    match r.asker, r.op with
    | .store c _ _, .write m w =>
      if mine c && r.target == 0 then ((storeLine [{ line with data := d }] r.pa r.key r.region m w).head?.map (·.data)).getD d else d
    | _, _ => d) data

/-- The fill stamp of an L1 line whose data the cluster cache filled at `fill` (R50, entry 76): the present epoch, or, while a
context of the core has acquired at the cluster cache since, one below that context's Acq; none when there is none. -/
def Core.stamp (c : Core) (fill : Option (BitVec 16)) : Option (BitVec 16) :=
  match fill with
  | none => some c.l1Epoch
  | some f =>
    (c.ctxs.toList.filter fun x => decide (f.toNat < x.acqCl.toNat)).foldl (fun e x =>
      e.bind fun e => if x.acqL1 = 0 then none else some (if x.acqL1.toNat ≤ e.toNat then x.acqL1 - 1 else e)) (some c.l1Epoch)

/-- The L1 of a core filled with a line (R50) from its home, or from the cluster cache's line of stamp `fill`. -/
def State.fillL1 (s : State) (core pa key : Nat) (region : Option (BitVec 24)) (data : BitVec 1024) (rank : BitVec 2)
    (fill : Option (BitVec 16)) : State :=
  match (s.core core).stamp fill with
  | none => s.modCore core fun c => { c with l1 := dropLine c.l1 pa }
  | some e =>
    let data := s.onTheWay (· == core) pa key region data
    let (f, s) := s.free
    s.modCore core fun c =>
      { c with l1 := fillLine c.l1 ⟨lineOf pa, key, region, e, data, rank, 0⟩ (List.range 4) l1Set f.toNat }

/-- The cluster cache of a core filled with a line (R49, R50). -/
def State.fillCl (s : State) (core pa key : Nat) (region : Option (BitVec 24)) (data : BitVec 1024) (rank : BitVec 2) : State :=
  let k := clusterOf core
  if (s.cluster k).ways.isEmpty then s
  else
    let data := s.onTheWay (fun c => clusterOf c == k) pa key region data
    let (f, s) := s.free
    s.modCluster k fun c =>
      { c with lines := fillLine c.lines ⟨lineOf pa, key, region, c.epoch, data, rank, 0⟩ c.ways clSet f.toNat }

/-- A core's L1 copy of a line and its cluster's copy dropped (R63, R210). -/
def State.dropCopies (s : State) (core pa : Nat) : State :=
  (s.modCore core fun c => { c with l1 := dropLine c.l1 pa }).modCluster (clusterOf core)
    fun c => { c with lines := dropLine c.lines pa }

/-! ## Acquires (R50, R51) -/

/-- The step of one level's epoch: the lines, the epoch, and whether every Acq goes to zero. -/
def epochStep (e : BitVec 16) (lines : List Line) : List Line × BitVec 16 × Bool :=
  if e = 65535 then ([], 0, true) else (lines, e + 1, false)

/-- An acquire by a context at the L1 (R50). -/
def Core.acquireL1 (c : Core) (k : Nat) : Core :=
  let (ls, e, all) := epochStep c.l1Epoch c.l1
  let c := { c with l1 := ls, l1Epoch := e }
  (if all then c.modAll fun x => { x with acqL1 := 0 } else c).modCtx k fun x => { x with acqL1 := e }

/-- A cluster cache's epoch stepped (R50). -/
def State.stepCl (s : State) (n : Nat) : State :=
  let cl := s.cluster n
  let (ls, e, all) := epochStep cl.epoch cl.lines
  let s := s.modCluster n fun c => { c with lines := ls, epoch := e, codeAcq := if all then 0 else c.codeAcq }
  if all then (Config.keeperOf n :: coresOfCluster n).foldl (fun s m => s.modCore m
      fun c => c.modAll fun x => { x with acqCl := 0 }) s else s

/-- An acquire by a context at the cluster cache (R50). -/
def State.acquireCl (s : State) (core k : Nat) : State :=
  let s := s.stepCl (clusterOf core)
  s.modCtxOf core k fun x => { x with acqCl := (s.cluster (clusterOf core)).epoch }

/-- An acquire of a context at a scope (R50, R51). -/
def State.acquire (s : State) (core k : Nat) (sc : Scope) : State :=
  match sc with
  | .core => s
  | .clus => s.modCore core (·.acquireL1 k)
  | _ => (s.modCore core (·.acquireL1 k)).acquireCl core k

/-! ## Loads -/

/-- What a load's policy and kind let it look in and fill (R49, R158, R204). -/
structure LoadWay where
  strong : Option Scope
  region : Option (BitVec 24)
  cpol   : BitVec 2
  alloc  : Bool

/-- The rank a filled line takes: the HINT's policy, or the page's (R158, R203, R347). -/
def lineRank (cpol : BitVec 2) (leaf : Word) : BitVec 2 := if cpol = 0 then leafCpol leaf else cpol

/-- Whether a load of a scope looks in the L1, and in the cluster cache (R49, R204). -/
def looksL1 : Option Scope → Bool
  | none | some .core => true
  | _ => false
def looksCl : Option Scope → Bool
  | none | some .core | some .clus => true
  | _ => false

/-- One part of a load by the acting context (R50, R199, R203): bound at once from the caches, or left to be bound by a
window's SRAM, a home slice or a remote target, whose request goes out. `hold` says an earlier load of these bytes is
not bound, so that this one may not overtake it (R111). -/
def State.loadPart (s : State) (w : LoadWay) (seq slot idx : Nat) (va : Word) (n : Nat) (a : Acc) (hold : Bool) :
    State × Piece :=
  let core := s.cur.1
  let (om, od) := s.me.buffered va n
  let key := leafKey a.leaf
  let p : Piece := ⟨slot, va, n, a.pa, key, false, false, om, od, none⟩
  match a.place with
  | .sram _ => (s.note (.charge core 3 1 s.ctx.region.energyAt), { p with window := true })
  | .bank _ _ => (s, { p with window := true })
  | .remote =>
    ({ s with remote := s.remote ++ [⟨.load core s.cur.2 seq idx, .read n false false 0, va, a.pa, 0, w.region, s.tagOf core,
        core, s.ctx.region.rcb, s.ctx.region.energyAt, false, w.strong, leafChip a.leaf, leafTgt a.leaf⟩] },
      { p with remote := true })
  | .dram =>
    let bind (v : Nat) : Piece := { p with value := some (merge n v om od) }
    let l1 := (findLine s.me.l1 a.pa key w.region).filter fun l => decide (s.ctx.acqL1.toNat ≤ l.fill.toNat)
    match (if looksL1 w.strong && !hold then l1 else none) with
    | some l => (s.note (.charge core 4 1 s.ctx.region.energyAt), bind (l.bytes a.pa n))
    | none =>
      let s := s.note (.l1Miss core)
      let cl := s.cluster (clusterOf core)
      let hit := (cl.find a.pa key w.region).filter fun l => decide (s.ctx.acqCl.toNat ≤ l.fill.toNat)
      let rank := lineRank w.cpol a.leaf
      match (if looksCl w.strong && !hold then hit else none) with
      | some l =>
        let s := s.note (.charge core 5 1 s.ctx.region.energyAt)
        let s := if w.alloc && looksL1 w.strong then s.fillL1 core a.pa key w.region l.data rank (some l.fill)
          else if l1.isSome then s.modMe fun c => { c with l1 := dropLine c.l1 a.pa } else s
        (s, bind (l.bytes a.pa n))
      | none =>
        let s := s.note (.clMiss core)
        ({ s with net := s.net ++ [⟨.load core s.cur.2 seq idx,
            .read n (w.alloc && looksL1 w.strong) (w.alloc && looksCl w.strong) rank, va, a.pa, key, w.region, s.tagOf core,
            core, s.ctx.region.rcb, s.ctx.region.energyAt, false, w.strong, 0, 0⟩] }, p)

/-- Whether an earlier load of the acting context has these bytes not bound yet (R111). -/
def State.loadOpen (s : State) (va : Word) (n : Nat) : Bool :=
  s.ctx.pends.any fun p => p.pieces.any fun q => q.value.isNone && overlaps va.toNat n q.va.toNat q.len

/-- A load of several parts, each `(slot, va, length, checked access or bytes the side log gives)`, by the acting context:
its destination is marked empty and a producer stands until REGISTER_FILL (R156, R203). -/
def State.loadAll (s : State) (w : LoadWay) (dest : Dest) (fin : Finish) (view : Option (BitVec 32 × BitVec 24))
    (parts : List (Nat × Word × Nat × (Acc ⊕ Nat))) : State :=
  let (seq, s) := s.nextSeq
  let r := parts.foldl (fun (a : State × List Piece) q =>
    match q with
    | (slot, va, n, .inr v) => (a.1, a.2 ++ [⟨slot, va, n, 0, 0, false, false, 0, 0, some v⟩])
    | (slot, va, n, .inl acc) =>
      let (s', p) := a.1.loadPart w seq slot a.2.length va n acc (a.1.loadOpen va n)
      (s', a.2 ++ [p])) (s, [])
  r.1.modCtx fun c => { c.markDest dest false with
    pends := c.pends ++ [⟨seq, dest, r.2, fin, true, none, c.pc, false, w.strong, view⟩] }

/-- What a part of a load is before it issues: checked, given by the side log, or a reason not to issue. -/
inductive PartCheck where
  | ready (x : Acc ⊕ Nat)
  | stop (d : Did)

/-- The checks of one part of a load (R199, R200, R210): the side log first, then the path of R199. -/
def State.loadCheck (s : State) (va : Word) (n al : Nat) (viaView : Bool) (dest : Dest) : PartCheck × State :=
  if va.toNat % al ≠ 0 then (.stop (.fault s (atAddr .align va)), s)
  else
    let ((m, d), atom) := s.me.logged va n
    if m ≠ 0 then
      if m = firstBytes n && !atom then (.ready (.inr (d.toNat % 256 ^ n)), s) else (.stop (s.stallLog va 0 dest), s)
    else match s.access s.cur.1 .load va n al viaView with
      | (.fault f, s) => (.stop (.fault s f), s)
      | (.busy, s) => (.stop (.stay s), s)
      | (.miss, s) => (.stop (s.stallMiss va 0 dest), s)
      | (.ok a, s) => if s.atomicOpen va n then (.stop (.stay s), s) else (.ready (.inl a), s)

/-- The checks of all parts of a load in order; the first that does not pass decides (R199, R252). -/
def State.loadChecks (s : State) (al : Nat) (viaView : Bool) (dest : Dest) :
    List (Nat × Word × Nat) → List (Nat × Word × Nat × (Acc ⊕ Nat)) → Did ⊕ (List (Nat × Word × Nat × (Acc ⊕ Nat)) × State)
  | [], acc => .inr (acc, s)
  | (slot, va, n) :: rest, acc =>
    match s.loadCheck va n al viaView dest with
    | (.stop d, _) => .inl d
    | (.ready x, s) => s.loadChecks al viaView dest rest (acc ++ [(slot, va, n, x)])

/-- A whole load of the acting context: checks, then issue. -/
def State.load (s : State) (w : LoadWay) (al : Nat) (dest : Dest) (fin : Finish) (view : Option View)
    (parts : List (Nat × Word × Nat)) : Did :=
  match s.loadChecks al view.isSome dest parts [] with
  | .inl d => d
  | .inr (ps, s) => .done (s.loadAll { w with region := view.map (·.region) } dest fin (view.map fun v => (v.handle, v.region)) ps)

/-- The way of a weak load under the group's HINT.MOD (R158). -/
def Ctx.weakWay (c : Ctx) : LoadWay := ⟨none, none, c.policy.1, c.policy.2⟩

/-! ## Stores -/

/-- The store buffer's entry for the masked bytes of a store by the acting context (R201). -/
def storeEntry (s : State) (va : Word) (n : Nat) (mask : BitVec 16) (data : BitVec 128) (a : Acc)
    (strong : Option Scope) (view : Option View) : Store where
  seq := s.seq
  ctx := s.cur.2
  va := va
  len := n
  mask := mask
  data := data
  pa := a.pa
  key := leafKey a.leaf
  window := a.place != Place.dram && a.place != Place.remote
  remote := a.place == Place.remote
  strong := strong
  view := view.map fun v => (v.handle, v.region)
  rcb := s.ctx.region.rcb
  leaf := a.leaf
  energyAt := s.ctx.region.energyAt

/-- The masked bytes of a store by the acting context put into the store buffer (R201). -/
def State.bufferStore (s : State) (va : Word) (n : Nat) (mask : BitVec 16) (data : BitVec 128) (a : Acc)
    (strong : Option Scope) (view : Option View) : State :=
  let s := { s.modMe (fun c => { c with stores := c.stores ++ [storeEntry s va n mask data a strong view] }) with
    seq := s.seq + 1 }
  let out (s : State) : State := s.pairNote s.cur.1 s.cur.2 (s.seq - 1) [0, va.toNat, mask.toNat, data.toNat]
  match a.place with
  | .sram c => (if c = s.cur.1 then s else out s).note (.charge s.cur.1 3 1 s.ctx.region.energyAt)
  | _ => out s

/-- Address of the first byte a mask selects: of the lowest active lane (R252). -/
def maskAddr (va : Word) (mask : BitVec 16) : Word := va + BitVec.ofNat 64 (lowestOne 16 mask.toNat % 16)

/-- The side-log header code and mask of a store (R352): the bytes from VA with its low four bits zero. -/
def sideStore (s : State) (vec : Bool) (va : Word) (mask : BitVec 16) (data : BitVec 128) (view : Option View)
    (seq : Nat) (index : Option Nat) : SideEntry where
  op := if vec then 1 else 0
  ctx := s.cur.2
  sent := false
  mask := mask <<< (va.toNat % 16)
  va := va - BitVec.ofNat 64 (va.toNat % 16)
  data := data <<< (8 * (va.toNat % 16))
  atom := none
  scope := .core
  view := view.map fun v => (v.handle, v.region)
  seq := seq
  pc := s.ctx.pc
  mapped := false
  index := index
  rcb := s.ctx.region.rcb
  domain := s.ctx.region.domain

/-- A weak store whose page has no mapping (R200): it retires into the side log, or waits in XSTALL when the log is full. -/
def State.logStore (s : State) (vec : Bool) (va : Word) (mask : BitVec 16) (data : BitVec 128) (view : Option View) :
    Option State × State :=
  let slot := s.me.sideLog.length
  let known := s.me.sideLog.find? fun e => !e.sent && e.va.toNat / 2 ^ 16 == va.toNat / 2 ^ 16
  let (i, s) := match known with
    | some e => (e.index, s)
    | none => s.openMiss ⟨s.tagOf s.cur.1, va.extractLsb' 16 48, 4, maskAddr va mask, s.cur.1, s.cur.2, BitVec.ofNat 5 slot⟩
  if slot < 32 then
    let (seq, s) := s.nextSeq
    let e := sideStore s vec va mask data view seq i
    (some ((s.modMe fun c => { c with sideLog := c.sideLog ++ [{ e with mapped := known.any (·.mapped) }] }).pairNote
      s.cur.1 s.cur.2 seq [0, va.toNat, mask.toNat, data.toNat]), s)
  else (none, s)

/-- Where a part of a store goes once checked. -/
inductive StoreWay where
  | buffer (a : Acc)
  | log

/-- The checks of one part of a store (R199, R200, R201): a page with entries in the side log takes the log's path, so
that stores to it stay in order; a `strict` one waits for its page instead. -/
def State.storeCheck (s : State) (va : Word) (n al : Nat) (mask : BitVec 16) (strict viaView : Bool) (dest : Dest) :
    (Did ⊕ StoreWay) × State :=
  let first := maskAddr va mask
  if va.toNat % al ≠ 0 then (.inl (.fault s (atAddr .align va)), s)
  else if (viaView || !inWindows va) && s.me.pageLogged va then
    if strict then (.inl (s.stallLog first 1 dest), s) else (.inr .log, s)
  else match s.access s.cur.1 .store va n al viaView with
    | (.fault f, s) => (.inl (.fault s { f with word3 := if f.word3 = va then first else f.word3 }), s)
    | (.busy, s) => (.inl (.stay s), s)
    | (.miss, s) => if strict then (.inl (s.stallMiss first 1 dest), s) else (.inr .log, s)
    | (.ok a, s) => (.inr (.buffer a), s)

/-- The checks of all parts of a store; a `strict` one does not retire into the side log (R252, R260). -/
def State.storeChecks (s : State) (al : Nat) (strict viaView : Bool) (dest : Dest) :
    List (Word × Nat × BitVec 16 × BitVec 128) → List (Word × Nat × BitVec 16 × BitVec 128 × StoreWay) →
      Did ⊕ (List (Word × Nat × BitVec 16 × BitVec 128 × StoreWay) × State)
  | [], acc => .inr (acc, s)
  | (va, n, m, d) :: rest, acc =>
    match s.storeCheck va n al m strict viaView dest with
    | (.inl x, _) => .inl x
    | (.inr w, s) => s.storeChecks al strict viaView dest rest (acc ++ [(va, n, m, d, w)])

/-- Room a list of checked parts needs in the store buffer and in the side log. -/
def storeRoom (ps : List (Word × Nat × BitVec 16 × BitVec 128 × StoreWay)) : Nat × Nat :=
  ps.foldl (fun a p => match p.2.2.2.2 with | .buffer _ => (a.1 + 1, a.2) | .log => (a.1, a.2 + 1)) (0, 0)

/-- A weak store of the acting context, of one or more parts (R200, R201, R203, R252): every part is checked, then all
go, each to the store buffer or the side log; a full buffer makes the context wait. -/
def State.store (s : State) (vec : Bool) (al : Nat) (view : Option View) (parts : List (Word × Nat × BitVec 16 × BitVec 128)) :
    Did :=
  match s.storeChecks al false view.isSome .none parts [] with
  | .inl d => d
  | .inr (ps, s) =>
    let (b, l) := storeRoom ps
    if bufferSize < s.me.stores.length + b then .stay s
    else if 32 < s.me.sideLog.length + l then
      match ps.find? (fun p => match p.2.2.2.2 with | .log => true | _ => false) with
      | none => .stay s
      | some (va, _) => s.stallFull va
    else .done (ps.foldl (fun s p =>
      match p with
      | (va, n, m, d, .buffer a) => s.bufferStore va n m d a none view
      | (va, _, m, d, .log) => ((s.logStore vec va m d view).1).getD s) s)

/-- A weak store that waits in XSTALL on a miss (R252): every part is checked before any goes. -/
def State.storeHeld (s : State) (al : Nat) (parts : List (Word × Nat × BitVec 16 × BitVec 128)) : Did :=
  match s.storeChecks al true false .none parts [] with
  | .inl d => d
  | .inr (ps, s) =>
    if bufferSize < s.me.stores.length + ps.length then .stay s
    else .done (ps.foldl (fun s p =>
      match p with
      | (va, n, m, d, .buffer a) => s.bufferStore va n m d a none none
      | (_, _, _, _, .log) => s) s)

/-- Whether a producer is a block that is still to be stored (R260). -/
def Pend.isBlock (p : Pend) : Bool :=
  match p.finish with
  | .block _ _ => true
  | _ => false

/-- Whether a block a context stores has writes that have not entered the store buffer (R260): its context stays RUNNING and issues
nothing. -/
def Core.entering (c : Core) (k : Nat) : Bool :=
  (c.ctx k).pends.any Pend.isBlock || (c.stores.drop bufferSize).any (·.ctx == k)

end Sys2Proof.Machine
end

