-- ==== Sys2Proof/Machine/Float.lean ====
section
/-!
DEFINITION. The floating-point formats and RoundTo (R84 to R91): every result is computed exactly and rounded once.
-/

namespace Sys2Proof.Machine

/-- The four formats (R84). -/
inductive Fmt where
  | f64 | f32 | f16 | bf16
  deriving DecidableEq, Repr

/-- Width in bits (R84). -/
def fmtWidth : Fmt → Nat
  | .f64 => 64 | .f32 => 32 | .f16 => 16 | .bf16 => 16
/-- Fraction bits (R84). -/
def fmtFrac : Fmt → Nat
  | .f64 => 52 | .f32 => 23 | .f16 => 10 | .bf16 => 7
/-- Exponent bits (R84). -/
def fmtExp : Fmt → Nat
  | .f64 => 11 | .f32 => 8 | .f16 => 5 | .bf16 => 8
/-- Exponent bias (R84). -/
def fmtBias (f : Fmt) : Nat := 2 ^ (fmtExp f - 1) - 1
/-- The canonical quiet NaN (R84). -/
def fmtNaN : Fmt → Nat
  | .f64 => 0x7FF8000000000000 | .f32 => 0x7FC00000 | .f16 => 0x7E00 | .bf16 => 0x7FC0
/-- The code of R92 for a result format: 0 BF16, 1 F16, 2 F32, 3 F64 (R338). -/
def fmtIndex : Fmt → Nat
  | .bf16 => 0 | .f16 => 1 | .f32 => 2 | .f64 => 3
/-- The format a scalar `sz` names (R166). -/
def fmtOfSz (sz : BitVec 2) : Fmt :=
  match sz.toNat with
  | 0 => .f64 | 1 => .f32 | 2 => .f16 | _ => .bf16
/-- The format an element type names (R150). -/
def fmtOfEt (et : BitVec 3) : Option Fmt :=
  match et.toNat with
  | 4 => some .bf16 | 5 => some .f16 | 6 => some .f32 | 7 => some .f64 | _ => none

/-- The bits of a signed infinity. -/
def fmtInf (f : Fmt) (neg : Bool) : Nat := num neg * 2 ^ (fmtWidth f - 1) + (2 ^ fmtExp f - 1) * 2 ^ fmtFrac f
/-- The bits of the largest finite magnitude. -/
def fmtMax (f : Fmt) (neg : Bool) : Nat := num neg * 2 ^ (fmtWidth f - 1) + (2 ^ fmtExp f - 1) * 2 ^ fmtFrac f - 1

/-- The value the bits of a format hold (R84). -/
def fval (f : Fmt) (b : Nat) : FVal :=
  let neg := bitOf b (fmtWidth f - 1)
  let e := b / 2 ^ fmtFrac f % 2 ^ fmtExp f
  let m := b % 2 ^ fmtFrac f
  if e = 2 ^ fmtExp f - 1 then
    if m = 0 then .inf neg else .nan (!bitOf m (fmtFrac f - 1))
  else if e = 0 then .fin neg m (1 - fmtBias f - fmtFrac f)
  else .fin neg (m + 2 ^ fmtFrac f) (e - fmtBias f - fmtFrac f)

/-- NV, DZ, OF, UF and NX in the places of FPFLAGS (R88). -/
def flagNV : BitVec 5 := 16
def flagDZ : BitVec 5 := 8
def flagOF : BitVec 5 := 4
def flagUF : BitVec 5 := 2
def flagNX : BitVec 5 := 1

/-- A floating result: its bits, the flags it raises (R88), and the events it counts (R92): [0] NaN, [1] infinity,
[2] overflow, [3] underflow. -/
structure FOut where
  bits  : Nat
  flags : BitVec 5
  ev    : BitVec 4
  deriving DecidableEq, Repr

/-- Whether rounding goes away from zero: the mode, the sign, the last kept bit, and how what is cut off compares with
half of a last place (`half`: exactly half; `more`: over half; `inexact`: anything cut). -/
def roundUp (mode : BitVec 3) (neg lsb half more inexact : Bool) : Bool :=
  match mode.toNat with
  | 0 => more || (half && lsb)
  | 1 => false
  | 2 => inexact && !neg
  | 3 => inexact && neg
  | _ => more || half

/-- `(man + ε) * 2 ^ shift⁻¹` cut to an integer with a mode, `ε` lying in (0, 1) when `sticky`: the integer and whether
anything was cut. -/
def roundShift (mode : BitVec 3) (neg : Bool) (man : Nat) (sticky : Bool) (shift : Int) : Nat × Bool :=
  if shift ≤ 0 then
    let m := man * 2 ^ (-shift).toNat
    (if roundUp mode neg (m % 2 == 1) false false sticky then m + 1 else m, sticky)
  else
    let k := shift.toNat
    let m := man / 2 ^ k
    let r := man % 2 ^ k
    let h := 2 ^ (k - 1)
    let inexact := r != 0 || sticky
    (if roundUp mode neg (m % 2 == 1) (r == h && !sticky) (decide (h < r) || (r == h && sticky)) inexact
     then m + 1 else m, inexact)

/-- RoundTo (R86, R87): the value `±(man + ε) * 2 ^ exp`, `ε` in (0, 1) when `sticky`, rounded once to a format. -/
def roundTo (f : Fmt) (mode : BitVec 3) (neg : Bool) (man : Nat) (exp : Int) (sticky : Bool) : Nat × BitVec 5 :=
  if man = 0 && !sticky then (num neg * 2 ^ (fmtWidth f - 1), 0)
  else
    let p : Int := fmtFrac f + 1
    let e : Int := exp + bitLen man - 1
    let emin : Int := 1 - fmtBias f
    let q : Int := max (e - (p - 1)) (emin - (p - 1))
    let (m, inexact) := roundShift mode neg man sticky (q - exp)
    let (m, q) := if m = 2 ^ (fmtFrac f + 1) then (2 ^ fmtFrac f, q + 1) else (m, q)
    let sign := num neg * 2 ^ (fmtWidth f - 1)
    if m < 2 ^ fmtFrac f then
      (sign + m, if inexact then flagUF ||| flagNX else 0)
    else
      let ef : Int := q + (p - 1) + fmtBias f
      if 2 ^ fmtExp f - 1 ≤ ef then
        let toInf := match mode.toNat with
          | 1 => false | 2 => !neg | 3 => neg | _ => true
        (if toInf then fmtInf f neg else fmtMax f neg, flagOF ||| flagNX)
      else
        -- tininess after rounding: the value rounded without the lower exponent limit stays below 2^emin
        let tiny := decide (e < emin) &&
          decide ((roundShift mode neg man sticky (e - (p - 1) - exp)).1 < 2 ^ (fmtFrac f + 1))
        (sign + ef.toNat * 2 ^ fmtFrac f + (m - 2 ^ fmtFrac f),
          if inexact then (if tiny then flagUF ||| flagNX else flagNX) else 0)

/-- Whether a value is a NaN. -/
def isNaN : FVal → Bool
  | .nan _ => true
  | _ => false
/-- Whether a value is a signalling NaN. -/
def isSNaN : FVal → Bool
  | .nan s => s
  | _ => false
/-- Whether a value is finite. -/
def isFinite : FVal → Bool
  | .fin _ _ _ => true
  | _ => false
/-- A value's sign bit; a NaN's is not kept. -/
def isNeg : FVal → Bool
  | .nan _ => false
  | .inf n => n
  | .fin n _ _ => n

/-- A result with its events (R92), from the operands it was computed from. -/
def outOf (f : Fmt) (ops : List FVal) (r : Nat × BitVec 5) : FOut :=
  let v := fval f r.1
  let nanEv := isNaN v && !ops.any isNaN
  let infEv := (match v with | .inf _ => true | _ => false) && ops.all isFinite
  ⟨r.1, r.2, BitVec.ofNat 4 (num nanEv + 2 * num infEv + 4 * num (r.2 &&& flagOF != 0) + 8 * num (r.2 &&& flagUF != 0))⟩

/-- The canonical NaN of a format, with NV when an operand signals or the operation is invalid (R85). -/
def nanOut (f : Fmt) (ops : List FVal) (invalid : Bool) : FOut :=
  outOf f ops (fmtNaN f, if invalid || ops.any isSNaN then flagNV else 0)

/-- A value rounded to a format (R87, R90). -/
def roundVal (f : Fmt) (mode : BitVec 3) (v : FVal) : FOut :=
  match v with
  | .nan _ => nanOut f [v] false
  | .inf n => outOf f [v] (fmtInf f n, 0)
  | .fin n m e => outOf f [v] (roundTo f mode n m e false)

/-- An integer as a value. -/
def intVal (i : Int) : FVal := .fin (decide (i < 0)) i.natAbs 0

/-- Minus a value. -/
def negVal : FVal → FVal
  | .nan s => .nan s
  | .inf n => .inf (!n)
  | .fin n m e => .fin (!n) m e

/-- The exact sum of two finite values, the sign of an exact zero as R184 gives it. -/
def addFin (mode : BitVec 3) (n1 : Bool) (m1 : Nat) (e1 : Int) (n2 : Bool) (m2 : Nat) (e2 : Int) : FVal :=
  let e := min e1 e2
  let a : Int := m1 * 2 ^ (e1 - e).toNat
  let b : Int := m2 * 2 ^ (e2 - e).toNat
  let s := (if n1 then -a else a) + (if n2 then -b else b)
  if s = 0 then
    if n1 == n2 then .fin n1 0 e else .fin (mode.toNat == 3) 0 e
  else .fin (decide (s < 0)) s.natAbs e

/-- The exact sum of two values; none when it is invalid (R184). NaN operands are the caller's. -/
def addVal (mode : BitVec 3) : FVal → FVal → Option FVal
  | .inf a, .inf b => if a == b then some (.inf a) else none
  | .inf a, _ => some (.inf a)
  | _, .inf b => some (.inf b)
  | .fin n1 m1 e1, .fin n2 m2 e2 => some (addFin mode n1 m1 e1 n2 m2 e2)
  | _, _ => none

/-- Whether a value is a zero. -/
def isZero : FVal → Bool
  | .fin _ m _ => m == 0
  | _ => false

/-- The exact product of two values; none when it is invalid (R184). -/
def mulVal : FVal → FVal → Option FVal
  | .fin n1 m1 e1, .fin n2 m2 e2 => some (.fin (n1 ^^ n2) (m1 * m2) (e1 + e2))
  | .nan _, _ => none
  | _, .nan _ => none
  | a, b => if isZero a || isZero b then none else some (.inf (isNeg a ^^ isNeg b))

/-- FADD (R184). -/
def fadd (f : Fmt) (mode : BitVec 3) (a b : FVal) : FOut :=
  if isNaN a || isNaN b then nanOut f [a, b] false
  else match addVal mode a b with
    | none => nanOut f [a, b] true
    | some v => outOf f [a, b] ((roundVal f mode v).bits, (roundVal f mode v).flags)

/-- FMUL (R184). -/
def fmul (f : Fmt) (mode : BitVec 3) (a b : FVal) : FOut :=
  if isNaN a || isNaN b then nanOut f [a, b] false
  else match mulVal a b with
    | none => nanOut f [a, b] true
    | some v => outOf f [a, b] ((roundVal f mode v).bits, (roundVal f mode v).flags)

/-- The quotient of two nonzero magnitudes with enough bits for every format, and whether it was cut. -/
def quotient (m1 m2 : Nat) : Nat × Int × Bool :=
  let k := 130 + bitLen m2
  (m1 * 2 ^ k / m2, -(k : Int), m1 * 2 ^ k % m2 != 0)

/-- FDIV (R184). -/
def fdiv (f : Fmt) (mode : BitVec 3) (a b : FVal) : FOut :=
  match a, b with
  | .fin n1 m1 e1, .fin n2 m2 e2 =>
    let neg := n1 ^^ n2
    if m2 = 0 then
      if m1 = 0 then nanOut f [a, b] true else outOf f [a, b] (fmtInf f neg, flagDZ)
    else if m1 = 0 then outOf f [a, b] (num neg * 2 ^ (fmtWidth f - 1), 0)
    else
      let (q, e, s) := quotient m1 m2
      outOf f [a, b] (roundTo f mode neg q (e1 - e2 + e) s)
  | .inf _, .inf _ => nanOut f [a, b] true
  | .inf n, .fin n2 _ _ => outOf f [a, b] (fmtInf f (n ^^ n2), 0)
  | .fin n1 _ _, .inf n => outOf f [a, b] (num (n1 ^^ n) * 2 ^ (fmtWidth f - 1), 0)
  | _, _ => nanOut f [a, b] false

/-- FSQRT (R184). -/
def fsqrt (f : Fmt) (mode : BitVec 3) (a : FVal) : FOut :=
  match a with
  | .nan _ => nanOut f [a] false
  | .inf n => if n then nanOut f [a] true else outOf f [a] (fmtInf f false, 0)
  | .fin n m e =>
    if m = 0 then outOf f [a] (num n * 2 ^ (fmtWidth f - 1), 0)
    else if n then nanOut f [a] true
    else
      let (m, e) := if e % 2 = 0 then (m, e) else (2 * m, e - 1)
      let v := m * 2 ^ 140
      let r := isqrt v
      outOf f [a] (roundTo f mode false r ((e - 140) / 2) (r * r != v))

/-- FMA (R188): `a * b + c` rounded once; 0 × ∞ is invalid whatever `c` holds. -/
def ffma (f : Fmt) (mode : BitVec 3) (a b c : FVal) : FOut :=
  let zeroInf := match a, b with
    | .inf _, .fin _ m _ => m == 0
    | .fin _ m _, .inf _ => m == 0
    | _, _ => false
  if zeroInf then outOf f [a, b, c] (fmtNaN f, flagNV)
  else if isNaN a || isNaN b || isNaN c then nanOut f [a, b, c] false
  else match mulVal a b with
    | none => nanOut f [a, b, c] true
    | some p =>
      match addVal mode p c with
      | none => nanOut f [a, b, c] true
      | some v => outOf f [a, b, c] ((roundVal f mode v).bits, (roundVal f mode v).flags)

/-- Whether `a < b`, for values that are not NaNs. -/
def ltVal (a b : FVal) : Bool :=
  match a, b with
  | .inf n, .inf m => n && !m
  | .inf n, _ => n
  | _, .inf m => !m
  | .fin n1 m1 e1, .fin n2 m2 e2 =>
    let e := min e1 e2
    let x : Int := m1 * 2 ^ (e1 - e).toNat
    let y : Int := m2 * 2 ^ (e2 - e).toNat
    decide ((if n1 then -x else x) < (if n2 then -y else y))
  | _, _ => false

/-- Whether `a = b`, for values that are not NaNs; the zeros are equal. -/
def eqVal (a b : FVal) : Bool := !isNaN a && !isNaN b && !ltVal a b && !ltVal b a

/-- FMIN and FMAX (R91): −0 below +0, a NaN operand gives the canonical NaN, NV only for a signalling one. The operands
come with their bits, since one of them is the result. -/
def fminmax (f : Fmt) (max : Bool) (a b : Nat) : FOut :=
  let x := fval f a
  let y := fval f b
  if isNaN x || isNaN y then nanOut f [x, y] false
  else
    let less := ltVal x y || (isZero x && isZero y && isNeg x && !isNeg y)
    outOf f [x, y] (if less != max then a else b, 0)

/-- The conversion of a value to an integer of `n` bits (R90), saturating, as a number of `n` bits. -/
def toInt (signed : Bool) (n : Nat) (mode : BitVec 3) (v : FVal) : Nat × BitVec 5 :=
  let lo : Int := if signed then -(2 ^ (n - 1)) else 0
  let hi : Int := if signed then 2 ^ (n - 1) - 1 else 2 ^ n - 1
  match v with
  | .nan _ => (0, flagNV)
  | .inf neg => (ofSigned n (if neg then lo else hi), flagNV)
  | .fin neg m e =>
    let (r, inexact) := roundShift mode neg m false (-e)
    let i : Int := if neg then -(r : Int) else r
    if i < lo then (ofSigned n lo, flagNV)
    else if hi < i then (ofSigned n hi, flagNV)
    else (ofSigned n i, if inexact then flagNX else 0)

/-- The kind bit of FCLASS (R185). -/
def classBit (f : Fmt) (b : Nat) : Nat :=
  match fval f b with
  | .nan s => if s then 5 else 4
  | .inf _ => 3
  | .fin _ m _ => if m = 0 then 0 else if b / 2 ^ fmtFrac f % 2 ^ fmtExp f = 0 then 1 else 2

end Sys2Proof.Machine
end

