-- ==== Sys2Proof/Machine/Atomics.lean ====
section
/-!
DEFINITION. Majors 0x18 to 0x1A: atomics (R63, R64, R115, R169, R170, R208 to R212).
-/

namespace Sys2Proof.Machine

/-- Bytes an atomic reads and writes (R169, R210). -/
def AtomOp.bytes (a : AtomOp) : Nat :=
  if a.wide then 16
  else if a.fn.toNat < 0x10 then (if a.ty = 0 then 8 else 4)
  else if a.fn.toNat < 0x14 then (match a.ty.toNat with | 0 => 8 | 1 => 4 | _ => 2)
  else (if a.ty = 1 then 8 else 4)

/-- The format of a floating atomic (R169). -/
def AtomOp.fmt (a : AtomOp) : Fmt :=
  match a.ty.toNat with
  | 0 => .f64 | 1 => .f32 | _ => .bf16

/-- A floating atomic function on one element (R209): FADD in RNE, FMIN and FMAX under R91. -/
def atomFloat (f : Fmt) (fn : Nat) (old op : Nat) : FOut :=
  if fn = 0 then fadd f 0 (fval f old) (fval f op) else fminmax f (fn == 2) old op

/-- What the home makes of the old value (R209): the new value, and the results whose events it counts. -/
def AtomOp.apply (a : AtomOp) (old : Nat) : Nat × List (Fmt × FOut) :=
  let n := 8 * a.bytes
  let op := a.op.toNat % 2 ^ n
  let cmp := a.cmp.toNat % 2 ^ n
  let w (v : Nat) : BitVec 64 := BitVec.ofNat 64 v
  match a.fn.toNat with
  | 0x00 => ((old + op) % 2 ^ n, [])
  | 0x01 => ((w old &&& w op).toNat, [])
  | 0x02 => ((w old ||| w op).toNat, [])
  | 0x03 => ((w old ^^^ w op).toNat, [])
  | 0x04 => (if toSigned n old < toSigned n op then old else op, [])
  | 0x05 => (if toSigned n old < toSigned n op then op else old, [])
  | 0x06 => (min old op, [])
  | 0x07 => (max old op, [])
  | 0x08 => (op, [])
  | 0x09 => (if old = cmp then op else old, [])
  | 0x0A => (if old < op then old + 1 else old, [])
  | 0x0B => (old - 1, [])
  | k =>
    if k < 0x14 then
      let r := atomFloat a.fmt (k - 0x10) old op
      (r.bits, [(a.fmt, r)])
    else
      let h := fmtWidth a.fmt
      let lo := atomFloat a.fmt (k - 0x14) (old % 2 ^ h) (op % 2 ^ h)
      let hi := atomFloat a.fmt (k - 0x14) (old / 2 ^ h % 2 ^ h) (op / 2 ^ h % 2 ^ h)
      (lo.bits + hi.bits * 2 ^ h, [(a.fmt, lo), (a.fmt, hi)])

/-- The registers an atomic of a function reads (R169, R208): address or index, operands, comparand, view. -/
def atomSrcs (fn : Nat) (o : Atomic) : List (RegName × Bool) :=
  let d := fn == 0x0B
  let cas := fn == 0x09
  if o.view then
    [(.x o.rb, false), (.w (o.rc.extractLsb' 2 3), false)] ++ (if d then [] else [(.x o.ra, false)]) ++
      (if cas then [(.x (o.ra + 1), false)] else [])
  else [(.x o.rb, false)] ++ (if d then [] else [(.x o.rc, false)]) ++ (if cas then [(.x o.ra, false)] else [])

/-- The operation of an atomic with its operands read (R169, R208). -/
def atomOp (c : Ctx) (fn : Nat) (o : Atomic) : AtomOp where
  fn := BitVec.ofNat 5 fn
  ty := o.mode
  wide := false
  op := (c.readX (if o.view then (if fn = 0x09 then o.ra + 1 else o.ra) else o.rc)).setWidth 128
  cmp := (c.readX o.ra).setWidth 128

/-- The address of an atomic: a base register, or a view and an index (R77, R210). -/
def atomAddr (c : Ctx) (view : Bool) (rb rc : BitVec 5) (n : Nat) : Except FaultInfo (Word × Option View) :=
  if view then
    let v := c.readW (rc.extractLsb' 2 3)
    match viewCheck v .a (c.readX rb) n n with
    | .error f => .error f
    | .ok va => .ok (va, some v)
  else .ok (c.readX rb, none)

/-- The request an atomic makes of its home (R63, R64). -/
def atomReq (s : State) (asker : Asker) (a : AtomOp) (va : Word) (acc : Acc) (region : Option (BitVec 24))
    (strong : Option Scope) : MemReq where
  asker := asker
  op := .atomic a
  va := va
  pa := acc.pa
  key := leafKey acc.leaf
  region := region
  tag := s.tagOf s.cur.1
  node := s.cur.1
  rcb := s.ctx.region.rcb
  energyAt := s.ctx.region.energyAt
  clusDone := false
  strong := strong
  chip := leafChip acc.leaf
  target := leafTgt acc.leaf

/-- A request sent: to a remote target, or into the network (R61, R337). -/
def State.sendReq (s : State) (r : MemReq) : State :=
  if r.target != 0 then { s with remote := s.remote ++ [r] } else { s with net := s.net ++ [r] }

/-- The content of an atomic as a pair's router compares it (R393). -/
def atomDigest (va : Word) (a : AtomOp) : List Nat := [1, va.toNat, a.fn.toNat, a.ty.toNat, num a.wide, a.op.toNat, a.cmp.toNat]

/-- A return atomic by the acting context (R115, R209, R210): checked, then sent, its destination empty until the old
value arrives. -/
def State.atomReturn (s : State) (sc : Scope) (a : AtomOp) (va : Word) (view : Option View) (dest : Dest) (fin : Finish) :
    Did :=
  let n := a.bytes
  if va.toNat % n ≠ 0 then .fault s (atAddr .align va)
  else if (view.isSome || !inWindows va) && s.me.pageLogged va then s.stallLog va 2 dest
  else match s.access s.cur.1 .atom va n n view.isSome with
    | (.fault f, s) => .fault s f
    | (.busy, s) => .stay s
    | (.miss, s) => s.stallMiss va 2 dest
    | (.ok acc, s) =>
      if !s.strongReady sc || !s.storesHome va n || s.loadOpen va n || s.atomicOpen va n then .stay s
      else
        let s := if acc.place = .dram then s.dropCopies s.cur.1 acc.pa else s
        let (seq, s) := s.nextSeq
        let p : Piece := ⟨0, va, n, acc.pa, leafKey acc.leaf, false, acc.place == .remote, 0, 0, none⟩
        let s := s.modCtx fun c => { c.markDest dest false with
          pends := c.pends ++ [⟨seq, dest, [p], fin, true, none, c.pc, true, some sc, view.map fun v => (v.handle, v.region)⟩] }
        let s := s.pairNote s.cur.1 s.cur.2 seq (atomDigest va a)
        .done (s.sendReq (atomReq s (.atomic s.cur.1 s.cur.2 seq) a va acc (view.map (·.region)) (some sc)))

/-- How the old value of an atomic becomes a register (R209). -/
def atomFinish (fn : Nat) (a : AtomOp) : Finish := .old a.bytes (decide (fn < 0x10))

/-- ATOM (R208 to R210). -/
def atomRet (fn : Nat) (o : Atomic) : State → Out :=
  issue { scope := true, srcs := atomSrcs fn o, dests := [.x o.ra] } fun s =>
    let a := atomOp s.ctx fn o
    match atomAddr s.ctx o.view o.rb o.rc a.bytes with
    | .error f => .fault s f
    | .ok (va, v) => s.atomReturn (s.ctx.scopeOr o.scope) a va v (if o.ra = 0 then .none else .x o.ra) (atomFinish fn a)

/-- The side-log entry of a no-return atomic (R352): for CAS the comparand below the new value. -/
def sideAtom (s : State) (sc : Scope) (a : AtomOp) (va : Word) (view : Option View) (seq : Nat) (index : Option Nat)
    (mapped : Bool) : SideEntry where
  op := 2
  ctx := s.cur.2
  sent := false
  mask := firstBytes a.bytes <<< (va.toNat % 16)
  va := va - BitVec.ofNat 64 (va.toNat % 16)
  data := if a.fn = 0x09 then a.op.setWidth 64 ++ a.cmp.setWidth 64 else a.op
  atom := some a
  scope := sc
  view := view.map fun v => (v.handle, v.region)
  seq := seq
  pc := s.ctx.pc
  mapped := mapped
  index := index
  rcb := s.ctx.region.rcb
  domain := s.ctx.region.domain

/-- A no-return atomic whose page has no mapping (R200): into the side log, or XSTALL when it is full. -/
def State.logAtom (s : State) (sc : Scope) (a : AtomOp) (va : Word) (view : Option View) : Did :=
  let slot := s.me.sideLog.length
  if 32 ≤ slot then s.stallFull va
  else
    let known := s.me.sideLog.find? fun e => !e.sent && e.va.toNat / 2 ^ 16 == va.toNat / 2 ^ 16
    let (i, s) := match known with
      | some e => (e.index, s)
      | none => s.openMiss ⟨s.tagOf s.cur.1, va.extractLsb' 16 48, 4, va, s.cur.1, s.cur.2, BitVec.ofNat 5 slot⟩
    let (seq, s) := s.nextSeq
    .done ((s.modMe fun c => { c with
      sideLog := c.sideLog ++ [sideAtom s sc a va view seq i (known.any (·.mapped))] }).pairNote s.cur.1 s.cur.2 seq (atomDigest va a))

/-- A no-return atomic by the acting context (R115, R200, R211): into the atomic queue, or behind it the spill ring. -/
def State.atomNoReturn (s : State) (sc : Scope) (a : AtomOp) (va : Word) (view : Option View) : Did :=
  let n := a.bytes
  if va.toNat % n ≠ 0 then .fault s (atAddr .align va)
  else if (view.isSome || !inWindows va) && s.me.pageLogged va then s.logAtom sc a va view
  else match s.access s.cur.1 .atn va n n view.isSome with
    | (.fault f, s) => .fault s f
    | (.busy, s) => .stay s
    | (.miss, s) => s.logAtom sc a va view
    | (.ok acc, s) =>
      let e : AtomEntry := ⟨s.seq, s.cur.2, va, acc.pa, leafKey acc.leaf, acc.place == .remote,
        view.map fun v => (v.handle, v.region), a, sc, s.ctx.pc, s.ctx.region.rcb,
        acc.leaf, s.ctx.region.energyAt⟩
      let note (s : State) : State := s.pairNote s.cur.1 s.cur.2 e.seq (atomDigest va a)
      if s.me.atomQ.length < 8 then
        if !s.storesHome va n then .stay s
        else .done (note { s.modMe (fun c => { c with atomQ := c.atomQ ++ [e] }) with seq := s.seq + 1 })
      else if s.me.spill.length < 256 then
        if !s.storesHome va n then .stay s
        else .done (note { (s.modMe fun c => { c with spill := c.spill ++ [.atom e] }).note (.spilled s.cur.1) with seq := s.seq + 1 })
      else .fault s (plain .outboxOverflow)

/-- ATN (R208, R211). -/
def atomNo (fn : Nat) (o : Atomic) : State → Out :=
  issue { scope := true, srcs := atomSrcs fn o } fun s =>
    let a := atomOp s.ctx fn o
    match atomAddr s.ctx o.view o.rb o.rc a.bytes with
    | .error f => .fault s f
    | .ok (va, v) => s.atomNoReturn (s.ctx.scopeOr o.scope) a va v


/-- ATOM.ADD (R209). -/
def execAtomAdd (o : Atomic) : State → Out := atomRet 0x00 o
/-- ATOM.AND (R209). -/
def execAtomAnd (o : Atomic) : State → Out := atomRet 0x01 o
/-- ATOM.OR (R209). -/
def execAtomOr (o : Atomic) : State → Out := atomRet 0x02 o
/-- ATOM.XOR (R209). -/
def execAtomXor (o : Atomic) : State → Out := atomRet 0x03 o
/-- ATOM.MIN (R209). -/
def execAtomMin (o : Atomic) : State → Out := atomRet 0x04 o
/-- ATOM.MAX (R209). -/
def execAtomMax (o : Atomic) : State → Out := atomRet 0x05 o
/-- ATOM.MINU (R209). -/
def execAtomMinu (o : Atomic) : State → Out := atomRet 0x06 o
/-- ATOM.MAXU (R209). -/
def execAtomMaxu (o : Atomic) : State → Out := atomRet 0x07 o
/-- ATOM.SWAP (R209). -/
def execAtomSwap (o : Atomic) : State → Out := atomRet 0x08 o
/-- ATOM.CAS (R209). -/
def execAtomCas (o : Atomic) : State → Out := atomRet 0x09 o
/-- ATOM.INCB (R209). -/
def execAtomIncb (o : Atomic) : State → Out := atomRet 0x0A o
/-- ATOM.DECB (R209). -/
def execAtomDecb (o : Atomic) : State → Out := atomRet 0x0B o
/-- ATOM.FADD (R209). -/
def execAtomFadd (o : Atomic) : State → Out := atomRet 0x10 o
/-- ATOM.FMIN (R209). -/
def execAtomFmin (o : Atomic) : State → Out := atomRet 0x11 o
/-- ATOM.FMAX (R209). -/
def execAtomFmax (o : Atomic) : State → Out := atomRet 0x12 o
/-- ATOM.FADDP2 (R209). -/
def execAtomFaddP2 (o : Atomic) : State → Out := atomRet 0x14 o
/-- ATOM.FMINP2 (R209). -/
def execAtomFminP2 (o : Atomic) : State → Out := atomRet 0x15 o
/-- ATOM.FMAXP2 (R209). -/
def execAtomFmaxP2 (o : Atomic) : State → Out := atomRet 0x16 o
/-- ATN.ADD (R209, R211). -/
def execAtnAdd (o : Atomic) : State → Out := atomNo 0x00 o
/-- ATN.AND (R209, R211). -/
def execAtnAnd (o : Atomic) : State → Out := atomNo 0x01 o
/-- ATN.OR (R209, R211). -/
def execAtnOr (o : Atomic) : State → Out := atomNo 0x02 o
/-- ATN.XOR (R209, R211). -/
def execAtnXor (o : Atomic) : State → Out := atomNo 0x03 o
/-- ATN.MIN (R209, R211). -/
def execAtnMin (o : Atomic) : State → Out := atomNo 0x04 o
/-- ATN.MAX (R209, R211). -/
def execAtnMax (o : Atomic) : State → Out := atomNo 0x05 o
/-- ATN.MINU (R209, R211). -/
def execAtnMinu (o : Atomic) : State → Out := atomNo 0x06 o
/-- ATN.MAXU (R209, R211). -/
def execAtnMaxu (o : Atomic) : State → Out := atomNo 0x07 o
/-- ATN.SWAP (R209, R211). -/
def execAtnSwap (o : Atomic) : State → Out := atomNo 0x08 o
/-- ATN.CAS (R209, R211). -/
def execAtnCas (o : Atomic) : State → Out := atomNo 0x09 o
/-- ATN.INCB (R209, R211). -/
def execAtnIncb (o : Atomic) : State → Out := atomNo 0x0A o
/-- ATN.DECB (R209, R211). -/
def execAtnDecb (o : Atomic) : State → Out := atomNo 0x0B o
/-- ATN.FADD (R209, R211). -/
def execAtnFadd (o : Atomic) : State → Out := atomNo 0x10 o
/-- ATN.FMIN (R209, R211). -/
def execAtnFmin (o : Atomic) : State → Out := atomNo 0x11 o
/-- ATN.FMAX (R209, R211). -/
def execAtnFmax (o : Atomic) : State → Out := atomNo 0x12 o
/-- ATN.FADDP2 (R209, R211). -/
def execAtnFaddP2 (o : Atomic) : State → Out := atomNo 0x14 o
/-- ATN.FMINP2 (R209, R211). -/
def execAtnFminP2 (o : Atomic) : State → Out := atomNo 0x15 o
/-- ATN.FMAXP2 (R209, R211). -/
def execAtnFmaxP2 (o : Atomic) : State → Out := atomNo 0x16 o

/-- CAS128 (R170, R212): 16 bytes at once; both destinations empty until the old pair arrives. -/
def execCas128 (o : Cas128) : State → Out :=
  issue { scope := true,
          srcs := [(.x o.rb, false), (.x o.ra, false), (.x (o.ra + 1), false)] ++
            (if o.view then [(.x (o.ra + 2), false), (.x (o.ra + 3), false), (.w (o.rc.extractLsb' 2 3), false)]
             else [(.x o.rc, false), (.x (o.rc + 1), false)]),
          dests := [.x o.ra, .x (o.ra + 1)] } fun s =>
    let c := s.ctx
    let n := if o.view then o.ra + 2 else o.rc
    let a : AtomOp := ⟨0x09, 0, true, c.readX (n + 1) ++ c.readX n, c.readX (o.ra + 1) ++ c.readX o.ra⟩
    match atomAddr c o.view o.rb o.rc 16 with
    | .error f => .fault s f
    | .ok (va, v) => s.atomReturn (c.scopeOr o.scope) a va v (.xx o.ra (o.ra + 1)) .pair

end Sys2Proof.Machine
end

