-- ==== Sys2Proof/Machine/Quant.lean ====
section
/-!
DEFINITION. The block formats CQ4 and BX16 (R95 to R100): decoding an element, and quantising a block of 256.
-/

namespace Sys2Proof.Machine

/-- Level of an index in a codebook of INT8 bytes (R95, R276). -/
def levelOf (book : List Byte) (i : Nat) : Int := (book.getD i 0).toInt

/-- The exact product of an integer and a super-scale, by the IEEE rules when the scale is no number (R95; entry 9). An integer
of 0 counts as +0, so its product with a negative scale is -0 (entry 81). -/
def scaled (q : Int) (s : FVal) : FVal := (mulVal (intVal q) s).getD (.nan (isSNaN s))

/-- The integer q of element `j` of a CQ4 super-block given as its 136 bytes (R95). -/
def cq4Int (block : List Byte) (j : Nat) : Int :=
  let byte := (block.getD (j / 2) 0).toNat
  let idx := if j % 2 = 0 then byte % 16 else byte / 16
  Config.standardLevels.getD idx 0 * (block.getD (128 + j / 64) 0).toNat

/-- The super-scale of a CQ4 super-block (R95). -/
def cq4Scale (block : List Byte) : FVal := fval .f32 (ofBytes ((block.drop 132).take 4))

/-- The significand of element `j` of a BX16 block (R98). -/
def bx16Int (block : List Byte) (j : Nat) : Int := toSigned 16 (ofBytes ((block.drop (2 * j)).take 2))

/-- The value of element `j` of a BX16 block (R98). -/
def bx16Val (block : List Byte) (j : Nat) : FVal :=
  let q := bx16Int block j
  .fin (decide (q < 0)) q.natAbs ((block.getD 512 0).toNat - 141)

/-- Magnitude and sign of a finite value in units of `2 ^ e`, for an `e` no higher than its exponent. -/
def inUnits (e : Int) : FVal → Int
  | .fin n m x => let a : Int := m * 2 ^ (x - e).toNat; if n then -a else a
  | _ => 0

/-- The index of the level nearest to `x / q`; on a tie, the level of smaller magnitude (R97). -/
def nearestLevel (x q : Int) : Nat :=
  let better (a b : Nat) : Nat :=
    let la := Config.standardLevels.getD a 0
    let lb := Config.standardLevels.getD b 0
    let da := (x - la * q).natAbs
    let db := (x - lb * q).natAbs
    if db < da || (db == da && lb.natAbs < la.natAbs) then b else a
  (List.range 16).foldl better 8

/-- The three results of Quant in R97: indices, underflow count, squared error. -/
def quantBlock (xs : List Int) (scale : Int) (u : Nat) : List Nat × Nat × Int :=
  let idx := xs.map (nearestLevel · scale)
  let lv := idx.map (Config.standardLevels.getD · 0)
  let c := u + ((xs.zip lv).filter fun p => p.1 != 0 && p.2 == 0).length
  let e := ((xs.zip lv).map fun p => (p.1 - p.2 * scale) * (p.1 - p.2 * scale)).sum
  (idx, c, e)

/-- One block of R97 in common units, `s` the super-scale in those units: scale byte, indices, count. -/
def quantCq4Block (xs : List Int) (s : Int) (u limit : Nat) : Nat × List Nat × Nat :=
  let m := xs.foldl (fun a x => max a x.natAbs) 0
  if m = 0 || s = 0 then (0, xs.map fun _ => 8, u)
  else
    let d := 127 * s.natAbs
    let s1 := min 255 (max 1 ((m + d - 1) / d))
    let (i1, c1, e1) := quantBlock xs (s1 * s) u
    if limit < c1 && 2 ≤ s1 then
      let s2 := max 1 (s1 / 8)
      let (i2, c2, e2) := quantBlock xs (s2 * s) u
      if e2 < e1 then (s2, i2, c2) else (s1, i1, c1)
    else (s1, i1, c1)

/-- A NaN or an infinity enters a quantiser as 0 (R97, R99). -/
def finiteOrZero (v : FVal) : FVal := if isFinite v then v else .fin false 0 0

/-- The exponent of a value. -/
def expOf : FVal → Int
  | .fin _ _ e => e
  | _ => 0

/-- Quantising 256 values into a CQ4 super-block (R97): its 136 bytes, the chosen count of each block, the flags. -/
def quantCq4 (vals : List FVal) (u : List Nat) (limit : Nat) : List Byte × List Nat × BitVec 5 :=
  let nv := vals.any fun v => !isFinite v
  let vs := vals.map finiteOrZero
  let e0 := vs.foldl (fun a v => min a (expOf v)) 0
  let mx := (vs.map fun v => (inUnits e0 v).natAbs).foldl max 0
  let sb := if mx = 0 then 0 else
    let (q, k, st) := quotient mx 32385
    (roundTo .f32 2 false q (e0 + k) st).1
  let sv := fval .f32 sb
  let e := min e0 (expOf sv)
  let s := inUnits e sv
  let xs := vs.map (inUnits e)
  let blocks := (List.range 4).map fun b => quantCq4Block ((xs.drop (64 * b)).take 64) s (u.getD b 0) limit
  let idx := (blocks.map fun b => b.2.1).flatten
  let nibbles := (List.range 128).map fun i => BitVec.ofNat 8 (idx.getD (2 * i) 8 + 16 * idx.getD (2 * i + 1) 8)
  let exact := (List.range 256).all fun j =>
    xs.getD j 0 == Config.standardLevels.getD (idx.getD j 8) 0 * (blocks.getD (j / 64) (0, [], 0)).1 * s
  (nibbles ++ blocks.map (fun b => BitVec.ofNat 8 b.1) ++ toBytes 4 sb,
    blocks.map fun b => min 255 b.2.2,
    (if nv then flagNV else 0) ||| (if exact then 0 else flagNX))

/-- Quantising 256 values into a BX16 block (R99): its 516 bytes and the flags. `freeExp` stands for an exponent byte
past 255, which only a source wider than R99's can ask for (entry 10). -/
def quantBx16 (freeExp : Nat) (vals : List FVal) : List Byte × BitVec 5 :=
  let nv := vals.any fun v => !isFinite v
  let vs := vals.map finiteOrZero
  let nvf : BitVec 5 := if nv then flagNV else 0
  let top := vs.foldl (fun (a : Option Int) v =>
    match v with
    | .fin _ m e => if m = 0 then a else some (match a with | none => e + bitLen m - 1 | some b => max b (e + bitLen m - 1))
    | _ => a) none
  match top with
  | none => (List.replicate 516 0, nvf)
  | some t =>
    let eb : Nat := if 255 < t + 127 then freeExp % 256 else (max 0 (t + 127)).toNat
    let qs := vs.map fun v =>
      match v with
      | .fin n m e =>
        let (r, inexact) := roundShift 0 n m false (-(e + 141 - eb))
        let r' := min r 32767
        (m != 0 && r' == 0, inexact || r != r', if n then -(r' : Int) else r')
      | _ => (false, false, 0)
    let under := min 255 ((qs.filter fun q => q.1).length)
    ((qs.map fun q => toBytes 2 (ofSigned 16 q.2.2)).flatten ++
      [BitVec.ofNat 8 eb, BitVec.ofNat 8 under, 0, 0],
      nvf ||| (if qs.any fun q => q.2.1 then flagNX else 0))

end Sys2Proof.Machine
end

