-- ==== Sys2Proof/Machine/Home.lean ====
section
/-!
DEFINITION. What happens at a home: DRAM reads, writes and atomics with zero-on-first-touch (R70), migration holds (R356),
poison (R202); the L2's ways, monitors and charges (R49, R382, R383, R399).
-/

namespace Sys2Proof.Machine

/-! ## Charges (R399, R401) -/

/-- A weight in units of 1/16 pJ (R399). -/
def State.weight (s : State) (stack cls : Nat) : Nat := bits (s.devReg (.chgw stack cls)) 23 0

/-- A stack charged for `n` of a class (R401): USED in microjoules, THR when it reaches ALLOT. -/
def State.chargeStack (s : State) (stack cls n : Nat) : State :=
  let t := s.stack stack
  let pj := t.usedPj + n * s.weight stack cls
  let used := pj / 16000000
  let allot := bits (s.devReg (.estk stack)) 63 32
  s.modStack stack fun t => { t with usedPj := pj, used := used, throttled := t.throttled || decide (allot ≤ used) }

/-- Deltas per block with an amount added. -/
def addDelta {κ : Type} [DecidableEq κ] (ds : List (κ × Nat)) (k : κ) (n : Nat) : List (κ × Nat) :=
  if n = 0 then ds else insertKey k (lookupKey 0 k ds + n) ds

/-- A slice's charge to a block (R399). -/
def State.chargeSlice (s : State) (stack slice cls n tag : Nat) (at_ : Word) : State :=
  (s.chargeStack stack cls n).modStack stack (·.modSlice slice fun l =>
    { l with energy := addDelta l.energy (tag, at_) (n * s.weight stack cls) })

/-! ## The L2 (R49, R382, R383) -/

/-- The valid monitor slot of the pound a core belongs to (R382); a core outside every pound has none. -/
def State.monitorOf (s : State) (l : Slice) (node : Nat) : Option Nat :=
  (s.poundOf (clusterOf node)).bind fun p =>
    (List.range 4).find? fun k =>
      let w := l.waymon.getD k 0
      w.getLsbD 63 && bits w 12 0 == bits p.record.node 12 0

/-- The owner of a way (R382): a monitor slot, or none for shared. -/
def wayOwner (own : BitVec 48) (w : Nat) : Option Nat :=
  let o := bits own (3 * w + 2) (3 * w)
  if o < 4 then some o else none

/-- The ways a fill may replace in (R382). -/
def fillWays (own : BitVec 48) (k : Option Nat) : List Nat :=
  let all := List.range 16
  let mine := all.filter fun w => k.isSome && wayOwner own w == k
  let shared := all.filter fun w => wayOwner own w == none
  if !mine.isEmpty then mine else if !shared.isEmpty then shared else all

/-- The way a fill takes (R382): a way without a line of the set, else the least recently used among the candidates. -/
def pickWay (set : List L2Line) (cand : List Nat) : Nat :=
  match cand.find? fun w => set.all (·.way != w) with
  | some w => w
  | none =>
    let lru := cand.foldl (fun (b : Option (Nat × Nat)) w =>
      let u := ((set.find? (·.way == w)).map (·.used)).getD 0
      match b with
      | some (_, v) => if u < v then some (w, u) else b
      | none => some (w, u)) none
    (lru.map (·.1)).getD 0

/-- The shadow stack of a sampled set after an access, and the depth of its hit (R383). -/
def shadowTouch (st : List Nat) (tag : Nat) : List Nat × Option Nat :=
  let d := st.findIdx (· == tag)
  ((tag :: st.filter (· != tag)).take 16, if d < st.length then some (d + 1) else none)

/-- A slice's monitors fed with an access (R383). -/
def Slice.monitor (l : Slice) (k : Option Nat) (pa : Nat) : Slice :=
  match k with
  | none => l
  | some k =>
    let set := paSet pa
    if set % 128 ≠ bits (l.waymon.getD k 0) 46 40 then l
    else
      let (st, d) := shadowTouch (lookupKey [] (k, set) l.shadow) (lineOf pa)
      let l := { l with shadow := insertKey (k, set) st l.shadow }
      match d with
      | none => l
      | some d =>
        let h := l.hits.getD k (Vector.replicate 17 0)
        { l with hits := l.hits.setIfInBounds k (h.setIfInBounds d (h.getD d 0 + 1)) }

/-- An access to a line at its slice: found in any way under its key slot, or filled by the rules of R382; charged as R399
says. -/
def State.touchLine (s : State) (pa key node : Nat) (write : Bool) (tag : Nat) (energyAt : Word) : State :=
  let t := paStack pa
  let i := paSlice pa
  let l := (s.stack t).slice i
  let k := s.monitorOf l node
  let l := l.monitor k pa
  let now := l.clock + 1
  let hit := l.lines.any fun x => x.pa == lineOf pa && x.key == key
  let set := l.lines.filter fun x => paSet x.pa == paSet pa
  let lines :=
    if hit then l.lines.map fun x => if x.pa = lineOf pa then { x with used := now, dirty := x.dirty || write } else x
    else
      let w := pickWay (set.filter (·.pa != lineOf pa)) (fillWays l.wayown k)
      ⟨lineOf pa, key, w, write, now⟩ :: l.lines.filter fun x => !(x.pa == lineOf pa || (paSet x.pa == paSet pa && x.way == w))
  let s := s.modStack t (·.modSlice i fun _ => { l with lines := lines, clock := now })
  let s := s.chargeSlice t i 6 1 tag energyAt
  if hit then s else s.chargeSlice t i 7 1 tag energyAt

/-! ## Migration (R355, R356) -/

/-- Masked bytes written at a home slice (R355, R356): held while the page migrates, to the new frame once it forwards. -/
def State.homeWrite (s : State) (r : MemReq) (mask : BitVec 16) (data : BitVec 128) : State :=
  match s.migOf r.pa with
  | none => s.writeDram r.pa r.key mask data.toNat
  | some (t, e, m) =>
    if m.state == .forward then
      if leafTgt m.dst = 0 then s.writeDram (newAddr m r.pa) (leafKey m.dst) mask data.toNat
      else { s with remote := s.remote ++ [{ r with op := .write mask data, pa := newAddr m r.pa, chip := leafChip m.dst, target := leafTgt m.dst }] }
    else s.modStack t (·.modMig e fun m => { m with held := m.held ++ [{ r with op := .write mask data }] })

/-- Bytes written at the home slices, one at a time; `r` says who writes. -/
def State.homeWriteN (s : State) (r : MemReq) (pa : Nat) : List Byte → State
  | [] => s
  | b :: bs => (s.homeWrite { r with pa := pa } 1 (b.setWidth 128)).homeWriteN r (pa + 1) bs

/-! ## Zero on first touch (R70) -/

/-- The Colander's stack of a region identifier (R69). -/
def regionStack (r : BitVec 24) : Nat := r.toNat / 2 ^ 22

/-- Whether a request reaches a span whose bit is set, and its place in the Colander's list (R70). -/
def State.firstTouch (s : State) (r : MemReq) : Option (Nat × Nat × Nat) :=
  r.region.bind fun g =>
    let t := regionStack g
    let sp := (r.tag.toNat, r.va.toNat / 1024)
    if (s.stack t).colander.zero.contains sp then some (t, sp) else none

/-- The first write to a span zeroes the rest of it and clears the bit (R70). -/
def State.zeroSpan (s : State) (r : MemReq) : State :=
  match s.firstTouch r with
  | none => s
  | some (t, sp) =>
    let base := r.pa - r.va.toNat % 1024
    let s := (List.range 64).foldl (fun s i =>
      s.homeWrite { r with pa := base + 16 * i } (BitVec.allOnes 16) 0) s
    s.modStack t fun k => { k with colander := { k.colander with zero := k.colander.zero.filter (· != sp) } }

/-- Whether the data of a request come marked as uncorrectable (R202, R389); a span never touched is not read (R70). -/
def State.reqPoisoned (s : State) (r : MemReq) : Bool :=
  (s.linePoisoned r.pa && (s.firstTouch r).isNone) || (match s.poundOfTag r.tag.toNat with
    | some p => p.trust == .error
    | none => false)

/-! ## Engine writes (R100, R281, R282) -/

/-- Width in bytes of an element of a plain format (R65). -/
def elemBytes (fmt : Nat) : Nat :=
  match fmt with
  | 2 | 3 | 7 => 2
  | 4 => 4
  | 8 => 8
  | _ => 1

/-- An element's value in a plain format (R65): RAW and S8 as S8. -/
def elemVal (fmt : Nat) (b : Nat) : FVal :=
  match fmt with
  | 2 => intVal (toSigned 16 b)
  | 3 => fval .bf16 b
  | 4 => fval .f32 b
  | 7 => fval .f16 b
  | 8 => fval .f64 b
  | _ => intVal (toSigned 8 b)

/-- The floating format of a plain format code (R65). -/
def elemFmt (fmt : Nat) : Option Fmt :=
  match fmt with
  | 3 => some .bf16
  | 4 => some .f32
  | 7 => some .f16
  | 8 => some .f64
  | _ => none

/-- A value rounded to an integer in a mode (R282): NaN gives 0, and an infinity what saturates any format. -/
def intOf (rm : BitVec 3) : FVal → Int
  | .nan _ => 0
  | .inf n => if n then -(2 ^ 64) else 2 ^ 64
  | .fin n m e => let r : Int := (roundShift rm n m false (-e)).1; if n then -r else r

/-- A value put into a plain format with a mode (R90, R281, R282). -/
def elemPut (fmt : Nat) (rm : BitVec 3) (v : FVal) : FOut :=
  match elemFmt fmt with
  | some f => roundVal f rm v
  | none => let n := 8 * elemBytes fmt; ⟨ofSigned n (satS n (intOf rm v)), 0, 0⟩

/-- The sum of an element and a value, rounded once to the element's format (R282); a value enters an integer sum rounded
to an integer. -/
def elemAdd (fmt : Nat) (rm : BitVec 3) (old : Nat) (v : FVal) : FOut :=
  match elemFmt fmt with
  | some f => fadd f rm (fval f old) v
  | none => let n := 8 * elemBytes fmt; ⟨ofSigned n (satS n (toSigned n old + intOf rm v)), 0, 0⟩

end Sys2Proof.Machine
end

