-- ==== Sys2Proof/Machine/Memory.lean ====
section
/-!
DEFINITION. Majors 0x10 to 0x17: loads, stores, prefetch and the keeper's cache, TLB and bank words (R199 to R207, R216 to
R219).
-/

namespace Sys2Proof.Machine

/-- Where a scalar load's value goes; x0 discards it (R203). -/
def destX (r : BitVec 5) : Dest := if r = 0 then .none else .x r

/-- LD (R203). -/
def execLd (o : MemM) : State → Out :=
  issue { imm := true, cpol := true, srcs := [(.x o.base, o.ea)], dests := [.x o.rt] } fun s =>
    let n := modeBytes o.mode
    s.load s.ctx.weakWay n (destX o.rt) (.load n (decide (o.mode.toNat < 4))) none [(0, s.ctx.memAddr o.base o.off n, n)]

/-- ST (R203): the low bytes of rt into the store buffer. -/
def execSt (o : MemM) : State → Out :=
  issue { imm := true, cpol := true, srcs := [(.x o.base, o.ea), (.x o.rt, false)] } fun s =>
    let n := modeBytes o.mode
    s.store false n none [(s.ctx.memAddr o.base o.off n, n, firstBytes n, (s.ctx.readX o.rt).setWidth 128)]

/-- LDS (R114, R204): strong at its scope, sign-extending. -/
def execLds (o : MemS) : State → Out :=
  issue { imm := true, scope := true, cpol := true, srcs := [(.x o.base, o.ea)], dests := [.x o.rt] } fun s =>
    let n := sizeBytes o.size
    let va := s.ctx.memAddr o.base o.off n
    let sc := s.ctx.scopeOr o.scope
    if !s.strongReady sc || !s.storesHome va n then .stay s
    else s.load { s.ctx.weakWay with strong := some sc } n (destX o.rt) (.load n true) none [(0, va, n)]

/-- A strong store of `n` bytes (R114, R201, R204). -/
def State.strongStore (s : State) (sc : Scope) (va : Word) (n : Nat) (data : Word) : Did :=
  if !s.strongReady sc then .stay s
  else match s.storeCheck va n n (firstBytes n) true false .none with
    | (.inl d, _) => d
    | (.inr .log, s) => .stay s
    | (.inr (.buffer a), s) =>
      if bufferSize ≤ s.me.stores.length then .stay s
      else .done (s.bufferStore va n (firstBytes n) (data.setWidth 128) a (some sc) none)

/-- STS (R114, R204). -/
def execSts (o : MemS) : State → Out :=
  issue { imm := true, scope := true, cpol := true, srcs := [(.x o.base, o.ea), (.x o.rt, false)] } fun s =>
    let n := sizeBytes o.size
    s.strongStore (s.ctx.scopeOr o.scope) (s.ctx.memAddr o.base o.off n) n (s.ctx.readX o.rt)

/-- LDV (R77, R206). -/
def execLdv (o : ViewLd) : State → Out :=
  issue { cpol := true, srcs := [(.x o.ra, o.ea), (.w o.view, o.eb)], dests := [.x o.rd] } fun s =>
    let n := szBits o.sz / 8
    let v := s.ctx.readW o.view
    match viewCheck v .r (s.ctx.readX o.ra) n n with
    | .error f => .fault s f
    | .ok va => s.load s.ctx.weakWay n (destX o.rd) (.load n (!o.zext)) (some v) [(0, va, n)]

/-- STV (R77, R206). -/
def execStv (o : ViewSt) : State → Out :=
  issue { cpol := true, srcs := [(.x o.ra, o.ea), (.w o.view, o.eb), (.x o.rd, false)] } fun s =>
    let n := szBits o.sz / 8
    let v := s.ctx.readW o.view
    match viewCheck v .w (s.ctx.readX o.ra) n n with
    | .error f => .fault s f
    | .ok va => s.store false n (some v) [(va, n, firstBytes n, (s.ctx.readX o.rd).setWidth 128)]

/-- LDP (R205): both registers of the even pair. -/
def execLdp (o : MemP) : State → Out :=
  issue { imm := true, cpol := true, srcs := [(.x o.base, o.ea)], dests := [.x o.rt, .x (o.rt + 1)] } fun s =>
    s.load s.ctx.weakWay 16 (.xx o.rt (o.rt + 1)) .pair none [(0, s.ctx.memAddr o.base o.off 16, 16)]

/-- STP (R205). -/
def execStp (o : MemP) : State → Out :=
  issue { imm := true, cpol := true, srcs := [(.x o.base, o.ea), (.x o.rt, false), (.x (o.rt + 1), false)] } fun s =>
    s.store false 16 none [(s.ctx.memAddr o.base o.off 16, 16, firstBytes 16, s.ctx.readX (o.rt + 1) ++ s.ctx.readX o.rt)]

/-- PREF (R78, R207): asks for a line; whatever would fault but a CR page drops it. -/
def execPref (o : Prefetch) : State → Out :=
  issue { imm := true, cpol := true, srcs := [(.x o.base, o.ea)] } fun s =>
    let va := s.ctx.memAddr o.base o.off 1
    if inWindows va then .done s
    else match s.translate s.cur.1 false va with
      | (none, s) => .done s
      | (some (pa, l), s) =>
        if leafCR l then .fault s (atAddr .viewClass va)
        else if !leafR l || leafTgt l != 0 || !s.leafOk (s.tagOf s.cur.1).toNat l pa then .done s
        else
          let (cpol, alloc) := s.ctx.policy
          let (seq, s) := s.nextSeq
          .done { s with net := s.net ++ [⟨.load s.cur.1 s.cur.2 seq 0,
            .read 1 (alloc && o.level == 0) (alloc && decide (o.level.toNat ≤ 1)) (lineRank cpol l), va, pa, leafKey l, none,
            s.tagOf s.cur.1, s.cur.1, s.ctx.region.rcb, s.ctx.region.energyAt, false, none, 0, 0⟩] }

/-! ## The keeper's words (R216 to R219) -/

/-- A keeper word on the line of a translated address (R216, R217): windows and remote targets end it without effect. -/
def keeperLine (o : KeeperM) (f : State → Nat → Nat → Did) : State → Out :=
  issue { priv := true, imm := true, srcs := [(.x o.base, o.ea)] } fun s =>
    let va := s.ctx.memAddr o.base o.off 1
    if inWindows va then .done s
    else match s.translate s.cur.1 false va with
      | (none, s) => s.stallMiss va 0 .none
      | (some (pa, l), s) =>
        if leafTgt l != 0 then .done s
        else if !s.leafOk (s.tagOf s.cur.1).toNat l pa then .fault s (pageFault 0 va)
        else f s pa (leafKey l)

/-- A cluster's cores: its keeper and its workers. -/
def clusterCores (k : Nat) : List Nat := Config.keeperOf k :: coresOfCluster k

/-- A change of every listed core that has been touched since reset; an untouched core holds nothing to change. -/
def State.modCores (s : State) (ns : List Nat) (f : Core → Core) : State :=
  { s with cores := s.cores.map fun p => if ns.contains p.1 then (p.1, f p.2) else p }

/-- CFLUSH.drop (R216). -/
def execCflushDrop (o : KeeperM) : State → Out :=
  keeperLine o fun s pa _ =>
    let k := clusterOf s.cur.1
    .done ((s.modCores (clusterCores k) fun c => { c with l1 := dropLine c.l1 pa }).modCluster k
      fun c => { c with lines := dropLine c.lines pa })
/-- CFLUSH.home (R216): the line leaves the home slice; what it held is in memory (entry 15). -/
def execCflushHome (o : KeeperM) : State → Out :=
  keeperLine o fun s pa _ =>
    .done (s.modStack (paStack pa) (·.modSlice (paSlice pa) fun l =>
      { l with lines := l.lines.filter (·.pa != lineOf pa) }))
/-- CFLUSH.clean (R216). -/
def execCflushClean (o : KeeperM) : State → Out :=
  keeperLine o fun s pa _ =>
    .done (s.modStack (paStack pa) (·.modSlice (paSlice pa) fun l =>
      { l with lines := l.lines.map fun x => if x.pa = lineOf pa then { x with dirty := false } else x }))
/-- From now on a cluster's fetches take no cluster-cache line filled before (R217): the next code fetched is as its home
holds it. -/
def State.acquireCode (s : State) (k : Nat) : State :=
  let s := s.stepCl k
  s.modCluster k fun c => { c with codeAcq := c.epoch }

/-- CINV.line (R217). -/
def execCinvLine (o : KeeperM) : State → Out :=
  keeperLine o fun s pa _ =>
    .done ((s.modCores (coresOfCluster (clusterOf s.cur.1)) fun c => { c with icache := dropLine c.icache pa }).acquireCode
      (clusterOf s.cur.1))

/-- A keeper word without operands: its offset field stays zero under HINT.IMM too (R157, R217, R218). -/
def keeperPlain (f : State → Did) : State → Out :=
  issue { priv := true, imm := true } fun s =>
    if s.ctx.immZ (0 : BitVec 12) ≠ 0 then .fault s (plain .illegal) else f s

/-- CINV.all (R217). -/
def execCinvAll : State → Out :=
  keeperPlain fun s =>
    .done ((s.modCores (clusterCores (clusterOf s.cur.1)) fun c => { c with icache := [] }).acquireCode (clusterOf s.cur.1))

/-- Whether an access of a core translated through an entry that a test of addresses and numbers names has not performed
(R218): the spill ring's no-return atomics are translated too. -/
def Core.translatedOpen (c : Core) (hit : Nat → Nat → Bool) : Bool :=
  let atom (a : AtomEntry) : Bool := a.pa < Config.csWindow && hit a.va.toNat a.seq
  c.stores.any (fun st => !st.window && hit st.va.toNat st.seq) || c.atomQ.any atom || c.atomsOut.any atom ||
    c.spill.any (fun e => match e with | .atom a => atom a | .out _ => false) ||
    c.ctxs.toList.any fun x => x.pends.any fun p => p.pieces.any fun q => q.value.isNone && !q.window && hit q.va.toNat p.seq

/-- Translations dropped from a cluster's TLBs; the word ends once every access translated through them has performed
(R218): those of the ranges dropped that were issued before the word first issued. -/
def tlbi (s : State) (drop : TlbEntry → Bool) (page : Option Nat) : Did :=
  let k := clusterOf s.cur.1
  let keep (t : List TlbEntry) : List TlbEntry := t.filter fun e => !drop e
  let gone := ((s.cluster k).tlb ++ (s.cores.filter fun p => (clusterCores k).contains p.1).flatMap fun p => p.2.dtlb ++ p.2.itlb).filter drop
  let old := s.me.tlbWait.filter (·.ctx == s.cur.2)
  let w : TlbWait := ⟨s.cur.2, old.elim s.seq (·.before), old.elim [] (·.ranges) ++ (gone.map fun e => (e.first, e.limit)) ++
    (page.elim [] fun p => [(p * 2 ^ 16, (p + 1) * 2 ^ 16)])⟩
  let s := ((s.modCores (clusterCores k) fun c => { c with dtlb := keep c.dtlb, itlb := keep c.itlb }).modCluster k
    fun c => { c with tlb := keep c.tlb }).modMe fun c => { c with tlbWait := some w }
  let hit (a q : Nat) : Bool := decide (q < w.before) && w.ranges.any fun r => decide (r.1 ≤ a) && decide (a < r.2)
  if s.cores.any (fun p => (clusterCores k).contains p.1 && p.2.translatedOpen hit) ||
      s.requests.any (fun r => clusterOf r.node == k && r.pa < Config.csWindow && hit r.va.toNat (r.of.elim 0 (·.2.2))) then .stay s
  else .done (s.modMe fun c => { c with tlbWait := none })

/-- TLBI.page (R218). -/
def execTlbiPage (o : KeeperM) : State → Out :=
  issue { priv := true, imm := true, srcs := [(.x o.base, o.ea)] } fun s =>
    let va := (s.ctx.memAddr o.base o.off 1).toNat
    let tag := s.tagOf s.cur.1
    let page := va / 2 ^ 16
    tlbi s (fun e => e.tag == tag && decide (e.first / 2 ^ 16 ≤ page) && decide (page * 2 ^ 16 < e.limit)) (some page)
/-- TLBI.pound (R218). -/
def execTlbiPound : State → Out :=
  keeperPlain fun s => tlbi s (fun e => e.tag == s.tagOf s.cur.1) none
/-- TLBI.all (R218). -/
def execTlbiAll : State → Out := keeperPlain fun s => tlbi s (fun _ => true) none

/-- The mode a code names; 11 is reserved (R53). -/
def bankModeOf (v : Nat) : Option BankMode :=
  match v with
  | 0 => some .cache | 1 => some .scratch | 2 => some .fifo | _ => none

/-- Configured rings of a bank (R53 RINGS). -/
def Bank.ringCount (b : Bank) : Nat := (b.rings.toList.filter fun r => r.depth != 0).length

/-- BANKMODE (R55, R219): refuses, or sets BUSY and waits in RUNNING until BANK_MODE_DONE. -/
def execBankmode (o : KeeperB) : State → Out :=
  issue { priv := true, imm := true, srcs := [(.x o.base, o.ea)] } fun s =>
    let x := s.ctx.readX o.base
    let b := bits x 3 0
    let k := clusterOf s.cur.1
    let bank := (s.cluster k).bank b
    if s.ctx.immZ (0 : BitVec 12) ≠ 0 then .fault s (plain .illegal)
    else match s.me.bankWait with
      | some (ctx, _, done) =>
        if ctx = s.cur.2 && done then .done (s.modMe fun c => { c with bankWait := none }) else .stay s
      | none =>
        match bankModeOf (bits x 9 8) with
        | none => .fault s (plain .bankMode)
        | some m =>
          if bank.sys || bank.ringCount ≠ 0 then .fault s (plain .bankMode)
          else if bank.busy.isSome then .stay s
          else .stay ((s.modCluster k fun c => (c.modBank b fun y => { y with busy := some m }).dropWay b).modMe
            fun c => { c with bankWait := some (s.cur.2, b, false) })

end Sys2Proof.Machine
end

