-- ==== Sys2Proof/Machine/Regions.lean ====
section
/-!
DEFINITION. Messages on their way (R30 to R36, R330), undeliverable returns, and region control blocks: how a field is
found (R338, R339), budgets and their notices (R29, R340), exception counters (R92).
-/

namespace Sys2Proof.Machine

/-! ## Reading and writing through a device's tables, by the part itself -/

/-- The translation of an address for a device's tag, through the walk (R343). -/
def State.leafOfTag (s : State) (tag : Nat) (va : Word) : Option (Nat × Word) :=
  (s.poundOfTag tag).bind fun p =>
    (s.walk ((nodeClusters p.record.node).headD 0) (BitVec.ofNat 16 tag) va.toNat).map fun e => (e.target va.toNat, e.leaf)

/-- The place of a block in local DRAM, if it is a mapped page of local DRAM without the CR class (R338). -/
def State.blockAt (s : State) (tag : Nat) (va : Word) : Option (Nat × Nat) :=
  match s.leafOfTag tag va with
  | none => none
  | some (pa, l) => if leafTgt l = 0 && !leafCR l && s.leafOk tag l pa then some (pa, leafKey l) else none

/-- Whether a block of 256 bytes is 64-byte aligned and lies whole in such pages (R338). -/
def State.blockWhole (s : State) (tag : Nat) (va : Word) : Bool :=
  va.toNat % 64 == 0 && (s.blockAt tag va).isSome && (s.blockAt tag (va + 255)).isSome

/-- Bytes the part reads at an address of a device; 0 where nothing is mapped. -/
def State.peekVa (s : State) (tag : Nat) (va : Word) (n : Nat) : Nat :=
  match s.blockAt tag va with
  | none => 0
  | some (pa, key) => s.homeReadN pa key n

/-- A request of the part's own for a write. -/
def ownReq (tag : Nat) (va : Word) (pa key : Nat) : MemReq :=
  ⟨.rma 0, .sample, va, pa, key, none, BitVec.ofNat 16 tag, 0, 0, 0, false, none, 0, 0⟩

/-- Bytes the part writes at an address of a device; nothing where nothing is mapped. -/
def State.pokeVa (s : State) (tag : Nat) (va : Word) (bs : List Byte) : State :=
  match s.blockAt tag va with
  | none => s
  | some (pa, key) => s.homeWriteN (ownReq tag va pa key) pa bs

/-! ## Region control blocks (R338, R339) -/

/-- The blocks of a chain from a block up to the root; none when a block is broken or 15 links do not reach the root. The
address is the block at fault. -/
def State.chain (s : State) (tag : Nat) (rcb : Word) : Nat → Except Word (List Word)
  | 0 => .error rcb
  | n + 1 =>
    if !s.blockWhole tag rcb then .error rcb
    else
      let parent := BitVec.ofNat 64 (s.peekVa tag rcb 8)
      if parent = 0 then .ok [rcb]
      else match s.chain tag parent n with
        | .error a => .error a
        | .ok rest => .ok (rcb :: rest)

/-- The block of a chain that supplies field `bit` (R339). -/
def State.supplier (s : State) (tag : Nat) (blocks : List Word) (bit : Nat) : Word :=
  match blocks.find? fun b => bitOf (s.peekVa tag (b + 8) 4) bit with
  | some b => b
  | none => blocks.getLastD 0

/-- A region as its chain gives it (R338, R339). -/
def State.regionOf (s : State) (tag : Nat) (rcb : Word) : Except Word Region :=
  match s.chain tag rcb 16 with
  | .error a => .error a
  | .ok bs =>
    let from_ (bit : Nat) (off : Word) (n : Nat) : Nat := s.peekVa tag (s.supplier tag bs bit + off) n
    let w := from_ 0 16 4
    .ok { rcb := rcb, root := bs.getLastD 0
          wdog := if w = 0 then BitVec.allOnes 32 else BitVec.ofNat 32 w
          prio := BitVec.ofNat 3 (from_ 4 20 1)
          domain := BitVec.ofNat 32 (from_ 5 24 4)
          paired := from_ 6 21 1 % 2 == 1
          errCh := BitVec.ofNat 64 (from_ 7 64 8)
          budCh := BitVec.ofNat 64 (from_ 8 72 8)
          radius := BitVec.ofNat 4 (from_ 9 22 1)
          cntEp := BitVec.ofNat 64 (from_ 11 80 8)
          energyAt := s.supplier tag bs 1
          cyclesAt := s.supplier tag bs 2
          spansAt := s.supplier tag bs 3
          thrAt := s.supplier tag bs 10 }

/-- The error channel of a region; null when its chain is broken. -/
def State.errChOf (s : State) (tag : Nat) (rcb : Word) : Word :=
  match s.regionOf tag rcb with
  | .ok r => r.errCh
  | .error _ => 0

/-! ## Messages (R30 to R36) -/

/-- A message of the part itself for a device, with status NOTICE (R15, R116): it carries no release. -/
def notice (tag core : Nat) (name : Word) (ws : List Word) (errCh lostAt : Word) : Msg :=
  ⟨name, .notice, .words ws, Config.chip, core, .core, [], errCh, lostAt, false, BitVec.ofNat 16 tag⟩

/-- A view's release notice owed by a core, with the interval it leaves (R76, R80): VIEW_NOTICE_SEND sends it once every
access made through the view so far has completed. -/
def State.owe (s : State) (core : Nat) (v : View) (left : Option (BitVec 32 × BitVec 32)) : State :=
  { s.modCore core (fun c => { c with owed := c.owed ++ [⟨v.handle, v.region, left, s.seq⟩] }) with seq := s.seq + 1 }

/-- A view dropped at a core for a holder that has gone (R76). -/
def State.dropViewAt (s : State) (core : Nat) (v : View) : State := if v.live then s.owe core v none else s

/-- The view a payload carries dropped. -/
def State.dropPayload (s : State) (core : Nat) (p : Payload) : State :=
  match p with
  | .view v => s.dropViewAt core v
  | _ => s

/-- One more lost message of a region (R35), saturating. -/
def State.countLost (s : State) (tag : Nat) (rcb : Word) : State :=
  let n := s.peekVa tag (rcb + 28) 4
  if n + 1 < 2 ^ 32 then s.pokeVa tag (rcb + 28) (toBytes 4 (n + 1)) else s

/-- An undeliverable message (R34, R35, R116): it goes back to the sender's error channel as a release of the unit that
returns it, with the kind of payload it had (entry 77), or, being a return already, is discarded and counted for the
sender's region and device. -/
def State.undeliver (s : State) (core : Nat) (m : Msg) : State :=
  if m.isReturn then (s.dropPayload core m.payload).countLost m.tag.toNat m.lostAt
  else
    let home := if nameChip m.errCh = Config.chip.toNat then smallestScope core (nameCore m.errCh) else .sys
    s.modCore core fun c => { c with relays := c.relays ++
      [{ m with name := m.errCh, status := .undeliv, scope := widest m.scope home, isReturn := true }] }

/-- The route of a name that leaves the package (R330). -/
inductive Route where
  | here | host | peer (rte : Word) | none
  deriving DecidableEq, Repr

/-- The route of a name for a device (R330). -/
def State.routeOf (s : State) (tag : Nat) (name : Word) : Route :=
  if nameChip name = Config.chip.toNat then .here
  else
    let r := s.devReg (.rte tag (nameChip name))
    if !r.getLsbD 63 || 24 ≤ bits r 59 55 then .none
    else match bits r 62 61 with
      | 0 => .peer r
      | 1 => .host
      | _ => .none

/-- The router a port attaches to (R329). -/
def portCore (port : Nat) : Nat := coreAt (255 * (port / 3 % 2)) (64 * (port / 3 / 2) + 16 + 16 * (port % 3))

/-- The bytes a message carries. -/
def Msg.bytes (m : Msg) : Nat :=
  match m.payload with
  | .words ws | .ladle _ ws => 8 * ws.length
  | .view _ => 24

/-- Something leaves the package through a port. -/
def State.leave (s : State) (e : Egress) : State := { s with egress := s.egress ++ [e] }

/-- A port's bytes charged to a region, or to no block when its chain is broken (R399): `rte` holds the port's half code. -/
def State.portCharge (s : State) (rte : Word) (tag : Nat) (rcb : Word) (n : Nat) : State :=
  let port := bits rte 59 55
  let w := s.weight (port / 2 / 3) 12
  let s := s.chargeStack (port / 2 / 3) 12 n
  match s.regionOf tag rcb with
  | .error _ => s
  | .ok r => { s with portEnergy := addDelta s.portEnergy (port, tag, r.energyAt) (n * w) }

/-- The cut whose marker a core's router has had from the core (R370); 0 for none. -/
def Core.mark (c : Core) : Nat :=
  match c.cut with
  | none => 0
  | some x => if x.injected then x.number else 0

/-- A message of a device admitted by a core's router (R31, R330): on its way to its home or a host port, out to a peer, or
returned by the router itself when its name is null or its route is invalid (R221, R330). -/
def State.admitFor (s : State) (tag core : Nat) (m : Msg) : State :=
  if nameGen m.name = 0 then s.undeliver core m
  else match s.routeOf tag m.name with
  | .here =>
    { s with flight := s.flight ++ [⟨core, nameCore m.name, m, (s.core core).mark, tag⟩] }
  | .host => if 1024 ≤ nameCore m.name then s.undeliver core m else { s with flight := s.flight ++ [⟨core, Config.workers, m, (s.core core).mark, tag⟩] }
  | .peer r => (s.portCharge r tag m.lostAt m.bytes).leave (.peer r m)
  | .none => s.undeliver core m

/-- A message of a core admitted by its router. -/
def State.admitMsg (s : State) (core : Nat) (m : Msg) : State := s.admitFor (s.tagOf core).toNat core m

/-! ## Budgets and counters (R29, R92, R340) -/

/-- A budget of a block: energy 0, core-cycle 1, span 2 (R338, R361). -/
def State.budget (s : State) (tag : Nat) (block : Word) (which : Nat) : Nat :=
  s.peekVa tag (block + BitVec.ofNat 64 (32 + 8 * which)) 8

/-- The budget words that software has raised above zero with a write of `n` bytes may send a notice again (R29). -/
def State.raised (s : State) (r : MemReq) (n : Nat) : State :=
  { s with noticed := s.noticed.filter fun b =>
    !((overlaps r.pa n b.2.2 8 || (r.tag.toNat == b.1 && overlaps r.va.toNat n b.2.1.toNat 8)) && s.peekVa b.1 b.2.1 8 != 0) }

/-- A budget of a block changed; reaching zero from above sends one budget notice, and no second until software has raised the
budget above zero (R29). -/
def State.setBudget (s : State) (core tag : Nat) (block : Word) (which v : Nat) : State :=
  let old := s.budget tag block which
  let at_ := block + BitVec.ofNat 64 (32 + 8 * which)
  let s := s.pokeVa tag at_ (toBytes 8 v)
  if old ≠ 0 && v = 0 && !s.noticed.any (fun b => b.1 == tag && b.2.1 == at_) then
    match s.regionOf tag block with
    | .error _ => s
    | .ok r =>
      let s : State := { s with noticed := (tag, at_, ((s.blockAt tag at_).elim 0 (·.1))) :: s.noticed }
      s.admitFor tag core (notice tag core r.budCh [block, BitVec.ofNat 64 which] r.errCh block)
  else s

/-- A charge posted to a budget: a subtraction that stops at 0 (R340). -/
def State.chargeBudget (s : State) (core tag : Nat) (block : Word) (which n : Nat) : State :=
  let old := s.budget tag block which
  if n = 0 then s else s.setBudget core tag block which (old - n)

/-- A refund of spans (R70, R340). -/
def State.refund (s : State) (tag : Nat) (block : Word) (n : Nat) : State :=
  s.pokeVa tag (block + 48) (toBytes 8 ((s.budget tag block 2 + n) % 2 ^ 64))

/-- A counter of a region raised by `n` (R92): saturating, with one NOTICE to the counter endpoint when it passes its
threshold; the notice names the counter in a word whose form is open (entry 17). -/
def State.addCounter (s : State) (core tag : Nat) (rcb : Word) (i n : Nat) : State :=
  if n = 0 then s
  else
    let at_ := rcb + BitVec.ofNat 64 (96 + 4 * i)
    let old := s.peekVa tag at_ 4
    let new := min (old + n) (2 ^ 32 - 1)
    let s := s.pokeVa tag at_ (toBytes 4 new)
    match s.regionOf tag rcb with
    | .error _ => s
    | .ok r =>
      let thr := s.peekVa tag (r.thrAt + BitVec.ofNat 64 (160 + 4 * i)) 4
      if thr ≠ 0 && old < thr && thr ≤ new then
        let (w, s) := s.free
        s.admitFor tag core (notice tag core r.cntEp [w] r.errCh rcb)
      else s

/-- Deltas of exception counters added to a region's counters (R92). -/
def State.addCounters (s : State) (core tag : Nat) (rcb : Word) (d : Vector Nat 16) : State :=
  (List.range 16).foldl (fun s i => s.addCounter core tag rcb i (d.getD i 0)) s

/-- The exception deltas of a context added to its region's counters (R92). -/
def State.flushCounters (s : State) (core k : Nat) : State :=
  let x := (s.core core).ctx k
  if x.fpDelta.toList.all (· == 0) then s
  else (s.addCounters core (s.tagOf core).toNat x.region.rcb x.fpDelta).modCtxOf core k
    fun c => { c with fpDelta := Vector.replicate 16 0 }

/-- A core's core-cycle charges posted to their blocks (R340). -/
def State.postCycles (s : State) (core : Nat) : State :=
  let ds := (s.core core).cycles
  (ds.foldl (fun s d => s.chargeBudget core (s.tagOf core).toNat d.1 1 d.2) s).modCore core fun c => { c with cycles := [] }

/-- A core's energy deltas posted to their blocks, whole picojoules, the rest kept; and its core-cycles (R340, R399). -/
def State.postEnergy (s : State) (core : Nat) : State :=
  let ds := (s.core core).energy
  let s := ds.foldl (fun s d => s.chargeBudget core (s.tagOf core).toNat d.1 0 (d.2 / 16)) s
  (s.modCore core fun c => { c with energy := (ds.map fun d => (d.1, d.2 % 16)).filter fun d => d.2 != 0 }).postCycles core

/-- Whether the energy and the core-cycle budget that supply a region are above zero (R29, R400): the code of the first
that is not. -/
def State.exhausted (s : State) (tag : Nat) (r : Region) : Option Nat :=
  if s.budget tag r.energyAt 0 = 0 then some 0
  else if s.budget tag r.cyclesAt 1 = 0 then some 1
  else none

end Sys2Proof.Machine
end

