-- ==== Sys2Proof/Machine/Rma.lean ====
section
/-!
DEFINITION. RMA windows and the accesses of an RMA (R335, R336, R350).
-/

namespace Sys2Proof.Machine

/-- Whether a pound takes work from outside (R332, R336, R375, R386). -/
def Pound.open_ (p : Pound) : Bool := (p.trust == .unlocked || p.trust == .run) && p.tagsOpen

/-- The route word that stands for a port of a half code. -/
def portWord (half : Nat) : Word := BitVec.ofNat 64 (half % 32 * 2 ^ 55)

/-- The window an RMA key names: its device and number (R335). -/
def rmaKey (key : Word) : Option (Nat × Nat) :=
  if bits key 63 32 = 0 && bits key 15 4 = 0 then some (bits key 31 16, bits key 3 0) else none

/-- What the port finds of an RMA (R336): an error response, a page that is not mapped yet, or its first address. -/
inductive RmaCheck where
  | refused
  | miss (tag : Nat) (va : Word)
  | ok (tag : Nat) (va : Word)
  deriving DecidableEq, Repr

/-- The checks of R336. -/
def State.rmaCheck (s : State) (key : Word) (off n : Nat) (write : Bool) : RmaCheck :=
  match rmaKey key with
  | none => .refused
  | some (tag, w) =>
    let base := s.devReg (.rmaBase tag w)
    let len := bits (s.devReg (.rmaLen tag w)) 31 0
    let va := bits base 63 16 * 2 ^ 16 + off
    let pages := (List.range ((va % 2 ^ 16 + n + 2 ^ 16 - 1) / 2 ^ 16)).map fun i => va / 2 ^ 16 * 2 ^ 16 + 2 ^ 16 * i
    let bad (a : Nat) : Bool := decide (Config.reservedWindow ≤ a) ||
      match s.leafOfTag tag (BitVec.ofNat 64 a) with
      | none => false
      | some (pa, l) => leafTgt l != 0 || leafCR l || !s.leafOk tag l pa
    if !(s.poundOfTag tag).any Pound.open_ || !base.getLsbD (num write) || len * 2 ^ 16 < off + n || pages.any bad then .refused
    else match pages.find? fun a => (s.leafOfTag tag (BitVec.ofNat 64 a)).isNone with
      | some a => .miss tag (BitVec.ofNat 64 a)
      | none => .ok tag (BitVec.ofNat 64 va)

/-- A core that stands for a device's pound, for what belongs to no core of it. -/
def State.poundCore (s : State) (tag : Nat) : Nat :=
  (((s.poundOfTag tag).map fun p => (coresOfCluster ((nodeClusters p.record.node).headD 0)).headD 0)).getD 0

/-- The naturally aligned 8-byte parts of a run: offset, address and length of each. -/
def parts8 (va n : Nat) : List (Nat × Nat × Nat) :=
  let first := min n (8 - va % 8)
  ((0, first) :: (List.range (n / 8 + 1)).map fun i => (first + 8 * i, min 8 (n - first - 8 * i))).filterMap fun p =>
    if p.2 = 0 then none else some (p.1, va + p.1, p.2)

/-- An RMA taken off those in progress. -/
def State.dropRma (s : State) (id : Nat) : State := { s with rmas := s.rmas.filter (·.id != id) }

/-- An RMA in progress changed. -/
def State.modRma (s : State) (id : Nat) (f : Rma → Rma) : State :=
  { s with rmas := s.rmas.map fun w => if w.id = id then f w else w }

/-- The request of one part of an RMA to its home slice: offset, address and length. -/
def State.rmaReq (s : State) (tag : Nat) (w : Rma) (p : Nat × Nat × Nat) (pa : Nat) (l : Word) : MemReq where
  asker := .rma w.id
  op := if w.write then .write (firstBytes p.2.2) (BitVec.ofNat 128 (ofBytes ((w.data.drop p.1).take p.2.2)))
    else .read p.2.2 false false 0
  va := BitVec.ofNat 64 p.2.1
  pa := pa
  key := leafKey l
  region := none
  tag := BitVec.ofNat 16 tag
  node := s.poundCore tag
  rcb := (s.vd tag).root
  energyAt := (s.vd tag).root
  clusDone := false
  strong := none
  chip := 0
  target := 0

/-- A read RMA all of whose bytes have arrived leaves with them, or with the error response where some came marked as
uncorrectable; any other goes on. -/
def State.rmaDone (s : State) (id : Nat) : State :=
  match s.rmas.find? (·.id == id) with
  | none => s
  | some w =>
    if w.write || w.left != 0 then s
    else (s.dropRma id).leave (if w.got.any (·.2.isNone) then .refused else .rmaRead (w.got.flatMap fun g => g.2.getD []))

/-- An RMA begun, or tried again once its page is mapped (R336, R350): an error response, a wait at its port with a pending
miss open, or its parts sent to their home slices. -/
def State.rmaStart (s : State) (w : Rma) : State :=
  match s.rmaCheck w.key w.off w.len w.write with
  | .refused => (s.dropRma w.id).leave .refused
  | .miss tag va =>
    let vpn := va.extractLsb' 16 48
    (s.openMiss ⟨BitVec.ofNat 16 tag, vpn, 6, va, s.poundCore tag, 15, 0⟩).2.modRma w.id
      fun w => { w with stall := some (BitVec.ofNat 16 tag, vpn) }
  | .ok tag va =>
    let s := (s.portCharge (portWord 0) tag (s.vd tag).root w.len).modRma w.id fun w => { w with stall := none }
    ((parts8 va.toNat w.len).foldl (fun (s : State) p =>
      match s.leafOfTag tag (BitVec.ofNat 64 p.2.1) with
      | none => s
      | some (pa, l) => { s with net := s.net ++ [s.rmaReq tag w p pa l] }) s).rmaDone w.id

/-- An RMA of the host or a peer enters. -/
def State.rmaEnter (s : State) (write : Bool) (key : Word) (off len : Nat) (data : List Byte) : State :=
  let (id, s) := s.nextSeq
  let w : Rma := ⟨id, write, key, off, len, data, none, len, []⟩
  ({ s with rmas := s.rmas ++ [w] } : State).rmaStart w

/-- RMAs that wait for a page of a device go on, or, with `fail`, end with the error response (R350). -/
def State.wakeRmas (s : State) (tag : BitVec 16) (vpn : BitVec 48) (fail : Bool) : State :=
  (s.rmas.filter fun w => w.stall == some (tag, vpn)).foldl (fun s w =>
    if fail then (s.dropRma w.id).leave .refused else s.rmaStart w) s

end Sys2Proof.Machine
end

