-- ==== Sys2Proof/Machine/MemEvents.lean ====
section
/-!
DEFINITION. The memory system's own steps: stores and atomics leaving a core, requests accepted and answered at slices,
windows and remote targets, walks and pending misses, the side log's replay (R49 to R64, R200 to R211, R343 to R353).
-/

namespace Sys2Proof.Machine

/-- Whether a core of the part has a number (00). -/
def coreIn (n : Nat) : Bool := decide (n < Config.workers + Config.clusters)
/-- Whether a cluster of the part has a number. -/
def clusterIn (n : Nat) : Bool := decide (n < Config.clusters)
/-- Whether a stack and a unit of its sixteen have these numbers. -/
def unitIn (t i : Nat) : Bool := decide (t < 4) && decide (i < 16)

/-- A precise fault of any context (R40). -/
def State.raiseOf (s : State) (core k : Nat) (f : FaultInfo) : State :=
  { ({ s with cur := (core, k) } : State).raise f with cur := s.cur }

/-- A fault found after its instruction retired (R40, R202, R353): taken at the context's next issue, or, when the body
has ended, a packet that names the fault domain and no context. -/
def State.defer (s : State) (core k seq : Nat) (domain : BitVec 32) (d : Deferred) : State :=
  let x := (s.core core).ctx k
  if x.live && decide (x.since ≤ seq) then s.modCtxOf core k fun c => { c with deferred := c.deferred ++ [d] }
  else s.packet core (packetWords core 15 d.info 0 domain 0)

/-- The fault domain a block gives; 0 when its chain is broken. -/
def State.domainOf (s : State) (tag : Nat) (rcb : Word) : BitVec 32 :=
  match s.regionOf tag rcb with
  | .ok r => r.domain
  | .error _ => 0

/-- One part of a pending load bound (R111). -/
def State.bindPart (s : State) (core k seq i : Nat) (v : Nat) : State :=
  s.modCtxOf core k fun c => { c with pends := c.pends.map fun p => if p.seq = seq then
    { p with pieces := p.pieces.mapIdx fun j q => if j = i then { q with value := some (merge q.len v q.omask q.odata) } else q }
    else p }

/-- A producer that is no access given its value (R156). -/
def State.bindWhole (s : State) (core k seq : Nat) (v : Nat) : State :=
  s.modCtxOf core k fun c => { c with pends := c.pends.map fun p => if p.seq = seq then
    { p with pieces := p.pieces.map fun q => { q with value := some v } } else p }

/-- A pending load whose data came marked as uncorrectable (R202). -/
def State.bindPoison (s : State) (core k seq i pa : Nat) : State :=
  (s.bindPart core k seq i 0).modCtxOf core k fun c => { c with pends := c.pends.map fun p =>
    if p.seq = seq then { p with poison := some (BitVec.ofNat 64 pa) } else p }

/-- A no-return atomic taken off the sent ones (R115). -/
def State.dropSent (s : State) (core seq : Nat) : State :=
  s.modCore core fun c => { c with atomsOut := c.atomsOut.filter (·.seq != seq) }

/-- A return atomic's value given to the other copy of a paired body, and kept for a rerun (R393, R394). -/
def State.pairAnswer (s : State) (c k q old : Nat) : State :=
  match (s.core c).pairOf k with
  | none => s
  | some p =>
    match p.place q with
    | none => s
    | some i =>
      let keep (s : State) (n x : Nat) : State := s.modCore n fun c => { c with pairs := c.pairs.map (fun p =>
        if p.ctx = x then { p with results := (i, old) :: p.results } else p) }
      let s := keep (keep s c k) p.other p.otherCtx
      match s.twin p i with
      | none => s
      | some q' => s.bindPart p.other p.otherCtx q' 0 old

/-- A unit's answer to a request that gives a register its value: the producer is bound, and so is the other copy's of a
paired body, which keeps it for a rerun (R156, R393, R394). A producer's number is one less than its request's. -/
def State.answerWhole (s : State) (c k q v : Nat) : State :=
  let s := s.bindWhole c k q v
  match (s.core c).pairOf k with
  | none => s
  | some p =>
    match p.place (q + 1) with
    | none => s
    | some i =>
      let keep (s : State) (n x : Nat) : State := s.modCore n fun c => { c with pairs := c.pairs.map (fun p =>
        if p.ctx = x then { p with results := (i, v) :: p.results } else p) }
      let s := keep (keep s c k) p.other p.otherCtx
      match s.twin p i with
      | none => s
      | some q' => s.bindWhole p.other p.otherCtx (q' - 1) v

/-- What a home answers to an atomic's issuer: the old value, or nothing for a no-return atomic. -/
def State.answerAtom (s : State) (asker : Asker) (old : Nat) : State :=
  match asker with
  | .atomic c k q => (s.bindPart c k q 0 old).pairAnswer c k q old
  | .queued c _ q => s.dropSent c q
  | _ => s

/-- An atomic that found its line poisoned (R202). -/
def State.poisonAtom (s : State) (r : MemReq) : State :=
  match r.asker with
  | .atomic c k q => s.bindPoison c k q 0 r.pa
  | .queued c k q =>
    let pc := ((((s.core c).atomsOut.find? (·.seq == q)).map (·.pc))).getD 0
    (s.dropSent c q).defer c k q (s.domainOf r.tag.toNat r.rcb) ⟨⟨.poison, 0, BitVec.ofNat 64 r.pa⟩, pc⟩
  | _ => s

/-! ## Leaving the core -/

/-- Whether a buffered store may leave: no older load or atomic of its context for its bytes is open (R122). -/
def Core.mayDrain (c : Core) (st : Store) : Bool :=
  let touch (e : AtomEntry) : Bool := e.ctx == st.ctx && decide (e.seq < st.seq) && overlaps st.va.toNat st.len e.va.toNat 8
  (c.ctx st.ctx).pends.all (fun p => !(decide (p.seq < st.seq) && p.pieces.any fun q =>
    q.value.isNone && overlaps st.va.toNat st.len q.va.toNat q.len)) &&
    !c.atomQ.any touch && !c.atomsOut.any touch &&
    c.spill.all fun e => match e with | .atom a => !touch a | .out _ => true

/-- The bank a cluster-store window address names. -/
def State.bankAt (s : State) (a : Nat) : Option (Nat × Nat × Bank) :=
  if Config.csWindow ≤ a && a < Config.lsWindow then
    let k := (a - Config.csWindow) / 2 ^ 20
    some (k, a / 2 ^ 16 % 16, (s.cluster k).bank (a / 2 ^ 16 % 16))
  else none

/-- What a window access that reaches its bank finds (R54, R55): it waits on a changing bank and is checked again. -/
def State.windowState (s : State) (a n : Nat) (va : Word) : Checked :=
  match s.bankAt a with
  | none => .ok ⟨.sram 0, a, 0⟩
  | some (k, b, bank) =>
    if bank.busy.isSome then .busy
    else match checkBank bank (a % 2 ^ 16) n va with
      | .error f => .fault f
      | .ok () => .ok ⟨.bank k b, a, 0⟩

/-- A store's request to its home or target (R49, R337). -/
def storeReq (s : State) (core : Nat) (st : Store) (clusDone : Bool) : MemReq where
  asker := .store core st.ctx st.seq
  op := .write st.mask st.data
  va := st.va
  pa := st.pa
  key := st.key
  region := st.view.map (·.2)
  tag := s.tagOf core
  node := core
  rcb := st.rcb
  energyAt := st.energyAt
  clusDone := clusDone
  strong := st.strong
  chip := leafChip st.leaf
  target := leafTgt st.leaf

/-- A translated store on its way to its home: present L1 and cluster-cache lines take its bytes (R49, R52). -/
def State.storeOut (s : State) (core : Nat) (st : Store) : State :=
  let region := st.view.map (·.2)
  let k := clusterOf core
  let here := ((s.cluster k).find st.pa st.key region).isSome
  let s := (s.modCore core fun c => { c with l1 := storeLine c.l1 st.pa st.key region st.mask st.data }).modCluster k
    fun c => { c with lines := storeLine c.lines st.pa st.key region st.mask st.data }
  { s with net := s.net ++ [storeReq s core st here] }

/-- A store taken off its core's buffer; a producer that waits for it has its value (R260). -/
def State.popStore (s : State) (core : Nat) (st : Store) : State :=
  (s.modCore core fun c => { c with stores := c.stores.filter (·.seq != st.seq) }).modCtxOf core st.ctx fun c =>
    { c with pends := c.pends.map fun p => if p.seq = st.seq then
      { p with pieces := p.pieces.map fun q => { q with value := some 0 } } else p }

/-- Whether a request of a store is at its remote target. -/
def State.storeFar (s : State) (core seq : Nat) : Bool :=
  s.remote.any fun r => match r.asker with | .store c _ q => c == core && q == seq | _ => false

/-- STORE_BUFFER_DRAIN (R46, R49, R52, R201): the oldest store leaves. One for a remote target is sent, and stays in the buffer
until the target acknowledges it (R337). -/
def execStoreBufferDrain (core : Nat) (s : State) : Out :=
  event (coreIn core) <|
    match (s.core core).stores with
    | [] => s
    | st :: _ =>
      let pop (s : State) : State := s.popStore core st
      let own := st.window && decide (lsKey core 0 ≤ st.pa) && decide (st.pa < lsKey (core + 1) 0)
      let gate := if own then some true else s.pairGate core st.ctx st.seq
      if !(s.core core).mayDrain st || gate.isNone then s
      else if gate = some false then pop s
      else if st.remote then
        if s.storeFar core st.seq then s else { s with remote := s.remote ++ [storeReq s core st false] }
      else if st.window then
        match s.windowState st.pa st.len st.va with
        | .busy => s
        | .fault f => (pop s).defer core st.ctx st.seq ((s.core core).ctx st.ctx).region.domain ⟨f, 0⟩
        | _ => { pop s with mem := writeMasked s.mem st.pa st.mask st.data.toNat 16 }
      else (pop s).storeOut core st

/-- The atomic queue filled up from the oldest spilled atomics (R211). -/
def Core.refillAtoms (c : Core) : Core :=
  if 8 ≤ c.atomQ.length then c
  else match c.spill.findSome? (fun e => match e with | .atom a => some a | .out _ => none) with
    | none => c
    | some a => { c with atomQ := c.atomQ ++ [a], spill := c.spill.erase (.atom a) }

/-- A no-return atomic's request to its home or target. -/
def queuedReq (s : State) (core : Nat) (a : AtomEntry) : MemReq where
  asker := .queued core a.ctx a.seq
  op := .atomic a.atom
  va := a.va
  pa := a.pa
  key := a.key
  region := a.view.map (·.2)
  tag := s.tagOf core
  node := core
  rcb := a.rcb
  energyAt := a.energyAt
  clusDone := false
  strong := some a.scope
  chip := leafChip a.leaf
  target := leafTgt a.leaf

/-- A no-return atomic sent to its home (R63, R115). -/
def State.sendAtom (s : State) (core : Nat) (a : AtomEntry) : State :=
  let dram := !a.remote && decide (a.pa < Config.csWindow)
  let s := if dram then s.dropCopies core a.pa else s
  (s.modCore core fun c => { c with atomsOut := c.atomsOut ++ [a] }).sendReq (queuedReq s core a)

/-- ATOMIC_QUEUE_SEND (R115, R211): the oldest entry, once the context's earlier strong work of its scope or wider has
performed and no older load of its bytes is open. -/
def execAtomicQueueSend (core : Nat) (s : State) : Out :=
  event (coreIn core) <|
    match (s.core core).atomQ with
    | [] => s
    | a :: rest =>
      let open_ := ((s.core core).ctx a.ctx).pends.any fun p => decide (p.seq < a.seq) && p.pieces.any fun q =>
        q.value.isNone && overlaps a.va.toNat a.atom.bytes q.va.toNat q.len
      let pop (s : State) : State := s.modCore core fun c => ({ c with atomQ := rest } : Core).refillAtoms
      if open_ || !s.strongDone core a.ctx a.scope a.seq then s
      else match s.pairGate core a.ctx a.seq with
        | none => s
        | some false => pop s
        | some true => (pop s).sendAtom core a

/-! ## Homes -/

/-- Whether a return atomic of a paired body still waits for the other copy's (R393). -/
def State.pairWaits (s : State) (r : MemReq) : Bool :=
  match r.asker with
  | .atomic c k q => s.pairGate c k q != some true
  | _ => false

/-- Whether the `k`-th request of a list may be taken before those ahead of it: none of them is of its cluster and for its
line (R111, R122; entry 18), but those a pair's router holds back (R393). -/
def State.mayTake (s : State) (rs : List MemReq) (k : Nat) (r : MemReq) : Bool :=
  (rs.take k).all fun q => s.pairWaits q ||
    !(clusterOf q.node == clusterOf r.node && lineOf q.pa == lineOf r.pa && q.target == r.target)

/-- HOME_ATOMIC_APPLY (R64, R209): an atomic at the local store or bank its window names. -/
def execHomeAtomicApply (k : Nat) (s : State) : Out :=
  .next <| match s.net[k]? with
    | none => s
    | some r =>
      match r.op with
      | .atomic a =>
        if r.pa < Config.csWindow || !s.mayTake s.net k r || s.pairWaits r then s
        else
          let rest : State := { s with net := s.net.eraseIdx k }
          match s.windowState r.pa a.bytes r.va with
          | .busy => s
          | .fault f =>
            (match r.asker with
              | .atomic c x q => (rest.answerAtom r.asker 0).defer c x q ((s.core c).ctx x).region.domain ⟨f, 0⟩
              | .queued c x q => (rest.dropSent c q).defer c x q ((s.core c).ctx x).region.domain ⟨f, 0⟩
              | _ => rest)
          | _ =>
            let old := readMem s.mem r.pa a.bytes
            let (new, outs) := a.apply old
            let t := { rest with mem := writeMem s.mem r.pa (toBytes a.bytes new) }
            let t := outs.foldl (fun t o => (List.range 4).foldl (fun t v => if o.2.ev.getLsbD v then
              t.addCounter r.node r.tag.toNat r.rcb (4 * fmtIndex o.1 + v) 1 else t) t) t
            t.answerAtom r.asker old
      | _ => s

/-- Whether a request is one for a home slice (R61). -/
def MemReq.homed (r : MemReq) : Bool := decide (r.pa < Config.csWindow) && r.target == 0

/-- Writes a slice holds for migrating pages (R356). -/
def State.heldAt (s : State) (t i : Nat) : Nat :=
  ((s.stk.toList.flatMap fun k => k.mig.toList.flatMap (·.held)).filter fun r => paStack r.pa == t && paSlice r.pa == i).length

/-- Bytes a request stores at its place. -/
def MemReq.size (r : MemReq) : Nat :=
  match r.op with
  | .engine _ n => n
  | .write m _ => popCount 16 m.toNat
  | _ => 0

/-- The stack of a weir handle (R284). -/
def weirStack (h : Word) : Nat := bits h 39 38

/-- A subtraction an engine sends to a weir (R285); handle 0 means none. -/
def State.weirSub (s : State) (w : Word) (cmd bytes : Nat) (fail : Bool) (tag : BitVec 16) (rcb : Word) : State :=
  if w = 0 then s else s.modStack (weirStack w) fun t => { t with subs := t.subs ++ [⟨w, cmd, bytes, fail, tag, rcb⟩] }

/-- A copy engine's command in progress changed. -/
def State.modRun (s : State) (t e : Nat) (f : EngRun → EngRun) : State :=
  s.modStack t (·.modEngine e fun g => { g with run := g.run.map f })

/-- SLICE_REQUEST_ACCEPT (R62, R119, R356): a slice queues a request; a read of its SLICEOCC is sampled as it arrives, and
an engine's bytes are reported to their weir. -/
def execSliceRequestAccept (k : Nat) (s : State) : Out :=
  .next <| match s.net[k]? with
    | none => s
    | some r =>
      let rest : State := { s with net := s.net.eraseIdx k }
      match r.asker, r.op with
      | .occ c x q, .sample =>
        if (s.net.take k).any (fun p => p.node == r.node && (match p.asker with | .occ .. => true | _ => false) && p.pa == r.pa) then s
        else
        let l := (s.stack r.key).slice r.pa
        rest.bindWhole c x q (l.peak * 2 ^ 16 + l.queue.length)
      | .occ .., _ => s
      | _, _ =>
        let t := paStack r.pa
        let i := paSlice r.pa
        let write := match r.op with | .read .. => false | _ => true
        if !r.homed || !s.mayTake s.net k r || s.pairWaits r || 64 ≤ ((s.stack t).slice i).queue.length ||
            (write && (s.migOf r.pa).isSome && 512 ≤ s.heldAt t i) then s
        else
          let s := rest.modStack t (·.modSlice i fun l =>
            { l with queue := l.queue ++ [r], peak := max l.peak (l.queue.length + 1) })
          match r.asker with
          | .engine _ _ cmd w => if write then s.weirSub w cmd r.size false r.tag r.rcb else s
          | _ => s

/-- Elements of a block replaced or added in order, then quantised again (R94, R100, R281, R282). -/
def blockPut (freeExp : Nat) (fmt : Nat) (rm : BitVec 3) (qlim : Nat) (add : Bool) (old : List Byte) (els : List (Nat × FVal)) :
    List Byte :=
  let cur (j : Nat) : FVal := if fmt = 5 then scaled (cq4Int old j) (cq4Scale old) else bx16Val old j
  let vals := (List.range 256).map fun j => (els.filter (·.1 == j)).foldl (fun u e =>
    if add then (addVal rm u e.2).getD (.nan false) else e.2) (cur j)
  if fmt = 5 then (quantCq4 vals [0, 0, 0, 0] qlim).1 else (quantBx16 freeExp vals).1

/-- The bytes an engine write leaves at a place that holds `old` (R281, R282), and the events its result counts (R92). -/
def EngWrite.apply (freeExp : Nat) (w : EngWrite) (old : List Byte) : List Byte × Option (Fmt × BitVec 4) :=
  let give (f : BitVec 4) (r : FOut) : List Byte × Option (Fmt × BitVec 4) :=
    (toBytes (elemBytes f.toNat) r.bits, (elemFmt f.toNat).map fun g => (g, r.ev))
  match w with
  | .raw bs => (bs, none)
  | .put f rm v => give f (elemPut f.toNat rm v)
  | .add f rm v => give f (elemAdd f.toNat rm (ofBytes old) v)
  | .block f rm q plus els => (blockPut freeExp f.toNat rm q plus old els, none)

/-- Whether an engine write reads what is there. -/
def EngWrite.reads : EngWrite → Bool
  | .raw _ | .put _ _ _ => false
  | .add _ _ _ | .block _ _ _ _ _ => true

/-- Events of results counted in a slice's deltas (R92). -/
def Slice.countEvents (l : Slice) (key : Nat × Word) (f : Fmt) (ev : BitVec 4) : Slice :=
  if ev = 0 then l
  else
    let v := lookupKey (Vector.replicate 16 0) key l.fpDelta
    { l with fpDelta := insertKey key ((List.range 4).foldl (fun v e => if ev.getLsbD e then
        v.setIfInBounds (4 * fmtIndex f + e) (v.getD (4 * fmtIndex f + e) 0 + 1) else v) v) l.fpDelta }

/-- The caches a read's answer fills (R50); of a level it does not fill, a copy that the reader could hit, and which may be
older than what it has read, goes (R111, R114). -/
def State.afterRead (s : State) (r : MemReq) (core k : Nat) (f1 fc : Bool) (rank : BitVec 2) : State :=
  let line := BitVec.ofNat 1024 (s.homeReadN (lineOf r.pa) r.key 128)
  let x := (s.core core).ctx k
  let n := clusterOf core
  let s := if fc then s.fillCl core r.pa r.key r.region line rank
    else s.modCluster n fun c => { c with lines := c.lines.filter fun l => !(l.pa == lineOf r.pa && decide (x.acqCl.toNat ≤ l.fill.toNat)) }
  if f1 then s.fillL1 core r.pa r.key r.region line rank none
  else s.modCore core fun c => { c with l1 := c.l1.filter fun l => !(l.pa == lineOf r.pa && decide (x.acqL1.toNat ≤ l.fill.toNat)) }

/-- A line of code for a core's instruction cache, filled through the cluster cache (R49). -/
def State.fillCode (s : State) (core pa key : Nat) (data : BitVec 1024) : State :=
  let (f, s) := s.free
  s.modCore core fun c =>
    { c with icache := fillLine c.icache ⟨lineOf pa, key, none, 0, data, 0, 0⟩ (List.range 64) (fun _ => 0) f.toNat }

/-- What a home gives a read (R70, R202): none when it comes marked as uncorrectable. -/
def State.homeGive (s : State) (r : MemReq) (n : Nat) : Option Nat :=
  if s.reqPoisoned r then none else some (if (s.firstTouch r).isSome then 0 else s.homeReadN r.pa r.key n)

/-- A slice's floating-atomic deltas added to their regions' counters (R92). -/
def State.flushSlice (s : State) (stack slice : Nat) : State :=
  let ds := ((s.stack stack).slice slice).fpDelta
  ds.foldl (fun s d => s.addCounters (stackCorner stack) d.1.1 d.1.2 d.2)
    (s.modStack stack (·.modSlice slice fun l => { l with fpDelta := [] }))

/-- Events of results counted at a slice; deltas that have reached 256 are added at once (R92). -/
def State.countAt (s : State) (stack slice : Nat) (r : MemReq) (os : List (Fmt × BitVec 4)) : State :=
  let s := s.modStack stack (·.modSlice slice fun l => os.foldl (fun l o => l.countEvents (r.tag.toNat, r.rcb) o.1 o.2) l)
  if ((s.stack stack).slice slice).fpDelta.any fun d => d.2.toList.any fun n => decide (256 ≤ n) then s.flushSlice stack slice else s

/-- What a slice does for the request at the head of its queue. -/
def State.serve (s : State) (t i : Nat) (r : MemReq) : State :=
  let s := s.free.2
  match r.op with
  | .read n f1 fc rank =>
    let s := s.touchLine r.pa r.key r.node false r.tag.toNat r.energyAt
    (match r.asker with
      | .load c k q j =>
        match s.homeGive r n with
        | none => s.bindPoison c k q j r.pa
        | some v =>
          let s := s.bindPart c k q j v
          if (s.firstTouch r).isSome then s else s.afterRead r c k f1 fc rank
      | .engine es e _ _ => s.modRun es e fun x => { x with got := x.got ++ [(r.va, s.homeGive r n)] }
      | .rma k => (s.modRma k fun w => { w with
          left := w.left - n
          got := insertAt r.va.toNat ((s.homeGive r n).map (toBytes n)) w.got }).rmaDone k
      | .fetch c =>
        match s.homeGive r n with
        | none => s
        | some v => (s.fillCl c r.pa r.key none (BitVec.ofNat 1024 v) rank).fillCode c r.pa r.key (BitVec.ofNat 1024 v)
      | _ => s)
  | .write m d =>
    let s := (((s.zeroSpan r).homeWrite r m d).raised r 16).touchLine r.pa r.key r.node true r.tag.toNat r.energyAt
    (match r.asker with
      | .rma k => s.modRma k fun w => { w with left := w.left - r.size }
      | _ => s)
  | .atomic a =>
    let s := s.touchLine r.pa r.key r.node true r.tag.toNat r.energyAt
    if s.reqPoisoned r then s.poisonAtom r
    else
      let s := s.zeroSpan r
      let old := s.homeRead r.pa a.bytes r.key
      let (new, outs) := a.apply old
      let s := ((s.homeWrite r (firstBytes a.bytes) (BitVec.ofNat 128 new)).raised r a.bytes).dropCopies r.node r.pa
      let s := s.countAt t i r (outs.map fun o => (o.1, o.2.ev))
      (s.chargeSlice t i 10 1 r.tag.toNat r.energyAt).answerAtom r.asker old
  | .engine w n =>
    let (f, s) := s.free
    let done (s : State) (fail : Option FaultInfo) : State :=
      match r.asker with
      | .engine es e _ _ => s.modRun es e fun x => { x with out := x.out - 1, failed := x.failed.or fail }
      | _ => s
    if w.reads && s.reqPoisoned r then done s (some (atAddr .poison (BitVec.ofNat 64 r.pa)))
    else
      let s := s.zeroSpan r
      let (bs, ev) := w.apply f.toNat (toBytes n (s.homeReadN r.pa r.key n))
      let s := s.countAt t i r ev.toList
      done (((s.homeWriteN r r.pa bs).raised r n).touchLine r.pa r.key r.node true r.tag.toNat r.energyAt) none
  | .sample => s

/-- SLICE_ANSWER (R49, R52, R62, R63, R70): the head of the queue is served. -/
def execSliceAnswer (stack slice : Nat) (s : State) : Out :=
  event (unitIn stack slice) <|
    match ((s.stack stack).slice slice).queue with
    | [] => s
    | r :: rest => (s.modStack stack (·.modSlice slice fun l => { l with queue := rest })).serve stack slice r

/-- Bytes a request moves. -/
def MemReq.bytes (r : MemReq) : Nat :=
  match r.op with
  | .read n _ _ _ => n
  | .atomic a => a.bytes
  | _ => r.size

/-- The migration that treats a page of a host or pool target (R358). -/
def State.migRemote (s : State) (r : MemReq) : Option (Nat × Nat × Mig) :=
  (List.range 64).findSome? fun i =>
    let m := (s.stack (i / 16)).migEntry (i % 16)
    if m.state.active && r.target != 0 && leafTgt m.oldLeaf == r.target && leafChip m.oldLeaf == r.chip &&
      leafFrame m.oldLeaf == r.pa / 2 ^ 16 then some (i / 16, i % 16, m) else none

/-- Whether a request writes bytes that a hold can keep. -/
def MemReq.holds (r : MemReq) : Bool :=
  match r.op with
  | .write .. | .engine .. => true
  | _ => false

/-- A store for a remote target that stands in its core's buffer has performed, and leaves it (R52, R337). -/
def State.ackStore (s : State) (core _k seq : Nat) : State :=
  match (s.core core).stores.find? (·.seq == seq) with
  | none => s
  | some st => s.popStore core st

/-- A write to a migrating page of a host or pool target (R358): held at the port, or sent on to the new frame's home. -/
def State.holdRemote (s : State) (r : MemReq) (data : Nat) : State :=
  match s.migRemote r with
  | none => s
  | some (t, e, m) =>
    if m.state == .forward then
      let r := { r with pa := newAddr m r.pa, key := leafKey m.dst, target := leafTgt m.dst, chip := leafChip m.dst }
      if r.target = 0 then { s with net := s.net ++ [r] } else { s with remote := s.remote ++ [r] }
    else
      let ws : List MemReq := match r.op with
        | .engine w n =>
          let bs := (w.apply 0 (toBytes n data)).1
          bs.mapIdx fun i b => { r with op := .write 1 (b.setWidth 128), pa := r.pa + i }
        | _ => [r]
      let s := s.modStack t (·.modMig e fun m => { m with held := m.held ++ ws })
      match r.asker with
      | .engine es g cmd w => (s.modRun es g fun x => { x with out := x.out - 1 }).weirSub w cmd r.size false r.tag r.rcb
      | .store c k q => s.ackStore c k q
      | _ => s

/-- REMOTE_TARGET_ACK (R52, R337): a target acknowledges an access, which gives a load or atomic its bytes `data`; a
transport failure raises POISON for a load, or for a store still in the store buffer. Writes to a page that migrates are held
at the port instead, and reads see what is held (R358). -/
def execRemoteTargetAck (k data : Nat) (poison : Bool) (s : State) : Out :=
  .next <| match s.remote[k]? with
    | none => s
    | some r =>
      if s.pairWaits r || !((s.remote.take k).all fun q => s.pairWaits q || !(q.node == r.node && q.pa == r.pa && q.target == r.target && q.chip == r.chip)) then s
      else
        let s : State := { s with remote := s.remote.eraseIdx k }
        let s := s.portCharge (s.devReg (.rte r.tag.toNat r.chip)) r.tag.toNat r.rcb r.bytes
        let data := (s.migRemote r).elim data fun m => m.2.2.held.foldl (heldOver r.pa r.bytes) data
        if r.holds && (s.migRemote r).isSome then s.holdRemote r data
        else match r.asker, r.op with
        | .load c x q i, .read n _ _ _ => if poison then s.bindPoison c x q i r.pa else s.bindPart c x q i (data % 256 ^ n)
        | .atomic .., .atomic a | .queued .., .atomic a =>
          if poison then s.poisonAtom r else s.answerAtom r.asker (data % 256 ^ a.bytes)
        | .engine es e _ _, .read n _ _ _ =>
          s.modRun es e fun x => { x with got := x.got ++ [(r.va, if poison then none else some (data % 256 ^ n))] }
        | .engine es e cmd w, _ =>
          (s.modRun es e fun x => { x with
            out := x.out - 1
            failed := x.failed.or (if poison then some (atAddr .poison (BitVec.ofNat 64 r.pa)) else none) }).weirSub w cmd r.size
              false r.tag r.rcb
        | .store c x q, _ =>
          if poison && ((s.core c).stores.any (·.seq == q) || (s.core c).sideLog.any (·.seq == q)) then
            (s.ackStore c x q).defer c x q (s.domainOf r.tag.toNat r.rcb) ⟨atAddr .poison (BitVec.ofNat 64 r.pa), 0⟩
          else s.ackStore c x q
        | _, _ => s

/-- SLICEOCC_WRITE (R62): the oldest write of a slice's register reaches it, and PEAK takes the present QDEPTH. -/
def execSliceoccWrite (stack slice : Nat) (s : State) : Out :=
  event (unitIn stack slice) <|
    let here (r : MemReq) : Bool := (match r.asker with | .occ .. => true | _ => false) && r.key == stack && r.pa == slice
    let i := s.net.findIdx fun r => here r && match r.op with | .write .. => true | _ => false
    match s.net[i]? with
    | none => s
    | some r =>
      if (s.net.take i).any (fun q => here q && q.node == r.node) then s
      else ({ s with net := s.net.eraseIdx i } : State).modStack stack (·.modSlice slice fun l => { l with peak := l.queue.length })

/-- SLICE_COUNTER_FLUSH (R92): a slice's floating-atomic deltas added to their regions' counters. -/
def execSliceCounterFlush (stack slice : Nat) (s : State) : Out :=
  event (unitIn stack slice) <|
    s.flushSlice stack slice

/-- BANK_MODE_DONE (R55): the bank is zeroed, takes its new mode and clears BUSY; the keeper's BANKMODE may end. -/
def execBankModeDone (cluster bank : Nat) (s : State) : Out :=
  event (clusterIn cluster && decide (bank < 16)) <|
    match ((s.cluster cluster).bank bank).busy with
    | none => s
    | some m =>
      let lo := csKey cluster bank 0
      let s : State := { s with mem := clearMem s.mem lo (lo + 2 ^ 16) }
      (s.modCluster cluster fun c => c.modBank bank (fun b => { b with mode := m, busy := none })).modCore (Config.keeperOf cluster) fun c =>
          { c with bankWait := c.bankWait.map fun w => if w.2.1 = bank then (w.1, w.2.1, true) else w }

/-- FPUNION_UPDATE (R89). -/
def execFpunionUpdate (cluster : Nat) (s : State) : Out :=
  event (clusterIn cluster) (s.modCluster cluster fun c => { c with fpunion := c.fpunion ||| c.fpRaised, fpRaised := 0 })

/-! ## Walks, misses and the side log (R343 to R353) -/

/-- Contexts of a cluster's cores that wait on a miss a test names. -/
def State.stalled (s : State) (cluster : Nat) (p : Stall → Bool) : List (Nat × Nat) :=
  (s.cores.filter fun c => clusterOf c.1 == cluster).flatMap fun c =>
    ((List.range 11).filter fun k => (c.2.ctx k).state == .xstall && (c.2.ctx k).stall.any p).map fun k => (c.1, k)

/-- The cores of a cluster that have been touched. -/
def State.livesIn (s : State) (cluster : Nat) : List Nat := (s.cores.map (·.1)).filter fun n => clusterOf n == cluster

/-- The contexts that waited for the side log of a core go on (R200). -/
def State.wakeLog (s : State) (core : Nat) : State :=
  s.modCore core fun c => c.modAll fun x => if x.stall.any (·.log) then x.unstall else x

/-- The side-log entries of a cluster a test names changed. -/
def State.modSide (s : State) (cluster : Nat) (p : SideEntry → Bool) (f : SideEntry → SideEntry) : State :=
  s.modCores (s.livesIn cluster) fun c => { c with sideLog := c.sideLog.map fun e => if p e then f e else e }

/-- Engine commands that wait on a page go on. -/
def State.wakeEngines (s : State) (cluster : Nat) (vpn : BitVec 48) : State :=
  (List.range 4).foldl (fun s t => s.modStack t fun k => { k with engines := k.engines.mapIdx fun _ g =>
    { g with run := g.run.map fun x => if clusterOf x.cmd.core = cluster && x.stalled == some vpn then { x with stalled := none } else x } }) s

/-- A side-log entry dropped (R353): its cause reported at the context's next issue, with FPC 0 (R362). -/
def State.dropSide (s : State) (core : Nat) (i : Nat) (e : SideEntry) (f : FaultInfo) : State :=
  let s := s.modCore core fun c => { c with sideLog := c.sideLog.eraseIdx i }
  (s.defer core e.ctx e.seq e.domain ⟨f, 0⟩).wakeLog core

/-- Every side-log entry of a core that a test names dropped, oldest first. -/
def State.dropSides (s : State) (core : Nat) (p : SideEntry → Bool) : Nat → State
  | 0 => s
  | n + 1 =>
    match findIndex p (s.core core).sideLog with
    | none => s
    | some i =>
      match (s.core core).sideLog[i]? with
      | none => s
      | some e => (s.dropSide core i e ⟨.page, pageDetail false 0 4 i, e.va⟩).dropSides core p n

/-- MISSDONE (R350): the pending miss closes; its accesses are walked again, or end with PAGE. -/
def execMissdone (cluster : Nat) (value : Word) (s : State) : Out :=
  event (clusterIn cluster) <|
    let i := bits value 3 0
    match ((s.cluster cluster).misses[i]?).getD none with
    | none => s
    | some m =>
      let s := s.modCluster cluster fun c => { c with misses := c.misses.setIfInBounds i none }
      if value.getLsbD 7 then
        let s := (s.stalled cluster fun t => t.index == some i).foldl (fun s (p : Nat × Nat) =>
          let t := ((s.core p.1).ctx p.2).stall
          (s.modCtxOf p.1 p.2 Ctx.unstall).raiseOf p.1 p.2
            (pageFault ((t.map (·.kind)).getD 0) ((t.map (·.va)).getD 0))) s
        let s := (s.livesIn cluster).foldl (fun s n => s.dropSides n (fun e => e.index == some i && !e.mapped) 32) s
        let s := (List.range 4).foldl (fun s t => s.modStack t fun k => { k with engines := k.engines.mapIdx fun _ g =>
          { g with run := g.run.map fun x => if clusterOf x.cmd.core = cluster && x.stalled == some m.vpn then
            { x with stalled := none, refused := some m.vpn } else x } }) s
        s.wakeRmas m.tag m.vpn true
      else
        let s := (s.stalled cluster fun t => t.index == some i).foldl (fun s (p : Nat × Nat) => s.modCtxOf p.1 p.2
          fun c => { c with stall := c.stall.map fun t => { t with index := none } }) s
        let s := s.modSide cluster (fun e => e.index == some i && !e.mapped) fun e => { e with index := none }
        s.modCluster cluster fun c => { c with walks := c.walks ++ [⟨m, none⟩] }

/-- KEEPER_PT_LOOKUP (R343, R346): the shard's keeper answers the cluster's oldest unanswered walk from the bucket. -/
def execKeeperPtLookup (cluster : Nat) (s : State) : Out :=
  event (clusterIn cluster) <|
    match findIndex (·.answer.isNone) (s.cluster cluster).walks with
    | none => s
    | some i => s.modCluster cluster fun c => { c with walks := c.walks.mapIdx fun j w =>
        if j = i then { w with answer := some (s.bucketLookup w.miss.tag.toNat w.miss.vpn.toNat) } else w }

/-- Accesses of a device's page that wait on a walk go on (R200, R350, R353). -/
def State.mapPage (s : State) (cluster : Nat) (tag : BitVec 16) (vpn : BitVec 48) : State :=
  let s := (s.stalled cluster fun t => t.vpn == vpn).foldl (fun s (p : Nat × Nat) => s.modCtxOf p.1 p.2 Ctx.unstall) s
  ((s.modSide cluster (fun e => e.va.extractLsb' 16 48 == vpn) fun e => { e with mapped := true }).wakeEngines cluster vpn).wakeRmas
    tag vpn false

/-- A page's entry in the TLB of the core whose access missed (R343): the ITLB for a fetch, none for an engine's or a port's
access. -/
def Core.install (c : Core) (kind : BitVec 3) (e : TlbEntry) : Core :=
  if kind = 3 then { c with itlb := e :: c.itlb } else if kind = 5 || kind = 6 then c else { c with dtlb := e :: c.dtlb }

/-- TRANSLATION_WALK (R343, R349, R350): the cluster's oldest answered walk ends: a translation installed and its accesses
let go on, or a pending miss opened; with all 16 open it waits on. -/
def execTranslationWalk (cluster : Nat) (s : State) : Out :=
  event (clusterIn cluster) <|
    match findIndex (·.answer.isSome) (s.cluster cluster).walks with
    | none => s
    | some i =>
      match (s.cluster cluster).walks[i]? with
      | none => s
      | some w =>
        let va := w.miss.vpn.toNat * 2 ^ 16
        let pop (s : State) : State := s.modCluster cluster fun c => { c with walks := c.walks.eraseIdx i }
        let found : Option TlbEntry := match w.answer with
          | some (some leaf) => some (pageEntry w.miss.tag va leaf)
          | _ => (s.treeLookup cluster w.miss.tag.toNat va).map fun (b, l, o, leaf) => ⟨w.miss.tag, b, l, o, leaf⟩
        match found with
        | some e =>
          let s := (pop s).modCluster cluster fun c => { c with tlb := e :: c.tlb }
          (s.modCore w.miss.core fun c => c.install w.miss.kind (pageOf e va)).mapPage cluster w.miss.tag w.miss.vpn
        | none =>
          let full := (s.cluster cluster).misses.toList.all fun o => o.isSome && !(o.any fun p => p.tag == w.miss.tag && p.vpn == w.miss.vpn)
          if full then s.modCluster cluster fun c => { c with walks := c.walks.eraseIdx i ++ [⟨w.miss, none⟩] }
          else
            let (j, s) := (pop s).openMiss w.miss
            let s := (s.stalled cluster fun t => t.vpn == w.miss.vpn && t.index.isNone).foldl
              (fun s (p : Nat × Nat) => s.modCtxOf p.1 p.2 fun c => { c with stall := c.stall.map fun t => { t with index := j } }) s
            s.modSide cluster (fun e => e.va.extractLsb' 16 48 == w.miss.vpn && e.index.isNone && !e.mapped)
              fun e => { e with index := j }

/-- The store a side-log entry stands for, once translated. -/
def sideAsStore (e : SideEntry) (target : Nat) (leaf energyAt : Word) : Store :=
  ⟨e.seq, e.ctx, e.va, 16, e.mask, e.data, target, leafKey leaf, false, leafTgt leaf != 0, none, e.view, e.rcb, leaf, energyAt⟩

/-- Place of the lowest byte of a mask. -/
def lowByte (m : BitVec 16) : Nat := lowestOne 16 m.toNat % 16

/-- Room for a no-return atomic in the atomic queue, or in the spill ring behind it (R211). -/
def Core.atomRoom (c : Core) : Bool := decide (c.atomQ.length < 8) || decide (c.spill.length < 256)

/-- A no-return atomic put into the atomic queue, or behind it into the spill ring (R211). -/
def Core.queueAtom (c : Core) (a : AtomEntry) : Core :=
  if c.atomQ.length < 8 then { c with atomQ := c.atomQ ++ [a] } else { c with spill := c.spill ++ [.atom a] }

/-- Whether the access of an entry that has been made is still on its way: the store has not performed, or the atomic has not been
applied (R353). -/
def State.sideOut (s : State) (core : Nat) (e : SideEntry) : Bool :=
  let c := s.core core
  (c.atomQ ++ c.atomsOut).any (·.seq == e.seq) || (c.spill.any fun x => match x with
    | .atom a => a.seq == e.seq
    | .out _ => false) || s.requests.any fun r => match r.asker with
    | .store n _ q => n == core && q == e.seq
    | _ => false

/-- SIDE_LOG_REPLAY (R353): entry `k` of a core's log, the oldest of its page, is made as issued once its page is mapped: a
store behind the older stores of the core and the older accesses of its bytes (R111, R122), an atomic through the atomic
queue (R115). The entry leaves the log once its store has performed or its atomic is applied. -/
def execSideLogReplay (core k : Nat) (s : State) : Out :=
  event (coreIn core) <|
    match (s.core core).sideLog[k]? with
    | none => s
    | some e =>
      let page (a : Word) : Nat := a.toNat / 2 ^ 16
      let older := ((s.core core).sideLog.take k).any (fun d => !d.sent && page d.va == page e.va)
      let pop (s : State) : State := (s.modCore core fun c => { c with sideLog := c.sideLog.eraseIdx k }).wakeLog core
      if e.sent then (if s.sideOut core e then s else pop s)
      else
      let gate := if e.atom.isSome then some true else s.pairGate core e.ctx e.seq
      let behind := if e.atom.isSome then !(s.core core).atomRoom
        else (s.core core).stores.any (fun st => decide (st.seq < e.seq)) || !(s.core core).mayDrain (sideAsStore e 0 0 0)
      if !e.mapped || older || behind || gate.isNone then s
      else if gate = some false then pop s
      else
        let va := e.va + BitVec.ofNat 64 (lowByte e.mask)
        let send (s : State) : State :=
          (s.modCore core fun c => { c with sideLog := c.sideLog.modify k fun d => { d with sent := true } }).wakeLog core
        let kind : AccKind := if e.atom.isSome then .atn else .store
        match s.translate core false va with
        | (none, s) =>
          let (i, s) := s.openMiss ⟨s.tagOf core, va.extractLsb' 16 48, 4, va, core, e.ctx, BitVec.ofNat 5 k⟩
          s.modCore core fun c => { c with sideLog := c.sideLog.map (fun d =>
            if !d.sent && page d.va == page e.va then { d with mapped := false, index := i } else d) }
        | (some (t, l), s) =>
          match s.checkLeaf (s.tagOf core).toNat kind va e.view.isSome t l with
          | .fault f =>
            s.dropSide core k e (if f.cause == .page then ⟨.page, pageDetail false 0 4 k, e.va⟩ else atAddr f.cause e.va)
          | _ =>
            let ea := ((s.core core).ctx e.ctx).region.energyAt
            match e.atom with
            | some a => (send s).modCore core (·.queueAtom ⟨e.seq, e.ctx, va, t, leafKey l, leafTgt l != 0, e.view, a, e.scope, e.pc, e.rcb, l, ea⟩)
            | none =>
              let st := sideAsStore e (t - lowByte e.mask) l ea
              if st.remote then { send s with remote := s.remote ++ [storeReq s core st false] } else (send s).storeOut core st

end Sys2Proof.Machine
end

