-- ==== Sys2Proof/Machine/Bodies.lean ====
section
/-!
DEFINITION. How a body starts, whatever starts it (R24 to R26, R51, R338), and the helpers that may take one (R22).
-/

namespace Sys2Proof.Machine

/-- A sender outside the package: the host or a peer. -/
def outsider : Nat := Config.workers + Config.clusters

/-- The scope at which a body that consumed a message acquires (R51, R333). -/
def acquireScope (core : Nat) (m : Msg) : Scope :=
  widest m.scope (if outsider ≤ m.sender then .sys else smallestScope core m.sender)

/-- What a body starts with besides its context: entry, region, x4 and x5, its m registers and views, and MSTAT (R24,
R25). -/
structure BodyStart where
  entry  : Word
  rcb    : Word
  x4     : Word
  x5     : Word
  m      : List Word
  views  : List View
  mstat  : Word
  scope  : Scope
  cover  : List Cover
  deriving DecidableEq, Repr

/-- MSTAT of a body (R25): origin, rank, and per position the status, word count and view bit. -/
def mstatOf (origin : Origin) (rank : Nat) (ms : List (Status × Payload)) : Word :=
  let words : Payload → Nat
    | .words ws | .ladle _ ws => ws.length - 1
    | .view _ => 0
  let isView : Payload → Nat
    | .view _ => 1
    | _ => 0
  let code : Status → Nat
    | .data => 0 | .error => 1 | .undeliv => 2 | .notice => 3
  let org : Nat := match origin with
    | .firing => 0 | .hstart => 1 | .spawn => 2 | .launch => 3
  let at_ (f : Status × Payload → Nat) (w : Nat) : Nat := ((ms.mapIdx fun p x => f x * 2 ^ (w * p)).sum)
  BitVec.ofNat 64 (org * 2 ^ 30 + rank * 2 ^ 27 + at_ (fun x => isView x.2) 1 * 2 ^ 20 + (ms.length - 1) * 2 ^ 18 +
    at_ (fun x => words x.2) 2 * 2 ^ 8 + at_ (fun x => code x.1) 2)

/-- The m registers of consumed messages: position p's words from m(4p) up (R24). -/
def messageRegs (ms : List Payload) : List Word :=
  ms.flatMap fun p =>
    let ws : List Word := match p with
      | .words ws | .ladle _ ws => ws
      | .view _ => []
    (ws ++ List.replicate 4 0).take 4

/-- The views of consumed messages, in increasing position order (R24). -/
def messageViews (ms : List Payload) : List View :=
  ms.filterMap fun p => match p with
    | .view v => some v
    | _ => none

/-- A context assigned to a body: LOADING, with the state of R24; its acquire epochs and flags counts stay its own. -/
def Ctx.begin (old : Ctx) (b : BodyStart) (seq : Nat) : Ctx :=
  { Ctx.reset with
    pc := wordAlign b.entry
    x := (((Vector.replicate 32 (0 : Word)).set 3 b.rcb).set 4 b.x4).set 5 b.x5
    m := Vector.ofFn fun i => b.m.getD i.val 0
    w := Vector.ofFn fun i => b.views.getD i.val View.null
    state := .loading
    mstat := b.mstat
    rcbptr := b.rcb
    entry := wordAlign b.entry
    start4 := b.x4
    start5 := b.x5
    acqL1 := old.acqL1
    acqCl := old.acqCl
    fpDelta := old.fpDelta
    startScope := b.scope
    startCover := b.cover
    region := { Region.none with rcb := b.rcb }
    live := true
    since := seq }

/-- A context of a core assigned to a body (R24, R26). -/
def State.startBody (s : State) (core k : Nat) (b : BodyStart) : State :=
  let (q, s) := s.nextSeq
  s.modCtxOf core k fun c => c.begin b q

/-- The FREE helpers of a core, in rising order (R26). -/
def Core.freeHelpers (c : Core) : List Nat := (span 1 10).filter fun k => (c.ctx k).state == .free

/-- Whether the control context waits for a helper at an HSTART (R22, R231). -/
def Core.hstartWaits (c : Core) : Bool := (c.ctx 0).claim && (c.ctx 0).state == .waiting

/-- The helpers a firing or a spawn item may take: an HSTART that waits has the first claim (R22). -/
def Core.helpersFor (c : Core) : List Nat := if c.hstartWaits then c.freeHelpers.drop 1 else c.freeHelpers

/-- Whether bodies of a region may start from the sluice of a core: its pound runs, its energy and core-cycle budgets are above zero, its
slice has not ended, its flight is not halted and its stack is not throttled (R20, R38, R365, R401). A region that does
not resolve holds nothing back: its body starts FROZEN (R338). -/
def State.mayFire (s : State) (core : Nat) (rcb : Word) : Bool :=
  let c := s.core core
  s.poundUp core && !c.stopping && !c.halted && c.killing.isNone && !(s.stack (stackOf core)).throttled &&
    match s.regionOf (s.tagOf core).toNat rcb with
    | .error _ => true
    | .ok r => (s.exhausted (s.tagOf core).toNat r).isNone

/-! ## What snivis prints of a context (R290, R313) -/

/-- The full/empty bits as the debug window shows them (R362): bit 1 means full. -/
def Ctx.feWord (c : Ctx) : Word := BitVec.ofNat 64 (c.xfull.toNat + c.vfull.toNat * 2 ^ 32 + c.wfull.toNat * 2 ^ 48)

/-- The words of a register a session names. -/
def Ctx.snv (c : Ctx) : SnvReg → List Word
  | .pc => [c.pc]
  | .x i => [c.readX i]
  | .v i => [(c.readV i).setWidth 64, ((c.readV i) >>> 64).setWidth 64]
  | .m i => [c.readM i.toNat]
  | .w i => [(c.readW i).base, BitVec.ofNat 64 ((c.readW i).region.toNat * 2 ^ 40 + (c.readW i).handle.toNat * 2 ^ 8 +
      num (c.readW i).canW * 2 ^ 7 + num (c.readW i).canR * 2 ^ 6 + num (c.readW i).canA * 2 ^ 5 +
      (c.readW i).status.toNat * 2 ^ 2), (c.readW i).hi ++ (c.readW i).lo]
  | .mstat => [c.mstat]
  | .fpctl => [c.fpctl]
  | .fpflags => [c.fpflags]
  | .wdleft => [c.wdleft.setWidth 64]
  | .fe => [c.feWord]

/-- A line of the session's output. -/
def State.print (s : State) (cmd : String) (vs : List Word) : State := { s with console := s.console ++ [⟨cmd, [], vs⟩] }

/-- A line of the session's output with its texts: the names of the cores and the code that its values give by number. -/
def State.printText (s : State) (cmd : String) (text : List String) (vs : List Word) : State :=
  { s with console := s.console ++ [⟨cmd, text, vs⟩] }

/-- How the session names a core (R313): by (x, y) from the corner core of its pound; a keeper by its cluster. -/
def State.coreText (s : State) (core : Nat) : String :=
  if isKeeper core then "keeper " ++ toString (clusterOf core)
  else
    let k := ((s.snivis.tag.bind s.poundOfTag).map fun p => nodeCorner p.record.node).getD 0
    "(" ++ toString ((coreX core : Int) - 8 * (k % 32 : Nat)) ++ ", " ++ toString ((coreY core : Int) - 8 * (k / 32 : Nat)) ++ ")"

/-- How the session names code (R313): as a symbol, as BODY+offset, or as an address. -/
def State.codeText (s : State) (va : Word) : String :=
  match s.snivis.syms.find? fun y => (y.kind == .label || y.kind == .body) && y.value == va with
  | some y => y.name
  | none =>
    match s.snivis.syms.find? fun y => y.kind == .body && decide ((va - y.value).toNat < y.size) with
    | some y => y.name ++ "+" ++ toString (va - y.value).toNat
    | none => "0x" ++ String.ofList (Nat.toDigits 16 va.toNat)

/-- CONTEXT_LOADED (R24, R26, R51, R338): LOADING ends, after an HSTART once the earlier accesses of the control context have
performed at core scope (R116): the chain of blocks is read, the acquire is made, and the body
runs; on a broken block it is FROZEN with PAGE at the block's address. -/
def execContextLoaded (core ctx : Nat) (s : State) : Out :=
  event (coreIn core && decide (ctx < 11)) <|
    let c := (s.core core).ctx ctx
    if c.state ≠ .loading || !c.startCover.all (s.performed .core true) then s
    else match s.regionOf (s.tagOf core).toNat c.rcbptr with
      | .error a => s.raiseOf core ctx (pageFault 0 a)
      | .ok r => (s.acquire core ctx c.startScope).modCtxOf core ctx
          fun c => { c with state := .running, region := r, wdleft := r.wdog }

end Sys2Proof.Machine
end

