-- ==== Sys2Proof/Machine/Flags.lean ====
section
/-!
DEFINITION. Flags: FPCTL and FPFLAGS writes (R87, R88), the flags and counted events of scalar and vector results (R92,
R183, R246), and the registers the flags live in.
-/

namespace Sys2Proof.Machine

/-- FPCTL after a write (R87): QLIM of 65 to 127 stores 64, RM of 101 to 111 leaves RM unchanged. -/
def fpctlWrite (old v : Word) : Word :=
  let q := bits v 14 8
  let r := bits v 2 0
  BitVec.ofNat 64 ((if 64 < q then 64 else q) * 2 ^ 8 + (if 4 < r then bits old 2 0 else r))

/-- FPFLAGS after a write (R88). -/
def fpflagsWrite (v : Word) : Word := BitVec.ofNat 64 (bits v 4 0)

/-- FPCTL.QLIM of a context (R87). -/
def Ctx.qlim (c : Ctx) : Nat := bits c.fpctl 14 8

/-- A scalar result's flags raised and, when it raised any, its events counted (R183). -/
def State.scalarFlags (s : State) (f : Fmt) (o : FOut) : State :=
  if o.flags = 0 then s else (s.raiseFlags o.flags).modCtx (·.countEvents (fmtIndex f) o.ev)

/-- The union of the flags of the active lanes raised, and each lane's events counted (R88, R92, R246). -/
def State.laneFlags (s : State) (f : Fmt) (outs : List FOut) : State :=
  (s.raiseFlags (outs.foldl (fun a o => a ||| o.flags) 0)).modCtx fun c =>
    outs.foldl (fun c o => c.countEvents (fmtIndex f) o.ev) c

/-- Whether a producer of the context may still raise a flag when its value arrives (R189, R250). -/
def Pend.mayRaise (p : Pend) : Bool :=
  match p.finish with
  | .known _ _ f => f != 0
  | .vldf .. => true
  | _ => false

end Sys2Proof.Machine
end

