-- ==== Sys2Proof/Machine/Outbox.lean ====
section
/-!
DEFINITION. What leaves a core: the outbox and its spill ring (R30, R48), releases (R116), and the budget test some words make (R400).
-/

namespace Sys2Proof.Machine

/-- Whether a spill-ring entry is an outbox spill. -/
def Spill.isOut : Spill → Bool
  | .out _ => true
  | .atom _ => false

/-- The smallest scope containing a core and the home that a channel name gives (R109, R116). -/
def homeScope (core : Nat) (name : Word) : Scope :=
  if nameChip name = Config.chip.toNat then smallestScope core (nameCore name) else .sys

/-- The accesses a release of the acting context covers: all it has issued (R116). -/
def State.coverNow (s : State) : List Cover × State :=
  let (q, s) := s.nextSeq
  ([⟨s.cur.1, s.cur.2, q⟩], s)

/-- A tensor shape record as a pair's router compares it (R393). -/
def Tsr.digest (t : Tsr) : List Nat :=
  [t.base.toNat, t.fmt.toNat, t.rank, t.rm.toNat, t.qlim] ++ t.ext ++ t.str.map (fun z => (BitVec.ofInt 64 z).toNat) ++ t.org ++
    t.clip ++ (t.view.elim [] fun v => [v.handle.toNat])

/-- An engine's operation as a pair's router compares it (R393). -/
def EngOp.digest : EngOp → List Nat
  | .cpy => [0]
  | .cpya => [1]
  | .cpyw t o => [2, t, o]
  | .cpyg ix => 3 :: ix
  | .drain add vs => num add :: vs.flatMap fun v => match v with
      | .nan s => [4, num s]
      | .inf n => [5, num n]
      | .fin n m e => [6, num n, m, (BitVec.ofInt 64 e).toNat]

/-- What an outbox entry holds, as a pair's router compares it: nothing that names the copy's own core (R393). -/
def OutItem.digest : OutItem → List Nat
  | .msg m => [2, m.name.toNat] ++ payload m.payload
  | .svc m => [3] ++ (payload m.payload).drop 1
  | .spawn it => [4, it.entry.toNat, it.hint, it.radius] ++ it.words.map (·.toNat)
  | .view t r => [5, t] ++ match r with
      | .alloc _ _ _ wd n _ _ _ => [0, wd.toNat, n.toNat]
      | .split _ _ _ wd ws v x => [1, wd.toNat, ws.toNat, v.handle.toNat, x.toNat]
      | .share _ _ _ wd v => [2, wd.toNat, v.handle.toNat]
      | .notice h _ i => [3, h.toNat] ++ (i.elim [] fun p => [p.1.toNat, p.2.toNat])
  | .engine t e c => [6, t, e, c.weir.toNat, c.bytes] ++ c.op.digest ++ c.dst.digest ++ c.src.digest
  | .weir t w => [7, t] ++ match w with
      | .charge h n _ _ _ => [0, h.toNat, n]
      | .add h n _ _ => [1, h.toNat, n.toNat, (-n).toNat]
      | .arm h f _ _ => [2, h.toNat, num f]
      | .create _ _ _ c _ _ _ => [3, c.toNat]
      | .read _ _ _ h _ => [4, h.toNat]
  | .marker n => [8, n]
where
  payload : Payload → List Nat
    | .words ws => 0 :: ws.map (·.toNat)
    | .view v => [1, v.handle.toNat, v.lo.toNat, v.hi.toNat]
    | .ladle _ ws => 2 :: ws.map (·.toNat)

/-- An entry placed in a core's outbox, or at the tail of its spill ring behind earlier spills; none when both are full
(R30). -/
def State.placeAt (s : State) (core : Nat) (e : OutEntry) : Option State :=
  let (q, s) := s.nextSeq
  let e := { e with seq := q }
  let s := s.pairNote core e.ctx q e.item.digest
  let c := s.core core
  if c.outbox.length < 16 && !c.spill.any Spill.isOut then
    some ((s.modCore core fun c => { c with outbox := c.outbox ++ [e] }).note (.sent core))
  else if c.spill.length < 256 then
    some ((s.modCore core fun c => { c with spill := c.spill ++ [.out e] }).note (.spilled core))
  else none

/-- Whether a core's outbox and spill ring are both full (R30). -/
def Core.outFull (c : Core) : Bool := (decide (16 ≤ c.outbox.length) || c.spill.any Spill.isOut) && decide (256 ≤ c.spill.length)

/-- An entry of the acting context placed, or OUTBOX_OVERFLOW (R30). -/
def State.place (s : State) (e : OutEntry) (k : State → Did) : Did :=
  match s.placeAt s.cur.1 e with
  | none => .fault s (plain .outboxOverflow)
  | some s => k s

/-- A message of the acting context, in its region's name (R15, R34, R116). -/
def State.msgOf (s : State) (name : Word) (p : Payload) (sc : Scope) (cover : List Cover) : Msg where
  name := name
  status := .data
  payload := p
  chip := Config.chip
  sender := s.cur.1
  scope := sc
  cover := cover
  errCh := s.ctx.region.errCh
  lostAt := s.ctx.region.rcb
  isReturn := false
  tag := BitVec.ofNat 16 (s.tagOf s.cur.1).toNat

/-- A notice of a view of the acting context, held until the accesses made through the view have completed (R80, R215). -/
def State.viewEntry (s : State) (v : View) (interval : Option (BitVec 32 × BitVec 32)) : OutEntry × State :=
  let (cv, s) := s.coverNow
  (⟨.view (regionStack v.region) (.notice v.handle v.region interval), s.cur.2, .dev, cv, some v.handle, 0⟩, s)

/-- What is left of the energy budget that supplies a region, this core's own charges taken off (R190). -/
def State.energyLeft (s : State) (core : Nat) (r : Region) : Nat :=
  s.budget (s.tagOf core).toNat r.energyAt 0 - lookupKey 0 r.energyAt (s.core core).energy / 16

/-- The BUDGET fault of the words of R400: the code of the budget read as 0, and the region's block. -/
def State.budgetFault (s : State) : Option FaultInfo :=
  let r := s.ctx.region
  if s.energyLeft s.cur.1 r = 0 then some ⟨.budget, 0, r.rcb⟩
  else if s.budget (s.tagOf s.cur.1).toNat r.cyclesAt 1 = 0 then some ⟨.budget, 1, r.rcb⟩
  else none

/-- A word of R400: BUDGET, or its effect. -/
def State.budgeted (s : State) (k : State → Did) : Did :=
  match s.budgetFault with
  | some f => .fault s f
  | none => k s

/-- A piece of a producer that is no access of memory: nothing overlaps it (R156). -/
def hollow : Piece := ⟨0, 0, 0, 0, 0, false, false, 0, 0, none⟩

/-- A producer of the acting context whose value another unit gives later (R156), and the view it counts as an access
through (R80). -/
def State.awaitVia (s : State) (seq : Nat) (dest : Dest) (fin : Finish) (view : Option (BitVec 32 × BitVec 24)) : State :=
  s.modCtx fun c => { c.markDest dest false with
    pends := c.pends ++ [⟨seq, dest, [hollow], fin, true, none, c.pc, false, none, view⟩] }

/-- A producer of the acting context whose value another unit gives later (R156). -/
def State.await (s : State) (seq : Nat) (dest : Dest) (fin : Finish) : State := s.awaitVia seq dest fin none

/-- A producer of the acting context whose value is known at issue and arrives later, with the flags its arrival raises
(R156, R250). -/
def State.awaitKnown (s : State) (dest : Dest) (v v2 : BitVec 192) (flags : BitVec 5) : State :=
  let (seq, s) := s.nextSeq
  s.modCtx fun c => { c.markDest dest false with
    pends := c.pends ++ [⟨seq, dest, [], .known v v2 flags, true, none, c.pc, false, none, none⟩] }

end Sys2Proof.Machine
end

