-- ==== Sys2Proof/Machine/Control.lean ====
section
/-!
DEFINITION. Control registers, branches and jumps, END, TRAP, BKPT and SVC, and the HINT words (R153 to R162, R189 to R198).
-/

namespace Sys2Proof.Machine

/-! ## Control registers (R189, R190) -/

/-- COREID (R190). -/
def coreId (s : State) (core : Nat) : Word :=
  BitVec.ofNat 64 (Config.chip.toNat * 2 ^ 56 + num (isKeeper core) * 2 ^ 32 + (s.tagOf core).toNat * 2 ^ 16 +
    (if isKeeper core then clusterOf core else core))

/-- A control register read by the acting context. -/
def crRead (s : State) (n : Nat) : Word :=
  let c := s.ctx
  if n = 0x000 then coreId s s.cur.1
  else if n = 0x001 then BitVec.ofNat 64 s.cur.2
  else if n = 0x002 then c.rcbptr
  else if n = 0x010 then c.fpctl
  else if n = 0x011 then c.fpflags
  else if n = 0x012 then (s.cluster (clusterOf s.cur.1)).fpunion.setWidth 64
  else if n = 0x020 then c.mstat
  else if n = 0x021 then c.wdleft.setWidth 64
  else if 0x022 ≤ n ∧ n ≤ 0x025 then c.owe.getD (n - 0x022) 0
  else if n = 0x030 then s.me.cycle
  else if n = 0x031 then BitVec.ofNat 64 (s.energyLeft s.cur.1 c.region)
  else if 0x100 ≤ n then s.me.perf.getD (n - 0x100) 0
  else 0

/-- A control register written by the acting context, field by field (R4, R87, R88, R190); its read-only fields do not
change. -/
def crWrite (s : State) (n : Nat) (v : Word) : State :=
  if n = 0x010 then s.modCtx fun c => { c with fpctl := fpctlWrite c.fpctl v }
  else if n = 0x011 then s.modCtx fun c => { c with fpflags := fpflagsWrite v }
  else if n = 0x012 then s.modCluster (clusterOf s.cur.1) fun k => { k with fpunion := k.fpunion &&& ~~~(v.setWidth 5) }
  else if 0x022 ≤ n ∧ n ≤ 0x025 then s.modCtx fun c => { c with owe := c.owe.setIfInBounds (n - 0x022) v }
  else if 0x100 ≤ n then s.modMe fun c => { c with
    perf := c.perf.setIfInBounds (n - 0x100) (v &&& 0xFF80FFFFFFFFFFFF) }
  else s

/-- The keeper-only register (R190). -/
def crPriv (n : BitVec 12) : Bool := n == 0x012
/-- Whether a number names a slice's register (R62). -/
def crSlice (n : BitVec 12) : Bool := decide (0x040 ≤ n.toNat) && decide (n.toNat ≤ 0x04F)

/-- A request of the acting context for slice `i` of its own stack (R62). -/
def occReq (s : State) (i seq : Nat) (op : MemOp) : MemReq where
  asker := .occ s.cur.1 s.cur.2 seq
  op := op
  va := 0
  pa := i
  key := stackOf s.cur.1
  region := none
  tag := s.tagOf s.cur.1
  node := s.cur.1
  rcb := s.ctx.region.rcb
  energyAt := s.ctx.region.energyAt
  clusDone := false
  strong := none
  chip := 0
  target := 0

/-- A slice's register read: the destination is empty until the value arrives (R62, R156). -/
def occRead (s : State) (rd : BitVec 5) (n : BitVec 12) : State :=
  let (seq, s) := s.nextSeq
  let s := s.await seq (if rd = 0 then .none else .x rd) .whole
  { s with net := s.net ++ [occReq s (n.toNat - 0x040) seq .sample] }

/-- A slice's register written (R62). -/
def occWrite (s : State) (n : BitVec 12) : State :=
  let (seq, s) := s.nextSeq
  { s with net := s.net ++ [occReq s (n.toNat - 0x040) seq (.write 0 0)] }

/-- Whether an access to FPFLAGS must wait for the flags of earlier instructions (R189). -/
def flagsWait (s : State) (n : BitVec 12) : Bool :=
  n == 0x011 && (s.ctx.rep.isSome || s.ctx.pends.any Pend.mayRaise)

/-- CRR (R189). -/
def execCrr (o : CrRead) : State → Out :=
  issue { priv := crPriv o.reg, dests := [.x o.rd] } fun s =>
    if flagsWait s o.reg then .stay s
    else if crSlice o.reg then .done (occRead s o.rd o.reg)
    else .done (s.modCtx (·.writeX o.rd (crRead s o.reg.toNat)))

/-- CRW (R189). -/
def execCrw (o : CrWrite) : State → Out :=
  issue { priv := crPriv o.reg, srcs := [(.x o.ra, o.ea)] } fun s =>
    if crSlice o.reg then .done (occWrite s o.reg)
    else .done (crWrite s o.reg.toNat (s.ctx.readX o.ra))

/-- CRS and CRC (R189): one indivisible read and write. -/
def crModify (f : Word → Word → Word) (o : CrMod) : State → Out :=
  issue { priv := crPriv o.reg, srcs := [(.x o.ra, o.ea)], dests := [.x o.rd] } fun s =>
    if flagsWait s o.reg then .stay s
    else if crSlice o.reg then .done (occWrite (occRead s o.rd o.reg) o.reg)
    else
      let old := crRead s o.reg.toNat
      .done ((crWrite s o.reg.toNat (f old (s.ctx.readX o.ra))).modCtx (·.writeX o.rd old))

/-- CRS (R189). -/
def execCrs (o : CrMod) : State → Out := crModify (fun old a => old ||| a) o
/-- CRC (R189). -/
def execCrc (o : CrMod) : State → Out := crModify (fun old a => old &&& ~~~a) o

/-! ## Branches and jumps (R191, R192) -/

/-- A conditional branch (R191): no delay slot, and the target is not fetched here. -/
def branch (t : Word → Word → Bool) (o : Branch) : State → Out :=
  issue { imm := true, srcs := [(.x o.ra, false), (.x o.rb, false)] } fun s =>
    let c := s.ctx
    if t (c.readX o.ra) (c.readX o.rb) then .jump s (c.pc + BitVec.ofInt 64 (4 * c.immS o.off)) else .done s

/-- BEQ (R191). -/
def execBeq (o : Branch) : State → Out := branch (fun a b => a == b) o
/-- BNE (R191). -/
def execBne (o : Branch) : State → Out := branch (fun a b => a != b) o
/-- BLT (R191). -/
def execBlt (o : Branch) : State → Out := branch (fun a b => a.slt b) o
/-- BGE (R191). -/
def execBge (o : Branch) : State → Out := branch (fun a b => !a.slt b) o
/-- BLTU (R191). -/
def execBltu (o : Branch) : State → Out := branch (fun a b => a.ult b) o
/-- BGEU (R191). -/
def execBgeu (o : Branch) : State → Out := branch (fun a b => !a.ult b) o

/-- JAL (R192): PC + 4 to x31. -/
def execJal (off : BitVec 26) : State → Out :=
  issue { imm := true, dests := [.x 31] } fun s =>
    let pc := s.ctx.pc
    .jump (s.modCtx (·.writeX 31 (pc + 4))) (pc + BitVec.ofInt 64 (4 * s.ctx.immS off))

/-- JALR (R192): the target is read before rd is written; a target that is no word address raises ALIGN. -/
def execJalr (o : ImmI) : State → Out :=
  issue { imm := true, srcs := [(.x o.ra, o.ea)], dests := [.x o.rd] } fun s =>
    let t := s.ctx.readX o.ra + BitVec.ofInt 64 (s.ctx.immS o.imm)
    if t.toNat % 4 ≠ 0 then .fault s (atAddr .align t)
    else .jump (s.modCtx (·.writeX o.rd (s.ctx.pc + 4))) t

/-! ## END, TRAP, BKPT, SVC (R193 to R195) -/

/-- Whether every register of a context is full. -/
def Ctx.allFull (c : Ctx) : Bool := c.xfull == BitVec.allOnes 32 && c.vfull == BitVec.allOnes 16 && c.wfull == BitVec.allOnes 8

/-- The live views of the acting context dropped while there is room for their notices (R76, R193). -/
def dropViews (s : State) : State :=
  (List.range 8).foldl (fun s i =>
    let v := s.ctx.readW (BitVec.ofNat 3 i)
    if !v.live then s
    else
      let (e, t) := s.viewEntry v none
      match t.placeAt s.cur.1 e with
      | none => s
      | some t => t.modCtx (·.writeW (BitVec.ofNat 3 i) View.null)) s

/-- What a body's end leaves of a context: FREE or IDLE (R26, R193). -/
def Ctx.ended (c : Ctx) : Ctx :=
  { c with state := .free, live := false, group := none, rep := none, pends := [], stall := none, deferred := [],
           stepping := false, slot := [], arrival := none }

/-- END (R193): waits for its empty registers, adds its event counts, drops its views, and frees its context; a copy of a
paired body waits there for its router to find both copies alike (R393). -/
def execEndBody : State → Out :=
  issue { noHint := true, rep := true } fun s =>
    if !s.ctx.allFull then .wait s
    else
      let s := dropViews (s.flushCounters s.cur.1 s.cur.2)
      if s.ctx.w.toList.any View.live then .stay s
      else if (s.me.pairOf s.cur.2).isSome then
        .stay (s.modMe fun c => { c with pairs := c.pairs.map (fun p => if p.ctx = s.cur.2 then { p with done := true } else p) })
      else .ended ((((s.postEnergy s.cur.1).note (.issued s.cur.1 s.cur.2 0 false)).modCtx Ctx.ended).modMe
        fun c => { c with sluiceDue := true })

/-- TRAP (R194): its own fault, with the code. -/
def execTrap (code : BitVec 16) : State → Out :=
  issue {} fun s => .fault s ⟨.trap, code.setWidth 24, 0⟩
/-- BKPT (R194): its own fault, with the code. -/
def execBkpt (code : BitVec 16) : State → Out :=
  issue {} fun s => .fault s ⟨.bkpt, code.setWidth 24, 0⟩

/-- Word 0 of an SVC request (R195). -/
def svcWord (core ctx : Nat) (code : BitVec 16) : Word :=
  BitVec.ofNat 64 (Config.chip.toNat * 2 ^ 56 + core % 2 ^ 15 * 2 ^ 41 + ctx * 2 ^ 37 + code.toNat)

/-- SVC (R195): a request to the keeper's service channel, a release at cluster scope; x10 is empty until the keeper
writes it. -/
def execSvc (code : BitVec 16) : State → Out :=
  issue { srcs := [(.x 10, false), (.x 11, false), (.x 12, false)], dests := [.x 10] } fun s =>
    let c := s.ctx
    let (cv, s) := s.coverNow
    let ws := [svcWord s.cur.1 s.cur.2 code, c.readX 10, c.readX 11, c.readX 12]
    let m := s.msgOf (s.devReg (.svcCh (clusterOf s.cur.1))) (.words ws) .clus cv
    s.place ⟨.svc m, s.cur.2, .clus, cv, none, 0⟩ fun s => .done (s.modCtx (·.mark (.x 10) false))

/-! ## HINT words (R153, R157 to R162, R198) -/

/-- A HINT word: it joins the group it stands in, or begins one; a second of its kind makes the group ill formed (R161).
It issues in its own slot and takes no energy class but the scalar one. -/
def hint (has : Group → Bool) (add : Group → Group) (sched : Ctx → Ctx) (s : State) : Out :=
  match s.ctx.deferred with
  | d :: _ => .next (s.raiseDeferred s.cur.1 s.cur.2 d)
  | [] =>
    let c := s.ctx
    let g := c.group.getD ⟨c.pc, c.ir, none, none, none⟩
    if c.group.any has then .next (s.raise (plain .illegal))
    else .next ((s.modCtx fun c => { (sched c).retire (c.pc + 4) with group := some (add g) }).note
      (.issued s.cur.1 s.cur.2 0 false))

/-- HINT.IMM (R157). -/
def execHintImm (payload : BitVec 24) : State → Out :=
  hint (·.imm.isSome) (fun g => { g with imm := some payload }) id
/-- HINT.MOD (R158). -/
def execHintMod (o : HintMod) : State → Out :=
  hint (·.mod.isSome) (fun g => { g with mod := some o }) id
/-- HINT.SCHED (R160, R198): the priority lasts for its count of issues, this word among them; a count of 0 changes
nothing. -/
def execHintSched (o : HintSched) : State → Out :=
  hint (·.sched.isSome) (fun g => { g with sched := some o })
    fun c => if o.count = 0 then c else { c with prio := o.prio, prioLeft := o.count }

/-- A word that no row of the table gives (R142 step 2, R163): ILLEGAL. -/
def execIllegalWord (_ : Word32) (s : State) : Out :=
  match s.ctx.deferred with
  | d :: _ => .next (s.raiseDeferred s.cur.1 s.cur.2 d)
  | [] => .next (s.raise (plain .illegal))

end Sys2Proof.Machine
end

