-- ==== Sys2Proof/Machine/Fetch.lean ====
section
/-!
DEFINITION. Fetching a word (R49, R142, R217), and what a word reads from memory before it can act (R203, R238).
-/

namespace Sys2Proof.Machine

/-- A request for a line of code to its home slice (R49, R61). -/
def codeReq (s : State) (va : Word) (pa : Nat) (l : Word) : MemReq where
  asker := .fetch s.cur.1
  op := .read 128 false true (leafCpol l)
  va := va - BitVec.ofNat 64 (va.toNat % 128)
  pa := lineOf pa
  key := leafKey l
  region := none
  tag := s.tagOf s.cur.1
  node := s.cur.1
  rcb := s.ctx.region.rcb
  energyAt := s.ctx.region.energyAt
  clusDone := false
  strong := none
  chip := 0
  target := 0

/-- Whether the acting core waits for a line of code. -/
def State.codeAsked (s : State) (pa : Nat) : Bool :=
  s.requests.any fun r => r.asker == .fetch s.cur.1 && r.pa == lineOf pa

/-- A line of code: from the core's instruction cache, filled from a line of the cluster cache that the context and the last
CINV let it use, or asked for from its home (R49, R50, R217). A home line marked uncorrectable raises POISON at the word. -/
def State.codeLine (s : State) (va : Word) (pa : Nat) (l : Word) : Did ⊕ (BitVec 1024 × State) :=
  let key := leafKey l
  match findLine s.me.icache pa key none with
  | some l => .inr (l.data, s)
  | none =>
    let cl := s.cluster (clusterOf s.cur.1)
    match (cl.find pa key none).filter fun l => decide (s.ctx.acqCl.toNat ≤ l.fill.toNat) && decide (cl.codeAcq.toNat ≤ l.fill.toNat) with
    | some l =>
      .inr (l.data, (s.note (.charge s.cur.1 5 1 s.ctx.region.energyAt)).fillCode s.cur.1 pa key l.data)
    | none =>
      if s.reqPoisoned (codeReq s va pa l) then .inl (.fault s (atAddr .poison (BitVec.ofNat 64 pa)))
      else if s.codeAsked pa then .inl (.stay s)
      else .inl (.stay { s with net := s.net ++ [codeReq s va pa l] })

/-- A word fetched by the acting context (R142 step 1): the word, or PAGE at its address, a miss in translation, POISON on a
line marked uncorrectable, or a wait for its line. What a remote target gives is open. -/
def State.fetch (s : State) (va : Word) : Did ⊕ (Word32 × State) :=
  if inWindows va then .inl (.fault s (pageFault 3 va))
  else match s.translate s.cur.1 true va with
    | (none, s) => .inl (s.stallMiss va 3 .none)
    | (some (pa, l), s) =>
      if !leafX l || !s.leafOk (s.tagOf s.cur.1).toNat l pa then .inl (.fault s (pageFault 3 va))
      else if leafTgt l ≠ 0 then let (w, s) := s.free; .inr (w.setWidth 32, s)
      else match s.codeLine va pa l with
        | .inl d => .inl d
        | .inr (d, s) => .inr ((d >>> (8 * (pa - lineOf pa))).setWidth 32, s)

/-- The bytes of a producer's parts, each at its place in the value. -/
def Pend.gather (p : Pend) : Nat := p.pieces.foldl (fun a q => a + (q.value.getD 0) * 256 ^ q.slot) 0

/-- The reads the acting context's word has made so far. -/
def Ctx.reads (c : Ctx) : List Pend := c.pends.filter fun p => p.isRead && p.pc == c.pc

/-- The acting context's word has done with what it read. -/
def State.dropReads (s : State) : State := s.modCtx fun c => { c with pends := c.pends.filter fun p => !(p.isRead && p.pc == c.pc) }

/-- A run of `n` bytes at an address in parts of at most 16 that no line boundary cuts. -/
def parts16 (slot : Nat) (va : Word) (n : Nat) : List (Nat × Word × Nat) :=
  let first := min n (16 - va.toNat % 16)
  (0, first) :: ((List.range (n / 16 + 1)).map fun i => (first + 16 * i, min 16 (n - first - 16 * i)))
  |>.filterMap fun p => if p.2 = 0 then none else some (slot + p.1, va + BitVec.ofNat 64 p.1, p.2)

/-- A word's read number `i` of bytes it needs at issue, with weak loads: the word waits until they have arrived (R238),
and then goes on with their value. -/
def State.readAt (s : State) (i : Nat) (view : Option View) (parts : List (Nat × Word × Nat)) (k : State → Nat → Did) : Did :=
  match s.ctx.reads[i]? with
  | none =>
    match s.load s.ctx.weakWay 1 .none .whole view parts with
    | .done s => .stay s
    | d => d
  | some p =>
    match p.poison with
    | some pa => .fault s.dropReads (atAddr .poison pa)
    | none => if p.open_ then .stay s else k s p.gather

end Sys2Proof.Machine
end

