-- ==== Sys2Proof/Machine/Residue.lean ====
section
/-!
DEFINITION. The residue number system (R101 to R107): residue words, their arithmetic and their decoding.
-/

namespace Sys2Proof.Machine

/-- The seven moduli (R101). -/
def moduli : List Nat := [127, 255, 256, 257, 511, 1019, 1021]
/-- M, the product of the information moduli (R101). -/
def rnsM : Nat := 1088774373120
/-- P, the product of all moduli (R101). -/
def rnsP : Nat := 1132759769019674880
/-- Modulus of a channel. -/
def modulus (i : Nat) : Nat := moduli.getD i 1
/-- Lowest bit and width of a channel's field (R102). -/
def rnField (i : Nat) : Nat × Nat :=
  [(0, 7), (7, 8), (15, 8), (23, 9), (32, 9), (41, 10), (51, 10)].getD i (0, 0)

/-- A channel's field of a residue word (R102). -/
def residue (w : Nat) (i : Nat) : Nat := w / 2 ^ (rnField i).1 % 2 ^ (rnField i).2

/-- A residue word from its seven fields, bits [63:61] zero (R102). -/
def packResidues (f : Nat → Nat) : Nat :=
  ((List.range 7).map fun i => f i % 2 ^ (rnField i).2 * 2 ^ (rnField i).1).sum

/-- The forward conversion (R103). -/
def residues (x : Int) : Nat := packResidues fun i => (x % modulus i).toNat

/-- Bézout's coefficient: `a * inv ≡ 1` modulo `m`, for coprime numbers, within `fuel` steps of Euclid's algorithm. -/
def invLoop : Nat → Int → Int → Int → Int → Int
  | 0, _, _, _, t1 => t1
  | k + 1, r0, r1, t0, t1 => if r1 = 0 then t0 else invLoop k r1 (r0 % r1) t1 (t0 - r0 / r1 * t1)

/-- The inverse of `a` modulo `m`, in 0 to m − 1. -/
def invMod (a m : Nat) : Nat := (invLoop 24 m (a % m : Nat) 0 1 % m).toNat

/-- One digit of the mixed-radix conversion: the residue less the digits found, each step divided by a modulus (R104). -/
def mrcDigit (m : Nat) : List (Nat × Nat) → Int → Int
  | [], t => t
  | (mj, aj) :: ds, t => mrcDigit m ds ((t - aj) * invMod mj m % m)

/-- The digits, lowest first, given those found so far (R104). -/
def mrcDigits (w : Nat) : List Nat → List (Nat × Nat) → List (Nat × Nat)
  | [], ds => ds
  | c :: cs, ds => mrcDigits w cs (ds ++ [(modulus c, (mrcDigit (modulus c) ds (residue w c)).toNat)])

/-- Mixed-radix reconstruction over a list of channels in increasing modulus (R104). -/
def mrc (w : Nat) (cs : List Nat) : Nat := (mrcDigits w cs []).foldr (fun d z => z * d.1 + d.2) 0

/-- The signed value of `z` modulo `q` (R104). -/
def signedMod (z q : Nat) : Int := if q ≤ 2 * z then (z : Int) - q else z

/-- Whether a value lies in the range of R101 (R104). -/
def inRange (x : Int) : Bool := decide (-(rnsM : Int) ≤ 2 * x) && decide (2 * x < (rnsM : Int))

/-- What decoding a residue word gives (R105). -/
inductive RnOut where
  | good (x : Int)
  | corrected (channel : Nat) (x : Int)
  | overflow (x : Int)
  | mismatch (suspects : BitVec 7)
  deriving DecidableEq, Repr

/-- A set of channels as a mask. -/
def channelMask (cs : List Nat) : BitVec 7 := BitVec.ofNat 7 ((cs.map (2 ^ ·)).sum)

/-- The seven channels. -/
def allChannels : List Nat := List.range 7

/-- The value all channels but one give (R105). -/
def valueWithout (w i : Nat) : Int := signedMod (mrc w (allChannels.filter (· != i))) (rnsP / modulus i)

/-- Decoding in full mode (R105). -/
def decodeFull (w : Nat) : RnOut :=
  match allChannels.filter fun i => decide (modulus i ≤ residue w i) with
  | [] =>
    let x := signedMod (mrc w allChannels) rnsP
    if inRange x then .good x
    else if x.natAbs < 2 ^ 49 then .overflow x
    else match allChannels.filter fun i => inRange (valueWithout w i) with
      | [i] => .corrected i (valueWithout w i)
      | [] => .mismatch (channelMask allChannels)
      | cs => .mismatch (channelMask cs)
  | [b] => if inRange (valueWithout w b) then .corrected b (valueWithout w b) else .mismatch (channelMask [b])
  | bad => .mismatch (channelMask bad)

/-- Decoding in degraded mode with channel `f` failed (R107): the five smallest survivors inform, the other checks. -/
def decodeDegraded (f : Nat) (w : Nat) : RnOut :=
  let alive := allChannels.filter (· != f)
  let info := alive.take 5
  let check := (alive.drop 5).headD 0
  if alive.any fun i => decide (modulus i ≤ residue w i) then .mismatch (channelMask alive)
  else
    let x := signedMod (mrc w info) ((info.map modulus).foldl (· * ·) 1)
    if x % modulus check ≠ residue w check then .mismatch (channelMask alive)
    else if inRange x then .good x
    else .overflow x

/-- Decoding as a core's ACFG configuration has it (R105, R107, R275). -/
def decodeResidue (degraded : Bool) (failed : BitVec 3) (w : Nat) : RnOut :=
  if degraded then decodeDegraded failed.toNat w else decodeFull w

/-- Channel arithmetic of RNADD, RNSUB and RNMUL (R278): a channel with a field at or above its modulus is written as
all ones. -/
def rnArith (op : Int → Int → Int) (a b : Nat) : Nat :=
  packResidues fun i =>
    if modulus i ≤ residue a i || modulus i ≤ residue b i then 2 ^ (rnField i).2 - 1
    else (op (residue a i) (residue b i) % modulus i).toNat

/-- The outcome word of RNCHK (R278). -/
def rnOutWord : RnOut → Word
  | .good _ => 0
  | .corrected i _ => BitVec.ofNat 64 (2 ^ (2 + i) + 1)
  | .overflow _ => 2
  | .mismatch s => BitVec.ofNat 64 (s.toNat * 4 + 3)

end Sys2Proof.Machine
end

