-- ==== Sys2Proof/Machine/Streams.lean ====
section
/-!
DEFINITION. Stream registers: QCFG, QNEXT and QRD (R237 to R239).
-/

namespace Sys2Proof.Machine

/-- The address of a byte of the own local store, as a packet names it. -/
def ownAddr (off : Nat) : Word := BitVec.ofNat 64 (Config.ownWindow + off)

/-- The shared start of the QCFG words (R237, R238): the 32 descriptor bytes, and the stream they make, or a fault. -/
def qcfg (f : State → Nat → Except FaultInfo Stream) (o : StreamW) : State → Out :=
  issue { rep := true, srcs := [(.x o.ra, o.ea)] } fun s =>
    let va := s.ctx.readX o.ra
    if va.toNat % 32 ≠ 0 then .fault s (atAddr .align va)
    else s.readAt 0 none (parts16 0 va 32) fun s d =>
      match f s d with
      | .error e => .fault s.dropReads e
      | .ok q => .done (s.dropReads.modCtx (·.writeQ o.qd q))

/-- A field of a descriptor: `n` bytes at an offset. -/
def descField (d off n : Nat) : Nat := d / 256 ^ off % 256 ^ n

/-- QCFG.aff (R238). -/
def execQcfgAff (o : StreamW) : State → Out :=
  qcfg (fun _ d => .ok (.aff (BitVec.ofNat 64 (descField d 0 8))
    (Vector.ofFn fun k : Fin 4 => BitVec.ofNat 16 (descField d (8 + 2 * k) 2))
    (Vector.ofFn fun k : Fin 4 => BitVec.ofNat 32 (descField d (16 + 4 * k) 4))
    (Vector.replicate 4 0) 0 false)) o

/-- QCFG.skip (R238): the stream stands at its first kept step. -/
def execQcfgSkip (o : StreamW) : State → Out :=
  qcfg (fun s d =>
    let list := descField d 0 8
    let k0 := descField d 8 4
    if list % 2 ≠ 0 then .error (atAddr .align (ownAddr list))
    else if s.me.sysbase ≤ list then .error (atAddr .windowBounds (ownAddr list))
    else match skipSeek s s.cur.1 list k0 0x4001 with
      | none => .error (atAddr .windowBounds (ownAddr s.me.sysbase))
      | some (a, k, none) => .ok (.skip list k0 (a - list) 0 k 0 true)
      | some (a, k, some left) => .ok (.skip list k0 (a - list) left k 0 false)) o

/-- `n` Steps of a stream of the acting context (R237, R238): ILLEGAL when it is unconfigured, WINDOW_BOUNDS when a Step
reads an entry outside the program area. -/
def State.stepStream (s : State) (q : BitVec 2) (n : Nat) (k : State → Did) : Did :=
  match s.ctx.readQ q with
  | .off => .fault s (plain .illegal)
  | st => match streamSteps s s.cur.1 n st with
    | none => .fault s (atAddr .windowBounds (ownAddr s.me.sysbase))
    | some st => k (s.modCtx (·.writeQ q st))

/-- The rule of QNEXT. -/
def qnextRule (o : StreamW) : WordRule := { rep := true, srcs := [(.x o.ra, o.ea)] }

/-- QNEXT (R239). -/
def execQnext (o : StreamW) : State → Out :=
  issue (qnextRule o) fun s => s.stepStream o.qd (s.ctx.readX o.ra).toNat .done

/-- What QRD reads of a stream (R239). -/
def Stream.view (sel : Nat) : Stream → Option Word
  | .off => none
  | .aff b _ st i c d =>
    some <| match sel with
      | 0 => affAddr b st i
      | 1 => BitVec.ofNat 64 (num d * 2 ^ 63 + c % 2 ^ 48)
      | _ => i.getD 3 0 ++ i.getD 2 0 ++ i.getD 1 0 ++ i.getD 0 0
  | .skip _ _ a left v c d =>
    some <| match sel with
      | 0 => BitVec.ofNat 64 v
      | 1 => BitVec.ofNat 64 (num d * 2 ^ 63 + c % 2 ^ 48)
      | _ => BitVec.ofNat 64 (a % 2 ^ 16 * 2 ^ 16 + left % 2 ^ 15)

/-- QRD (R239). -/
def execQrd (o : StreamRd) : State → Out :=
  issue { rep := true, dests := [.x o.rd] } fun s =>
    match (s.ctx.readQ o.qs).view o.sel.toNat with
    | none => .fault s (plain .illegal)
    | some v => .done (s.modCtx (·.writeX o.rd v))

end Sys2Proof.Machine
end

