-- ==== Sys2Proof/Machine/FloatOps.lean ====
section
/-!
DEFINITION. Major 0x0C and the FMA forms of 0x0D: scalar floating point (R183 to R188).
-/

namespace Sys2Proof.Machine

/-- The low bits of a register that hold a value of a format (R183). -/
def Ctx.fbits (c : Ctx) (f : Fmt) (i : BitVec 5) : Nat := (c.readX i).toNat % 2 ^ fmtWidth f

/-- A two-source floating word: `g` gives the result from the mode and the operands' bits (R183). -/
def fpTwo (g : Fmt → BitVec 3 → Nat → Nat → FOut) (o : Fp2) : State → Out :=
  issue (fp2Rule o) fun s =>
    let f := fmtOfSz o.sz
    let r := g f s.ctx.mode (s.ctx.fbits f o.ra) (s.ctx.fbits f o.rb)
    .done ((s.scalarFlags f r).modCtx (·.writeX o.rd (BitVec.ofNat 64 r.bits)))

/-- A one-source floating word (R183). -/
def fpOne (g : Fmt → BitVec 3 → Nat → FOut) (o : Fp1) : State → Out :=
  issue (fp1Rule o.rd o.ra o.ea) fun s =>
    let f := fmtOfSz o.sz
    let r := g f s.ctx.mode (s.ctx.fbits f o.ra)
    .done ((s.scalarFlags f r).modCtx (·.writeX o.rd (BitVec.ofNat 64 r.bits)))

/-- FADD (R184). -/
def execFadd (o : Fp2) : State → Out := fpTwo (fun f m a b => fadd f m (fval f a) (fval f b)) o
/-- FSUB (R184): as FADD with b negated. -/
def execFsub (o : Fp2) : State → Out := fpTwo (fun f m a b => fadd f m (fval f a) (negVal (fval f b))) o
/-- FMUL (R184). -/
def execFmul (o : Fp2) : State → Out := fpTwo (fun f m a b => fmul f m (fval f a) (fval f b)) o
/-- FDIV (R184). -/
def execFdiv (o : Fp2) : State → Out := fpTwo (fun f m a b => fdiv f m (fval f a) (fval f b)) o
/-- FSQRT (R184). -/
def execFsqrt (o : Fp1) : State → Out := fpOne (fun f m a => fsqrt f m (fval f a)) o
/-- FMIN (R91, R184). -/
def execFmin (o : Fp2) : State → Out := fpTwo (fun f _ a b => fminmax f false a b) o
/-- FMAX (R91, R184). -/
def execFmax (o : Fp2) : State → Out := fpTwo (fun f _ a b => fminmax f true a b) o

/-- A comparison (R185): the truth value, with NV for any NaN (`quiet` false) or for a signalling one only. -/
def cmpOut (quiet : Bool) (t : Bool) (a b : FVal) : FOut :=
  ⟨num t, if isSNaN a || isSNaN b || (!quiet && (isNaN a || isNaN b)) then flagNV else 0, 0⟩

/-- FCMP.EQ (R185). -/
def execFcmpEq (o : Fp2) : State → Out :=
  fpTwo (fun f _ a b => cmpOut true (eqVal (fval f a) (fval f b)) (fval f a) (fval f b)) o
/-- FCMP.LT (R185). -/
def execFcmpLt (o : Fp2) : State → Out :=
  fpTwo (fun f _ a b => let x := fval f a; let y := fval f b
    cmpOut false (!isNaN x && !isNaN y && ltVal x y) x y) o
/-- FCMP.LE (R185). -/
def execFcmpLe (o : Fp2) : State → Out :=
  fpTwo (fun f _ a b => let x := fval f a; let y := fval f b
    cmpOut false (!isNaN x && !isNaN y && !ltVal y x) x y) o
/-- FCMP.UN (R185). -/
def execFcmpUn (o : Fp2) : State → Out :=
  fpTwo (fun f _ a b => let x := fval f a; let y := fval f b
    cmpOut true (isNaN x || isNaN y) x y) o
/-- FCLASS (R185): the sign in bit 8 and one kind bit. -/
def execFclass (o : Fp1) : State → Out :=
  fpOne (fun f _ a => ⟨2 ^ classBit f a + 256 * num (bitOf a (fmtWidth f - 1)), 0, 0⟩) o

/-- The value of a conversion's source (R166, R186): a float of a type code 0 to 3, an integer above. -/
def cvtSource (code : BitVec 5) (v : Word) : FVal :=
  let n := szBits (code.setWidth 2)
  if code.toNat < 4 then
    let f := fmtOfSz (code.setWidth 2)
    fval f (v.toNat % 2 ^ fmtWidth f)
  else if code.toNat < 8 then intVal (toSigned n v.toNat)
  else intVal (v.toNat % 2 ^ n)

/-- FCVT to a floating type (R90, R186): from equal to to copies all but NaNs, which rounding an exact value does. -/
def execFcvtToFloat (o : FpCvt) : State → Out :=
  issue (fp1Rule o.rd o.ra o.ea) fun s =>
    let f := fmtOfSz o.sz
    let r := roundVal f s.ctx.mode (cvtSource o.src (s.ctx.readX o.ra))
    .done ((s.scalarFlags f r).modCtx (·.writeX o.rd (BitVec.ofNat 64 r.bits)))

/-- FCVT to an integer (R90, R186). -/
def fcvtInt (signed : Bool) (o : FpCvt) : State → Out :=
  issue (fp1Rule o.rd o.ra o.ea) fun s =>
    let n := szBits o.sz
    let (v, fl) := toInt signed n s.ctx.mode (cvtSource o.src (s.ctx.readX o.ra))
    .done ((s.raiseFlags fl).modCtx (·.writeX o.rd (if signed then sextN n v else zextN n v)))

/-- FCVT to a signed integer (R186). -/
def execFcvtToSigned (o : FpCvt) : State → Out := fcvtInt true o
/-- FCVT to an unsigned integer (R186). -/
def execFcvtToUnsigned (o : FpCvt) : State → Out := fcvtInt false o

/-- The FSIGN forms (R187): the magnitude bits of ra under a chosen sign. -/
def fsignOp (g : Bool → Bool → Bool) (o : Fp2) : State → Out :=
  fpTwo (fun f _ a b =>
    let w := fmtWidth f - 1
    ⟨a % 2 ^ w + num (g (bitOf a w) (bitOf b w)) * 2 ^ w, 0, 0⟩) o

/-- FSIGN.B (R187). -/
def execFsignB (o : Fp2) : State → Out := fsignOp (fun _ b => b) o
/-- FSIGN.NB (R187). -/
def execFsignNb (o : Fp2) : State → Out := fsignOp (fun _ b => !b) o
/-- FSIGN.X (R187). -/
def execFsignX (o : Fp2) : State → Out := fsignOp (fun a b => a ^^ b) o

/-- FMA (R188), rounded once. -/
def execFma (o : QuadFp) : State → Out :=
  issue { rm := true, srcs := [(.x o.ra, o.ea), (.x o.rb, o.eb), (.x o.rc, o.ec)], dests := [.x o.rd] } fun s =>
    let f := fmtOfSz o.ty
    let c := s.ctx
    let r := ffma f c.mode (fval f (c.fbits f o.ra)) (fval f (c.fbits f o.rb)) (fval f (c.fbits f o.rc))
    .done ((s.scalarFlags f r).modCtx (·.writeX o.rd (BitVec.ofNat 64 r.bits)))

end Sys2Proof.Machine
end

