-- ==== Sys2Proof/Machine/Scalar.lean ====
section
/-!
DEFINITION. Majors 0x01 to 0x0B and the integer forms of 0x0D: ALU, immediates, multiply and divide, MADD and SEL
(R177 to R182).
-/

namespace Sys2Proof.Machine

/-- The shared effect of majors 0x01 and 0x0B with two sources (R177): `f n a b` on the low `n` bits, the result
extended by sign or, for the functions marked Z, by zero. -/
def aluTwo (z : Bool) (f : Nat → Nat → Nat → Nat) (o : Alu2) : State → Out :=
  issue (alu2Rule o) fun s =>
    let n := szBits o.sz
    let t := f n ((s.ctx.src (srcA o.cls o.ra)).toNat % 2 ^ n) ((s.ctx.src (srcB o.cls o.rb)).toNat % 2 ^ n)
    .done (s.modCtx (·.writeX o.rd (if z then zextN n t else sextN n t)))

/-- The shared effect of the unary functions (R177, R178). -/
def aluOne (z : Bool) (f : Nat → Nat → Nat) (o : Alu1) : State → Out :=
  issue (alu1Rule o) fun s =>
    let n := szBits o.sz
    let t := f n ((s.ctx.src (srcA o.cls o.ra)).toNat % 2 ^ n)
    .done (s.modCtx (·.writeX o.rd (if z then zextN n t else sextN n t)))

/-- Bitwise operations on numbers of `n` bits, through words of 64 (R178). -/
def bitwise (f : Word → Word → Word) (_ a b : Nat) : Nat := (f (BitVec.ofNat 64 a) (BitVec.ofNat 64 b)).toNat

/-- ADD (R178). -/
def execAdd (o : Alu2) : State → Out := aluTwo false (fun _ a b => a + b) o
/-- SUB (R178). -/
def execSub (o : Alu2) : State → Out := aluTwo false (fun n a b => a + 2 ^ n - b) o
/-- AND (R178). -/
def execAnd (o : Alu2) : State → Out := aluTwo false (bitwise (· &&& ·)) o
/-- OR (R178). -/
def execOr (o : Alu2) : State → Out := aluTwo false (bitwise (· ||| ·)) o
/-- XOR (R178). -/
def execXor (o : Alu2) : State → Out := aluTwo false (bitwise (· ^^^ ·)) o
/-- ANDN (R178). -/
def execAndn (o : Alu2) : State → Out := aluTwo false (bitwise fun a b => a &&& ~~~b) o
/-- ORN (R178). -/
def execOrn (o : Alu2) : State → Out := aluTwo false (bitwise fun a b => a ||| ~~~b) o
/-- SLL (R178). -/
def execSll (o : Alu2) : State → Out := aluTwo false (fun n a b => a * 2 ^ (b % n)) o
/-- SRL (R178). -/
def execSrl (o : Alu2) : State → Out := aluTwo true (fun n a b => a / 2 ^ (b % n)) o
/-- SRA (R178). -/
def execSra (o : Alu2) : State → Out :=
  aluTwo false (fun n a b => ofSigned n (toSigned n a / 2 ^ (b % n))) o
/-- ROL (R178). -/
def execRol (o : Alu2) : State → Out :=
  aluTwo true (fun n a b => a * 2 ^ (b % n) + a / 2 ^ (n - b % n)) o
/-- SLT (R178). -/
def execSlt (o : Alu2) : State → Out := aluTwo false (fun n a b => num (decide (toSigned n a < toSigned n b))) o
/-- SLTU (R178). -/
def execSltu (o : Alu2) : State → Out := aluTwo false (fun _ a b => num (decide (a < b))) o
/-- SEQ (R178). -/
def execSeq (o : Alu2) : State → Out := aluTwo false (fun _ a b => num (a == b)) o
/-- SNE (R178). -/
def execSne (o : Alu2) : State → Out := aluTwo false (fun _ a b => num (a != b)) o
/-- MIN (R178). -/
def execMin (o : Alu2) : State → Out := aluTwo false (fun n a b => if toSigned n a < toSigned n b then a else b) o
/-- MAX (R178). -/
def execMax (o : Alu2) : State → Out := aluTwo false (fun n a b => if toSigned n a < toSigned n b then b else a) o
/-- MINU (R178). -/
def execMinu (o : Alu2) : State → Out := aluTwo true (fun _ a b => min a b) o
/-- MAXU (R178). -/
def execMaxu (o : Alu2) : State → Out := aluTwo true (fun _ a b => max a b) o
/-- CLZ (R178). -/
def execClz (o : Alu1) : State → Out := aluOne true (fun n a => n - bitLen a) o
/-- CTZ (R178). -/
def execCtz (o : Alu1) : State → Out := aluOne true lowestOne o
/-- POPC (R178). -/
def execPopc (o : Alu1) : State → Out := aluOne true popCount o
/-- BREV (R178). -/
def execBrev (o : Alu1) : State → Out := aluOne true reverseBits o
/-- BSWAP (R178); its 8-bit form is no instruction. -/
def execBswap (o : Alu1) : State → Out := aluOne true (fun n a => reverseBytes (n / 8) a) o
/-- SEXT (R178). -/
def execSext (o : Alu1) : State → Out := aluOne false (fun _ a => a) o
/-- ZEXT (R178). -/
def execZext (o : Alu1) : State → Out := aluOne true (fun _ a => a) o

/-- The shared effect of the I-format immediate words (R179): a function of ra, and of the field extended by its sign or
by zero, under HINT.IMM. -/
def immOp (f : Word → Word → Word) (signed : Bool) (o : ImmI) : State → Out :=
  issue (immIRule o) fun s =>
    let c := s.ctx
    let i : Word := if signed then BitVec.ofInt 64 (c.immS o.imm) else BitVec.ofNat 64 (c.immZ o.imm)
    .done (s.modCtx (·.writeX o.rd (f (c.readX o.ra) i)))

/-- ADDI (R179). -/
def execAddi (o : ImmI) : State → Out := immOp (· + ·) true o
/-- ANDI (R179). -/
def execAndi (o : ImmI) : State → Out := immOp (· &&& ·) true o
/-- ORI (R179). -/
def execOri (o : ImmI) : State → Out := immOp (· ||| ·) false o
/-- XORI (R179). -/
def execXori (o : ImmI) : State → Out := immOp (· ^^^ ·) false o
/-- SLTI (R179). -/
def execSlti (o : ImmI) : State → Out := immOp (fun a i => BitVec.ofNat 64 (num (a.slt i))) true o
/-- SLTUI (R179). -/
def execSltui (o : ImmI) : State → Out := immOp (fun a i => BitVec.ofNat 64 (num (a.ult i))) true o

/-- The shared effect of the shift-immediate words (R180). -/
def shiftOp (f : Word → Nat → Word) (o : ShiftI) : State → Out :=
  issue { srcs := [(.x o.ra, o.ea)], dests := [.x o.rd] } fun s =>
    .done (s.modCtx (·.writeX o.rd (f (s.ctx.readX o.ra) o.amt.toNat)))

/-- SLLI (R180). -/
def execSlli (o : ShiftI) : State → Out := shiftOp (fun a k => a <<< k) o
/-- SRLI (R180). -/
def execSrli (o : ShiftI) : State → Out := shiftOp (fun a k => a >>> k) o
/-- SRAI (R180). -/
def execSrai (o : ShiftI) : State → Out := shiftOp (fun a k => a.sshiftRight k) o

/-- LIH (R179, R197): the field at the top of the register, `f << (64 - w)`. -/
def execLih (o : ImmU) : State → Out :=
  issue { imm := true, dests := [.x o.rd] } fun s =>
    let (f, w) := s.ctx.joinImm 21 o.imm.toNat
    .done (s.modCtx (·.writeX o.rd (BitVec.ofNat 64 (f * 2 ^ (64 - w)))))

/-- ADDPC (R179, R197): the PC is this word's own address. -/
def execAddpc (o : ImmU) : State → Out :=
  issue { imm := true, dests := [.x o.rd] } fun s =>
    .done (s.modCtx (·.writeX o.rd (s.ctx.pc + BitVec.ofInt 64 (s.ctx.immS o.imm))))

/-- MUL (R181). -/
def execMul (o : Alu2) : State → Out := aluTwo false (fun _ a b => a * b) o
/-- MULH (R181). -/
def execMulh (o : Alu2) : State → Out :=
  aluTwo false (fun n a b => ofSigned (2 * n) (toSigned n a * toSigned n b) / 2 ^ n) o
/-- MULHU (R181). -/
def execMulhu (o : Alu2) : State → Out := aluTwo true (fun n a b => a * b / 2 ^ n) o
/-- The signed quotient truncated toward zero, with the corners of R181. -/
def divS (n a b : Nat) : Int := if b = 0 then -1 else (toSigned n a).tdiv (toSigned n b)
/-- DIV (R181). -/
def execDiv (o : Alu2) : State → Out := aluTwo false (fun n a b => ofSigned n (divS n a b)) o
/-- DIVU (R181). -/
def execDivu (o : Alu2) : State → Out := aluTwo true (fun n a b => if b = 0 then 2 ^ n - 1 else a / b) o
/-- REM (R181): a itself when b is 0. -/
def execRem (o : Alu2) : State → Out :=
  aluTwo false (fun n a b => ofSigned n (if b = 0 then toSigned n a else (toSigned n a).tmod (toSigned n b))) o
/-- REMU (R181). -/
def execRemu (o : Alu2) : State → Out := aluTwo true (fun _ a b => if b = 0 then a else a % b) o

/-- The rule of the F-format integer forms (R182). -/
def quadRule (o : Quad) : WordRule :=
  { srcs := [(.x o.ra, o.ea), (.x o.rb, o.eb), (.x o.rc, o.ec)], dests := [.x o.rd] }

/-- MADD (R182). -/
def execMadd (o : Quad) : State → Out :=
  issue (quadRule o) fun s =>
    let c := s.ctx
    .done (s.modCtx (·.writeX o.rd (c.readX o.ra * c.readX o.rb + c.readX o.rc)))
/-- SEL (R182). -/
def execSel (o : Quad) : State → Out :=
  issue (quadRule o) fun s =>
    let c := s.ctx
    .done (s.modCtx (·.writeX o.rd (if c.readX o.rc ≠ 0 then c.readX o.ra else c.readX o.rb)))

end Sys2Proof.Machine
end

