-- ==== Sys2Proof/Machine/SpecialFn.lean ====
section
/-!
DEFINITION. The special functions of R93, correctly rounded: each is computed in fixed point with 320 fraction bits, far
past the f32 rounding point, and an irrational result is rounded as lying strictly between two neighbours (entry 8).
-/

namespace Sys2Proof.Machine

/-- Fraction bits of the fixed point. -/
def fixP : Nat := 320
/-- π / 2 in fixed point, cut. -/
def halfPi : Nat := 3355200590106084457577920487110001620402097044713574475363553212175856609335902690049750194457019
/-- ln 2 in fixed point, cut. -/
def ln2 : Nat := 1480553391661173448385607439722553250922680800745876974795605978609098082859138712941075737848984

/-- The terms of e^t from term `k` on, each from the one before. -/
def expSum : Nat → Nat → Nat → Nat → Nat
  | 0, _, _, _ => 0
  | n + 1, t, k, term => term + expSum n t (k + 1) (term * t / 2 ^ fixP / (k + 1))

/-- The terms of atanh from the power `y ^ k` on. -/
def atanhSum : Nat → Nat → Nat → Nat → Nat
  | 0, _, _, _ => 0
  | n + 1, y2, k, pow => pow / k + atanhSum n y2 (k + 2) (pow * y2 / 2 ^ fixP)

/-- The alternating terms of sin (from k = 1) or cos (from k = 0): `term` is θ^k / k!. -/
def trigSum : Nat → Nat → Nat → Int → Int
  | 0, _, _, _ => 0
  | n + 1, t2, k, term => term + trigSum n t2 (k + 2) (-(term * t2 / 2 ^ fixP / ((k + 1) * (k + 2))))

/-- A positive irrational result in fixed point, times a power of two, rounded to f32. -/
def roundFix (mode : BitVec 3) (neg : Bool) (v : Nat) (exp : Int) : Nat × BitVec 5 :=
  roundTo .f32 mode neg v (exp - fixP) true

/-- 2^x of a finite nonzero x = ±m·2^e (R93). -/
def exp2Fin (mode : BitVec 3) (neg : Bool) (m : Nat) (e : Int) : Nat × BitVec 5 :=
  -- clamp: every x of 2^9 or more overflows and every x of -2^9 or less underflows
  if 9 < e + bitLen m then
    if neg then roundTo .f32 mode false (2 ^ 140) (-800) true else roundTo .f32 mode false 1 400 false
  else
    let x : Int := (if neg then -(m : Int) else m) * 2 ^ (e + fixP).toNat
    let n := x / 2 ^ fixP
    let f := (x % 2 ^ fixP).toNat
    if f = 0 then roundTo .f32 mode false 1 n false
    else roundFix mode false (expSum 90 (f * ln2 / 2 ^ fixP) 0 (2 ^ fixP)) n

/-- log₂ x of a finite positive x = m·2^e (R93). -/
def log2Fin (mode : BitVec 3) (m : Nat) (e : Int) : Nat × BitVec 5 :=
  let k := bitLen m - 1
  let n : Int := e + k
  if m = 2 ^ k then
    roundTo .f32 mode (decide (n < 0)) n.natAbs 0 false
  else
    let y := (m - 2 ^ k) * 2 ^ fixP / (m + 2 ^ k)
    let ln := 2 * atanhSum 110 (y * y / 2 ^ fixP) 1 y
    let v : Int := n * 2 ^ fixP + (ln * 2 ^ fixP / ln2 : Nat)
    roundFix mode (decide (v < 0)) v.natAbs 0

/-- sin 2πx (`cos` false) or cos 2πx of a finite nonzero x = ±m·2^e (R93). -/
def trigFin (cos : Bool) (mode : BitVec 3) (neg : Bool) (m : Nat) (e : Int) : Nat × BitVec 5 :=
  let x : Int := (if neg then -(m : Int) else m) * 2 ^ (e + fixP).toNat
  let r := (x % 2 ^ fixP).toNat
  let q := 4 * r / 2 ^ fixP
  let u := 4 * r % 2 ^ fixP
  let quad := if cos then (q + 1) % 4 else q
  if u = 0 then
    match quad with
    | 1 => (0x3F800000, 0)
    | 3 => (0xBF800000, 0)
    | _ => (if cos then 0 else num neg * 2 ^ 31, 0)
  else
    let t := u * halfPi / 2 ^ fixP
    let t2 := t * t / 2 ^ fixP
    let s := if quad % 2 = 0 then trigSum 70 t2 1 t else trigSum 70 t2 0 (2 ^ fixP)
    roundFix mode (decide (2 ≤ quad)) s.natAbs 0

/-- The six special functions (R93, R175). -/
inductive Special where
  | exp2 | log2 | rcp | rsq | sin | cos
  deriving DecidableEq, Repr

/-- A special function of an f32 value, with its table of special values (R93): the f32 bits and the flags. -/
def special32 (fn : Special) (mode : BitVec 3) (v : FVal) : Nat × BitVec 5 :=
  let nan : Nat × BitVec 5 := (fmtNaN .f32, flagNV)
  match v with
  | .nan s => (fmtNaN .f32, if s then flagNV else 0)
  | .inf neg =>
    match fn with
    | .exp2 => (if neg then 0 else fmtInf .f32 false, 0)
    | .log2 => if neg then nan else (fmtInf .f32 false, 0)
    | .rcp => (num neg * 2 ^ 31, 0)
    | .rsq => if neg then nan else (0, 0)
    | .sin | .cos => nan
  | .fin neg m e =>
    if m = 0 then
      match fn with
      | .exp2 | .cos => (0x3F800000, 0)
      | .log2 => (fmtInf .f32 true, flagDZ)
      | .rcp | .rsq => (fmtInf .f32 neg, flagDZ)
      | .sin => (num neg * 2 ^ 31, 0)
    else
      match fn with
      | .exp2 => exp2Fin mode neg m e
      | .log2 => if neg then nan else log2Fin mode m e
      | .rcp =>
        let (q, k, s) := quotient 1 m
        roundTo .f32 mode neg q (k - e) s
      | .rsq =>
        if neg then nan
        else
          let (m, e) := if e % 2 = 0 then (m, e) else (2 * m, e - 1)
          let v := 2 ^ 400 / m
          let r := isqrt v
          roundTo .f32 mode false r (-(e / 2) - 200) (r * r * m != 2 ^ 400)
      | .sin => trigFin false mode neg m e
      | .cos => trigFin true mode neg m e

/-- A special function on an element of format `f`: widened exactly, computed in f32, rounded again to `f` (R93). -/
def specialOut (fn : Special) (f : Fmt) (mode : BitVec 3) (b : Nat) : FOut :=
  let v := fval f b
  let (r, fl) := special32 fn mode v
  if f = .f32 then outOf f [v] (r, fl)
  else
    let o := roundVal f mode (fval .f32 r)
    outOf f [v] (o.bits, o.flags ||| fl)

end Sys2Proof.Machine
end

