-- ==== Sys2Proof/Machine/Vector.lean ====
section
/-!
DEFINITION. Majors 0x30 to 0x32 and 0x34 to 0x37 but the block words: lanes and masks, integer, floating and special functions, permutes, reductions, conversions, comparisons (R243 to R250, R255 to R262).
-/

namespace Sys2Proof.Machine

/-- Element width of an element type (R243). -/
def etBits (et : BitVec 3) : Nat :=
  match et.toNat with
  | 0 => 8 | 1 => 16 | 2 => 32 | 3 => 64 | 4 => 16 | 5 => 16 | 6 => 32 | _ => 64
/-- Number of lanes of an element type (R243). -/
def etLanes (et : BitVec 3) : Nat := 128 / etBits et
/-- The format of a floating element type; binary32 for a type that is none, which no word of a floating row has. -/
def etFmt (et : BitVec 3) : Fmt := (fmtOfEt et).getD .f32

/-- Lane `i` of width `z` (R243). -/
def lane (v : Vec) (z i : Nat) : Nat := v.toNat / 2 ^ (z * i) % 2 ^ z
/-- A register of the lanes given, the lowest first. -/
def ofLanes (z : Nat) (l : List Nat) : Vec := BitVec.ofNat 128 (l.foldr (fun x a => a * 2 ^ z + x % 2 ^ z) 0)

/-- The active lanes (R245). -/
def Ctx.active (c : Ctx) (me : Bool) (msk : BitVec 2) : BitVec 16 :=
  if me then (c.readV (msk.setWidth 4)).setWidth 16 else BitVec.allOnes 16

/-- `n` lanes of width `z` (R245): below `k` the active ones from `r`, the others kept from `old` or, with `pol`, zero;
from `k` on zero. -/
def maskedLanes (z n k : Nat) (act : BitVec 16) (pol : Bool) (old : Vec) (r : Nat → Nat) : Vec :=
  ofLanes z ((List.range n).map fun i =>
    if k ≤ i then 0 else if act.getLsbD i then r i else if pol then 0 else lane old z i)

/-- The registers a vector word reads without an e bit (R244): its mask, and vd when it reads it. -/
def maskSrcs (vd : BitVec 4) (me : Bool) (msk : BitVec 2) (pol reads : Bool) : List (RegName × Bool) :=
  (if me then [(.v (msk.setWidth 4), false)] else []) ++ (if reads || (me && !pol) then [(.v vd, false)] else [])

/-- The rule of a two-source vector word. -/
def vec2Rule (rm reads : Bool) (o : Vec2) : WordRule :=
  { rep := true, rm := rm, cls := 1, dests := [.v o.vd]
    srcs := [(.v o.va, o.ea), (.v o.vb, o.eb)] ++ maskSrcs o.vd o.me o.msk o.pol reads }
/-- The rule of a one-source vector word. -/
def vec1Rule (rm : Bool) (o : Vec1) : WordRule :=
  { rep := true, rm := rm, cls := 1, dests := [.v o.vd]
    srcs := [(.v o.va, o.ea)] ++ maskSrcs o.vd o.me o.msk o.pol false }

/-- A result that raises nothing. -/
def bitsOut (n : Nat) : FOut := ⟨n, 0, 0⟩

/-- The shared effect of a maskable lane word (R245, R246): `f` gives lane `i` of the result; the flags and events of the
active lanes below `k` count as results of format `fmt`. -/
def laneWord (rule : WordRule) (vd : BitVec 4) (me : Bool) (msk : BitVec 2) (pol : Bool) (z n k : Nat) (fmt : Fmt)
    (f : State → Nat → FOut) : State → Out :=
  issue rule fun s =>
    let act := s.ctx.active me msk
    let outs := (List.range k).map fun i => if act.getLsbD i then f s i else bitsOut 0
    let v := maskedLanes z n k act pol (s.ctx.readV vd) fun i => (outs.getD i (bitsOut 0)).bits
    .done ((s.laneFlags fmt outs).modCtx (·.writeV vd v))

/-! ## Integer lanes (R247, R248) -/

/-- A word of major 0x30 on lanes of `z` bits: `f z a b`, wrapped. -/
def vint2 (f : Nat → Nat → Nat → Nat) (o : Vec2) : State → Out :=
  let z := etBits o.et
  laneWord (vec2Rule false false o) o.vd o.me o.msk o.pol z (128 / z) (128 / z) .f32 fun s i =>
    bitsOut (f z (lane (s.ctx.readV o.va) z i) (lane (s.ctx.readV o.vb) z i))

/-- VADD (R247). -/
def execVadd (o : Vec2) : State → Out := vint2 (fun _ a b => a + b) o
/-- VSUB (R247). -/
def execVsub (o : Vec2) : State → Out := vint2 (fun z a b => a + 2 ^ z - b) o
/-- VMUL (R247). -/
def execVmul (o : Vec2) : State → Out := vint2 (fun _ a b => a * b) o
/-- VMULH (R247). -/
def execVmulh (o : Vec2) : State → Out := vint2 (fun z a b => ofSigned (2 * z) (toSigned z a * toSigned z b) / 2 ^ z) o
/-- VMIN (R247). -/
def execVmin (o : Vec2) : State → Out := vint2 (fun z a b => if toSigned z a < toSigned z b then a else b) o
/-- VMAX (R247). -/
def execVmax (o : Vec2) : State → Out := vint2 (fun z a b => if toSigned z a < toSigned z b then b else a) o
/-- VAND (R247). -/
def execVand (o : Vec2) : State → Out := vint2 (bitwise (· &&& ·)) o
/-- VOR (R247). -/
def execVor (o : Vec2) : State → Out := vint2 (bitwise (· ||| ·)) o
/-- VXOR (R247). -/
def execVxor (o : Vec2) : State → Out := vint2 (bitwise (· ^^^ ·)) o
/-- VSLL (R247). -/
def execVsll (o : Vec2) : State → Out := vint2 (fun z a b => a * 2 ^ (b % z)) o
/-- VSRL (R247). -/
def execVsrl (o : Vec2) : State → Out := vint2 (fun z a b => a / 2 ^ (b % z)) o
/-- VSRA (R247). -/
def execVsra (o : Vec2) : State → Out := vint2 (fun z a b => ofSigned z (toSigned z a / 2 ^ (b % z))) o
/-- VADDS (R83, R247). -/
def execVadds (o : Vec2) : State → Out := vint2 (fun z a b => ofSigned z (satS z (toSigned z a + toSigned z b))) o
/-- VSUBS (R83, R247). -/
def execVsubs (o : Vec2) : State → Out := vint2 (fun z a b => ofSigned z (satS z (toSigned z a - toSigned z b))) o

/-- VABS (R247). -/
def execVabs (o : Vec1) : State → Out :=
  let z := etBits o.et
  laneWord (vec1Rule false o) o.vd o.me o.msk o.pol z (128 / z) (128 / z) .f32 fun s i =>
    bitsOut (toSigned z (lane (s.ctx.readV o.va) z i)).natAbs

/-- VDOT (R248): four exact products into each wider lane of vd. -/
def execVdot (o : Vec2) : State → Out :=
  let z := etBits o.et
  laneWord (vec2Rule false true o) o.vd o.me o.msk o.pol (4 * z) (32 / z) (32 / z) .f32 fun s j =>
    let term (t : Nat) : Int :=
      toSigned z (lane (s.ctx.readV o.va) z (4 * j + t)) * toSigned z (lane (s.ctx.readV o.vb) z (4 * j + t))
    bitsOut (ofSigned (4 * z) (toSigned (4 * z) (lane (s.ctx.readV o.vd) (4 * z) j) + term 0 + term 1 + term 2 + term 3))

/-! ## Floating lanes (R249, R250) -/

/-- A word of major 0x31 with two sources, on the lanes' bits. -/
def vfp2 (g : Fmt → BitVec 3 → Nat → Nat → FOut) (o : Vec2) : State → Out :=
  let z := etBits o.et
  let f := etFmt o.et
  laneWord (vec2Rule true false o) o.vd o.me o.msk o.pol z (128 / z) (128 / z) f fun s i =>
    g f s.ctx.mode (lane (s.ctx.readV o.va) z i) (lane (s.ctx.readV o.vb) z i)

/-- VFADD (R249). -/
def execVfadd (o : Vec2) : State → Out := vfp2 (fun f m a b => fadd f m (fval f a) (fval f b)) o
/-- VFSUB (R249). -/
def execVfsub (o : Vec2) : State → Out := vfp2 (fun f m a b => fadd f m (fval f a) (negVal (fval f b))) o
/-- VFMUL (R249). -/
def execVfmul (o : Vec2) : State → Out := vfp2 (fun f m a b => fmul f m (fval f a) (fval f b)) o
/-- VFDIV (R249). -/
def execVfdiv (o : Vec2) : State → Out := vfp2 (fun f m a b => fdiv f m (fval f a) (fval f b)) o
/-- VFMIN (R91, R249). -/
def execVfmin (o : Vec2) : State → Out := vfp2 (fun f _ a b => fminmax f false a b) o
/-- VFMAX (R91, R249). -/
def execVfmax (o : Vec2) : State → Out := vfp2 (fun f _ a b => fminmax f true a b) o

/-- VFSQRT (R249). -/
def execVfsqrt (o : Vec1) : State → Out :=
  let z := etBits o.et
  let f := etFmt o.et
  laneWord (vec1Rule true o) o.vd o.me o.msk o.pol z (128 / z) (128 / z) f fun s i =>
    fsqrt f s.ctx.mode (fval f (lane (s.ctx.readV o.va) z i))

/-- VFMA (R249): vd is the addend. -/
def execVfma (o : Vec2) : State → Out :=
  let z := etBits o.et
  let f := etFmt o.et
  laneWord (vec2Rule true true o) o.vd o.me o.msk o.pol z (128 / z) (128 / z) f fun s i =>
    ffma f s.ctx.mode (fval f (lane (s.ctx.readV o.va) z i)) (fval f (lane (s.ctx.readV o.vb) z i))
      (fval f (lane (s.ctx.readV o.vd) z i))

/-- A special function (R93, R250): vd is marked empty, and is filled with the flags when every active lane is done. -/
def vspecial (fn : Special) (o : Vec1) : State → Out :=
  issue (vec1Rule true o) fun s =>
    let z := etBits o.et
    let f := etFmt o.et
    let act := s.ctx.active o.me o.msk
    let outs := (List.range (128 / z)).map fun i =>
      if act.getLsbD i then specialOut fn f s.ctx.mode (lane (s.ctx.readV o.va) z i) else bitsOut 0
    let v := maskedLanes z (128 / z) (128 / z) act o.pol (s.ctx.readV o.vd) fun i => (outs.getD i (bitsOut 0)).bits
    let s := s.modCtx fun c => outs.foldl (fun c r => c.countEvents (fmtIndex f) r.ev) c
    .done (s.awaitKnown (.v o.vd) (v.setWidth 192) 0 (outs.foldl (fun a r => a ||| r.flags) 0))

/-- VEXP2 (R250). -/
def execVexp2 (o : Vec1) : State → Out := vspecial .exp2 o
/-- VLOG2 (R250). -/
def execVlog2 (o : Vec1) : State → Out := vspecial .log2 o
/-- VRCP (R250). -/
def execVrcp (o : Vec1) : State → Out := vspecial .rcp o
/-- VRSQ (R250). -/
def execVrsq (o : Vec1) : State → Out := vspecial .rsq o
/-- VSIN (R250). -/
def execVsin (o : Vec1) : State → Out := vspecial .sin o
/-- VCOS (R250). -/
def execVcos (o : Vec1) : State → Out := vspecial .cos o

/-! ## Permutes and reductions (R255, R256) -/

/-- A maskable permute: lane `i` of width `z` from the two sources (R255). -/
def vperm (f : Nat → Vec → Vec → Nat → Nat) (o : Vec2) : State → Out :=
  let z := etBits o.et
  laneWord (vec2Rule false false o) o.vd o.me o.msk o.pol z (128 / z) (128 / z) .f32 fun s i =>
    bitsOut (f z (s.ctx.readV o.va) (s.ctx.readV o.vb) i)

/-- VSHUF (R255). -/
def execVshuf (o : Vec2) : State → Out :=
  vperm (fun z a b i => let j := lane b z i; if j < 128 / z then lane a z j else 0) o
/-- VZIP (R255). -/
def execVzip (o : Vec2) : State → Out := vperm (fun z a b i => lane (if i % 2 = 0 then a else b) z (i / 2)) o
/-- VUZP (R255). -/
def execVuzp (o : Vec2) : State → Out :=
  vperm (fun z a b i => if i < 128 / z / 2 then lane a z (2 * i) else lane b z (2 * i - 128 / z)) o

/-- The rule of VSLIDE. -/
def vslideRule (o : VecSlide) : WordRule :=
  { rep := true, cls := 1, srcs := [(.v o.va, o.ea), (.v o.vb, o.eb)], dests := [.v o.vd] }
/-- VSLIDE (R255). -/
def execVslide (o : VecSlide) : State → Out :=
  issue (vslideRule o) fun s =>
    let z := etBits o.et
    let n := 128 / z
    .done (s.modCtx fun c => c.writeV o.vd (ofLanes z ((List.range n).map fun i =>
      let j := i + o.k.toNat
      if j < n then lane (c.readV o.va) z j else lane (c.readV o.vb) z (j - n))))

/-- The x register a 4-bit field names (R244). -/
def x4 (i : BitVec 4) : BitVec 5 := i.setWidth 5

/-- The rule of VEXT. -/
def vextRule (o : VecExt) : WordRule :=
  { rep := true, cls := 1, srcs := [(.v o.va, o.ea)], dests := [.x (x4 o.xd)] }
/-- VEXT (R255). -/
def execVext (o : VecExt) : State → Out :=
  issue (vextRule o) fun s =>
    let z := etBits o.et
    let v := lane (s.ctx.readV o.va) z o.lane.toNat
    .done (s.modCtx (·.writeX (x4 o.xd) (if o.et.toNat < 4 then sextN z v else zextN z v)))

/-- The rule of VINS. -/
def vinsRule (o : VecIns) : WordRule :=
  { rep := true, cls := 1, srcs := [(.x (x4 o.xs), o.ea), (.v o.vd, false)], dests := [.v o.vd] }
/-- VINS (R255). -/
def execVins (o : VecIns) : State → Out :=
  issue (vinsRule o) fun s =>
    let z := etBits o.et
    .done (s.modCtx fun c => c.writeV o.vd (ofLanes z ((List.range (128 / z)).map fun i =>
      if i = o.lane.toNat then (c.readX (x4 o.xs)).toNat else lane (c.readV o.vd) z i)))

/-- The rule of VSPLAT. -/
def vsplatRule (o : VecSplat) : WordRule :=
  { rep := true, cls := 1, srcs := (.x (x4 o.xs), o.ea) :: maskSrcs o.vd o.me o.msk o.pol false, dests := [.v o.vd] }
/-- VSPLAT (R255). -/
def execVsplat (o : VecSplat) : State → Out :=
  let z := etBits o.et
  laneWord (vsplatRule o) o.vd o.me o.msk o.pol z (128 / z) (128 / z) .f32 fun s _ => bitsOut (s.ctx.readX (x4 o.xs)).toNat

/-- One level of the tree of R94. -/
def pairUp (g : Nat → Nat → FOut) : List Nat → List FOut
  | a :: b :: rest => g a b :: pairUp g rest
  | [a] => [bitsOut a]
  | [] => []

/-- The pairwise tree over lanes (R94): the result, and every combine's outcome. -/
def treeReduce (g : Nat → Nat → FOut) : Nat → List Nat → Nat × List FOut
  | 0, l => (l.headD 0, [])
  | n + 1, l =>
    if l.length ≤ 1 then (l.headD 0, [])
    else
      let os := pairUp g l
      let (r, rest) := treeReduce g n (os.map (·.bits))
      (r, os ++ rest)

/-- The rule of the reductions: vd is written whole (R256). -/
def vredRule (o : Vec1) : WordRule :=
  { rep := true, cls := 1, srcs := (.v o.va, o.ea) :: (if o.me then [(.v (o.msk.setWidth 4), false)] else [])
    dests := [.v o.vd] }

/-- A reduction of the active lanes to lane 0 (R94, R256): the identities and the combine of each kind. Every combine of the tree
counts its events (R92, entry 82). -/
def vred (fid : Fmt → Nat) (fg : Fmt → BitVec 3 → Nat → Nat → FOut) (iid : Nat → Nat) (ig : Nat → Nat → Nat → Nat) (o : Vec1) :
    State → Out :=
  issue (vredRule o) fun s =>
    let z := etBits o.et
    let act := s.ctx.active o.me o.msk
    let pick (e : Nat) : List Nat :=
      (List.range (128 / z)).map fun i => if act.getLsbD i then lane (s.ctx.readV o.va) z i else e
    match fmtOfEt o.et with
    | some f =>
      let (r, outs) := treeReduce (fg f s.ctx.mode) 4 (pick (fid f))
      .done ((s.laneFlags f outs).modCtx (·.writeV o.vd (ofLanes z [r])))
    | none => .done (s.modCtx (·.writeV o.vd (ofLanes z [((pick (iid z)).foldl (ig z) (iid z))])))

/-- VRED.ADD (R94, R256). -/
def execVredAdd (o : Vec1) : State → Out :=
  vred (fun f => 2 ^ (fmtWidth f - 1)) (fun f m a b => fadd f m (fval f a) (fval f b)) (fun _ => 0) (fun z a b => (a + b) % 2 ^ z) o
/-- VRED.MIN (R94, R256). -/
def execVredMin (o : Vec1) : State → Out :=
  vred (fun f => fmtInf f false) (fun f _ a b => fminmax f false a b) (fun z => 2 ^ (z - 1) - 1)
    (fun z a b => if toSigned z b < toSigned z a then b else a) o
/-- VRED.MAX (R94, R256). -/
def execVredMax (o : Vec1) : State → Out :=
  vred (fun f => fmtInf f true) (fun f _ a b => fminmax f true a b) (fun z => 2 ^ (z - 1))
    (fun z a b => if toSigned z a < toSigned z b then b else a) o

/-! ## Conversions (R257 to R259) -/

/-- The rule of VCVT. -/
def vcvtRule (o : VecCvt) : WordRule :=
  { rep := true, rm := true, cls := 1, srcs := (.v o.va, o.ea) :: maskSrcs o.vd o.me o.msk o.pol false, dests := [.v o.vd] }

/-- A value converted to an element type (R90, R257): an integer target saturates; from an integer it raises nothing. -/
def toElem (et : BitVec 3) (mode : BitVec 3) (exactInt : Option Int) (v : FVal) : FOut :=
  let z := etBits et
  match fmtOfEt et, exactInt with
  | some f, _ => roundVal f mode v
  | none, some i => bitsOut (ofSigned z (satS z i))
  | none, none => let (b, fl) := toInt true z mode v; ⟨b, fl, 0⟩

/-- A CQ4 element q × S converted to an element type (R95, R254, R259): an integer target saturates q; a product of 0 and an
infinity is invalid (R85). -/
def cqElem (et : BitVec 3) (mode : BitVec 3) (q : Int) (s : FVal) : FOut :=
  match fmtOfEt et with
  | none => bitsOut (ofSigned (etBits et) (satS (etBits et) q))
  | some f => match mulVal (intVal q) s with
    | some v => roundVal f mode v
    | none => nanOut f [intVal q, s] (!isNaN s)

/-- The integer a conversion's source holds, if its type is an integer's (R166). -/
def cvtInt (code : BitVec 5) (v : Nat) : Option Int :=
  let n := szBits (code.setWidth 2)
  if code.toNat < 4 then none else if code.toNat < 8 then some (toSigned n v) else some (v % 2 ^ n)

/-- The width of a source type code's values (R166). -/
def srcBits (code : BitVec 5) : Nat :=
  if code.toNat < 4 then fmtWidth (fmtOfSz (code.setWidth 2)) else szBits (code.setWidth 2)

/-- VCVT (R257): lanes both types have are converted, the rest of vd is zero. -/
def execVcvt (o : VecCvt) : State → Out :=
  let z := etBits o.et
  let code := o.src.setWidth 5
  let zs := srcBits code
  laneWord (vcvtRule o) o.vd o.me o.msk o.pol z (128 / z) (min (128 / z) (128 / zs)) (etFmt o.et) fun s i =>
    let v := lane (s.ctx.readV o.va) zs i
    toElem o.et s.ctx.mode (cvtInt code v) (cvtSource code (BitVec.ofNat 64 v))

/-- VPACK (R258). -/
def execVpack (o : Vec2) : State → Out :=
  let z := etBits o.et
  let n := 128 / z
  laneWord (vec2Rule true false o) o.vd o.me o.msk o.pol z n n .f32 fun s i =>
    let w := if i < n / 2 then lane (s.ctx.readV o.va) (2 * z) i else lane (s.ctx.readV o.vb) (2 * z) (i - n / 2)
    bitsOut (ofSigned z (satS z (toSigned (2 * z) w)))

/-- The rule of VUNPK. -/
def vunpkRule (o : VecUnpk) : WordRule :=
  { rep := true, rm := true, cls := 1, srcs := (.v o.va, o.ea) :: maskSrcs o.vd o.me o.msk o.pol false, dests := [.v o.vd] }
/-- VUNPK (R258). -/
def execVunpk (o : VecUnpk) : State → Out :=
  let z := etBits o.et
  let n := 128 / z
  laneWord (vunpkRule o) o.vd o.me o.msk o.pol z n n .f32 fun s i =>
    bitsOut (ofSigned z (toSigned (z / 2) (lane (s.ctx.readV o.va) (z / 2) (if o.half then n + i else i))))

/-- VCBX (R95, R259). -/
def execVcbx (o : Vec2) : State → Out :=
  let z := etBits o.et
  laneWord (vec2Rule true false o) o.vd o.me o.msk o.pol z (128 / z) (128 / z) (etFmt o.et) fun s i =>
    let b := s.ctx.readV o.vb
    let idx := (s.ctx.readV o.va).toNat / 16 ^ i % 16
    let level := levelOf (if b.getLsbD 64 then s.me.codebook.toList else Config.standardBook) idx
    let q := level * (bits b 7 0 : Nat)
    cqElem o.et s.ctx.mode q (fval .f32 (bits b 63 32))

/-! ## Masks (R261, R262) -/

/-- A comparison (R261): `f` compares lanes as values of a format, `g` as integers of `z` bits; the bits of the lanes are
the result. `quiet` functions raise NV for a signalling NaN only. -/
def vcmp (quiet nan : Bool) (f : FVal → FVal → Bool) (g : Nat → Nat → Nat → Bool) (o : Vec2) : State → Out :=
  issue (vec2Rule false false o) fun s =>
    let z := etBits o.et
    let n := 128 / z
    let act := s.ctx.active o.me o.msk
    let outs := (List.range n).map fun i =>
      let a := lane (s.ctx.readV o.va) z i
      let b := lane (s.ctx.readV o.vb) z i
      if !act.getLsbD i then bitsOut 0
      else match fmtOfEt o.et with
        | some t =>
          let x := fval t a
          let y := fval t b
          cmpOut quiet (if isNaN x || isNaN y then nan else f x y) x y
        | none => bitsOut (num (g z a b))
    let v := maskedLanes 1 n n act o.pol (s.ctx.readV o.vd) fun i => (outs.getD i (bitsOut 0)).bits
    .done ((s.raiseFlags (outs.foldl (fun a r => a ||| r.flags) 0)).modCtx (·.writeV o.vd v))

/-- VCMP.EQ (R261). -/
def execVcmpEq (o : Vec2) : State → Out := vcmp true false eqVal (fun _ a b => a == b) o
/-- VCMP.NE (R261). -/
def execVcmpNe (o : Vec2) : State → Out := vcmp true true (fun a b => !eqVal a b) (fun _ a b => a != b) o
/-- VCMP.LT (R261). -/
def execVcmpLt (o : Vec2) : State → Out := vcmp false false ltVal (fun z a b => decide (toSigned z a < toSigned z b)) o
/-- VCMP.LE (R261). -/
def execVcmpLe (o : Vec2) : State → Out :=
  vcmp false false (fun a b => !ltVal b a) (fun z a b => decide (toSigned z a ≤ toSigned z b)) o
/-- VCMP.LTU (R261). -/
def execVcmpLtu (o : Vec2) : State → Out := vcmp false false ltVal (fun _ a b => decide (a < b)) o
/-- VCMP.LEU (R261). -/
def execVcmpLeu (o : Vec2) : State → Out := vcmp false false (fun a b => !ltVal b a) (fun _ a b => decide (a ≤ b)) o

/-- The rule of the two-source mask words. -/
def mask2Rule (o : Mask2) : WordRule :=
  { rep := true, cls := 1, srcs := [(.v o.va, o.ea), (.v o.vb, o.eb)], dests := [.v o.vd] }
/-- A mask word on two registers as bit strings (R262). -/
def vmask2 (f : Vec → Vec → Vec) (o : Mask2) : State → Out :=
  issue (mask2Rule o) fun s => .done (s.modCtx fun c => c.writeV o.vd (f (c.readV o.va) (c.readV o.vb)))
/-- VMAND (R262). -/
def execVmand (o : Mask2) : State → Out := vmask2 (· &&& ·) o
/-- VMOR (R262). -/
def execVmor (o : Mask2) : State → Out := vmask2 (· ||| ·) o
/-- VMXOR (R262). -/
def execVmxor (o : Mask2) : State → Out := vmask2 (· ^^^ ·) o

/-- The rule of VMNOT. -/
def mask1Rule (o : Mask1) : WordRule := { rep := true, cls := 1, srcs := [(.v o.va, o.ea)], dests := [.v o.vd] }
/-- VMNOT (R262). -/
def execVmnot (o : Mask1) : State → Out :=
  issue (mask1Rule o) fun s => .done (s.modCtx fun c => c.writeV o.vd (~~~(c.readV o.va)))

/-- The rule of VMCNT and VMFST. -/
def maskCountRule (o : MaskCount) : WordRule := { rep := true, cls := 1, srcs := [(.v o.va, o.ea)], dests := [.v o.vd] }
/-- VMCNT (R262). -/
def execVmcnt (o : MaskCount) : State → Out :=
  issue (maskCountRule o) fun s =>
    .done (s.modCtx fun c => c.writeV o.vd (BitVec.ofNat 128 (popCount (etLanes o.et) (c.readV o.va).toNat)))
/-- VMFST (R262). -/
def execVmfst (o : MaskCount) : State → Out :=
  issue (maskCountRule o) fun s =>
    .done (s.modCtx fun c => c.writeV o.vd (BitVec.ofNat 128 (lowestOne (etLanes o.et) (c.readV o.va).toNat)))

end Sys2Proof.Machine
end

