-- ==== Sys2Proof/Machine/Matrix.lean ====
section
/-!
DEFINITION. Majors 0x38 to 0x3A but MDRAINC: tiles, gang operations, drains, the residue configuration, the alternate codebook, and residue words (R263 to R278).
-/

namespace Sys2Proof.Machine

/-! ## Own local store, and words that end later -/

/-- The offset an address names in a core's own local store, through either alias (R45). -/
def ownOffset (core : Nat) (va : Word) : Option Nat :=
  let a := va.toNat
  if Config.ownWindow ≤ a && a < Config.csWindow then some (a % Config.lsSize)
  else if Config.lsWindow ≤ a && (a - Config.lsWindow) / Config.lsSize = core then some (a % Config.lsSize)
  else none

/-- The checks of a descriptor's or record's address (R267, R280): 64-aligned, in the own local store, below SYSBASE. -/
def State.descFault (s : State) (va : Word) : Option FaultInfo :=
  if va.toNat % 64 ≠ 0 then some (atAddr .align va)
  else match ownOffset s.cur.1 va with
    | none => some (atAddr .windowBounds va)
    | some off => if s.me.sysbase < off + 64 then some (atAddr .priv va) else none

/-- A descriptor of 64 bytes read by the acting context's word (R266, R280): the `i`-th of the word's reads. -/
def State.withDesc (s : State) (i : Nat) (va : Word) (k : State → Nat → Did) : Did :=
  match s.descFault va with
  | some f => .fault s.dropReads f
  | none => s.readAt i none (parts16 0 va 64) k

/-- What an event makes of a context's word that it ends: the word's own end, when the context stands at it; a word that a
sequence or a step issued takes its end when it issues again. -/
def State.finishWord (s : State) (core k : Nat) (body : State → Did) : State :=
  let c := (s.core core).ctx k
  if c.state ≠ .running || c.rep.isSome || c.stepping then s
  else match (body { s with cur := (core, k) }).outcome 0 with
    | .next t => { t with cur := s.cur }
    | _ => s

/-! ## Residue words in x registers (R277, R278) -/

/-- The rule of RNFWD. -/
def rnfwdRule (o : Fp1) : WordRule := { rep := true, noHint := true, srcs := [(.x o.ra, o.ea)], dests := [.x o.rd] }
/-- RNFWD (R103, R277). -/
def execRnfwd (o : Fp1) : State → Out :=
  issue (rnfwdRule o) fun s =>
    .done (s.modCtx fun c => c.writeX o.rd (BitVec.ofNat 64 (residues (toSigned (szBits o.sz) (c.readX o.ra).toNat))))

/-- Channel arithmetic on two residue words (R278). -/
def rnOp (op : Int → Int → Int) (o : Reg2) : State → Out :=
  issue { reg2Rule o with rep := true, noHint := true } fun s =>
    .done (s.modCtx fun c => c.writeX o.rd (BitVec.ofNat 64 (rnArith op (c.readX o.ra).toNat (c.readX o.rb).toNat)))
/-- RNADD (R278). -/
def execRnadd (o : Reg2) : State → Out := rnOp (· + ·) o
/-- RNSUB (R278). -/
def execRnsub (o : Reg2) : State → Out := rnOp (· - ·) o
/-- RNMUL (R278). -/
def execRnmul (o : Reg2) : State → Out := rnOp (· * ·) o

/-- DETAIL of the residue causes (R361). -/
def residueDetail (tile row col : Nat) (mask : BitVec 7) : BitVec 24 :=
  BitVec.ofNat 24 (tile % 8 * 2 ^ 21 + row % 16 * 2 ^ 17 + col % 8 * 2 ^ 14 + mask.toNat * 2 ^ 7)

/-- A RESIDUE_CORRECTED event of a core's context (R106): it names no context. -/
def State.correctedEvent (s : State) (core k : Nat) (detail : BitVec 24) : State :=
  let c := (s.core core).ctx k
  s.packet core (packetWords core 15 ⟨.residueCorrected, detail, 0⟩ c.faultPc c.region.domain c.faultWord)

/-- A core's decoding of a residue word (R105, R107). -/
def Core.decode (c : Core) (w : Word) : RnOut := decodeResidue c.acfgDeg c.acfgFch w.toNat

/-- RNREV (R278): a fault leaves xd empty and is taken at the next issue. -/
def execRnrev (o : Reg1) : State → Out :=
  issue { reg1Rule o with rep := true, noHint := true } fun s =>
    let d := destX o.rd
    let late (f : FaultInfo) : Did :=
      .done (s.modCtx fun c => { c.markDest d false with deferred := c.deferred ++ [⟨f, c.pc⟩] })
    let value (s : State) (x : Int) : Did := .done (s.awaitKnown d (BitVec.ofInt 192 x) 0 0)
    match s.me.decode (s.ctx.readX o.ra) with
    | .good x => value s x
    | .corrected i x => value (s.correctedEvent s.cur.1 s.cur.2 (residueDetail 7 15 7 (BitVec.ofNat 7 (2 ^ i)))) x
    | .overflow _ => late ⟨.rnsOverflow, residueDetail 7 15 7 0, 0⟩
    | .mismatch m => late ⟨.residueMismatch, residueDetail 7 15 7 m, 0⟩

/-- RNCHK (R278). -/
def execRnchk (o : Reg1) : State → Out :=
  issue { reg1Rule o with rep := true, noHint := true } fun s =>
    .done (s.modCtx (·.writeX o.rd (rnOutWord (s.me.decode (s.ctx.readX o.ra)))))

/-! ## Tiles (R263 to R265) -/

/-- A tile as it reads (R263). -/
def Tile.shown (t : Tile) : Tile := if t.valid then t else { Tile.reset with busy := t.busy }

/-- A tile's state word (R263). -/
def Tile.stateWord (t : Tile) : Word :=
  BitVec.ofNat 64 (t.ksteps.toNat * 2 ^ 16 + t.bfmt.toNat * 2 ^ 6 + t.afmt.toNat * 2 ^ 4 + num t.busy * 2 + num t.valid)

/-- A word of a tile by its index (R263). -/
def Tile.read (t : Tile) (i : Nat) : Word :=
  let t := t.shown
  if i < 128 then t.word.getD i 0
  else if i = 128 then t.stateWord
  else if i = 129 || i = 130 then BitVec.ofNat 64 (ofBytes ((t.rowexp.toList.drop (8 * (i - 129))).take 8))
  else if i ≤ 134 then (t.cols.getD (2 * (i - 131) + 1) 0) ++ (t.cols.getD (2 * (i - 131)) 0)
  else 0

/-- A word of a tile written by its index (R102, R263, R265): a reserved index changes nothing, and the reserved bits 63 to 61
of an element are not kept. -/
def Tile.write (t : Tile) (i : Nat) (v : Word) : Tile :=
  if 135 ≤ i then t
  else
    let t := t.shown
    if i < 128 then { t with word := t.word.setIfInBounds i (v &&& 0x1FFFFFFFFFFFFFFF), valid := true }
    else if i = 128 then
      { t with ksteps := v.extractLsb' 16 16, bfmt := v.extractLsb' 6 2, afmt := v.extractLsb' 4 2, valid := v.getLsbD 0 }
    else if i = 129 || i = 130 then
      { t with
        valid := true
        rowexp := (List.range 8).foldl (fun r j => r.setIfInBounds (8 * (i - 129) + j) (v.extractLsb' (8 * j) 8)) t.rowexp }
    else
      { t with
        valid := true
        cols := (t.cols.setIfInBounds (2 * (i - 131)) (v.extractLsb' 0 32)).setIfInBounds (2 * (i - 131) + 1) (v.extractLsb' 32 32) }

/-- A word on a tile waits in RUNNING while the tile is BUSY (R264). -/
def State.onTile (s : State) (acc : BitVec 3) (k : Tile → Did) : Did :=
  let t := s.me.tile acc.toNat
  if t.busy then .stay s else k t

/-- The rule of MZERO. -/
def mzeroRule : WordRule := { rep := true, noHint := true }
/-- MZERO (R265). -/
def execMzero (acc : BitVec 3) : State → Out :=
  issue mzeroRule fun s => s.onTile acc fun _ =>
    .done (s.modMe (·.modTile acc.toNat fun t => { t with valid := false, ksteps := 0 }))

/-- The rule of ARD. -/
def ardRule (o : AccRead) : WordRule := { rep := true, noHint := true, srcs := [(.x o.ri, false)], dests := [.x o.rd] }
/-- ARD (R156, R265). -/
def execArd (o : AccRead) : State → Out :=
  issue (ardRule o) fun s => s.onTile o.acc fun t =>
    .done (s.awaitKnown (destX o.rd) ((t.read (bits (s.ctx.readX o.ri) 7 0)).setWidth 192) 0 0)

/-- The rule of AWR. -/
def awrRule (o : AccWrite) : WordRule := { rep := true, noHint := true, srcs := [(.x o.ri, false), (.x o.rs, false)] }
/-- AWR (R265). -/
def execAwr (o : AccWrite) : State → Out :=
  issue (awrRule o) fun s => s.onTile o.acc fun _ =>
    let i := bits (s.ctx.readX o.ri) 7 0
    let v := s.ctx.readX o.rs
    .done (s.modMe (·.modTile o.acc.toNat (·.write i v)))

/-- An element of a core's tile decoded with the effects of R106: the state, and its value and whether it was corrected,
or the fault. With `sat` an overflow gives its value. -/
def State.decodeElem (s : State) (core k tile e : Nat) (sat : Bool) : State × Except FaultInfo (Int × Bool) :=
  let c := s.core core
  match c.decode ((c.tile tile).read e) with
  | .good x => (s, .ok (x, false))
  | .corrected i x =>
    let s := s.modCore core (·.modTile tile fun t => { t with word := t.word.setIfInBounds e (BitVec.ofNat 64 (residues x)) })
    (s.correctedEvent core k (residueDetail tile (e / 8) (e % 8) (BitVec.ofNat 7 (2 ^ i))), .ok (x, true))
  | .overflow x => if sat then (s, .ok (x, false)) else (s, .error ⟨.rnsOverflow, residueDetail tile (e / 8) (e % 8) 0, 0⟩)
  | .mismatch m => (s, .error ⟨.residueMismatch, residueDetail tile (e / 8) (e % 8) m, 0⟩)

/-- The elements of a tile from `128 - n` on decoded in order (R106): their values and the number corrected, up to the first
fault. -/
def State.decodeTile (s : State) (core k tile : Nat) (sat : Bool) : Nat → List Int → Nat → State × Except FaultInfo (List Int × Nat)
  | 0, xs, cnt => (s, .ok (xs, cnt))
  | n + 1, xs, cnt =>
    match s.decodeElem core k tile (127 - n) sat with
    | (s, .error f) => (s, .error f)
    | (s, .ok (x, fixed)) => s.decodeTile core k tile sat n (xs ++ [x]) (cnt + num fixed)

/-- The rule of ACHK. -/
def achkRule (o : AccCheck) : WordRule := { rep := true, noHint := true, dests := [.x o.rd] }
/-- ACHK (R265). -/
def execAchk (o : AccCheck) : State → Out :=
  issue (achkRule o) fun s => s.onTile o.acc fun t =>
    if !t.valid then .done (s.modCtx (·.writeX o.rd 0))
    else match s.decodeTile s.cur.1 s.cur.2 o.acc.toNat false 128 [] 0 with
      | (s, .error f) => .fault s f
      | (s, .ok (_, n)) => .done (s.modCtx (·.writeX o.rd (BitVec.ofNat 64 n)))

/-! ## The gang operation (R266 to R271) -/

/-- Fields of a gang descriptor (R266). -/
def gdABase (d : Nat) : Nat := descField d 0 8
/-- Row distance of A. -/
def gdAStride (d : Nat) : Nat := descField d 8 4
/-- Offset of B in the weight slice. -/
def gdBOff (d : Nat) : Nat := descField d 12 4 % 2 ^ 18
/-- K-steps spanned. -/
def gdK (d : Nat) : Nat := descField d 16 2
/-- First K-step. -/
def gdKOff (d : Nat) : Nat := descField d 18 2
/-- Format of A: 0 S8, 1 S16, 2 BX16. -/
def gdAFmt (d : Nat) : Nat := descField d 20 1
/-- Format of B: 0 S8, 1 S16, 2 CQ4. -/
def gdBFmt (d : Nat) : Nat := descField d 21 1
/-- Whether the tile is accumulated into. -/
def gdAcc (d : Nat) : Bool := bitOf (descField d 22 1) 0
/-- Whether a skip list chooses the steps. -/
def gdSkip (d : Nat) : Bool := bitOf (descField d 22 1) 1
/-- The stream of the skip list. -/
def gdQs (d : Nat) : BitVec 2 := BitVec.ofNat 2 (descField d 22 1 / 4)
/-- TILEBASE. -/
def gdTileBase (d : Nat) : Nat := descField d 22 1 / 16 % 8

/-- The address of an element of A (R266). -/
def gdAAddr (d r k : Nat) : Word :=
  BitVec.ofNat 64 (gdABase d + r * gdAStride d +
    (match gdAFmt d with | 0 => k | 1 => 2 * k | _ => 516 * (k / 256) + 2 * (k % 256)))
/-- The address of the exponent byte of a row's BX16 block (R266). -/
def gdAExp (d r k : Nat) : Word := BitVec.ofNat 64 (gdABase d + r * gdAStride d + 516 * (k / 256) + 512)

/-- The byte runs of the span of A (R267). -/
def gdARuns (d : Nat) : List (Word × Nat) :=
  (List.range 16).flatMap fun r =>
    (gdAAddr d r (gdKOff d), gdK d * (if gdAFmt d = 0 then 1 else 2)) ::
      (if gdAFmt d = 2 then [(gdAExp d r (gdKOff d), 1)] else [])

/-- One past the last byte of the span of B (R266, R267). -/
def gdBEnd (d : Nat) : Nat :=
  let last := gdKOff d + gdK d - 1
  gdBOff d + (match gdBFmt d with | 0 => 8 * last + 8 | 1 => 16 * last + 16 | _ => 136 * (8 * (last / 256) + 8))

/-- Whether a byte run of A lies where the operation may read (R267): the own cluster's store, or for MMAS the own local
store below SYSBASE. -/
def State.aRunIn (s : State) (core : Nat) (mmas : Bool) (run : Word × Nat) : Bool :=
  let lo := Config.csWindow + clusterOf core * 2 ^ 20
  (decide (lo ≤ run.1.toNat) && decide (run.1.toNat + run.2 ≤ lo + 2 ^ 20)) ||
    (mmas && (ownOffset core run.1).any fun off => decide (off + run.2 ≤ (s.core core).sysbase))

/-- The banks a byte run of A touches. -/
def State.aBanks (s : State) (run : Word × Nat) : List Bank :=
  let a := run.1.toNat
  if Config.csWindow ≤ a && a < Config.lsWindow then
    let k := (a - Config.csWindow) / 2 ^ 20
    (span (a / 2 ^ 16 % 16) ((a % 2 ^ 16 + run.2 - 1) / 2 ^ 16 + 1)).map fun b => (s.cluster k).bank b
  else []

/-- Whether a bank may give A (R54). -/
def Bank.givesA (b : Bank) : Bool := b.mode == .scratch && !b.sys

/-- The checks of R267 on a member's own descriptor after its address: none when all pass, `some none` when a bank is
changing its mode and the word waits (R55). -/
def State.gangFault (s : State) (mmas : Bool) (d : Nat) : Option (Option FaultInfo) :=
  let notSkip := match s.ctx.readQ (gdQs d) with | .skip .. => false | _ => true
  let al := match gdAFmt d with | 0 => 1 | 1 => 2 | _ => 4
  if gdK d = 0 || 4096 < gdK d || 2 < gdAFmt d || 2 < gdBFmt d ||
      ((gdAFmt d = 2 || gdBFmt d = 2) && 256 < gdKOff d % 256 + gdK d) || (gdSkip d && notSkip) then some (some (plain .illegal))
  else if gdABase d % al ≠ 0 || gdAStride d % al ≠ 0 then some (some (atAddr .align (BitVec.ofNat 64 (gdABase d))))
  else if gdBOff d % (if gdBFmt d = 1 then 16 else 8) ≠ 0 then some (some (plain .align))
  else match (gdARuns d).find? fun r => !s.aRunIn s.cur.1 mmas r with
    | some r => some (some (atAddr .windowBounds r.1))
    | none =>
      if Config.sliceSize < gdBEnd d then some (some (plain .windowBounds))
      else if (gdARuns d).any fun r => (s.aBanks r).any (·.busy.isSome) then some none
      else match (gdARuns d).find? fun r => !(s.aBanks r).all Bank.givesA with
        | some r => some (some (atAddr .bankMode r.1))
        | none => none

/-- The members of a mask on a core's cluster row, the leader first (R268). -/
def gangCores (core : Nat) (mask : BitVec 8) : List Nat :=
  ((List.range 8).filter fun i => mask.getLsbD i).map fun i => coreAt (coreX core / 8 * 8 + i) (coreY core)

/-- The context of a core whose arrival waits at the barrier, and the arrival (R269); one whose sequence has issued its MGANG may
wait at a word of its own. -/
def Core.atBarrier (c : Core) : Option (Nat × Arrival) :=
  (List.range 11).findSome? fun k =>
    match (c.ctx k).arrival with
    | some a => if a.phase == .waiting && ((c.ctx k).state == .running || ((c.ctx k).rep.isSome && (c.ctx k).state == .waiting)) then
        some (k, a) else none
    | none => none

/-- The kept steps of a window of K-steps (R270): the list, and the stream after them; none when a Step reads an entry
outside the program area. -/
def keptSteps (s : State) (core k0 k : Nat) : Nat → Stream → List Nat → Option (List Nat × Stream)
  | 0, q, acc => some (acc, q)
  | fuel + 1, q, acc =>
    match q with
    | .skip _ _ _ _ v _ false =>
      if k0 + k ≤ v then some (acc, q)
      else match streamSteps s core 1 q with
        | none => none
        | some q' => keptSteps s core k0 k fuel q' (if k0 ≤ v then acc ++ [v] else acc)
    | q => some (acc, q)

/-- `n` bytes of A at an address, with the members' own buffered stores merged (R46, R271). -/
def State.aBytes (s : State) (lead : Nat) (members : List Nat) (va : Word) (n : Nat) : Nat :=
  let key := match ownOffset lead va with
    | some off => lsKey lead off
    | none => va.toNat
  members.foldl (fun v m => let (om, od) := (s.core m).buffered va n; merge n v om od) (readMem s.mem key n)

/-- The integers of row `r` of A at the steps given (R270). -/
def State.aRow (s : State) (lead : Nat) (members : List Nat) (d r : Nat) (steps : List Nat) : List Int :=
  let n := if gdAFmt d = 0 then 1 else 2
  steps.map fun k => toSigned (8 * n) (s.aBytes lead members (gdAAddr d r k) n)

/-- The integers of column `c` of B in a core's weight slice at the steps given (R266, R270). -/
def State.bCol (s : State) (core d c : Nat) (steps : List Nat) : List Int :=
  let at_ (off n : Nat) : Nat := readMem s.weights (wsKey core (gdBOff d + off)) n
  steps.map fun k =>
    match gdBFmt d with
    | 0 => toSigned 8 (at_ (8 * k + c) 1)
    | 1 => toSigned 16 (at_ (16 * k + 2 * c) 2)
    | _ =>
      let block := 136 * (8 * (k / 256) + c)
      let j := k % 256
      Config.standardLevels.getD (at_ (block + j / 2) 1 / 16 ^ (j % 2) % 16) 0 * (at_ (block + 128 + j / 64) 1 : Nat)

/-- A tile after an operation over the steps given (R270). -/
def State.gangTile (s : State) (lead : Nat) (members : List Nat) (core d : Nat) (steps : List Nat) (t : Tile) : Tile :=
  let k0 := gdKOff d
  let base : Tile := if gdAcc d && t.valid then t else
    { t with
      word := Vector.replicate 128 0
      ksteps := 0
      afmt := BitVec.ofNat 2 (gdAFmt d)
      bfmt := BitVec.ofNat 2 (gdBFmt d)
      rowexp := Vector.ofFn fun r : Fin 16 =>
        if gdAFmt d = 2 then BitVec.ofNat 8 (s.aBytes lead members (gdAExp d r k0) 1) else 141
      cols := Vector.ofFn fun c : Fin 8 =>
        if gdBFmt d = 2 then BitVec.ofNat 32 (readMem s.weights (wsKey core (gdBOff d + 136 * (8 * (k0 / 256) + c) + 132)) 4)
        else 0x3F800000 }
  let rows := (List.range 16).map fun r => s.aRow lead members d r steps
  let cols := (List.range 8).map fun c => s.bCol core d c steps
  { base with
    valid := true
    ksteps := BitVec.ofNat 16 (min 65535 (base.ksteps.toNat + steps.length))
    word := if steps = [] then base.word else Vector.ofFn fun e : Fin 128 =>
      let dot := (((rows.getD (e / 8) []).zip (cols.getD (e % 8) [])).map fun p => p.1 * p.2).sum
      let old := (base.word.getD e 0).toNat
      BitVec.ofNat 64 (packResidues fun i => (((residue old i : Int) + dot) % (modulus i : Int)).toNat) }

/-- The tile of a member (R268). -/
def gangTileNo (acc : BitVec 3) (d : Nat) : Nat := (acc.toNat + gdTileBase d) % 8

/-- Whether a core's array and a tile of it are free (R264, R269). -/
def State.arrayFree (s : State) (core tile : Nat) : Bool :=
  s.gangOps.all (fun g => g.members.all fun m => m.1 != core) && !((s.core core).tile tile).busy

/-- The operation of a gang whose members are given as core, context and acc, the leader first (R270, R271): every tile
takes its value and is BUSY; the leader's skip stream moves. None when a Step reads outside the program area. -/
def State.gangOperate (s : State) (d : Nat) (ms : List (Nat × Nat × BitVec 3)) : Option State :=
  let lead := (ms.headD (0, 0, 0)).1
  let lk := (ms.headD (0, 0, 0)).2.1
  let cores := ms.map (·.1)
  let q0 := ((s.core lead).ctx lk).readQ (gdQs d)
  let plan := if gdSkip d then keptSteps s lead (gdKOff d) (gdK d) (2 ^ 17) q0 [] else some (span (gdKOff d) (gdK d), q0)
  match plan with
  | none => none
  | some (steps, q) =>
    let s1 := ms.foldl (fun t m =>
      (t.modCore m.1 (·.modTile (gangTileNo m.2.2 d) fun x =>
        { s.gangTile lead cores m.1 d steps x with busy := true })).note
        (.charge m.1 2 steps.length ((s.core m.1).ctx m.2.1).region.energyAt)) s
    let s2 := if gdSkip d then (s1.modCtxOf lead lk fun c =>
        { c.writeQ (gdQs d) q with
          rep := c.rep.map fun r => { r with streamDone := r.streamDone || (match q with | .skip _ _ _ _ _ _ dn => dn | _ => false) } }).note
        (.kept lead lk (gdQs d))
      else s1
    some { s2 with gangOps := s2.gangOps ++ [⟨ms.map fun m => (m.1, gangTileNo m.2.2 d), steps.length⟩] }

/-- The rule of MGANG. -/
def mgangRule (o : Gang) : WordRule := { rep := true, noHint := true, srcs := [(.x o.ra, false), (.x o.rb, false)] }

/-- The end of an MGANG that has arrived (R269). -/
def gangEnd (s : State) : Did :=
  match s.ctx.arrival with
  | none => .stay s
  | some a =>
    match a.phase with
    | .waiting => .stay s
    | .started => .done (s.modCtx fun c => { c with arrival := none })
    | .failed f => .fault (s.modCtx fun c => { c with arrival := none }) f

/-- MGANG (R267 to R269, R400): checks, then an arrival at the barrier, where the word waits in RUNNING; behind another context's
arrival it waits uncounted until it may arrive. -/
def execMgang (o : Gang) : State → Out :=
  issue (mgangRule o) fun s =>
    if s.ctx.arrival.isSome then gangEnd s
    else s.budgeted fun s => s.withDesc 0 (s.ctx.readX o.ra) fun s d =>
      let mask := (s.ctx.readX o.rb).setWidth 8
      match s.gangFault false d with
      | some none => .stay s
      | some (some f) => .fault s.dropReads f
      | none =>
        if !mask.getLsbD (coreX s.cur.1 % 8) || isKeeper s.cur.1 then .fault s.dropReads (plain .illegal)
        else if !(gangCores s.cur.1 mask).all s.inPound then .fault s.dropReads (plain .windowBounds)
        else if s.me.atBarrier.isSome then .stay (s.modCtx fun c => { c with barred := some c.pc })
        else .stay (s.dropReads.modCtx fun c => { c with barred := none, arrival := some ⟨s.me.cycle, mask, c.region.wdog, o.acc, d, .waiting⟩ })

/-- The rule of MMAS. -/
def mmasRule (o : GangOne) : WordRule := { rep := true, noHint := true, srcs := [(.x o.ra, false)] }
/-- MMAS (R268, R400): an operation of the issuing core alone, started as it issues. -/
def execMmas (o : GangOne) : State → Out :=
  issue (mmasRule o) fun s => s.budgeted fun s => s.withDesc 0 (s.ctx.readX o.ra) fun s d =>
    match s.gangFault true d with
    | some none => .stay s
    | some (some f) => .fault s.dropReads f
    | none =>
      if !s.arrayFree s.cur.1 (gangTileNo o.acc d) then .stay s
      else match s.gangOperate d [(s.cur.1, s.cur.2, o.acc)] with
        | none => .fault s.dropReads (atAddr .windowBounds (ownAddr s.me.sysbase))
        | some s => .done s.dropReads

/-- What becomes of an arrival, for the contexts given: the phase is set, and words that stand at their MGANG end. -/
def State.gangMark (s : State) (ms : List (Nat × Nat)) (p : GangPhase) : State :=
  ms.foldl (fun s m => (s.modCtxOf m.1 m.2 fun c => { c with arrival := c.arrival.map fun a => { a with phase := p } }).finishWord
    m.1 m.2 gangEnd) s

/-- A print of the session for a gang whose barrier starts (R297): the leader, and each member's clock at its arrival. -/
def State.traceGang (s : State) (lead : Nat) (mask : BitVec 8) (who : List (Nat × Nat)) : State :=
  if s.snivis.gangs.any fun g => g.1 == lead && g.2 == mask.toNat then
    s.printText "gang" (who.map fun m => s.coreText m.1) (BitVec.ofNat 64 lead :: who.map fun m =>
      ((((s.core m.1).ctx m.2).arrival).map (·.cycle)).getD 0)
  else s

/-- GANG_START (R269, R270, R401): the leader's gang has arrived whole and every array is free: the operation starts and the
members retire. A bank that has left SCRATCH since makes every member raise BANK_MODE (R55). -/
def execGangStart (core : Nat) (s : State) : Out :=
  event (decide (core < Config.workers)) <|
    match (s.core core).atBarrier with
    | none => s
    | some (_, a) =>
      let cores := gangCores core a.mask
      let ms := cores.filterMap fun n => ((s.core n).atBarrier).bind fun p => if p.2.mask = a.mask then some (n, p.1, p.2.acc) else none
      let who := ms.map fun m => (m.1, m.2.1)
      if cores.head? ≠ some core || ms.length ≠ cores.length || (s.stack (stackOf core)).throttled ||
          !ms.all (fun m => s.arrayFree m.1 (gangTileNo m.2.2 a.desc)) ||
          (gdARuns a.desc).any (fun r => (s.aBanks r).any (·.busy.isSome)) then s
      else match (gdARuns a.desc).find? fun r => !(s.aBanks r).all Bank.givesA with
        | some r => s.gangMark who (.failed (atAddr .bankMode r.1))
        | none => match s.gangOperate a.desc ms with
          | none => s.gangMark (who.take 1) (.failed (atAddr .windowBounds (ownAddr (s.core core).sysbase)))
          | some s => (s.traceGang core a.mask who).gangMark who .started

/-- GANG_TIMEOUT (R269): a member whose barrier timer has run out withdraws and faults. -/
def execGangTimeout (core : Nat) (s : State) : Out :=
  event (coreIn core) <|
    match (s.core core).atBarrier with
    | none => s
    | some (k, a) => if a.left ≠ 0 then s else s.gangMark [(core, k)] (.failed ⟨.gangTimeout, a.mask.setWidth 24, 0⟩)

/-- GANG_OPERATION_DONE (R271): operation `k` ends, and its members' tiles are BUSY no more. -/
def execGangOperationDone (k : Nat) (s : State) : Out :=
  .next <| match s.gangOps[k]? with
    | none => s
    | some g => g.members.foldl (fun s m => s.modCore m.1 (·.modTile m.2 fun t => { t with busy := false }))
        { s with gangOps := s.gangOps.eraseIdx k }

/-! ## Draining (R272, R273) -/

/-- Bytes of a drained element (R272). -/
def DrainKind.bytes : DrainKind → Nat
  | .i64 => 8 | .i32s => 4 | .f32 => 4 | .f32a => 4 | .bf16 => 2

/-- A value times a power of two. -/
def shiftVal (k : Int) : FVal → FVal
  | .fin n m e => .fin n m (e + k)
  | v => v

/-- The scale s of an element (R273), with the flags of its rounding. -/
def drainScale (t : Tile) (row col : Nat) (g : BitVec 32) : FOut :=
  fmul .f32 0 (shiftVal ((t.rowexp.getD row 141).toNat - 141) (fval .f32 (t.cols.getD col 0).toNat)) (fval .f32 g.toNat)

/-- What a drain stores of a value (R94, R272, R273), `old` being what is there; the result's flags and events count every
rounding on its way. -/
def drainStore (kind : DrainKind) (t : Tile) (row col : Nat) (g : BitVec 32) (x : Int) (old : Nat) : FOut :=
  match kind with
  | .i64 => bitsOut (ofSigned 64 x)
  | .i32s => bitsOut (ofSigned 32 (satS 32 x))
  | _ =>
    let sc := drainScale t row col g
    let tv := roundVal .f32 0 (intVal x)
    let u := fmul .f32 0 (fval .f32 tv.bits) (fval .f32 sc.bits)
    let fl := sc.flags ||| tv.flags ||| u.flags
    let ops := [fval .f32 (t.cols.getD col 0).toNat, fval .f32 g.toNat]
    match kind with
    | .f32a => let r := fadd .f32 0 (fval .f32 old) (fval .f32 u.bits); outOf .f32 (fval .f32 old :: ops) (r.bits, fl ||| r.flags)
    | .bf16 => let r := roundVal .bf16 0 (fval .f32 u.bits); outOf .bf16 ops (r.bits, fl ||| r.flags)
    | _ => outOf .f32 ops (u.bits, fl)

/-- The elements of a drain from `128 - n` on (R273): the state, the results, and the fault that stopped it. -/
def State.drainFrom (s : State) (core : Nat) (j : DrainJob) : Nat → List FOut → State × List FOut × Option FaultInfo
  | 0, outs => (s, outs, none)
  | n + 1, outs =>
    let e := 127 - n
    match s.decodeElem core j.ctx j.tile e j.sat with
    | (s, .error f) => (s, outs, some f)
    | (s, .ok (x, _)) =>
      let at_ := lsKey core (j.base + e / 8 * j.pitch + e % 8 * j.kind.bytes)
      let r := drainStore j.kind ((s.core core).tile j.tile).shown (e / 8) (e % 8) j.scale x (readMem s.mem at_ j.kind.bytes)
      State.drainFrom { s with mem := writeMem s.mem at_ (toBytes j.kind.bytes r.bits) } core j n (outs ++ [r])

/-- The rule of the drains. -/
def drainRule (o : Drain) : WordRule :=
  { rep := true, noHint := true, cls := 1, srcs := [(.x o.ra, false), (.x o.rb, false), (.x o.rc, false)] }

/-- The drain scale a register gives; x0 means 1.0 (R272). -/
def Ctx.drainG (c : Ctx) (rc : BitVec 5) : BitVec 32 := if rc = 0 then 0x3F800000 else (c.readX rc).setWidth 32

/-- Whether a drain is the acting context's word's own. -/
def DrainJob.mine (j : DrainJob) (s : State) : Bool := j.ctx == s.cur.2 && j.since == s.ctx.since && j.pc == s.ctx.pc

/-- Whether a finished drain's word has yet to retire: its context still stands at it, in its own stream or its sequence. -/
def DrainJob.waits (j : DrainJob) (s : State) : Bool :=
  let x := s.me.ctx j.ctx
  x.since == j.since && (x.pc == j.pc || x.rep.any fun q => q.at_ + BitVec.ofNat 64 (4 * q.index) == j.pc)

/-- The end of a drain's word (R273): its flags raised, or its fault. -/
def drainEnd (s : State) : Did :=
  match s.me.drain with
  | none => .stay s
  | some j =>
    let s' := s.modMe fun c => { c with drain := none }
    match j.phase with
    | .busy => .stay s
    | .done fl => .done ((s'.raiseFlags fl).note (.charge s.cur.1 1 7 s.ctx.region.energyAt))
    | .failed f => .fault s' f

/-- MDRAIN (R272, R273): the checks, then the tile is held until DRAIN_COMPLETE. -/
def mdrain (kind : DrainKind) (o : Drain) : State → Out :=
  issue (drainRule o) fun s =>
    let start : Did :=
      let t := s.me.tile o.acc.toNat
      let n := kind.bytes
      let va := s.ctx.readX o.ra
      let pitch := (s.ctx.readX o.rb).toNat
      let span := 15 * pitch + 8 * n
      if t.busy || s.me.stores.any (·.ctx == s.cur.2) then .stay s
      else if va.toNat % n ≠ 0 || pitch % n ≠ 0 then .fault s (atAddr .align va)
      else match ownOffset s.cur.1 va with
        | none => .fault s (atAddr .windowBounds va)
        | some off =>
          if Config.lsSize < off + span then .fault s (atAddr .windowBounds va)
          else if s.me.sysbase < off + span then .fault s (atAddr .priv va)
          else .stay (s.modMe fun c => { c.modTile o.acc.toNat (fun t => { t with busy := true }) with
            drain := some ⟨s.cur.2, s.ctx.since, s.ctx.pc, o.acc.toNat, kind, off, pitch, s.ctx.drainG o.rc, o.sat, .busy⟩ })
    match s.me.drain with
    | none => start
    | some j => if j.mine s then drainEnd s else if j.phase = .busy || j.waits s then .stay s else start

/-- MDRAIN.I64 (R272). -/
def execMdrainI64 (o : Drain) : State → Out := mdrain .i64 o
/-- MDRAIN.I32S (R272). -/
def execMdrainI32s (o : Drain) : State → Out := mdrain .i32s o
/-- MDRAIN.F32 (R272). -/
def execMdrainF32 (o : Drain) : State → Out := mdrain .f32 o
/-- MDRAIN.F32A (R272). -/
def execMdrainF32a (o : Drain) : State → Out := mdrain .f32a o
/-- MDRAIN.BF16 (R272). -/
def execMdrainBf16 (o : Drain) : State → Out := mdrain .bf16 o

/-- The format a drain's results count under (R92). -/
def DrainKind.fmt : DrainKind → Fmt
  | .bf16 => .bf16
  | _ => .f32

/-- DRAIN_COMPLETE (R264, R273): a core's drain does its work, the tile is BUSY no more, and its word retires or faults. A
drain whose body has gone writes nothing. The events of the elements stored before a fault are counted (entry 82). -/
def execDrainComplete (core : Nat) (s : State) : Out :=
  event (coreIn core) <|
    match (s.core core).drain with
    | none => s
    | some j =>
      if j.phase ≠ .busy then s
      else
        let s := s.modCore core (·.modTile j.tile fun t => { t with busy := false })
        if ((s.core core).ctx j.ctx).since ≠ j.since then s.modCore core fun c => { c with drain := none }
        else
          let (s, outs, f) := s.drainFrom core j 128 []
          let phase := match f with
            | some f => DrainPhase.failed f
            | none => .done (outs.foldl (fun a r => a ||| r.flags) 0)
          let s := s.modCtxOf core j.ctx fun c => outs.foldl (fun c r => c.countEvents (fmtIndex j.kind.fmt) r.ev) c
          let s := s.modCore core fun c => { c with drain := some { j with phase := phase } }
          if ((s.core core).ctx j.ctx).pc = j.pc then s.finishWord core j.ctx drainEnd else s

/-! ## ACFG and CBLD (R275, R276) -/

/-- A core's residue configuration as ACFG reads it (R275). -/
def Core.acfgWord (c : Core) : Word := BitVec.ofNat 64 (num c.acfgDeg * 8 + c.acfgFch.toNat)

/-- The rule of ACFG. -/
def acfgRule (o : AccCfg) : WordRule :=
  { priv := true, rep := true, noHint := true, srcs := [(.x o.rcore, false), (.x o.rval, false)], dests := [.x o.rold] }
/-- ACFG (R275): the change waits for the core's tiles, and the word for the change. -/
def execAcfg (o : AccCfg) : State → Out :=
  issue (acfgRule o) fun s =>
    let n := (s.ctx.readX o.rcore).toNat
    let v := s.ctx.readX o.rval
    if Config.workers ≤ n || clusterOf n ≠ clusterOf s.cur.1 then .fault s (plain .windowBounds)
    else if v.getLsbD 3 && bits v 2 0 == 7 then .fault s (plain .illegal)
    else match (s.core n).acfgWait with
      | none => .stay (s.modCore n fun c => { c with acfgWait := some ⟨s.cur.1, s.cur.2, v.getLsbD 3, v.setWidth 3, none⟩ })
      | some w =>
        if w.keeper ≠ s.cur.1 || w.ctx ≠ s.cur.2 then .stay s
        else match w.old with
          | none => .stay s
          | some old => .done ((s.modCore n fun c => { c with acfgWait := none }).modCtx (·.writeX o.rold old))

/-- ACFG_APPLY (R275): a change that waits takes effect once no tile of the core is BUSY. -/
def execAcfgApply (core : Nat) (s : State) : Out :=
  event (coreIn core) <|
    match (s.core core).acfgWait with
    | none => s
    | some w =>
      if w.old.isSome || (s.core core).tiles.toList.any (·.busy) then s
      else s.modCore core fun c =>
        { c with acfgDeg := w.deg, acfgFch := w.fch, acfgWait := some { w with old := some c.acfgWord } }

/-- The rule of CBLD. -/
def cbldRule (ra : BitVec 5) : WordRule := { rep := true, noHint := true, srcs := [(.x ra, false)] }
/-- CBLD (R276). -/
def execCbld (ra : BitVec 5) : State → Out :=
  issue (cbldRule ra) fun s =>
    let va := s.ctx.readX ra
    if va.toNat % 16 ≠ 0 then .fault s (atAddr .align va)
    else s.readAt 0 none (parts16 0 va 16) fun s d =>
      .done (s.dropReads.modMe fun c => { c with codebook := Vector.ofFn fun i : Fin 16 => BitVec.ofNat 8 (d / 256 ^ i.val) })

end Sys2Proof.Machine
end

