-- ==== Sys2Proof/Machine/Rings.lean ====
section
/-!
DEFINITION. Circular buffers: rings, slots, and the words of major 0x27 (R53 to R60, R233 to R236).
-/

namespace Sys2Proof.Machine

/-- Cluster, bank, ring, tag and index of a slot message's word 1, which is a selector too (R58, R233). -/
def selCluster (w : Word) : Nat := bits w 28 20
/-- The bank of a selector (R233). -/
def selBank (w : Word) : Nat := bits w 19 16
/-- The ring of a selector (R233). -/
def selRing (w : Word) : Nat := bits w 15 14
/-- The tag of a slot message's word 1 (R58). -/
def selTag (w : Word) : BitVec 4 := w.extractLsb' 10 4
/-- The slot of a slot message's word 1 (R58). -/
def selIndex (w : Word) : Nat := bits w 9 0

/-- The ring a selector names. -/
def State.ringAt (s : State) (w : Word) : Ring := ((s.cluster (selCluster w)).bank (selBank w)).ring (selRing w)
/-- The ring a selector names changed. -/
def State.modRing (s : State) (w : Word) (f : Ring → Ring) : State :=
  s.modCluster (selCluster w) (·.modBank (selBank w) (·.modRing (selRing w) f))

/-- Bytes of a slot (R56). -/
def Ring.slotBytes (r : Ring) : Nat := 64 * 2 ^ r.slot

/-- A slot's state and tag. -/
def Ring.at (r : Ring) (i : Nat) : SlotState × BitVec 4 := r.slots.getD i (.free, 0)

/-- The tag a slot that is not FREE must carry (R59). -/
def Ring.expectedTag (r : Ring) (i : Nat) : BitVec 4 := BitVec.ofNat 4 (if i < r.fillPtr then r.lap else r.lap + 15)

/-- Whether a count and its parity bit together hold an odd number of ones (R56). -/
def parityOk (n : Nat) (p : Bool) : Bool := (popCount 12 n + num p) % 2 == 1

/-- The parity bit a count needs (R56). -/
def parityFor (n : Nat) : Bool := popCount 12 n % 2 == 0

/-- Counters set, with their parity bits (R56). -/
def Ring.setCounts (r : Ring) (free filled : Nat) : Ring :=
  { r with free := free, pf := parityFor free, filled := filled, pl := parityFor filled }

/-- Whether both counters pass the check made at every update (R59). -/
def Ring.parityGood (r : Ring) : Bool := parityOk r.free r.pf && parityOk r.filled r.pl

/-- The number of slots in a state. -/
def Ring.inState (r : Ring) (x : SlotState) : Nat := (r.slots.filter fun p => p.1 == x).length

/-- The lowest slot whose tag fails R59. -/
def Ring.badTag (r : Ring) : Option Nat :=
  (List.range r.depth).find? fun i => (r.at i).1 != .free && (r.at i).2 != r.expectedTag i

/-- Whether a counter differs from its count of slots (R236). -/
def Ring.badCount (r : Ring) : Bool := r.free != r.inState .free || r.filled != r.inState .filled

/-- DETAIL of a CB_AUDIT packet (R361): the slot, TAGF, PARF and CNTF. -/
def cbDetail (slot : Nat) (tagf parf cntf : Bool) : BitVec 24 :=
  BitVec.ofNat 24 (slot % 2 ^ 10 + num cntf * 2 ^ 10 + num parf * 2 ^ 11 + num tagf * 2 ^ 12)

/-- A selector's ring fields alone. -/
def selOnly (w : Word) : Word := w &&& 0x1FFFC000

/-- The CB_AUDIT cause of a ring as it stands (R236, R361). -/
def Ring.audit (r : Ring) (sel : Word) : FaultInfo :=
  ⟨.cbAudit, cbDetail (r.badTag.getD 0) r.badTag.isSome (!r.parityGood) r.badCount, selOnly sel⟩

/-- The CB_AUDIT packet of R59: it names the ring and no context, and goes to the keeper of the bank's cluster. -/
def State.auditPacket (s : State) (sel : Word) : State :=
  let k := Config.keeperOf (selCluster sel)
  s.packet k (packetWords k 15 ((s.ringAt sel).audit sel) 0 0 0)

/-- A ring's counters updated (R57, R59): the parity is checked first; a failure makes the ring SUSPECT and reports it,
and in SUSPECT the counters stay. -/
def State.countRing (s : State) (sel : Word) (f : Ring → Ring) : State :=
  let r := s.ringAt sel
  if r.state = .suspect then s
  else if r.parityGood then s.modRing sel f
  else (s.auditPacket sel).modRing sel fun r => { r with state := .suspect }

/-- A slot's state set. -/
def Ring.setSlot (r : Ring) (i : Nat) (x : SlotState) (tag : BitVec 4) : Ring := { r with slots := r.slots.set i (x, tag) }

/-- Whether an engine may start the next slot of a ring (R57). -/
def Ring.mayStart (r : Ring) : Bool := r.state == .run && r.depth != 0 && r.free != 0 && (r.at r.fillPtr).1 == .free

/-- An engine starts the slot at FILLPTR (R57). -/
def State.startSlot (s : State) (sel : Word) : State :=
  let s := s.countRing sel fun r => r.setCounts (r.free - 1) r.filled
  if (s.ringAt sel).state ≠ .run then s
  else s.modRing sel fun r =>
    let i := r.fillPtr
    let r := r.setSlot i .inflight (BitVec.ofNat 4 r.lap)
    if i + 1 = r.depth then { r with fillPtr := 0, lap := (r.lap + 1) % 16 } else { r with fillPtr := i + 1 }

/-- Word 1 of a slot message (R58). -/
def slotWord (bytes : Nat) (sel : Word) (tag : BitVec 4) (i : Nat) : Word :=
  BitVec.ofNat 64 ((bytes - 1) % 2 ^ 12 * 2 ^ 29 + (selOnly sel).toNat + tag.toNat * 2 ^ 10 + i % 2 ^ 10)

/-- The offset of a slot in its bank (R56). -/
def Ring.slotOffset (r : Ring) (i : Nat) : Nat := 64 * r.base + i * r.slotBytes

/-- A slot's last byte is written (R57, R58): FILLED, and the slot message to the bound channel. -/
def State.fillSlot (s : State) (sel : Word) (i bytes : Nat) : State :=
  let r := s.ringAt sel
  let tag := (r.at i).2
  let s := (s.countRing sel fun r => r.setCounts r.free (r.filled + 1)).modRing sel (·.setSlot i .filled tag)
  let k := Config.keeperOf (selCluster sel)
  s.admitMsg k (notice (s.tagOf k).toNat k r.chan
    [BitVec.ofNat 64 (csKey (selCluster sel) (selBank sel) (r.slotOffset i)), slotWord bytes sel tag i] 0 0)

/-- A CBRET applied by its bank (R57, R59, R235): the new state and the answer. -/
def State.returnSlot (s : State) (w : Word) : State × CbRet :=
  let r := s.ringAt w
  let i := selIndex w
  let p := r.at i
  if r.depth ≤ i || p.1 ≠ .filled || p.2 ≠ selTag w then
    (s, .bad ⟨.cbAudit, cbDetail i (decide (i < r.depth) && p.1 == .filled) false false, selOnly w⟩)
  else ((s.countRing w fun r => r.setCounts (r.free + 1) (r.filled - 1)).modRing w (·.setSlot i .free p.2), .ok)

/-- What a word of major 0x27 finds at the ring its selector names (R233): a fault, a bank that is changing its mode, or
the ring. `unset` accepts a ring that is not configured. -/
def State.ringCheck (s : State) (unset : Bool) (w : Word) : Except (Option FaultInfo) Ring :=
  let own := !isKeeper s.cur.1 || selCluster w == clusterOf s.cur.1
  let bank := (s.cluster (selCluster w)).bank (selBank w)
  if !s.clusterInPound s.cur.1 (selCluster w) && !isKeeper s.cur.1 || !own then .error (some (plain .windowBounds))
  else if bank.busy.isSome then .error none
  else if bank.mode ≠ .fifo || (!unset && (s.ringAt w).depth == 0) then .error (some (plain .bankMode))
  else .ok (s.ringAt w)

/-- A word of major 0x27 on a ring. -/
def State.onRing (s : State) (unset : Bool) (w : Word) (k : Ring → Did) : Did :=
  match s.ringCheck unset w with
  | .error none => .stay s
  | .error (some f) => .fault s f
  | .ok r => k r

/-- A CBCFG word (R233, R234): `f` gives the status and the new state from the selector, the ring and x(e), x(e + 1). -/
def cbcfg (needs : Nat) (unset : Bool) (f : State → Word → Ring → Word → Word → Nat × State) (o : Reg2) : State → Out :=
  issue { priv := true, dests := [.x o.rd]
          srcs := (.x o.ra, o.ea) :: ((span 0 needs).map fun i => (.x (o.rb + BitVec.ofNat 5 i), o.eb)) } fun s =>
    let c := s.ctx
    s.onRing unset (c.readX o.ra) fun r =>
      let (st, s) := f s (c.readX o.ra) r (c.readX o.rb) (if needs = 2 then c.readX (o.rb + 1) else 0)
      .done (s.modCtx (·.writeX o.rd (BitVec.ofNat 64 st)))

/-- Whether a ring's slots fit in the bank, at a multiple of their size, and clear of the other rings (R56). -/
def ringFits (b : Bank) (own base slot depth : Nat) : Bool :=
  let size := 64 * 2 ^ slot
  let lo := 64 * base
  decide (slot < 7) && decide (1 ≤ depth) && decide (depth ≤ 1024) && decide (lo + depth * size ≤ 2 ^ 16) && lo % size == 0 &&
    (List.range 4).all fun j =>
      let q := b.ring j
      j == own || q.depth == 0 || decide (lo + depth * size ≤ 64 * q.base) || decide (64 * q.base + q.depth * q.slotBytes ≤ lo)

/-- CBCFG.set (R56, R234). -/
def execCbcfgSet (o : Reg2) : State → Out :=
  cbcfg 2 true (fun s w r cfg chan =>
    if r.state ≠ .off && r.state ≠ .quiesced then (4, s)
    else
      let base := bits cfg 53 44
      let slot := bits cfg 43 41
      let depth := bits cfg 40 30
      if !ringFits ((s.cluster (selCluster w)).bank (selBank w)) (selRing w) base slot depth then (4, s)
      else (0, s.modRing w fun r => (({ r with
        base := base, slot := slot, depth := depth, fillPtr := 0, lap := 0, state := .run, chan := chan,
        slots := List.replicate depth (.free, 0) } : Ring).setCounts depth 0))) o

/-- CBCFG.state (R234). -/
def execCbcfgState (o : Reg2) : State → Out :=
  cbcfg 1 false (fun s w _ x _ =>
    match bits x 21 20 with
    | 1 => (0, s.modRing w fun r => { r with state := .run })
    | 3 => (0, s.modRing w fun r => { r with state := .quiesced })
    | _ => (4, s)) o

/-- Whether a ring is QUIESCED with no slot INFLIGHT (R234). -/
def Ring.settled (r : Ring) : Bool := r.state == .quiesced && r.inState .inflight == 0

/-- CBCFG.rebuild (R60, R234). -/
def execCbcfgRebuild (o : Reg2) : State → Out :=
  cbcfg 0 false (fun s w r _ _ =>
    if !r.settled then (4, s)
    else (0, s.modRing w fun r =>
      let r := { r with slots := (List.range r.depth).map fun i =>
        if (r.at i).2 = r.expectedTag i then r.at i else (.free, (r.at i).2) }
      r.setCounts (r.inState .free) (r.inState .filled))) o

/-- CBCFG.clear (R234). -/
def execCbcfgClear (o : Reg2) : State → Out :=
  cbcfg 0 false (fun s w r _ _ =>
    if !r.settled then (4, s) else (0, s.modRing w fun r => { r with depth := 0, state := .off })) o

/-- The smallest scope that contains a core and a cluster store (R109). -/
def clusterScope (core cluster : Nat) : Scope :=
  if clusterOf core = cluster then .clus else if stackOf core = stackOfCluster cluster then .stack else .dev

/-- CBRET (R116, R235): a release of the context's earlier accesses, sent to the bank, whose answer it awaits in RUNNING. -/
def execCbret (o : Src1) : State → Out :=
  issue { srcs := [(.x o.ra, o.ea)] } fun s =>
    let w := s.ctx.readX o.ra
    match s.ctx.cbRet with
    | some .ok => .done (s.modCtx fun c => { c with cbRet := none })
    | some (.bad f) => .fault (s.modCtx fun c => { c with cbRet := none }) f
    | some (.asked _) => .stay s
    | none => s.onRing false w fun _ =>
      if !s.performed (clusterScope s.cur.1 (selCluster w)) true ⟨s.cur.1, s.cur.2, s.seq⟩ then .stay s
      else
        let (q, s) := s.nextSeq
        .stay ((s.modCtx fun c => { c with cbRet := some (.asked q) }).modCluster (selCluster w) fun k =>
          { k with returns := k.returns ++ [(s.cur.1, s.cur.2, q, w)] })

/-- CB_RETURN_APPLY (R57, R235): a cluster's oldest CBRET reaches its bank, which answers the context that waits for it. -/
def execCbReturnApply (cluster : Nat) (s : State) : Out :=
  event (clusterIn cluster) <|
    match (s.cluster cluster).returns with
    | [] => s
    | (core, k, q, w) :: rest =>
      let s := s.modCluster cluster fun c => { c with returns := rest }
      let (s, a) := s.returnSlot w
      s.modCtxOf core k fun c => if c.cbRet = some (.asked q) then { c with cbRet := some a } else c

/-- The code of a ring's STATE (R56). -/
def ringStateCode : RingState → Nat
  | .off => 0 | .run => 1 | .suspect => 2 | .quiesced => 3

/-- A ring's counter word (R56). -/
def Ring.counterWord (r : Ring) : Word :=
  BitVec.ofNat 64 (num r.pf * 2 ^ 61 + r.free % 2 ^ 12 * 2 ^ 49 + num r.pl * 2 ^ 48 + r.filled % 2 ^ 12 * 2 ^ 36 +
    r.fillPtr % 2 ^ 10 * 2 ^ 26 + r.lap % 16 * 2 ^ 22 + ringStateCode r.state * 2 ^ 20)

/-- A read of a ring whose value arrives later (R156, R235, R236). -/
def ringRead (f : State → Word → Ring → Word × State) (o : Reg1) : State → Out :=
  issue { srcs := [(.x o.ra, o.ea)], dests := [.x o.rd] } fun s =>
    let w := s.ctx.readX o.ra
    s.onRing false w fun r =>
      let (v, s) := f s w r
      .done (s.awaitKnown (if o.rd = 0 then .none else .x o.rd) (v.setWidth 192) 0 0)

/-- CBCNT (R235). -/
def execCbcnt (o : Reg1) : State → Out := ringRead (fun s _ r => (r.counterWord, s)) o

/-- The audit word of a ring (R236). -/
def Ring.auditWord (r : Ring) : Word :=
  let t := r.badTag.isSome
  let p := !r.parityGood
  let n := r.badCount
  BitVec.ofNat 64 (r.badTag.getD 0 % 2 ^ 10 * 2 ^ 16 + num t * 8 + num p * 4 + num n * 2 + num (t || p || n))

/-- CBAUDIT (R59, R236): a failure makes the ring SUSPECT and reports it; the context goes on. -/
def execCbaudit (o : Reg1) : State → Out :=
  ringRead (fun s w r =>
    (r.auditWord, if r.auditWord.getLsbD 0 then (s.auditPacket w).modRing w fun r => { r with state := .suspect } else s)) o

end Sys2Proof.Machine
end

