-- ==== Sys2Proof/Machine/Copy.lean ====
section
/-!
DEFINITION. Copy engines and weirs: tensor shape records, the command words of major 0x3B and MDRAINC, what an engine does with a
command, rings it fills, and the weir tables (R57, R274, R279 to R287).
-/

namespace Sys2Proof.Machine

/-! ## Tensor shape records (R280, R281) -/

/-- A tensor shape record as 64 bytes give it, with the view it names; a rounding code that R87 does not list gives an open
mode `free`. -/
def tsrOf (c : Ctx) (free : Nat) (d : Nat) : Tsr where
  base := BitVec.ofNat 64 (descField d 0 8)
  fmt := BitVec.ofNat 4 (descField d 8 1)
  view := if bitOf (descField d 8 1) 4 then some (c.readW (BitVec.ofNat 3 (descField d 8 1 / 32))) else none
  rank := descField d 9 1 % 8
  rm := let r := descField d 10 1 % 8; BitVec.ofNat 3 (if r < 5 then r else free % 5)
  qlim := min 64 (descField d 11 1)
  ext := (List.range 5).map fun k => descField d (12 + 2 * k) 2
  str := (List.range 5).map fun k => toSigned 32 (descField d (24 + 4 * k) 4)
  org := (List.range 5).map fun k => descField d (44 + 2 * k) 2
  clip := (List.range 5).map fun k => descField d (54 + 2 * k) 2

/-- The register a record takes its view from. -/
def tsrReg (d : Nat) : Option (BitVec 3) :=
  if bitOf (descField d 8 1) 4 then some (BitVec.ofNat 3 (descField d 8 1 / 32)) else none

/-- Whether a format is one of blocks. -/
def blockFmt (f : Nat) : Bool := f == 5 || f == 6
/-- Bytes of a block (R65). -/
def blockPitch (f : Nat) : Nat := if f = 5 then 136 else 516
/-- Blocks of 64 KiB (R65). -/
def blocksPer (f : Nat) : Nat := if f = 5 then 481 else 127
/-- Bytes an element, or its block, takes at its place. -/
def Tsr.unit (t : Tsr) : Nat := if blockFmt t.fmt.toNat then blockPitch t.fmt.toNat else elemBytes t.fmt.toNat

/-- The extent of a dimension within its clip limit (R280). -/
def Tsr.lim (t : Tsr) (k : Nat) : Nat :=
  let c := t.clip.getD k 0
  if c = 0 then t.ext.getD k 0 else min (t.ext.getD k 0) c
/-- The extents of a record within its clip limits. -/
def Tsr.lims (t : Tsr) : List Nat := (List.range t.rank).map t.lim
/-- The number of elements of a record within its clip limits. -/
def Tsr.count (t : Tsr) : Nat := t.lims.foldl (· * ·) 1

/-- The indices of element `n`, dimension 0 fastest (R281). -/
def indicesOf : List Nat → Nat → List Nat
  | [], _ => []
  | e :: es, n => n % e :: indicesOf es (n / e)

/-- An offset from BASE, and through the view when one is named. -/
def Tsr.address (t : Tsr) (off : Int) : Word :=
  let a := BitVec.ofInt 64 off
  match t.view with
  | none => a
  | some v => v.base + a

/-- What the strides from dimension `k` on add (R281). -/
def Tsr.stride (t : Tsr) (k : Nat) (ix : List Nat) : Int :=
  ((List.range t.rank).map fun i => if k ≤ i then (ix.getD i 0 : Int) * t.str.getD i 0 else 0).sum

/-- Where an element lies (R281): the offset of its first byte, or of its block's first byte with its index in the block.
The blocks of a record are counted along the page layout of R65, dimension 0 and strides alike. -/
def Tsr.place (t : Tsr) (ix : List Nat) : Int × Nat :=
  if blockFmt t.fmt.toNat then
    let p := blockPitch t.fmt.toNat
    let n : Int := blocksPer t.fmt.toNat
    let i0 := ix.getD 0 0
    let b : Int := (t.base.toNat % 2 ^ 16 / p : Nat) + (i0 / 256 : Nat) + t.stride 1 ix / p
    ((t.base.toNat / 2 ^ 16 : Nat) * 2 ^ 16 + b / n * 2 ^ 16 + b % n * p, i0 % 256)
  else ((t.base.toNat : Int) + t.stride 0 ix, 0)

/-- The lowest and the highest offset a record's elements reach, the latter exclusive (R281). -/
def Tsr.span (t : Tsr) : Int × Int :=
  let part (up : Bool) : Int := ((List.range t.rank).map fun k =>
    let s := t.str.getD k 0 * ((t.lim k : Int) - 1)
    if up then max 0 s else min 0 s).sum
  ((t.base.toNat : Int) + part false, (t.base.toNat : Int) + part true + t.unit)

/-- Whether a record's elements may reach the windows. -/
def Tsr.nearWindows (t : Tsr) : Bool :=
  t.view.isNone && !blockFmt t.fmt.toNat &&
    (decide (t.span.1 < 0) || decide ((Config.reservedWindow : Int) < t.span.2))

/-- The checks of R283 on one record of a core's command, in the order of the table below; `need` are the rights its view
must grant, and `raw` says that its format is ignored. -/
def State.tsrFault (s : State) (core : Nat) (t : Tsr) (need : List Right) : Option FaultInfo :=
  let f := t.fmt.toNat
  let z := t.unit
  let a := t.address t.base.toNat
  if t.rank = 0 || 5 < t.rank || 8 < f || (List.range t.rank).any (fun k => t.ext.getD k 0 == 0) ||
      (blockFmt f && (t.view.isSome || inWindows t.base)) ||
      (blockFmt f && (span 1 (t.rank - 1)).any fun k => t.str.getD k 0 % z != 0) then some (plain .illegal)
  else if (if blockFmt f then t.base.toNat % 2 ^ 16 % z != 0 || decide (blocksPer f ≤ t.base.toNat % 2 ^ 16 / z)
      else t.base.toNat % z != 0) then some (atAddr .align a)
  else match t.view with
    | some v =>
      if !v.live || !need.all v.grants then some (atAddr .viewRights v.base)
      else if t.span.1 < v.lo.toNat || (v.hi.toNat : Int) < t.span.2 then some (atAddr .viewBounds (t.address t.span.1))
      else none
    | none =>
      if !t.nearWindows then none
      else (List.range t.count).findSome? fun n =>
        let va := t.address (t.place (indicesOf t.lims n)).1
        if !inWindows va then none
        else match s.checkWindow core va z with
          | .fault g => if g.cause = .windowBounds then some g else none
          | _ => none

/-! ## The elements of a command (R281, R282) -/

/-- One element of a command: where it comes from, none for a zero or a drained value; its destination offset and its index
in the destination's block; and a value that comes with the command. -/
structure EngElem where
  src : Option (Int × Nat)
  dst : Int × Nat
  val : Option FVal

/-- The index list of CPYG: entry `j`. -/
def cpygIndex (ix : List Nat) (j : Nat) : Nat := ix.getD j 0

/-- Where a drained element goes: its coordinates (R274). -/
def drainIndex (t : Tsr) (r c : Nat) : List Nat :=
  (List.range t.rank).map fun k => t.org.getD k 0 + (if k = 0 then c else if k = 1 then r else 0)

/-- The elements of a command in order (R281, R282, R274). -/
def engElems (op : EngOp) (dst src : Tsr) : List EngElem :=
  match op with
  | .cpy | .cpya => (List.range src.count).map fun n =>
      ⟨some (src.place (indicesOf src.lims n)), dst.place (indicesOf dst.lims n), none⟩
  | .cpyw _ off => (List.range src.count).map fun n =>
      ⟨some (src.place (indicesOf src.lims n)), ((off + n : Nat), 0), none⟩
  | .cpyg index => (List.range dst.count).map fun n =>
      let ix := indicesOf dst.lims n
      let j := cpygIndex index (ix.getD 1 0)
      let row := if 2 ≤ src.rank then src.ext.getD 1 0 else 1
      ⟨if row ≤ j then none else some (src.place (ix.set 1 j)), dst.place ix, none⟩
  | .drain _ vals => (List.range 128).filterMap fun e =>
      let ix := drainIndex dst (e / 8) (e % 8)
      if ((List.range dst.rank).all fun k => decide (ix.getD k 0 < dst.lim k)) then
        some ⟨none, dst.place ix, some (vals.getD e (.fin false 0 0))⟩
      else none

/-- Whether a command adds to what is there. -/
def EngOp.adds : EngOp → Bool
  | .cpya | .drain true _ => true
  | _ => false
/-- Whether a command copies bits unchanged (R282). -/
def copiesBits (op : EngOp) (dst src : Tsr) : Bool :=
  match op with
  | .cpy | .cpyg _ => src.fmt == dst.fmt
  | .cpyw _ _ => true
  | _ => false

/-- Bytes a list of destinations takes, a block once for each run of its elements (R285). -/
def destBytes (unit : Nat) (block : Bool) : List EngElem → Option Int → Nat
  | [], _ => 0
  | e :: es, last => (if block && last == some e.dst.1 then 0 else unit) + destBytes unit block es (some e.dst.1)

/-- The destination byte count of a command (R285): what its writes take. -/
def engBytes (op : EngOp) (dst src : Tsr) : Nat :=
  match op with
  | .cpyw _ _ => src.count
  | _ =>
    let es := engElems op dst src
    let block := blockFmt dst.fmt.toNat
    if block && copiesBits op dst src then dst.unit * (es.filter (·.dst.2 == 0)).length else destBytes dst.unit block es none

/-! ## Issuing a command (R279, R282, R283) -/

/-- Entries a core's outbox and spill ring can still take (R30). -/
def Core.outRoom (c : Core) : Nat :=
  (if c.spill.any Spill.isOut then 0 else 16 - c.outbox.length) + (256 - c.spill.length)

/-- A command put into the outbox, its charge ahead of it (R279, R285). -/
def State.sendCommand (s : State) (weir : Word) (op : EngOp) (dst src : Tsr) (k : State → Did) : Did :=
  let bytes := engBytes op dst src
  if s.me.outRoom < (if weir = 0 then 1 else 2) then .fault s (plain .outboxOverflow)
  else
    let (id, s) := s.nextSeq
    let r := s.ctx.region
    let tag := s.tagOf s.cur.1
    let cmd : EngCmd := ⟨id, op, dst, src, weir, bytes, s.cur.1, s.cur.2, tag, r.rcb, r.domain, r.energyAt⟩
    let entry (i : OutItem) : OutEntry := ⟨i, s.cur.2, .core, [], none, 0⟩
    let s := if weir = 0 then s else (s.placeAt s.cur.1 (entry (.weir (weirStack weir) (.charge weir bytes id tag r.rcb)))).getD s
    s.place (entry (.engine (stackOf s.cur.1) (clusterOf s.cur.1 % 16) cmd)) k

/-- A record read by the acting context's word (R280), once the view register it names is full. -/
def State.withTsr (s : State) (i : Nat) (va : Word) (k : State → Tsr → Did) : Did :=
  s.withDesc i va fun s d =>
    match tsrReg d with
    | some w => if s.ctx.full (.w w) then go s d k else .wait s
    | none => go s d k
where
  /-- The record itself; its rounding mode draws a free value when its code is none. -/
  go (s : State) (d : Nat) (k : State → Tsr → Did) : Did :=
    let (f, s) := if descField d 10 1 % 8 < 5 then (0, s) else s.free
    k s (tsrOf s.ctx f.toNat d)

/-- The rule of the copy words; none takes a HINT prefix (12). -/
def copyRule (o : CopyW) : WordRule := { rep := true, noHint := true, srcs := [(.x o.weir, false), (.x o.ra, o.ea), (.x o.rb, o.eb)] }

/-- Whether the formats of both sides suit a copy (R282): RAW on both sides or none, and whole blocks where bits are
copied. -/
def fmtsSuit (plus : Bool) (dst src : Tsr) : Bool :=
  (dst.fmt == 0) == (src.fmt == 0) && !(plus && dst.fmt == 0) &&
    (!(dst.fmt == src.fmt && blockFmt dst.fmt.toNat) ||
      [dst, src].all fun t => t.ext.getD 0 0 % 256 == 0 && t.lim 0 % 256 == 0)

/-- CPY and CPYA once both records have been read. -/
def copyTwo (op : EngOp) (weir : Word) (dst src : Tsr) (s : State) : Did :=
  let bad (f : FaultInfo) : Did := .fault s.dropReads f
  match (s.tsrFault s.cur.1 dst (if op.adds then [.w, .a] else [.w])).or (s.tsrFault s.cur.1 src [.r]) with
  | some f => bad f
  | none =>
    if !fmtsSuit op.adds dst src || dst.count ≠ src.count then bad (plain .illegal)
    else s.dropReads.sendCommand weir op dst src .done

/-- CPY (R279, R282, R283, R400). -/
def execCpy (o : CopyW) : State → Out :=
  issue (copyRule o) fun s => s.budgeted fun s => s.withTsr 0 (s.ctx.readX o.ra) fun s dst =>
    s.withTsr 1 (s.ctx.readX o.rb) fun s src => copyTwo .cpy (s.ctx.readX o.weir) dst src s
/-- CPYA (R279, R282, R283, R400). -/
def execCpya (o : CopyW) : State → Out :=
  issue (copyRule o) fun s => s.budgeted fun s => s.withTsr 0 (s.ctx.readX o.ra) fun s dst =>
    s.withTsr 1 (s.ctx.readX o.rb) fun s src => copyTwo .cpya (s.ctx.readX o.weir) dst src s

/-- CPYW (R47, R282, R283, R400): source bytes into a weight slice. -/
def execCpyw (o : CopyW) : State → Out :=
  issue (copyRule o) fun s => s.budgeted fun s => s.withTsr 0 (s.ctx.readX o.rb) fun s src =>
    let src := { src with fmt := 0 }
    let t := s.ctx.readX o.ra
    let core := bits t 46 32
    let off := bits t 17 0
    match s.tsrFault s.cur.1 src [.r] with
    | some f => .fault s.dropReads f
    | none =>
      if !s.inPound core || Config.sliceSize < off + src.count then .fault s.dropReads (plain .windowBounds)
      else s.dropReads.sendCommand (s.ctx.readX o.weir) (.cpyw core off) src src .done

/-- The index list of CPYG read by the acting context's word: one index for each destination row (R282). -/
def State.withIndex (s : State) (i : Nat) (va : Word) (rows : Nat) (k : State → List Nat → Did) : Did :=
  if va.toNat % 4 ≠ 0 then .fault s.dropReads (atAddr .align va)
  else match ownOffset s.cur.1 va with
    | none => .fault s.dropReads (atAddr .windowBounds va)
    | some off =>
      if Config.lsSize < off + 4 * rows then .fault s.dropReads (atAddr .windowBounds va)
      else if s.me.sysbase < off + 4 * rows then .fault s.dropReads (atAddr .priv va)
      else s.readAt i none (parts16 0 va (4 * rows)) fun s d =>
        k s ((List.range rows).map fun j => d / 2 ^ (32 * j) % 2 ^ 32)

/-- CPYG (R279, R282, R283, R400): rows gathered by an index list, any row of the source within its extent. -/
def execCpyg (o : CopyW) : State → Out :=
  issue { copyRule o with srcs := (copyRule o).srcs ++ [(.x (o.rb + 1), o.eb)] } fun s => s.budgeted fun s =>
    s.withTsr 0 (s.ctx.readX o.ra) fun s dst => s.withTsr 1 (s.ctx.readX o.rb) fun s src =>
      let bad (f : FaultInfo) : Did := .fault s.dropReads f
      match (s.tsrFault s.cur.1 dst [.w]).or (s.tsrFault s.cur.1 { src with clip := src.clip.set 1 0 } [.r]) with
      | some f => bad f
      | none =>
        let rows := if 2 ≤ dst.rank then dst.lim 1 else 1
        if !fmtsSuit false dst src || dst.rank ≠ src.rank ||
            (List.range dst.rank).any (fun k => k != 1 && dst.lim k != src.lim k) then bad (plain .illegal)
        else s.withIndex 2 (s.ctx.readX (o.rb + 1)) rows fun s ix =>
          s.dropReads.sendCommand (s.ctx.readX o.weir) (.cpyg ix) dst src .done

/-- The rule of MDRAINC. -/
def mdraincRule (o : DrainC) : WordRule :=
  { rep := true, noHint := true, cls := 1, srcs := [(.x o.ra, false), (.x o.rb, false), (.x o.rc, false)] }

/-- MDRAINC (R274, R400): the tile decoded as R273 does, its exact values times their scales sent as one command. -/
def execMdrainc (o : DrainC) : State → Out :=
  issue (mdraincRule o) fun s => s.onTile o.acc fun _ => s.budgeted fun s => s.withTsr 0 (s.ctx.readX o.ra) fun s dst =>
    let add := o.mode.getLsbD 0
    match s.tsrFault s.cur.1 dst [.w] with
    | some f => .fault s.dropReads f
    | none =>
      if dst.rank = 1 || dst.fmt = 0 then .fault s.dropReads (plain .illegal)
      else
        let g := s.ctx.drainG o.rc
        match s.decodeTile s.cur.1 s.cur.2 o.acc.toNat (o.mode.getLsbD 1) 128 [] 0 with
        | (s, .error f) => .fault s.dropReads f
        | (s, .ok (xs, _)) =>
          let t := (s.me.tile o.acc.toNat).shown
          let vals := (List.range 128).map fun e =>
            let sc := fval .f32 (drainScale t (e / 8) (e % 8) g).bits
            (mulVal (intVal (xs.getD e 0)) sc).getD (.nan false)
          s.dropReads.sendCommand (s.ctx.readX o.rb) (.drain add vals) dst dst fun s =>
            .done (s.note (.charge s.cur.1 1 7 s.ctx.region.energyAt))

/-! ## An engine's accesses (R54, R279, R283) -/

/-- An engine's window access (R44, R54): banks in SCRATCH without SYS only. -/
def State.engineWindow (s : State) (core : Nat) (va : Word) (n : Nat) : Checked :=
  match s.checkWindow core va n with
  | .fault f => if (s.bankAt va.toNat).isSome && f.cause == .priv then .fault (atAddr .bankMode va) else .fault f
  | .ok ⟨.bank k b, pa, l⟩ => if ((s.cluster k).bank b).mode = .fifo then .fault (atAddr .bankMode va) else .ok ⟨.bank k b, pa, l⟩
  | c => c

/-- The checks of one access of a command (R66, R78, R281, R283): `fmt` is the format the page must carry, none when it is
ignored. -/
def State.engineAccess (s : State) (c : EngCmd) (t : Tsr) (kind : AccKind) (fmt : Option (BitVec 4)) (va : Word) (n : Nat) :
    Checked :=
  if t.view.isNone && inWindows va then s.engineWindow c.core va n
  else match s.walk (clusterOf c.core) c.tag va.toNat with
    | none => .miss
    | some e =>
      let page : Checked := .fault (pageFault 5 va)
      match s.checkLeaf c.tag.toNat kind va t.view.isSome (e.target va.toNat) e.leaf with
      | .fault f => if f.cause = .page then page else .fault f
      | r =>
        if t.view.isNone && fmt.any (fun f => leafFmt e.leaf != f.toNat || !fmtSuits (leafFmt e.leaf) (leafGeo e.leaf)) then page
        else r

/-- A command's request at a place. -/
def engReq (stack engine : Nat) (c : EngCmd) (t : Tsr) (op : MemOp) (va : Word) (a : Acc) : MemReq where
  asker := .engine stack engine c.id c.weir
  op := op
  va := va
  pa := a.pa
  key := leafKey a.leaf
  region := t.view.map (·.region)
  tag := c.tag
  node := c.core
  rcb := c.rcb
  energyAt := c.energyAt
  clusDone := false
  strong := none
  chip := leafChip a.leaf
  target := leafTgt a.leaf

/-- One part of an element's access: its address, its length and where it is made. -/
abbrev EngPart := Word × Nat × Acc

/-- An element with the parts it is read from and written to. -/
abbrev EngItemParts := EngElem × List EngPart × List EngPart

/-- What ends a walk over a command's elements (R283, R350). -/
inductive EngStop where
  | done
  | fault (f : FaultInfo)
  | miss (va : Word)
  | busy

/-- A run of bytes cut at the multiples of `m`. -/
def cutAt (m : Nat) (va : Word) (n : Nat) : List (Word × Nat) :=
  let a := va.toNat
  (List.range ((a % m + n + m - 1) / m)).map fun i =>
    let lo := max a ((a / m + i) * m)
    (BitVec.ofNat 64 lo, min (a + n) ((a / m + i + 1) * m) - lo)

/-- The ring a command fills: its destination's BASE lies in a configured ring's slots (R54, R56). -/
def State.engineRing (s : State) (c : EngCmd) : Option Word :=
  match c.op with
  | .cpyw _ _ => none
  | _ =>
    if c.dst.view.isSome then none
    else match s.bankAt c.dst.base.toNat with
      | none => none
      | some (k, b, bank) =>
        if bank.mode ≠ .fifo then none
        else (findIndex (fun (r : Ring) => r.depth != 0 && decide (64 * r.base ≤ c.dst.base.toNat % 2 ^ 16) &&
            decide (c.dst.base.toNat % 2 ^ 16 < 64 * r.base + r.depth * r.slotBytes)) bank.rings.toList).map
          fun i => BitVec.ofNat 64 (k * 2 ^ 20 + b * 2 ^ 16 + i * 2 ^ 14)

/-- The parts of one element's access checked in order (R281, R283): lines apart, but a block whole where it is written. -/
def State.engParts (s : State) (c : EngCmd) (t : Tsr) (kind : AccKind) (fmt : Option (BitVec 4)) (refused : Option (BitVec 48)) :
    List (Word × Nat) → List EngPart → List EngPart ⊕ EngStop
  | [], ps => .inl ps
  | (va, n) :: rest, ps =>
    match s.engineAccess c t kind fmt va n with
    | .fault f => .inr (.fault f)
    | .miss => .inr (if refused = some (va.extractLsb' 16 48) then .fault (pageFault 5 va) else .miss va)
    | .busy => .inr .busy
    | .ok a => s.engParts c t kind fmt refused rest (ps ++ [(va, n, a)])

/-- The parts an element is read from. -/
def State.engSource (s : State) (r : EngRun) (e : EngElem) : List EngPart ⊕ EngStop :=
  let c := r.cmd
  match e.src with
  | none => .inl []
  | some p =>
    let fmt := match c.op with | .cpyw _ _ => none | _ => some c.src.fmt
    s.engParts c c.src .load fmt r.refused (cutAt 128 (c.src.address p.1) c.src.unit) []

/-- The parts an element is written to; a weight slice's and a ring's need no translation. -/
def State.engDest (s : State) (r : EngRun) (ring : Bool) (e : EngElem) : List EngPart ⊕ EngStop :=
  let c := r.cmd
  match c.op with
  | .cpyw core _ => .inl [(0, 0, ⟨.sram core, 0, 0⟩)]
  | _ =>
    if ring then
      if e.dst.1 < c.dst.base.toNat then .inr (.fault (atAddr .bankMode (c.dst.address e.dst.1))) else .inl [(0, 0, ⟨.bank 0 0, 0, 0⟩)]
    else
      let kind : AccKind := match c.op with | .cpya => .atn | _ => .store
      s.engParts c c.dst kind (some c.dst.fmt) r.refused
        (cutAt (if blockFmt c.dst.fmt.toNat then 2 ^ 16 else 128) (c.dst.address e.dst.1) c.dst.unit) []

/-- The elements of a command checked in order (R283): those before the first that does not pass, and what stops it. -/
def State.engWalk (s : State) (r : EngRun) (ring : Bool) : List EngElem → List EngItemParts → List EngItemParts × EngStop
  | [], acc => (acc, .done)
  | e :: es, acc =>
    match s.engSource r e with
    | .inr x => (acc, x)
    | .inl src =>
      match s.engDest r ring e with
      | .inr x => (acc, x)
      | .inl dst => s.engWalk r ring es (acc ++ [(e, src, dst)])

/-- Whether a command's writes read what is there (R282): each is answered before the next is made, so that one that comes upon
bytes marked as uncorrectable stops the command there (R283). -/
def EngCmd.readsDest (c : EngCmd) : Bool := c.op.adds || (blockFmt c.dst.fmt.toNat && !copiesBits c.op c.dst c.src)

/-- The elements a command does next: all that pass, or, where its writes read, those of one write; none of a block that an
element still waiting shares. -/
def EngCmd.chunk (c : EngCmd) (items : List EngItemParts) (stop : EngStop) (after : Option EngElem) : List EngItemParts :=
  if !c.readsDest then items
  else match items with
    | [] => []
    | (e, p) :: rest =>
      let run := if blockFmt c.dst.fmt.toNat then (e, p) :: rest.takeWhile (fun x => x.1.dst.1 == e.dst.1) else [(e, p)]
      let waits := match stop with | .miss _ | .busy => true | _ => false
      if waits && run.length = items.length && blockFmt c.dst.fmt.toNat && after.any (fun x => x.dst.1 == e.dst.1) then [] else run

/-- The parts whose bytes homes and remote targets have to give for an element: its source, and a destination in several places
to which it adds. -/
def EngCmd.asks (c : EngCmd) (x : EngItemParts) : List (Tsr × EngPart) :=
  let far (p : EngPart) : Bool := p.2.2.place == .dram || p.2.2.place == .remote
  (x.2.1.filter far).map (c.src, ·) ++ (if c.op.adds && 1 < x.2.2.length then (x.2.2.filter far).map (c.dst, ·) else [])

/-- The bytes of some parts as they have come, or as their windows hold them. -/
def State.engRead (s : State) (r : EngRun) (ps : List EngPart) : Nat :=
  ofBytes (ps.flatMap fun p => toBytes p.2.1 (match p.2.2.place with
    | .dram | .remote => ((r.got.find? (·.1 == p.1)).bind (·.2)).getD 0
    | _ => readMem s.mem p.2.2.pa p.2.1))

/-- The value of an element in the bytes of its place (R95, R98, R281). -/
def srcValue (fmt : Nat) (d j : Nat) : FVal :=
  if fmt = 5 then let b := toBytes 136 d; scaled (cq4Int b j) (cq4Scale b)
  else if fmt = 6 then bx16Val (toBytes 516 d) j
  else elemVal fmt d

/-- A block of zeros (R97, R99). -/
def zeroBlock (fmt : Nat) : List Byte :=
  if fmt = 5 then (quantCq4 (List.replicate 256 (.fin false 0 0)) [0, 0, 0, 0] 0).1 else List.replicate 516 0

/-- What a command writes at one place: the offset, the bytes it takes, the write, and where it goes. -/
structure EngUnit where
  off  : Int
  len  : Nat
  what : EngWrite
  dst  : List EngPart

/-- The writes of a command's elements in order: one for each, or one for each run of elements of a block (R282). -/
def State.engUnits (s : State) (r : EngRun) : List EngItemParts → List EngUnit → List EngUnit
  | [], us => us.reverse
  | (e, src, dst) :: es, us =>
    let c := r.cmd
    let f := c.dst.fmt.toNat
    let bytes : Option Nat := if e.src.isSome then some (s.engRead r src) else none
    let v : FVal := match e.val, bytes with
      | some v, _ => v
      | none, some d => srcValue c.src.fmt.toNat d ((e.src.map (·.2)).getD 0)
      | none, none => .fin false 0 0
    let us' : List EngUnit :=
      if copiesBits c.op c.dst c.src then
        if blockFmt f && (match c.op with | .cpyw _ _ => false | _ => true) then
          if e.dst.2 = 0 then
            ⟨e.dst.1, c.dst.unit, .raw (match bytes with | some d => toBytes c.dst.unit d | none => zeroBlock f), dst⟩ :: us
          else us
        else ⟨e.dst.1, c.src.unit, .raw (toBytes c.src.unit (bytes.getD 0)), dst⟩ :: us
      else if blockFmt f then
        match us with
        | ⟨o, n, .block g rm q plus els, b⟩ :: rest =>
          if o = e.dst.1 then ⟨o, n, .block g rm q plus (els ++ [(e.dst.2, v)]), b⟩ :: rest
          else ⟨e.dst.1, c.dst.unit, .block c.dst.fmt c.dst.rm c.dst.qlim c.op.adds [(e.dst.2, v)], dst⟩ :: us
        | _ => ⟨e.dst.1, c.dst.unit, .block c.dst.fmt c.dst.rm c.dst.qlim c.op.adds [(e.dst.2, v)], dst⟩ :: us
      else if c.op.adds then ⟨e.dst.1, c.dst.unit, .add c.dst.fmt c.dst.rm v, dst⟩ :: us
      else ⟨e.dst.1, c.dst.unit, .put c.dst.fmt c.dst.rm v, dst⟩ :: us
    s.engUnits r es us'

/-- Events of an engine's results counted for its command's region (R92, R282). -/
def State.engEvents (s : State) (c : EngCmd) (ev : Option (Fmt × BitVec 4)) : State :=
  match ev with
  | none => s
  | some (g, o) => (List.range 4).foldl (fun s v =>
      if o.getLsbD v then s.addCounter c.core c.tag.toNat c.rcb (4 * fmtIndex g + v) 1 else s) s

/-- Bytes written at a window, with the events of the results (R92). -/
def State.engineWindowWrite (s : State) (c : EngCmd) (key n : Nat) (w : EngWrite) : State :=
  let (f, s) := s.free
  let (bs, ev) := w.apply f.toNat (readBytes s.mem key n)
  ({ s with mem := writeMem s.mem key bs } : State).engEvents c ev

/-- One write of a command made or sent at a part (R119, R282, R285). -/
def State.engWritePart (s : State) (t e : Nat) (c : EngCmd) (w : EngWrite) (p : EngPart) : State :=
  let (va, n, a) := p
  let req := engReq t e c c.dst (.engine w n) va a
  let out (s : State) : State := s.modRun t e fun x => { x with out := x.out + 1 }
  match a.place with
  | .dram => out { s with net := s.net ++ [req] }
  | .remote => out { s with remote := s.remote ++ [req] }
  | _ => (s.engineWindowWrite c a.pa n w).weirSub c.weir c.id n false c.tag c.rcb

/-- One write of a command: into a weight slice, at its place, or, where it lies in several, as the bytes it leaves, part by
part (R281). -/
def State.engWrite (s : State) (t e : Nat) (r : EngRun) (u : EngUnit) : State :=
  let c := r.cmd
  match c.op, u.what with
  | .cpyw core _, .raw bs =>
    ({ s with weights := writeMem s.weights (wsKey core u.off.toNat) bs } : State).weirSub c.weir c.id u.len false c.tag c.rcb
  | _, w =>
    match u.dst with
    | [p] => s.engWritePart t e c w p
    | ps =>
      let (bs, ev) := w.apply 0 (toBytes u.len (s.engRead r ps))
      ((ps.foldl (fun (x : State × List Byte) p =>
        (x.1.engWritePart t e c (.raw (x.2.take p.2.1)) p, x.2.drop p.2.1)) (s, bs)).1).engEvents c ev

/-- A command in progress carried on (R279, R281, R283): the elements from the next one on are checked; those that pass have
their bytes asked of homes and remote targets, and once all have come every write is made, sent, or left for the slots of a
ring; then what stops the walk takes effect. -/
def State.engPlan (s : State) (t e : Nat) (r : EngRun) : State :=
  let put (s : State) (r : EngRun) : State := s.modStack t (·.modEngine e fun g => { g with run := some r })
  let c := r.cmd
  let ring := s.engineRing c
  let els := (engElems c.op c.dst c.src).drop r.next
  let (items, stop) := s.engWalk r ring.isSome els []
  let chunk := c.chunk items stop els[items.length]?
  let asks := chunk.flatMap c.asks
  if c.readsDest && r.out ≠ 0 then put s r
  else if chunk.isEmpty then
    match stop with
    | .done => put s { r with planned := true }
    | .fault f => put s { r with failed := some f }
    | .busy => put s r
    | .miss va =>
      let vpn := va.extractLsb' 16 48
      put (s.openMiss ⟨c.tag, vpn, 5, va, c.core, c.ctx, BitVec.ofNat 5 e⟩).2 { r with stalled := some vpn }
  else if !asks.isEmpty && !r.asked then
    put (asks.foldl (fun s q => s.sendReq (engReq t e c q.1 (.read q.2.2.1 false false 0) q.2.1 q.2.2.2)) s) { r with asked := true }
  else if r.got.length < asks.length then put s r
  else
    let bad (x : EngItemParts) : Option FaultInfo := (c.asks x).findSome? fun q =>
      if r.got.any (fun g => g.1 == q.2.1 && g.2.isNone) then some (atAddr .poison (BitVec.ofNat 64 q.2.2.2.pa)) else none
    let good := chunk.takeWhile fun x => (bad x).isNone
    let us := s.engUnits r good []
    let r' := { r with
      asked := false, got := [], next := r.next + good.length, written := r.written + (us.map (·.len)).sum
      failed := (chunk[good.length]?).bind bad }
    match ring with
    | some sel =>
      put s { r' with
        ring := sel
        todo := r.todo ++ us.map fun u => ((u.off - (c.dst.base.toNat : Int)).toNat, u.len, u.what) }
    | none => us.foldl (fun s u => s.engWrite t e r u) (put s r')

/-- A command before its first access. -/
def EngRun.fresh (c : EngCmd) : EngRun := ⟨c, false, 0, [], none, 0, 0, none, none, false, [], 0, none⟩

/-- ENGINE_COMMAND_START (R279, R283, R370, R401): an idle engine of a stack that is not throttled takes the oldest command, or
one that waited goes on. -/
def execEngineCommandStart (stack engine : Nat) (s : State) : Out :=
  event (unitIn stack engine) <|
    let t := s.stack stack
    let g := t.engine engine
    match g.run with
    | some r => if r.planned || r.failed.isSome || r.stalled.isSome then s else s.engPlan stack engine r
    | none =>
      match g.queue with
      | .cmd c :: rest =>
        if t.throttled then s
        else (s.modStack stack (·.modEngine engine fun g => { g with queue := rest })).engPlan stack engine (.fresh c)
      | _ => s

/-- CB_SLOT_START (R57): an engine starts the slot at FILLPTR for the bytes its command writes next. -/
def execCbSlotStart (stack engine : Nat) (s : State) : Out :=
  event (unitIn stack engine) <|
    match ((s.stack stack).engine engine).run with
    | none => s
    | some r =>
      match r.todo with
      | [] => s
      | (off, _) :: _ =>
        let q := s.ringAt r.ring
        if r.slot.isSome || !q.mayStart then s
        else
          let i := q.fillPtr
          let s := s.startSlot r.ring
          if (s.ringAt r.ring).state ≠ .run then s
          else s.modRun stack engine fun r => { r with slot := some (i, off / q.slotBytes * q.slotBytes) }

/-- CB_SLOT_FILLED (R57, R58): the bytes of the slot under way are written, and the slot is FILLED. -/
def execCbSlotFilled (stack engine : Nat) (s : State) : Out :=
  event (unitIn stack engine) <|
    match ((s.stack stack).engine engine).run with
    | none => s
    | some r =>
      match r.slot with
      | none => s
      | some (i, lo) =>
        let q := s.ringAt r.ring
        let mine := r.todo.takeWhile fun p => decide (lo ≤ p.1) && decide (p.1 < lo + q.slotBytes)
        if !(r.planned || r.failed.isSome || mine.length < r.todo.length) then s
        else
        let at_ := csKey (selCluster r.ring) (selBank r.ring) (q.slotOffset i)
        let s := mine.foldl (fun s p =>
          (s.engineWindowWrite r.cmd (at_ + (p.1 - lo)) p.2.1 p.2.2).weirSub r.cmd.weir r.cmd.id p.2.1 false r.cmd.tag r.cmd.rcb) s
        let last := mine.foldl (fun m p => max m (p.1 + p.2.1 - lo)) 0
        (s.modRun stack engine fun r => { r with slot := none, todo := r.todo.drop mine.length }).fillSlot r.ring i last

/-- ENGINE_COMMAND_DONE (R283, R399): a command whose writes have all been made ends; one that stopped leaves its unwritten
bytes to its weir and sends a packet to the issuing core's keeper. -/
def execEngineCommandDone (stack engine : Nat) (s : State) : Out :=
  event (unitIn stack engine) <|
    match ((s.stack stack).engine engine).run with
    | none => s
    | some r =>
      let c := r.cmd
      if !(r.planned || r.failed.isSome) || r.out ≠ 0 || !r.todo.isEmpty || r.slot.isSome then s
      else
        let s := (s.chargeStack stack 11 r.written).modStack stack (·.modEngine engine fun g =>
          { g with run := none, energy := addDelta g.energy (c.tag.toNat, c.energyAt) (r.written * s.weight stack 11) })
        match r.failed with
        | none => s
        | some f => (s.weirSub c.weir c.id (c.bytes - r.written) true c.tag c.rcb).packet c.core
            (packetWords c.core 15 f 0 c.domain (BitVec.ofNat 32 engine))

/-! ## Weirs (R284 to R287) -/

/-- The entry of a weir handle (R284). -/
def weirIndex (h : Word) : Nat := bits h 37 26

/-- A weir handle (R284). -/
def weirHandle (stack index : Nat) (w : Weir) : Word :=
  BitVec.ofNat 64 (stack % 4 * 2 ^ 38 + index % 4096 * 2 ^ 26 + w.gen.toNat * 2 ^ 16 + w.tag.toNat)

/-- The weir an entry holds. -/
def State.weirAt (s : State) (stack i : Nat) : Weir := lookupD Weir.reset i (s.stack stack).weirs
/-- An entry changed. -/
def State.modWeir (s : State) (stack i : Nat) (f : Weir → Weir) : State :=
  s.modStack stack fun t => { t with weirs := insertAt i (f (lookupD Weir.reset i t.weirs)) t.weirs }

/-- The live weir a handle of a sender's pound names (R284, R285). -/
def State.liveWeir (s : State) (stack : Nat) (h : Word) (tag : BitVec 16) : Option Weir :=
  let w := s.weirAt stack (weirIndex h)
  if w.live && w.tag == tag && weirHandle stack (weirIndex h) w == h then some w else none

/-- A weir's state word (R286). -/
def Weir.stateWord (w : Weir) : Word :=
  BitVec.ofNat 64 (num w.armed * 2 ^ 63 + num w.ovf * 2 ^ 62 + w.fails % 2 ^ 14 * 2 ^ 48 + w.count % 2 ^ 40)

/-- A weir freed, its generation stepped (R284). -/
def Weir.freed (w : Weir) : Weir := { Weir.reset with gen := if w.gen = 1023 then 1 else w.gen + 1 }

/-- An armed weir whose COUNT is 0 fires (R287). -/
def State.weirFire (s : State) (stack i : Nat) : State :=
  let w := s.weirAt stack i
  if !w.armed || w.count ≠ 0 then s
  else
    let h := weirHandle stack i w
    (s.admitFor w.tag.toNat (stackCorner stack) (notice w.tag.toNat (stackCorner stack) w.chan [h, w.stateWord] w.errCh w.rcb)).modWeir stack i
      fun w => if w.autoFree then w.freed else { w with armed := false, ovf := false, fails := 0 }

/-- COUNT changed by an amount, clamped with OVF (R285). -/
def Weir.addCount (w : Weir) (n : Int) : Weir :=
  let c : Int := w.count + n
  { w with count := (min (max c 0) (2 ^ 40 - 1)).toNat, ovf := w.ovf || decide (c < 0) || decide (2 ^ 40 - 1 < c) }

/-- A change applied to a weir, which fires if that lets it; one for a handle that is not live is discarded and counted
(R35, R285, R287). -/
def State.weirApply (s : State) (stack : Nat) (h : Word) (tag : BitVec 16) (rcb : Word) (f : Weir → Weir) : State :=
  match s.liveWeir stack h tag with
  | none => s.countLost tag.toNat rcb
  | some _ => (s.modWeir stack (weirIndex h) f).weirFire stack (weirIndex h)

/-- An event on the oldest message to a weir table. -/
def weirHead (stack : Nat) (s : State) (f : State → WeirMsg → Option State) : Out :=
  event (decide (stack < 4)) <|
    match (s.stack stack).weirQ with
    | [] => s
    | m :: rest => (f (s.modStack stack fun t => { t with weirQ := rest }) m).getD s

/-- WEIR_CHARGE (R285). -/
def execWeirCharge (stack : Nat) (s : State) : Out :=
  weirHead stack s fun s m => match m with
    | .charge h n cmd tag rcb =>
      some ((s.weirApply stack h tag rcb (·.addCount n)).modStack stack fun t => { t with charged := cmd :: t.charged })
    | _ => none

/-- WEIR_SUBTRACT (R283, R285): held until its command's charge has been applied. -/
def execWeirSubtract (stack k : Nat) (s : State) : Out :=
  event (decide (stack < 4)) <|
    match (s.stack stack).subs[k]? with
    | none => s
    | some b =>
      if !(s.stack stack).charged.contains b.cmd then s
      else (s.modStack stack fun t => { t with subs := t.subs.eraseIdx k }).weirApply stack b.handle b.tag b.rcb fun w =>
        { w.addCount (-(b.bytes : Int)) with fails := if b.fail then min (w.fails + 1) (2 ^ 14 - 1) else w.fails }

/-- WEIR_ADD_APPLY (R286). -/
def execWeirAddApply (stack : Nat) (s : State) : Out :=
  weirHead stack s fun s m => match m with
    | .add h n tag rcb => some (s.weirApply stack h tag rcb (·.addCount n))
    | _ => none

/-- WEIR_ARM_APPLY (R286, R287). -/
def execWeirArmApply (stack : Nat) (s : State) : Out :=
  weirHead stack s fun s m => match m with
    | .arm h auto tag rcb => some (s.weirApply stack h tag rcb fun w => { w with armed := true, autoFree := auto })
    | _ => none

/-- WEIR_CREATE (R286): the lowest free entry becomes a weir, and its handle, or 0, is answered. -/
def execWeirCreate (stack : Nat) (s : State) : Out :=
  weirHead stack s fun s m => match m with
    | .create core ctx seq chan tag rcb errCh =>
      match (List.range 4096).find? fun i => !(s.weirAt stack i).live with
      | none => some (s.answerWhole core ctx seq 0)
      | some i =>
        let w : Weir := ⟨(s.weirAt stack i).gen, true, tag, 0, chan, false, false, false, 0, rcb, errCh⟩
        some ((s.modWeir stack i fun _ => w).answerWhole core ctx seq (weirHandle stack i w).toNat)
    | _ => none

/-- WEIR_STATE_READ (R286): a stale handle reads as all ones. -/
def execWeirStateRead (stack : Nat) (s : State) : Out :=
  weirHead stack s fun s m => match m with
    | .read core ctx seq h tag =>
      let v : Word := match s.liveWeir stack h tag with
        | none => BitVec.allOnes 64
        | some w => w.stateWord
      some (s.answerWhole core ctx seq v.toNat)
    | _ => none

/-- A message to a weir table put into the outbox (R279, R286). -/
def State.sendWeir (s : State) (stack : Nat) (m : WeirMsg) (k : State → Did) : Did :=
  s.place ⟨.weir stack m, s.cur.2, .core, [], none, 0⟩ k

/-- WEIRNEW (R286); no word of the chapter takes a HINT prefix (12). -/
def execWeirnew (o : Reg1) : State → Out :=
  issue { reg1Rule o with rep := true, noHint := true } fun s =>
    let (seq, s) := s.nextSeq
    let r := s.ctx.region
    s.sendWeir (stackOf s.cur.1) (.create s.cur.1 s.cur.2 seq (s.ctx.readX o.ra) (s.tagOf s.cur.1) r.rcb r.errCh) fun s =>
      .done (s.await seq (destX o.rd) .whole)

/-- WEIRADD (R286). -/
def execWeiradd (o : WeirAdd) : State → Out :=
  issue { rep := true, noHint := true, srcs := [(.x o.ra, o.ea), (.x o.rb, o.eb)] } fun s =>
    let h := s.ctx.readX o.ra
    s.sendWeir (weirStack h) (.add h (s.ctx.readX o.rb).toInt (s.tagOf s.cur.1) s.ctx.region.rcb) .done

/-- WEIRARM of either form (R286). -/
def weirArm (auto : Bool) (o : Src1) : State → Out :=
  issue { rep := true, noHint := true, srcs := [(.x o.ra, o.ea)] } fun s =>
    let h := s.ctx.readX o.ra
    s.sendWeir (weirStack h) (.arm h auto (s.tagOf s.cur.1) s.ctx.region.rcb) .done
/-- WEIRARM (R286). -/
def execWeirarm (o : Src1) : State → Out := weirArm false o
/-- WEIRARM.free (R286). -/
def execWeirarmFree (o : Src1) : State → Out := weirArm true o

/-- WEIRRD (R286). -/
def execWeirrd (o : Reg1) : State → Out :=
  issue { reg1Rule o with rep := true, noHint := true } fun s =>
    let h := s.ctx.readX o.ra
    let (seq, s) := s.nextSeq
    s.sendWeir (weirStack h) (.read s.cur.1 s.cur.2 seq h (s.tagOf s.cur.1)) fun s => .done (s.await seq (destX o.rd) .whole)

end Sys2Proof.Machine
end

