-- ==== Sys2Proof/Machine/Views.lean ====
section
/-!
DEFINITION. The view instructions (R75, R214, R215) and the Colander's own steps (R69, R70, R75, R79 to R82).
-/

namespace Sys2Proof.Machine

/-- Bits 127 to 64 of a view (R71). -/
def View.middle (v : View) : Word :=
  BitVec.ofNat 64 (v.region.toNat * 2 ^ 40 + v.handle.toNat * 2 ^ 8 + num v.canW * 2 ^ 7 + num v.canR * 2 ^ 6 +
    num v.canA * 2 ^ 5 + v.status.toNat * 2 ^ 2)
/-- HI and LO of a view (R71). -/
def View.limits (v : View) : Word := v.hi ++ v.lo

/-- A request placed in the outbox in issue order (R215). -/
def viewRequest (s : State) (stack : Nat) (r : ViewReq) (k : State → Did) : Did :=
  s.place ⟨.view stack r, s.cur.2, .core, [], none, 0⟩ k

/-- CRNEW (R70, R75): asks the own stack's Colander; wd is empty until it answers. A live wd raises ILLEGAL. -/
def execCrnew (o : ViewNew) : State → Out :=
  issue { srcs := [(.x o.ra, o.ea)], dests := [.w o.wd] } fun s =>
    if (s.ctx.readW o.wd).live then .fault s (plain .illegal)
    else
      let (seq, s) := s.nextSeq
      let r := s.ctx.region
      viewRequest s (stackOf s.cur.1)
        (.alloc s.cur.1 s.cur.2 seq o.wd (s.ctx.readX o.ra) r.spansAt r.rcb (s.tagOf s.cur.1))
        fun s => .done (s.await seq (.w o.wd) .whole)

/-- VSPLIT (R75, R80): both views are empty until the Colander answers; a cut outside the view raises VIEW_BOUNDS. -/
def execVsplit (o : ViewSplit) : State → Out :=
  issue { srcs := [(.x o.ra, o.ea), (.w o.ws, o.eb)], dests := [.w o.wd, .w o.ws] } fun s =>
    let v := s.ctx.readW o.ws
    let x := s.ctx.readX o.ra
    if (s.ctx.readW o.wd).live then .fault s (plain .illegal)
    else if !v.live || x.toNat ≤ v.lo.toNat || v.hi.toNat ≤ x.toNat then .fault s (atAddr .viewBounds (v.base + x))
    else
      let (seq, s) := s.nextSeq
      viewRequest s (regionStack v.region) (.split s.cur.1 s.cur.2 seq o.wd o.ws v (x.setWidth 32))
        fun s => .done (s.awaitVia seq (.ww o.wd o.ws) .whole (some (v.handle, v.region)))

/-- VSHARE (R75): a second handle of a view without W. -/
def execVshare (o : ViewTwo) : State → Out :=
  issue { srcs := [(.w o.ws, o.eb)], dests := [.w o.wd] } fun s =>
    let v := s.ctx.readW o.ws
    if (s.ctx.readW o.wd).live then .fault s (plain .illegal)
    else if !v.live || v.canW then .fault s (atAddr .viewRights v.base)
    else
      let (seq, s) := s.nextSeq
      viewRequest s (regionStack v.region) (.share s.cur.1 s.cur.2 seq o.wd v)
        fun s => .done (s.await seq (.w o.wd) .whole)

/-- VDEMOTE (R75): clears the rights its mask names. -/
def execVdemote (o : ViewMask) : State → Out :=
  issue { srcs := [(.w o.ws, false)], dests := [.w o.ws] } fun s =>
    let v := s.ctx.readW o.ws
    if !v.live then .fault s (atAddr .viewRights v.base)
    else .done (s.modCtx (·.writeW o.ws { v with
      canW := v.canW && !o.mask.getLsbD 2
      canR := v.canR && !o.mask.getLsbD 1
      canA := v.canA && !o.mask.getLsbD 0 }))

/-- A view register's view given up, its notice held until the accesses made through it have completed (R80). -/
def giveUp (s : State) (ws : BitVec 3) (v : View) : Did :=
  let (e, s) := s.viewEntry v none
  s.place e fun s => .done (s.modCtx (·.writeW ws View.null))

/-- VNARROW (R75): the new interval holds at once; an empty one drops the view. -/
def execVnarrow (o : ViewNarrow) : State → Out :=
  issue { srcs := [(.x o.ra, o.ea), (.x o.rb, o.eb), (.w o.ws, false)], dests := [.w o.ws] } fun s =>
    let v := s.ctx.readW o.ws
    let a := s.ctx.readX o.ra
    let b := s.ctx.readX o.rb
    if !v.live then .fault s (atAddr .viewRights v.base)
    else if a.toNat < v.lo.toNat || v.hi.toNat < b.toNat || b.toNat < a.toNat then .fault s (atAddr .viewWiden (v.base + a))
    else if a = b then giveUp s o.ws v
    else
      let (e, s) := s.viewEntry v (some (a.setWidth 32, b.setWidth 32))
      s.place e fun s => .done (s.modCtx (·.writeW o.ws { v with lo := a.setWidth 32, hi := b.setWidth 32 }))

/-- VDROP (R75): a null view stays as it is, its status with it. -/
def execVdrop (ws : BitVec 3) : State → Out :=
  issue { srcs := [(.w ws, false)], dests := [.w ws] } fun s =>
    let v := s.ctx.readW ws
    if v.live then giveUp s ws v else .done s

/-- VQUERY (R75). -/
def execVquery (o : ViewQuery) : State → Out :=
  issue { srcs := [(.w o.ws, o.eb)], dests := [.x o.rd] } fun s =>
    let v := s.ctx.readW o.ws
    .done (s.modCtx (·.writeX o.rd (match o.sel.toNat with
      | 0 => v.base
      | 1 => v.limits
      | _ => v.middle)))

/-- VMOVE (R75): a live view is never overwritten. -/
def execVmove (o : ViewTwo) : State → Out :=
  issue { srcs := [(.w o.ws, o.eb)], dests := [.w o.wd, .w o.ws] } fun s =>
    if (s.ctx.readW o.wd).live then .fault s (plain .illegal)
    else .done (s.modCtx fun c => (c.writeW o.wd (c.readW o.ws)).writeW o.ws View.null)

/-! ## The notices (R80) -/

/-- Whether every access a core's holder issued through a view up to a number has completed (R80): its loads, stores,
atomics, side-log entries and engine commands, a VSPLIT whose answer has not come, and the region's requests of any core
that came before. -/
def State.viewIdle (s : State) (core : Nat) (handle : BitVec 32) (region : BitVec 24) (upTo : Nat) : Bool :=
  let c := s.core core
  let mine (v : Option (BitVec 32 × BitVec 24)) (q : Nat) : Bool := decide (q ≤ upTo) && v.any (·.1 == handle)
  let named (t : Tsr) : Bool := t.view.any (·.handle == handle)
  let cmd (k : EngCmd) : Bool := decide (k.id ≤ upTo) && (named k.dst || named k.src)
  c.ctxs.toList.all (fun x => x.pends.all fun p => !(decide (p.seq ≤ upTo) && p.view.any (·.1 == handle) && p.open_)) &&
    c.stores.all (fun st => !mine st.view st.seq) && c.atomQ.all (fun a => !mine a.view a.seq) &&
    c.atomsOut.all (fun a => !mine a.view a.seq) && c.sideLog.all (fun e => !mine e.view e.seq) &&
    c.spill.all (fun e => match e with
      | .atom a => !mine a.view a.seq
      | .out _ => true) &&
    (s.stack (regionStack region)).colander.queue.all (fun r => match r with
      | .split _ _ q _ _ v _ => !(v.handle == handle && decide (q ≤ upTo))
      | _ => true) && s.answers.all (fun a => !(decide (a.seq ≤ upTo) && a.back.any (·.2.handle == handle))) &&
    s.requests.all (fun r => !(r.region == some region && r.of.any fun a => decide (a.2.2 ≤ upTo))) &&
    s.stk.toList.all fun t => t.engines.toList.all fun g =>
      g.queue.all (fun i => match i with
        | .cmd k => !cmd k
        | .marker _ => true) && !g.run.any fun x => cmd x.cmd

/-- The outbox after its oldest entry has left, filled up from the oldest spill (R30, R48). -/
def State.popOut (s : State) (core : Nat) : State :=
  let c := s.core core
  let s := s.modCore core fun c => { c with outbox := c.outbox.drop 1 }
  match c.spill.findSome? (fun e => match e with
    | .out e => some e
    | .atom _ => none) with
  | none => s
  | some e => (s.modCore core fun c => { c with outbox := c.outbox ++ [e], spill := c.spill.erase (.out e) }).note (.sent core)

/-- A request queued at a Colander. -/
def State.toColander (s : State) (stack : Nat) (r : ViewReq) : State :=
  s.modStack stack fun t => { t with colander := { t.colander with queue := t.colander.queue ++ [r] } }

/-- Whether an outbox entry is a notice about a handle placed before a number. -/
def OutEntry.noticeOf (e : OutEntry) (handle : BitVec 32) (before : Nat) : Bool :=
  match e.item with
  | .view _ (.notice h _ _) => h == handle && decide (e.seq < before)
  | _ => false

/-- Whether a core still holds a notice about a handle issued before a number: in its outbox, its spill ring, or owed (R80). -/
def Core.noticeBefore (c : Core) (handle : BitVec 32) (before : Nat) : Bool :=
  c.outbox.any (·.noticeOf handle before) || c.owed.any (fun o => o.handle == handle && decide (o.upTo < before)) ||
    c.spill.any fun e => match e with
      | .out e => e.noticeOf handle before
      | .atom _ => false

/-- The first notice a core owes that may leave: its view is idle, and no earlier notice about its handle is still there
(R80). -/
def State.owedReady (s : State) (core : Nat) : Option Nat :=
  findIndex (fun o => s.viewIdle core o.handle o.region o.upTo && !(s.core core).noticeBefore o.handle o.upTo) (s.core core).owed

/-- The first owed notice that may leave, gone to its Colander. -/
def State.payOwed (s : State) (core : Nat) : State :=
  match s.owedReady core with
  | none => s
  | some i => match (s.core core).owed[i]? with
    | none => s
    | some o => (s.modCore core fun c => { c with owed := c.owed.eraseIdx i }).toColander (regionStack o.region)
        (.notice o.handle o.region o.left)

/-- VIEW_NOTICE_SEND (R76, R80, R215): the notice at the head of the outbox leaves once its view is idle and no earlier
notice about its handle is still there; otherwise the first owed notice that may leave does. -/
def execViewNoticeSend (core : Nat) (s : State) : Out :=
  event (coreIn core) <|
    match (s.core core).outbox with
    | ⟨.view stack (.notice h r i), k, _, cv, _, q⟩ :: _ =>
      match s.pairGate core k q with
      | none => s.payOwed core
      | some false => s.popOut core
      | some true =>
        if (cv.all fun v => s.viewIdle core h r v.upTo) && !(s.core core).noticeBefore h q then
          (s.popOut core).toColander stack (.notice h r i)
        else s.payOwed core
    | _ => s.payOwed core

/-! ## The Colander -/

/-- Live regions and live views a Colander tracks at most (R69). -/
def maxRegions : Nat := 16384
def maxViews : Nat := 65536

/-- First address and spans of a pound's pool in a stack (R68). -/
def State.pool (s : State) (stack tag : Nat) : Nat × Nat :=
  (bits (s.devReg (.crPoolBase stack tag)) 63 16 * 2 ^ 16, bits (s.devReg (.crPoolLen stack tag)) 25 0)

/-- Span indices in use of a pool that starts at `base`. -/
def Colander.used (c : Colander) (tag : BitVec 16) (base : Nat) : List Nat :=
  (c.regions.filter fun r => r.tag == tag && decide (base ≤ r.base.toNat)).flatMap fun r =>
    ((List.range r.spans).filter fun j => !r.freed.contains j).map fun j => (r.base.toNat - base) / 1024 + j

/-- The lowest run of `n` free spans of a pool of `len` spans (R70). -/
def lowestRun (used : List Nat) (len n : Nat) : Option Nat :=
  let fits (a : Nat) : Bool := decide (a + n ≤ len) && used.all fun u => decide (u < a) || decide (a + n ≤ u)
  ((0 :: used.map (· + 1)).filter fits).foldl (fun m a => some (m.elim a (min a))) none

/-- The next handle not in use, from a number up (R71). -/
def freeHandle (vs : List CovView) (h : BitVec 32) : Nat → BitVec 32
  | 0 => h
  | n + 1 => if vs.any (·.handle == h) then freeHandle vs (h + 1) n else h

/-- A Colander's next handle: its first is open, and each one after it the next number not in use (R71, entry 6). -/
def State.newHandle (s : State) (stack : Nat) : BitVec 32 × State :=
  let c := (s.stack stack).colander
  let (f, s) := s.free
  let h := freeHandle c.views (c.handle.getD (f.setWidth 32)) (maxViews + 1)
  (h, s.modStack stack fun t => { t with colander := { t.colander with handle := some (h + 1) } })

/-- A Colander's next serial: its first is open, and each one after it the next number (R69, entry 6). Before serial 0 comes again,
the lines that view accesses filled in the stack's L1s and cluster caches are dropped. -/
def State.newSerial (s : State) (stack : Nat) : BitVec 22 × State :=
  let c := (s.stack stack).colander
  let (f, s) := s.free
  let n := c.serial.getD (f.setWidth 22)
  let plainLines (ls : List Line) : List Line := ls.filter (·.region.isNone)
  let s := if n = 0 && c.serial.isSome then
      let s : State := { s with cores := s.cores.map (fun p =>
        if stackOf p.1 = stack then (p.1, { p.2 with l1 := plainLines p.2.l1 }) else p) }
      { s with clusters := s.clusters.map (fun p =>
        if stackOfCluster p.1 = stack then (p.1, { p.2 with lines := plainLines p.2.lines }) else p) }
    else s
  (n, s.modStack stack fun t => { t with colander := { t.colander with serial := some (n + 1) } })

/-- The head of a Colander's queue taken when it is of a kind. -/
def takeView (stack : Nat) (s : State) (f : ViewReq → State → Option State) : Out :=
  event (decide (stack < 4)) <|
    match (s.stack stack).colander.queue with
    | [] => s
    | r :: rest =>
      (f r (s.modStack stack fun t => { t with colander := { t.colander with queue := rest } })).getD s

/-- A refused view: null, with the reason as its status (R72). -/
def refusedView (code : BitVec 3) : View := { View.null with status := code }

/-- COLANDER_ALLOCATE (R70, R72, R75): a CRNEW answered. -/
def execColanderAllocate (stack : Nat) (s : State) : Out :=
  takeView stack s fun r s =>
    match r with
    | .alloc core ctx seq wd bytes spansAt _ tag =>
      let c := (s.stack stack).colander
      let (base, len) := s.pool stack tag.toNat
      let n := (bytes.toNat + 1023) / 1024
      let answer (s : State) (v : View) : State := { s with answers := s.answers ++ [⟨core, ctx, seq, wd, v, none⟩] }
      if bytes = 0 || 2 ^ 30 < bytes.toNat || len = 0 then some (answer s (refusedView 4))
      else if maxRegions ≤ c.regions.length || maxViews ≤ c.views.length then some (answer s (refusedView 5))
      else match lowestRun (c.used tag base) len n with
        | none => some (answer s (refusedView 2))
        | some a =>
          let budget := s.budget tag.toNat spansAt 2
          if budget < n then some (answer s (refusedView 3))
          else
            let s := s.chargeBudget core tag.toNat spansAt 2 n
            let (serial, s) := s.newSerial stack
            let (h, s) := s.newHandle stack
            let id : BitVec 24 := BitVec.ofNat 2 stack ++ serial
            let at_ := base + 1024 * a
            let zeros := (List.range n).map fun j => (tag.toNat, at_ / 1024 + j)
            let hi := BitVec.ofNat 32 (1024 * n)
            let s := s.modStack stack fun t => { t with colander := { t.colander with
              regions := ⟨id, BitVec.ofNat 64 at_, n, [], spansAt, tag⟩ :: t.colander.regions
              views := ⟨h, id, 0, hi⟩ :: t.colander.views
              zero := zeros ++ t.colander.zero.filter fun z => !zeros.contains z } }
            some (answer s ⟨BitVec.ofNat 64 at_, id, h, true, true, true, 0, hi, 0⟩)
    | _ => none

/-- COLANDER_SPLIT (R75, R80): a new handle takes the part at and above the cut. The source's handle keeps the part below it;
the Colander cuts its interval when the notice that follows the answer comes. -/
def execColanderSplit (stack : Nat) (s : State) : Out :=
  takeView stack s fun r s =>
    match r with
    | .split core ctx seq wd ws v cut =>
      if maxViews ≤ (s.stack stack).colander.views.length then
        some { s with answers := s.answers ++ [⟨core, ctx, seq, wd, refusedView 5, some (ws, v)⟩] }
      else
        let (h, s) := s.newHandle stack
        let s := s.modStack stack fun t => { t with colander := { t.colander with
          views := ⟨h, v.region, cut, v.hi⟩ :: t.colander.views } }
        some { s with answers := s.answers ++ [⟨core, ctx, seq, wd, { v with handle := h, lo := cut }, some (ws, { v with hi := cut })⟩] }
    | _ => none

/-- COLANDER_SHARE (R75). -/
def execColanderShare (stack : Nat) (s : State) : Out :=
  takeView stack s fun r s =>
    match r with
    | .share core ctx seq wd v =>
      if maxViews ≤ (s.stack stack).colander.views.length then
        some { s with answers := s.answers ++ [⟨core, ctx, seq, wd, refusedView 5, none⟩] }
      else
        let (h, s) := s.newHandle stack
        let s := s.modStack stack fun t => { t with colander := { t.colander with
          views := ⟨h, v.region, v.lo, v.hi⟩ :: t.colander.views } }
        some { s with answers := s.answers ++ [⟨core, ctx, seq, wd, { v with handle := h }, none⟩] }
    | _ => none

/-- Whether a view covers span `j` of its region (R79). -/
def CovView.covers (v : CovView) (j : Nat) : Bool := decide (v.lo.toNat < 1024 * (j + 1)) && decide (1024 * j < v.hi.toNat)

/-- The cover count of a span of a region (R79). -/
def Colander.coverCount (c : Colander) (id : BitVec 24) (j : Nat) : Nat :=
  (c.views.filter fun v => v.region == id && v.covers j).length

/-- The spans of a region that no view covers any more freed, their budget refunded, and the region ended with its last
span (R81). -/
def State.freeSpans (s : State) (stack : Nat) (id : BitVec 24) : State :=
  let c := (s.stack stack).colander
  match c.regions.find? (·.id == id) with
  | none => s
  | some r =>
    let gone := (List.range r.spans).filter fun j => !r.freed.contains j && c.coverCount id j == 0
    let r' := { r with freed := r.freed ++ gone }
    let s := s.modStack stack fun t => { t with colander := { t.colander with
      regions := (if r'.freed.length < r.spans then t.colander.regions.map fun x => if x.id = id then r' else x
        else t.colander.regions.filter (·.id != id)) } }
    if gone.isEmpty then s else s.refund r.tag.toNat r.spansAt gone.length

/-- COLANDER_NOTICE (R80, R81): a view's interval becomes smaller, or the view goes. -/
def execColanderNotice (stack : Nat) (s : State) : Out :=
  takeView stack s fun r s =>
    match r with
    | .notice h id i =>
      let s := s.modStack stack fun t => { t with colander := { t.colander with
        views := (match i with
          | none => t.colander.views.filter (·.handle != h)
          | some (lo, hi) => t.colander.views.map fun x => if x.handle = h then { x with lo := lo, hi := hi } else x) } }
      some (s.freeSpans stack id)
    | _ => none

/-- A context whose register has filled goes on (R26). -/
def Ctx.wake (c : Ctx) : Ctx := { c with state := if c.state = .waiting then .running else c.state }

/-- A context whose request `seq` is answered (R75). -/
def Ctx.takeAnswer (c : Ctx) (seq : Nat) (a : ViewAnswer) : Ctx :=
  let c := { (c.writeW a.dest a.view).mark (.w a.dest) true with pends := c.pends.filter (·.seq != seq) }
  (match a.back with
    | none => c
    | some (ws, v) => (c.writeW ws v).mark (.w ws) true).wake

/-- The other copy's producer at the same place, for a paired body: its core, context and number (R393). A producer's
number is one less than its request's. -/
def State.otherCopy (s : State) (core k seq : Nat) : Option (Nat × Nat × Nat) :=
  ((s.core core).pairOf k).bind fun p => (p.place (seq + 1)).bind fun i => (s.twin p i).map fun q => (p.other, p.otherCtx, q - 1)

/-- The notice a VSPLIT's answer makes the holder's core owe: the source's handle keeps the part below the cut (R80). -/
def State.oweSplit (s : State) (a : ViewAnswer) : State :=
  match a.back with
  | none => s
  | some (_, v) => if a.view.live then s.owe a.core v (some (v.lo, v.hi)) else s

/-- COLANDER_ANSWER (R75, R80, R364): an answer fills the view registers its request left empty; when the request's context
has been killed meanwhile, the new view it brings is dropped; the source's view was dropped with its register. -/
def execColanderAnswer (k : Nat) (s : State) : Out :=
  .next <| match s.answers[k]? with
    | none => s
    | some a =>
      if (s.answers.take k).any (·.core == a.core) then s
      else
        let s : State := { s with answers := s.answers.eraseIdx k }
        if ((s.core a.core).ctx a.ctx).pends.any (·.seq == a.seq) then
          let s := (s.modCtxOf a.core a.ctx fun c => c.takeAnswer a.seq a).oweSplit a
          match s.otherCopy a.core a.ctx a.seq with
          | none => s
          | some (n, k, q) =>
            let keep (s : State) (n x i : Nat) : State := s.modCore n fun c => { c with pairs := c.pairs.map (fun p =>
              if p.ctx = x then { p with answers := (i, a) :: p.answers } else p) }
            let i := (((s.core a.core).pairOf a.ctx).bind (·.place (a.seq + 1))).getD 0
            (keep (keep s a.core a.ctx i) n k i).modCtxOf n k fun c => c.takeAnswer q a
        else s.dropViewAt a.core a.view

end Sys2Proof.Machine
end

