-- ==== Sys2Proof/Machine/Messages.lean ====
section
/-!
DEFINITION. Majors 0x24 and 0x25 and the message system's steps: sends, channel and pattern slots, acceptance at a home, ladles,
the overflow ring and relays (R8 to R18, R30 to R36, R116, R220 to R228).
-/

namespace Sys2Proof.Machine

/-! ## Sending (R220, R221) -/

/-- The name's checks of R221: a home outside the pound raises WINDOW_BOUNDS; a null name passes. -/
def State.nameOk (s : State) (name : Word) : Bool :=
  nameGen name == 0 || nameChip name != Config.chip.toNat || s.inPound (nameCore name)

/-- The owed reply a send answers, cleared (R190, R221): the lowest OWE that holds the name. -/
def Ctx.answerOwed (c : Ctx) (name : Word) : Ctx :=
  if name = 0 then c
  else match findIndex (· == name) c.owe.toList with
    | none => c
    | some i => { c with owe := c.owe.setIfInBounds i 0 }

/-- A message of the acting context placed (R30, R116, R221). -/
def State.sendMsg (s : State) (name : Word) (p : Payload) (k : State → Did) : Did :=
  let (cv, s) := s.coverNow
  let sc := homeScope s.cur.1 name
  s.place ⟨.msg (s.msgOf name p sc cv), s.cur.2, sc, cv, none, 0⟩ fun s => k (s.modCtx (·.answerOwed name))

/-- Payload words of a run (R220). -/
def Ctx.runWords (c : Ctx) (mp : Bool) (rb : BitVec 5) (k : Nat) : List Word := (payloadRegs mp rb k).map c.src

/-- The rule of a word with a name in ra and a payload run. -/
def runRule (ra : BitVec 5) (ea : Bool) (mp : Bool) (rb : BitVec 5) (k : Nat) : WordRule :=
  { srcs := (.x ra, ea) :: (payloadRegs mp rb k).map fun r => (r, false) }

/-- SEND (R221). -/
def execSend (o : SendW) : State → Out :=
  issue (runRule o.ra o.ea o.mp o.rb (o.n.toNat + 1)) fun s =>
    let name := s.ctx.readX o.ra
    if !s.nameOk name then .fault s (plain .windowBounds)
    else s.sendMsg name (.words (s.ctx.runWords o.mp o.rb (o.n.toNat + 1))) .done

/-- SENDV (R75, R221): the view leaves the register; views stay on the package. -/
def execSendv (o : SendView) : State → Out :=
  issue { srcs := [(.x o.ra, o.ea), (.w o.view, false)], dests := [.w o.view] } fun s =>
    let name := s.ctx.readX o.ra
    let v := s.ctx.readW o.view
    if !s.nameOk name then .fault s (plain .windowBounds)
    else if !v.live then .fault s (atAddr .viewRights v.base)
    else if nameGen name ≠ 0 && nameChip name ≠ Config.chip.toNat then .fault s (plain .windowBounds)
    else s.sendMsg name (.view v) fun s => .done (s.modCtx (·.writeW o.view View.null))

/-- A SENDM (R221): `n` words for a ladle of an operation. -/
def sendm (op : LadleOp) (n : Nat) (o : SendLadle) : State → Out :=
  issue (runRule o.ra o.ea o.mp o.rb n) fun s =>
    let name := s.ctx.readX o.ra
    if !s.nameOk name then .fault s (plain .windowBounds)
    else s.sendMsg name (.ladle op (s.ctx.runWords o.mp o.rb n)) .done

/-- SENDM.pm (R220, R221). -/
def execSendmPm (o : SendLadle) : State → Out := sendm .pm 2 o
/-- SENDM.iadd (R220, R221). -/
def execSendmIadd (o : SendLadle) : State → Out := sendm .iadd 1 o
/-- SENDM.f32 (R220, R221). -/
def execSendmF32 (o : SendLadle) : State → Out := sendm .f32 1 o
/-- SENDM.f64 (R220, R221). -/
def execSendmF64 (o : SendLadle) : State → Out := sendm .f64 1 o

/-! ## Ladles (R13, R223) -/

/-- The identity of an operation, as its two partial words. -/
def ladleIdentity : LadleOp → Word × Word
  | .pm => (0xFF800000, 0x80000000)
  | .iadd => (0, 0)
  | .f32 => (0x80000000, 0)
  | .f64 => (0x8000000000000000, 0)

/-- `±m · 2^e · 2^(-d)` for d = dm · 2^de > 0: sign, mantissa, exponent, and whether bits of an irrational power are cut.
Past 2^13 any d gives the same rounded sum. -/
def scaleDown (neg : Bool) (m : Nat) (e : Int) (dm : Nat) (de : Int) : Bool × Nat × Int × Bool :=
  if 13 < de + bitLen dm then (neg, m, e - 2 ^ 13, false)
  else
    let d : Int := dm * 2 ^ (de + fixP).toNat
    let n := (-d) / 2 ^ fixP
    let f := ((-d) % 2 ^ fixP).toNat
    if f = 0 then (neg, m, e + n, false)
    else (neg, m * expSum 90 (f * ln2 / 2 ^ fixP) 0 (2 ^ fixP), e + n - fixP, true)

/-- RoundTo (f32, big + small · 2^(-d), RNE) as R223 has it: none when it is invalid. `d` is none for 2^(-inf) = 0. -/
def pairSum (big small : FVal) (d : Option (Nat × Int)) : Option (Nat × BitVec 5) :=
  let exact (v : FVal) : Option (Nat × BitVec 5) :=
    (addVal 0 big v).map fun r => ((roundVal .f32 0 r).bits, (roundVal .f32 0 r).flags)
  match small, d with
  | .inf _, none => none
  | .fin n _ e, none => exact (.fin n 0 e)
  | .fin n m e, some (dm, de) =>
    if m = 0 || dm = 0 then exact small
    else
      let (n, m, e, cut) := scaleDown n m e dm de
      if !cut then exact (.fin n m e)
      else match addVal 0 big (.fin n m e) with
        | some (.fin n' m' e') => some (roundTo .f32 0 n' (if n == n' then m' else m' - 1) e' true)
        | some v => some ((roundVal .f32 0 v).bits, (roundVal .f32 0 v).flags)
        | none => none
  | v, _ => exact v

/-- The pair merge (R223): P = (M, S) with an arrival (m, s); the events of the result. -/
def pairMerge (M S m s : Nat) : (Nat × Nat) × FOut :=
  let v := fval .f32
  let ops := [v M, v S, v m, v s]
  let nan : (Nat × Nat) × FOut := ((fmtNaN .f32, fmtNaN .f32), outOf .f32 ops (fmtNaN .f32, 0))
  let isPos : FVal → Bool
    | .inf false => true
    | _ => false
  if ops.any isNaN || isPos (v M) || isPos (v m) then nan
  else
    let low := ltVal (v M) (v m)
    let (mn, big, lo, small) := if low then (m, v s, M, v S) else (M, v S, m, v s)
    let diff : Option (Nat × Int) :=
      match v mn, v lo with
      | .inf _, _ => some (0, 0)
      | _, .inf _ => none
      | a, b =>
        match addVal 0 a (negVal b) with
        | some (.fin _ k e) => some (k, e)
        | _ => some (0, 0)
    match pairSum big small diff with
    | none => nan
    | some r => ((mn, r.1), outOf .f32 ops r)

/-- A ladle's partial combined with an arrival's words, and the counted events with their format (R223). -/
def combine (op : LadleOp) (p : Word × Word) (ws : List Word) : (Word × Word) × Option (Fmt × FOut) :=
  let a := ws.getD 0 0
  let low (w : Word) : Nat := w.toNat % 2 ^ 32
  match op with
  | .iadd => ((p.1 + a, 0), none)
  | .f32 =>
    let r := fadd .f32 0 (fval .f32 (low p.1)) (fval .f32 (low a))
    ((BitVec.ofNat 64 r.bits, 0), some (.f32, r))
  | .f64 =>
    let r := fadd .f64 0 (fval .f64 p.1.toNat) (fval .f64 a.toNat)
    ((BitVec.ofNat 64 r.bits, 0), some (.f64, r))
  | .pm =>
    let (q, r) := pairMerge (low p.1) (low p.2) (low a) (low (ws.getD 1 0))
    ((BitVec.ofNat 64 q.1, BitVec.ofNat 64 q.2), some (.f32, r))

/-- The words an aggregate is presented with (R223). -/
def aggregate (op : LadleOp) (p : Word × Word) : List Word :=
  match op with
  | .pm => [p.1, p.2]
  | _ => [p.1]

/-! ## Channel and pattern slots (R9 to R18, R224 to R228) -/

/-- The slot a name addresses on a core, when it is a live channel there (R10). -/
def State.liveSlot (s : State) (core : Nat) (name : Word) : Option Nat :=
  let i := nameSlot name
  let c := (s.core core).chan i
  let here := if isKeeper core then nameCore name == clusterOf core else nameCore name == core
  if here && nameChip name == Config.chip.toNat && c.alloc && c.gen.toNat == nameGen name && nameGen name != 0 &&
    nameTag name == (s.tagOf core).toNat && nameTag name != 0 then some i else none

/-- The entries of a core's ring area: SYSBASE to 0x53FF (R48). -/
def Core.ringArea (c : Core) : Nat := (Config.ringEnd - c.sysbase) / 40

/-- The runs of ring entries that the FIFO slots but `except_` use, as first entry and count. -/
def Core.runsUsed (c : Core) (except_ : Option Nat) : List (Nat × Nat) :=
  ((List.range 64).filter fun i => some i != except_ && (c.chan i).alloc && (c.chan i).kind == .fifo).map
    fun i => ((c.chan i).start, (c.chan i).nm1.toNat + 1)

/-- Whether the `n` entries from `a` on are in the ring area and no slot but `i` uses them (R228). -/
def Core.runFree (c : Core) (a n i : Nat) : Bool :=
  decide (a + n ≤ c.ringArea) && (c.runsUsed (some i)).all fun u => decide (a + n ≤ u.1) || decide (u.1 + u.2 ≤ a)

/-- The lowest run of `n` ring entries that no FIFO slot but `except_` uses (R228). -/
def Core.ringRun (c : Core) (n : Nat) (except_ : Option Nat) : Option Nat :=
  let used := c.runsUsed except_
  let fits (a : Nat) : Bool := decide (a + n ≤ c.ringArea) && used.all fun u => decide (a + n ≤ u.1) || decide (u.1 + u.2 ≤ a)
  ((0 :: used.map fun u => u.1 + u.2).filter fits).foldl (fun m a => some (m.elim a (min a))) none

/-- The kind a code names; 11 is reserved (R11). -/
def kindOf (k : Nat) : Option ChanKind :=
  match k with
  | 0 => some .fifo | 1 => some .ladle | 2 => some .relay | _ => none

/-- The ladle operation a code names (R225). -/
def ladleOpOf (k : Nat) : LadleOp :=
  match k % 4 with
  | 0 => .pm | 1 => .iadd | 2 => .f32 | _ => .f64

/-- A channel slot as CHNEW or the launcher fills it (R228): the generation and the area's run are given, and the error channel its
creator's region has then, which a relay keeps (R14, entry 84). -/
def newSlot (kind : ChanKind) (op : LadleOp) (nm1 : BitVec 8) (gen : BitVec 19) (start : Nat) (target rcb errCh : Word) :
    ChanSlot :=
  { ChanSlot.reset with
    alloc := true
    kind := kind
    op := op
    nm1 := nm1
    gen := gen
    start := start
    part0 := (ladleIdentity op).1
    part1 := (ladleIdentity op).2
    target := target
    region := rcb
    errCh := errCh }

/-- A channel allocated on a core (R225, R227, R228): its name, or the code that says why not. -/
def State.newChannel (s : State) (core : Nat) (kind : ChanKind) (op : LadleOp) (nm1 : BitVec 8) (target rcb errCh : Word) :
    Word × State :=
  let c := s.core core
  match findIndex (fun k : ChanSlot => !k.alloc) c.chans.toList with
  | none => (1, s)
  | some i =>
    match (if kind = .fifo then c.ringRun (nm1.toNat + 1) none else some 0) with
    | none => (2, s)
    | some start =>
      let gen := (c.chan i).gen
      (mkName Config.chip.toNat (if isKeeper core then clusterOf core else core) i gen.toNat (s.tagOf core).toNat,
        s.modCore core (·.modChan i fun _ => newSlot kind op nm1 gen start target rcb errCh))

/-- CHNEW (R224, R225, R228). -/
def execChnew (o : Reg2) : State → Out :=
  issue (reg2Rule o) fun s =>
    let d := s.ctx.readX o.ra
    match kindOf (bits d 63 62) with
    | none => .fault s (plain .illegal)
    | some k =>
      let r := s.ctx.region
      let (name, s) := s.newChannel s.cur.1 k (ladleOpOf (bits d 61 60)) (d.setWidth 8) (s.ctx.readX o.rb) r.rcb r.errCh
      .done (s.modCtx (·.writeX o.rd name))

/-- The generation after one (R9). -/
def nextGen (g : BitVec 19) : BitVec 19 := if g = BitVec.allOnes 19 then 1 else g + 1

/-- A slot released (R9, R18): its patterns go, its queued messages are discarded and their views dropped. -/
def State.freeChannel (s : State) (core i : Nat) : State :=
  let c := (s.core core).chan i
  let s := (c.ring ++ c.presented.toList).foldl (fun s e => s.dropPayload core e.msg.payload) s
  s.modCore core fun k =>
    { k.modChan i (fun c => { ChanSlot.reset with gen := nextGen c.gen }) with
      pats := k.pats.mapIdx (fun _ p => p.filter fun p => !p.chans.contains (BitVec.ofNat 6 i))
      sluiceDue := true }

/-- A word of major 0x25 that answers a status in rd. -/
def answer (s : State) (rd : BitVec 5) (code : Nat) : Did := .done (s.modCtx (·.writeX rd (BitVec.ofNat 64 code)))

/-- CHFREE (R18, R227, R228). -/
def execChfree (o : Reg1) : State → Out :=
  issue (reg1Rule o) fun s =>
    match s.liveSlot s.cur.1 (s.ctx.readX o.ra) with
    | none => answer s o.rd 3
    | some i => answer (s.freeChannel s.cur.1 i) o.rd 0

/-- The overflow ring of a device on a cluster: its index, when the cluster's pound holds the device (R33, R368). -/
def State.ovfIndex (s : State) (cluster tag : Nat) : Option Nat :=
  (s.poundOf cluster).bind fun p =>
    if tag != 0 && p.record.vdTags.any (·.toNat == tag) then some (p.vdIndex (BitVec.ofNat 16 tag)) else none

/-- Whether an overflow entry is a message whose home is a core, worker or keeper, and whose name has a slot. -/
def OvfEntry.isFor (e : OvfEntry) (core slot : Nat) : Bool :=
  match e with
  | .msg home m => home == core && nameSlot m.name == slot
  | .launch _ _ => false

/-- The generation of the name an overflow entry's message has. -/
def OvfEntry.gen (e : OvfEntry) : Nat :=
  match e with
  | .msg _ m => nameGen m.name
  | .launch _ _ => 0

/-- The messages of the channel in a core's slot that its device's overflow ring holds, in order: those of the slot's present
generation (R9, R33). -/
def State.overflowed (s : State) (core slot : Nat) : List OvfEntry :=
  match s.ovfIndex (clusterOf core) (s.tagOf core).toNat with
  | none => []
  | some i => ((s.cluster (clusterOf core)).ovf.getD i []).filter fun e =>
      e.isFor core slot && e.gen == ((s.core core).chan slot).gen.toNat

/-- CHCFG (R228). -/
def execChcfg (o : Reg2) : State → Out :=
  issue (reg2Rule o) fun s =>
    let n := (s.ctx.readX o.rb).setWidth 8
    match s.liveSlot s.cur.1 (s.ctx.readX o.ra) with
    | none => answer s o.rd 3
    | some i =>
      let c := s.me.chan i
      match c.kind with
      | .relay => answer s o.rd 3
      | .ladle =>
        if c.count ≠ 0 || c.presented.isSome then answer s o.rd 4
        else answer (s.modMe (·.modChan i fun c => { c with nm1 := n })) o.rd 0
      | .fifo =>
        if !c.ring.isEmpty || !(s.overflowed s.cur.1 i).isEmpty then answer s o.rd 4
        else match (if s.me.runFree c.start (n.toNat + 1) i then some c.start else s.me.ringRun (n.toNat + 1) (some i)) with
          | none => answer s o.rd 2
          | some a => answer (s.modMe (·.modChan i fun c => { c with nm1 := n, start := a, headAt := 0 })) o.rd 0

/-- CHCNT (R228). -/
def execChcnt (o : Reg1) : State → Out :=
  issue (reg1Rule o) fun s =>
    .done (s.modCtx (·.writeX o.rd (match s.liveSlot s.cur.1 (s.ctx.readX o.ra) with
      | none => BitVec.allOnes 64
      | some i =>
        let c := s.me.chan i
        let n := match c.kind with
          | .fifo => c.ring.length
          | .ladle => c.count
          | .relay => 0
        BitVec.ofNat 64 (min (s.overflowed s.cur.1 i).length 65535 * 2 ^ 32 + num c.presented.isSome * 2 ^ 31 + n))))

/-- The channel slots a pattern word names, in position order (R226). -/
def patternChans (w : Word) : List (BitVec 6) :=
  [w.extractLsb' 14 6, w.extractLsb' 20 6, w.extractLsb' 26 6, w.extractLsb' 32 6].take (bits w 39 38 + 1)

/-- Whether a pattern may be installed (R16, R226): distinct, allocated slots, no relay, aligned entry and region. -/
def Core.patternOk (c : Core) (chans : List (BitVec 6)) (entry region : Word) : Bool :=
  chans.Nodup && chans.all (fun i => (c.chan i.toNat).alloc && (c.chan i.toNat).kind != .relay) &&
    entry.toNat % 4 == 0 && region.toNat % 64 == 0

/-- PATSET (R16, R226, R228). -/
def execPatset (o : Reg2) : State → Out :=
  issue { srcs := [(.x o.ra, o.ea), (.x (o.ra + 1), o.ea), (.x o.rb, o.eb)], dests := [.x o.rd] } fun s =>
    let w := s.ctx.readX o.ra
    let entry := s.ctx.readX (o.ra + 1)
    let region := s.ctx.readX o.rb
    let chans := patternChans w
    let slot := bits w 4 0
    if !s.me.patternOk chans entry region then .fault s (plain .illegal)
    else if (s.me.pat slot).isSome then answer s o.rd 4
    else
      let p : Pattern := ⟨chans, w.extractLsb' 11 3, w.getLsbD 10, w.getLsbD 9, entry, region⟩
      answer (s.modMe fun c => { c.setPat slot (some p) with sluiceDue := true }) o.rd 0

/-- PATCLR (R228). -/
def execPatclr (o : Reg1) : State → Out :=
  issue (reg1Rule o) fun s =>
    let slot := bits (s.ctx.readX o.ra) 4 0
    if (s.me.pat slot).isNone then answer s o.rd 3
    else answer (s.modMe fun c => { c.setPat slot none with sluiceDue := true }) o.rd 0

/-- PATRANK (R228). -/
def execPatrank (o : Reg2) : State → Out :=
  issue (reg2Rule o) fun s =>
    let slot := bits (s.ctx.readX o.ra) 4 0
    let v := s.ctx.readX o.rb
    match s.me.pat slot with
    | none => answer s o.rd 3
    | some p => answer (s.modMe fun c =>
        { c.setPat slot (some { p with rank := v.setWidth 3, fair := v.getLsbD 3 }) with sluiceDue := true }) o.rd 0

/-- RELAY (R228). -/
def execRelay (o : Reg2) : State → Out :=
  issue (reg2Rule o) fun s =>
    match s.liveSlot s.cur.1 (s.ctx.readX o.ra) with
    | none => answer s o.rd 3
    | some i =>
      if (s.me.chan i).kind ≠ .relay then answer s o.rd 3
      else answer (s.modMe (·.modChan i fun c => { c with target := s.ctx.readX o.rb })) o.rd 0

/-! ## Leaving the core (R30, R31, R116) -/

/-- Hops and bridges between two cores (R31). -/
def distance (a b : Nat) : Nat × Nat :=
  let ax := coreX (a % Config.workers)
  let bx := coreX (b % Config.workers)
  let ay := coreY (a % Config.workers)
  let by_ := coreY (b % Config.workers)
  ((max ax bx - min ax bx) + (max ay by_ - min ay by_), num (ax / 128 != bx / 128) + num (ay / 64 != by_ / 64))

/-- The router at which a message of a device leaves a core's mesh: the home's, a port's for one that leaves the package, or
the core's own for one that its router returns without using a link (R221, R329, R330). -/
def State.exitOf (s : State) (tag core : Nat) (m : Msg) : Nat :=
  if nameGen m.name = 0 then core
  else match s.routeOf tag m.name with
    | .here => nameCore m.name
    | .host | .peer _ => portCore (bits (s.devReg (.rte tag (nameChip m.name))) 59 55 / 2)
    | .none => core

/-- The energy charges of a message from a core to another, for a block's region (R399): one or two flits, which of them
being open (entry 19). -/
def State.flitCharge (s : State) (core dst : Nat) (rcb : Word) : State :=
  let (f, s) := s.free
  let n := 1 + f.toNat % 2
  let (h, b) := distance core dst
  match s.regionOf (s.tagOf core).toNat rcb with
  | .error _ => s
  | .ok r => (s.note (.charge core 8 (n * h) r.energyAt)).note (.charge core 9 (n * b) r.energyAt)

/-- Whether every access a list of covers holds has performed at a scope (R116). -/
def State.covered (s : State) (sc : Scope) (cv : List Cover) : Bool := cv.all (s.performed sc true)

/-- The corner core of a stack, as the place of its Colander, engines and weirs (R75, R279). -/
def State.toCorner (s : State) (core stack : Nat) (rcb : Word) : State := s.flitCharge core (stackCorner stack) rcb

/-- The cores a walking item visits, in order (R28): from the spawner toward the hint, along x and then y, and then the
rings of distance 1 to ρ around it, each clockwise from the north. -/
def spawnRoute (from_ hint radius : Nat) : List Nat :=
  let hx := coreX hint
  let hy := coreY hint
  let fx := coreX from_
  let fy := coreY from_
  let line (a b : Nat) : List Nat := if a ≤ b then span a (b - a + 1) else (span b (a - b + 1)).reverse
  let path := (line fx hx).map (fun x => coreAt x fy) ++ ((line fy hy).drop 1).map fun y => coreAt hx y
  let ring (d : Nat) : List (Int × Int) :=
    (List.range d).map (fun (i : Nat) => ((i : Int), (i : Int) - d)) ++ (List.range d).map (fun (i : Nat) => ((d : Int) - i, (i : Int))) ++
      (List.range d).map (fun (i : Nat) => (-(i : Int), (d : Int) - i)) ++ (List.range d).map (fun (i : Nat) => ((i : Int) - d, -(i : Int)))
  path ++ ((span 1 radius).flatMap ring).filterMap fun p =>
    let x : Int := hx + p.1
    let y : Int := hy + p.2
    if 0 ≤ x && x < 256 && 0 ≤ y && y < 128 then some (coreAt x.toNat y.toNat) else none

/-- Whether a copy engine has had the marker of a cut (R370). -/
def State.engineMarked (s : State) (t g n : Nat) : Bool :=
  let x := (s.stack t).engine g
  x.cut == some n || x.queue.any fun i => i == .marker n

/-- MESSAGE_ADMIT (R31, R116, R215, R279): the oldest outbox entry leaves, once what it releases has performed; a notice
of a view leaves by VIEW_NOTICE_SEND. -/
def execMessageAdmit (core : Nat) (s : State) : Out :=
  event (coreIn core) <|
    match (s.core core).outbox with
    | [] => s
    | e :: _ =>
      let go (s : State) : State :=
        let pop := s.popOut core
        match e.item with
        | .msg m => (pop.flitCharge core (pop.exitOf (s.tagOf core).toNat core m) m.lostAt).admitMsg core m
        | .svc m =>
          if nameGen m.name = 0 then pop.undeliver core m
          else { pop with flight := pop.flight ++ [⟨core, Config.keeperOf (clusterOf core), m, (s.core core).mark, (s.tagOf core).toNat⟩] }
        | .spawn it =>
          let s := pop.flitCharge core it.hint it.rcb
          let route := if (s.core core).stopping then [] else spawnRoute core it.hint it.radius
          { s with walkers := s.walkers ++ [⟨it, route⟩] }
        | .view _ (.notice ..) => s
        | .view t r => (pop.toCorner core t 0).toColander t r
        | .engine t g c => if (s.core core).mark ≠ 0 && !s.engineMarked t g (s.core core).mark then s else (pop.toCorner core t c.rcb).modStack t (·.modEngine g fun x => { x with queue := x.queue ++ [.cmd c] })
        | .weir t w => (pop.toCorner core t 0).modStack t fun x => { x with weirQ := x.weirQ ++ [w] }
        | .marker n => pop.modCore core fun c =>
            { c with cut := c.cut.map (fun x => if x.number = n then { x with injected := true } else x) }
      match s.pairGate core e.ctx e.seq with
      | none => s
      | some false => s.popOut core
      | some true => if s.covered e.scope e.cover then go s else s

/-- RELAY_FORWARD (R14, R34, R116): the oldest forward or undeliverable return of a core leaves once what it releases has
performed at its scope. -/
def execRelayForward (core : Nat) (s : State) : Out :=
  event (coreIn core) <|
    match (s.core core).relays with
    | [] => s
    | m :: rest =>
      if !s.covered m.scope m.cover then s
      else ((s.modCore core fun c => { c with relays := rest }).flitCharge core (s.exitOf (s.tagOf core).toNat core m) m.lostAt).admitMsg core m

/-! ## Arriving at a home (R10, R23, R33, R222) -/

/-- A print of the session for an accepted message of a traced core (R290, R313): cycle, number, channel, sender and words, and
for a ladle the partial and the count after combining. -/
def State.traceArrival (s : State) (core slot : Nat) (m : Msg) (seq : BitVec 32) : State :=
  if s.snivis.traces.any fun t => t.1 == core && t.2.all (· == slot) then
    let c := (s.core core).chan slot
    let ws : List Word := match m.payload with
      | .words ws => ws
      | .view v => [v.base, v.middle, v.limits]
      | .ladle _ ws =>
        let p := (combine c.op (c.part0, c.part1) ws).1
        ws ++ if c.kind = .ladle then [p.1, p.2, BitVec.ofNat 64 (c.count + 1)] else []
    s.printText "arr" [s.coreText core, s.coreText m.sender] ([BitVec.ofNat 64 core, (s.core core).cycle, seq.setWidth 64,
      BitVec.ofNat 64 slot, BitVec.ofNat 64 m.sender] ++ ws)
  else s

/-- Whether a channel takes an arrival now, and if not, why: undeliverable, or to the overflow ring (R13, R33, R222). -/
inductive Taking where
  | take | overflow | refuse
  deriving DecidableEq, Repr

/-- How a channel slot stands to a message (R13, R33, R222). -/
def ChanSlot.takes (c : ChanSlot) (m : Msg) : Taking :=
  match c.kind, m.payload with
  | .relay, _ => .take
  | .fifo, .ladle _ _ => .refuse
  | .fifo, _ => if c.ring.length ≤ c.nm1.toNat then .take else .overflow
  | .ladle, .ladle op _ =>
    if op ≠ c.op then .refuse
    else if c.count ≥ c.nm1.toNat && c.presented.isSome then .overflow else .take
  | .ladle, _ => .refuse

/-- Whether a message travels as a return or a relay's forward again: its name, sender and release change (R14, R116). -/
def forwardOf (core : Nat) (c : ChanSlot) (m : Msg) : Msg :=
  { m with
    name := c.target
    sender := core
    scope := widest m.scope (homeScope core c.target)
    errCh := c.errCh
    lostAt := c.region }

/-- A message accepted into a channel of a core (R13, R14, R23): it takes the next arrival number, and is queued,
combined or forwarded. -/
def State.enter (s : State) (core i : Nat) (m : Msg) : State :=
  let seq := (s.core core).arrivals + 1
  let s := (s.modCore core fun c => { c with arrivals := seq, sluiceDue := true }).traceArrival core i m seq
  let c := (s.core core).chan i
  match c.kind with
  | .relay => s.modCore core fun k => { k with relays := k.relays ++ [forwardOf core c m] }
  | .fifo => s.modCore core (·.modChan i fun c => { c with ring := c.ring ++ [⟨m, seq⟩] })
  | .ladle =>
    let ws : List Word := match m.payload with
      | .ladle _ ws => ws
      | _ => []
    let (p, ev) := combine c.op (c.part0, c.part1) ws
    let c' := { c with
      part0 := p.1
      part1 := p.2
      count := c.count + 1
      lastSeq := seq
      scope := widest c.scope (acquireScope core m)
      cover := c.cover ++ m.cover }
    let agg : Msg := ⟨m.name, .data, .words (aggregate c.op p), Config.chip, core, c'.scope, c'.cover, c.errCh, c.region, false,
      s.tagOf core⟩
    let c' := if c'.count ≤ c.nm1.toNat then c' else
      { c' with
        part0 := (ladleIdentity c.op).1
        part1 := (ladleIdentity c.op).2
        count := 0
        scope := .core
        cover := []
        presented := some ⟨agg, seq⟩ }
    let s := s.modCore core (·.modChan i fun _ => c')
    match ev with
    | none => s
    | some (f, o) => (List.range 4).foldl (fun s v =>
        if o.ev.getLsbD v then s.addCounter core (s.tagOf core).toNat c.region (4 * fmtIndex f + v) 1 else s) s

/-- An entry placed in a device's overflow ring on a cluster; none when there is no room (R33, R368). -/
def State.toOverflow (s : State) (cluster tag : Nat) (e : OvfEntry) : Option State :=
  (s.ovfIndex cluster tag).bind fun i =>
    let q := (s.cluster cluster).ovf.getD i []
    if q.length < bits (s.devReg (.ovfRing cluster i)) 47 32 then
      some (s.modCluster cluster fun c => { c with ovf := c.ovf.setIfInBounds i (q ++ [e]) })
    else none

/-- A message placed in a device's overflow ring, or undeliverable (R33, R34). -/
def State.overflowOr (s : State) (core tag : Nat) (m : Msg) : State :=
  (s.toOverflow (clusterOf core) tag (.msg core m)).getD (s.undeliver core m)

/-- A message arriving at its home (R10, R23, R33, R222, R294): for a device that is not resident, or whose message state
has been saved, it goes to that device's overflow ring. -/
def State.arrive (s : State) (core : Nat) (m : Msg) : State :=
  let tag := nameTag m.name
  if (s.poundOf (clusterOf core)).any (·.trust == .error) then s.undeliver core m
  else if tag ≠ (s.tagOf core).toNat || (s.core core).msgSaved then
    if (s.ovfIndex (clusterOf core) tag).isSome && nameGen m.name ≠ 0 then s.overflowOr core tag m else s.undeliver core m
  else match s.liveSlot core m.name with
    | none => s.undeliver core m
    | some i =>
      match ((s.core core).chan i).takes m with
      | .refuse => s.undeliver core m
      | .overflow => s.overflowOr core tag m
      | .take => if (s.overflowed core i).isEmpty then s.enter core i m else s.overflowOr core tag m

/-- A message a core accepts between its record and its router's marker is appended to its cut's log (R370); a log past the
extension's end fails the cut. -/
def State.logged (s : State) (core : Nat) (m : Msg) : State :=
  s.modCore core fun c => { c with cut := c.cut.map (fun x =>
    if x.recorded && !x.sent.getLsbD 4 then { x with log := x.log ++ [m], failed := x.failed || decide (128 ≤ x.log.length) } else x) }

/-- MESSAGE_ACCEPT (R23, R32, R36): flight `k` is accepted at its home, in order with the flights of its sender to its
channel; a halted core's messages wait, what is for a host waits for its
port, and what was sent behind a cut's marker waits for that marker (R370). -/
def execMessageAccept (k : Nat) (s : State) : Out :=
  .next <| match s.flight[k]? with
    | none => s
    | some f =>
      if f.home = Config.workers && nameChip f.msg.name ≠ Config.chip.toNat then s
      else if (s.flight.take k).any (fun g => g.source == f.source && g.msg.name == f.msg.name) || (s.core f.home).halted ||
          (s.core f.home).cut.any (fun x => x.number == f.mark && !x.sent.getLsbD 4) then s
      else ({ s with flight := s.flight.eraseIdx k } : State).logged f.home f.msg |>.arrive f.home f.msg

/-- OVERFLOW_MOVE_BACK (R33, R367): the oldest overflow message of a slot moves back into its channel once that takes it;
a channel freed meanwhile no longer takes it at all. -/
def execOverflowMoveBack (core slot : Nat) (s : State) : Out :=
  event (coreIn core && decide (slot < 64)) <|
    match s.ovfIndex (clusterOf core) (s.tagOf core).toNat with
    | none => s
    | some i =>
      let q := (s.cluster (clusterOf core)).ovf.getD i []
      if (s.core core).msgSaved then s
      else match findIndex (·.isFor core slot) q with
      | none => s
      | some j =>
        match q[j]? with
        | some (.msg _ m) =>
          let pop (s : State) : State := s.modCluster (clusterOf core) fun c =>
            { c with ovf := c.ovf.setIfInBounds i (q.eraseIdx j), ovfHead := c.ovfHead.setIfInBounds i (c.ovfHead.getD i 0 + 1) }
          (match s.liveSlot core m.name with
            | none => (pop s).undeliver core m
            | some n =>
              match ((s.core core).chan n).takes m with
              | .take => (pop s).enter core n m
              | .overflow => s
              | .refuse => (pop s).undeliver core m)
        | _ => s

/-- FAULT_PACKET_RESEND (R117, R359): the oldest held packet reaches the fault channel once that channel is live and has room
and the accesses the packet releases have performed at cluster scope. -/
def execFaultPacketResend (core : Nat) (s : State) : Out :=
  event (coreIn core) <|
    match (s.core core).packets with
    | [] => s
    | (ws, cv) :: rest =>
      let k := Config.keeperOf (clusterOf core)
      let name := s.devReg (.faultCh (clusterOf core))
      match s.liveSlot k name with
      | none => s
      | some i =>
        let m := notice (s.tagOf core).toNat core name ws 0 0
        if ((s.core k).chan i).takes m = .take && cv.all (s.performed .clus false) then
          ((s.modCore core fun c => { c with packets := rest }).enter k i m)
        else s

/-- DEFERRED_FAULT_TAKE (R40): a fault found after its instruction retired is taken at a context's next issue. -/
def execDeferredFaultTake (core ctx : Nat) (s : State) : Out :=
  event (coreIn core && decide (ctx < 11)) <|
    let c := (s.core core).ctx ctx
    match c.deferred with
    | [] => s
    | d :: _ => if c.state = .running || c.state = .waiting then s.raiseDeferred core ctx d else s

end Sys2Proof.Machine
end

