-- ==== Sys2Proof/Machine/Starting.lean ====
section
/-!
DEFINITION. The sluice and major 0x26: firings, HSTART, SPAWN and HSTAT, and items on their way (R19 to R28, R229 to R232).
-/

namespace Sys2Proof.Machine

/-! ## The sluice (R19 to R22) -/

/-- The entry a channel shows the sluice (R11, R19). -/
def ChanSlot.head (c : ChanSlot) : Option RingEntry :=
  match c.kind with
  | .fifo => c.ring.head?
  | .ladle => c.presented
  | .relay => none

/-- A channel with its head removed (R21). -/
def ChanSlot.takeHead (c : ChanSlot) : ChanSlot :=
  match c.kind with
  | .fifo => { c with ring := c.ring.drop 1, headAt := (c.headAt + 1) % (c.nm1.toNat + 1) }
  | _ => { c with presented := none }

/-- Whether a pattern is enabled: every channel it names is non-empty (R19). -/
def Core.enabled (c : Core) (p : Pattern) : Bool := p.chans.all fun i => (c.chan i.toNat).head.isSome

/-- The partner of a core for paired regions (R393). -/
def partnerOf (core : Nat) : Nat := coreAt (coreX core ^^^ 4) (coreY core ^^^ 4)

/-- Whether a region's bodies run in pairs (R338, R393). -/
def State.isPaired (s : State) (core : Nat) (rcb : Word) : Bool :=
  match s.regionOf (s.tagOf core).toNat rcb with
  | .ok r => r.paired
  | .error _ => false

/-- The context a pattern's body would take: the control context, or the lowest free helper (R20, R21). -/
def Core.contextFor (c : Core) (ctrl : Bool) : Option Nat :=
  if ctrl then (if (c.ctx 0).state = .free then some 0 else none) else c.helpersFor.head?

/-- Whether the pattern of a slot is a candidate (R20); a paired region needs a free helper on the partner too (R393). -/
def State.candidate (s : State) (core slot : Nat) : Bool :=
  let c := s.core core
  match c.pat slot with
  | none => false
  | some p => c.enabled p && s.mayFire core p.region && (c.contextFor p.ctrl).isSome &&
      (!s.isPaired core p.region || !(s.core (partnerOf core)).freeHelpers.isEmpty)

/-- The candidates of a core, by slot. -/
def State.candidates (s : State) (core : Nat) : List (Nat × Pattern) :=
  ((List.range 32).filter (s.candidate core)).filterMap fun i => ((s.core core).pat i).map fun p => (i, p)

/-- The first of some slots at or after a place, counted around 32. -/
def firstCyclic (ps : List (Nat × Pattern)) (at_ : Nat) : Option (Nat × Pattern) :=
  match ps.find? fun p => decide (at_ ≤ p.1) with
  | some p => some p
  | none => ps.head?

/-- The pattern R20 chooses, and the pointer its rank keeps. -/
def choose (cand : List (Nat × Pattern)) (ptr : Nat → Nat) : Option ((Nat × Pattern) × Option (Nat × Nat)) :=
  let top := cand.foldl (fun m p => max m p.2.rank.toNat) 0
  let atTop := cand.filter fun p => p.2.rank.toNat == top
  match atTop.head? with
  | none => none
  | some w =>
    if w.2.fair then
      match firstCyclic (atTop.filter (·.2.fair)) (ptr top) with
      | none => none
      | some w => some (w, some (top, (w.1 + 1) % 32))
    else some (w, none)

/-- The later of two arrival numbers, seen from the counter's present value (R23, R24). -/
def laterSeq (now a b : BitVec 32) : BitVec 32 := if (now - a).toNat ≤ (now - b).toNat then a else b

/-- Fire (R21, R24): the heads of every channel removed in one step, and the body started; a paired region's body starts on
the partner's lowest free helper too (R393). -/
def State.fire (s : State) (core slot : Nat) (p : Pattern) (k : Nat) : State :=
  let c := s.core core
  let es := p.chans.filterMap fun i => (c.chan i.toNat).head
  let ms := es.map (·.msg)
  let last := es.foldl (fun m e => laterSeq c.arrivals e.seq m) ((es.head?.map (·.seq)).getD 0)
  let b : BodyStart :=
    { entry := p.entry
      rcb := p.region
      x4 := BitVec.ofNat 64 slot
      x5 := last.setWidth 64
      m := messageRegs (ms.map (·.payload))
      views := messageViews (ms.map (·.payload))
      mstat := mstatOf .firing p.rank.toNat (ms.map fun m => (m.status, m.payload))
      scope := ms.foldl (fun a m => widest a (acquireScope core m)) .core
      cover := [] }
  let s := s.modCore core fun c => { p.chans.foldl (fun c i => c.modChan i.toNat ChanSlot.takeHead) c with sluiceDue := true }
  let paired := s.isPaired core p.region
  let s := ((s.startBody core k b).note (.fired core))
  let s := match s.snivis.watches.find? fun w => w.1 == core with
    | none => s
    | some w => s.printText "fire" [s.coreText core, s.codeText p.entry] ([BitVec.ofNat 64 core, BitVec.ofNat 64 slot, BitVec.ofNat 64 k] ++
        w.2.flatMap ((s.core core).ctx k).snv)
  if !paired then s
  else
    let q := partnerOf core
    match (s.core q).freeHelpers.head? with
    | none => s
    | some j =>
      let s := s.startBody q j { b with scope := .dev }
      let pair (home : Bool) (mine other oc : Nat) (start : Ctx) : PairState :=
        ⟨mine, other, oc, home, [], 0, 0, [], [], false, false, start⟩
      (s.modCore core fun c => { c with pairs := c.pairs ++ [pair true k q j (c.ctx k)] }).modCore q
        fun c => { c with pairs := c.pairs ++ [pair false j core k (c.ctx j)] }

/-- A spawn item or launch started on a context (R24, R28, R334). -/
def State.startItem (s : State) (core k : Nat) (it : SpawnItem) : State :=
  s.startBody core k
    { entry := it.entry
      rcb := it.rcb
      x4 := 0
      x5 := if it.origin = .spawn then BitVec.ofNat 64 it.spawner else 0
      m := it.words
      views := []
      mstat := mstatOf it.origin 0 [(.data, .words it.words)]
      scope := if it.origin = .launch then .sys else widest it.scope (smallestScope core it.spawner)
      cover := [] }

/-- The launches a device's overflow ring holds for a core go into its spawn queue, in arrival order (R334). -/
def State.takeLaunches (s : State) (core : Nat) (i : Nat) : Nat → State
  | 0 => s
  | n + 1 =>
    let q := (s.cluster (clusterOf core)).ovf.getD i []
    let at_ := q.findIdx fun e => match e with
      | .launch c _ => c == core
      | .msg _ _ => false
    match q[at_]? with
    | some (.launch _ it) =>
      if 32 ≤ (s.core core).spawnQ.length then s
      else ((s.modCluster (clusterOf core) fun c =>
          { c with ovf := c.ovf.setIfInBounds i (q.eraseIdx at_), ovfHead := c.ovfHead.setIfInBounds i (c.ovfHead.getD i 0 + 1) }).modCore
        core fun c => { c with spawnQ := c.spawnQ ++ [it], sluiceDue := true }).takeLaunches core i n
    | _ => s

/-- The launches that wait in the overflow ring of a core's device enter its spawn queue as far as it has room, while the
device is resident there and its messages are not saved (R334). -/
def State.ringLaunches (s : State) (core : Nat) : State :=
  if (s.core core).msgSaved then s
  else match s.ovfIndex (clusterOf core) (s.tagOf core).toNat with
    | none => s
    | some i => s.takeLaunches core i 32

/-- SLUICE_EVALUATE (R20 to R22, R334): the pattern R20 chooses fires; a parked item competes as a pattern of rank 0 behind
slot 31. -/
def execSluiceEvaluate (core : Nat) (s : State) : Out :=
  event (coreIn core) <|
    let s := s.ringLaunches core
    let u := s.modCore core fun c => { c with sluiceDue := false }
    let c := s.core core
    match choose (s.candidates core) (fun r => (c.ptr.getD r 0).toNat) with
    | some ((slot, p), ptr) =>
      let u := match ptr with
        | none => u
        | some (r, v) => u.modCore core fun c => { c with ptr := c.ptr.setIfInBounds r (BitVec.ofNat 5 v) }
      (match c.contextFor p.ctrl with
        | none => u
        | some k => u.fire core slot p k)
    | none =>
      match c.helpersFor.head?, findIndex (fun it => s.mayFire core it.rcb) c.spawnQ with
      | some k, some i =>
        (match c.spawnQ[i]? with
          | none => u
          | some it => (u.modCore core fun c => { c with spawnQ := c.spawnQ.eraseIdx i, sluiceDue := true }).startItem core k it)
      | _, _ => u

/-! ## Work started without a pattern (R27, R28, R229 to R232) -/

/-- The cores within reach of a hint (R28). -/
def State.reach (s : State) (hint radius : Nat) : List Nat := (spawnRoute hint hint radius).filter s.inPound

/-- SPAWN (R28, R116, R230, R400). -/
def execSpawn (o : SpawnW) : State → Out :=
  issue { srcs := (.x o.hint, false) :: (.x o.ra, o.ea) :: (payloadRegs o.mp o.rb (o.n.toNat + 1)).map fun r => (r, false) } fun s =>
    let h := s.ctx.readX o.hint
    let entry := s.ctx.readX o.ra
    let hint := bits h 14 0
    let r := s.ctx.region
    let radius := if h.getLsbD 20 then bits h 19 16 else r.radius.toNat
    if entry.toNat % 4 ≠ 0 then .fault s (atAddr .align entry)
    else if !s.inPound hint then .fault s (plain .windowBounds)
    else s.budgeted fun s =>
      let (cv, s) := s.coverNow
      let sc := (s.reach hint radius).foldl (fun a c => widest a (smallestScope s.cur.1 c)) (smallestScope s.cur.1 hint)
      let it : SpawnItem := ⟨.spawn, entry, r.rcb, s.ctx.runWords o.mp o.rb (o.n.toNat + 1), s.cur.1, hint, radius, r.errCh,
        s.tagOf s.cur.1, sc, cv⟩
      s.place ⟨.spawn it, s.cur.2, sc, cv, none, 0⟩ .done

/-- HSTART (R27, R231, R400): the lowest free helper, or a wait at the HSTART; a helper's raises ILLEGAL. -/
def execHstart (o : HstartW) : State → Out :=
  issue { srcs := (.x o.ra, o.ea) :: (payloadRegs o.mp o.rb (o.n.toNat + 1)).map fun r => (r, false), dests := [.x o.rd] } fun s =>
    let entry := s.ctx.readX o.ra
    if s.cur.2 ≠ 0 then .fault s (plain .illegal)
    else if entry.toNat % 4 ≠ 0 then .fault s (atAddr .align entry)
    else s.budgeted fun s =>
      match (if s.me.stopping then none else s.me.freeHelpers.head?) with
      | none => .wait (s.modCtx fun c => { c with claim := true })
      | some k =>
        let (cv, s) := s.coverNow
        let ws := s.ctx.runWords o.mp o.rb (o.n.toNat + 1)
        let s := s.startBody s.cur.1 k
          { entry := entry
            rcb := s.ctx.rcbptr
            x4 := 0
            x5 := 0
            m := ws
            views := []
            mstat := mstatOf .hstart 0 [(.data, .words ws)]
            scope := .core
            cover := cv }
        .done (s.modCtx fun c => { c.writeX o.rd (BitVec.ofNat 64 k) with claim := false })

/-- The word HSTAT gives of a core (R232). -/
def Core.hstat (c : Core) : Word :=
  let live := ((List.range 11).filter fun k => (c.ctx k).state != .free).foldl (fun a k => a + 2 ^ k) 0
  BitVec.ofNat 64 (c.spill.length * 2 ^ 48 + c.outbox.length * 2 ^ 40 + c.spawnQ.length * 2 ^ 32 +
    c.freeHelpers.length * 2 ^ 16 + live)

/-- HSTAT (R232). -/
def execHstat (rd : BitVec 5) : State → Out :=
  issue { dests := [.x rd] } fun s =>
    let c := s.me
    .done (s.modCtx (·.writeX rd c.hstat))

/-- HSTART_RETRY (R231): a control context that waits for a helper issues its HSTART again when one is free. -/
def execHstartRetry (core : Nat) (s : State) : Out :=
  event (coreIn core) <|
    let c := s.core core
    if c.hstartWaits && !c.stopping && !c.freeHelpers.isEmpty then s.modCtxOf core 0 fun c => { c with state := .running } else s

/-- An item that found no place goes back to its spawner's error channel (R28, R34). -/
def State.returnItem (s : State) (core : Nat) (it : SpawnItem) : State :=
  s.undeliver core ⟨0, .data, .words it.words, Config.chip, it.spawner, it.scope, it.cover, it.errCh, it.rcb, false,
    it.tag⟩

/-- Whether the sluice of a core claims a helper: for a pattern that does not take the control context, or for a parked item
(R22). -/
def State.sluiceClaims (s : State) (core : Nat) : Bool :=
  (s.candidates core).any (fun p => !p.2.ctrl) || (s.core core).spawnQ.any fun it => s.mayFire core it.rcb

/-- Whether a walking item may take a helper of a core (R22, R28): the core is in its pound and within reach, and a helper is
free that neither an HSTART nor the sluice claims. -/
def State.takesItem (s : State) (core : Nat) (it : SpawnItem) : Bool :=
  let c := s.core core
  let near := (max (coreX core) (coreX it.hint) - min (coreX core) (coreX it.hint)) +
    (max (coreY core) (coreY it.hint) - min (coreY core) (coreY it.hint))
  decide (near ≤ it.radius) && s.tagOf core == it.tag && !c.stopping && !c.halted && c.killing.isNone &&
    decide (num (s.sluiceClaims core) < c.helpersFor.length)

/-- SPAWN_ITEM_ARRIVE (R28, R38): walker `k` is taken by the core it has reached, goes on to the next, or parks in the hint
core's spawn queue; with the queue full it is returned, and so it is where the hint core has saved its messages or holds
another device (entry 79). -/
def execSpawnItemArrive (k : Nat) (s : State) : Out :=
  .next <| match s.walkers[k]? with
    | none => s
    | some w =>
      let it := w.item
      let gone : State := { s with walkers := s.walkers.eraseIdx k }
      let h := s.core it.hint
      match (if h.stopping then [] else w.route) with
      | c :: rest =>
        if s.takesItem c it then
          (match (s.core c).helpersFor.head? with
            | none => s
            | some x => gone.startItem c x it)
        else { s with walkers := s.walkers.set k ⟨it, rest⟩ }
      | [] =>
        if h.spawnQ.length < 32 && s.tagOf it.hint == it.tag && !h.msgSaved then
          gone.modCore it.hint fun c => { c with spawnQ := c.spawnQ ++ [it], sluiceDue := true }
        else gone.returnItem it.hint it

end Sys2Proof.Machine
end

