-- ==== Sys2Proof/Machine/Save.lean ====
section
/-!
DEFINITION. The debug window's image of a context, the save area, the watchdog and the saving and resuming of a pound (R37 to R39, R362, R366 to R369).
-/

namespace Sys2Proof.Machine

/-! ## The debug window's view of a context (R362) -/

/-- STATE in the debug window. -/
def CtxState.code : CtxState → Nat
  | .free => 0 | .loading => 1 | .running => 2 | .waiting => 3 | .xstall => 4 | .frozen => 5 | .saved => 6

/-- Whether an address lies among the words a context's sequence has captured. -/
def RepSeq.covers (q : RepSeq) (pc : Word) : Bool := decide (q.at_ ≤ pc) && decide ((pc - q.at_).toNat < 4 * q.words.length)

/-- REP in the debug window. -/
def Ctx.repWord (c : Ctx) : Word :=
  match c.rep with
  | none => 0
  | some q => BitVec.ofNat 64 (2 ^ 63 + q.index % 8 * 2 ^ 60 + q.pass % 2 ^ 32)

/-- SPC in the debug window: the scalar PC while a sequence is active. -/
def Ctx.scalarPc (c : Ctx) : Word :=
  match c.rep with
  | none => c.pc
  | some q => if c.state = .frozen && q.covers c.pc then q.spc else c.pc

/-- The word of a view's image at one of its three places (R71). -/
def View.word (v : View) (i : Nat) : Word :=
  match i with
  | 0 => v.base | 1 => v.middle | _ => v.limits

/-- A context field of the window at an offset from 0x040 to 0x4DF (R362); `open_` gives what the spec leaves open: how a
stream register's fields stand in its 32 bytes. -/
def Ctx.window (c : Ctx) (open_ : Nat → Word) (off : Nat) : Word :=
  if off < 0x100 then
    match off with
    | 0x040 => c.pc
    | 0x048 => BitVec.ofNat 64 c.state.code
    | 0x050 => c.feWord
    | 0x058 => c.mstat
    | 0x060 => c.fpctl
    | 0x068 => c.fpflags
    | 0x070 => c.wdleft.setWidth 64
    | 0x078 => c.repWord
    | 0x080 => c.scalarPc
    | 0x088 => c.entry
    | 0x090 => c.rcbptr
    | 0x098 => c.fpc
    | 0x0A0 => c.start4
    | 0x0A8 => c.start5
    | _ => 0
  else if off < 0x200 then c.readX (BitVec.ofNat 5 ((off - 0x100) / 8))
  else if off < 0x300 then ((c.readV (BitVec.ofNat 4 ((off - 0x200) / 16))) >>> (off / 8 % 2 * 64)).setWidth 64
  else if off < 0x380 then c.readM ((off - 0x300) / 8)
  else if off < 0x440 then (c.readW (BitVec.ofNat 3 ((off - 0x380) / 24))).word ((off - 0x380) / 8 % 3)
  else if off < 0x4C0 then open_ off
  else if off < 0x4E0 then c.owe.getD ((off - 0x4C0) / 8) 0
  else 0

/-! ## The system part of a local store (R12, R48, R352, R367) -/

/-- The header of a ring entry (R367). -/
def headerWord (m : Msg) (seq : BitVec 32) (open_ : Word) : Word :=
  let st : Nat := match m.status with
    | .data => 0 | .error => 1 | .undeliv => 2 | .notice => 3
  let (form, cnt, op) : Nat × Nat × Nat := match m.payload with
    | .words ws => (0, ws.length - 1, 0)
    | .view _ => (1, 2, 0)
    | .ladle op ws => (2, ws.length - 1, match op with
      | .pm => 0 | .iadd => 1 | .f32 => 2 | .f64 => 3)
  let from_ := if m.sender < Config.workers then m.sender
    else if m.sender < outsider then clusterOf m.sender else bits open_ 14 0
  BitVec.ofNat 64 (st * 2 ^ 62 + form * 2 ^ 60 + cnt * 2 ^ 58 + op * 2 ^ 56 + m.chip.toNat * 2 ^ 48 + from_ * 2 ^ 33 + seq.toNat)

/-- The payload words of a message as a ring holds them (R12). -/
def Payload.ringWords : Payload → List Word
  | .words ws | .ladle _ ws => ws
  | .view v => [v.base, v.middle, v.limits]

/-- The ring entry at a place of a core's ring area, counted in entries from SYSBASE. -/
def Core.entryAt (c : Core) (e : Nat) : Option RingEntry :=
  ((List.range 64).findSome? fun i =>
    let k := c.chan i
    let n := k.nm1.toNat + 1
    if k.alloc && k.kind == .fifo && decide (k.start ≤ e) && decide (e < k.start + n) then
      some k.ring[(e - k.start + n - k.headAt) % n]?
    else none).join

/-- A word of the side log's image (R352). -/
def SideEntry.word (e : SideEntry) (i : Nat) : Word :=
  let sc : Nat := match e.scope with
    | .core => 0 | .clus => 1 | .stack => 2 | .dev => 3 | .sys => 4
  match i with
  | 0 => BitVec.ofNat 64 (2 ^ 63 + e.op.toNat * 2 ^ 60 + e.ctx % 16 * 2 ^ 56 + e.mask.toNat * 2 ^ 40 +
      (e.atom.elim 0 fun a => a.fn.toNat * 2 ^ 35 + a.ty.toNat * 2 ^ 33 + sc * 2 ^ 30) + num e.view.isSome * 2 ^ 29 +
      (e.view.elim 0 fun v => v.2.toNat))
  | 1 => e.va
  | 2 => e.data.setWidth 64
  | _ => (e.data >>> 64).setWidth 64

/-- A word of a core's local store from SYSBASE on: rings, side log and spill ring; `open_` gives what the spec leaves open:
stale bytes and the layout of a spill entry. -/
def Core.sysWord (c : Core) (open_ : Nat → Word) (off : Nat) : Word :=
  if off < Config.ringEnd then
    let e := (off - c.sysbase) / 40
    match c.entryAt e with
    | none => open_ off
    | some r =>
      let i := (off - c.sysbase) / 8 % 5
      if i = 0 then headerWord r.msg r.seq (open_ off) else r.msg.payload.ringWords.getD (i - 1) (open_ off)
  else if off < 0x5800 then
    match c.sideLog[(off - Config.ringEnd) / 32]? with
    | none => if off % 32 = 0 then open_ off &&& 0x7FFFFFFFFFFFFFFF else open_ off
    | some e => e.word (off / 8 % 4)
  else open_ off

/-! ## The save area (R366) -/

/-- The pattern word of a slot (R226). -/
def Pattern.word (p : Pattern) (slot : Nat) : Word :=
  BitVec.ofNat 64 (((p.chans.mapIdx fun i c => c.toNat * 2 ^ (14 + 6 * i)).sum) + (p.chans.length - 1) * 2 ^ 38 +
    p.rank.toNat * 2 ^ 11 + num p.fair * 2 ^ 10 + num p.ctrl * 2 ^ 9 + slot)

/-- The words of a channel slot's image. -/
def ChanSlot.saveWord (k : ChanSlot) (second : Bool) : Word :=
  let kind : Nat := match k.kind with
    | .fifo => 0 | .ladle => 1 | .relay => 2
  let op : Nat := match k.op with
    | .pm => 0 | .iadd => 1 | .f32 => 2 | .f64 => 3
  if second then (if k.kind = .relay then k.target else BitVec.ofNat 64 (k.count % 512))
  else BitVec.ofNat 64 (kind * 2 ^ 62 + op * 2 ^ 60 + k.gen.toNat * 2 ^ 41 + k.nm1.toNat * 2 ^ 33 + k.start % 512 * 2 ^ 24 +
    k.headAt % 256 * 2 ^ 16 + k.ring.length % 512 * 2 ^ 7 + num k.presented.isSome * 2 ^ 6 + num k.alloc * 2 ^ 5)

/-- A word of a core's record; `cut` is the number of the cut it is written for. -/
def Core.recordWord (c : Core) (cut : Option Nat) (open_ : Nat → Word) (off : Nat) : Word :=
  if off < 0x040 then
    match off with
    | 0x00 => BitVec.ofNat 64 (2 ^ 63 + (cut.elim 0 fun n => 2 ^ 62 + n % 2 ^ 16 * 2 ^ 32) + c.arrivals.toNat)
    | 0x08 => BitVec.ofNat 64 ((List.range 8).map fun i => (c.ptr.getD i 0).toNat * 2 ^ (5 * i)).sum
    | 0x10 => c.hstat
    | 0x18 => BitVec.ofNat 64 (c.sideLog.length * 2 ^ 32 + c.atomQ.length * 2 ^ 16)
    | _ => open_ off
  else if off < 0x440 then (c.chan ((off - 0x040) / 16)).saveWord (off / 8 % 2 == 1)
  else if off < 0x740 then
    let i := (off - 0x440) / 24
    match c.pat i with
    | none => open_ off
    | some p => match (off - 0x440) / 8 % 3 with
      | 0 => p.word i | 1 => p.entry | _ => p.region
  else open_ off

/-- A word of a core's extension below its record and cut log; `open_` gives what the spec leaves open: the layout of spawn
items, outbox and atomic-queue entries, and padding. -/
def Core.extWord (c : Core) (open_ : Nat → Word) (off : Nat) : Word :=
  if off < 0x3700 then
    if off % 1280 + 0x40 < 0x4E0 then (c.ctx (off / 1280)).window (fun o => open_ (off / 1280 * 1280 + o)) (off % 1280 + 0x40)
    else open_ off
  else if off < 0x5900 then
    let t := c.tile ((off - 0x3700) / 1088)
    let i := (off - 0x3700) % 1088 / 8
    if i < 135 then t.read i else open_ off
  else if off < 0x5910 then BitVec.ofNat 64 (ofBytes ((c.codebook.toList.drop (off - 0x5900)).take 8))
  else if 0x6600 ≤ off && off < 0x6E00 then
    let k := c.chan ((off - 0x6600) / 32)
    match off / 8 % 4 with
    | 0 => k.part0
    | 1 => k.part1
    | i => (k.presented.elim [] fun e => e.msg.payload.ringWords).getD (i - 2) (open_ off)
  else if 0x6E00 ≤ off && off < 0x7000 then (c.chan ((off - 0x6E00) / 8)).region
  else if 0x7000 ≤ off && off < 0x7000 + (0x8000 - c.sysbase) then c.sysWord (fun o => open_ (0x10000 + o)) (off - 0x7000 + c.sysbase)
  else open_ off

/-- A run of words of an image as bytes. -/
def imageBytes (w : Nat → Word) (lo n : Nat) : List Byte :=
  (List.range (n / 8)).flatMap fun i => toBytes 8 (w (lo + 8 * i)).toNat

/-- Values for what an image leaves open, and the state that has drawn them (entry 6). -/
def State.openImage (s : State) : (Nat → Word) × State :=
  let base := s.freeCtr
  (fun o => Config.freeValue (base + o), { s with freeCtr := base + 2 ^ 17 })

/-- A core's place among its pound's cores: 64 for each cluster before its own, and its index in its cluster (R362, R366). -/
def State.saveIndex (s : State) (core : Nat) : Nat :=
  let k := clusterOf core
  match s.poundOf k with
  | none => indexInCluster core
  | some p => 64 * (nodeClusters p.record.node).findIdx (· == k) + indexInCluster core

/-- The key slot of a pound's own writes to a stack's DRAM: its lowest there (R366, R384). -/
def State.ownKey (s : State) (core stack : Nat) : Nat :=
  match s.poundOf (clusterOf core) with
  | none => 0
  | some p => lowestOne 64 (p.record.keyMasks.getD stack 0).toNat % 64

/-- Bytes written at a physical address under a key slot. -/
def State.pinWrite (s : State) (pa slot : Nat) (bs : List Byte) : State :=
  let s := (List.range (bs.length / 128 + 1)).foldl (fun s i => s.rekey (lineOf pa + 128 * i) slot) s
  { s with mem := writeMem s.mem pa bs }

/-- Where a core's record lies in its cluster's SYS banks, as a place of `State.mem` (R366). -/
def State.recordAt (s : State) (core : Nat) : Nat :=
  let r := s.devReg (.saveBase (clusterOf core))
  csKey (clusterOf core) (bits r 19 16) (bits r 15 0) + 2048 * indexInCluster core

/-- Where a core's extension lies for a device (R366). -/
def State.extAt (s : State) (core : Nat) (tag : BitVec 16) : Nat :=
  (s.devReg (.saveXBase tag.toNat)).toNat + 65536 * s.saveIndex core

/-- The image of one context written to the extension of the device its core holds. -/
def State.saveImage (s : State) (core k : Nat) : State :=
  let (o, s) := s.openImage
  let pa := s.extAt core (s.core core).devTag + 1280 * k
  s.pinWrite pa (s.ownKey core (paStack pa)) (imageBytes ((s.core core).extWord o) (1280 * k) 1280)

/-- The record and the rest of the extension of a core written where a save puts them. -/
def State.saveMessages (s : State) (core : Nat) : State :=
  let (o, s) := s.openImage
  let c := s.core core
  let pa := s.extAt core c.devTag
  let s := s.pinWrite (pa + 0x3700) (s.ownKey core (paStack pa)) (imageBytes (c.extWord o) 0x3700 (0xE000 - 0x3700))
  { s with mem := writeMem s.mem (s.recordAt core) (imageBytes (c.recordWord none o) 0 2048) }

/-! ## Stopping a context at a word's boundary (R162, R363, R369) -/

/-- A context put back to the first HINT of a group whose target has not issued (R162), its sequence too. -/
def Ctx.rollBack (c : Ctx) : Ctx :=
  { c with
    pc := c.faultPc
    group := none
    rep := c.rep.map fun q =>
      match q.group with
      | none => q
      | some g => { q with index := (g.start - q.at_).toNat / 4, group := none } }

/-- Whether a context of a core is inside a word that has begun to act: a started gang operation, a drain, a CBRET that its
bank has been asked for, a wait on a bank, a residue configuration or a page. -/
def Core.midWord (c : Core) (k : Nat) : Bool :=
  let x := c.ctx k
  x.cbRet.isSome || x.arrival.any (fun a => a.phase != .waiting) || c.drain.any (fun d => d.ctx == k && d.since == x.since) ||
    c.bankWait.any (·.1 == k) || c.acfgWait.any (·.ctx == k) || x.pends.any fun p => p.isRead && p.open_

/-- A context stopped without a fault: FROZEN, no packet sent (R363 STOP). -/
def Ctx.halt (c : Ctx) : Ctx := { c.rollBack.freeze with stopReq := false }

/-- Whether a context that STOP has named may freeze now: between groups, or at a group whose target waits (R363). -/
def Core.mayStop (c : Core) (k : Nat) : Bool :=
  let x := c.ctx k
  (x.state == .waiting || (x.state == .running && x.group.isNone && x.rep.all (·.group.isNone))) && !c.midWord k

/-! ## The watchdog and the end of a slice (R37 to R39, R369) -/

/-- Whether a context is live (R26). -/
def Ctx.isLive (c : Ctx) : Bool := c.state != .free

/-- The next live context of a core to be saved from a number on (R369). -/
def Core.nextSave (c : Core) (from_ : Nat) : Option Nat :=
  (List.range 11).find? fun k => decide (from_ ≤ k) && (c.ctx k).isLive && !c.savedCtx.getLsbD k

/-- R39: every live context reported CONTEXT_LOST, each packet a release of its context (R117), and the core killed with that cause (R364). -/
def State.resetCore (s : State) (core k : Nat) : State :=
  let s := ((List.range 11).filter fun j => ((s.core core).ctx j).isLive).foldl (fun s j =>
    let x := (s.core core).ctx j
    s.packetOf core j (packetWords core j ⟨.contextLost, BitVec.ofNat 24 (num (j == k)), 0⟩ x.faultPc x.region.domain x.faultWord)) s
  s.modCore core fun c => { c with killing := some Cause.contextLost.code, saving := none }

/-- WATCHDOG_EXPIRE (R37, R39, R369): a run counter that has reached zero. The context is saved and FROZEN with a WATCHDOG
packet, and a BANKMODE it waits in is to be issued again (R219); waiting for its turn of a save, it is saved so in its turn; in
its own save, the core resets. -/
def execWatchdogExpire (core ctx : Nat) (s : State) : Out :=
  event (coreIn core && decide (ctx < 11)) <|
    let c := s.core core
    let x := c.ctx ctx
    if x.wdleft ≠ 0 || !(x.state == .running || x.state == .waiting) || x.forced || c.killing.isSome then s
    else if !c.ending then
      ((((s.postEnergy core).flushCounters core ctx).modCtxOf core ctx Ctx.rollBack).modCore core fun c =>
        { c with bankWait := c.bankWait.filter fun w => w.1 != ctx }).raiseOf core ctx (plain .watchdog) |>.saveImage core ctx
    else if c.saving.any (·.1 == ctx) then s.resetCore core ctx
    else s.modCtxOf core ctx fun x => { x with forced := true }

/-- SLICE_END_SIGNAL (R38 step 1): the sluice of a core stops, and its grace interval begins. -/
def execSliceEndSignal (core : Nat) (s : State) : Out :=
  event (coreIn core) <|
    match (s.core core).signal with
    | none => s
    | some g => s.modCore core fun c => { c with signal := none, stopping := true, grace := g }

/-- Whether a core's array operations and drains have completed (R264). -/
def Core.arraysIdle (c : Core) : Bool := c.tiles.toList.all (fun t => !t.busy) && c.drain.all fun d => d.phase != .busy

/-- GRACE_EXPIRE (R38 step 3, R269, R369): the grace interval is over; contexts stop issuing, arrivals at the barrier that wait
are withdrawn, and the first live context's save begins. -/
def execGraceExpire (core : Nat) (s : State) : Out :=
  event (coreIn core) <|
    let c := s.core core
    if !c.stopping || c.ending || c.grace ≠ 0 then s
    else s.modCore core fun c =>
      { c.modAll (fun x => { x with arrival := x.arrival.filter fun a => a.phase != .waiting }) with
        ending := true, savedCtx := 0, saving := (({ c with savedCtx := 0 } : Core).nextSave 0).map fun k => (k, 47) }

/-- A context as its save leaves it (R38, R369): SAVED at its word or its group's first HINT; a FROZEN context stays so. -/
def Ctx.save (c : Ctx) : Ctx :=
  match c.state with
  | .frozen => c
  | .xstall => { c.unstall.rollBack with state := .saved }
  | _ => { c.rollBack with state := .saved }

/-- CONTEXT_SAVE (R38 step 3, R264, R369): the save of the context whose turn it is ends, once what it issued has arrived; a
context whose watchdog ran out while it waited for its turn is FROZEN with a WATCHDOG packet; the next one's turn begins. -/
def execContextSave (core : Nat) (s : State) : Out :=
  event (coreIn core) <|
    let c := s.core core
    match c.saving with
    | none => s
    | some (k, left) =>
      let x := c.ctx k
      let waits := x.state == .loading || c.midWord k || !x.pends.isEmpty
      if left ≠ 0 || !c.arraysIdle || waits then s
      else
        let s := (s.postEnergy core).flushCounters core k
        let s := if x.forced then (s.modCtxOf core k Ctx.rollBack).raiseOf core k (plain .watchdog)
          else s.modCtxOf core k Ctx.save
        let s := (s.modCtxOf core k fun x => { x with forced := false }).saveImage core k
        s.modCore core fun c => { c with
          savedCtx := c.savedCtx ||| (1 <<< k)
          saving := (c.nextSave (k + 1)).map fun j => (j, 48) }

/-- Whether every worker core of a pound has saved its message state. -/
def State.allSaved (s : State) (p : Pound) : Bool :=
  (nodeClusters p.record.node).all fun k => (coresOfCluster k).all fun n => (s.core n).msgSaved

/-- MESSAGE_STATE_SAVE (R38 step 4, R366): after all contexts, and once what left the store buffer and the atomic queue has
performed, the core's message state is saved. The pound's device is no longer resident when its last core has done so. -/
def execMessageStateSave (core : Nat) (s : State) : Out :=
  event (coreIn core) <|
    let c := s.core core
    if !c.ending || c.saving.isSome || c.killing.isSome || c.msgSaved || !c.stores.isEmpty || !c.atomsOut.isEmpty || !c.relays.isEmpty ||
        c.sideLog.any (·.sent) then s
    else
      let s := (s.saveMessages core).modCore core fun c => { c with msgSaved := true }
      match s.poundOf (clusterOf core) with
      | none => s
      | some p =>
        if !s.allSaved p then s
        else (s.modPound p.record.node.toNat fun p => { p with resident := none }).modVd
          ((p.resident.map (·.toNat)).getD 0) fun v => { v with ending := false }

/-- What of a core belongs to the device it holds, restored from a save; the rest of the core stays its own (R366). -/
def Core.restored (own saved : Core) : Core :=
  { own with
    ctxs := saved.ctxs
    chans := saved.chans
    pats := saved.pats
    ptr := saved.ptr
    arrivals := saved.arrivals
    outbox := saved.outbox
    spill := saved.spill
    spawnQ := saved.spawnQ
    atomQ := saved.atomQ
    sideLog := saved.sideLog
    tiles := saved.tiles
    codebook := saved.codebook
    repOwner := saved.repOwner
    pairs := saved.pairs
    bankWait := saved.bankWait
    savedCtx := 0
    msgSaved := false
    stopping := false
    ending := false
    saving := none
    grace := 0
    devTag := saved.devTag
    sluiceDue := true }

/-- A core's SYSBASE as the root block of a device gives it (R48, R338); a field out of its range leaves it. -/
def State.placeSysbase (s : State) (core tag : Nat) : State :=
  let n := s.peekVa tag ((s.vd tag).root + 88) 2
  if 4 ≤ n && n ≤ 20 then s.modCore core fun c => { c with sysbase := 1024 * n } else s

/-- POUND_RESUME (R38, R48, R334, R366): a core whose device has become resident again restores what it saved, returns saved
contexts to RUNNING, where one with an empty source waits at its next issue, and lets its sluice evaluate. -/
def execPoundResume (core : Nat) (s : State) : Out :=
  event (coreIn core) <|
    let c := s.core core
    let tag := s.tagOf core
    if !c.msgSaved || tag = 0 then s
    else
      let (saved, s) := if c.devTag = tag then (c, s) else
        (lookupKey { Core.reset with devTag := tag, sysbase := c.sysbase } (tag.toNat, core) s.saves,
          { s with saves := insertKey (c.devTag.toNat, core) c s.saves })
      let s := (s.modCore core fun c => (c.restored saved).modAll fun x =>
        if x.state = .saved then { x with state := .running } else x).placeSysbase core tag.toNat
      s.ringLaunches core

end Sys2Proof.Machine
end

