-- ==== Sys2Proof/Machine/Keeper.lean ====
section
/-!
DEFINITION. What a keeper does to a core: the debug window and its commands, KILL, and flights (R362 to R365).
-/

namespace Sys2Proof.Machine

/-! ## Resuming, stepping and restarting a context (R363) -/

/-- THE RETURN FROM A FAULT (R40 step 4, R363 RESUME): a FROZEN context goes on in RUNNING at its PC, where one with an empty
source waits at its next issue; a PC on a captured word carries its sequence on from that word, and the scalar words from
theirs. `slot` holds the group that runs first in place of the word at the PC. -/
def resumeCtx (slot : List Word32) (step : Bool) (c : Ctx) : Ctx :=
  if c.state ≠ .frozen then c
  else
    let c := { c with state := .running, slot := slot, stepping := step, stopReq := false }
    match c.rep with
    | none => c
    | some q =>
      if q.covers c.pc then { c with pc := q.spc, rep := some { q with index := (c.pc - q.at_).toNat / 4, group := none } } else c

/-- Whether a word is a HINT (R153). -/
def isHintWord (w : Word32) : Bool := w.toNat / 2 ^ 26 == 0x3F

/-- The group in a step slot: its HINT words and its target (R362). -/
def slotGroup (ws : List Word32) : List Word32 := ws.takeWhile isHintWord ++ (ws.dropWhile isHintWord).take 1

/-- The context a core's window selects, when it is one (R362). -/
def Core.selected (c : Core) : Option Nat := if c.ctxsel.toNat ≤ 10 then some c.ctxsel.toNat else none

/-- A command on the selected context of a core. -/
def State.onSelected (s : State) (core : Nat) (f : Core → Nat → Ctx → Ctx) : State :=
  match (s.core core).selected with
  | none => s
  | some k => s.modCtxOf core k (f (s.core core) k)

/-- STOP (R363): the context freezes now if it stands at a group's boundary, and otherwise at its next. -/
def stopCmd (c : Core) (k : Nat) (x : Ctx) : Ctx :=
  match x.state with
  | .free | .frozen | .saved => x
  | _ => if c.mayStop k then x.halt else { x with stopReq := true }

/-- RESUME and STEP (R363). -/
def resumeCmd (step slot : Bool) (c : Core) (_ : Nat) (x : Ctx) : Ctx :=
  resumeCtx (if slot then slotGroup c.slotMem.toList else []) step x

/-- Whether a producer is a view request whose answer has not come (R75). -/
def Pend.asksView (p : Pend) : Bool :=
  match p.dest with
  | .w _ | .ww _ _ => true
  | _ => false

/-- RESTART (R24, R363): the body starts over with its message registers and views as they stand: a view register that waits
for the Colander's answer still does (entry 78). -/
def restartCmd (_ : Core) (_ : Nat) (x : Ctx) : Ctx :=
  match x.state with
  | .free | .loading => x
  | _ =>
    { x with
      pc := x.entry
      x := (((Vector.replicate 32 (0 : Word)).set 3 x.rcbptr).set 4 x.start4).set 5 x.start5
      v := Vector.replicate 16 0
      q := Vector.replicate 4 Stream.off
      xfull := BitVec.allOnes 32
      vfull := BitVec.allOnes 16
      wfull := ((x.pends.filter Pend.asksView).foldl (fun (c : Ctx) p => c.markDest p.dest false) ({ x with wfull := BitVec.allOnes 8 } : Ctx)).wfull
      state := .running
      fpctl := 0
      fpflags := 0
      wdleft := x.region.wdog
      owe := Vector.replicate 4 0
      fpc := 0
      group := none
      rep := none
      pends := x.pends.filter Pend.asksView
      stall := none
      deferred := []
      arrival := none
      stepping := false
      stopReq := false
      slot := []
      cbRet := none
      claim := false
      forced := false }

/-- A restarted context no longer owns its core's sequencer. -/
def State.freeSequencer (s : State) (core : Nat) : State :=
  s.modCore core fun c => { c with repOwner := c.repOwner.filter fun k => (c.ctx k).rep.isSome }

/-- STOP (R363). -/
def execStop (core : Nat) (s : State) : Out := event (coreIn core) (s.onSelected core stopCmd)
/-- RESUME (R363). -/
def execDebugResume (core : Nat) (slot : Bool) (s : State) : Out :=
  event (coreIn core) (s.onSelected core (resumeCmd false slot))
/-- STEP (R363): the step that lets the group issue freezes the context again (`State.settleStep`). -/
def execStep (core : Nat) (slot : Bool) (s : State) : Out :=
  event (coreIn core) (s.onSelected core (resumeCmd true slot))
/-- RESTART (R363). -/
def execRestart (core : Nat) (s : State) : Out :=
  event (coreIn core) ((s.onSelected core restartCmd).freeSequencer core)

/-! ## KILL (R364) -/

/-- Whether what step 1 of R364 performs has performed (R117). -/
def State.killReady (s : State) (core : Nat) : Bool :=
  let c := s.core core
  c.stores.isEmpty && c.atomQ.isEmpty && c.atomsOut.isEmpty && c.spill.all Spill.isOut &&
    (List.range 11).all fun k => s.performed .dev false ⟨core, k, s.seq⟩

/-- Step 3: the views that registers, outgoing messages, ring entries and overflow entries of a core hold are dropped. -/
def State.killViews (s : State) (core : Nat) : State :=
  let c := s.core core
  let s := ((List.range 11).flatMap fun k => (c.ctx k).w.toList).foldl (fun s v => s.dropViewAt core v) s
  let outs := c.outbox ++ c.spill.filterMap fun e => match e with
    | .out e => some e
    | .atom _ => none
  let s := outs.foldl (fun s e => match e.item with
    | .msg m => s.dropPayload core m.payload
    | _ => s) s
  let mine (e : OvfEntry) : Bool := match e with
    | .msg home _ => home == core
    | .launch _ _ => false
  let s := ((s.cluster (clusterOf core)).ovf.toList.flatMap fun q => q.filter mine).foldl (fun s e => match e with
    | .msg _ m => s.dropPayload core m.payload
    | .launch _ _ => s) s
  (s.modCluster (clusterOf core) fun k => { k with ovf := k.ovf.map fun q => q.map fun e => match e with
    | .msg home m => if home = core then (match m.payload with
        | .view _ => .msg home { m with payload := .view View.null }
        | _ => e) else e
    | e => e }).modCore core fun c => { c with tiles := c.tiles.mapIdx fun _ t => { t with valid := false } }

/-- The message that stands in for one a kill discards: status ERROR and one word (R364 step 4). -/
def killWord (core ctx cause : Nat) : Word :=
  BitVec.ofNat 64 (Config.chip.toNat * 2 ^ 56 + core % 2 ^ 15 * 2 ^ 41 + ctx * 2 ^ 37 + cause % 64 * 2 ^ 31)

/-- Step 4 for one entry of the outbox or the spill ring, in issue order; a notice goes once its view is idle (R80). -/
def State.killEntry (s : State) (core cause : Nat) (e : OutEntry) : State :=
  let err (m : Msg) : Msg := { m with status := .error, payload := .words [killWord core 15 cause] }
  match e.item with
  | .msg m => s.admitMsg core (err m)
  | .svc m =>
    if nameGen m.name = 0 then s.undeliver core (err m)
    else { s with flight := s.flight ++ [⟨core, Config.keeperOf (clusterOf core), err m, (s.core core).mark, (s.tagOf core).toNat⟩] }
  | .spawn it => s.returnItem core it
  | .view _ (.notice h r i) => s.modCore core fun c => { c with owed := c.owed ++ [⟨h, r, i, e.seq⟩] }
  | .view _ _ => s
  | .engine t g c => s.modStack t (·.modEngine g fun x => { x with queue := x.queue ++ [.cmd c] })
  | .weir t w => s.modStack t fun x => { x with weirQ := x.weirQ ++ [w] }
  | .marker n => s.modCore core fun c =>
      { c with cut := c.cut.map (fun x => if x.number = n then { x with injected := true } else x) }

/-- Step 4 for the replies a context owes (R190). -/
def State.killOwed (s : State) (core cause k : Nat) : State :=
  let x := (s.core core).ctx k
  if !x.isLive then s
  else (x.owe.toList.filter (· != 0)).foldl (fun s n => s.admitMsg core
    ⟨n, .error, .words [killWord core k cause], Config.chip, core, .core, [], x.region.errCh, x.region.rcb, false,
      s.tagOf core⟩) s

/-- Step 5 for a parked item. -/
def State.killParked (s : State) (core : Nat) (it : SpawnItem) : State :=
  if it.origin = .launch then s.countLost it.tag.toNat (s.vd it.tag.toNat).root else s.returnItem core it

/-- A context as a kill leaves it (R364 step 7). -/
def Ctx.killed (c : Ctx) : Ctx :=
  { c.ended with
    w := Vector.replicate 8 View.null
    cbRet := none
    claim := false
    forced := false
    stopReq := false
    startCover := [] }

/-- Steps 2 to 7 of R364. -/
def State.killCore (s : State) (core cause : Nat) : State :=
  let s := (List.range 11).foldl (fun s k => s.flushCounters core k) (s.postEnergy core)
  let s := s.modCore core fun c => { c with sideLog := [] }
  let s := s.killViews core
  let c := s.core core
  let s := (c.outbox ++ c.spill.filterMap fun e => match e with
    | .out e => some e
    | .atom _ => none).foldl (fun s e => s.killEntry core cause e) s
  let s := (List.range 11).foldl (fun s k => s.killOwed core cause k) s
  let s := c.spawnQ.foldl (fun s it => s.killParked core it) s
  let s := (List.range 64).foldl (fun s i => if ((s.core core).chan i).alloc then s.freeChannel core i else s) s
  s.modCore core fun c =>
    { c.modAll Ctx.killed with
      outbox := []
      spill := []
      spawnQ := []
      pats := Vector.replicate 32 none
      tiles := (match c.drain with
        | none => c.tiles
        | some d => (c.modTile d.tile fun t => { t with busy := false }).tiles)
      drain := none
      repOwner := none
      bankWait := none
      pairs := []
      savedCtx := 0
      saving := none
      killing := none
      sluiceDue := true }

/-- A kill (R117, R364): the core's contexts stop issuing; once its stores and atomics have performed, the other steps are made.
KILLING stays set, with its cause, until then. -/
def State.kill (s : State) (core cause : Nat) : State :=
  let k := (s.core core).killing.getD cause
  let s := s.modCore core fun c => { c with killing := some k }
  if s.killReady core then s.killCore core k else s

/-- KILL (R364). -/
def execKill (core cause : Nat) (s : State) : Out :=
  event (coreIn core) <|
    s.kill core (cause % 64)

/-! ## Writes to the window (R362) -/

/-- Half `hi` of a vector register's value set. -/
def setHalf (v : Vec) (hi : Bool) (w : Word) : Vec := if hi then w ++ v.setWidth 64 else (v >>> 64).setWidth 64 ++ w

/-- One of the three words of a view set (R71). -/
def View.setWord (v : View) (i : Nat) (w : Word) : View :=
  match i with
  | 0 => { v with base := w }
  | 1 => { v with
      region := w.extractLsb' 40 24, handle := w.extractLsb' 8 32, canW := w.getLsbD 7, canR := w.getLsbD 6
      canA := w.getLsbD 5, status := w.extractLsb' 2 3 }
  | _ => { v with hi := w.extractLsb' 32 32, lo := w.setWidth 32 }

/-- A write to an empty x register fills it in any state and lets a context that waits go on (R195, R362). -/
def Ctx.answerX (c : Ctx) (i : BitVec 5) (v : Word) : Ctx := ((c.writeX i v).mark (.x i) true).wake

/-- A context field written while the context is FROZEN or SAVED (R362). STATE, FPC, START and the streams' bytes do not
change; what becomes a PC is a multiple of 4 (R142, entry 58). -/
def Ctx.setWindow (c : Ctx) (off : Nat) (v : Word) : Ctx :=
  if off < 0x100 then
    match off with
    | 0x040 => { c with pc := wordAlign v }
    | 0x050 => { c with xfull := v.setWidth 32 ||| 1, vfull := v.extractLsb' 32 16, wfull := v.extractLsb' 48 8 }
    | 0x058 => { c with mstat := v &&& 0xF8FCFFFF }
    | 0x060 => { c with fpctl := fpctlWrite c.fpctl v }
    | 0x068 => { c with fpflags := fpflagsWrite v }
    | 0x070 => { c with wdleft := v.setWidth 32 }
    | 0x078 => { c with rep := (c.rep.bind fun q =>
        if v.getLsbD 63 then some { q with index := bits v 62 60, pass := bits v 31 0, group := none } else none) }
    | 0x080 => (match c.rep with
      | none => c
      | some q => if c.state = .frozen && q.covers c.pc then { c with rep := some { q with spc := wordAlign v } }
        else { c with pc := wordAlign v })
    | 0x088 => { c with entry := wordAlign v }
    | 0x090 => { c with rcbptr := v }
    | _ => c
  else if off < 0x200 then
    let i := BitVec.ofNat 5 ((off - 0x100) / 8)
    if c.full (.x i) then c.writeX i v else c.answerX i v
  else if off < 0x300 then
    let i := BitVec.ofNat 4 ((off - 0x200) / 16)
    if c.full (.v i) then c.writeV i (setHalf (c.readV i) (off / 8 % 2 == 1) v) else c
  else if off < 0x380 then { c with m := c.m.setIfInBounds ((off - 0x300) / 8) v }
  else if off < 0x440 then
    let i := BitVec.ofNat 3 ((off - 0x380) / 24)
    if c.full (.w i) then c.writeW i ((c.readW i).setWord ((off - 0x380) / 8 % 3) v) else c
  else if 0x4C0 ≤ off && off < 0x4E0 then { c with owe := c.owe.setIfInBounds ((off - 0x4C0) / 8) v }
  else c

/-- A ring entry with one of its five words set: status, sender and number by the header, and the payload words it has. -/
def RingEntry.setWord (e : RingEntry) (i : Nat) (v : Word) : RingEntry :=
  if i = 0 then
    let st : Status := match bits v 63 62 with
      | 0 => .data | 1 => .error | 2 => .undeliv | _ => .notice
    { e with seq := v.setWidth 32, msg := { e.msg with status := st, chip := v.extractLsb' 48 8, sender := bits v 47 33 } }
  else
    let p := match e.msg.payload with
      | .words ws => .words (ws.set (i - 1) v)
      | .ladle op ws => .ladle op (ws.set (i - 1) v)
      | .view w => if i ≤ 3 then .view (w.setWord (i - 1) v) else .view w
    { e with msg := { e.msg with payload := p } }

/-- A write into the system part of a core's local store (R362): it changes the ring entry or side-log entry that holds the
word; a word no entry holds is nothing the sluice reads. -/
def Core.setSysWord (c : Core) (off : Nat) (v : Word) : Core :=
  if off < Config.ringEnd then
    let e := (off - c.sysbase) / 40
    let i := (off - c.sysbase) / 8 % 5
    { c with chans := (c.chans.mapIdx fun _ k =>
        let n := k.nm1.toNat + 1
        if k.alloc && k.kind == .fifo && decide (k.start ≤ e) && decide (e < k.start + n) then
          { k with ring := k.ring.modify ((e - k.start + n - k.headAt) % n) (·.setWord i v) }
        else k) }
  else if off < 0x5800 then
    { c with sideLog := (c.sideLog.modify ((off - Config.ringEnd) / 32) fun e =>
        match off / 8 % 4 with
        | 0 => { e with mask := v.extractLsb' 40 16 }
        | 1 => { e with va := v &&& 0xFFFFFFFFFFFFFFF0 }
        | 2 => { e with data := (e.data >>> 64).setWidth 64 ++ v }
        | _ => { e with data := v ++ e.data.setWidth 64 }) }
  else c

/-- A command written to DBGCTL (R363). -/
def State.dbgctl (s : State) (core : Nat) (v : Word) : State :=
  match bits v 3 0 with
  | 1 => s.onSelected core stopCmd
  | 2 => s.onSelected core (resumeCmd false (v.getLsbD 7))
  | 3 => (s.onSelected core restartCmd).freeSequencer core
  | 4 => s.kill core (bits v 15 10)
  | 5 => s.onSelected core (resumeCmd true (v.getLsbD 7))
  | _ => s

/-- DEBUG_WINDOW_WRITE (R195, R362, R363): the keeper writes the double word at an offset of a worker core's window. -/
def execDebugWindowWrite (core offset : Nat) (value : Word) (s : State) : Out :=
  event (decide (core < Config.workers) && decide (offset < 0x1000) && offset % 8 == 0) <|
    let c := s.core core
    if offset = 0 then s.dbgctl core value
    else if offset = 0x010 then s.modCore core fun c => { c with ctxsel := value.setWidth 4 }
    else if offset = 0x018 then s.modCore core fun c => { c with lssel := value.setWidth 4 }
    else if 0x040 ≤ offset && offset < 0x4E0 then
      match c.selected with
      | none => s
      | some k =>
        let x := c.ctx k
        let i := BitVec.ofNat 5 ((offset - 0x100) / 8)
        if x.state = .frozen || x.state = .saved then s.modCtxOf core k (·.setWindow offset value) |>.freeSequencer core
        else if 0x100 ≤ offset && offset < 0x200 && !x.full (.x i) then s.modCtxOf core k (·.answerX i value)
        else s
    else if 0x500 ≤ offset && offset < 0x510 then
      let i := (offset - 0x500) / 4
      s.modCore core fun c => { c with slotMem := (c.slotMem.setIfInBounds i (value.setWidth 32)).setIfInBounds (i + 1) (value.extractLsb' 32 32) }
    else if 0x800 ≤ offset then
      let off := c.sysbase + 2048 * c.lssel.toNat + (offset - 0x800)
      if off < 0x8000 then s.modCore core (·.setSysWord off value) else s
    else s

/-! ## Flights (R365) -/

/-- Whether a core belongs to a flight (R365). -/
def State.inFlight (s : State) (core flight : Nat) : Bool :=
  let r := s.devReg (.flight core)
  r.getLsbD 4 && bits r 3 0 == flight

/-- HALT (R365): a core of the flight stops issuing at its contexts' group boundaries and firing; each context keeps its
state. -/
def execHalt (core flight : Nat) (s : State) : Out :=
  event (decide (core < Config.workers)) <|
    if !s.inFlight core flight then s
    else s.modCore core fun c => { c.modAll (fun x => if x.state = .running || x.state = .waiting then x.rollBack else x) with
      halted := true }

/-- RELEASE of a flight (R365). -/
def execFlightRelease (core flight : Nat) (s : State) : Out :=
  event (decide (core < Config.workers)) <|
    if !s.inFlight core flight then s else s.modCore core fun c => { c with halted := false, sluiceDue := true }

end Sys2Proof.Machine
end

