-- ==== Sys2Proof/Machine/Cuts.lean ====
section
/-!
DEFINITION. Consistent cuts, memory cuts and rollback (R370, R396).
-/

namespace Sys2Proof.Machine

/-! ## Consistent cuts (R370) -/

/-- The worker cores of a pound, by cluster. -/
def Pound.workers (p : Pound) : List Nat := (nodeClusters p.record.node).flatMap coresOfCluster

/-- A cut of a pound begins: CUT(n) is on its way to every core, engine and port. -/
def State.startCut (s : State) (p : Pound) (number : Nat) (memory : Bool) : State :=
  p.workers.foldl (fun s n => s.modCore n fun c => { c with cut := some ⟨number, false, false, 0, [], false⟩ })
    { s with cuts := s.cuts.filter (fun c => c.node != p.record.node.toNat || c.cores.length == p.workers.length) ++
        [⟨p.record.node.toNat, number, memory, false, [], []⟩] }

/-- CUT (R370). -/
def execCut (node number : Nat) (s : State) : Out :=
  .next <| match s.poundAt node with
    | none => s
    | some p => s.startCut p number false

/-- The cut in progress that a core takes part in. -/
def State.cutOf (s : State) (core : Nat) : Option Cut :=
  (s.poundOf (clusterOf core)).bind fun p => (s.core core).cut.bind fun x =>
    s.cuts.find? fun c => c.node == p.record.node.toNat && c.number == x.number

/-- Where a core's cut record goes (R366, R370): its extension's place under CUTBASE, the record at offset 0xE000 of it. -/
def State.cutAt (s : State) (core : Nat) : Nat :=
  (s.devReg (.cutBase (s.core core).devTag.toNat)).toNat + 65536 * s.saveIndex core

/-- What a core records for a cut: itself without its outbox, each context at its word. -/
def Core.cutRecord (c : Core) : Core :=
  { c.modAll (fun x => if x.isLive then x.save else x) with
    outbox := []
    spill := c.spill.filter fun e => !e.isOut }

/-- CORE_CUT_RECORD (R370): a core records once its earlier stores have performed at device scope and what it has issued has
arrived, and queues its marker behind its outbox. -/
def execCoreCutRecord (core : Nat) (s : State) : Out :=
  event (decide (core < Config.workers)) <|
    let c := s.core core
    match c.cut with
    | none => s
    | some x =>
      let quiet := (List.range 11).all fun k => s.performed .dev false ⟨core, k, s.seq⟩ && (c.ctx k).pends.isEmpty && !c.midWord k &&
        (c.ctx k).state != .loading
      if x.recorded || c.msgSaved || s.tagOf core = 0 || !quiet then s
      else match s.placeAt core ⟨.marker x.number, 15, .core, [], none, 0⟩ with
        | none => s
        | some t =>
          let (o, t) := t.openImage
          let r := c.cutRecord
          let pa := s.cutAt core
          let t := t.pinWrite pa (s.ownKey core (paStack pa)) (imageBytes (r.extWord o) 0 0xE000 ++
            imageBytes (r.recordWord (some x.number) o) 0 0x800)
          { t.modCore core (fun c => { c with cut := some { x with recorded := true } }) with
            cutRecs := insertKey (x.number, core) r t.cutRecs }

/-- Whether a neighbour of a core's router, when it is in the same pound, has sent the marker on an output. -/
def State.markerFrom (s : State) (core : Nat) (dx dy : Int) (out : Nat) (number : Nat) : Bool :=
  let x : Int := coreX core + dx
  let y : Int := coreY core + dy
  if x < 0 || 256 ≤ x || y < 0 || 128 ≤ y then true
  else
    let n := coreAt x.toNat y.toNat
    let same := (s.poundOf (clusterOf n)).map (·.record.node) == (s.poundOf (clusterOf core)).map (·.record.node)
    !same || (s.core n).cut.any fun c => c.number == number && c.sent.getLsbD out

/-- The outputs a router may send the marker on: each once it has the marker on every input whose flits go there, x before y,
its own core's among them (R370): bits 0 east, 1 west, 2 north, 3 south, 4 to its core. -/
def State.markerOuts (s : State) (core : Nat) (x : CutState) (ports : List Nat) : BitVec 5 :=
  let w := s.markerFrom core (-1) 0 0 x.number
  let e := s.markerFrom core 1 0 1 x.number
  let n := s.markerFrom core 0 (-1) 3 x.number
  let so := s.markerFrom core 0 1 2 x.number
  let own := x.injected && (List.range 12).all fun p => portCore p != core || ports.contains p
  BitVec.ofNat 5 (num (own && w) + 2 * num (own && e) + 4 * num (own && w && e && so) + 8 * num (own && w && e && n) +
    16 * num (own && w && e && n && so && (List.range 12).all ports.contains))

/-- A message's 48 bytes in a cut log (R367, R370): its channel's name, header and payload words. -/
def logBytes (m : Msg) (open_ : Nat → Word) : List Byte :=
  toBytes 8 m.name.toNat ++ toBytes 8 (headerWord m 0 (open_ 0)).toNat ++
    (List.range 4).flatMap fun i => toBytes 8 (m.payload.ringWords.getD i (open_ (i + 1))).toNat

/-- The marker reaches a core from its router: the core's log ends, and is written behind its record. -/
def State.logMarker (s : State) (core : Nat) (x : CutState) : State :=
  let (o, s) := s.openImage
  let pa := s.cutAt core + 0xE800
  let bs := ((x.log.take 128).mapIdx fun i m => logBytes m (fun j => o (8 * i + j))).flatten
  let s := s.pinWrite pa (s.ownKey core (paStack pa)) bs
  let node := ((s.poundOf (clusterOf core)).map (·.record.node.toNat)).getD 0
  let r := lookupKey Core.reset (x.number, core) s.cutRecs
  { s with
    cutRecs := insertKey (x.number, core) { r with cut := some x } s.cutRecs
    cuts := s.cuts.map fun c => if c.node = node && c.number = x.number then
      { c with cores := core :: c.cores.erase core, failed := c.failed || x.failed } else c }

/-- CUT_MARKER_FORWARD (R370): a core's router sends the marker on where it has it on every input. It goes to the core once
what was sent ahead of it has been accepted; in a memory cut, what waits for a halted core is logged where it waits (R36,
R396). With every core's marker sent, the engines have theirs. -/
def execCutMarkerForward (core : Nat) (s : State) : Out :=
  event (decide (core < Config.workers)) <|
    match (s.core core).cut, s.cutOf core with
    | some x, some q =>
      let ahead := s.flight.filter fun f => f.home == core && f.mark != x.number
      let logged := q.memory && (s.core core).halted
      let outs := s.markerOuts core x q.ports
      let here := outs.getLsbD 4 && !x.sent.getLsbD 4 && x.recorded && (ahead.isEmpty || logged)
      let log := if here && logged then x.log ++ ahead.map (·.msg) else x.log
      let sent := x.sent ||| (if here then outs else outs &&& 15#5)
      let x' : CutState := { x with sent := sent, log := log, failed := x.failed || decide (128 < log.length) }
      let s := s.modCore core fun c => { c with cut := some x' }
      let s := if here then s.logMarker core x' else s
      let all := ((s.poundOf (clusterOf core)).elim [] Pound.workers).all fun n => (s.core n).mark == x.number
      if !all then s
      else
        let marked (g : Engine) : Engine :=
          if g.cut = some x.number || g.queue.any (fun i => i == .marker x.number) then g
          else { g with queue := g.queue ++ [.marker x.number] }
        { s with stk := s.stk.mapIdx fun _ t => { t with engines := t.engines.mapIdx fun _ g => marked g } }
    | _, _ => s

/-- ENGINE_CUT_RECORD (R370): an engine that has completed every command ahead of its marker records. -/
def execEngineCutRecord (stack engine : Nat) (s : State) : Out :=
  event (unitIn stack engine) <|
    let g := (s.stack stack).engine engine
    match g.run, g.queue with
    | none, .marker n :: rest => s.modStack stack (·.modEngine engine fun g => { g with queue := rest, cut := some n })
    | _, _ => s

/-- PORT_CUT_INJECT (R370): a port, named by a half code (R329), injects its marker. -/
def execPortCutInject (port : Nat) (s : State) : Out :=
  event (decide (port < 24))
    { s with cuts := s.cuts.map fun c => if c.ports.contains (port / 2) then c else { c with ports := port / 2 :: c.ports } }

/-! ## Memory cuts and rollback (R396) -/

/-- The local frames of a range B-tree's leaves (R349). -/
def treeFrames (s : State) (node : Nat) : Nat → List Nat
  | 0 => []
  | fuel + 1 =>
    let head := s.readPhys node 8
    (List.range (min 7 (head % 16))).flatMap fun i =>
      let at_ := node + 32 * (i + 1)
      if head / 16 % 2 = 1 then
        let base := s.readPhys at_ 8
        let limit := s.readPhys (at_ + 8) 8
        let leaf := BitVec.ofNat 64 (s.readPhys (at_ + 24) 8)
        if leafV leaf && leafTgt leaf == 0 then
          (List.range ((limit - base) / 2 ^ 16)).map fun j => (base + 65536 * j + s.readPhys (at_ + 16) 8) % 2 ^ 64 / 2 ^ 16
        else []
      else treeFrames s (s.readPhys (at_ + 16) 8) fuel

/-- The local frames a cluster's tables map for a device (R345, R346, R349). -/
def State.framesOf (s : State) (cluster tag : Nat) : List Nat :=
  let r := s.devReg (.ptShard cluster tag)
  let b := bits r 4 0
  let root := bits (s.devReg (.rtRoot cluster tag)) 37 8 * 2 ^ 8
  (if b < 4 || 20 < b then [] else (List.range (2 ^ b * 8)).filterMap fun i =>
    let at_ := bits r 37 12 * 2 ^ 12 + 16 * i
    let leaf := BitVec.ofNat 64 (s.readPhys (at_ + 8) 8)
    if s.readPhys at_ 8 % 2 ^ 16 = tag && leafV leaf && leafTgt leaf == 0 then some (leafFrame leaf) else none) ++
  (if root = 0 then [] else treeFrames s root 8)

/-- The frames a pound's tables map. -/
def State.poundFrames (s : State) (p : Pound) : List Nat :=
  (p.record.vdTags.filter (· != 0)).flatMap fun t => (nodeClusters p.record.node).flatMap fun c => s.framesOf c t.toNat

/-- Whether a place of `State.mem` is one a memory cut of a pound copies: a mapped frame, a local store below SYSBASE, a SCRATCH
bank. -/
def State.inCut (s : State) (p : Pound) (frames : List Nat) (a : Nat) : Bool :=
  if Config.lsWindow ≤ a then
    let n := (a - Config.lsWindow) / Config.lsSize
    nodeHas p.record.node (clusterOf n) && decide ((a - Config.lsWindow) % Config.lsSize < (s.core n).sysbase)
  else if Config.csWindow ≤ a then
    let k := (a - Config.csWindow) / 2 ^ 20
    nodeHas p.record.node k && ((s.cluster k).bank (a / 2 ^ 16 % 16)).mode == .scratch
  else frames.contains (a / 2 ^ 16)

/-- Memory with the places a test names as an older memory has them. -/
def restoreMem (cur old : Memory) (p : Nat → Bool) : Memory :=
  (old.filter fun c => p c.1).foldl (fun m c => writeByte m c.1 c.2) (cur.filter fun c => !p c.1)

/-- MEMORY_CUT (R396): with every core of the pound halted, a cut; and once that cut is complete, the copy. A cut that has set
CUTFAIL leaves no copy. -/
def execMemoryCut (node number : Nat) (s : State) : Out :=
  .next <| match s.poundAt node with
    | none => s
    | some p =>
      if !p.workers.all (fun n => (s.core n).halted) then s
      else match s.cuts.find? fun c => c.node == node && c.number == number && c.memory with
        | none => s.startCut p number true
        | some c =>
          if !p.workers.all c.cores.contains || c.failed || s.checkpoints.any (fun k => k.node == node && k.number == number) then s
          else { s with checkpoints := ⟨node, number, s.mem, s.weights, s.lineKeys, s.poundFrames p⟩ :: s.checkpoints }

/-- A core's logged messages delivered again, in log order (R396 step 3). -/
def State.redeliver (s : State) (core number : Nat) : State :=
  (((lookupKey Core.reset (number, core) s.cutRecs).cut.map (·.log)).getD []).foldl (fun s m => s.arrive core m) s

/-- ROLLBACK (R396): the pound's contexts torn down as KILL does, the last copy and the cut's records restored, logged messages
delivered again ahead of any new arrival, and entry opened. -/
def execRollback (node : Nat) (s : State) : Out :=
  .next <| match s.poundAt node, s.checkpoints.find? (·.node == node) with
    | some p, some k =>
      let s := p.workers.foldl (fun s n => s.killCore n Cause.contextLost.code) s
      let hit := s.inCut p k.frames
      let mine (n : Nat) : Bool := p.workers.contains n
      let ws (a : Nat) : Bool := mine (a / Config.sliceSize)
      let s : State := { s with
        mem := restoreMem s.mem k.mem hit
        weights := restoreMem s.weights k.weights ws
        lineKeys := (k.keys.filter fun l => hit l.1).foldl (fun ls l => insertAt l.1 l.2 ls) (s.lineKeys.filter fun l => !hit l.1)
        flight := s.flight.filter fun f => !mine f.home
        walkers := s.walkers.filter fun w => !mine w.item.hint }
      let s := p.workers.foldl (fun s n => s.modCore n fun c =>
        ((c.restored (lookupKey c (k.number, n) s.cutRecs)).modAll fun x => if x.state = .saved then { x with state := .running } else x)) s
      let s := p.workers.foldl (fun s n => s.redeliver n k.number) s
      s.modPound node fun p => { p with tagsOpen := true }
    | _, _ => s

end Sys2Proof.Machine
end

