-- ==== Sys2Proof/Machine/Energy.lean ====
section
/-!
DEFINITION. Energy and core-cycle charges, stack allotments and the module envelope (R340, R399 to R402).
-/

namespace Sys2Proof.Machine

/-! ## Posting charges (R340, R399) -/

/-- A unit that keeps charges, by number: the cores, then each stack's slices, each stack's engines, and the ports' half codes. -/
def energyUnits : Nat := Config.workers + Config.clusters

/-- Deltas posted to their blocks, in whole picojoules. -/
def State.postDeltas (s : State) (core : Nat) (ds : List ((Nat × Word) × Nat)) : State :=
  ds.foldl (fun s d => s.chargeBudget core d.1.1 d.1.2 0 (d.2 / 16)) s

/-- What is kept of deltas once they have been posted. -/
def restOf {α : Type} (ds : List (α × Nat)) : List (α × Nat) := (ds.map fun d => (d.1, d.2 % 16)).filter fun d => d.2 != 0

/-- A slice posts its deltas. -/
def State.postSlice (s : State) (t i : Nat) : State :=
  let ds := ((s.stack t).slice i).energy
  (s.modStack t (·.modSlice i fun l => { l with energy := restOf ds })).postDeltas (stackCorner t) ds

/-- An engine posts its deltas. -/
def State.postEngine (s : State) (t i : Nat) : State :=
  let ds := ((s.stack t).engine i).energy
  (s.modStack t (·.modEngine i fun g => { g with energy := restOf ds })).postDeltas (stackCorner t) ds

/-- A port posts the deltas of one of its halves: `half` is its half code (R330). -/
def State.postPort (s : State) (half : Nat) : State :=
  let mine := s.portEnergy.filter (·.1.1 == half)
  ({ s with portEnergy := s.portEnergy.filter (·.1.1 != half) ++ restOf mine } : State).postDeltas (portCore (half / 2))
    (mine.map fun d => (d.1.2, d.2))

/-- The deltas at which a unit posts at once: 2^20 pJ, kept in units of 1/16 pJ (R399). -/
def postAt : Nat := 16 * 2 ^ 20

/-- Whether some delta of a unit has reached the mark. -/
def overPost {α : Type} (ds : List (α × Nat)) : Bool := ds.any fun d => decide (postAt ≤ d.2)

/-- The slices, engines and ports of which some delta has reached 2^20 pJ post it (R399). -/
def State.postUnits (s : State) : State :=
  let s := (List.range 4).foldl (fun (s : State) t => (List.range 16).foldl (fun (s : State) i =>
    let s := if overPost ((s.stack t).slice i).energy then s.postSlice t i else s
    if overPost ((s.stack t).engine i).energy then s.postEngine t i else s) s) s
  s.portEnergy.foldl (fun (s : State) d => if postAt ≤ d.2 then s.postPort d.1.1 else s) s

/-- ENERGY_CHARGE_POST (R399): unit `k` posts its deltas. -/
def execEnergyChargePost (k : Nat) (s : State) : Out :=
  event (decide (k < energyUnits + 64 + 64 + 24)) <|
    if k < energyUnits then s.postEnergy k
    else if k < energyUnits + 64 then
      s.postSlice ((k - energyUnits) / 16) ((k - energyUnits) % 16)
    else if k < energyUnits + 128 then
      s.postEngine ((k - energyUnits - 64) / 16) ((k - energyUnits - 64) % 16)
    else s.postPort (k - energyUnits - 128)

/-! ## Stack allotments and the module envelope (R401, R402) -/

/-- The cycles of a stack's energy interval; an INTERVAL of 0 acts as 1,000,000 (R401). -/
def State.energyInterval (s : State) (stack : Nat) : Nat :=
  let n := bits (s.devReg (.estk stack)) 31 0
  if n = 0 then 1000000 else n

/-- The largest ALLOT a stack may have at an envelope for an interval, each stack taking an equal part of what the ports and the
wharf leave (R402). -/
def allotCap (watts interval : Nat) : Nat := (watts - 150) * interval / 4000

/-- ESTK with its ALLOT within the envelope (R402); an INTERVAL of 0 acts as 1,000,000 (R401). -/
def capEstk (watts : Nat) (r : Word) : Word :=
  let interval := if bits r 31 0 = 0 then 1000000 else bits r 31 0
  BitVec.ofNat 64 (min (bits r 63 32) (allotCap watts interval) * 2 ^ 32 + bits r 31 0)

/-- ENERGY_INTERVAL_END (R1, R401): once the stack has counted INTERVAL cycles since the last, USED returns to 0 and THR clears;
the allotment that a power reading lowered takes effect, within the envelope (R402), and the stack's sluices evaluate again. -/
def execEnergyIntervalEnd (stack : Nat) (s : State) : Out :=
  event (decide (stack < 4)) <|
    if s.age (.stack stack) < s.energyInterval stack then s
    else
    let s := match (s.stack stack).nextAllot with
      | some a => s.setDevReg (.estk stack) (capEstk s.envelope (a ++ (s.devReg (.estk stack)).setWidth 32))
      | none => s
    let s := (s.restart (.stack stack)).modStack stack fun t => { t with used := 0, usedPj := 0, throttled := false, nextAllot := none }
    { s with cores := s.cores.map fun c => if stackOf c.1 = stack then (c.1, { c.2 with sluiceDue := true }) else c }

/-- ENVELOPE_SET (R402): an envelope from 1,600 to 3,200 W; the stacks' allotments stay within it. -/
def execEnvelopeSet (watts : Nat) (s : State) : Out :=
  .next <| if watts < 1600 || 3200 < watts then s
    else (List.range 4).foldl (fun s t => s.setDevReg (.estk t) (capEstk watts (s.devReg (.estk t)))) { s with envelope := watts }

/-- POWER_SAMPLE (R402): a reading above the envelope lowers each stack's allotment for its next interval, to a value below the
present one that is left free: the rule gives no rounding. -/
def execPowerSample (milliwatts : Nat) (s : State) : Out :=
  .next <| if milliwatts ≤ 1000 * s.envelope then s
    else (List.range 4).foldl (fun s t =>
      let r := s.devReg (.estk t)
      let (f, s) := s.free
      s.modStack t fun k => { k with nextAllot := some (BitVec.ofNat 32 (f.toNat % max 1 (bits r 63 32))) }) s

end Sys2Proof.Machine
end

