-- ==== Sys2Proof/Machine/Fences.lean ====
section
/-!
DEFINITION. FENCE and FENCE.X (R118, R119, R213): each waits in RUNNING until it takes effect.
-/

namespace Sys2Proof.Machine

/-- Whether every earlier load, and every earlier atomic's read, of the acting context has been performed (R115, R118). -/
def State.loadsDone (s : State) : Bool := !s.ctx.pends.any Pend.open_ && s.me.atomsApplied s.cur.2

/-- Whether every earlier access of the acting context has performed at a scope, its side log included, and so have the
stores it may have loaded (R118, R120). -/
def State.allDone (s : State) (sc : Scope) : Bool := s.performed sc true ⟨s.cur.1, s.cur.2, s.seq⟩

/-- A fence: it waits for `ready`, and then acquires at its scope if it is of a kind that does (R118). -/
def fence (sc : BitVec 3) (acq : Bool) (ready : State → Scope → Bool) : State → Out :=
  issue { scope := true } fun s =>
    let sc := s.ctx.scopeOr sc
    if !ready s sc then .stay s else .done (if acq then s.acquire s.cur.1 s.cur.2 sc else s)

/-- FENCE.acq (R118). -/
def execFenceAcq (scope : BitVec 3) : State → Out := fence scope true fun s _ => s.loadsDone
/-- FENCE.rel (R118). -/
def execFenceRel (scope : BitVec 3) : State → Out := fence scope false fun s sc => s.me.atomsApplied s.cur.2 && s.allDone sc
/-- FENCE.sc (R118). -/
def execFenceSc (scope : BitVec 3) : State → Out := fence scope true fun s sc => s.loadsDone && s.allDone sc

/-- The engine's accesses that have been accepted and not performed (R119). -/
def State.engineOpen (s : State) : Bool :=
  s.stk.toList.any fun t => t.slices.toList.any fun l => (l.queue ++ l.held).any fun r =>
    match r.asker with | .engine .. => true | _ => false

/-- FENCE.X (R119): a FENCE.sc at the wider of its scope and what its classes need, which waits too for the engine and
host accesses of its first class to perform. -/
def execFenceX (o : FenceX) : State → Out :=
  issue { scope := true } fun s =>
    let has (c : BitVec 2) : Bool := o.ca == c || o.cb == c
    let sc := widest (s.ctx.scopeOr o.scope) (if has 3 then .sys else if has 2 then .dev else .core)
    let mine := s.loadsDone && s.allDone sc
    let other := (o.ca != 2 || !s.engineOpen) && (o.ca != 3 || s.rmas.all (·.left == 0))
    if !mine || !other then .stay s else .done (s.acquire s.cur.1 s.cur.2 sc)

end Sys2Proof.Machine
end

