-- ==== Sys2Proof/Machine/VectorMem.lean ====
section
/-!
DEFINITION. Major 0x33 and the block words of 0x35: vector loads and stores, streams as operands, format-aware loads, and whole-block quantisers (R251 to R254, R260).
-/

namespace Sys2Proof.Machine

/-- The active lanes of a word, in rising order. -/
def activeLanes (act : BitVec 16) (n : Nat) : List Nat := (List.range n).filter fun i => act.getLsbD i

/-- What vd holds where a lane is not active (R245): its old lanes, or zeros with `pol`. -/
def Ctx.oldV (c : Ctx) (pol : Bool) (vd : BitVec 4) : Vec := if pol then 0 else c.readV vd

/-- Runs of consecutive numbers of a rising list: first number and length of each. -/
def runsOf : List Nat → List (Nat × Nat)
  | [] => []
  | i :: rest =>
    match runsOf rest with
    | (a, k) :: more => if a = i then (a, k) :: more else if a = i + 1 then (i, k + 1) :: more else (i, 1) :: (a, k) :: more
    | [] => [(i, 1)]

/-- The parts of a load of contiguous lanes of `n` bytes from `va` (R252): the bytes of the active lanes and no others, neighbouring
lanes of one line by one request (the lines of the strided reads in 14 are each read once, R291), or each lane apart where the
core's side log holds bytes of them, since each is an access by itself (R200, R252). -/
def State.laneParts (s : State) (va : Word) (n : Nat) (ls : List Nat) : List (Nat × Word × Nat) :=
  let runs := runsOf ls
  let near := s.me.sideLog.any fun e => !e.sent && runs.any fun r => overlaps (va.toNat + r.1 * n) (r.2 * n) e.va.toNat 16
  if near then (ls.eraseDups).flatMap fun i => parts16 (i * n) (va + BitVec.ofNat 64 (i * n)) n
  else runs.flatMap fun r => parts16 (r.1 * n) (va + BitVec.ofNat 64 (r.1 * n)) (r.2 * n)

/-- The rule of a vector load at a scalar base: the mask, and vd when its old lanes stay. -/
def vecMemRule (cpol : Bool) (o : VecMem) : WordRule :=
  { rep := true, cpol := cpol, cls := 1, dests := [.v o.vd]
    srcs := (.x (x4 o.xb), o.ea) :: maskSrcs o.vd o.me o.msk o.pol false }

/-- A load of contiguous lanes at `va`, which must be a multiple of 16 (R252, R253). -/
def State.laneLoad (s : State) (vd : BitVec 4) (et : BitVec 3) (me : Bool) (msk : BitVec 2) (pol : Bool) (va : Word) : Did :=
  let n := etBits et / 8
  let act := s.ctx.active me msk
  let ls := activeLanes act (etLanes et)
  match ls with
  | i :: _ =>
    if va.toNat % 16 ≠ 0 then .fault s (atAddr .align (va + BitVec.ofNat 64 (i * n)))
    else s.load s.ctx.weakWay n (.v vd) (.lanes (etBits et) act (s.ctx.oldV pol vd)) none (s.laneParts va n ls)
  | [] => s.load s.ctx.weakWay n (.v vd) (.lanes (etBits et) act (s.ctx.oldV pol vd)) none []

/-- The 4-bit signed offset of a vector memory word, in units of `n` bytes (R251). -/
def vecOff (off : BitVec 4) (n : Nat) : Word := BitVec.ofInt 64 (off.toInt * n)

/-- VLD (R253). -/
def execVld (o : VecMem) : State → Out :=
  issue (vecMemRule true o) fun s =>
    s.laneLoad o.vd o.et o.me o.msk o.pol (s.ctx.readX (x4 o.xb) + vecOff o.off 16)

/-- A store of contiguous lanes at `va` (R252, R253): one entry with its byte mask. -/
def State.laneStore (s : State) (vd : BitVec 4) (et : BitVec 3) (me : Bool) (msk : BitVec 2) (va : Word) : Did :=
  let n := etBits et / 8
  let ls := activeLanes (s.ctx.active me msk) (etLanes et)
  match ls with
  | [] => .done s
  | i :: _ =>
    if va.toNat % 16 ≠ 0 then .fault s (atAddr .align (va + BitVec.ofNat 64 (i * n)))
    else s.store true 16 none
      [(va, 16, BitVec.ofNat 16 (ls.foldl (fun a i => a + (2 ^ n - 1) * 2 ^ (i * n)) 0), s.ctx.readV vd)]

/-- The rule of VST. -/
def vstRule (o : VecStore) : WordRule :=
  { rep := true, cpol := true, cls := 1, srcs := (.x (x4 o.xb), o.ea) :: maskSrcs o.vd o.me o.msk false true }
/-- VST (R253). -/
def execVst (o : VecStore) : State → Out :=
  issue (vstRule o) fun s => s.laneStore o.vd o.et o.me o.msk (s.ctx.readX (x4 o.xb) + vecOff o.off 16)

/-- The operand [qn] (R239): the access at Addr(qn), and one Step once it has issued. The address of a skip stream is
open (entry 21). -/
def State.atStream (s : State) (q : BitVec 2) (k : State → Word → Did) : Did :=
  match s.stepStream q 1 .done with
  | .done after =>
    let (va, s) := match s.ctx.readQ q with
      | .aff b _ st i _ _ => (affAddr b st i, s)
      | _ => s.free
    match k s va with
    | .done s => .done (s.modCtx (·.writeQ q (after.ctx.readQ q)))
    | d => d
  | d => d

/-- The rule of VLDQ. -/
def vldqRule (o : VecStream) : WordRule :=
  { rep := true, cpol := true, cls := 1, srcs := maskSrcs o.vd o.me o.msk o.pol false, dests := [.v o.vd] }
/-- VLDQ (R239, R253). -/
def execVldq (o : VecStream) : State → Out :=
  issue (vldqRule o) fun s => s.atStream o.qn fun s va => s.laneLoad o.vd o.et o.me o.msk o.pol va

/-- The rule of VSTQ. -/
def vstqRule (o : VecStreamSt) : WordRule :=
  { rep := true, cpol := true, cls := 1, srcs := maskSrcs o.vd o.me o.msk false true }
/-- VSTQ (R239, R253). -/
def execVstq (o : VecStreamSt) : State → Out :=
  issue (vstqRule o) fun s => s.atStream o.qn fun s va => s.laneStore o.vd o.et o.me o.msk va

/-- The address of lane `i` of a gather or scatter (R253). -/
def indexAddr (base : Word) (vi : Vec) (z i : Nat) : Word := base + BitVec.ofInt 64 (toSigned z (lane vi z i) * (z / 8 : Nat))

/-- The rule of VGATH: va names the base x register. -/
def vgathRule (o : Vec2) : WordRule :=
  { rep := true, cpol := true, cls := 1, dests := [.v o.vd]
    srcs := [(.x (x4 o.va), o.ea), (.v o.vb, o.eb)] ++ maskSrcs o.vd o.me o.msk o.pol false }
/-- VGATH (R253). -/
def execVgath (o : Vec2) : State → Out :=
  issue (vgathRule o) fun s =>
    let z := etBits o.et
    let act := s.ctx.active o.me o.msk
    s.load s.ctx.weakWay (z / 8) (.v o.vd) (.lanes z act (s.ctx.oldV o.pol o.vd)) none
      ((activeLanes act (128 / z)).map fun i =>
        (i * (z / 8), indexAddr (s.ctx.readX (x4 o.va)) (s.ctx.readV o.vb) z i, z / 8))

/-- The rule of VSCAT. -/
def vscatRule (o : VecScatter) : WordRule :=
  { rep := true, cpol := true, cls := 1
    srcs := [(.x (x4 o.xb), o.ea), (.v o.vi, o.eb)] ++ maskSrcs o.vd o.me o.msk false true }
/-- VSCAT (R252, R253): the active lanes in rising order; a miss waits in XSTALL. -/
def execVscat (o : VecScatter) : State → Out :=
  issue (vscatRule o) fun s =>
    let z := etBits o.et
    let ls := activeLanes (s.ctx.active o.me o.msk) (128 / z)
    s.storeHeld (z / 8) (ls.map fun i =>
      (indexAddr (s.ctx.readX (x4 o.xb)) (s.ctx.readV o.vi) z i, z / 8, firstBytes (z / 8),
        BitVec.ofNat 128 (lane (s.ctx.readV o.vd) z i)))

/-- VBCAST (R253): one element, read once. -/
def execVbcast (o : VecMem) : State → Out :=
  issue (vecMemRule false o) fun s =>
    let n := etBits o.et / 8
    let act := s.ctx.active o.me o.msk
    let va := s.ctx.readX (x4 o.xb) + vecOff o.off n
    s.load s.ctx.weakWay n (.v o.vd) (.splat (etBits o.et) act (s.ctx.oldV o.pol o.vd)) none
      (if activeLanes act (etLanes o.et) = [] then [] else [(0, va, n)])

/-- Bytes of an element of a page format; 0 for the block formats (R65). -/
def fmtBytes (fmt : Nat) : Nat :=
  match fmt with
  | 1 => 1 | 2 | 3 | 7 => 2 | 4 => 4 | 8 => 8 | _ => 0

/-- Whether a page format is an element type itself (R254). -/
def fmtIsEt (fmt : Nat) (et : BitVec 3) : Bool :=
  match fmt with
  | 1 => et == 0 | 2 => et == 1 | 3 => et == 4 | 7 => et == 5 | 4 => et == 6 | 8 => et == 7 | _ => false

/-- The address of lane `i` of a VLDF from a page of a format (R252, R254). -/
def vldfLane (fmt : Nat) (et : BitVec 3) (va : Word) (i : Nat) : Word :=
  va + BitVec.ofNat 64 (match fmt with
    | 0 => i * (etBits et / 8) | 5 => i / 2 | 6 => 2 * i | _ => i * fmtBytes fmt)

/-- The parts VLDF reads of a page of format `fmt` (R254), or its ALIGN. -/
def State.vldfParts (s : State) (fmt : Nat) (et : BitVec 3) (va : Word) (ls : List Nat) : Except FaultInfo (List (Nat × Word × Nat)) :=
  let n := etLanes et
  let first := ls.headD 0
  let o := va.toNat % 2 ^ 16
  if fmt = 5 then
    let c := o % 136
    let half := (n + 1) / 2
    let block := va - BitVec.ofNat 64 c
    if 128 ≤ c || c % half ≠ 0 || 65416 ≤ o then .error (atAddr .align (va + BitVec.ofNat 64 (first / 2)))
    else .ok (s.laneParts va 1 (ls.map (· / 2)) ++
      [(8, block + BitVec.ofNat 64 (128 + 2 * c / 64), 1)] ++
      (if et.toNat < 4 then [] else [(9, block + 132, 4)]))
  else if fmt = 6 then
    let c := o % 516
    let block := va - BitVec.ofNat 64 c
    if 512 ≤ c || c % (2 * n) ≠ 0 || 65532 ≤ o then .error (atAddr .align (va + BitVec.ofNat 64 (2 * first)))
    else .ok (s.laneParts va 2 ls ++
      (if et.toNat < 4 then [] else [(32, block + 512, 1)]))
  else
    let y := fmtBytes fmt
    if va.toNat % (n * y) ≠ 0 then .error (atAddr .align (va + BitVec.ofNat 64 (first * y)))
    else .ok (s.laneParts va y ls)

/-- The rule of VLDF: va names the base x register. -/
def vldfRule (o : Vec1) : WordRule :=
  { rep := true, cpol := true, cls := 1, dests := [.v o.vd]
    srcs := (.x (x4 o.va), o.ea) :: maskSrcs o.vd o.me o.msk o.pol false }

/-- VLDF (R254): the page's format decides what is read and how it converts when it arrives. -/
def execVldf (o : Vec1) : State → Out :=
  issue (vldfRule o) fun s =>
    let va := s.ctx.readX (x4 o.va)
    let act := s.ctx.active o.me o.msk
    let ls := activeLanes act (etLanes o.et)
    let raw (s : State) : Did := s.laneLoad o.vd o.et o.me o.msk o.pol va
    if inWindows va || ls = [] then raw s
    else match s.access s.cur.1 .load va 1 1 false with
      | (.fault f, s) =>
        let leaf := ((s.translate s.cur.1 false va).1.map (·.2)).getD 0
        .fault s { f with word3 := vldfLane (leafFmt leaf) o.et va (ls.headD 0) }
      | (.busy, s) => .stay s
      | (.miss, s) => s.stallMiss va 0 (.v o.vd)
      | (.ok a, s) =>
        let fmt := leafFmt a.leaf
        if !fmtSuits fmt (leafGeo a.leaf) then .fault s (pageFault 0 (vldfLane fmt o.et va (ls.headD 0)))
        else if fmt = 0 then raw s
        else match s.vldfParts fmt o.et va ls with
          | .error f => .fault s f
          | .ok parts =>
            let old := s.ctx.oldV o.pol o.vd
            s.load s.ctx.weakWay 1 (.v o.vd)
              (if fmtIsEt fmt o.et then .lanes (etBits o.et) act old
               else .vldf (BitVec.ofNat 4 fmt) o.et s.ctx.mode act old 0) none parts

/-- What a loaded element of a page format gives in an element type (R254): `d` holds the bytes as `vldfParts` lays them. -/
def vldfElem (fmt : Nat) (et mode : BitVec 3) (d i : Nat) : FOut :=
  let field (at_ n : Nat) : Nat := d / 256 ^ at_ % 256 ^ n
  if fmt = 5 then
    let q := Config.standardLevels.getD (field (i / 2) 1 / 16 ^ (i % 2) % 16) 0 * (field 8 1 : Nat)
    cqElem et mode q (fval .f32 (field 9 4))
  else if fmt = 6 then
    let q := toSigned 16 (field (2 * i) 2)
    toElem et mode (some q) (.fin (decide (q < 0)) q.natAbs ((field 32 1 : Nat) - 141))
  else
    let y := fmtBytes fmt
    let v := field (i * y) y
    match fmt with
    | 1 | 2 => toElem et mode (some (toSigned (8 * y) v)) (intVal (toSigned (8 * y) v))
    | 3 => toElem et mode none (fval .bf16 v)
    | 7 => toElem et mode none (fval .f16 v)
    | 4 => toElem et mode none (fval .f32 v)
    | _ => toElem et mode none (fval .f64 v)

/-! ## Whole blocks (R260) -/

/-- The bytes of a block as store parts that no multiple of 16 cuts. -/
def blockParts (va : Word) (bs : List Byte) : List (Word × Nat × BitVec 16 × BitVec 128) :=
  (parts16 0 va bs.length).map fun p =>
    (p.2.1, p.2.2, firstBytes p.2.2, BitVec.ofNat 128 (ofBytes ((bs.drop p.1).take p.2.2)))

/-- A block to be read, quantised and written (R260): the accesses of both sides are all checked, its destination register is
marked empty, and the source's bytes are on their way. What they make of the block is stored when they have come (REGISTER_FILL);
until its writes have entered the store buffer the context stays RUNNING and issues nothing. -/
def State.quantise (s : State) (xd xs : Word) (alD bytes size : Nat) (dest : Dest) (cq4 : Option (BitVec 3 × List Nat × Nat)) : Did :=
  if xs.toNat % 16 ≠ 0 then .fault s (atAddr .align xs)
  else if xd.toNat % alD ≠ 0 then .fault s (atAddr .align xd)
  else match s.loadChecks 1 false dest (parts16 0 xs bytes) [] with
    | .inl d => d
    | .inr (src, s) =>
      match s.storeChecks 1 true false dest (blockParts xd (List.replicate size 0)) [] with
      | .inl d => d
      | .inr (dst, s) =>
        let entries := dst.filterMap fun p => match p with
          | (va, n, m, d, .buffer a) => some (storeEntry s va n m d a none none)
          | (_, _, _, _, .log) => none
        .done (s.loadAll s.ctx.weakWay dest (.block cq4 entries) none src)

/-- A block's bytes in its stores. -/
def fillStores : List Store → List Byte → List Store
  | [], _ => []
  | st :: rest, bs => { st with data := BitVec.ofNat 128 (ofBytes (bs.take st.len)) } :: fillStores rest (bs.drop st.len)

/-- What a block's source bytes make (R97, R99, R260): its bytes, the counts for VCQ4's register, and the flags. -/
def blockImage (cq4 : Option (BitVec 3 × List Nat × Nat)) (d : Nat) : List Byte × List Nat × BitVec 5 :=
  match cq4 with
  | none =>
    let (bs, fl) := quantBx16 0 ((List.range 256).map fun i => fval .bf16 (d / 2 ^ (16 * i) % 2 ^ 16))
    (bs, [], fl)
  | some (et, u, qlim) =>
    let w := etBits et
    quantCq4 ((List.range 256).map fun i => fval (etFmt et) (d / 2 ^ (w * i) % 2 ^ w)) u qlim

/-- The rule of VBXQ. -/
def vbxqRule (o : BlockQ) : WordRule :=
  { rep := true, cls := 1, srcs := [(.x (x4 o.xd), o.ea), (.x (x4 o.xs), o.eb)] }
/-- VBXQ (R99, R260). -/
def execVbxq (o : BlockQ) : State → Out :=
  issue (vbxqRule o) fun s => s.quantise (s.ctx.readX (x4 o.xd)) (s.ctx.readX (x4 o.xs)) 4 512 516 .none none

/-- The rule of VCQ4: vd supplies the upstream counts. -/
def vcq4Rule (o : BlockC) : WordRule :=
  { rep := true, rm := true, cls := 1, dests := [.v o.vd]
    srcs := [(.x (x4 o.xd), o.ea), (.x (x4 o.xs), o.eb), (.v o.vd, false)] }
/-- VCQ4 (R97, R260): vd is marked empty at issue and filled with the chosen counts once the block is written. -/
def execVcq4 (o : BlockC) : State → Out :=
  issue (vcq4Rule o) fun s =>
    s.quantise (s.ctx.readX (x4 o.xd)) (s.ctx.readX (x4 o.xs)) 8 (32 * etBits o.et) 136 (.v o.vd)
      (some (o.et, (List.range 4).map fun b => lane (s.ctx.readV o.vd) 8 b, s.ctx.qlim))

end Sys2Proof.Machine
end

