-- ==== Sys2Proof/Machine/Fill.lean ====
section
/-!
DEFINITION. The arrival of a producer's value (R111, R156, R202, R203).
-/

namespace Sys2Proof.Machine

/-- A producer's destination registers written: `a` to the first, `b` to the second. -/
def Ctx.writeDest (c : Ctx) (d : Dest) (a b : BitVec 192) : Ctx :=
  match d with
  | .none => c
  | .x i => c.writeX i (a.setWidth 64)
  | .xx i j => (c.writeX i (a.setWidth 64)).writeX j (b.setWidth 64)
  | .v i => c.writeV i (a.setWidth 128)
  | .w _ | .ww _ _ => c

/-- A register filled by its producer: full, but for an x register that the context's sequence keeps empty (R156, R241). -/
def Ctx.fillMark (c : Ctx) (d : Dest) : Ctx :=
  let c' := c.markDest d true
  { c' with xfull := match c.rep with
      | none => c'.xfull
      | some q => c'.xfull &&& ~~~q.xwrites }

/-- The lanes of a vector value: those active from `f`, the others as they were (R245). -/
def laneMerge (z : Nat) (act : BitVec 16) (old : Vec) (f : Nat → Nat) : Vec :=
  ofLanes z ((List.range (128 / z)).map fun i => if act.getLsbD i then f i else lane old z i)

/-- What a producer's bytes make of its destination (R203, R205, R209, R250 to R254): two values, and the results that count
flags and events with their format. -/
def Pend.result (p : Pend) : BitVec 192 × BitVec 192 × Option (Fmt × List FOut) × BitVec 5 :=
  let d := p.gather
  let ext (n : Nat) (signed : Bool) : BitVec 192 := ((if signed then sextN (8 * n) d else zextN (8 * n) d)).setWidth 192
  match p.finish with
  | .load n signed | .old n signed => (ext n signed, 0, none, 0)
  | .pair => (BitVec.ofNat 192 (d % 2 ^ 64), BitVec.ofNat 192 (d / 2 ^ 64 % 2 ^ 64), none, 0)
  | .lanes z act old => ((laneMerge z act old fun i => lane (BitVec.ofNat 128 d) z i).setWidth 192, 0, none, 0)
  | .splat z act old => ((laneMerge z act old fun _ => d % 2 ^ z).setWidth 192, 0, none, 0)
  | .vldf fmt et mode act old _ =>
    let outs := (List.range (etLanes et)).map fun i => if act.getLsbD i then vldfElem fmt.toNat et mode d i else bitsOut 0
    ((laneMerge (etBits et) act old fun i => (outs.getD i (bitsOut 0)).bits).setWidth 192, 0, (fmtOfEt et).map (·, outs),
      outs.foldl (fun a o => a ||| o.flags) 0)
  | .known a b flags => (a, b, none, flags)
  | .whole => (BitVec.ofNat 192 d, 0, none, 0)
  | .block cq4 _ => let (_, cnt, fl) := blockImage cq4 d; ((ofLanes 8 cnt).setWidth 192, 0, none, fl)

/-- What a window part of a producer finds at its place (R46, R54, R55): its bytes, a fault of its bank, or a bank that is
changing its mode. -/
def State.windowRead (s : State) (q : Piece) : Except (Option FaultInfo) Nat :=
  match s.windowState q.key q.len q.va with
  | .ok _ => .ok (merge q.len (readMem s.mem q.key q.len) q.omask q.odata)
  | .fault f => .error (some f)
  | _ => .error none

/-- Whether an earlier producer of the context has bytes of a part still open (R111). -/
def Ctx.behind (c : Ctx) (k : Nat) (q : Piece) : Bool :=
  (c.pends.take k).any fun p => p.pieces.any fun r => r.value.isNone && r.len != 0 && overlaps q.va.toNat q.len r.va.toNat r.len

/-- The window parts of a producer bound (R111): none when one has to wait, the fault a bank raises, or the producer. -/
def State.bindWindows (s : State) (c : Ctx) (k : Nat) (p : Pend) : Except (Option FaultInfo) Pend :=
  p.pieces.foldlM (fun (p' : Pend) q =>
    if !q.window || q.value.isSome || q.len = 0 then .ok { p' with pieces := p'.pieces ++ [q] }
    else if c.behind k q then .error none
    else match s.windowRead q with
      | .ok v => .ok { p' with pieces := p'.pieces ++ [{ q with value := some v }] }
      | .error e => .error e) { p with pieces := [] }

/-- A producer taken off its context, which goes on with it gone. -/
def Ctx.dropPend (c : Ctx) (seq : Nat) : Ctx := { c with pends := c.pends.filter (·.seq != seq) }

/-- A block whose source bytes have come is quantised, and its stores go to the store buffer once it has room, those it has no
entry for yet behind it (R201, R260). VCQ4's register then waits for the last of them to be written; VBXQ's flags are raised. -/
def State.storeBlock (s : State) (core k : Nat) (p : Pend) (cq4 : Option (BitVec 3 × List Nat × Nat)) (dst : List Store) : State :=
  if bufferSize ≤ (s.core core).stores.length then s
  else
    let (bs, _, fl) := blockImage cq4 p.gather
    let sts := (fillStores dst bs).mapIdx fun i st => { st with seq := s.seq + i }
    let s : State := { s.modCore core (fun c => { c with stores := c.stores ++ sts }) with seq := s.seq + sts.length }
    let s := sts.foldl (fun s st => s.pairNote core k st.seq [0, st.va.toNat, st.mask.toNat, st.data.toNat]) s
    if cq4.isNone then { ({ s with cur := (core, k) } : State).modCtx (·.dropPend p.seq) |>.raiseFlags fl with cur := s.cur }
    else s.modCtxOf core k fun c => { c with pends := c.pends.map fun q => if q.seq = p.seq then
      { q with seq := s.seq - 1, pieces := [hollow], finish := .known p.result.1 0 fl } else q }

/-- REGISTER_FILL (R111, R156, R203): the value of a context's producer `k` arrives. Its window parts are read; once every
part is bound the destination takes the value and is full, and flags it raises are raised. Data marked as uncorrectable leave
the destination empty and report POISON at the next issue (R202), and so does a bank that refuses its fault. -/
def execRegisterFill (core ctx k : Nat) (s : State) : Out :=
  event (coreIn core && decide (ctx < 11)) <|
    let c := (s.core core).ctx ctx
    match c.pends[k]? with
    | none => s
    | some p =>
      match s.bindWindows c k p with
      | .error none => s
      | .error (some f) =>
        (s.modCtxOf core ctx (·.dropPend p.seq)).defer core ctx p.seq c.region.domain ⟨f, p.pc⟩
      | .ok p =>
        let s := s.modCtxOf core ctx fun c => { c with pends := c.pends.map fun q => if q.seq = p.seq then p else q }
        if p.isRead || p.pieces.any (·.value.isNone) then s
        else match p.poison with
          | some pa =>
            (s.modCtxOf core ctx (·.dropPend p.seq)).defer core ctx p.seq c.region.domain ⟨atAddr .poison pa, p.pc⟩
          | none => match p.finish with
          | .block cq4 dst => s.storeBlock core ctx p cq4 dst
          | _ =>
            let (a, b, outs, flags) := p.result
            let s := s.modCtxOf core ctx fun c =>
              let c := (((c.dropPend p.seq).writeDest p.dest a b).fillMark p.dest).wake
              match outs with
              | none => c
              | some (f, os) => os.foldl (fun c o => c.countEvents (fmtIndex f) o.ev) c
            { ({ s with cur := (core, ctx) } : State).raiseFlags flags with cur := s.cur }

end Sys2Proof.Machine
end

