-- ==== Sys2Proof/Machine/Host.lean ====
section
/-!
DEFINITION. What enters and leaves the package through its ports (R329 to R336, R341, R342).
-/

namespace Sys2Proof.Machine

/-! ## Entry (R332 to R334) -/

/-- The tags of the devices of the package's pounds. -/
def State.allTags (s : State) : List Nat := s.pounds.flatMap fun p => (p.record.vdTags.filter (· != 0)).map (·.toNat)

/-- The valid entry a tagged send matches (R332): its device, number and kind. -/
def State.entryFor (s : State) (tag : Word) : Option (Nat × Nat × Nat) :=
  s.allTags.findSome? fun t => (List.range 64).findSome? fun n =>
    let kind := bits (s.devReg (.emEntry t n)) 1 0
    if s.devReg (.emTag t n) = tag && (kind == 1 || kind == 2) then some (t, n, kind) else none

/-- The cut whose marker a port has injected for a device's pound (R370); 0 for none. -/
def State.portMark (s : State) (half tag : Nat) : Nat :=
  ((s.poundOfTag tag).bind fun p => s.cuts.find? fun c => c.node == p.record.node.toNat && c.ports.contains (half / 2)).elim 0 (·.number)

/-- A message that enters through a port for a device (R329, R331, R333): its undeliverable return is discarded and counted for
the device's root region. -/
def State.enterPort (s : State) (half tag : Nat) (name : Word) (st : Status) (p : Payload) : State :=
  let m : Msg := ⟨name, st, p, Config.chip, outsider, .sys, [], 0, (s.vd tag).root, true, BitVec.ofNat 16 tag⟩
  let s := s.portCharge (portWord half) tag (s.vd tag).root m.bytes
  if nameChip name = Config.chip.toNat then
    { s with flight := s.flight ++ [⟨outsider, nameCore name, m, s.portMark half tag, tag⟩] }
  else s.admitFor tag (portCore (half / 2)) m

/-- A launch for a home core (R334): it parks in the spawn queue behind the launches that wait in the ring, or waits in the overflow ring of a device that is not
resident; none when there is no place. -/
def State.launch (s : State) (tag home n : Nat) (ws : List Word) : Option State :=
  let it : SpawnItem := ⟨.launch, BitVec.ofNat 64 (bits (s.devReg (.emEntry tag n)) 63 2 * 4), ws.headD 0, ws, outsider, home, 0, 0,
    BitVec.ofNat 16 tag, .sys, []⟩
  let it := { it with rcb := BitVec.ofNat 64 (bits (s.devReg (.emRcb tag n)) 63 6 * 64) }
  let mine := (s.poundOfTag tag).any fun p => decide (home < Config.workers) && nodeHas p.record.node (clusterOf home)
  if !mine then none
  else if (s.tagOf home).toNat ≠ tag || (s.core home).msgSaved then s.toOverflow (clusterOf home) tag (.launch home it)
  else
    let s := s.ringLaunches home
    if 32 ≤ (s.core home).spawnQ.length then none
    else some (s.modCore home fun c => { c with spawnQ := c.spawnQ ++ [it], sluiceDue := true })

/-- TAGGED_SEND_ACCEPT (R332 to R334): a port, named by its half code, accepts a tagged send that a valid entry of an open pound
matches; any other, and a packet that uses an option the part does not implement (R328), gets the transport's error response and
changes nothing else. -/
def execTaggedSendAccept (port : Nat) (asks : UeUse) (payload : List Word) (s : State) : Out :=
  event (decide (port < 24)) <|
    match asks with
    | .untyped | .deferrable | .atomic | .other => s.leave .refused
    | .tagged tag =>
      match s.entryFor tag with
      | none => s.leave .refused
      | some (t, n, kind) =>
        let ok := decide (1 ≤ payload.length) && decide (payload.length ≤ 4) && (s.poundOfTag t).any Pound.open_
        if !ok then s.leave .refused
        else if kind = 1 then s.enterPort port t tag .data (.words payload)
        else
          let s := s.portCharge (portWord port) t (s.vd t).root (8 * payload.length)
          (s.launch t (nameCore tag) n payload).getD (s.leave .refused)

/-- The words a message from a peer holds. -/
def peerWords : PeerPayload → List Word
  | .words ws => ws
  | .ladle _ ws => ws

/-- The payload that a message from a peer enters with. -/
def peerPayload : PeerPayload → Payload
  | .words ws => .words ws
  | .ladle op ws => .ladle (ladleOpOf op.toNat) ws

/-- PEER_MESSAGE_RECEIVE (R10, R331): a message from a peer package, of words or for a ladle, enters as if the port's router had
sent it: the home checks it. -/
def execPeerMessageReceive (port : Nat) (name : Word) (status : BitVec 2) (holds : PeerPayload) (s : State) : Out :=
  event (decide (port < 24)) <|
    let st : Status := match status.toNat with
      | 0 => .data | 1 => .error | 2 => .undeliv | _ => .notice
    let ws := peerWords holds
    if nameChip name ≠ Config.chip.toNat || ws.isEmpty || 4 < ws.length then s.leave .refused
    else s.enterPort port (nameTag name) name st (peerPayload holds)

/-! ## RMA windows (R335, R336) -/

/-- RMA_WRITE (R336): each 8-byte part of a write that passes goes to its home slice. -/
def execRmaWrite (key : Word) (off : Nat) (data : List Byte) (s : State) : Out := .next (s.rmaEnter true key off data.length data)

/-- RMA_READ (R336): a read that passes is served at the home slices. -/
def execRmaRead (key : Word) (off n : Nat) (s : State) : Out := .next (s.rmaEnter false key off n [])

/-- RMA_WRITE_COMPLETE (R336): the completion of the `k`-th RMA in progress, a write, leaves once every byte has performed. -/
def execRmaWriteComplete (k : Nat) (s : State) : Out :=
  .next <| match s.rmas[k]? with
    | none => s
    | some w => if !w.write || w.stall.isSome || w.left ≠ 0 then s else (s.dropRma w.id).leave (.rmaDone w.id)

/-! ## Completion (R341, R342) -/

/-- Emit (R342): the batch of an endpoint of a host, named by its route's chip number, leaves as one tagged send under the name of
its first message. -/
def State.emit (s : State) (tag chip endpoint : Nat) : State :=
  let b := lookupKey ⟨[], 0, 0⟩ (tag, chip, endpoint) s.batches
  match b.msgs with
  | [] => s
  | m :: _ =>
    let rte := s.devReg (.rte tag (nameChip m.name))
    let s := b.msgs.foldl (fun s m => s.portCharge rte tag m.lostAt m.bytes) s
    ({ s with batches := insertKey (tag, chip, endpoint) ⟨[], 0, 0⟩ s.batches } : State).leave (.tagged m.name b.msgs)

/-- An endpoint's batch emitted if its timer has run out (R342). -/
def State.timedOut (s : State) (tag chip endpoint : Nat) : State :=
  if (lookupKey ⟨[], 0, 0⟩ (tag, chip, endpoint) s.batches).timer = 0 then s.emit tag chip endpoint else s

/-- COMPLETION_ACCEPT (R341, R342): a port accepts flight `k`, a message for a host's completion endpoint, in order with those
of its sender to its channel; a batch whose timer has run out takes no more. -/
def execCompletionAccept (k : Nat) (s : State) : Out :=
  .next <| match s.flight[k]? with
    | none => s
    | some f =>
      if f.home ≠ Config.workers || nameChip f.msg.name = Config.chip.toNat ||
          (s.flight.take k).any (fun g => g.source == f.source && g.msg.name == f.msg.name) then s
      else
        let e := nameCore f.msg.name
        let h := nameChip f.msg.name
        let ctl := s.devReg (.compCtl f.tag e)
        let win := bits ctl 19 0
        let s := s.timedOut f.tag h e
        let b := lookupKey ⟨[], 0, 0⟩ (f.tag, h, e) s.batches
        let b' : Batch := if b.msgs.isEmpty then ⟨[f.msg], win, bits (s.devReg (.rte f.tag h)) 59 55 / 2⟩
          else { b with msgs := b.msgs ++ [f.msg] }
        let s : State := { s with flight := s.flight.eraseIdx k, batches := insertKey (f.tag, h, e) b' s.batches }
        if b'.msgs.length = bits ctl 31 26 + 1 || win = 0 then s.emit f.tag h e else s

/-- COMPLETION_TIMER_EXPIRE (R342). -/
def execCompletionTimerExpire (tag : Nat) (endpoint : HostEndpoint) (s : State) : Out :=
  .next (s.timedOut tag endpoint.chip endpoint.number)

end Sys2Proof.Machine
end

