-- ==== Sys2Proof/Machine/Launcher.lean ====
section
/-!
DEFINITION. The launcher: an object becomes channels, patterns, region blocks and images on a pound (R135, R136, R288, R304, R313, R322 to R324, R338, R403).
-/

namespace Sys2Proof.Machine

/-! ## Bytes of an image -/

/-- The number that `n` bytes of an image hold from an offset up (R2). -/
def imageNat (bs : List Byte) (off : Nat) : Nat → Nat
  | 0 => 0
  | n + 1 => (bs.getD off 0).toNat + 256 * imageNat bs (off + 1) n

/-- An image with bytes put in at an offset. -/
def imagePut (bs : List Byte) (off : Nat) (new : List Byte) : List Byte := bs.take off ++ new ++ bs.drop (off + new.length)

/-- The least multiple of `a` that is not below `n`. -/
def alignUp (n a : Nat) : Nat := if a = 0 then n else (n + a - 1) / a * a

/-! ## Placing sections and symbols (R135, R304) -/

/-- The address each section is placed at: .text sections one after another at their alignment, .data sections one after another
on pages of their own; 0 for the images, whose labels stand for offsets (R135; entry 24). -/
def sectionBases : List GofSection → Nat → Nat → List Nat
  | [], _, _ => []
  | x :: xs, t, d =>
    match x.kind with
    | .text => let a := alignUp t (2 ^ x.align); a :: sectionBases xs (a + x.bytes.length) d
    | .data => let a := alignUp d 65536; a :: sectionBases xs t (a + x.bytes.length)
    | _ => 0 :: sectionBases xs t d

/-- A core by coordinates relative to a pound's corner core, if it lies in the pound (R135, R313). -/
def Pound.homeAt (p : Pound) (x y : Nat) : Option Nat :=
  let k := nodeCorner p.record.node
  let cx := k % 32 * 8 + x
  let cy := k / 32 * 8 + y
  if cx < 256 && cy < 128 && nodeHas p.record.node (clusterOf (coreAt cx cy)) then some (coreAt cx cy) else none

/-- What a launch has placed: addresses of the sections, the channels' names, the patterns' words, the regions' blocks. -/
structure Placed where
  bases  : List Nat
  names  : List Word
  words  : List Word
  blocks : List Word
  deriving DecidableEq, Repr

/-- The value of a symbol once placed (R303). -/
def Placed.value (p : Placed) (y : GofSymbol) : Word :=
  match y.kind with
  | .label | .body => BitVec.ofNat 64 ((y.section_.bind fun i => p.bases[i]?).getD 0) + y.value
  | .equ | .gang => y.value
  | .channel => p.names.getD y.value.toNat 0
  | .pattern => p.words.getD y.value.toNat 0
  | .region => p.blocks.getD y.value.toNat 0

/-- A section's bytes with one relocation applied (R304): the bytes there are its addend. IMM39's value stands in the payload of a
HINT.IMM and the imm15 field of the word after it (R157). -/
def Placed.relocate (p : Placed) (syms : List GofSymbol) (bs : List Byte) (r : GofReloc) : List Byte :=
  let v := ((syms[r.symbol]?).map p.value).getD 0
  match r.type with
  | .abs64 => imagePut bs r.offset (toBytes 8 (v.toNat + imageNat bs r.offset 8))
  | .chan64 | .rcb64 => imagePut bs r.offset (toBytes 8 v.toNat)
  | .imm39 =>
    let h := imageNat bs r.offset 4
    let w := imageNat bs (r.offset + 4) 4
    let n := (v.toNat + (h % 2 ^ 24 * 2 ^ 15 + w / 2 % 2 ^ 15)) % 2 ^ 39
    imagePut bs r.offset (toBytes 4 (h / 2 ^ 24 * 2 ^ 24 + n / 2 ^ 15) ++
      toBytes 4 (w / 2 ^ 16 * 2 ^ 16 + n % 2 ^ 15 * 2 + w % 2))

/-- The sections of an object with their relocations applied. -/
def Placed.images (p : Placed) (o : GofObject) : List (GofSection × List Byte) :=
  o.sections.mapIdx fun i x => (x, (o.relocs.filter fun r => r.section_ == i).foldl (p.relocate o.symbols) x.bytes)

/-! ## Region control blocks (R324, R338, R403) -/

/-- The 256 bytes of a block (R338). -/
def blockBytes (parent : Word) (set : Nat) (wdog : BitVec 32) (prio : BitVec 3) (paired : Bool) (radius : BitVec 4)
    (domain : BitVec 32) (energy cycles spans errCh budCh cntEp : Word) (sysbase : Nat) (thr : List (BitVec 32)) : List Byte :=
  toBytes 8 parent.toNat ++ toBytes 4 set ++ toBytes 4 0 ++ toBytes 4 wdog.toNat ++
    [prio.setWidth 8, BitVec.ofNat 8 (num paired), radius.setWidth 8, 0] ++ toBytes 4 domain.toNat ++ toBytes 4 0 ++
    toBytes 8 energy.toNat ++ toBytes 8 cycles.toNat ++ toBytes 8 spans.toNat ++ toBytes 8 0 ++ toBytes 8 errCh.toNat ++
    toBytes 8 budCh.toNat ++ toBytes 8 cntEp.toNat ++ toBytes 2 (sysbase / 1024) ++ toBytes 6 0 ++ toBytes 64 0 ++
    ((List.range 16).flatMap fun i => toBytes 4 (thr.getD i 0).toNat) ++ toBytes 32 0

/-- The root's block: the driver's values, and R403's where it gives none. -/
def rootBytes (r : LaunchRequest) (sysbase : Nat) : List Byte :=
  let full : Word := BitVec.allOnes 64
  blockBytes 0 0 (r.wdog.getD 0) (r.prio.getD 0) (r.paired.getD false) (r.radius.getD 0) (r.domain.getD 0) (r.energy.getD full)
    (r.cycles.getD full) (r.spans.getD full) (r.errCh.getD 0) (r.budCh.getD 0) (r.cntEp.getD 0) sysbase r.thr

/-- The block of a declared region: the fields given, with their SET bits (R324, R338). -/
def regionBytes (rootAt : Word) (p : Placed) (g : GofRegion) : List Byte :=
  let name (i : Option Nat) : Word := (i.map fun k => p.names.getD k 0).getD 0
  let parent := (g.parent.map fun k => p.blocks.getD k 0).getD rootAt
  let set := num g.watchdog.isSome + 2 * num g.energy.isSome + 4 * num g.cycles.isSome + 8 * num g.spans.isSome +
    16 * num g.priority.isSome + 32 * num g.domain.isSome + 64 * num g.paired.isSome + 128 * num g.error.isSome +
    256 * num g.budget.isSome + 512 * num g.radius.isSome
  blockBytes parent set (g.watchdog.getD 0) (g.priority.getD 0) (g.paired.getD false) (g.radius.getD 0) (g.domain.getD 0)
    (g.energy.getD 0) (g.cycles.getD 0) (g.spans.getD 0) (name g.error) (name g.budget) 0 0 []

/-- Bytes written at an address of a device, 16 at a time; none when a page of theirs is not mapped to local DRAM. -/
def State.pokeRun (s : State) (tag : Nat) (va : Nat) (bs : List Byte) : Option State :=
  (List.range ((bs.length + 15) / 16)).foldl (fun s i => s.bind fun s =>
    let a := BitVec.ofNat 64 (va + 16 * i)
    if (s.blockAt tag a).isNone then none else some (s.pokeVa tag a ((bs.drop (16 * i)).take 16))) (some s)

/-! ## The launcher's steps (R135, R136, R288, R313) -/

/-- A declared channel created on its home (R288); none when its home has no slot or ring space left. -/
def State.launchChannel (s : State) (p : Pound) (c : GofChannel) : Option (Word × State) :=
  (p.homeAt c.x c.y).bind fun n => (kindOf c.kind.toNat).bind fun k =>
    let (name, s) := s.newChannel n k (ladleOpOf c.op.toNat) c.nm1 0 0 0
    if name.toNat < 3 then none else some (name, s)

/-- The declared channels created in their order. -/
def State.launchChannels (s : State) (p : Pound) : List GofChannel → Option (List Word × State)
  | [] => some ([], s)
  | c :: cs => (s.launchChannel p c).bind fun (n, s) => (s.launchChannels p cs).map fun (ns, s) => (n :: ns, s)

/-- A created channel's relay target and creating region, once names and blocks stand (R14, R136). -/
def State.finishChannel (s : State) (tag : Nat) (p : Placed) (rootAt : Word) (c : GofChannel) (name : Word) : State :=
  let rcb := (c.region.map fun k => p.blocks.getD k 0).getD rootAt
  let err := s.errChOf tag rcb
  let target := (c.target.map fun k => p.names.getD k 0).getD 0
  s.modCore (nameCore name) (·.modChan (nameSlot name) fun k => { k with target := target, region := rcb, errCh := err })

/-- A declared pattern installed in the lowest free slot of its home (R288), with its word (R226); none when the home has none, or
the pattern may not stand there. -/
def State.launchPattern (s : State) (p : Pound) (q : Placed) (syms : List GofSymbol) (rootAt : Word) (g : GofPattern) :
    Option (Word × State) :=
  (p.homeAt g.x g.y).bind fun n =>
    let names := g.chans.map fun i => q.names.getD i 0
    let chans := names.map fun m => BitVec.ofNat 6 (nameSlot m)
    let entry := ((syms[g.body]?).map q.value).getD 0
    let rcb := (g.region.map fun k => q.blocks.getD k 0).getD rootAt
    let c := s.core n
    if names.any (fun m => nameCore m != n) || !c.patternOk chans entry rcb then none
    else ((List.range 32).find? fun i => (c.pat i).isNone).map fun slot =>
      let word := BitVec.ofNat 64 ((chans.length - 1) * 2 ^ 38 + ((chans.mapIdx fun i k => k.toNat * 2 ^ (14 + 6 * i)).sum) +
        g.rank.toNat * 2 ^ 11 + num g.fair * 2 ^ 10 + num g.ctrl * 2 ^ 9 + slot)
      (word, s.modCore n fun c => { c.setPat slot (some ⟨chans, g.rank, g.fair, g.ctrl, entry, rcb⟩) with sluiceDue := true })

/-- The declared patterns installed in their order. -/
def State.launchPatterns (s : State) (p : Pound) (q : Placed) (syms : List GofSymbol) (rootAt : Word) :
    List GofPattern → Option (List Word × State)
  | [] => some ([], s)
  | g :: gs => (s.launchPattern p q syms rootAt g).bind fun (w, s) =>
    (s.launchPatterns p q syms rootAt gs).map fun (ws, s) => (w :: ws, s)

/-- Whether every page that a run of a device's addresses touches has a leaf that passes a test. -/
def State.pagesPass (s : State) (tag va n : Nat) (f : Word → Bool) : Bool :=
  (List.range (if n = 0 then 0 else (va % 2 ^ 16 + n - 1) / 2 ^ 16 + 1)).all fun i =>
    (s.leafOfTag tag (BitVec.ofNat 64 ((va / 2 ^ 16 + i) * 2 ^ 16))).any fun x => f x.2

/-- The SCRATCH banks without SYS of a cluster, in increasing number (R135). -/
def State.plainBanks (s : State) (cluster : Nat) : List Nat :=
  (List.range 16).filter fun b => ((s.cluster cluster).bank b).mode == .scratch && !((s.cluster cluster).bank b).sys

/-- A section's image written where R135 places it; none when it does not fit, a page is not mapped, .text would lie without execute
permission, or .data in another element format than its own. -/
def State.launchSection (s : State) (tag : Nat) (p : Pound) (sysbase base : Nat) (x : GofSection) (bs : List Byte) : Option State :=
  match x.kind with
  | .text => if s.pagesPass tag base bs.length leafX then s.pokeRun tag base bs else none
  | .data => if s.pagesPass tag base bs.length fun l => leafFmt l == x.fmt.toNat then s.pokeRun tag base bs else none
  | .ls =>
    if sysbase < bs.length then none
    else some { s with mem := p.workers.foldl (fun m n => writeMem m (lsKey n 0) bs) s.mem }
  | .cstore =>
    if (nodeClusters p.record.node).any fun k => decide (65536 * (s.plainBanks k).length < bs.length) then none
    else some { s with mem := (nodeClusters p.record.node).foldl (fun m k =>
      (s.plainBanks k).zipIdx.foldl (fun m b => writeMem m (csKey k b.1 0) ((bs.drop (65536 * b.2)).take 65536)) m) s.mem }
  | .wslice x y =>
    if Config.sliceSize < bs.length then none
    else (p.homeAt x y).map fun n => { s with weights := writeMem s.weights (wsKey n 0) bs }

/-- Whether SYSBASE may be what an object asks for (R48): a multiple of 1 KiB from 0x1000 to 0x5000, and no other than the one that
the cores of a device already launched have. -/
def State.sysbaseOk (s : State) (tag : Nat) (p : Pound) (n : Nat) : Bool :=
  n % 0x400 == 0 && decide (0x1000 ≤ n) && decide (n ≤ 0x5000) &&
    ((s.vd tag).root == 0 || p.workers.all fun c => (s.core c).sysbase == n)

/-- The whole launch of an object for a device that is resident on its pound (R48, R135, R288, R304, R313, R403); none when the
launcher refuses it, and then nothing has changed. Every Ptr of the pound's cores starts at 0 (R288), and blocks written anew may
send their budget notices again (R29). -/
def State.launchObject (s : State) (o : GofObject) (r : LaunchRequest) (tag : Nat) (p : Pound) : Option State :=
  if p.resident != some (BitVec.ofNat 16 tag) || !s.sysbaseOk tag p o.sysbase || o.sections.any (fun x => x.kind == .ls && decide (o.sysbase < x.bytes.length)) then none
  else
    let s := p.workers.foldl (fun s n => s.modCore n fun c => { c with sysbase := o.sysbase, ptr := Vector.replicate 8 0 }) s
    (s.launchChannels p o.channels).bind fun (names, s) =>
      let q : Placed := ⟨sectionBases o.sections r.textAt.toNat r.dataAt.toNat, names, [], r.blocks⟩
      (s.pokeRun tag r.rootAt.toNat (rootBytes r o.sysbase)).bind fun s =>
        (o.regions.zipIdx.foldl (fun (s : Option State) g => s.bind fun s =>
          s.pokeRun tag (q.blocks.getD g.2 0).toNat (regionBytes r.rootAt q g.1)) (some s)).bind fun s =>
            let s := (o.channels.zip names).foldl (fun s c => s.finishChannel tag q r.rootAt c.1 c.2) s
            (s.launchPatterns p q o.symbols r.rootAt o.patterns).bind fun (words, s) =>
              let q := { q with words := words }
              ((q.images o).zip q.bases).foldl (fun (s : Option State) x => s.bind fun s =>
                s.launchSection tag p o.sysbase x.2 x.1.1 x.1.2) (some s) |>.map fun s =>
                  { s.modVd tag fun v => { v with root := r.rootAt } with
                    noticed := s.noticed.filter fun b =>
                      !(b.1 == tag && (r.rootAt :: r.blocks).any fun a => decide ((b.2.1 - a).toNat < 256))
                    snivis := { s.snivis with syms := o.symbols.map fun y => { y with value := q.value y } } }

/-- LOAD (R288, R313): the session's pound is given an object; no body runs until a message arrives. -/
def execLoad (image : GofObject) (request : LaunchRequest) (s : State) : Out :=
  .next <| match s.snivis.tag with
    | none => s
    | some tag =>
      match s.poundOfTag tag with
      | none => s
      | some p => (s.launchObject image request tag p).getD (s.print "load refused" [])

end Sys2Proof.Machine
end

