-- ==== Sys2Proof/Machine/Migration.lean ====
section
/-!
DEFINITION. Migration units (R354 to R358).
-/

namespace Sys2Proof.Machine

/-- The clusters of a device's pound. -/
def State.clustersOf (s : State) (tag : Nat) : List Nat :=
  ((s.poundOfTag tag).map fun p => nodeClusters p.record.node).getD []

/-- The tag and page of a migration (R354). -/
def Mig.tag (m : Mig) : Nat := bits m.va 15 0
/-- The first address of a migration's page. -/
def Mig.page (m : Mig) : Nat := bits m.va 63 16 * 2 ^ 16

/-- A migration entry changed. -/
def State.modMigOf (s : State) (stack entry : Nat) (f : Mig → Mig) : State := s.modStack stack (·.modMig entry f)

/-- CLAIM (R355, R358): an idle entry claims a page that no entry of its unit holds; otherwise REFUSED. -/
def execClaim (stack entry req : Nat) (va : Word) (s : State) : Out :=
  event (unitIn stack entry) <|
    let t := s.stack stack
    let m := t.migEntry entry
    let taken := (List.range 16).any fun i => i != entry && (t.migEntry i).state != .idle && (t.migEntry i).va == va
    if m.state ≠ .idle then s
    else if taken then s.modMigOf stack entry fun m => { m with refused := true }
    else s.modMigOf stack entry fun m =>
      { m with va := va, state := .claimed, req := BitVec.ofNat 2 req, refused := false, retire := false, held := [] }

/-- START (R355): HOLD begins for a page that a hashed entry maps. -/
def execStart (stack entry : Nat) (s : State) : Out :=
  event (unitIn stack entry) <|
    let m := (s.stack stack).migEntry entry
    if m.state ≠ .claimed then s
    else match s.bucketLookup m.tag (m.page / 2 ^ 16) with
      | none => s
      | some l => s.modMigOf stack entry fun m => { m with state := .hold, oldLeaf := l }

/-- MIGRATION_HOLD_READY (R355): every slice is holding. -/
def execMigrationHoldReady (stack entry : Nat) (s : State) : Out :=
  event (unitIn stack entry) <|
    if ((s.stack stack).migEntry entry).state = .hold then s.modMigOf stack entry fun m => { m with state := .copy } else s

/-- A page's bytes of a host or pool frame, which the part reads from outside. -/
def State.outsidePage (s : State) : List Byte × State :=
  ((List.range 65536).map fun i => (Config.freeValue (s.freeCtr + i)).setWidth 8, { s with freeCtr := s.freeCtr + 65536 })

/-- MIGRATION_COPY_DONE (R355): the old frame's 64 KiB, as they decrypt under its key, are written to a new local frame under
MIGDST's; lines marked uncorrectable stay so. -/
def execMigrationCopyDone (stack entry : Nat) (s : State) : Out :=
  event (unitIn stack entry) <|
    let m := (s.stack stack).migEntry entry
    if m.state ≠ .copy then s
    else
      let old := leafFrame m.oldLeaf * 2 ^ 16
      let new := leafFrame m.dst * 2 ^ 16
      let (bs, s) := if leafTgt m.oldLeaf = 0 then
          ((List.range 512).flatMap fun i => toBytes 128 (s.lineUnder (old + 128 * i) (leafKey m.oldLeaf)), s)
        else s.outsidePage
      let s := if leafTgt m.dst ≠ 0 then s else
        let s := s.pinWrite new (leafKey m.dst) bs
        if leafTgt m.oldLeaf ≠ 0 then s
        else { s with poisoned := s.poisoned ++ (s.poisoned.filter fun l => decide (old ≤ l) && decide (l < old + 2 ^ 16)).map fun l => l - old + new }
      s.modMigOf stack entry fun m => { m with state := .remap }

/-- The leaf a migration writes (R354): TGT, CHIP, KEY and FRAME of MIGDST, the rest of the old leaf. -/
def newLeaf (old dst : Word) : Word :=
  (old &&& ~~~0x7FE0003FFFFFFFFF) ||| (dst &&& 0x7FE0003FFFFFFFFF)

/-- Where the bucket entry of a page stands (R344, R346): the address of its leaf word. -/
def State.leafPlace (s : State) (tag vpn : Nat) : Option Nat :=
  (s.shardOf tag vpn).bind fun c =>
    let r := s.devReg (.ptShard c tag)
    let b := bits r 4 0
    let at_ := bits r 37 12 * 2 ^ 12 + 128 * (pageHash vpn tag % 2 ^ b)
    ((List.range 8).find? fun i => s.readPhys (at_ + 16 * i) 8 == vpn * 2 ^ 16 + tag &&
      leafV (BitVec.ofNat 64 (s.readPhys (at_ + 16 * i + 8) 8))).map fun i => at_ + 16 * i + 8

/-- Whether an access to a page of a device, translated by a core of its pound, has not performed (R218, R351). -/
def State.pageOpen (s : State) (tag page : Nat) : Bool :=
  let hit (a _ : Nat) : Bool := a / 2 ^ 16 == page / 2 ^ 16
  let cs := s.clustersOf tag
  s.cores.any (fun c => cs.contains (clusterOf c.1) && c.2.translatedOpen hit) ||
    s.requests.any fun r => r.tag.toNat == tag && hit r.va.toNat 0

/-- Translations of a page dropped from every TLB of a device's pound (R218, R351). -/
def State.dropPage (s : State) (tag page : Nat) : State :=
  let keep (t : List TlbEntry) : List TlbEntry := t.filter fun e =>
    !(e.tag.toNat == tag && decide (e.first ≤ page) && decide (page < e.limit))
  let cs := s.clustersOf tag
  { s with
    cores := s.cores.map fun c => if cs.contains (clusterOf c.1) then (c.1, { c.2 with dtlb := keep c.2.dtlb, itlb := keep c.2.itlb }) else c
    clusters := s.clusters.map fun c => if cs.contains c.1 then (c.1, { c.2 with tlb := keep c.2.tlb }) else c }

/-- MIGRATION_REMAP_DONE (R351, R355): the new leaf stands, every keeper of the pound has dropped the old one, and the accesses
translated through it have performed. -/
def execMigrationRemapDone (stack entry : Nat) (s : State) : Out :=
  event (unitIn stack entry) <|
    let m := (s.stack stack).migEntry entry
    if m.state ≠ .remap then s
    else
      let s := match s.leafPlace m.tag (m.page / 2 ^ 16) with
        | none => s
        | some a => { s with mem := writeMem s.mem a (toBytes 8 (newLeaf m.oldLeaf m.dst).toNat) }
      let s := s.dropPage m.tag m.page
      if s.pageOpen m.tag m.page then s else s.modMigOf stack entry fun m => { m with state := .drain }

/-- Held writes made to a frame in the order the slices accepted them (R355). -/
def State.applyHeld (s : State) (m : Mig) (new : Bool) : State :=
  let l := if new then m.dst else m.oldLeaf
  m.held.foldl (fun s r =>
    match r.op with
    | .write mask data =>
      let pa := leafFrame l * 2 ^ 16 + r.pa % 2 ^ 16
      if leafTgt l = 0 then s.writeDram pa (leafKey l) mask data.toNat
      else { s with remote := s.remote ++ [{ r with pa := pa, key := leafKey l, chip := leafChip l, target := leafTgt l, asker := .rma 0 }] }
    | _ => s) s

/-- MIGRATION_DRAIN_DONE (R355): held writes are in the new frame and the hold is empty. -/
def execMigrationDrainDone (stack entry : Nat) (s : State) : Out :=
  event (unitIn stack entry) <|
    let m := (s.stack stack).migEntry entry
    if m.state ≠ .drain then s
    else (s.applyHeld m true).modMigOf stack entry fun m => { m with state := .forward, held := [] }

/-- The frames a classified entry of a DRAM table has had retired, where no spare repairs it (R391). -/
def DramEntry.frames (stack : Nat) (e : DramEntry) : List Nat :=
  match e.cls with
  | none => []
  | some .bank => Config.dramFrames stack e.cell.channel e.cell.bank none none
  | some .column => Config.dramFrames stack e.cell.channel e.cell.bank none (some e.cell.col)
  | some .row | some .cell => Config.dramFrames stack e.cell.channel e.cell.bank (some e.cell.row) none

/-- A frame is retired for good (R392), counted in a block (R397); classified entries whose frames are all retired leave their
tables (R391). -/
def State.retireFrame (s : State) (frame block : Nat) : State :=
  let retired := if s.retired.contains frame then s.retired else frame :: s.retired
  { s.countError block 4 with
    retired := retired
    stk := s.stk.mapFinIdx fun i t _ => { t with
      dram := t.dram.filter fun e => e.cls.isNone || e.spared || !(e.frames i).all retired.contains } }

/-- The error-counter block of what happens to a frame or line under a key slot of a stack (R384, R398): the pound that holds
the slot, or the wharf for slot 0. -/
def State.slotBlock (s : State) (stack slot : Nat) : Nat :=
  if slot = 0 then 0 else
    ((s.pounds.find? fun p => (p.record.keyMasks.getD stack 0).getLsbD slot).map fun p => 2 ^ 16 + p.record.node.toNat).getD 0

/-- The block of a DRAM line, by the slot it was last written under. -/
def State.lineBlock (s : State) (line : Nat) : Nat := s.slotBlock (paStack line) (lookupD 0 (lineOf line) s.lineKeys)

/-- The block of a frame no page maps: that of its first line written under a slot. -/
def State.frameBlock (s : State) (frame : Nat) : Nat :=
  ((s.lineKeys.find? fun l => l.1 / 2 ^ 16 == frame && l.2 != 0).map fun l => s.lineBlock l.1).getD 0

/-- RELEASE of a migration (R355): the old frame returns to the free pool, or is retired. -/
def execMigRelease (stack entry : Nat) (s : State) : Out :=
  event (unitIn stack entry) <|
    let m := (s.stack stack).migEntry entry
    if m.state ≠ .forward then s
    else
      let s := if (m.retire || m.req == 2) && leafTgt m.oldLeaf == 0 then s.retireFrame (leafFrame m.oldLeaf) (s.slotBlock (leafFrame m.oldLeaf / 2 ^ 20 % 4) (leafKey m.oldLeaf)) else s
      s.modMigOf stack entry fun m => { m with state := .idle, retire := false }

/-- CANCEL (R355). -/
def execCancel (stack entry : Nat) (s : State) : Out :=
  event (unitIn stack entry) <|
    let m := (s.stack stack).migEntry entry
    if m.state = .claimed || m.state = .aborted then s.modMigOf stack entry fun m => { m with state := .idle } else s

/-- A retirement of a frame requested (R358, R392): a live migration from it retires it at RELEASE; one to it is aborted before
REMAP begins, and its held writes go to the old frame; a mapped page is claimed for migration when its unit has an idle entry;
a frame that nothing maps is retired at once. -/
def State.requestRetire (s : State) (frame : Nat) : State :=
  let units := (List.range 64).filter fun i =>
    let m := (s.stack (i / 16)).migEntry (i % 16)
    m.state != .idle
  let entry (i : Nat) : Mig := (s.stack (i / 16)).migEntry (i % 16)
  match units.find? (fun i => (entry i).state.active && leafTgt (entry i).oldLeaf == 0 && leafFrame (entry i).oldLeaf == frame) with
  | some i => s.modMigOf (i / 16) (i % 16) fun m => { m with retire := true }
  | none =>
    match units.find? (fun i => leafTgt (entry i).dst == 0 && leafFrame (entry i).dst == frame &&
        ((entry i).state == .claimed || (entry i).state == .hold || (entry i).state == .copy)) with
    | some i => (s.applyHeld (entry i) false).modMigOf (i / 16) (i % 16) fun m => { m with state := .aborted, held := [] }
    | none =>
      let page : Option (Nat × Nat) := s.pounds.findSome? fun p => (p.record.vdTags.filter (· != 0)).findSome? fun t =>
        (nodeClusters p.record.node).findSome? fun c =>
          let r := s.devReg (.ptShard c t.toNat)
          let b := bits r 4 0
          if b < 4 || 20 < b then none else (List.range (2 ^ b * 8)).findSome? fun i =>
            let at_ := bits r 37 12 * 2 ^ 12 + 16 * i
            let leaf := BitVec.ofNat 64 (s.readPhys (at_ + 8) 8)
            if s.readPhys at_ 8 % 2 ^ 16 = t.toNat && leafV leaf && leafTgt leaf == 0 && leafFrame leaf == frame then
              some (t.toNat, s.readPhys at_ 8 / 2 ^ 16) else none
      match page with
      | none =>
        if s.pounds.any (fun p => (s.poundFrames p).contains frame) then s else s.retireFrame frame (s.frameBlock frame)
      | some (tag, vpn) =>
        let stack := ((s.shardOf tag vpn).map stackOfCluster).getD 0
        let va := BitVec.ofNat 64 (vpn * 2 ^ 16 + tag)
        match (List.range 16).find? fun i => ((s.stack stack).migEntry i).state == .idle with
        | none => s
        | some i =>
          if (List.range 16).any fun j => ((s.stack stack).migEntry j).state != .idle && ((s.stack stack).migEntry j).va == va then s
          else s.modMigOf stack i fun m => { m with va := va, state := .claimed, req := 2, refused := false, retire := false, held := [] }

end Sys2Proof.Machine
end

