-- ==== Sys2Proof/Machine/AsmText.lean ====
section
/-!
DEFINITION. The text of ngatur's source: lines, tokens, numbers, registers and expressions (R127 to R129, R140).
-/

namespace Sys2Proof.Machine

/-! ## Lines and tokens (R127, R128) -/

/-- A token of a source line. -/
inductive Tok where
  /-- A name, a directive, a mnemonic with its suffixes, or a register. -/
  | word (cs : List Char)
  /-- A number: its value, and whether it was written in hexadecimal. -/
  | num (v : Nat) (hex : Bool)
  /-- A decimal real: its digits as one number, and the power of ten that scales it. -/
  | real (man : Nat) (exp : Int)
  /-- A number with misplaced underscores (R128). -/
  | badNum
  /-- Any other character. -/
  | ch (c : Char)
  /-- `<<` -/
  | shl
  /-- `>>` -/
  | shr
  deriving DecidableEq, Repr

/-- Letters, digits and underscore. -/
def isNameChar (c : Char) : Bool := c.isAlphanum || c == '_'

/-- The value of a digit in base 16. -/
def digitVal (c : Char) : Nat :=
  if c.isDigit then c.toNat - '0'.toNat
  else if 'a' ≤ c && c ≤ 'f' then c.toNat - 'a'.toNat + 10
  else if 'A' ≤ c && c ≤ 'F' then c.toNat - 'A'.toNat + 10
  else 16

/-- Digits as a number in a base. -/
def digitsVal (base : Nat) (cs : List Char) : Nat := cs.foldl (fun n c => n * base + digitVal c) 0

/-- The runs between the underscores of a text. -/
def splitOn (sep : Char) : List Char → List (List Char)
  | [] => [[]]
  | c :: cs =>
    match splitOn sep cs with
    | [] => [[c]]
    | r :: rs => if c == sep then [] :: r :: rs else (c :: r) :: rs

/-- A text that begins with a digit, as a token (R128, R140). -/
def numTok (cs : List Char) : Option Tok :=
  match cs with
  | '0' :: x :: rest =>
    if x == 'x' then
      let groups := splitOn '_' rest
      if groups.any fun g => g.any fun c => digitVal c = 16 then none
      else if rest.isEmpty || (groups.getD 0 []).isEmpty || (groups.tail.any fun g => g.length ≠ 4) ||
          (1 < groups.length && 4 < (groups.getD 0 []).length) then some .badNum
      else some (.num (digitsVal 16 groups.flatten) true)
    else decimal cs
  | _ => decimal cs
where
  /-- Digits, or a real with a point or an exponent. -/
  decimal (cs : List Char) : Option Tok :=
    let whole := cs.takeWhile Char.isDigit
    let r := cs.dropWhile Char.isDigit
    let (frac, r, point) := match r with
      | '.' :: t => (t.takeWhile Char.isDigit, t.dropWhile Char.isDigit, true)
      | _ => ([], r, false)
    let man := digitsVal 10 (whole ++ frac)
    match r with
    | [] => if point then some (.real man (-(frac.length : Int))) else some (.num man false)
    | e :: t =>
      if e == 'e' || e == 'E' then
        let (neg, ds) := match t with
          | '-' :: ds => (true, ds)
          | '+' :: ds => (false, ds)
          | ds => (false, ds)
        if ds.isEmpty || ds.any (fun c => !c.isDigit) then none
        else
          let n : Int := digitsVal 10 ds
          some (.real man ((if neg then -n else n) - frac.length))
      else if cs.all fun c => c.isDigit || c == '_' then some .badNum
      else none

/-- The characters of a number: letters, digits, underscores, points, and a sign after the e of an exponent. -/
def takeNumber (hex : Bool) : List Char → List Char × List Char
  | [] => ([], [])
  | c :: cs =>
    if isNameChar c || c == '.' then
      let (a, b) := takeNumber hex cs
      if !hex && (c == 'e' || c == 'E') && a.isEmpty then
        match cs with
        | s :: ds => if s == '-' || s == '+' then
            let n := ds.takeWhile Char.isDigit
            if n.isEmpty then ([c], cs) else (c :: s :: n, ds.dropWhile Char.isDigit)
          else ([c], cs)
        | [] => ([c], [])
      else (c :: a, b)
    else ([], c :: cs)

/-- Whether a text begins a hexadecimal number. -/
def isHexText : List Char → Bool
  | '0' :: x :: _ => x == 'x'
  | _ => false

/-- The tokens of a line up to its comment (R127); none when a part of it is no token. -/
def tokens : Nat → List Char → Option (List Tok)
  | 0, _ => some []
  | n + 1, cs =>
    match cs with
    | [] => some []
    | c :: rest =>
      if c == ' ' || c == '\t' || c == '\r' then tokens n rest
      else if c == ';' then some []
      else if c == '/' && rest.head? == some '/' then some []
      else if c == '<' && rest.head? == some '<' then (tokens n rest.tail).map (.shl :: ·)
      else if c == '>' && rest.head? == some '>' then (tokens n rest.tail).map (.shr :: ·)
      else if c.isDigit then
        let (d, r) := takeNumber (isHexText cs) cs
        (numTok d).bind fun t => (tokens n r).map (t :: ·)
      else if c.isAlpha || c == '_' || c == '.' then
        let w := cs.takeWhile fun c => isNameChar c || c == '.'
        (tokens n (cs.dropWhile fun c => isNameChar c || c == '.')).map (.word w :: ·)
      else (tokens n rest).map (.ch c :: ·)

/-- Whether a token is a number of more than 64 bits, which no expression's arithmetic holds (R128). -/
def Tok.isBig : Tok → Bool
  | .num v _ => decide (2 ^ 64 ≤ v)
  | _ => false

/-- The tokens of a line. -/
def lineToks (cs : List Char) : Option (List Tok) := tokens (cs.length + 1) cs

/-- A text in small letters. -/
def lower (cs : List Char) : List Char := cs.map Char.toLower

/-- The parts of a mnemonic between its dots, in small letters. -/
def dotParts (cs : List Char) : List (List Char) := splitOn '.' (lower cs)

/-- Tokens split at the commas that stand outside brackets. -/
def splitCommas (ts : List Tok) : List (List Tok) :=
  let (done, cur, _) := ts.foldl (fun (acc : List (List Tok) × List Tok × Nat) t =>
    let (done, cur, depth) := acc
    match t with
    | .ch '(' | .ch '[' => (done, t :: cur, depth + 1)
    | .ch ')' | .ch ']' => (done, t :: cur, depth - 1)
    | .ch ',' => if depth = 0 then (cur.reverse :: done, [], 0) else (done, t :: cur, depth)
    | _ => (done, t :: cur, depth)) ([], [], 0)
  if ts.isEmpty then [] else (cur.reverse :: done).reverse

/-! ## Registers (R129) -/

/-- A register as source names it. -/
inductive AReg where
  | x (i : Nat) | v (i : Nat) | w (i : Nat) | m (i : Nat) | q (i : Nat) | a (i : Nat)
  deriving DecidableEq, Repr

/-- The register that a name in small letters has, if any (R129). -/
def regOf (cs : List Char) : Option AReg :=
  match cs with
  | c :: ds =>
    if ds.isEmpty || 2 < ds.length || ds.any (fun d => !d.isDigit) || (1 < ds.length && ds.head? == some '0') then none
    else
      let i := digitsVal 10 ds
      if c == 'x' && i < 32 then some (.x i) else if c == 'v' && i < 16 then some (.v i)
      else if c == 'w' && i < 8 then some (.w i) else if c == 'm' && i < 16 then some (.m i)
      else if c == 'q' && i < 4 then some (.q i) else if c == 'a' && i < 8 then some (.a i) else none
  | [] => none

/-- Whether a text is a symbol's name (R127): 1 to 63 letters, digits and underscores, not beginning with a digit, and not the name
of a register. -/
def isSymbol (cs : List Char) : Bool :=
  cs.all isNameChar && decide (cs.length ≤ 63) && (match cs with
    | c :: _ => !c.isDigit
    | [] => false) && (regOf (lower cs)).isNone

/-! ## Expressions (R128) -/

/-- The binary operators. -/
inductive BinOp where
  | mul | div | rem | add | sub | shl | shr | and | xor | or
  deriving DecidableEq, Repr

/-- An expression. -/
inductive Expr where
  | num (v : Word)
  | sym (name : String)
  | neg (e : Expr)
  | not (e : Expr)
  | bin (op : BinOp) (a b : Expr)
  deriving DecidableEq, Repr

/-- The operator that a token is, with its precedence. -/
def opOf : Tok → Option (BinOp × Nat)
  | .ch '*' => some (.mul, 2)
  | .ch '/' => some (.div, 2)
  | .ch '%' => some (.rem, 2)
  | .ch '+' => some (.add, 3)
  | .ch '-' => some (.sub, 3)
  | .shl => some (.shl, 4)
  | .shr => some (.shr, 4)
  | .ch '&' => some (.and, 5)
  | .ch '^' => some (.xor, 6)
  | .ch '|' => some (.or, 7)
  | _ => none

/-- What the parser reads next: an operand with its unary operators, a term of a precedence, or the rest of one. -/
inductive Want where
  | unary
  | term (prec : Nat)
  | rest (prec : Nat) (e : Expr)
  deriving DecidableEq, Repr

/-- Expressions by precedence, grouping left to right (R128): the expression and the tokens after it. -/
def parseWant : Nat → Want → List Tok → Option (Expr × List Tok)
  | 0, _, _ => none
  | n + 1, want, ts =>
    match want with
    | .unary =>
      match ts with
      | .num v _ :: ts => some (.num (BitVec.ofNat 64 v), ts)
      | .word w :: ts => if isSymbol w then some (.sym (String.ofList w), ts) else none
      | .ch '-' :: ts => (parseWant n .unary ts).map fun (e, ts) => (.neg e, ts)
      | .ch '~' :: ts => (parseWant n .unary ts).map fun (e, ts) => (.not e, ts)
      | .ch '(' :: ts => (parseWant n (.term 7) ts).bind fun (e, ts) =>
        match ts with
        | .ch ')' :: ts => some (e, ts)
        | _ => none
      | _ => none
    | .term p =>
      if p ≤ 1 then parseWant n .unary ts
      else (parseWant n (.term (p - 1)) ts).bind fun (e, ts) => parseWant n (.rest p e) ts
    | .rest p e =>
      match ts with
      | t :: more =>
        match opOf t with
        | some (op, q) =>
          if q = p then (parseWant n (.term (p - 1)) more).bind fun (f, ts) => parseWant n (.rest p (.bin op e f)) ts
          else some (e, ts)
        | none => some (e, ts)
      | [] => some (e, ts)

/-- An expression that is the whole of some tokens. -/
def parseExpr (ts : List Tok) : Option Expr :=
  match parseWant (20 * (ts.length + 2)) (.term 7) ts with
  | some (e, []) => some e
  | _ => none

/-- Quotient and remainder as DIV and REM have them (R128, R181). -/
def divTrunc (a b : Word) : Word := BitVec.ofInt 64 (a.toInt.tdiv b.toInt)
/-- The remainder that goes with `divTrunc`. -/
def remTrunc (a b : Word) : Word := BitVec.ofInt 64 (a.toInt.tmod b.toInt)

/-- A binary operator on two numbers; none for a divisor of 0 (R128). -/
def applyOp (op : BinOp) (a b : Word) : Option Word :=
  match op with
  | .mul => some (a * b)
  | .div => if b = 0 then none else some (divTrunc a b)
  | .rem => if b = 0 then none else some (remTrunc a b)
  | .add => some (a + b)
  | .sub => some (a - b)
  | .shl => some (a <<< (b.toNat % 64))
  | .shr => some (a.sshiftRight (b.toNat % 64))
  | .and => some (a &&& b)
  | .xor => some (a ^^^ b)
  | .or => some (a ||| b)

/-- What a name stands for in an expression: a number, or a place in a section that the launcher will move. -/
inductive Meaning where
  /-- A number. -/
  | value (v : Word)
  /-- An .equ, or a gang's mask (R139), by its expression. -/
  | equ (e : Expr)
  /-- A label of an image: its offset, and its section (R135). -/
  | image (v : Word) (section_ : Nat)
  /-- A label of .text or .data: its section, offset and symbol number. -/
  | place (section_ offset sym : Nat)
  /-- A channel (R305). -/
  | chan (index sym : Nat)
  /-- A region. -/
  | region (index sym : Nat)
  deriving DecidableEq, Repr

/-- The value of an expression: a number, plus the address of a label where one stands in it. -/
structure Val where
  n    : Word
  base : Option (Nat × Nat × Nat)
  deriving DecidableEq, Repr

/-- Why an expression has no value: the error code of R306. -/
inductive EvalErr where
  | e001 | e003 | e005 | e006
  deriving DecidableEq, Repr

/-- The value of an expression under meanings of names. Labels of .text and .data may be moved by a number or subtracted from
another of their section; any other operation on one has no value before the launch. -/
def evalExpr (look : String → Option Meaning) : Nat → Expr → Except EvalErr Val
  | 0, _ => .error .e005
  | n + 1, e =>
    match e with
    | .num v => .ok ⟨v, none⟩
    | .sym name =>
      match look name with
      | none => .error .e005
      | some (.value v) | some (.image v _) => .ok ⟨v, none⟩
      | some (.equ e) => evalExpr look n e
      | some (.place s o y) => .ok ⟨0, some (s, o, y)⟩
      | some (.chan _ _) => .error .e006
      | some (.region _ _) => .error .e005
    | .neg a =>
      match evalExpr look n a with
      | .ok ⟨v, none⟩ => .ok ⟨-v, none⟩
      | .ok _ => .error .e005
      | .error x => .error x
    | .not a =>
      match evalExpr look n a with
      | .ok ⟨v, none⟩ => .ok ⟨~~~v, none⟩
      | .ok _ => .error .e005
      | .error x => .error x
    | .bin op a b =>
      match evalExpr look n a, evalExpr look n b with
      | .error x, _ => .error x
      | _, .error x => .error x
      | .ok ⟨v, none⟩, .ok ⟨w, none⟩ =>
        match applyOp op v w with
        | some r => .ok ⟨r, none⟩
        | none => .error .e003
      | .ok ⟨v, some p⟩, .ok ⟨w, none⟩ =>
        match op with
        | .add => .ok ⟨v + w, some p⟩
        | .sub => .ok ⟨v - w, some p⟩
        | _ => .error .e005
      | .ok ⟨v, none⟩, .ok ⟨w, some p⟩ =>
        match op with
        | .add => .ok ⟨v + w, some p⟩
        | _ => .error .e005
      | .ok ⟨v, some (s, o, _)⟩, .ok ⟨w, some (s', o', _)⟩ =>
        if op = .sub && s = s' then .ok ⟨v - w + BitVec.ofNat 64 o - BitVec.ofNat 64 o', none⟩ else .error .e005

/-- The sections of the labels that an expression mentions, through .equ definitions too. -/
def labelSections (look : String → Option Meaning) : Nat → Expr → List Nat
  | 0, _ => []
  | n + 1, e =>
    match e with
    | .num _ => []
    | .sym name =>
      match look name with
      | some (.image _ s) | some (.place s _ _) => [s]
      | some (.equ e) => labelSections look n e
      | _ => []
    | .neg a | .not a => labelSections look n a
    | .bin _ a b => labelSections look n a ++ labelSections look n b

/-! ## Decimal reals (R140) -/

/-- A decimal real `man * 10 ^ exp` with a sign, rounded to a format by RNE. -/
def realBits (f : Fmt) (neg : Bool) (man : Nat) (exp : Int) : Nat :=
  if man = 0 then num neg * 2 ^ (fmtWidth f - 1)
  else if 400 < exp then (roundTo f 0 neg (10 ^ 400) 0 false).1
  else if exp + bitLen man < -400 then (roundTo f 0 neg 1 (-1400) true).1
  else if 0 ≤ exp then (roundTo f 0 neg (man * 10 ^ exp.toNat) 0 false).1
  else
    let d := 10 ^ (-exp).toNat
    let k := bitLen d + 128
    (roundTo f 0 neg (man * 2 ^ k / d) (-(k : Int)) (man * 2 ^ k % d != 0)).1

/-- An integer rounded to a format by RNE. -/
def intBits (f : Fmt) (v : Int) : Nat := if v = 0 then 0 else (roundTo f 0 (decide (v < 0)) v.natAbs 0 false).1

end Sys2Proof.Machine
end

