-- ==== Sys2Proof/Machine/AsmOps.lean ====
section
/-!
DEFINITION. The instructions of Guluton assembly: mnemonics, suffixes and operand forms, and the word of a line (R129 to R134, and the reference chapters).
-/

namespace Sys2Proof.Machine

/-! ## Operand forms (R129 to R132) -/

/-- A diagnostic's code and text. -/
abbrev AErr := String × String

/-- How a byte offset becomes a field: by a fixed size, or by the size that bits of the word name. -/
inductive Scale where
  | fixed (n : Nat)
  /-- The size code in two bits of the word from `lo` up. -/
  | code (lo : Nat)
  /-- The element width of et (R243). -/
  | lane
  deriving DecidableEq, Repr

/-- An operand of a mnemonic: what is written there and where its bits stand. An e bit at 32 is none. -/
inductive OpSpec where
  /-- An x register read. -/
  | xs (lo e : Nat)
  /-- An x register written. -/
  | xd (lo : Nat)
  /-- An x register read, then written. -/
  | xsd (lo : Nat)
  /-- The first of `rd` x registers read and `wr` written, a multiple of `mult`. -/
  | xRun (lo e mult rd wr : Nat)
  /-- An x register, or an m register that makes the word of class `cls` (R154). -/
  | xm (lo e cls : Nat)
  /-- An x register in a 4-bit field (R244). -/
  | x4 (lo e : Nat) (dst : Bool)
  /-- A v register, read (`src`) and written (`dst`). -/
  | v (lo e : Nat) (src dst : Bool)
  /-- A view register, read and written. -/
  | w (lo e : Nat) (src dst : Bool)
  /-- A stream register. -/
  | q (lo : Nat)
  /-- An accumulator tile. -/
  | acc (lo : Nat)
  /-- `[xb]` or `[xb±n]`, the register field being `wd` bits wide. -/
  | mem (lo wd e offLo offW : Nat) (scale : Scale)
  /-- `[xb]` alone. -/
  | at_ (lo wd e : Nat)
  /-- `[wv+xi]`. -/
  | view (wlo we xlo xe : Nat)
  /-- `[qn]`. -/
  | qAt (lo : Nat)
  /-- `[xb+vi]`. -/
  | gather (xlo xe vlo ve : Nat)
  /-- An immediate of a field. -/
  | imm (lo wd : Nat) (signed : Bool)
  /-- A number of a range, less `bias` in the field. -/
  | num (lo wd min max bias : Nat)
  /-- A branch target, in units of `unit` bytes from this word. -/
  | target (lo wd unit : Nat)
  /-- The first payload register, x or m (R152). -/
  | payload (lo : Nat)
  /-- The number of payload words, 1 when not written; the only number the form takes, where it takes one. -/
  | count (only : Option Nat)
  /-- The letters of rights (R214). -/
  | rights (lo : Nat)
  /-- A control register, by name or number (R165). -/
  | cr (lo : Nat)
  /-- A lane number below the lanes of et. -/
  | lane (lo : Nat)
  /-- The mask, if any, with pol 1 allowed or not (R245). -/
  | mask (pol : Bool)
  deriving DecidableEq, Repr

/-- A suffix that follows a mnemonic: its spellings with the bits each sets, and whether it must be written. -/
structure Suf where
  opts     : List (String × Nat)
  required : Bool
  deriving DecidableEq, Repr

/-- A mnemonic: its name's parts, its suffixes, the bits of its word, its operand forms with the bits each adds, and whether its
destinations are empty until a value arrives (R156). -/
structure Row where
  name : String
  sufs : List Suf
  base : Nat
  forms : List (Nat × List OpSpec)
  producer : Bool
  deriving DecidableEq, Repr

/-! ## The mnemonics (R164 to R175 and the reference chapters) -/

/-- The widths of R177. -/
def sufWidth : Suf := ⟨[("d", 0), ("w", 1), ("h", 2), ("b", 3)], false⟩
/-- The scalar floating types of R166. -/
def sufFp : Suf := ⟨[("f64", 0), ("f32", 1), ("f16", 2), ("bf16", 3)], true⟩
/-- The scopes of R108, at a bit. -/
def sufScope (lo : Nat) : Suf :=
  ⟨[("core", 0), ("clus", 2 ^ lo), ("stack", 2 * 2 ^ lo), ("dev", 3 * 2 ^ lo), ("sys", 4 * 2 ^ lo)], true⟩
/-- Codes moved up to a bit. -/
def atBit (lo : Nat) (os : List (String × Nat)) : List (String × Nat) := os.map fun (o : String × Nat) => (o.1, o.2 * 2 ^ lo)
/-- The element types with codes from `lo` to `hi` (R150). -/
def sufEt (lo hi : Nat) : Suf :=
  ⟨atBit 11 (([("s8", 0), ("s16", 1), ("s32", 2), ("s64", 3), ("bf16", 4), ("f16", 5), ("f32", 6), ("f64", 7)] : List (String × Nat)).filter
    fun (o : String × Nat) => decide (lo ≤ o.2) && decide (o.2 ≤ hi)), true⟩
/-- The same with the unsigned spellings of R83 and R132: `et` has one integer code per width (R150). -/
def sufElem (lo hi : Nat) : Suf :=
  ⟨(sufEt lo hi).opts ++ atBit 11 (([("n8", 0), ("n16", 1), ("n32", 2), ("n64", 3)] : List (String × Nat)).filter
    fun (o : String × Nat) => decide (lo ≤ o.2) && decide (o.2 ≤ hi)), true⟩
/-- Access sizes, at a bit. -/
def sufSize (lo : Nat) (zext : Bool) : Suf :=
  ⟨atBit lo ([("b", 0), ("h", 1), ("w", 2), ("d", 3)] ++ (if zext then [("bu", 4), ("hu", 5), ("wu", 6)] else [])), true⟩
/-- The source type codes of R166, at a bit. -/
def typeCodes (lo : Nat) (integers : Bool) : List (String × Nat) :=
  atBit lo ([("f64", 0), ("f32", 1), ("f16", 2), ("bf16", 3)] ++ (if integers then
    [("s64", 4), ("s32", 5), ("s16", 6), ("s8", 7), ("n64", 12), ("n32", 13), ("n16", 14), ("n8", 15)] else []))

/-- Rows that differ only in a code. -/
def rowsOf (names : List (String × Nat)) (sufs : List Suf) (op lo : Nat) (ops : List OpSpec) (producer : Bool := false) : List Row :=
  names.map fun n => ⟨n.1, sufs, op * 2 ^ 26 + n.2 * 2 ^ lo, [(0, ops)], producer⟩

/-- Majors 0x01 to 0x0E (R164 to R167, R177 to R189). -/
def scalarRows : List Row :=
  rowsOf [("add", 0), ("sub", 1), ("and", 2), ("or", 3), ("xor", 4), ("andn", 5), ("orn", 6), ("sll", 8), ("srl", 9), ("sra", 10),
    ("rol", 11), ("slt", 16), ("sltu", 17), ("seq", 18), ("sne", 19), ("min", 20), ("max", 21), ("minu", 22), ("maxu", 23)]
    [sufWidth] 0x01 4 [.xd 21, .xm 16 3 1, .xm 11 2 2] ++
  rowsOf [("clz", 24), ("ctz", 25), ("popc", 26), ("brev", 27), ("bswap", 28), ("sext", 29), ("zext", 30)]
    [sufWidth] 0x01 4 [.xd 21, .xm 16 3 1] ++
  rowsOf [("addi", 2), ("andi", 3), ("slti", 7), ("sltui", 8)] [] 0 26 [.xd 21, .xs 16 0, .imm 1 15 true] ++
  rowsOf [("ori", 4), ("xori", 5)] [] 0 26 [.xd 21, .xs 16 0, .imm 1 15 false] ++
  rowsOf [("slli", 0), ("srli", 1), ("srai", 2)] [] 0x06 7 [.xd 21, .xs 16 0, .num 1 6 0 63 0] ++
  [⟨"lih", [], 0x09 * 2 ^ 26, [(0, [.xd 21, .imm 0 21 false])], false⟩,
   ⟨"addpc", [], 0x0A * 2 ^ 26, [(0, [.xd 21, .target 0 21 1])], false⟩,
   ⟨"nop", [], 0x10000000, [(0, [])], false⟩] ++
  rowsOf [("mul", 0), ("mulh", 1), ("mulhu", 2), ("div", 4), ("divu", 5), ("rem", 6), ("remu", 7)]
    [sufWidth] 0x0B 4 [.xd 21, .xm 16 3 1, .xm 11 2 2] ++
  rowsOf [("fadd", 0), ("fsub", 1), ("fmul", 2), ("fdiv", 3), ("fmin", 5), ("fmax", 6), ("fcmp.eq", 8), ("fcmp.lt", 9),
    ("fcmp.le", 10), ("fcmp.un", 11), ("fsign.b", 24), ("fsign.nb", 25), ("fsign.x", 26)]
    [sufFp] 0x0C 4 [.xd 21, .xs 16 3, .xs 11 2] ++
  rowsOf [("fsqrt", 4), ("fclass", 12)] [sufFp] 0x0C 4 [.xd 21, .xs 16 3] ++
  [⟨"fcvt", [⟨[("f64", 0x100), ("f32", 0x101), ("f16", 0x102), ("bf16", 0x103)], true⟩, ⟨typeCodes 11 true, true⟩],
    0x0C * 2 ^ 26, [(0, [.xd 21, .xs 16 3])], false⟩,
   ⟨"fcvt", [⟨[("s64", 0x110), ("s32", 0x111), ("s16", 0x112), ("s8", 0x113), ("n64", 0x120), ("n32", 0x121), ("n16", 0x122),
      ("n8", 0x123)], true⟩, ⟨typeCodes 11 false, true⟩], 0x0C * 2 ^ 26, [(0, [.xd 21, .xs 16 3])], false⟩] ++
  rowsOf [("madd", 0), ("sel", 1)] [] 0x0D 3 [.xd 21, .xs 16 2, .xs 11 1, .xs 6 0] ++
  [⟨"fma", [⟨[("f64", 4 * 8), ("f32", 5 * 8), ("f16", 6 * 8), ("bf16", 7 * 8)], true⟩], 0x0D * 2 ^ 26,
    [(0, [.xd 21, .xs 16 2, .xs 11 1, .xs 6 0])], false⟩,
   ⟨"crr", [], 0x0E * 2 ^ 26, [(0, [.xd 21, .cr 1])], false⟩,
   ⟨"crw", [], 0x0E * 2 ^ 26 + 1 * 2 ^ 13, [(0, [.cr 1, .xs 16 0])], false⟩,
   ⟨"crs", [], 0x0E * 2 ^ 26 + 2 * 2 ^ 13, [(0, [.xd 21, .cr 1, .xs 16 0])], false⟩,
   ⟨"crc", [], 0x0E * 2 ^ 26 + 3 * 2 ^ 13, [(0, [.xd 21, .cr 1, .xs 16 0])], false⟩]

/-- The atomics of R169 and R208: ATOM when `ret`, else ATN. -/
def atomRows (ret : Bool) : List Row :=
  let op := if ret then 0x18 else 0x19
  let pre := if ret then "atom." else "atn."
  let vw : OpSpec := .view 10 32 13 32
  let two : List (Nat × List OpSpec) :=
    if ret then [(0, [.xd 18, .at_ 13 5 32, .xs 8 32]), (0x80, [.xsd 18, vw])]
    else [(0, [.at_ 13 5 32, .xs 8 32]), (0x80, [vw, .xs 18 32])]
  let cas : List (Nat × List OpSpec) :=
    [(0, [if ret then .xsd 18 else .xs 18 32, .at_ 13 5 32, .xs 8 32]), (0x80, [.xRun 18 32 2 2 (if ret then 1 else 0), vw])]
  let one : List (Nat × List OpSpec) :=
    if ret then [(0, [.xd 18, .at_ 13 5 32]), (0x80, [.xd 18, vw])] else [(0, [.at_ 13 5 32]), (0x80, [vw])]
  let row (n : String) (f : Nat) (t : List (String × Nat)) (forms : List (Nat × List OpSpec)) : Row :=
    ⟨pre ++ n, [⟨t, true⟩, sufScope 23], op * 2 ^ 26 + f * 4, forms, ret⟩
  let ints := [("d", 0), ("w", 1)]
  ([("add", 0), ("and", 1), ("or", 2), ("xor", 3), ("min", 4), ("max", 5), ("minu", 6), ("maxu", 7), ("swap", 8), ("incb", 10)].map
    fun n => row n.1 n.2 ints two) ++
  [row "cas" 9 ints cas, row "decb" 11 ints one] ++
  ([("fadd", 16), ("fmin", 17), ("fmax", 18)].map fun n => row n.1 n.2 [("f64", 0), ("f32", 1), ("bf16", 2)] two) ++
  ([("fadd.p2", 20), ("fmin.p2", 21), ("fmax.p2", 22)].map fun n => row n.1 n.2 [("f32", 1), ("bf16", 2)] two)

/-- Majors 0x10 to 0x1C (R168 to R172, R203 to R219). -/
def memoryRows : List Row :=
  [⟨"ld", [sufSize 13 true], 0x10 * 2 ^ 26, [(0, [.xd 21, .mem 16 5 12 0 12 (.code 13)])], true⟩,
   ⟨"st", [sufSize 13 false], 0x11 * 2 ^ 26, [(0, [.mem 16 5 12 0 12 (.code 13), .xs 21 32])], false⟩,
   ⟨"lds", [sufSize 10 false, sufScope 13], 0x12 * 2 ^ 26, [(0, [.xd 21, .mem 16 5 12 0 10 (.code 10)])], true⟩,
   ⟨"sts", [sufSize 10 false, sufScope 13], 0x13 * 2 ^ 26, [(0, [.mem 16 5 12 0 10 (.code 10), .xs 21 32])], false⟩,
   ⟨"ldv", [⟨[("d", 0), ("w", 1), ("h", 2), ("b", 3), ("wu", 0x11), ("hu", 0x12), ("bu", 0x13)], true⟩], 0x14 * 2 ^ 26,
    [(0, [.xd 21, .view 11 2 16 3])], true⟩,
   ⟨"stv", [⟨[("d", 0), ("w", 1), ("h", 2), ("b", 3)], true⟩], 0x15 * 2 ^ 26, [(0, [.view 11 2 16 3, .xs 21 32])], false⟩,
   ⟨"ldp", [], 0x16 * 2 ^ 26, [(0, [.xRun 21 32 2 0 2, .mem 16 5 12 0 12 (.fixed 16)])], true⟩,
   ⟨"stp", [], 0x16 * 2 ^ 26 + 2 ^ 13, [(0, [.mem 16 5 12 0 12 (.fixed 16), .xRun 21 32 2 2 0])], false⟩,
   ⟨"pref", [⟨[("l1", 0), ("cc", 2 ^ 21), ("home", 2 * 2 ^ 21)], true⟩], 0x17 * 2 ^ 26,
    [(0, [.mem 16 5 12 0 12 (.fixed 1)])], false⟩,
   ⟨"cflush", [⟨[("drop", 0), ("home", 2 ^ 21), ("clean", 2 * 2 ^ 21)], true⟩], 0x17 * 2 ^ 26 + 1 * 2 ^ 13,
    [(0, [.mem 16 5 12 0 12 (.fixed 1)])], false⟩,
   ⟨"cinv", [⟨[("line", 0), ("all", 2 ^ 21)], true⟩], 0x17 * 2 ^ 26 + 2 * 2 ^ 13, [(0, [.mem 16 5 12 0 12 (.fixed 1)])], false⟩,
   ⟨"tlbi", [⟨[("page", 0), ("pound", 2 ^ 21), ("all", 2 * 2 ^ 21)], true⟩], 0x17 * 2 ^ 26 + 3 * 2 ^ 13,
    [(0, [.mem 16 5 12 0 12 (.fixed 1)])], false⟩,
   ⟨"bankmode", [], 0x17 * 2 ^ 26 + 4 * 2 ^ 13, [(0, [.xs 16 12])], false⟩] ++
  atomRows true ++ atomRows false ++
  [⟨"cas128", [sufScope 23], 0x1A * 2 ^ 26, [(0, [.xRun 18 32 2 2 2, .at_ 13 5 32, .xRun 8 32 2 2 0]),
      (0x80, [.xRun 18 32 4 4 2, .view 10 32 13 32])], true⟩] ++
  rowsOf [("fence.acq", 0), ("fence.rel", 1), ("fence.sc", 2)] [sufScope 8] 0x1B 4 [] ++
  [⟨"fence.x", [⟨[("ce", 0x60), ("ch", 0x70), ("ec", 0x90), ("eh", 0xB0), ("hc", 0xD0), ("he", 0xE0)], true⟩, sufScope 8],
      0x1B * 2 ^ 26, [(0, [])], false⟩] ++
  rowsOf [("crnew", 0)] [] 0x1C 4 [.w 21 32 false true, .xs 16 3] true ++
  rowsOf [("vsplit", 1)] [] 0x1C 4 [.w 21 32 false true, .w 11 2 true true, .xs 16 3] true ++
  rowsOf [("vshare", 2)] [] 0x1C 4 [.w 21 32 false true, .w 11 2 true false] true ++
  rowsOf [("vdemote", 3)] [] 0x1C 4 [.w 21 32 true false, .rights 16] ++
  rowsOf [("vnarrow", 4)] [] 0x1C 4 [.w 21 32 true false, .xs 16 3, .xs 11 2] ++
  rowsOf [("vdrop", 5)] [] 0x1C 4 [.w 21 32 true false] ++
  rowsOf [("vquery", 6)] [] 0x1C 4 [.xd 21, .w 11 2 true false, .num 0 2 0 3 0] ++
  rowsOf [("vmove", 7)] [] 0x1C 4 [.w 21 32 false true, .w 11 2 true false]

/-- Majors 0x20 to 0x28 and 0x3F's NOP kin (R133, R173, R174, R191 to R195, R220 to R240). -/
def controlRows : List Row :=
  rowsOf [("beq", 0), ("bne", 1), ("blt", 2), ("bge", 3), ("bltu", 4), ("bgeu", 5)] [] 0x20 13
    [.xs 21 32, .xs 16 32, .target 0 13 4] ++
  [⟨"jal", [], 0x21 * 2 ^ 26, [(0, [.target 0 26 4])], false⟩,
   ⟨"jalr", [], 0x22 * 2 ^ 26, [(0, [.xd 21, .xs 16 0, .imm 1 15 true])], false⟩,
   ⟨"end", [], 0x23 * 2 ^ 26, [(0, [])], false⟩] ++
  rowsOf [("trap", 1), ("bkpt", 2), ("svc", 3)] [] 0x23 18 [.num 0 16 0 65535 0] ++
  [⟨"send", [], 0x24 * 2 ^ 26, [(0, [.xs 16 3, .payload 11, .count none])], false⟩,
   ⟨"sendv", [], 0x24 * 2 ^ 26 + 0x10, [(0, [.xs 16 3, .w 11 32 true false])], false⟩,
   ⟨"sendm", [⟨[("pm", 0)], true⟩], 0x24 * 2 ^ 26 + 0x20, [(0, [.xs 16 3, .payload 11, .count (some 2)])], false⟩,
   ⟨"sendm", [⟨[("iadd", 2), ("f32", 4), ("f64", 6)], true⟩], 0x24 * 2 ^ 26 + 0x20,
    [(0, [.xs 16 3, .payload 11, .count (some 1)])], false⟩] ++
  rowsOf [("chnew", 0), ("chcfg", 2), ("patrank", 6), ("relay", 7)] [] 0x25 4 [.xd 21, .xs 16 3, .xs 11 2] ++
  rowsOf [("chfree", 1), ("chcnt", 3), ("patclr", 5)] [] 0x25 4 [.xd 21, .xs 16 3] ++
  rowsOf [("patset", 4)] [] 0x25 4 [.xd 21, .xRun 16 3 2 2 0, .xs 11 2] ++
  [⟨"spawn", [], 0x26 * 2 ^ 26, [(0, [.xs 21 32, .xs 16 3, .payload 11, .count none])], false⟩,
   ⟨"hstart", [], 0x26 * 2 ^ 26 + 0x10, [(0, [.xd 21, .xs 16 3, .payload 11, .count none])], false⟩,
   ⟨"hstat", [], 0x26 * 2 ^ 26 + 0x20, [(0, [.xd 21])], false⟩,
   ⟨"cbcfg", [⟨[("set", 0), ("state", 1), ("rebuild", 2), ("clear", 3)], true⟩], 0x27 * 2 ^ 26,
    [(0, [.xd 21, .xs 16 3, .xRun 11 2 2 2 0])], false⟩] ++
  rowsOf [("cbret", 1)] [] 0x27 4 [.xs 16 3] ++
  rowsOf [("cbcnt", 2), ("cbaudit", 3)] [] 0x27 4 [.xd 21, .xs 16 3] true ++
  [⟨"qcfg", [⟨[("aff", 0), ("skip", 1)], true⟩], 0x28 * 2 ^ 26, [(0, [.q 21, .xs 16 3])], false⟩] ++
  rowsOf [("qnext", 1)] [] 0x28 4 [.q 21, .xs 16 3] ++
  rowsOf [("qrd", 2)] [] 0x28 4 [.xd 21, .q 11, .num 0 2 0 3 0] ++
  rowsOf [("rep", 4), ("repx", 5)] [] 0x28 4 [.num 21 3 1 8 1, .xs 16 3, .xs 11 2]

/-- Majors 0x30 to 0x37 (R175, R247 to R262). -/
def vectorRows : List Row :=
  let bin : List OpSpec := [.v 22 32 false true, .v 18 1 true false, .v 14 0 true false, .mask true]
  let acc : List OpSpec := [.v 22 32 true true, .v 18 1 true false, .v 14 0 true false, .mask true]
  let un : List OpSpec := [.v 22 32 false true, .v 18 1 true false, .mask true]
  rowsOf [("vadd", 0), ("vsub", 1), ("vmul", 2), ("vmulh", 3), ("vmin", 5), ("vmax", 6), ("vand", 7), ("vor", 8), ("vxor", 9),
    ("vsll", 10), ("vsrl", 11), ("vsra", 12), ("vadds", 14), ("vsubs", 15)] [sufElem 0 3] 0x30 2 bin ++
  rowsOf [("vdot", 4)] [sufElem 0 1] 0x30 2 acc ++ rowsOf [("vabs", 13)] [sufElem 0 3] 0x30 2 un ++
  rowsOf [("vfadd", 0), ("vfsub", 1), ("vfmul", 2), ("vfdiv", 3), ("vfmin", 5), ("vfmax", 6)] [sufElem 4 7] 0x31 2 bin ++
  rowsOf [("vfsqrt", 4)] [sufElem 4 7] 0x31 2 un ++ rowsOf [("vfma", 0)] [sufElem 4 7] 0x32 2 acc ++
  rowsOf [("vld", 0)] [sufElem 0 7] 0x33 2 [.v 22 32 false true, .mem 18 4 1 14 4 (.fixed 16), .mask true] true ++
  rowsOf [("vst", 1)] [sufElem 0 7] 0x33 2 [.mem 18 4 1 14 4 (.fixed 16), .v 22 32 true false, .mask false] ++
  rowsOf [("vldq", 2)] [sufElem 0 7] 0x33 2 [.v 22 32 false true, .qAt 14, .mask true] true ++
  rowsOf [("vstq", 3)] [sufElem 0 7] 0x33 2 [.qAt 14, .v 22 32 true false, .mask false] ++
  rowsOf [("vgath", 4)] [sufElem 0 7] 0x33 2 [.v 22 32 false true, .gather 18 1 14 0, .mask true] true ++
  rowsOf [("vscat", 5)] [sufElem 0 7] 0x33 2 [.gather 18 1 14 0, .v 22 32 true false, .mask false] ++
  rowsOf [("vldf", 6)] [sufElem 0 7] 0x33 2 [.v 22 32 false true, .at_ 18 4 1, .mask true] true ++
  rowsOf [("vbcast", 7)] [sufElem 0 7] 0x33 2 [.v 22 32 false true, .mem 18 4 1 14 4 .lane, .mask true] true ++
  rowsOf [("vshuf", 0), ("vzip", 1), ("vuzp", 2)] [sufElem 0 7] 0x34 2 bin ++
  rowsOf [("vslide", 3)] [sufElem 0 7] 0x34 2 [.v 22 32 false true, .v 18 1 true false, .v 14 0 true false, .lane 7] ++
  rowsOf [("vext", 4)] [sufElem 0 7] 0x34 2 [.x4 22 32 true, .v 18 1 true false, .lane 14] ++
  rowsOf [("vins", 5)] [sufElem 0 7] 0x34 2 [.v 22 32 true true, .x4 18 1 false, .lane 14] ++
  rowsOf [("vsplat", 6)] [sufElem 0 7] 0x34 2 [.v 22 32 false true, .x4 18 1 false, .mask true] ++
  rowsOf [("vred.add", 8), ("vred.min", 9), ("vred.max", 10)] [sufElem 0 7] 0x34 2 un ++
  rowsOf [("vcvt", 0)] [sufEt 0 7, ⟨typeCodes 14 true, true⟩] 0x35 2 un ++
  rowsOf [("vpack", 1)] [sufElem 0 2] 0x35 2 bin ++
  rowsOf [("vunpk", 2)] [sufElem 1 3] 0x35 2 [.v 22 32 false true, .v 18 1 true false, .num 14 1 0 1 0, .mask true] ++
  rowsOf [("vcbx", 3)] [sufElem 0 7] 0x35 2 bin ++
  rowsOf [("vbxq", 4)] [sufElem 4 4] 0x35 2 [.at_ 18 4 1, .at_ 14 4 0] ++
  rowsOf [("vcq4", 5)] [sufElem 4 6] 0x35 2 [.v 22 32 true true, .at_ 18 4 1, .at_ 14 4 0] true ++
  rowsOf [("vexp2", 0), ("vlog2", 1), ("vrcp", 2), ("vrsq", 3), ("vsin", 4), ("vcos", 5)] [sufElem 4 6] 0x36 2 un true ++
  rowsOf [("vcmp.eq", 0), ("vcmp.ne", 1), ("vcmp.lt", 2), ("vcmp.le", 3)] [sufElem 0 7] 0x37 2 bin ++
  rowsOf [("vcmp.ltu", 4), ("vcmp.leu", 5)] [sufElem 0 3] 0x37 2 bin ++
  rowsOf [("vmand", 8), ("vmor", 9), ("vmxor", 10)] [] 0x37 2 [.v 22 32 false true, .v 18 1 true false, .v 14 0 true false] ++
  rowsOf [("vmnot", 11)] [] 0x37 2 [.v 22 32 false true, .v 18 1 true false] ++
  rowsOf [("vmcnt", 12), ("vmfst", 13)] [sufElem 0 7] 0x37 2 [.v 22 32 false true, .v 18 1 true false]

/-- Majors 0x38 to 0x3B (R174, R265 to R287). -/
def engineRows : List Row :=
  let sat : Suf := ⟨[("sat", 1)], false⟩
  rowsOf [("mgang", 0)] [] 0x38 2 [.acc 23, .at_ 18 5 32, .xs 13 32] ++ rowsOf [("mmas", 1)] [] 0x38 2 [.acc 23, .at_ 18 5 32] ++
  rowsOf [("mzero", 2)] [] 0x38 2 [.acc 23] ++
  rowsOf [("mdrain.i64", 0), ("mdrain.i32s", 1), ("mdrain.f32", 2), ("mdrain.f32a", 3), ("mdrain.bf16", 4)] [sat] 0x39 2
    [.acc 23, .at_ 18 5 32, .xs 13 32, .xs 8 32] ++
  rowsOf [("mdrainc", 8)] [⟨[("add", 1)], false⟩, ⟨[("sat", 2)], false⟩] 0x39 2 [.acc 23, .at_ 18 5 32, .xs 13 32, .xs 8 32] ++
  rowsOf [("ard", 16)] [] 0x39 2 [.xd 18, .acc 23, .xs 13 32] true ++
  rowsOf [("awr", 17)] [] 0x39 2 [.acc 23, .xs 13 32, .xs 8 32] ++ rowsOf [("achk", 18)] [] 0x39 2 [.xd 18, .acc 23] ++
  rowsOf [("acfg", 24)] [] 0x39 2 [.xs 18 32, .xs 13 32, .xd 8] ++ rowsOf [("cbld", 25)] [] 0x39 2 [.at_ 18 5 32] ++
  rowsOf [("rnfwd", 0)] [sufWidth] 0x3A 4 [.xd 21, .xs 16 3] ++ rowsOf [("rnrev", 1)] [] 0x3A 4 [.xd 21, .xs 16 3] true ++
  rowsOf [("rnadd", 2), ("rnsub", 3), ("rnmul", 4)] [] 0x3A 4 [.xd 21, .xs 16 3, .xs 11 2] ++
  rowsOf [("rnchk", 5)] [] 0x3A 4 [.xd 21, .xs 16 3] ++
  rowsOf [("cpy", 0), ("cpya", 1), ("cpyw", 2)] [] 0x3B 4 [.xs 21 32, .xs 16 3, .xs 11 2] ++
  rowsOf [("cpyg", 3)] [] 0x3B 4 [.xs 21 32, .xs 16 3, .xRun 11 2 2 2 0] ++
  rowsOf [("weirnew", 8)] [] 0x3B 4 [.xd 21, .xs 16 3] true ++ rowsOf [("weiradd", 9)] [] 0x3B 4 [.xs 16 3, .xs 11 2] ++
  [⟨"weirarm", [⟨[("free", 1)], false⟩], 0x3B * 2 ^ 26 + 0xA0, [(0, [.xs 16 3])], false⟩] ++
  rowsOf [("weirrd", 11)] [] 0x3B 4 [.xd 21, .xs 16 3] true

/-- Every mnemonic. -/
def asmRows : List Row := scalarRows ++ memoryRows ++ controlRows ++ vectorRows ++ engineRows

/-- The control registers by name (R165). -/
def crNames : List (String × Nat) :=
  [("coreid", 0), ("ctxid", 1), ("rcbptr", 2), ("fpctl", 0x10), ("fpflags", 0x11), ("fpunion", 0x12), ("mstat", 0x20), ("wdleft", 0x21),
   ("owe0", 0x22), ("owe1", 0x23), ("owe2", 0x24), ("owe3", 0x25), ("cycle", 0x30), ("energy", 0x31)]

/-- The number of a control register's name in small letters. -/
def crOf (cs : List Char) : Option Nat :=
  let numbered (p : String) (n base : Nat) : Option Nat :=
    if p.toList.isPrefixOf cs then
      let ds := cs.drop p.length
      if ds.isEmpty || ds.any (fun c => !c.isDigit) || n ≤ digitsVal 10 ds || 2 < ds.length then none else some (base + digitsVal 10 ds)
    else none
  ((crNames.find? fun n => n.1.toList == cs).map (·.2)).or ((numbered "sliceocc" 16 0x40).or (numbered "perf" 32 0x100))

/-! ## Assembling one instruction (R130 to R134) -/

/-- What a HINT.IMM before the instruction makes of its immediate (R133). -/
inductive Widen where
  | none | raw | auto
  deriving DecidableEq, Repr

/-- Where an instruction stands and what names mean there. -/
structure AsmEnv where
  look  : String → Option Meaning
  sect  : Nat
  here  : Nat
  widen : Widen

/-- A word as far as it has been assembled: its bits, the registers read with their `!`, those written, the payload run, and the bits
that a widened target gives the HINT.IMM before it. -/
structure Asm1 where
  word  : Nat
  reads : List (AReg × Bool)
  writes : List AReg
  run   : Option (Bool × Nat)
  high  : Nat
  slice : Bool
  deriving DecidableEq, Repr

/-- Bits added to the word. -/
def Asm1.put (a : Asm1) (lo v : Nat) : Asm1 := { a with word := a.word + v * 2 ^ lo }
/-- A register read, with its e bit. -/
def Asm1.read (a : Asm1) (r : AReg) (bang : Bool) (e : Nat) : Asm1 :=
  let a := { a with reads := a.reads ++ [(r, bang)] }
  if bang then a.put e 1 else a
/-- Registers written. -/
def Asm1.write (a : Asm1) (rs : List AReg) : Asm1 := { a with writes := a.writes ++ rs }

/-- An error as R306 codes it. -/
def EvalErr.text : EvalErr → AErr
  | .e001 => ("E001", "not an expression")
  | .e003 => ("E003", "division by zero")
  | .e005 => ("E005", "a symbol without a value here")
  | .e006 => ("E006", "a channel symbol in an expression")

/-- The depth to which .equ definitions are followed. -/
def equDepth : Nat := 4096

/-- The value of tokens that are one expression. -/
def AsmEnv.val (env : AsmEnv) (ts : List Tok) : Except AErr Val :=
  if ts.contains .badNum then .error ("E003", "misplaced underscore in a number")
  else if ts.any Tok.isBig then .error ("E003", "a number of more than 64 bits")
  else match parseExpr ts with
    | none => .error ("E001", "not an expression")
    | some e =>
      match evalExpr env.look equDepth e with
      | .ok v => .ok v
      | .error x => .error x.text

/-- The number that tokens stand for. -/
def AsmEnv.number (env : AsmEnv) (ts : List Tok) : Except AErr Int :=
  match env.val ts with
  | .ok ⟨v, none⟩ => .ok v.toInt
  | .ok _ => .error ("E005", "an address is not known before the launch")
  | .error e => .error e

/-- A register with its `!`. -/
def regTok : List Tok → Option (AReg × Bool)
  | [.word cs] => (regOf (lower cs)).map fun r => (r, false)
  | [.word cs, .ch '!'] => (regOf (lower cs)).map fun r => (r, true)
  | _ => none

/-- The tokens between the brackets of a memory operand. -/
def bracket (ts : List Tok) : Option (List Tok) :=
  match ts with
  | .ch '[' :: rest => if rest.getLast? == some (.ch ']') then some rest.dropLast else none
  | _ => none

/-- The register at the head of some tokens, with its `!`, and the tokens after it. -/
def headReg : List Tok → Option (AReg × Bool × List Tok)
  | .word cs :: .ch '!' :: ts => (regOf (lower cs)).map fun r => (r, true, ts)
  | .word cs :: ts => (regOf (lower cs)).map fun r => (r, false, ts)
  | _ => none

/-- The operand is of another kind than the form wants: another form may fit. -/
def wrongShape : AErr := ("E001", "operand not of the form the instruction takes")

/-- An e bit written where none may be (R130). -/
def bangCheck (bang : Bool) (e : Nat) : Except AErr Unit :=
  if bang && e = 32 then .error ("E009", "! on a destination or on a field without an e bit") else .ok ()

/-- An x register read through a field of `wd` bits (R244). -/
def Asm1.readX (a : Asm1) (lo wd e : Nat) (ts : List Tok) : Except AErr Asm1 :=
  match regTok ts with
  | some (.x i, bang) => do
    bangCheck bang e
    if wd = 4 && 16 ≤ i then .error ("E009", "x16 to x31 in a 4-bit vector field") else .ok ((a.put lo i).read (.x i) bang e)
  | some (.m _, _) => .error ("E009", "an m register where none may stand")
  | _ => .error wrongShape

/-- Bytes of an access under a scale. -/
def Asm1.bytes (a : Asm1) : Scale → Nat
  | .fixed n => n
  | .code lo => 2 ^ (a.word / 2 ^ lo % 4)
  | .lane => 16 / lanes (BitVec.ofNat 3 (a.word / 2 ^ 11 % 8))

/-- A field given a signed number. -/
def Asm1.signed (a : Asm1) (lo wd : Nat) (v : Int) : Except AErr Asm1 :=
  if v < -(2 ^ (wd - 1)) || 2 ^ (wd - 1) ≤ v then .error ("E003", "value outside its field") else .ok (a.put lo (ofSigned wd v))

/-- A field given an unsigned number. -/
def Asm1.unsigned (a : Asm1) (lo wd : Nat) (v : Int) : Except AErr Asm1 :=
  if v < 0 || 2 ^ wd ≤ v then .error ("E003", "value outside its field") else .ok (a.put lo v.toNat)

/-- The sections of the labels that an operand mentions. -/
def AsmEnv.labelsIn (env : AsmEnv) (ts : List Tok) : List Nat := (parseExpr ts).elim [] (labelSections env.look equDepth)

/-- A branch target (R133): an expression whose place is a label of this section, or a number, its offset there. After a HINT.IMM
with an operand it is the field's raw value, and no label. -/
def Asm1.target (a : Asm1) (env : AsmEnv) (lo wd unit : Nat) (ts : List Tok) : Except AErr Asm1 := do
  let v ← env.val ts
  if env.widen = .raw then
    if !(env.labelsIn ts).isEmpty then .error ("E004", "a label after HINT.IMM with an operand")
    else a.unsigned lo wd v.n.toInt
  else if (env.labelsIn ts).any (· != env.sect) then .error ("E004", "a target in another section")
  else
    let at_ ← match v.base with
      | none => .ok v.n.toInt
      | some (s, o, _) => if s = env.sect then .ok (v.n.toInt + o) else .error ("E004", "a target in another section")
    let d := at_ - env.here
    if d % unit ≠ 0 then .error ("E004", "a target that is not at a word")
    else
      let k := d / unit
      let n := if env.widen = .auto then wd + 24 else wd
      let lim : Int := if env.widen = .auto then (if wd = 21 then 2 ^ 44 else 2 ^ (wd + 23)) else 2 ^ (wd - 1)
      if k < -lim || lim ≤ k then .error ("E004", "a target out of range")
      else
        let f := ofSigned n k
        .ok { a.put lo (f % 2 ^ wd) with high := f / 2 ^ wd }

/-- The letters of rights as a mask: W, R and A (R214). -/
def rightsOf (cs : List Char) : Option Nat :=
  if cs.isEmpty || cs.any (fun c => !(c == 'w' || c == 'r' || c == 'a')) || !(cs.eraseDups.length == cs.length) then none
  else some (4 * num (cs.contains 'w') + 2 * num (cs.contains 'r') + num (cs.contains 'a'))

/-- One operand. -/
def Asm1.operand (a : Asm1) (env : AsmEnv) (spec : OpSpec) (ts : List Tok) : Except AErr Asm1 :=
  match spec with
  | .xs lo e => a.readX lo 5 e ts
  | .x4 lo e false => a.readX lo 4 e ts
  | .xd lo => dest lo 5
  | .x4 lo _ true => dest lo 4
  | .xsd lo => do
    let b ← a.readX lo 5 32 ts
    .ok (b.write (b.reads.drop a.reads.length |>.map (·.1)))
  | .xRun lo e mult rd wr =>
    match regTok ts with
    | some (.x i, bang) => do
      bangCheck bang e
      if i % mult ≠ 0 then .error ("E010", "a register number that the form does not take")
      else
        let b := a.put lo i
        let b := if 0 < rd then (b.read (.x i) bang e) else b
        .ok ({ b with reads := b.reads ++ ((List.range rd).tail.map fun k => (AReg.x (i + k), false)) }.write
          ((List.range wr).map fun k => AReg.x (i + k)))
    | some (.m _, _) => .error ("E009", "an m register where none may stand")
    | _ => .error wrongShape
  | .xm lo e cls =>
    match regTok ts with
    | some (.x i, bang) => .ok ((a.put lo i).read (.x i) bang e)
    | some (.m i, bang) =>
      if a.word / 2 ^ 9 % 4 ≠ 0 then .error ("E009", "both sources are m registers")
      else .ok (((a.put lo i).put 9 cls).read (.m i) bang e)
    | _ => .error wrongShape
  | .v lo e src dst =>
    match regTok ts with
    | some (.v i, bang) => do
      bangCheck bang e
      let b := a.put lo i
      let b := if src then b.read (.v i) bang e else b
      .ok (if dst then b.write [.v i] else b)
    | _ => .error wrongShape
  | .w lo e src dst =>
    match regTok ts with
    | some (.w i, bang) => do
      bangCheck bang e
      let b := a.put lo i
      let b := if src then b.read (.w i) bang e else b
      .ok (if dst then b.write [.w i] else b)
    | _ => .error wrongShape
  | .q lo =>
    match regTok ts with
    | some (.q i, bang) => do
      bangCheck bang 32
      .ok (a.put lo i)
    | _ => .error wrongShape
  | .acc lo =>
    match regTok ts with
    | some (.a i, bang) => do
      bangCheck bang 32
      .ok (a.put lo i)
    | _ => .error wrongShape
  | .mem lo wd e offLo offW scale =>
    match (bracket ts).bind headReg with
    | some (.x i, bang, rest) => do
      bangCheck bang e
      if wd = 4 && 16 ≤ i then .error ("E009", "x16 to x31 in a 4-bit vector field")
      else
        let b := (a.put lo i).read (.x i) bang e
        let first := rest.head?
        if rest.isEmpty then .ok b
        else if first != some (.ch '+') && first != some (.ch '-') then .error wrongShape
        else
          let n ← env.number (.num 0 false :: rest)
          if env.widen = .raw then b.unsigned offLo offW n
          else if n % (b.bytes scale : Int) ≠ 0 then .error ("E003", "an offset that is not a multiple of the access size")
          else b.signed offLo offW (n / (b.bytes scale : Int))
    | some (.m _, _, _) => .error ("E009", "an m register where none may stand")
    | _ => .error wrongShape
  | .at_ lo wd e =>
    match (bracket ts).bind headReg with
    | some (.x _, _, []) => a.readX lo wd e ((bracket ts).getD [])
    | some (.m _, _, _) => .error ("E009", "an m register where none may stand")
    | _ => .error wrongShape
  | .view wlo we xlo xe =>
    match (bracket ts).bind headReg with
    | some (.w v, bang, .ch '+' :: rest) => do
      bangCheck bang we
      ((a.put wlo v).read (.w v) bang we).readX xlo 5 xe rest
    | _ => .error wrongShape
  | .qAt lo =>
    match (bracket ts).bind headReg with
    | some (.q i, bang, []) => do
      bangCheck bang 32
      .ok (a.put lo i)
    | _ => .error wrongShape
  | .gather xlo xe vlo ve =>
    match (bracket ts).bind headReg with
    | some (.x i, bang, .ch '+' :: rest) =>
      match regTok rest with
      | some (.v k, vbang) =>
        if 16 ≤ i then .error ("E009", "x16 to x31 in a 4-bit vector field")
        else .ok (((a.put xlo i).read (.x i) bang xe).put vlo k |>.read (.v k) vbang ve)
      | _ => .error wrongShape
    | _ => .error wrongShape
  | .imm lo wd sgn => do
    let n ← env.number ts
    if env.widen = .raw || !sgn then a.unsigned lo wd n else a.signed lo wd n
  | .num lo wd min max bias => do
    let n ← env.number ts
    if n < min || max < n then .error ("E003", "a number out of its range") else a.unsigned lo wd (n - bias)
  | .target lo wd unit => a.target env lo wd unit ts
  | .payload lo =>
    match regTok ts with
    | some (.x i, bang) => do
      bangCheck bang 32
      .ok { a.put lo i with run := some (false, i) }
    | some (.m i, bang) => do
      bangCheck bang 32
      .ok { (a.put lo i).put 0 1 with run := some (true, i) }
    | _ => .error wrongShape
  | .count only => do
    let n ← if ts.isEmpty then .ok 1 else env.number ts
    if n < 1 || 4 < n then .error ("E003", "a count out of its range")
    else if only.any fun k => n ≠ k then .error ("E010", "a count that the operation does not take")
    else match a.run with
      | none => .ok a
      | some (isM, i) =>
        if (if isM then 15 else 31) < i + n.toNat - 1 then .error ("E010", "a payload that runs past its registers")
        else .ok { a.put 9 (n.toNat - 1) with
          reads := a.reads ++ (if isM then [] else (List.range n.toNat).map fun k => (AReg.x (i + k), false)) }
  | .rights lo =>
    match ts with
    | [.word cs] =>
      match rightsOf (lower cs) with
      | some k => .ok (a.put lo k)
      | none => .error wrongShape
    | _ => .error wrongShape
  | .cr lo => do
    let n ← match ts with
      | [.word cs] =>
        match crOf (lower cs) with
        | some n => .ok (n : Int)
        | none => env.number ts
      | _ => env.number ts
    if n < 0 || 0xFFF < n then .error ("E003", "value outside its field")
    else if !crNumberOk (BitVec.ofNat 12 n.toNat) then .error ("E010", "no such control register")
    else .ok { a.put lo n.toNat with slice := decide (0x40 ≤ n) && decide (n ≤ 0x4F) }
  | .lane lo => do
    let n ← env.number ts
    if n < 0 || 15 < n then .error ("E003", "value outside its field")
    else if lanes (BitVec.ofNat 3 (a.word / 2 ^ 11 % 8)) ≤ n.toNat then .error ("E010", "a lane that the type does not have")
    else .ok (a.put lo n.toNat)
  | .mask pol =>
    match ts with
    | [.word cs] =>
      match splitOn '.' (lower cs) with
      | [r, p] =>
        match regOf r with
        | some (.v i) =>
          if 4 ≤ i then .error ("E002", "no mask register")
          else if p == ['u'] then .ok (((a.put 10 1).put 8 i).read (.v i) false 32)
          else if p == ['z'] then
            if pol then .ok ((((a.put 10 1).put 8 i).put 7 1).read (.v i) false 32) else .error ("E010", "pol must be zero here")
          else .error wrongShape
        | _ => .error wrongShape
      | _ => .error wrongShape
    | _ => .error wrongShape
where
  /-- An x register written. -/
  dest (lo wd : Nat) : Except AErr Asm1 :=
    match regTok ts with
    | some (.x i, bang) => do
      bangCheck bang 32
      if wd = 4 && 16 ≤ i then .error ("E009", "x16 to x31 in a 4-bit vector field") else .ok ((a.put lo i).write [.x i])
    | some (.m _, _) => .error ("E009", "an m register as destination")
    | _ => .error wrongShape

/-- Whether an operand may be left out at the end. -/
def OpSpec.optional : OpSpec → Bool
  | .mask _ | .count _ => true
  | _ => false

/-- The operands of a form in their order. -/
def Asm1.operands (a : Asm1) (env : AsmEnv) : List OpSpec → List (List Tok) → Except AErr Asm1
  | [], [] => .ok a
  | [], _ :: _ => .error ("E001", "too many operands")
  | .count only :: specs, [] => do
    let a ← a.operand env (.count only) []
    a.operands env specs []
  | s :: specs, [] => if s.optional then a.operands env specs [] else .error ("E001", "too few operands")
  | s :: specs, t :: ts => do
    let a ← a.operand env s t
    a.operands env specs ts

/-- The suffixes of a row matched in order: the bits they set, or none when one does not fit. -/
def matchSufs : List Suf → List (List Char) → Option Nat
  | [], [] => some 0
  | [], _ :: _ => none
  | s :: ss, [] => if s.required then none else matchSufs ss []
  | s :: ss, p :: ps =>
    match s.opts.find? fun o => o.1.toList == p with
    | some o => (matchSufs ss ps).map (o.2 + ·)
    | none => if s.required then none else matchSufs ss (p :: ps)

/-- The rows whose name begins a mnemonic, with what follows the name. -/
def rowsFor (parts : List (List Char)) : List (Row × List (List Char)) :=
  asmRows.filterMap fun r =>
    let n := splitOn '.' r.name.toList
    if n.isPrefixOf parts then some (r, parts.drop n.length) else none

/-- The first form that the operands fit, or the error of the first whose operands are of its kinds. -/
def tryForms (env : AsmEnv) (word : Nat) (ops : List (List Tok)) : List (Nat × List OpSpec) → Option AErr → Except AErr Asm1
  | [], e => .error (e.getD wrongShape)
  | f :: fs, e =>
    match (⟨word + f.1, [], [], none, 0, false⟩ : Asm1).operands env f.2 ops with
    | .ok a => .ok a
    | .error x => tryForms env word ops fs (if e.isNone || (e.map (·.1)) == some "E001" then some x else e)

/-- What R176 makes ILLEGAL beyond the fields' own ranges: a selector of 3, one view register twice, an operation on every entry
with an address. -/
def illegalWord (w : Nat) : Bool :=
  let op := w / 2 ^ 26
  let f (lo n : Nat) : Nat := w / 2 ^ lo % 2 ^ n
  (op = 0x1C && (f 4 7 = 1 || f 4 7 = 2 || f 4 7 = 7) && f 21 3 = f 11 3) ||
  (op = 0x1C && f 4 7 = 6 && f 0 2 = 3) || (op = 0x28 && f 4 7 = 2 && f 0 2 = 3) ||
  (op = 0x01 && f 4 5 = 0x1C && f 0 2 = 3) ||
  (op = 0x17 && f 13 3 = 2 && f 21 1 = 1 && f 0 12 + f 16 5 ≠ 0) ||
  (op = 0x17 && f 13 3 = 3 && f 21 2 ≠ 0 && f 0 12 + f 16 5 ≠ 0)

/-- An assembled instruction: its bits, and whether its destinations wait for a value. -/
structure Assembled where
  a        : Asm1
  producer : Bool
  deriving DecidableEq, Repr

/-- Whether a channel's symbol stands among some tokens (R305). -/
def namesChan (look : String → Option Meaning) (ts : List Tok) : Bool :=
  ts.any fun t => match t with
    | .word w => match look (String.ofList w) with
      | some (.chan _ _) => true
      | _ => false
    | _ => false

/-- An error as R305 and R306 code it where operands do not have an instruction's form: a channel's symbol among them, or the name
of no register. -/
def operandError (look : String → Option Meaning) (ops : List (List Tok)) (x : AErr) : AErr :=
  let strange (t : Tok) : Bool := match t with
    | .word w => (regOf (lower w)).isNone && (look (String.ofList w)).isNone
    | _ => false
  if ops.any (namesChan look) then ("E006", "a channel symbol where none may stand")
  else if x.1 == "E001" && ops.any fun o => o.any strange then ("E002", "unknown register")
  else x

/-- One instruction other than a HINT (R131, R132): the mnemonic and its operands. SVC reads x10 to x12 too (R195). -/
def assemble (env : AsmEnv) (mnemonic : List Char) (ops : List (List Tok)) : Except AErr Assembled :=
  let rows := rowsFor (dotParts mnemonic)
  if rows.isEmpty then .error ("E002", "unknown mnemonic")
  else match rows.findSome? fun r => (matchSufs r.1.sufs r.2).map fun b => (r.1, b) with
    | none => .error ("E002", "a suffix the instruction does not take")
    | some (r, b) => do
      let a ← (tryForms env (r.base + b) ops r.forms none).mapError (operandError env.look ops)
      if illegalWord a.word then .error ("E010", "an illegal word")
      else
        let a := if r.name == "svc" then
            { a.write [.x 10] with reads := a.reads ++ [(.x 10, false), (.x 11, false), (.x 12, false)] }
          else if r.name == "jal" then a.write [.x 31] else a
        .ok ⟨a, r.producer || r.name == "svc" || (r.name == "crr" && a.slice)⟩

end Sys2Proof.Machine
end

