-- ==== Sys2Proof/Machine/AsmSource.lean ====
section
/-!
DEFINITION. Pass 1 of ngatur: lines, labels, macros, conditions and directives, laid out in sections (R127, R128, R135 to R141, R300).
-/

namespace Sys2Proof.Machine

/-! ## Diagnostics (R300) -/

/-- Where a line stands: its file, its line, the line of the macro body it came from, and its place in reading order. -/
structure Pos where
  file  : String
  line  : Nat
  inner : Option (String × Nat)
  seq   : Nat
  deriving DecidableEq, Repr

/-- A diagnostic. Its code's letter gives its severity. -/
structure Diag where
  pos  : Pos
  code : String
  text : String
  deriving DecidableEq, Repr

/-! ## What pass 1 collects -/

/-- What makes two .section lines name one section (R135). -/
structure SectId where
  kind : SectionKind
  fmt  : Nat
  deriving DecidableEq, Repr

/-- A section as pass 1 lays it out: its identity, its size so far, and the base-2 logarithm of its largest .align. -/
structure Sect where
  id    : SectId
  size  : Nat
  align : Nat
  deriving DecidableEq, Repr

/-- The data directives that take a value list (R140). -/
inductive DataKind where
  | int (n : Nat)
  | real (f : Fmt)
  | cq4
  deriving DecidableEq, Repr

/-- One thing laid out in a section. -/
inductive Item where
  | inst (mnemonic : List Char) (ops : List (List Tok))
  | data (kind : DataKind) (items : List (Nat × List Tok))
  | zeros (n : Nat)
  deriving DecidableEq, Repr

/-- An item with its place. -/
structure Laid where
  pos  : Pos
  sect : Nat
  off  : Nat
  body : Option Nat
  item : Item
  deriving DecidableEq, Repr

/-- What a declared name is. -/
inductive Def where
  | label (sect off : Nat)
  | equ (e : Expr)
  | chan (index : Nat)
  | pattern (index : Nat)
  | body (index sect off : Nat)
  | region (index : Nat)
  | gang (index : Nat)
  deriving DecidableEq, Repr

/-- A name with its definition. -/
structure Named where
  name : String
  pos  : Pos
  what : Def
  deriving DecidableEq, Repr

/-- A declaration by its operands. -/
structure Decl where
  name : String
  pos  : Pos
  ops  : List (List Tok)
  deriving DecidableEq, Repr

/-- A body: its declaration, the region it names, and its bytes. -/
structure BodyDecl where
  decl : Decl
  size : Nat
  deriving DecidableEq, Repr

/-- A macro (R141). -/
structure Macro where
  name   : List Char
  params : List (List Char)
  file   : String
  lines  : List (Nat × List Char)
  deriving DecidableEq, Repr

/-- An open .if: whether its lines are assembled, whether a branch has been, whether the lines around it are, and where it opened. -/
structure Cond where
  active : Bool
  taken  : Bool
  outer  : Bool
  pos    : Pos
  deriving DecidableEq, Repr

/-- A line still to be read. -/
structure SrcLine where
  file  : String
  line  : Nat
  inner : Option (String × Nat)
  calls : Nat
  files : Nat
  text  : List Char
  deriving DecidableEq, Repr

/-- What pass 1 knows. Lists of things met are in reverse order. -/
structure Pass1 where
  seq     : Nat
  sects   : List Sect
  cur     : Nat
  items   : List Laid
  names   : List Named
  macros  : List Macro
  conds   : List Cond
  making  : Option (Macro × Pos × Nat)
  open_   : Option (Nat × Nat × Pos)
  chans   : List Decl
  pats    : List Decl
  regions : List Decl
  bodies  : List BodyDecl
  gangs   : List Decl
  globals : List (String × Bool × Pos)
  diags   : List Diag
  deriving DecidableEq, Repr

/-- Pass 1 before line 1: one empty .text section. -/
def Pass1.empty : Pass1 := ⟨0, [⟨⟨.text, 0⟩, 0, 0⟩], 0, [], [], [], [], none, none, [], [], [], [], [], [], []⟩

/-- A diagnostic added. -/
def Pass1.diag (p : Pass1) (pos : Pos) (code text : String) : Pass1 := { p with diags := ⟨pos, code, text⟩ :: p.diags }

/-- Whether the lines now read are assembled. -/
def Pass1.active (p : Pass1) : Bool :=
  match p.conds with
  | c :: _ => c.active
  | [] => true

/-- The size of the current section. -/
def Pass1.here (p : Pass1) : Nat := ((p.sects[p.cur]?).map (·.size)).getD 0

/-- The current section grown. -/
def Pass1.grow (p : Pass1) (n : Nat) : Pass1 := { p with sects := p.sects.modify p.cur fun s => { s with size := s.size + n } }

/-- An item laid out. -/
def Pass1.lay (p : Pass1) (pos : Pos) (n : Nat) (i : Item) : Pass1 :=
  { p with items := ⟨pos, p.cur, p.here, p.open_.map (fun (o : Nat × Nat × Pos) => o.1), i⟩ :: p.items }.grow n

/-- Whether a definition is a pattern's, whose names are their own (R137). -/
def Def.isPattern : Def → Bool
  | .pattern _ => true
  | _ => false

/-- A name defined (R127, R137): an error when it is no symbol or is defined already. -/
def Pass1.define (p : Pass1) (pos : Pos) (cs : List Char) (d : Def) : Pass1 :=
  let name := String.ofList cs
  if !isSymbol cs then p.diag pos "E001" ("not a symbol: " ++ name)
  else
    let p := if p.names.any fun n => n.name == name && n.what.isPattern == d.isPattern then
      p.diag pos "E005" ("doubly defined: " ++ name) else p
    { p with names := ⟨name, pos, d⟩ :: p.names }

/-- Whether a section's labels stand for addresses that the launcher gives (R135, R304). -/
def sectionMoved : SectionKind → Bool
  | .text | .data => true
  | _ => false

/-- The expression of a declared gang's mask; 0 for one that cannot be parsed. -/
def Decl.mask (d : Decl) : Expr := ((d.ops.getLast?).bind parseExpr).getD (.num 0)

/-- What a defined name means in an expression (R135, R139, R305): labels of images stand for their offsets, and a gang for its
mask. -/
def meaningOf (sects : List Sect) (gangs : List Decl) (i : Nat) (d : Def) : Option Meaning :=
  match d with
  | .label s o =>
    if ((sects[s]?).map fun x => sectionMoved x.id.kind).getD false then some (.place s o i) else some (.image (BitVec.ofNat 64 o) s)
  | .equ e => some (.equ e)
  | .chan k => some (.chan k i)
  | .pattern _ => none
  | .body _ s o => some (.place s o i)
  | .region k => some (.region k i)
  | .gang k => (gangs[k]?).map fun d => .equ d.mask

/-- The meaning of a name among definitions in order. -/
def lookIn (sects : List Sect) (gangs : List Decl) (names : List Named) (name : String) : Option Meaning :=
  (names.zipIdx.find? fun n => n.1.name == name && !n.1.what.isPattern).bind fun n => meaningOf sects gangs n.2 n.1.what

/-- The value of an expression with what has been defined so far. -/
def Pass1.env (p : Pass1) : AsmEnv :=
  { look := lookIn p.sects p.gangs.reverse p.names.reverse, sect := p.cur, here := p.here, widen := .none }

/-! ## Macros (R141) -/

/-- The longest parameter that a text begins with, as its argument and the rest of the text (R141, entry 69). -/
def paramAt (ps : List (List Char × List Char)) (cs : List Char) : Option (List Char × List Char) :=
  (ps.foldl (fun (best : Option (List Char × List Char)) p =>
    if p.1.isPrefixOf cs && (best.all fun b => decide (b.1.length < p.1.length)) then some p else best) none).map
      fun p => (p.2, cs.drop p.1.length)

/-- A macro's line with its arguments put in. -/
def substitute (ps : List (List Char × List Char)) : Nat → List Char → List Char
  | 0, cs => cs
  | n + 1, cs =>
    match cs with
    | [] => []
    | '%' :: rest =>
      match paramAt ps rest with
      | some (arg, rest) => arg ++ substitute ps n rest
      | none => '%' :: substitute ps n rest
    | c :: rest => c :: substitute ps n rest

/-- A text without blanks at its ends. -/
def trim (cs : List Char) : List Char :=
  let blank (c : Char) : Bool := c == ' ' || c == '\t' || c == '\r'
  ((cs.dropWhile blank).reverse.dropWhile blank).reverse

/-- A line's text up to its comment. -/
def uncomment : List Char → List Char
  | [] => []
  | ';' :: _ => []
  | '/' :: '/' :: _ => []
  | c :: cs => c :: uncomment cs

/-- A text's parts between commas outside brackets. -/
def splitArgs : List Char → Nat → List Char → List (List Char)
  | [], _, cur => [trim cur.reverse]
  | c :: cs, depth, cur =>
    if c == ',' && depth = 0 then trim cur.reverse :: splitArgs cs 0 []
    else splitArgs cs (if c == '(' || c == '[' then depth + 1 else if c == ')' || c == ']' then depth - 1 else depth) (c :: cur)

/-- The lines of a file's text, read `files` includes and `calls` macro calls deep. -/
def fileLines (file : String) (calls files : Nat) (text : String) : List SrcLine :=
  (splitOn '\n' text.toList).mapIdx fun i l => ⟨file, i + 1, none, calls, files, l⟩

/-- The directory that a path names its file in, with the stroke that ends it. -/
def dirOf (path : List Char) : List Char := (path.reverse.dropWhile (· != '/')).reverse

/-- The paths at which an .include is looked for in turn (R299): in the source file's own directory, and then in those of -I. -/
def searchPaths (job : AsmJob) (path : List Char) : List (List Char) :=
  if path.head? == some '/' then [path]
  else (dirOf job.file.toList ++ path) :: job.dirs.map fun d =>
    let d := d.toList
    (if d.isEmpty || d.getLast? == some '/' then d else d ++ ['/']) ++ path

/-- The file that an .include reads: the first of its paths at which there is one. -/
def findInclude (job : AsmJob) (path : List Char) : Option (String × String) :=
  (searchPaths job path).findSome? fun q => job.includes.find? fun f => f.1.toList == q

/-- A line's text after its label, if it has one (R127). -/
def afterLabel (cs : List Char) : List Char :=
  let t := trim cs
  match trim (t.dropWhile isNameChar) with
  | ':' :: rest => if (t.takeWhile isNameChar).isEmpty then t else trim rest
  | _ => t

/-- The path of an .include, where a line is one (R141): what follows the directive, in quotes or not. -/
def includePath (cs : List Char) : Option (List Char) :=
  let t := afterLabel cs
  let blank (c : Char) : Bool := c == ' ' || c == '\t'
  if lower (t.takeWhile fun c => !blank c) == ".include".toList then
    some ((trim (t.dropWhile fun c => !blank c)).filter (· != '"'))
  else none

/-! ## Directives -/

/-- The element formats by name (R65). -/
def formatNames : List (String × Nat) :=
  [("raw", 0), ("s8", 1), ("s16", 2), ("bf16", 3), ("f32", 4), ("cq4", 5), ("bx16", 6), ("f16", 7), ("f64", 8)]

/-- A coordinate pair's two expressions. -/
def pairToks (ts : List Tok) : Option (List Tok × List Tok) :=
  match ts with
  | .ch '(' :: rest =>
    if rest.getLast? == some (.ch ')') then
      match splitCommas rest.dropLast with
      | [a, b] => some (a, b)
      | _ => none
    else none
  | _ => none

/-- The repetition count of a data item, and its value's tokens (R128). -/
def repetition (ts : List Tok) : Nat × List Tok :=
  match ts with
  | [.num n false, .ch '*', .num v h] => (n, [.num v h])
  | [.num n false, .ch '*', .real m e] => (n, [.real m e])
  | [.num n false, .ch '*', .ch '-', .num v h] => (n, [.ch '-', .num v h])
  | [.num n false, .ch '*', .ch '-', .real m e] => (n, [.ch '-', .real m e])
  | [.num n false, .ch '*', .ch '+', .num v h] => (n, [.num v h])
  | [.num n false, .ch '*', .ch '+', .real m e] => (n, [.real m e])
  | ts => (1, ts)

/-- The data directives by name (R140). -/
def dataKinds : List (String × DataKind × Nat) :=
  [(".byte", .int 1, 1), (".half", .int 2, 2), (".word", .int 4, 4), (".dword", .int 8, 8),
   (".bf16", .real .bf16, 2), (".f32", .real .f32, 4), (".f64", .real .f64, 8)]

/-- The section named, chosen or begun. -/
def Pass1.enter (p : Pass1) (id : SectId) : Pass1 :=
  match p.sects.findIdx? fun s => s.id == id with
  | some i => { p with cur := i }
  | none => { p with sects := p.sects ++ [⟨id, 0, 0⟩], cur := p.sects.length }

/-- .section (R135). -/
def Pass1.section_ (p : Pass1) (pos : Pos) (ops : List (List Tok)) : Pass1 :=
  match ops with
  | [.word w] :: more =>
    let name := String.ofList (lower w)
    match name, more with
    | ".text", [] => p.enter ⟨.text, 0⟩
    | ".data", [] => p.enter ⟨.data, 0⟩
    | ".data", [[.word f]] =>
      match formatNames.find? fun n => n.1.toList == lower f with
      | some n => p.enter ⟨.data, n.2⟩
      | none => p.diag pos "E001" "no element format"
    | ".ls", [] => p.enter ⟨.ls, 0⟩
    | ".cstore", [] => p.enter ⟨.cstore, 0⟩
    | ".wslice", [c] =>
      match pairToks c with
      | some (a, b) =>
        match p.env.number a, p.env.number b with
        | .ok x, .ok y => if x < 0 || y < 0 then p.diag pos "E108" "a negative coordinate" else p.enter ⟨.wslice x.toNat y.toNat, 0⟩
        | .error e, _ => p.diag pos e.1 e.2
        | _, .error e => p.diag pos e.1 e.2
      | none => p.diag pos "E001" "no coordinate pair"
    | _, _ => p.diag pos "E002" "unknown section"
  | _ => p.diag pos "E001" "no section"

/-- The name that an operand is. -/
def nameTok : List Tok → Option (List Char)
  | [.word w] => some w
  | _ => none

/-- A declaration with a name: added by `add`, and its name defined. -/
def Pass1.declare (p : Pass1) (pos : Pos) (ops : List (List Tok)) (add : Pass1 → Decl → Pass1 × Def) : Pass1 :=
  match ops with
  | n :: more =>
    match nameTok n with
    | some cs =>
      let (p, d) := add p ⟨String.ofList cs, pos, more⟩
      p.define pos cs d
    | none => p.diag pos "E001" "no name"
  | [] => p.diag pos "E001" "no name"

/-- The largest power of two that .align takes, by its logarithm. -/
def logOf (n : Nat) : Option Nat := (List.range 17).find? fun k => 2 ^ k == n

/-- A directive other than those that choose lines (R135 to R140). -/
def Pass1.directive (p : Pass1) (pos : Pos) (name : String) (ops : List (List Tok)) : Pass1 :=
  match name with
  | ".section" => p.section_ pos ops
  | ".space" =>
    match ops with
    | [e] =>
      match p.env.number e with
      | .ok n => if n < 0 then p.diag pos "E003" "a size out of range" else p.lay pos n.toNat (.zeros n.toNat)
      | .error x => p.diag pos x.1 x.2
    | _ => p.diag pos "E001" ".space takes one size"
  | ".align" =>
    match ops with
    | [e] =>
      match p.env.number e with
      | .ok n =>
        match logOf n.toNat with
        | some k =>
          let pad := (2 ^ k - p.here % 2 ^ k) % 2 ^ k
          let p := { p with sects := p.sects.modify p.cur fun s => { s with align := max s.align k } }
          p.lay pos pad (.zeros pad)
        | none => p.diag pos "E003" "no power of two from 1 to 65,536"
      | .error x => p.diag pos x.1 x.2
    | _ => p.diag pos "E001" ".align takes one number"
  | ".equ" =>
    match ops with
    | [n, e] =>
      match nameTok n, parseExpr e with
      | some cs, some x =>
        (if e.any Tok.isBig then p.diag pos "E003" "a number of more than 64 bits" else p).define pos cs (.equ x)
      | some cs, none => (if e.contains .badNum then p.diag pos "E003" "misplaced underscore in a number" else p.diag pos "E001" ".equ NAME, expr").define
          pos cs (.equ (.num 0))
      | none, _ => p.diag pos "E001" ".equ NAME, expr"
    | _ => p.diag pos "E001" ".equ NAME, expr"
  | ".cq4" => p.lay pos 136 (.data .cq4 (ops.map repetition))
  | ".channel" => p.declare pos ops fun p d => ({ p with chans := d :: p.chans }, .chan p.chans.length)
  | ".pattern" => p.declare pos ops fun p d => ({ p with pats := d :: p.pats }, .pattern p.pats.length)
  | ".region" => p.declare pos ops fun p d => ({ p with regions := d :: p.regions }, .region p.regions.length)
  | ".gang" => p.declare pos ops fun p d => ({ p with gangs := d :: p.gangs }, .gang p.gangs.length)
  | ".body" =>
    let p := if p.open_.isSome then p.diag pos "E007" "a body in a body" else p
    let p := p.enter ⟨.text, 0⟩
    p.declare pos ops fun p d =>
      ({ p with bodies := ⟨d, 0⟩ :: p.bodies, open_ := some (p.bodies.length, p.here, pos) }, .body p.bodies.length p.cur p.here)
  | ".endbody" =>
    match p.open_ with
    | none => p.diag pos "E007" ".endbody without its opener"
    | some (_, start, _) =>
      let size := p.here - start
      { p with open_ := none, bodies := p.bodies.modify 0 fun b => { b with size := size } }
  | ".global" | ".local" =>
    match ops with
    | [[.word w]] => { p with globals := (String.ofList w, name == ".global", pos) :: p.globals }
    | _ => p.diag pos "E001" "one name"
  | _ =>
    match dataKinds.find? fun d => d.1 == name with
    | some (_, k, n) =>
      let items := ops.map repetition
      if items.isEmpty then p.diag pos "E001" "no values" else p.lay pos (n * (items.map (·.1)).sum) (.data k items)
    | none => p.diag pos "E002" ("unknown directive " ++ name)

/-! ## Reading lines -/

/-- One line with its lines that follow (R127, R141): what pass 1 then knows, and the lines to read next. A macro's arguments must
be as many as its parameters (entry 69). -/
def Pass1.line (p : Pass1) (job : AsmJob) (l : SrcLine) (more : List SrcLine) : Pass1 × List SrcLine :=
  let pos : Pos := ⟨l.file, l.line, l.inner, p.seq⟩
  let p := { p with seq := p.seq + 1 }
  let words := uncomment l.text
  match p.making with
  | some (m, at_, depth) =>
    match lineToks words with
    | some (.word w :: _) =>
      if lower w == ".endm".toList then
        if depth = 0 then ({ p with making := none, macros := { m with lines := m.lines.reverse } :: p.macros }, more)
        else ({ p with making := some ({ m with lines := (l.line, l.text) :: m.lines }, at_, depth - 1) }, more)
      else ({ p with making := some ({ m with lines := (l.line, l.text) :: m.lines }, at_,
        if lower w == ".macro".toList then depth + 1 else depth) }, more)
    | _ => ({ p with making := some ({ m with lines := (l.line, l.text) :: m.lines }, at_, depth) }, more)
  | none =>
    match includePath words, lineToks words with
    | some path, _ =>
      if !p.active then (p, more)
      else
        let label := (trim words).takeWhile isNameChar
        let p := if label.isEmpty then p else p.define pos label (.label p.cur p.here)
        if 8 ≤ l.files then (p.diag pos "E008" ".include more than 8 deep", more)
        else match findInclude job path with
          | some f => (p, fileLines f.1 l.calls (l.files + 1) f.2 ++ more)
          | none => (p.diag pos "E001" "a file that cannot be read", more)
    | none, none => (if p.active then p.diag pos "E001" "a line that cannot be parsed" else p, more)
    | none, some ts =>
      let (label, ts) := match ts with
        | .word w :: .ch ':' :: ts => (some w, ts)
        | ts => (none, ts)
      let p := match label with
        | some w => if p.active then p.define pos w (.label p.cur p.here) else p
        | none => p
      match ts with
      | [] => (p, more)
      | .word w :: ops =>
        let name := String.ofList (lower w)
        if name == ".if" then
          if !p.active then ({ p with conds := ⟨false, true, false, pos⟩ :: p.conds }, more)
          else match p.env.number ops with
            | .ok n => ({ p with conds := ⟨n != 0, n != 0, true, pos⟩ :: p.conds }, more)
            | .error e => ({ p.diag pos e.1 e.2 with conds := ⟨false, true, true, pos⟩ :: p.conds }, more)
        else if name == ".else" then
          match p.conds with
          | c :: cs => ({ p with conds := { c with active := c.outer && !c.taken, taken := true } :: cs }, more)
          | [] => (p.diag pos "E007" ".else without its opener", more)
        else if name == ".endif" then
          match p.conds with
          | _ :: cs => ({ p with conds := cs }, more)
          | [] => (p.diag pos "E007" ".endif without its opener", more)
        else if !p.active then (p, more)
        else if name == ".endm" then (p.diag pos "E007" ".endm without its opener", more)
        else if name == ".macro" then
          match ops with
          | .word n :: ps =>
            let params := (ps.filter fun t => t != .ch ',').filterMap fun t => match t with
              | .word x => some x
              | _ => none
            let p := if isSymbol n then p else p.diag pos "E001" "not a symbol"
            let p := if p.macros.any fun m => m.name == n then p.diag pos "E005" "a macro defined twice" else p
            ({ p with making := some (⟨n, params, l.file, []⟩, pos, 0) }, more)
          | _ => (p.diag pos "E001" "a macro without a name", more)
        else match p.macros.find? fun m => m.name == w with
          | some m =>
            if 16 ≤ l.calls then (p.diag pos "E008" "macro calls more than 16 deep", more)
            else
              let after := match label with
                | some _ => (words.dropWhile (· != ':')).tail
                | none => words
              let args := splitArgs ((trim after).drop w.length) 0 []
              let args := if args == [[]] then [] else args
              let p := if args.length = m.params.length then p else p.diag pos "E001" "arguments that do not match the macro"
              let ps := m.params.zip args
              (p, (m.lines.map fun x =>
                ⟨l.file, l.line, some (m.file, x.1), l.calls + 1, l.files, substitute ps (x.2.length + 1) x.2⟩) ++ more)
          | none =>
            if w.head? == some '.' then (p.directive pos name (splitCommas ops), more)
            else (p.lay pos 4 (.inst w (splitCommas ops)), more)
      | _ => (p.diag pos "E001" "a line that cannot be parsed", more)

/-- Lines read until none is left, or for `n` lines. -/
def Pass1.read (job : AsmJob) : Nat → List SrcLine → Pass1 → Pass1
  | 0, _, p => p.diag ⟨"", 0, none, p.seq⟩ "E008" "a source that does not end"
  | _ + 1, [], p => p
  | n + 1, l :: more, p =>
    let (p, more) := p.line job l more
    Pass1.read job n more p

/-- Openers that the end of the file finds open (R141). -/
def Pass1.close (p : Pass1) : Pass1 :=
  let p := match p.making with
    | some (_, pos, _) => p.diag pos "E007" ".macro without its closer"
    | none => p
  let p := p.conds.foldl (fun p c => p.diag c.pos "E007" ".if without its closer") p
  match p.open_ with
  | some (_, _, pos) => p.diag pos "E007" ".body without its closer"
  | none => p

/-- The number of lines that a source may expand to. -/
def lineLimit : Nat := 2 ^ 64

/-- Pass 1 over a source with its -D definitions. -/
def pass1 (job : AsmJob) : Pass1 :=
  let p := job.defines.foldl (fun p d =>
    let pos : Pos := ⟨job.file, 0, none, 0⟩
    match (lineToks d.2.toList).bind parseExpr with
    | some e => p.define pos d.1.toList (.equ e)
    | none => p.diag pos "E001" "-D without an expression") Pass1.empty
  (Pass1.read job lineLimit (fileLines job.file 0 0 job.text) { p with seq := 1 }).close

end Sys2Proof.Machine
end

