-- ==== Sys2Proof/Machine/AsmEmit.lean ====
section
/-!
DEFINITION. Pass 2 of ngatur: the words and bytes of each section, HINT groups and relocations (R133, R134, R140, R157 to R161, R304).
-/

namespace Sys2Proof.Machine

/-! ## Pass 2: words and bytes (R133, R134, R140, R304) -/

/-- What a HINT word is (R153). -/
inductive HintForm where
  | imm (auto : Bool) (place : Option (Nat × Int))
  | mod
  | sched
  deriving DecidableEq, Repr

/-- One word laid out: its bits, and the HINT it is or the instruction. -/
structure OutWord where
  pos  : Pos
  off  : Nat
  body : Option Nat
  word : Nat
  hint : Option HintForm
  inst : Option Assembled
  /-- Whether it took the pending HINTs before it as its own. -/
  hints : Nat
  deriving DecidableEq, Repr

/-- What pass 2 has made of a section. Lists are in reverse order. -/
structure Emit where
  words  : List OutWord
  bytes  : List (List Byte)
  relocs : List (Nat × RelocType × Nat)
  diags  : List Diag
  deriving DecidableEq, Repr

/-- A diagnostic added. -/
def Emit.diag (e : Emit) (pos : Pos) (x : AErr) : Emit := { e with diags := ⟨pos, x.1, x.2⟩ :: e.diags }

/-- The parts of `name=value`. -/
def optTok (ts : List Tok) : Option (String × List Tok) :=
  match ts with
  | .word w :: .ch '=' :: v => some (String.ofList (lower w), v)
  | [.word w] => some (String.ofList (lower w), [])
  | _ => none

/-- The code of a word among spellings. -/
def codeOf (os : List (String × Nat)) (ts : List Tok) : Option Nat :=
  match ts with
  | [.word w] => (os.find? fun o => o.1.toList == lower w).map (·.2)
  | _ => none

/-- The bits that an option of HINT.MOD sets (R158, R196). -/
def modBits (name : String) (v : List Tok) : Option Nat :=
  match name with
  | "rm" => (codeOf [("rne", 0), ("rtz", 1), ("rup", 2), ("rdn", 3), ("rna", 4)] v).map fun k => 2 ^ 23 + k * 2 ^ 20
  | "scope" => (codeOf [("core", 0), ("clus", 1), ("stack", 2), ("dev", 3), ("sys", 4)] v).map fun k => 2 ^ 19 + k * 2 ^ 16
  | "cpol" => (codeOf [("page", 0), ("evict", 1), ("retain", 2)] v).map fun k => k * 2 ^ 14
  | "na" => if v.isEmpty then some (2 ^ 13) else none
  | _ => none

/-- The bits of HINT.MOD's options; none for an option it does not have, or one written twice. -/
def modAll : List (List Tok) → List String → Option Nat
  | [], seen => if seen.isEmpty then none else some 0
  | o :: os, seen =>
    (optTok o).bind fun (name, v) => if seen.contains name then none else
      (modBits name v).bind fun b => (modAll os (name :: seen)).map (b + ·)

/-- A HINT word (R196): its bits and its form. -/
def hintWord (env : AsmEnv) (mnemonic : List Char) (ops : List (List Tok)) : Option (Except AErr (Nat × HintForm)) :=
  let op := 0x3F * 2 ^ 26
  match String.ofList (lower mnemonic) with
  | "hint.imm" => some <|
    match ops with
    | [] => .ok (op, .imm true none)
    | [e] => do
      let v ← env.val e
      match v.base with
      | some (_, _, y) => .ok (op, .imm false (some (y, v.n.toInt)))
      | none =>
        if v.n.toInt < 0 || 0xFFFFFF < v.n.toInt then .error ("E003", "value outside its field")
        else .ok (op + v.n.toNat, .imm false none)
    | _ => .error ("E001", "too many operands")
  | "hint.mod" => some <|
    match modAll ops [] with
    | some b => .ok (op + 2 ^ 24 + b, .mod)
    | none => .error ("E001", "not an option of HINT.MOD")
  | "hint.sched" => some <|
    let find (name : String) : Option (List Tok) := ops.findSome? fun o => (optTok o).bind fun x => if x.1 == name then some x.2 else none
    match find "prio", find "n" with
    | some p, some n =>
      if ops.length ≠ 2 then .error ("E001", "HINT.SCHED prio=p, n=c")
      else do
        let p ← env.number p
        let n ← env.number n
        if p < 0 || 3 < p || n < 0 || 63 < n then .error ("E003", "value outside its field")
        else .ok (op + 2 * 2 ^ 24 + p.toNat * 2 ^ 22 + n.toNat * 2 ^ 16, .sched)
    | _, _ => .error ("E001", "HINT.SCHED prio=p, n=c")
  | _ => none

/-- The major opcode of a word. -/
def majorOf (w : Nat) : Nat := w / 2 ^ 26

/-- Whether a word accepts HINT.IMM (R157). -/
def takesImm (w : Nat) : Bool :=
  [2, 3, 4, 5, 7, 8, 9, 0xA, 0x10, 0x11, 0x12, 0x13, 0x16, 0x17, 0x20, 0x21, 0x22].contains (majorOf w)

/-- Whether a word accepts each part that a HINT.MOD enables (R159). -/
def takesMod (h w : Nat) : Bool :=
  let m := majorOf w
  let fn := w / 4 % 32
  let rnd := m = 0x0C || m = 0x31 || m = 0x32 || m = 0x36 || (m = 0x0D && 4 ≤ w / 8 % 8) || (m = 0x35 && fn ≠ 4)
  let scp := [0x12, 0x13, 0x18, 0x19, 0x1A, 0x1B].contains m
  let pol := (0x10 ≤ m && m ≤ 0x16) || (m = 0x17 && w / 2 ^ 13 % 8 = 0) || (m = 0x33 && fn ≤ 6)
  (h / 2 ^ 23 % 2 = 0 || rnd) && (h / 2 ^ 19 % 2 = 0 || scp) && (h / 2 ^ 13 % 8 = 0 || pol)

/-- The kinds of two HINTs are one. -/
def sameForm : HintForm → HintForm → Bool
  | .imm _ _, .imm _ _ => true
  | .mod, .mod => true
  | .sched, .sched => true
  | _, _ => false

/-- Whether two of some HINTs have one kind. -/
def twoAlike : List HintForm → Bool
  | [] => false
  | h :: hs => hs.any (sameForm h) || twoAlike hs

/-- Diagnostics of a HINT group with its target (R133, R161, R309). -/
def groupErrors (hs : List OutWord) (target : Nat) : List AErr :=
  let forms := hs.filterMap (·.hint)
  let auto := forms.any fun h => match h with
    | .imm true _ => true
    | _ => false
  let place := forms.any fun h => match h with
    | .imm _ (some _) => true
    | _ => false
  (if twoAlike forms then [("E301", "two HINTs of one kind in a group")] else []) ++
  (if hs.isEmpty then [] else if majorOf target = 0x23 && target / 2 ^ 18 % 8 = 0 then [("E301", "HINT group targets END")]
   else hs.filterMap fun h => match h.hint with
    | some (.imm _ _) => if !takesImm target then some ("E303", "HINT.IMM before a word that does not accept it")
        else if auto && !(majorOf target = 0x20 || majorOf target = 0x21 || majorOf target = 0x0A) then
          some ("E303", "HINT.IMM with no operand before a word without a target")
        else if place && !([2, 3, 4, 5, 7, 8, 0x22].contains (majorOf target)) then
          some ("E303", "an address before a word without imm15")
        else none
    | some .mod => if takesMod h.word target then none else some ("E303", "HINT.MOD before a word that does not accept it")
    | _ => none)

/-- Pending HINTs that end without a target (R138, R161). -/
def Emit.orphan (e : Emit) (pend : List OutWord) : Emit :=
  match pend with
  | [] => e
  | h :: _ => e.diag h.pos (if h.body.isSome then ("E302", "a HINT as the last word of a body") else ("E301", "a HINT without a target"))

/-- The value of a data item that is one number (R140): a 64-bit value, with the relocation of an address. -/
def dwordOf (look : String → Option Meaning) (env : AsmEnv) (ts : List Tok) : Except AErr (Word × Option (RelocType × Nat)) :=
  let plain : Except AErr (Word × Option (RelocType × Nat)) :=
    match env.val ts with
    | .ok ⟨v, none⟩ => .ok (v, none)
    | .ok ⟨v, some (_, _, y)⟩ => .ok (v, some (.abs64, y))
    | .error e => .error e
  match ts with
  | [.word w] =>
    match look (String.ofList w) with
    | some (.chan _ y) => .ok (0, some (.chan64, y))
    | some (.region _ y) => .ok (0, some (.rcb64, y))
    | _ => plain
  | _ => plain

/-- The bits of a real data item (R140). -/
def realOf (env : AsmEnv) (f : Fmt) (ts : List Tok) : Except AErr Nat :=
  match ts with
  | [.real m e] => .ok (realBits f false m e)
  | [.ch '-', .real m e] => .ok (realBits f true m e)
  | [.ch '+', .real m e] => .ok (realBits f false m e)
  | [.num v true] => if 2 ^ fmtWidth f ≤ v then .error ("E006", "bits that do not fit the format") else .ok v
  | ts => (env.number ts).map (intBits f)

/-- A number from 0 up to a limit in a .cq4 line. -/
def smallOf (env : AsmEnv) (max : Nat) (ts : List Tok) : Except AErr Nat := do
  let n ← env.number ts
  if n < 0 || max < n then .error ("E006", "a value that does not fit its directive") else .ok n.toNat

/-- Pairs of nibbles as bytes, the first of a pair in the low half (R95). -/
def nibbles : List Nat → List Byte
  | a :: b :: r => BitVec.ofNat 8 (a + 16 * b) :: nibbles r
  | _ => []

/-- The bytes of a .cq4 line (R140). -/
def cq4Bytes (env : AsmEnv) (items : List (Nat × List Tok)) : Except AErr (List Byte) := do
  let all := items.flatMap fun i => List.replicate (min i.1 512) i.2
  if all.length ≠ 261 then .error ("E003", "a super-block takes a scale, four block scales and 256 indices")
  else
    let s ← realOf env .f32 (all.headD [])
    let scales ← (all.tail.take 4).mapM (smallOf env 255)
    let ix ← (all.drop 5).mapM (smallOf env 15)
    .ok (nibbles ix ++ scales.map (BitVec.ofNat 8) ++ toBytes 4 s)

/-- Copies of bytes. -/
def repeatBytes : Nat → List Byte → List Byte
  | 0, _ => []
  | n + 1, bs => bs ++ repeatBytes n bs

/-- The bytes of one data item, with its relocation if it has one. -/
def itemBytes (look : String → Option Meaning) (env : AsmEnv) (k : DataKind) (ts : List Tok) :
    Except AErr (List Byte × Option (RelocType × Nat)) :=
  if ts.any Tok.isBig then .error ("E006", "a value that does not fit its directive")
  else match k with
  | .int 8 => (dwordOf look env ts).map fun x => (toBytes 8 x.1.toNat, x.2)
  | .int n => do
    let v ← env.val ts
    match v.base with
    | some _ => .error ("E006", "an address does not fit its directive")
    | none =>
      if v.n.toNat < 2 ^ (8 * n) || -(2 ^ (8 * n - 1) : Int) ≤ v.n.toInt && v.n.toInt < 0 then .ok (toBytes n v.n.toNat, none)
      else .error ("E006", "a value that does not fit its directive")
  | .real f => (realOf env f ts).map fun b => (toBytes (fmtWidth f / 8) b, none)
  | .cq4 => .ok ([], none)

/-- The size of one value of a directive. -/
def dataWidth : DataKind → Nat
  | .int n => n
  | .real f => fmtWidth f / 8
  | .cq4 => 136

/-- The values of a data line laid out from an offset. -/
def Emit.values (e : Emit) (look : String → Option Meaning) (env : AsmEnv) (pos : Pos) (k : DataKind) :
    Nat → List (Nat × List Tok) → Emit
  | _, [] => e
  | off, (n, ts) :: more =>
    let w := dataWidth k
    let e := match itemBytes look env k ts with
      | .ok (bs, r) =>
        let e := { e with bytes := repeatBytes n bs :: e.bytes }
        match r with
        | some (t, y) => { e with relocs := ((List.range n).reverse.map fun i => (off + w * i, t, y)) ++ e.relocs }
        | none => e
      | .error x => { e with bytes := List.replicate (n * w) 0 :: e.bytes }.diag pos x
    e.values look env pos k (off + n * w) more

/-- A word put down. -/
def Emit.word (e : Emit) (w : OutWord) : Emit := { e with words := w :: e.words, bytes := toBytes 4 w.word :: e.bytes }

/-- One item laid out, after the HINTs that wait for their target. -/
def Emit.item (look : String → Option Meaning) (sect : Nat) (e : Emit) (pend : List OutWord) (l : Laid) : Emit × List OutWord :=
  let widen : Widen := pend.foldl (fun w h => match h.hint with
    | some (.imm true _) => .auto
    | some (.imm false _) => .raw
    | _ => w) .none
  let env : AsmEnv := ⟨look, sect, l.off, widen⟩
  let stale := pend.any fun h => h.body != l.body
  let e := if stale then pend.reverse.foldl Emit.word (e.orphan pend) else e
  let pend := if stale then [] else pend
  let flush (e : Emit) : Emit := pend.reverse.foldl Emit.word e
  match l.item with
  | .zeros n => if n = 0 then (e, pend) else ({ flush (e.orphan pend) with bytes := List.replicate n 0 :: (flush e).bytes }, [])
  | .data .cq4 items =>
    let e := flush (e.orphan pend)
    match cq4Bytes env items with
    | .ok bs => ({ e with bytes := bs :: e.bytes }, [])
    | .error x => ({ e with bytes := List.replicate 136 0 :: e.bytes }.diag l.pos x, [])
  | .data k items => ((flush (e.orphan pend)).values look env l.pos k l.off items, [])
  | .inst m ops =>
    match hintWord env m ops with
    | some (.ok (w, form)) => (e, ⟨l.pos, l.off, l.body, w, some form, none, 0⟩ :: pend)
    | some (.error x) => (e.diag l.pos (if ops.any (namesChan look) then ("E006", "a channel symbol where none may stand") else x), ⟨l.pos, l.off, l.body, 0x3F * 2 ^ 26, some .sched, none, 0⟩ :: pend)
    | none =>
      match assemble env m ops with
      | .error x => ((flush e).diag l.pos x |>.word ⟨l.pos, l.off, l.body, 0, none, none, 0⟩, [])
      | .ok a =>
        let w := a.a.word
        let first := (pend.getLast?.map (·.pos)).getD l.pos
        let e := (groupErrors pend.reverse w).foldl (fun e x => e.diag first x) e
        let e := a.a.reads.foldl (fun e r => match r with
          | (.m _, true) => e.diag l.pos ("N403", "! on an m register has no effect")
          | _ => e) e
        let (e, w, pend) := pend.foldr (fun h (acc : Emit × Nat × List OutWord) =>
          let (e, w, done) := acc
          match h.hint with
          | some (.imm true _) => (e, w, { h with word := h.word + a.a.high } :: done)
          | some (.imm false (some (y, c))) =>
            let n := ofSigned 39 (c + (w / 2 % 2 ^ 15 : Nat))
            ({ e with relocs := (h.off, .imm39, y) :: e.relocs }, w - w / 2 % 2 ^ 15 * 2 + n % 2 ^ 15 * 2,
              { h with word := h.word + n / 2 ^ 15 } :: done)
          | _ => (e, w, h :: done)) (e, w, [])
        ((pend.reverse.foldl Emit.word e).word ⟨l.pos, l.off, l.body, w, none, some a, pend.length⟩, [])

/-- The items of a section laid out in order. -/
def Emit.section_ (look : String → Option Meaning) (sect : Nat) : Emit → List OutWord → List Laid → Emit
  | e, pend, [] => pend.reverse.foldl Emit.word (e.orphan pend)
  | e, pend, l :: ls =>
    let (e, pend) := e.item look sect pend l
    Emit.section_ look sect e pend ls

end Sys2Proof.Machine
end

