-- ==== Sys2Proof/Machine/AsmCheck.lean ====
section
/-!
DEFINITION. ngatur's records and checks: channels, patterns, regions and gangs (R136 to R139, R307, R308), and words (R309 to R312).
-/

namespace Sys2Proof.Machine

/-! ## Declarations as records (R136 to R139, R322 to R324) -/

/-- What the declarations have become, with their diagnostics in reverse order. -/
structure Records where
  chans   : List GofChannel
  pats    : List GofPattern
  regions : List GofRegion
  diags   : List Diag
  deriving DecidableEq, Repr

/-- The scene that declarations are read in: names' meanings, the pound, and the pass 1 that found them. -/
structure Scene where
  p     : Pass1
  look  : String → Option Meaning
  pound : Option (Nat × Nat)

/-- The environment of a declaration's expressions. -/
def Scene.env (s : Scene) : AsmEnv := ⟨s.look, 0, 0, .none⟩

/-- An operand that has not the form wanted: E006 where a channel's symbol stands in it (R305). -/
def Scene.refuse {α : Type} (s : Scene) (ts : List Tok) (x : AErr) : Except AErr α :=
  .error (if namesChan s.look ts then ("E006", "a channel symbol where none may stand") else x)

/-- A coordinate pair (R135, R307). -/
def Scene.pair (s : Scene) (ts : List Tok) : Except AErr (Nat × Nat) :=
  match pairToks ts with
  | none => s.refuse ts ("E001", "no coordinate pair")
  | some (a, b) => do
    let x ← s.env.number a
    let y ← s.env.number b
    if x < 0 || y < 0 then .error ("E108", "a negative coordinate")
    else if s.pound.any fun q => decide (q.1 ≤ x.toNat) || decide (q.2 ≤ y.toNat) then .error ("E108", "a coordinate outside the pound")
    else .ok (x.toNat, y.toNat)

/-- A region operand: root, or a declared region's record. -/
def Scene.region (s : Scene) (ts : List Tok) : Except AErr (Option Nat) :=
  match ts with
  | [.word w] =>
    if w == "root".toList then .ok none
    else match s.look (String.ofList w) with
      | some (.region k _) => .ok (some k)
      | _ => s.refuse ts ("E005", "no region " ++ String.ofList w)
  | _ => s.refuse ts ("E001", "no region")

/-- A channel operand's record. -/
def Scene.chan (s : Scene) (ts : List Tok) : Except AErr Nat :=
  match ts with
  | [.word w] =>
    match s.look (String.ofList w) with
    | some (.chan k _) => .ok k
    | none => .error ("E005", "undefined " ++ String.ofList w)
    | some _ => .error ("E006", "not a channel: " ++ String.ofList w)
  | _ => .error ("E001", "no channel")

/-- A number within a range, else E003. -/
def Scene.within (s : Scene) (min max : Nat) (ts : List Tok) : Except AErr Nat := do
  let n ← s.env.number ts
  if n < min || max < n then .error ("E003", "a number out of its range") else .ok n.toNat

/-- The kinds of channel: code, ladle operation (R136, R225). -/
def chanKinds : List (String × Nat × Nat) :=
  [("fifo", 0, 0), ("ladle.pm", 1, 0), ("ladle.iadd", 1, 1), ("ladle.fadd32", 1, 2), ("ladle.fadd64", 1, 3), ("relay", 2, 0)]

/-- The symbol number of a named declaration. -/
def Scene.symOf (s : Scene) (d : Decl) (pattern : Bool) : Nat :=
  (s.p.names.reverse.findIdx? fun n => n.name == d.name && n.what.isPattern == pattern).getD 0

/-- A channel's record (R136). -/
def Scene.channel (s : Scene) (d : Decl) : Except AErr GofChannel :=
  match d.ops with
  | [.word k] :: n :: home :: more =>
    match chanKinds.find? fun c => c.1.toList == lower k with
    | none => s.refuse [.word k] ("E001", "no kind of channel")
    | some (_, kind, op) => do
      let (x, y) ← s.pair home
      let region ← match more with
        | [] => .ok none
        | [r] => s.region r
        | _ => .error ("E001", "too many operands")
      if kind = 2 then
        match s.chan n with
        | .ok t => .ok ⟨2, 0, 0, some t, x, y, region, d.name, s.symOf d false⟩
        | .error _ => .error ("E105", "a relay target that is no channel")
      else
        let v ← s.within 1 256 n
        .ok ⟨BitVec.ofNat 2 kind, BitVec.ofNat 2 op, BitVec.ofNat 8 (v - 1), none, x, y, region, d.name, s.symOf d false⟩
  | _ => .error ("E001", ".channel NAME, KIND, N, HOME, REGION")

/-- The flags of a pattern: CTRL and FAIR (R137). -/
def patFlags : List Tok → Option (Bool × Bool)
  | [.ch '-'] => some (false, false)
  | [.word w] => if lower w == "ctrl".toList then some (true, false) else if lower w == "fair".toList then some (false, true) else none
  | [.word a, .ch '+', .word b] =>
    if lower a == "ctrl".toList && lower b == "fair".toList then some (true, true) else none
  | _ => none

/-- A pattern's record (R137, R307), given the channels' records and the bodies' regions. -/
def Scene.pattern (s : Scene) (chans : List GofChannel) (bodyRegion : List (Option Nat)) (d : Decl) : Except AErr GofPattern :=
  match d.ops with
  | [rank, flags, .ch '(' :: rest, [.word b]] => do
    let r ← s.within 0 7 rank
    let (ctrl, fair) ← match patFlags flags with
      | some f => .ok f
      | none => s.refuse flags ("E001", "no flags of a pattern")
    if rest.getLast? != some (.ch ')') then .error ("E001", "no list of channels")
    else
      let ks ← (splitCommas rest.dropLast).mapM s.chan
      let cs := ks.filterMap fun k => chans[k]?
      if ks.isEmpty || 4 < ks.length then .error ("E102", "a pattern of more than four channels")
      else if !(ks.eraseDups.length == ks.length) then .error ("E102", "a pattern that names one channel twice")
      else if cs.any fun c => c.kind = 2 then .error ("E102", "a pattern that names a relay")
      else
        let c0 := cs.headD ⟨0, 0, 0, none, 0, 0, none, "", 0⟩
        if cs.any fun c => c.x ≠ c0.x || c.y ≠ c0.y then
          .error ("E101", "pattern " ++ d.name ++ " joins channels of different homes")
        else match (s.p.names.reverse.zipIdx.find? fun n => n.1.name == String.ofList b && !n.1.what.isPattern) with
          | some (⟨_, _, .body k _ _⟩, y) =>
            .ok ⟨BitVec.ofNat 3 r, ctrl, fair, ks, y, (bodyRegion[k]?).getD none, c0.x, c0.y, d.name⟩
          | _ => s.refuse [.word b] ("E005", "no body " ++ String.ofList b)
  | _ => .error ("E001", ".pattern NAME, RANK, FLAGS, (C1, ...), BODY")

/-- One field of a region (R138, R324); of a field given twice the last stands (entry 69). -/
def Scene.regionField (s : Scene) (g : GofRegion) (ts : List Tok) : Except AErr GofRegion :=
  match optTok ts with
  | some (name, v) =>
    let word (max : Nat) : Except AErr Word := do
      let x ← s.env.val v
      match x.base with
      | some _ => .error ("E003", "a number out of its range")
      | none => if max < x.n.toNat then .error ("E003", "a number out of its range") else .ok x.n
    match name with
    | "watchdog" => (s.within 1 (2 ^ 32 - 1) v).map fun n => { g with watchdog := some (BitVec.ofNat 32 n) }
    | "energy" => (word (2 ^ 64)).map fun n => { g with energy := some n }
    | "cycles" => (word (2 ^ 64)).map fun n => { g with cycles := some n }
    | "spans" => (word (2 ^ 64)).map fun n => { g with spans := some n }
    | "priority" => (s.within 0 7 v).map fun n => { g with priority := some (BitVec.ofNat 3 n) }
    | "domain" => (s.within 0 (2 ^ 32 - 1) v).map fun n => { g with domain := some (BitVec.ofNat 32 n) }
    | "paired" => (s.within 0 1 v).map fun n => { g with paired := some (n == 1) }
    | "error" => (s.chan v).map fun k => { g with error := some k }
    | "budget" => (s.chan v).map fun k => { g with budget := some k }
    | "radius" => (s.within 0 15 v).map fun n => { g with radius := some (BitVec.ofNat 4 n) }
    | _ => .error ("E001", "no field of a region: " ++ name)
  | none => .error ("E001", "no field of a region")

/-- A region's record (R138): its parent is root or a region declared before it. -/
def Scene.regionRec (s : Scene) (index : Nat) (d : Decl) : Except AErr GofRegion :=
  match d.ops with
  | parent :: fields => do
    let p ← s.region parent
    if p.any fun k => decide (index ≤ k) then .error ("E005", "a parent that is not declared before")
    else fields.foldlM s.regionField ⟨d.name, p, none, none, none, none, none, none, none, none, none, none⟩
  | [] => .error ("E001", ".region NAME, PARENT, field=value, ...")

/-- Declarations turned into records in order; one with an error leaves a stand-in. -/
def recordsOf {α : Type} (f : Nat → Decl → Except AErr α) (blank : α) : Nat → List Decl → List α × List Diag
  | _, [] => ([], [])
  | i, d :: ds =>
    let (rs, es) := recordsOf f blank (i + 1) ds
    match f i d with
    | .ok r => (r :: rs, es)
    | .error x => (blank :: rs, ⟨d.pos, x.1, x.2⟩ :: es)

/-- A gang's checks (R139, R307). -/
def Scene.gangErrors (s : Scene) (d : Decl) : List Diag :=
  match d.ops with
  | [c, m] =>
    match s.pair c with
    | .error x => [⟨d.pos, x.1, x.2⟩]
    | .ok (x, _) =>
      match s.env.number m with
      | .error e => [⟨d.pos, e.1, e.2⟩]
      | .ok n =>
        if x % 8 ≠ 0 then [⟨d.pos, "E107", "x is not a multiple of 8"⟩]
        else if n = 0 then [⟨d.pos, "E107", "a zero mask"⟩]
        else if n < 0 || 255 < n then [⟨d.pos, "E003", "a mask of more than 8 bits"⟩] else []
  | _ => [⟨d.pos, "E001", ".gang NAME, (x, y), MASK"⟩]

/-- Whether following relay targets from a record comes back to it. -/
def relayLoop (cs : List GofChannel) (start : Nat) : Nat → Nat → Bool
  | 0, _ => false
  | n + 1, k =>
    match (cs[k]?).bind (·.target) with
    | some t => t == start || relayLoop cs start n t
    | none => false

/-- Placement checks over all declarations (R307). -/
def Scene.placeErrors (s : Scene) (sysbase : Nat) (cs : List GofChannel) (ps : List GofPattern) : List Diag :=
  let cd := s.p.chans.reverse
  let pd := s.p.pats.reverse
  let posOf (ds : List Decl) (i : Nat) : Pos := ((ds[i]?).map (·.pos)).getD ⟨"", 0, none, 0⟩
  let homes := (cs.map fun c => (c.x, c.y)).eraseDups
  (cs.zipIdx.flatMap fun c => if c.1.target.isSome && relayLoop cs c.2 (cs.length + 1) c.2 then
    [(⟨posOf cd c.2, "E105", "a chain of relays that leads back to its start"⟩ : Diag)] else []) ++
  homes.flatMap fun h =>
    let mine := cs.zipIdx.filter fun c => c.1.x == h.1 && c.1.y == h.2
    let pats := ps.zipIdx.filter fun c => c.1.x == h.1 && c.1.y == h.2
    let last := (mine.getLast?.map (·.2)).getD 0
    let ring := (mine.filter fun c => c.1.kind == 0).map fun c => 40 * (c.1.nm1.toNat + 1)
    (if 64 < mine.length then [(⟨posOf cd last, "E103", "more than 64 channels on one home"⟩ : Diag)] else []) ++
    (if 32 < pats.length then [⟨posOf pd ((pats.getLast?.map (·.2)).getD 0), "E103", "more than 32 patterns on one home"⟩] else []) ++
    (if 0x5400 - sysbase < ring.sum then [⟨posOf cd last, "E104", "FIFO rings that do not fit above SYSBASE"⟩] else [])

/-- Starvation that R20 and R42 allow, over each pair of patterns of one home that share a channel (R308). Slots follow the order of
declaration. -/
def Scene.starving (s : Scene) (ps : List GofPattern) : List Diag :=
  let pd := s.p.pats.reverse
  let posOf (i : Nat) : Pos := ((pd[i]?).map (·.pos)).getD ⟨"", 0, none, 0⟩
  ps.zipIdx.flatMap fun a => ps.zipIdx.flatMap fun b =>
    if a.2 < b.2 && a.1.x == b.1.x && a.1.y == b.1.y && a.1.chans.any fun c => b.1.chans.contains c then
      if a.1.rank ≠ b.1.rank then
        let low := if a.1.rank.toNat < b.1.rank.toNat then a else b
        [(⟨posOf low.2, "N201", low.1.name ++ " waits for as long as the other stays enabled"⟩ : Diag)]
      else if !a.1.fair && !b.1.fair then [⟨posOf b.2, "W202", b.1.name ++ " never fires while the lower slot stays enabled"⟩]
      else if a.1.fair && !b.1.fair then [⟨posOf b.2, "W203", b.1.name ++ " never fires while the FAIR one stays enabled"⟩]
      else []
    else []

/-! ## Checks over words (R309 to R312) -/

/-- REP captures (R241, R309): the words after a REP in the same section. -/
def repErrors : List OutWord → List Diag
  | [] => []
  | w :: ws =>
    let more := repErrors ws
    if majorOf w.word = 0x28 && (w.word / 16 % 128 = 4 || w.word / 16 % 128 = 5) && w.inst.isSome then
      let len := w.word / 2 ^ 21 % 8 + 1
      let cap := ws.take len
      let ok (x : OutWord) : Bool :=
        x.hint.isSome || (0x30 ≤ majorOf x.word && majorOf x.word ≤ 0x39) || (majorOf x.word = 0x28 && x.word / 16 % 128 = 1)
      if cap.length < len || (cap.zipIdx.any fun x => x.1.off ≠ w.off + 4 * (x.2 + 1)) || cap.any (fun x => !ok x) then
        ⟨w.pos, "E304", "a capture that holds a word it may not"⟩ :: more
      else if (cap.getLast?.map (·.hint.isSome)).getD false then ⟨w.pos, "E304", "a capture that ends inside a group"⟩ :: more
      else more
    else more

/-- Whether a word ends a straight run: a branch or END. -/
def endsRun (w : Nat) : Bool := majorOf w = 0x20 || majorOf w = 0x21 || majorOf w = 0x22 || (majorOf w = 0x23 && w / 2 ^ 18 % 8 = 0)

/-- The offset a branch or JAL leads to. -/
def leadsTo (w : OutWord) : Option Nat :=
  match w.inst with
  | none => none
  | some a =>
    if majorOf w.word = 0x20 then
      if a.a.high = 0 then some ((w.off : Int) + 4 * toSigned 13 (w.word % 2 ^ 13)).toNat
      else some ((w.off : Int) + 4 * toSigned 37 (w.word % 2 ^ 13 + a.a.high * 2 ^ 13)).toNat
    else if majorOf w.word = 0x21 then
      if a.a.high = 0 then some ((w.off : Int) + 4 * toSigned 26 (w.word % 2 ^ 26)).toNat
      else some ((w.off : Int) + 4 * toSigned 50 (w.word % 2 ^ 26 + a.a.high * 2 ^ 26)).toNat
    else none

/-- A view register as the check knows it (R311): null or live, the rights it surely has and surely lacks, its interval. -/
structure ViewFact where
  live  : Option Bool
  has   : Nat
  lacks : Nat
  span  : Option (Nat × Nat)
  deriving DecidableEq, Repr

/-- What a straight run has made known: registers that no plain read has followed since their producer, with its line; those among
them that no read at all has followed; constants, views and stream kinds. -/
structure Run where
  empty  : List (AReg × Nat)
  unread : List AReg
  consts : List (Nat × Word)
  views  : List (Nat × ViewFact)
  skips  : List (Nat × Bool)
  deriving DecidableEq, Repr

/-- A run's start: nothing is known. -/
def Run.fresh : Run := ⟨[], [], [], [], []⟩

/-- A constant register's value; x0 is 0. -/
def Run.const (r : Run) (i : Nat) : Option Word := if i = 0 then some 0 else (r.consts.find? fun c => c.1 == i).map (·.2)

/-- The view known in a register. -/
def Run.view (r : Run) (i : Nat) : ViewFact := ((r.views.find? fun v => v.1 == i).map (·.2)).getD ⟨none, 0, 0, none⟩

/-- A view register known anew. -/
def Run.setView (r : Run) (i : Nat) (v : ViewFact) : Run := { r with views := (i, v) :: r.views.filter fun x => x.1 != i }

/-- A null view. -/
def nullView : ViewFact := ⟨some false, 0, 7, none⟩

/-- Rights of a mask without those of another. -/
def without (a b : Nat) : Nat := a - Nat.land a b

/-- The register's name in a diagnostic. -/
def AReg.text : AReg → String
  | .x i => "x" ++ toString i
  | .v i => "v" ++ toString i
  | .w i => "w" ++ toString i
  | .m i => "m" ++ toString i
  | .q i => "q" ++ toString i
  | .a i => "a" ++ toString i

/-- Full/empty checks of one word (R310). -/
def Run.fullEmpty (r : Run) (check : Bool) (w : OutWord) (a : Assembled) : Run × List Diag :=
  let r0 := r
  let d1 := a.a.reads.flatMap fun x =>
    if x.2 && check then
      match r0.empty.find? fun e => e.1 == x.1 with
      | some e => [(⟨w.pos, "W401", x.1.text ++ " read with ! after its producer at line " ++ toString e.2⟩ : Diag)]
      | none => []
    else []
  let plain := (a.a.reads.filter fun x => !x.2).map (·.1)
  let read := a.a.reads.map (·.1)
  let r := { r with empty := r.empty.filter (fun e => !plain.contains e.1), unread := r.unread.filter fun x => !read.contains x }
  let outs := a.a.writes.filter (· != .x 0)
  let d2 := if a.producer && check then outs.flatMap fun x =>
      if r.unread.contains x then [(⟨w.pos, "W402", x.text ++ " is produced again before it is read"⟩ : Diag)] else []
    else []
  let left := r.empty.filter fun e => !outs.contains e.1
  let rest := r.unread.filter fun x => !outs.contains x
  ({ r with
    empty := if a.producer then (outs.map fun x => (x, w.pos.line)) ++ left else left
    unread := if a.producer then outs ++ rest else rest }, d1 ++ d2)

/-- A two-operand function of major 0x01 on words of 64 bits, by its code (R164, R178). -/
def twoOf (fn : Nat) (a b : Word) : Option Word :=
  match fn with
  | 0 => some (a + b)
  | 1 => some (a - b)
  | 2 => some (a &&& b)
  | 3 => some (a ||| b)
  | 4 => some (a ^^^ b)
  | 5 => some (a &&& ~~~b)
  | 6 => some (a ||| ~~~b)
  | 8 => some (a <<< (b.toNat % 64))
  | 9 => some (a >>> (b.toNat % 64))
  | 10 => some (a.sshiftRight (b.toNat % 64))
  | 11 => some (a.rotateLeft (b.toNat % 64))
  | 16 => some (BitVec.ofNat 64 (num (a.slt b)))
  | 17 => some (BitVec.ofNat 64 (num (a.ult b)))
  | 18 => some (BitVec.ofNat 64 (num (a == b)))
  | 19 => some (BitVec.ofNat 64 (num (a != b)))
  | 20 => some (if a.slt b then a else b)
  | 21 => some (if a.slt b then b else a)
  | 22 => some (if a.ult b then a else b)
  | 23 => some (if a.ult b then b else a)
  | _ => none

/-- The constants after one word: the immediate and shift words, LIH, and the two-operand arithmetic of 64 bits follow them (R178 to
R180, R197). -/
def Run.constants (r : Run) (imm : Option Nat) (w : OutWord) (a : Assembled) : Run :=
  let f (lo n : Nat) : Nat := w.word / 2 ^ lo % 2 ^ n
  let d := f 21 5
  let ra := r.const (f 16 5)
  let rb := r.const (f 11 5)
  let immS : Word := match imm with
    | some p => sextN 39 (p * 2 ^ 15 + f 1 15)
    | none => sextN 15 (f 1 15)
  let immZ : Word := BitVec.ofNat 64 (imm.getD 0 * 2 ^ 15 + f 1 15)
  let v : Option Word :=
    match majorOf w.word with
    | 0x02 => ra.map (· + immS)
    | 0x03 => ra.map (· &&& immS)
    | 0x04 => ra.map (· ||| immZ)
    | 0x05 => ra.map (· ^^^ immZ)
    | 0x07 => ra.map fun x => BitVec.ofNat 64 (num (x.slt immS))
    | 0x08 => ra.map fun x => BitVec.ofNat 64 (num (x.ult immS))
    | 0x09 => some (match imm with
      | some p => BitVec.ofNat 64 ((p * 2 ^ 21 + f 0 21) * 2 ^ 19)
      | none => BitVec.ofNat 64 (f 0 21 * 2 ^ 43))
    | 0x06 => ra.bind fun (x : Word) => match f 7 2 with
      | 0 => some (x <<< f 1 6 : Word)
      | 1 => some (x >>> f 1 6 : Word)
      | 2 => some (x.sshiftRight (f 1 6))
      | _ => none
    | 0x01 => if f 9 2 = 0 && f 0 2 = 0 then ra.bind fun x => rb.bind fun y => twoOf (f 4 5) x y else none
    | _ => none
  let gone := a.a.writes.filterMap fun x => match x with
    | .x i => some i
    | _ => none
  let left := r.consts.filter fun c => !gone.contains c.1
  { r with consts := match v with
    | some v => if d = 0 then left else (d, v) :: left
    | none => left }

/-- The view register and the right that an access through a view needs (R77). -/
def viewAccess (w : Nat) : Option (Nat × Nat) :=
  match majorOf w with
  | 0x14 => some (w / 2 ^ 11 % 8, 2)
  | 0x15 => some (w / 2 ^ 11 % 8, 4)
  | 0x18 | 0x19 | 0x1A => if w / 2 ^ 7 % 2 = 1 then some (w / 2 ^ 10 % 8, 1) else none
  | _ => none

/-- View checks of one word (R75, R311). -/
def Run.viewChecks (r : Run) (w : OutWord) : Run × List Diag :=
  let f (lo n : Nat) : Nat := w.word / 2 ^ lo % 2 ^ n
  let say (code text : String) : List Diag := [⟨w.pos, code, text⟩]
  match viewAccess w.word with
  | some (i, need) =>
    let v := r.view i
    if v.live = some false then (r, say "W502" ("w" ++ toString i ++ " holds a null view"))
    else if Nat.land v.lacks need ≠ 0 then (r, say "W501" ("w" ++ toString i ++ " lacks the right"))
    else (r, [])
  | none =>
    if majorOf w.word = 0x24 && f 4 5 = 1 then
      let i := f 11 3
      (r.setView i nullView, if (r.view i).live = some false then say "W502" ("w" ++ toString i ++ " holds a null view") else [])
    else if majorOf w.word ≠ 0x1C then (r, [])
    else
      let d := f 21 3
      let s := f 11 3
      let clash := if (r.view d).live = some true then say "W504" ("w" ++ toString d ++ " holds a live view") else []
      let src := r.view s
      match f 4 7 with
      | 0 =>
        let n := (r.const (f 16 5)).map fun x => (0, 1024 * ((x.toNat + 1023) / 1024))
        (r.setView d ⟨some true, 7, 0, n⟩, clash)
      | 1 =>
        let x := (r.const (f 16 5)).map (·.toNat)
        let lo := x.bind fun x => src.span.map fun i => (i.1, x)
        let hi := x.bind fun x => src.span.map fun i => (x, i.2)
        ((r.setView s { src with live := some true, span := lo }).setView d { src with live := some true, span := hi }, clash)
      | 2 =>
        (r.setView d { src with live := some true },
          clash ++ if src.live = some true && Nat.land src.has 4 ≠ 0 then say "W503" ("w" ++ toString s ++ " still carries W") else [])
      | 3 =>
        let m := f 16 3
        let v := r.view d
        (r.setView d { v with has := without v.has m, lacks := Nat.lor v.lacks m }, [])
      | 4 =>
        let v := r.view d
        match r.const (f 16 5), r.const (f 11 5) with
        | some a, some b =>
          let (a, b) := (a.toNat, b.toNat)
          let bad := decide (b < a) || (v.span.any fun i => decide (a < i.1) || decide (i.2 < b))
          let next := if bad then v else if a = b then nullView else { v with span := some (a, b) }
          (r.setView d next, if v.live = some false then say "W502" ("w" ++ toString d ++ " holds a null view")
            else if bad then say "W505" "bounds outside the view" else [])
        | _, _ => (r.setView d { v with span := none },
            if v.live = some false then say "W502" ("w" ++ toString d ++ " holds a null view") else [])
      | 5 => (r.setView d nullView, [])
      | 7 => ((r.setView d src).setView s nullView, clash)
      | _ => (r, [])

/-- The address of a core's own local store as its contexts see it (R43, R45). -/
def ownStore : Word := 0xFFFFFFFF9FFF8000#64

/-- Checks of a descriptor that lies in the assembled .ls image (R267, R312, R325): of its bytes that the image holds. -/
def Run.gangChecks (r : Run) (ls : List Byte) (labels : List Nat) (w : OutWord) : List Diag :=
  let fn := w.word / 4 % 64
  if majorOf w.word ≠ 0x38 || 2 ≤ fn then []
  else match r.const (w.word / 2 ^ 18 % 32) with
    | none => []
    | some v =>
      let off := (v - ownStore).toNat
      if !labels.contains off then []
      else
        let byte (i : Nat) : Option Nat := (ls[off + i]?).map (·.toNat)
        let whole := (List.range 23).all fun i => (byte i).isSome
        let k := (byte 16).getD 1 + 256 * (byte 17).getD 0
        let koff := (byte 18).getD 0 + 256 * (byte 19).getD 0
        let af := (byte 20).getD 0
        let bf := (byte 21).getD 0
        let ctrl := (byte 22).getD 0
        let skipBad := ctrl / 2 % 2 = 1 && (r.skips.any fun q => q.1 == ctrl / 4 % 4 && !q.2)
        if k = 0 || 4096 < k || 2 < af || 2 < bf || ((af = 2 || bf = 2) && 256 < koff % 256 + k) || skipBad then
          [⟨w.pos, "E601", "a descriptor that is illegal"⟩]
        else if !whole then []
        else if ctrl % 2 = 1 then [⟨w.pos, "N603", "the bound that the tile holds is unknown"⟩]
        else if 544387186559 < k * (if af = 0 then 128 else 32768) * (if bf = 0 then 128 else if bf = 1 then 32768 else 32385) then
          [⟨w.pos, "W602", "sums that may leave the range"⟩]
        else []

/-- The checks of R310 to R312 over the words of a section, run by run. -/
def runChecks (check : Bool) (targets labels : List Nat) (ls : List Byte) :
    Run → Option Nat → Option (Option Nat) → List OutWord → List Diag
  | _, _, _, [] => []
  | r, imm, body, w :: ws =>
    let r := if targets.contains w.off || body != some w.body then Run.fresh else r
    match w.hint, w.inst with
    | some (.imm _ _), _ => runChecks check targets labels ls r (some (w.word % 2 ^ 24)) (some w.body) ws
    | some _, _ => runChecks check targets labels ls r imm (some w.body) ws
    | none, none => runChecks check targets labels ls r none (some w.body) ws
    | none, some a =>
      if w.body.isNone then runChecks check targets labels ls Run.fresh none (some w.body) ws
      else
        let (r1, d1) := r.fullEmpty check w a
        let d3 := r1.gangChecks ls labels w
        let (r2, d2) := r1.viewChecks w
        let r3 := r2.constants imm w a
        let r4 := if majorOf w.word = 0x28 && w.word / 16 % 128 = 0 then
            { r3 with skips := (w.word / 2 ^ 21 % 4, w.word % 4 == 1) :: r3.skips.filter fun q => q.1 != w.word / 2 ^ 21 % 4 }
          else r3
        d1 ++ d2 ++ d3 ++ runChecks check targets labels ls (if endsRun w.word then Run.fresh else r4) none (some w.body) ws

end Sys2Proof.Machine
end

