-- ==== Sys2Proof/Machine/Ngatur.lean ====
section
/-!
DEFINITION. ngatur, the assembler: GOF objects, and the run as a whole (R299 to R304, R322 to R324).
-/

namespace Sys2Proof.Machine

/-! ## The bytes of an object (R301 to R304, R322 to R324) -/

/-- The string table: zero-terminated names, the empty one first. -/
def stringBytes (names : List String) : List Byte :=
  names.flatMap fun n => (n.toList.map fun c => BitVec.ofNat 8 c.toNat) ++ [0]

/-- Where a name stands in the string table. -/
def stringAt : List String → String → Nat → Nat
  | [], _, _ => 0
  | n :: ns, x, k => if n == x then k else stringAt ns x (k + n.length + 1)

/-- A section's name and kind code (R302). -/
def sectName : SectionKind → String × Nat
  | .text => (".text", 0)
  | .data => (".data", 1)
  | .ls => (".ls", 2)
  | .cstore => (".cstore", 3)
  | .wslice _ _ => (".wslice", 4)

/-- The number that stands for no record. -/
def noRecord : Nat := 0xFFFFFFFF

/-- The slot that a channel takes on its home (R288): its place among the channels declared there. -/
def chanSlot (cs : List GofChannel) (i : Nat) : Nat :=
  match cs[i]? with
  | some c => ((cs.take i).filter fun d => d.x == c.x && d.y == c.y).length
  | none => 0

/-- The slot that a pattern takes on its home (R288). -/
def patSlot (ps : List GofPattern) (i : Nat) : Nat :=
  match ps[i]? with
  | some c => ((ps.take i).filter fun d => d.x == c.x && d.y == c.y).length
  | none => 0

/-- A .chan record (R322). -/
def chanRecord (str : String → Nat) (c : GofChannel) : List Byte :=
  toBytes 8 (c.kind.toNat * 2 ^ 62 + c.op.toNat * 2 ^ 60 + c.nm1.toNat) ++ toBytes 2 c.x ++ toBytes 2 c.y ++
    toBytes 4 (c.target.getD noRecord) ++ toBytes 4 (str c.name) ++ toBytes 4 c.sym ++ toBytes 4 (c.region.getD noRecord) ++ toBytes 4 0

/-- A .pat record (R226, R323). -/
def patRecord (str : String → Nat) (cs : List GofChannel) (ps : List GofPattern) (i : Nat) (g : GofPattern) : List Byte :=
  let word := (g.chans.length - 1) * 2 ^ 38 + (g.chans.mapIdx fun k c => chanSlot cs c * 2 ^ (14 + 6 * k)).sum + g.rank.toNat * 2 ^ 11 +
    num g.fair * 2 ^ 10 + num g.ctrl * 2 ^ 9 + patSlot ps i
  toBytes 8 word ++ toBytes 4 g.body ++ toBytes 4 (g.region.getD noRecord) ++ toBytes 2 g.x ++ toBytes 2 g.y ++
    toBytes 4 (str g.name) ++ toBytes 8 0

/-- The GIVEN bits of a region (R324). -/
def regionGiven (g : GofRegion) : Nat :=
  num g.watchdog.isSome + 2 * num g.energy.isSome + 4 * num g.cycles.isSome + 8 * num g.spans.isSome + 16 * num g.priority.isSome +
    32 * num g.domain.isSome + 64 * num g.paired.isSome + 128 * num g.error.isSome + 256 * num g.budget.isSome + 512 * num g.radius.isSome

/-- An .rcb record (R324). -/
def rcbRecord (str : String → Nat) (g : GofRegion) : List Byte :=
  toBytes 4 (str g.name) ++ toBytes 4 (g.parent.getD noRecord) ++ toBytes 2 (regionGiven g) ++ toBytes 6 0 ++
    toBytes 8 (g.watchdog.getD 0).toNat ++ toBytes 8 (g.energy.getD 0).toNat ++ toBytes 8 (g.cycles.getD 0).toNat ++
    toBytes 8 (g.spans.getD 0).toNat ++ [(g.priority.getD 0).setWidth 8, BitVec.ofNat 8 (num (g.paired.getD false)),
      (g.radius.getD 0).setWidth 8, 0] ++ toBytes 4 (g.domain.getD 0).toNat ++ toBytes 4 (g.error.getD noRecord) ++
    toBytes 4 (g.budget.getD noRecord)

/-- A symbol's kind code (R303). -/
def symKindCode : SymKind → Nat
  | .label => 0
  | .equ => 1
  | .channel => 2
  | .pattern => 3
  | .body => 4
  | .region => 5
  | .gang => 6

/-- A symbol entry (R303); a body's VALUE is its index, `bodies` counting those before it. -/
def symEntry (str : String → Nat) (bodies : Nat) (y : GofSymbol) : List Byte :=
  toBytes 4 (str y.name) ++ toBytes 1 (symKindCode y.kind) ++ toBytes 1 (num y.isGlobal) ++ toBytes 2 (y.section_.getD 0xFFFF) ++
    toBytes 8 (if y.kind = .body then bodies else y.value.toNat) ++ toBytes 8 y.size

/-- The symbol entries of an object in order. -/
def symEntries (str : String → Nat) : Nat → List GofSymbol → List Byte
  | _, [] => []
  | n, y :: ys => symEntry str n y ++ symEntries str (if y.kind = .body then n + 1 else n) ys

/-- A relocation's type code (R304). -/
def relocCode : RelocType → Nat
  | .abs64 => 0
  | .chan64 => 1
  | .imm39 => 2
  | .rcb64 => 3

/-- A relocation entry (R304). -/
def relocEntry (r : GofReloc) : List Byte :=
  toBytes 8 r.offset ++ toBytes 2 r.section_ ++ toBytes 1 (relocCode r.type) ++ toBytes 1 0 ++ toBytes 4 r.symbol

/-- A section as the file holds it: name, kind, format, alignment, bytes, and the core of a .wslice. -/
structure FileSect where
  name  : String
  kind  : Nat
  fmt   : Nat
  align : Nat
  bytes : List Byte
  wx    : Nat
  wy    : Nat
  deriving DecidableEq, Repr

/-- The sections of an object in the file's order: those that hold bytes, then the records (R302). -/
def objectSects (o : GofObject) (str : String → Nat) : List FileSect :=
  (o.sections.map fun x =>
    let w : Nat × Nat := match x.kind with
      | .wslice a b => (a, b)
      | _ => (0, 0)
    ⟨(sectName x.kind).1, (sectName x.kind).2, x.fmt.toNat, x.align, x.bytes, w.1, w.2⟩) ++
  [⟨".pat", 5, 0, 3, (o.patterns.zipIdx.flatMap fun g => patRecord str o.channels o.patterns g.2 g.1), 0, 0⟩,
   ⟨".chan", 6, 0, 3, o.channels.flatMap (chanRecord str), 0, 0⟩, ⟨".rcb", 7, 0, 3, o.regions.flatMap (rcbRecord str), 0, 0⟩]

/-- The section entries (R302), contents lying one after another from an offset. -/
def sectEntries (str : String → Nat) : List FileSect → Nat → List Byte
  | [], _ => []
  | x :: xs, off =>
    toBytes 4 (str x.name) ++ toBytes 1 x.kind ++ toBytes 1 x.fmt ++ toBytes 2 x.align ++ toBytes 8 x.bytes.length ++ toBytes 8 off ++
      toBytes 2 x.wx ++ toBytes 2 x.wy ++ toBytes 4 0 ++ sectEntries str xs (off + x.bytes.length)

/-- The names an object's string table holds. -/
def objectStrings (o : GofObject) : List String :=
  ("" :: ([".text", ".data", ".ls", ".cstore", ".wslice", ".pat", ".chan", ".rcb"] ++ o.symbols.map (·.name))).eraseDups

/-- An object as a file (R301): header, section table, symbol table, relocation table, string table, contents. -/
def objectBytes (o : GofObject) : List Byte :=
  let names := objectStrings o
  let str (n : String) : Nat := stringAt names n 0
  let sects := objectSects o str
  let table := stringBytes names
  let symOff := 64 + 32 * sects.length
  let relOff := symOff + 24 * o.symbols.length
  let strOff := relOff + 16 * o.relocs.length
  toBytes 4 0x01464F47 ++ toBytes 2 1 ++ toBytes 2 0 ++ toBytes 4 o.sysbase ++ toBytes 4 sects.length ++ toBytes 8 64 ++
    toBytes 4 o.symbols.length ++ toBytes 4 o.relocs.length ++ toBytes 8 symOff ++ toBytes 8 relOff ++ toBytes 8 strOff ++
    toBytes 8 table.length ++ sectEntries str sects (strOff + table.length) ++ symEntries str 0 o.symbols ++
    o.relocs.flatMap relocEntry ++ table ++ sects.flatMap (·.bytes)

/-! ## The whole run (R299, R300) -/

/-- A symbol of an object from a defined name (R303). Here a body is given by its offset, which its place in memory needs; the file
holds its index (`symEntry`). -/
def symbolOf (env : AsmEnv) (bodies : List BodyDecl) (globals : List (String × Bool × Pos)) (n : Named) : GofSymbol :=
  let glob := match globals.find? fun g => g.1 == n.name with
    | some g => g.2.1 && !n.what.isPattern
    | none => false
  match n.what with
  | .label s o => ⟨n.name, .label, glob, some s, BitVec.ofNat 64 o, 0⟩
  | .equ e => ⟨n.name, .equ, glob, none, (match evalExpr env.look equDepth e with
    | .ok v => v.n
    | .error _ => 0), 0⟩
  | .chan k => ⟨n.name, .channel, glob, none, BitVec.ofNat 64 k, 0⟩
  | .pattern k => ⟨n.name, .pattern, glob, none, BitVec.ofNat 64 k, 0⟩
  | .body k s o => ⟨n.name, .body, glob, some s, BitVec.ofNat 64 o, ((bodies[k]?).map (·.size)).getD 0⟩
  | .region k => ⟨n.name, .region, glob, none, BitVec.ofNat 64 k, 0⟩
  | .gang k => ⟨n.name, .gang, glob, none, BitVec.ofNat 64 k, 0⟩

/-- Diagnostics of the .equ definitions. -/
def equErrors (env : AsmEnv) (names : List Named) : List Diag :=
  names.filterMap fun n => match n.what with
    | .equ e =>
      match evalExpr env.look equDepth e with
      | .ok ⟨_, none⟩ => none
      | .ok _ => some ⟨n.pos, "E005", "an address is not known before the launch"⟩
      | .error x => some ⟨n.pos, x.text.1, x.text.2⟩
    | _ => none

/-- The regions that bodies name, with their diagnostics. -/
def Scene.bodyRegions (s : Scene) : List (Option Nat) × List Diag :=
  recordsOf (fun _ (d : Decl) =>
    match d.ops with
    | [] => .ok none
    | [r] => s.region r
    | _ => .error ("E001", "too many operands")) none 0 (s.p.bodies.reverse.map (·.decl))

/-- What a run has made: the object, and every diagnostic. -/
structure AsmOut where
  obj   : GofObject
  diags : List Diag
  deriving DecidableEq, Repr

/-- Source to object (R299 to R312). -/
def assembleJob (job : AsmJob) : AsmOut :=
  let p := pass1 job
  let names := p.names.reverse
  let gangs := p.gangs.reverse
  let look := lookIn p.sects gangs names
  let sysbase := job.sysbase.getD 0x4000
  let env : AsmEnv := ⟨look, 0, 0, .none⟩
  let scene : Scene := ⟨p, look, job.pound⟩
  let (regions, e1) := recordsOf scene.regionRec (⟨"", none, none, none, none, none, none, none, none, none, none, none⟩ : GofRegion) 0
    p.regions.reverse
  let (chans, e2) := recordsOf (fun _ => scene.channel) (⟨0, 0, 0, none, 0, 0, none, "", 0⟩ : GofChannel) 0 p.chans.reverse
  let (bodyRegions, e3) := scene.bodyRegions
  let (pats, e4) := recordsOf (fun _ => scene.pattern chans bodyRegions) (⟨0, false, false, [], 0, none, 0, 0, ""⟩ : GofPattern) 0
    p.pats.reverse
  let items := p.items.reverse
  let emits := p.sects.zipIdx.map fun s =>
    Emit.section_ look s.2 ⟨[], [], [], []⟩ [] (items.filter fun l => l.sect == s.2)
  let images := emits.map fun e => e.bytes.reverse.flatten
  let isLs (k : Nat) : Bool := ((p.sects[k]?).map fun x => x.id.kind == .ls).getD false
  let lsIndex := (List.range p.sects.length).find? isLs
  let ls := (lsIndex.bind fun k => images[k]?).getD []
  let lsLabels := names.filterMap fun n => match n.what with
    | .label s o => if isLs s then some o else none
    | _ => none
  let checks := emits.zipIdx.flatMap fun e =>
    let ws := e.1.words.reverse
    let labels := names.filterMap fun n => match n.what with
      | .label s o => if s = e.2 then some o else none
      | _ => none
    repErrors ws ++ runChecks (job.fe != some .off) (ws.filterMap leadsTo ++ labels) lsLabels ls Run.fresh none none ws
  let lastOf (k : Nat) : Pos := ((items.filter fun l => l.sect == k).getLast?.map (·.pos)).getD ⟨job.file, 0, none, 0⟩
  let e106 := match lsIndex with
    | some k => if sysbase < ls.length then [(⟨lastOf k, "E106", "an .ls image that reaches SYSBASE"⟩ : Diag)] else []
    | none => []
  let e108 := p.sects.zipIdx.flatMap fun s => match s.1.id.kind with
    | .wslice x y => if job.pound.any fun q => decide (q.1 ≤ x) || decide (q.2 ≤ y) then
        [(⟨lastOf s.2, "E108", "a coordinate outside the pound"⟩ : Diag)] else []
    | _ => []
  let unknown := p.globals.filterMap fun g =>
    if names.any fun n => n.name == g.1 && !n.what.isPattern then none else some (⟨g.2.2, "E005", "undefined " ++ g.1⟩ : Diag)
  let diags := p.diags.reverse ++ equErrors env names ++ e1 ++ e2 ++ e3 ++ e4 ++ gangs.flatMap scene.gangErrors ++
    scene.placeErrors sysbase chans pats ++ scene.starving pats ++ (emits.flatMap fun e => e.diags.reverse) ++ checks ++ e106 ++ e108 ++
    unknown
  { obj :=
      { sysbase := sysbase
        sections := (p.sects.zip images).map fun x => ⟨x.1.id.kind, BitVec.ofNat 4 x.1.id.fmt, x.1.align, x.2⟩
        channels := chans, patterns := pats, regions := regions
        symbols := names.map (symbolOf env p.bodies.reverse p.globals)
        relocs := emits.zipIdx.flatMap fun e => e.1.relocs.reverse.map fun r => ⟨r.1, e.2, r.2.1, r.2.2⟩ }
    diags := diags.mergeSort fun a b => decide (a.pos.seq ≤ b.pos.seq) }

/-- Whether a diagnostic counts as an error under the options (R299, R310). -/
def jobError (job : AsmJob) (d : Diag) : Bool :=
  match d.code.toList with
  | 'E' :: _ => true
  | 'W' :: _ => job.werror || (job.fe == some .strict && d.code == "W401")
  | _ => false

/-- A diagnostic's lines (R300): FILE:LINE: SEVERITY CODE: text, and the line of a macro body after it. -/
def jobLines (job : AsmJob) (d : Diag) : List String :=
  let sev := if jobError job d then "error" else if d.code.toList.head? == some 'W' then "warning" else "note"
  let head := d.pos.file ++ ":" ++ toString d.pos.line ++ ": " ++ sev ++ " " ++ d.code ++ ": " ++ d.text
  match d.pos.inner with
  | some (f, n) => [head, f ++ ":" ++ toString n ++ ": in the macro body"]
  | none => [head]

/-- The object's path (R299): the one given, or the source's with .gof for .s. -/
def jobPath (job : AsmJob) : String :=
  match job.output with
  | some p => p
  | none =>
    let cs := job.file.toList
    String.ofList ((if cs.drop (cs.length - 2) == ['.', 's'] then cs.take (cs.length - 2) else cs) ++ ".gof".toList)

/-- Whether the command line can be used (R299): a SYSBASE that R48 allows, and definitions of symbols. -/
def jobUsable (job : AsmJob) : Bool :=
  job.sysbase.all (fun n => n % 0x400 == 0 && decide (0x1000 ≤ n) && decide (n ≤ 0x5000)) && job.defines.all fun d => isSymbol d.1.toList

/-- NGATUR_ASSEMBLE (R299, R300): every diagnostic is printed; the object is written only when none of them is an error; the exit
status is printed last. -/
def execNgaturAssemble (job : AsmJob) (s : State) : Out :=
  .next <|
    if !jobUsable job then s.print "ngatur" [2]
    else
      let out := assembleJob job
      let shown := out.diags.filter fun d => d.code.toList.head? == some 'E' || !job.noWarn.contains d.code
      let s := (shown.flatMap (jobLines job)).foldl (fun s l => s.print l []) s
      if shown.any (jobError job) then s.print "ngatur" [1]
      else
        let s := { s with files := (jobPath job, objectBytes out.obj) :: s.files.filter fun f => f.1 != jobPath job }
        s.print "ngatur" [0]

end Sys2Proof.Machine
end

