-- ==== Sys2Proof/Machine/Reliability.lean ====
section
/-!
DEFINITION. Errors and their counters (R390 to R392, R397, R398), and paired execution (R393, R394).
-/

namespace Sys2Proof.Machine

/-! ## Leaky buckets (R390) -/

/-- The code of a bucket's kind (R390). -/
def bucketCode : BucketKind → Nat
  | .localStore => 0 | .clusterStore => 1 | .l2 => 2 | .weightSlice => 3 | .meshLink => 4 | .ueLane => 5 | .cluster => 6

/-- The mark a bucket acts on (R390). -/
def Bucket.level (b : Bucket) : Nat := if b.mark = 0 then 65535 else b.mark.toNat

/-- A bucket with errors added (R390). -/
def Bucket.add (b : Bucket) (n : Nat) : Bucket := { b with count := BitVec.ofNat 16 (min (b.count.toNat + n) 65535) }

/-- Whether a bucket sends its warning as its count rises (R390). -/
def Bucket.warns (old new : Bucket) : Bool :=
  !old.fired && decide (old.count.toNat < old.level) && decide (new.level ≤ new.count.toNat)

/-- The two words of a predictive-failure message (R390). -/
def warning (id : BucketId) (b : Bucket) : List Word :=
  [BitVec.ofNat 64 (bucketCode id.kind * 2 ^ 56 + id.index % 2 ^ 32), b.count.setWidth 64]

/-- Errors added to a bucket, with its warning to the wharf when it passes its mark (R390). -/
def State.addBucket (s : State) (id : BucketId) (n : Nat) : State :=
  let old := lookupKey Bucket.reset id s.buckets
  let new := old.add n
  let warn := old.warns new
  { s with
    buckets := insertKey id { new with fired := new.fired || warn } s.buckets
    egress := s.egress ++ (if warn then [.wharf (warning id new)] else []) }

/-- The cycles between two leaks of a bucket (R390). -/
def Bucket.leakCycles (b : Bucket) : Nat := 2 ^ min 40 (max 10 b.leak.toNat)

/-- BUCKET_LEAK (R1, R390): once the unit has counted the bucket's cycles since the last, a count falls by one, and at half the mark
or below the warning is armed again. -/
def execBucketLeak (unit : BucketId) (s : State) : Out :=
  .next <|
    let b := lookupKey Bucket.reset unit s.buckets
    if s.age (.bucket unit) < b.leakCycles then s
    else
    let s := s.restart (.bucket unit)
    let n := b.count - (if b.count = 0 then 0 else 1)
    { s with buckets := insertKey unit { b with count := n, fired := b.fired && decide (b.level / 2 < n.toNat) } s.buckets }

/-- The bucket that an error at a place adds to, and the cluster whose bucket counts it too (R390; entry 23 numbers them). -/
def placeBucket : ErrPlace → Option (BucketId × Option Nat)
  | .bridge _ | .port _ | .wharf | .dramLine _ | .tile .. | .coreLogic .. => none
  | .ueLane i => some (⟨.ueLane, i⟩, none)
  | .l2Line t i _ => some (⟨.l2, 16 * t + i⟩, none)
  | .localStore c _ => some (⟨.localStore, c⟩, some (clusterOf c))
  | .clusterStore k b | .cacheLine k b _ => some (⟨.clusterStore, 16 * k + b⟩, some k)
  | .weightSlice c => some (⟨.weightSlice, c⟩, some (clusterOf c))
  | .meshLink a b _ =>
    let dir : Nat := if coreX a < coreX b then 0 else if coreX b < coreX a then 1 else if coreY b < coreY a then 2 else 3
    some (⟨.meshLink, 4 * a + dir⟩, some (clusterOf a))

/-- Whether an error is at a link (R390, R397). -/
def isLink : ErrPlace → Bool
  | .ueLane _ | .meshLink .. => true
  | _ => false

/-- The block of what strikes a core: the device whose live context it struck, else the pound, else the wharf (R398). -/
def State.struckBlock (s : State) (core : Nat) (ctx : Option Nat) : Nat :=
  match s.poundOf (clusterOf core) with
  | none => 0
  | some p =>
    match ctx, p.resident with
    | some k, some t => if ((s.core core).ctx k).live then t.toNat else 2 ^ 16 + p.record.node.toNat
    | _, _ => 2 ^ 16 + p.record.node.toNat

/-- The one block an error counts in (R398). -/
def State.errBlock (s : State) : ErrPlace → Nat
  | .bridge _ | .port _ | .ueLane _ | .wharf => 0
  | .dramLine l | .l2Line _ _ l | .cacheLine _ _ l => s.lineBlock l
  | .localStore c k | .tile c _ k | .coreLogic c k => s.struckBlock c k
  | .clusterStore k _ => ((s.poundOf k).map fun p => 2 ^ 16 + p.record.node.toNat).getD 0
  | .weightSlice c => s.struckBlock c none
  | .meshLink a b t =>
    match s.poundOfTag t with
    | none => 0
    | some p => if nodeHas p.record.node (clusterOf a) && nodeHas p.record.node (clusterOf b) then t else 0

/-- The counter an error adds to (R397): retries of links, DRAM errors, and SRAM errors; an error of a link that is no retry has
none. -/
def errCounter (place : ErrPlace) (kind : ErrKind) : Option Nat :=
  match kind with
  | .retry => if isLink place then some 5 else none
  | _ =>
    if isLink place then none
    else
      let up : Nat := match kind with
        | .uncorrectable => 1
        | _ => 0
      match place with
      | .dramLine _ => some (2 + up)
      | _ => some up

/-- A line marked as uncorrectable (R202, R391). -/
def State.poisonLine (s : State) (line : Nat) : State :=
  { s with poisoned := if s.poisoned.contains (lineOf line) then s.poisoned else lineOf line :: s.poisoned }

/-- HW_ERROR_DETECT (R390, R391, R397, R398): an error adds to its bucket, its cluster's and its tenant's counter; an
uncorrectable one marks its line of DRAM or L2, or ends its line of a cluster cache, which the home still holds (entry 23). -/
def execHwErrorDetect (place : ErrPlace) (kind : ErrKind) (s : State) : Out :=
  .next <|
    let n : Nat := match kind with
      | .uncorrectable => 16
      | .corrected => 1
      | .retry => if isLink place then 1 else 0
    let s := match placeBucket place with
      | none => s
      | some (id, k) =>
        if n = 0 then s
        else
          let s := s.addBucket id n
          match k with
          | none => s
          | some c => s.addBucket ⟨.cluster, c⟩ n
    let s := match errCounter place kind with
      | none => s
      | some i => s.countError (s.errBlock place) i
    match kind, place with
    | .uncorrectable, .dramLine l | .uncorrectable, .l2Line _ _ l => s.poisonLine l
    | .uncorrectable, .cacheLine k _ l => s.modCluster k fun c => { c with lines := dropLine c.lines l }
    | _, _ => s

/-! ## DRAM classification and repair (R391, R392) -/

/-- Whether two cells lie in one bank. -/
def sameBank (a b : DramCell) : Bool := a.channel == b.channel && a.bank == b.bank

/-- The class that a bank's entries give a cell, by the first rule of R391 that holds. -/
def classify (es : List DramEntry) (cell : DramCell) : Option DramClass :=
  let here := es.filter fun e => sameBank e.cell cell
  let rows := (here.map (·.cell.row)).dedup.length
  let cols := (here.map (·.cell.col)).dedup.length
  let rowsInCol := ((here.filter fun e => e.cell.col == cell.col).map (·.cell.row)).dedup.length
  let colsInRow := ((here.filter fun e => e.cell.row == cell.row).map (·.cell.col)).dedup.length
  if 3 ≤ rows && 3 ≤ cols then some .bank
  else if 3 ≤ rowsInCol then some .column
  else if 3 ≤ colsInRow then some .row
  else if here.any fun e => e.cell == cell && decide (2 ≤ e.count) then some .cell
  else none

/-- Whether a class covers an entry when a cell of its bank takes it (R391). -/
def DramClass.covers (k : DramClass) (cell : DramCell) (e : DramEntry) : Bool :=
  sameBank e.cell cell && match k with
    | .bank => true
    | .column => e.cell.col == cell.col
    | .row => e.cell.row == cell.row
    | .cell => e.cell == cell

/-- A table with a report taken in (R391): its entry counts on and is the most recent, or takes a free place or that of the least
recent entry not classified; a table with none of these takes no report. -/
def tableReport (es : List DramEntry) (cell : DramCell) (n : Nat) : List DramEntry :=
  match es.find? fun e => e.cell == cell with
  | some e => es.erase e ++ [{ e with count := e.count + n }]
  | none =>
    let new : DramEntry := ⟨cell, n, none, false⟩
    if es.length < 256 then es ++ [new]
    else match es.find? fun e => e.cls.isNone with
      | none => es
      | some old => es.erase old ++ [new]

/-- The key a bank's spares are counted under. -/
def bankKey (c : DramCell) : Nat := c.channel * 2 ^ 16 + c.bank

/-- DRAM_ERROR_REPORT (R202, R391): the report enters its stack's table, an uncorrectable one as a cell counted twice whose line
is marked; a new class asks for a spare, or with none left, or for a bank, for the retirement of its pages. -/
def execDramErrorReport (stack : Nat) (cell : DramCell) (uncorrectable : Bool) (s : State) : Out :=
  event (decide (stack < 4)) <|
    let s := if uncorrectable then s.poisonLine (Config.dramLine stack cell.channel cell.bank cell.row cell.col) else s
    let es := tableReport (s.stack stack).dram cell (if uncorrectable then 2 else 1)
    let s := s.modStack stack fun t => { t with dram := es }
    match classify es cell with
    | none => s
    | some k =>
      let new := es.any fun e => e.cell == cell && e.cls != some k && e.cls != some .bank
      if !new then s
      else
        let key := bankKey cell
        let cols := lookupD 0 key (s.stack stack).sparesCol
        let rows := lookupD 0 key (s.stack stack).sparesRow
        let spare := match k with
          | .bank => false
          | .column => decide (cols < 4)
          | .row | .cell => decide (rows < 8)
        let mark (e : DramEntry) : DramEntry := if k.covers cell e then { e with cls := some k, spared := spare } else e
        let s := s.modStack stack fun t => { t with
          dram := t.dram.map mark
          sparesCol := if spare && k == .column then insertAt key (cols + 1) t.sparesCol else t.sparesCol
          sparesRow := if spare && k != .column then insertAt key (rows + 1) t.sparesRow else t.sparesRow }
        if spare then s
        else ((⟨cell, 0, some k, false⟩ : DramEntry).frames stack).foldl State.requestRetire s

/-- SPARING_DONE (R391, R392, R397): the copy of a row or column to its spare is complete; the entries it repairs leave the table. -/
def execSparingDone (stack : Nat) (cell : DramCell) (s : State) : Out :=
  event (decide (stack < 4)) <|
    match (s.stack stack).dram.find? fun e => e.cell == cell && e.spared && e.cls.isSome with
    | none => s
    | some e =>
      let k := e.cls.getD .cell
      let cls : DramClass := if k == .cell then .row else k
      let s := s.modStack stack fun t => { t with
        dram := t.dram.filter fun d => !(cls.covers cell d && d.spared && d.cls.isSome) }
      s.countError (s.lineBlock (Config.dramLine stack cell.channel cell.bank cell.row cell.col)) 4

/-! ## Paired execution (R393, R394) -/

/-- The number of what a spill-ring entry holds. -/
def Spill.seq : Spill → Nat
  | .out e => e.seq
  | .atom a => a.seq

/-- The outbox filled up from the oldest spilled entries (R30). -/
def Core.refillOut (c : Core) : Core :=
  (c.spill.filter Spill.isOut).foldl (fun c x => match x with
    | .out e => if c.outbox.length < 16 then { c with outbox := c.outbox ++ [e], spill := c.spill.erase x } else c
    | .atom _ => c) c

/-- A core without some of its requests that have not left it. -/
def Core.without (c : Core) (qs : List Nat) : Core :=
  (({ c with
      stores := c.stores.filter fun x => !qs.contains x.seq
      outbox := c.outbox.filter fun x => !qs.contains x.seq
      spill := c.spill.filter fun x => !qs.contains x.seq
      atomQ := c.atomQ.filter fun x => !qs.contains x.seq
      sideLog := c.sideLog.filter fun x => x.sent || !qs.contains x.seq } : Core).refillOut).refillAtoms

/-- Requests of a copy discarded by its router, wherever they wait (R393, R394). -/
def State.discard (s : State) (core k : Nat) (qs : List Nat) : State :=
  let out (r : MemReq) : Bool := match r.asker with
    | .atomic c x q => c == core && x == k && qs.contains q
    | _ => false
  let s := (s.modCore core (·.without qs)).wakeLog core
  { s with net := s.net.filter fun r => !out r, remote := s.remote.filter fun r => !out r }

/-- Whether some of a copy's requests wait to leave its core or the router. -/
def State.waitsOut (s : State) (core k : Nat) (qs : List Nat) : Bool :=
  let c := s.core core
  c.stores.any (fun x => qs.contains x.seq) || c.outbox.any (fun x => qs.contains x.seq) ||
    c.spill.any (fun x => qs.contains x.seq) || c.atomQ.any (fun x => qs.contains x.seq) ||
    c.sideLog.any (fun x => !x.sent && qs.contains x.seq) || (s.net ++ s.remote).any fun r => match r.asker with
      | .atomic c x q => c == core && x == k && qs.contains q
      | _ => false

/-- Numbers of the requests a copy has issued. -/
def PairState.numbers (p : PairState) : List Nat := p.issued.map (·.1)

/-- The pair entries of both copies changed alike. -/
def State.modPair (s : State) (core : Nat) (p : PairState) (f : PairState → PairState) : State :=
  let at_ (s : State) (n k : Nat) : State := s.modCore n fun c => { c with pairs := c.pairs.map (fun x => if x.ctx = k then f x else x) }
  at_ (at_ s core p.ctx) p.other p.otherCtx

/-- The pair entries of both copies removed. -/
def State.dropPair (s : State) (core : Nat) (p : PairState) : State :=
  let at_ (s : State) (n k : Nat) : State := s.modCore n fun c => { c with pairs := c.pairs.filter (·.ctx != k) }
  at_ (at_ s core p.ctx) p.other p.otherCtx

/-- A copy's producer behind a request given the answer that an earlier run's request had (R394). -/
def State.replay (s : State) (p : PairState) (core k seq i : Nat) : State :=
  let c := (s.core core).ctx k
  let s := match p.results.find? (·.1 == i) with
    | none => s
    | some (_, v) => s.bindWhole core k (if c.pends.any (·.seq == seq) then seq else seq - 1) v
  match p.answers.find? (·.1 == i) with
  | none => s
  | some (_, a) => s.modCtxOf core k fun c => c.takeAnswer (seq - 1) a

/-- A request both copies have issued alike is released (R393): the partner's copy of a return atomic is discarded, and one that
an earlier run has sent is not sent again, its answer standing (R394). -/
def State.pairRelease (s : State) (core : Nat) (p : PairState) (a b : Nat) : State :=
  let i := p.released
  let s := s.modPair core p fun x => { x with released := x.released + 1 }
  let atomics (s : State) (n k q : Nat) : State :=
    let out (r : MemReq) : Bool := r.asker == .atomic n k q
    { s with net := s.net.filter fun r => !out r, remote := s.remote.filter fun r => !out r }
  let s := atomics s p.other p.otherCtx b
  if p.skip ≤ i then s
  else ((atomics s core p.ctx a).replay p core p.ctx a i).replay p p.other p.otherCtx b i

/-- Whether an answer to a released request of the home copy is still to come. -/
def State.pairOwed (s : State) (core : Nat) (p : PairState) : Bool :=
  let qs := p.numbers.take p.released
  ((s.core core).ctx p.ctx).pends.any fun d =>
    (qs.contains d.seq && d.pieces.any (·.value.isNone)) || (qs.contains (d.seq + 1) && d.pieces.any fun x => x.len == 0 && x.value.isNone)

/-- A copy restarted from its body's entry, with the inputs as the body started with them (R394). -/
def State.restartCopy (s : State) (core : Nat) (p : PairState) : State :=
  let (q, s) := s.nextSeq
  (s.modCtxOf core p.ctx fun c => { p.start with since := q, acqL1 := c.acqL1, acqCl := c.acqCl }).modCore core
    fun c => { c with repOwner := if c.repOwner = some p.ctx then none else c.repOwner }

/-- The copies' hashes disagree (R394): once the released requests have been answered, every later one is discarded, and both
copies restart; the second time both freeze with PAIR_MISMATCH. -/
def State.pairMismatch (s : State) (core : Nat) (p q : PairState) : Option State :=
  if s.pairOwed core p then none
  else
    let s := (s.discard core p.ctx (p.numbers.drop p.released ++ p.numbers.take p.skip)).discard p.other p.otherCtx q.numbers
    if p.rerun then
      some (((s.dropPair core p).raiseOf core p.ctx ⟨.pairMismatch, BitVec.ofNat 24 p.other, 0⟩).raiseOf p.other p.otherCtx
        ⟨.pairMismatch, BitVec.ofNat 24 core, 0⟩)
    else
      let s := (s.restartCopy core p).restartCopy p.other q
      let s := s.modPair core p fun x => { x with skip := x.released, issued := [], released := 0, rerun := true, done := false }
      some (s.countError (s.blockOf core) 8)

/-- What the router of a home copy's cluster does next for a pair: it releases, finds a mismatch, or ends both copies. -/
def State.pairStep (s : State) (core : Nat) (p : PairState) : Option State :=
  match (s.core p.other).pairOf p.otherCtx with
  | none => none
  | some q =>
    match p.issued[p.released]?, q.issued[q.released]? with
    | some a, some b => if a.2 = b.2 then some (s.pairRelease core p a.1 b.1) else s.pairMismatch core p q
    | some _, none => if q.done then s.pairMismatch core p q else none
    | none, some _ => if p.done then s.pairMismatch core p q else none
    | none, none =>
      if p.done && q.done && !s.waitsOut core p.ctx p.numbers && !s.waitsOut p.other p.otherCtx q.numbers then some (s.dropPair core p)
      else none

/-- PAIR_REQUEST_RELEASE (R393, R394): the first pair of a home core whose router has something to do. -/
def execPairRequestRelease (core : Nat) (s : State) : Out :=
  event (coreIn core) <|
    (((s.core core).pairs.filter (·.home)).findSome? (s.pairStep core)).getD s

end Sys2Proof.Machine
end

