-- ==== Sys2Proof/Machine/Rep.lean ====
section
/-!
DEFINITION. The repetition sequencer: what REP and REPX capture, and the issue of one captured word (R240 to R242).
-/

namespace Sys2Proof.Machine

/-! ## What a sequence may capture (R240, R241) -/

/-- The meaning of a word a sequence may capture: majors 0x30 to 0x39, QNEXT and HINT; none for any other (R241). -/
def execCaptured (i : Instr) : Option (State → Out) :=
  match i with
  | .qnext o => some (execQnext o)
  | .vadd o => some (execVadd o)
  | .vsub o => some (execVsub o)
  | .vmul o => some (execVmul o)
  | .vmulh o => some (execVmulh o)
  | .vdot o => some (execVdot o)
  | .vmin o => some (execVmin o)
  | .vmax o => some (execVmax o)
  | .vand o => some (execVand o)
  | .vor o => some (execVor o)
  | .vxor o => some (execVxor o)
  | .vsll o => some (execVsll o)
  | .vsrl o => some (execVsrl o)
  | .vsra o => some (execVsra o)
  | .vabs o => some (execVabs o)
  | .vadds o => some (execVadds o)
  | .vsubs o => some (execVsubs o)
  | .vfadd o => some (execVfadd o)
  | .vfsub o => some (execVfsub o)
  | .vfmul o => some (execVfmul o)
  | .vfdiv o => some (execVfdiv o)
  | .vfsqrt o => some (execVfsqrt o)
  | .vfmin o => some (execVfmin o)
  | .vfmax o => some (execVfmax o)
  | .vfma o => some (execVfma o)
  | .vld o => some (execVld o)
  | .vst o => some (execVst o)
  | .vldq o => some (execVldq o)
  | .vstq o => some (execVstq o)
  | .vgath o => some (execVgath o)
  | .vscat o => some (execVscat o)
  | .vldf o => some (execVldf o)
  | .vbcast o => some (execVbcast o)
  | .vshuf o => some (execVshuf o)
  | .vzip o => some (execVzip o)
  | .vuzp o => some (execVuzp o)
  | .vslide o => some (execVslide o)
  | .vext o => some (execVext o)
  | .vins o => some (execVins o)
  | .vsplat o => some (execVsplat o)
  | .vredAdd o => some (execVredAdd o)
  | .vredMin o => some (execVredMin o)
  | .vredMax o => some (execVredMax o)
  | .vcvt o => some (execVcvt o)
  | .vpack o => some (execVpack o)
  | .vunpk o => some (execVunpk o)
  | .vcbx o => some (execVcbx o)
  | .vbxq o => some (execVbxq o)
  | .vcq4 o => some (execVcq4 o)
  | .vexp2 o => some (execVexp2 o)
  | .vlog2 o => some (execVlog2 o)
  | .vrcp o => some (execVrcp o)
  | .vrsq o => some (execVrsq o)
  | .vsin o => some (execVsin o)
  | .vcos o => some (execVcos o)
  | .vcmpEq o => some (execVcmpEq o)
  | .vcmpNe o => some (execVcmpNe o)
  | .vcmpLt o => some (execVcmpLt o)
  | .vcmpLe o => some (execVcmpLe o)
  | .vcmpLtu o => some (execVcmpLtu o)
  | .vcmpLeu o => some (execVcmpLeu o)
  | .vmand o => some (execVmand o)
  | .vmor o => some (execVmor o)
  | .vmxor o => some (execVmxor o)
  | .vmnot o => some (execVmnot o)
  | .vmcnt o => some (execVmcnt o)
  | .vmfst o => some (execVmfst o)
  | .mgang o => some (execMgang o)
  | .mmas o => some (execMmas o)
  | .mzero o => some (execMzero o)
  | .mdrainI64 o => some (execMdrainI64 o)
  | .mdrainI32s o => some (execMdrainI32s o)
  | .mdrainF32 o => some (execMdrainF32 o)
  | .mdrainF32a o => some (execMdrainF32a o)
  | .mdrainBf16 o => some (execMdrainBf16 o)
  | .mdrainc o => some (execMdrainc o)
  | .ard o => some (execArd o)
  | .awr o => some (execAwr o)
  | .achk o => some (execAchk o)
  | .acfg o => some (execAcfg o)
  | .cbld o => some (execCbld o)
  | .hintImm o => some (execHintImm o)
  | .hintMod o => some (execHintMod o)
  | .hintSched o => some (execHintSched o)
  | _ => none

/-- The rule of a captured word that reads or writes x registers; the others touch none (R242). -/
def capturedRule (i : Instr) : WordRule :=
  match i with
  | .vld o => vecMemRule true o
  | .vbcast o => vecMemRule false o
  | .vst o => vstRule o
  | .vgath o => vgathRule o
  | .vscat o => vscatRule o
  | .vldf o => vldfRule o
  | .vext o => vextRule o
  | .vins o => vinsRule o
  | .vsplat o => vsplatRule o
  | .vmcnt o | .vmfst o => maskCountRule o
  | .vbxq o => vbxqRule o
  | .vcq4 o => vcq4Rule o
  | .mgang o => mgangRule o
  | .mmas o => mmasRule o
  | .mdrainI64 o | .mdrainI32s o | .mdrainF32 o | .mdrainF32a o | .mdrainBf16 o => drainRule o
  | .mdrainc o => mdraincRule o
  | .ard o => ardRule o
  | .awr o => awrRule o
  | .achk o => achkRule o
  | .acfg o => acfgRule o
  | .cbld o => cbldRule o
  | .qnext o => qnextRule o
  | _ => {}

/-- The stream a captured word names (R239, R241). -/
def capturedStream : Instr → Option (BitVec 2)
  | .vldq o => some o.qn
  | .vstq o => some o.qn
  | .qnext o => some o.qd
  | _ => none

/-- Which of the fields 0 to 2 of R240 a captured word has. -/
def capturedFields (i : Instr) : Bool × Bool × Bool :=
  match i with
  | .hintImm _ | .hintMod _ | .hintSched _ => (false, false, false)
  | .vldq _ | .vstq _ => (true, false, false)
  | .vld _ | .vst _ | .vbcast _ | .vldf _ | .vabs _ | .vfsqrt _ | .vexp2 _ | .vlog2 _ | .vrcp _ | .vrsq _ | .vsin _ | .vcos _ |
    .vredAdd _ | .vredMin _ | .vredMax _ | .vext _ | .vins _ | .vsplat _ | .vcvt _ | .vunpk _ | .vmnot _ | .vmcnt _ |
    .vmfst _ | .mmas _ | .achk _ | .qnext _ => (true, true, false)
  | .vbxq _ | .acfg _ => (false, true, true)
  | .mzero _ => (true, false, false)
  | .awr _ => (true, false, true)
  | .cbld _ => (false, true, false)
  | _ => (true, true, true)

/-- A field of a word raised by an amount, within its width. -/
def raiseField (w : Word32) (lo n d : Nat) : Word32 := setBits w (lo + n - 1) lo (bits w (lo + n - 1) lo + d)

/-- Captured word `i` as a pass issues it (R240, R241): each field whose STAG bit is set and which the word has, raised by
the pass offset. -/
def stagger (stag : BitVec 24) (i off : Nat) (w : Word32) : Word32 :=
  let (has0, has1, has2) := match decodeCaptured w with
    | .ok x => capturedFields x
    | .error _ => (false, false, false)
  let major := bits w 31 26
  let on (f : Nat) (has : Bool) : Bool := has && stag.getLsbD (3 * i + f)
  let step (f : Nat) (has : Bool) (lo n : Nat) (w : Word32) : Word32 := if on f has then raiseField w lo n off else w
  if major = 0x28 then step 1 has1 16 5 (step 0 has0 21 2 w)
  else if 0x38 ≤ major then step 2 has2 13 5 (step 1 has1 18 5 (step 0 has0 23 3 w))
  else step 2 has2 14 4 (step 1 has1 18 4 (step 0 has0 22 4 w))

/-- Whether a word may be captured (R241): of majors 0x30 to 0x39 or a HINT, well encoded or not, or a QNEXT. -/
def capturable (w : Word32) : Bool :=
  let major := bits w 31 26
  (decide (0x30 ≤ major) && decide (major ≤ 0x39)) || major == 0x3F || match decodeCaptured w with
    | .ok (.qnext _) => true
    | _ => false

/-- Whether captured words may form a sequence (R241): each of the majors named, and no group left open at the end. -/
def mayCapture (ws : List Word32) : Bool :=
  ws.all capturable && (ws.getLast?).any fun w => bits w 31 26 != 0x3F

/-- The x registers a test of rules names, over all words and pass offsets of a sequence. -/
def sequenceRegs (regs : WordRule → List RegName) (ws : List Word32) (stag : BitVec 24) (offsets : Nat) : BitVec 32 :=
  (List.range offsets).foldl (fun m off => (ws.mapIdx fun i w => (stagger stag i off w)).foldl (fun m w =>
    match decodeCaptured w with
    | .ok x => (regs (capturedRule x)).foldl (fun m r => match r with
        | .x j => if j = 0 then m else m ||| (1 <<< j.toNat)
        | _ => m) m
    | .error _ => m) m) 0

/-! ## REP and REPX (R240, R241) -/

/-- The words after a REP fetched (R241, R142). -/
def State.capture (s : State) (at_ : Word) : Nat → List Word32 → Did ⊕ (List Word32 × State)
  | 0, ws => .inr (ws.reverse, s)
  | n + 1, ws =>
    match s.fetch at_ with
    | .inl d => .inl d
    | .inr (w, s) => s.capture (at_ + 4) n (w :: ws)

/-- The start of a sequence (R240, R241). -/
def repStart (untilDone : Bool) (o : RepW) : State → Out :=
  issue { rep := true, srcs := [(.x o.ra, o.ea), (.x o.rb, o.eb)] } fun s =>
    let c := s.ctx
    let len := o.len.toNat + 1
    let count := bits (c.readX o.ra) 31 0
    let ctl := c.readX o.rb
    let next := c.pc + BitVec.ofNat 64 (4 + 4 * len)
    if s.me.repOwner.isSome then .wait s
    else match s.capture (c.pc + 4) len [] with
      | .inl d => d
      | .inr (ws, s) =>
        if !mayCapture ws then .fault s (plain .illegal)
        else if count = 0 && !untilDone then .jump s next
        else
          let win := 2 ^ min 4 (bits ctl 27 24)
          let stag := ctl.setWidth 24
          let offsets := if count = 0 then win else min win count
          let writes := sequenceRegs (·.dests) ws stag offsets
          let reads := sequenceRegs (fun r => r.srcs.map (·.1)) ws stag offsets
          if s.ctx.xfull &&& writes ≠ writes then .wait s
          else
            let q : RepSeq := { words := ws, at_ := c.pc + 4, stag := stag, win := win, count := count, untilDone := untilDone,
                                pass := 0, index := 0, spc := next, streamDone := false, group := none, xwrites := writes,
                                xreads := reads }
            .jump ((s.modCtx fun c => { c with rep := some q, xfull := c.xfull &&& ~~~writes }).modMe
              fun c => { c with repOwner := some s.cur.2 }) next

/-- REP (R240, R241). -/
def execRep (o : RepW) : State → Out := repStart false o
/-- REPX (R240, R241). -/
def execRepx (o : RepW) : State → Out := repStart true o

/-! ## The sequencer (R241, R242) -/

/-- Whether a stream's DONE is 1. -/
def Stream.done : Stream → Bool
  | .off => false
  | .aff _ _ _ _ _ d | .skip _ _ _ _ _ _ d => d

/-- The x registers that a producer of a context will fill. -/
def Ctx.awaited (c : Ctx) : BitVec 32 :=
  c.pends.foldl (fun m p => p.dest.regs.foldl (fun m r => match r with
    | .x i => m ||| (1 <<< i.toNat)
    | _ => m) m) 0

/-- The acting context as the sequencer's word sees it: no sequence of its own, at the captured word, with the registers the
sequence writes full unless a producer will fill them. -/
def Ctx.inSequence (c : Ctx) (q : RepSeq) : Ctx :=
  { c with
    rep := none
    pc := q.at_ + BitVec.ofNat 64 (4 * q.index)
    group := q.group
    ir := q.words.getD q.index 0
    state := .running
    xfull := c.xfull ||| (q.xwrites &&& ~~~c.awaited) }

/-- Whether a stream that a word reads has DONE 1 after it (R241). -/
def streamEnds (before after : Ctx) (i : Option Instr) : Bool :=
  ((List.range 4).any fun k =>
    let q := after.readQ (BitVec.ofNat 2 k)
    q.done && (before.readQ (BitVec.ofNat 2 k) != q || (i.bind capturedStream) == some (BitVec.ofNat 2 k)))

/-- Whether a word has walked a skip stream of a context whose DONE is 1 after it (R241, R270). -/
def keptEnds (core k : Nat) (after : Ctx) (os : List Occur) : Bool :=
  os.any fun o => match o with
    | .kept n j q => n == core && j == k && (after.readQ q).done
    | _ => false

/-- A sequence after one of its words has retired (R241): the next word, the next pass, or none at its end. -/
def RepSeq.advance (q : RepSeq) (group : Option Group) (ends : Bool) : Option RepSeq :=
  let q := { q with streamDone := q.streamDone || ends, group := group }
  if q.index + 1 < q.words.length then some { q with index := q.index + 1 }
  else if (q.untilDone && q.streamDone) || (q.count != 0 && q.pass + 1 == q.count) then none
  else some { q with index := 0, pass := q.pass + 1, streamDone := false }

/-- The note of an issue marked as the sequencer's (R190). -/
def bySequencer : List Occur → List Occur
  | .issued c k n _ :: rest => .issued c k n true :: rest
  | os => os

/-- Whether an operation or a drain that a context's word began has ended, so that the word has only to retire (R264). -/
def Core.hasEnded (c : Core) (k : Nat) : Bool :=
  (c.ctx k).arrival.any (fun a => a.phase != .waiting) ||
    c.drain.any fun j => j.ctx == k && j.since == (c.ctx k).since && j.phase != .busy

/-- REP_WORD_ISSUE (R241, R242): the sequencer issues one captured word of its context's pass. A context that is stopped, or
whose core is halted at a group's boundary or saves its contexts, issues none, but that a word whose operation has ended retires
(R264). On a fault of a captured word the context's own stream stands at the first HINT of the group it is in (R162). -/
def execRepWordIssue (core : Nat) (s : State) : Out :=
  event (coreIn core) <|
    match (s.core core).repOwner with
    | none => s
    | some k =>
      let c := (s.core core).ctx k
      match c.rep with
      | none => s.modCore core fun n => { n with repOwner := none }
      | some q =>
        if !(c.state == .running || c.state == .waiting) || ((s.core core).halted && q.group.isNone) || (s.core core).killing.isSome ||
            ((s.core core).ending && !(s.core core).hasEnded k) || (s.core core).entering k then s
        else
          let w := stagger q.stag q.index (q.pass % q.win) (q.words.getD q.index 0)
          let i := (decodeCaptured w).toOption
          let run := (i.bind execCaptured).getD (execIllegalWord w)
          let t : State := { s.modCtxOf core k (·.inSequence q) with cur := (core, k) }
          match run t with
          | .next t =>
            let d := (t.core core).ctx k
            let back (t : State) : State := { t with cur := s.cur }
            let hidden := d.xfull &&& ~~~q.xwrites
            if d.state = .frozen then
              back (t.modCtxOf core k fun d => { d with
                xfull := hidden
                rep := some { q with spc := c.faultPc, index := (d.pc - q.at_).toNat / 4, group := none } })
            else
              let main (d : Ctx) : Ctx :=
                { d with pc := c.pc, group := c.group, ir := c.ir, state := if d.state = .xstall then .xstall else c.state }
              if d.pc = q.at_ + BitVec.ofNat 64 (4 * q.index) then
                back (t.modCtxOf core k fun d => { main d with xfull := hidden, rep := some { q with group := d.group } })
              else
                let t : State := { t with occurs := bySequencer t.occurs }
                match q.advance d.group (streamEnds c d i || keptEnds core k d t.occurs) with
                | some q => back (t.modCtxOf core k fun d => { main d with xfull := hidden, rep := some q })
                | none => back ((t.modCtxOf core k fun d => { main d with rep := none, xfull := d.xfull ||| (q.xwrites &&& ~~~d.awaited) }).modCore
                    core fun n => { n with repOwner := none })
          | _ => s

end Sys2Proof.Machine
end

