-- ==== Sys2Proof/Machine/Registers.lean ====
section
/-!
DEFINITION. Device registers as they are written and read (R4).
-/

namespace Sys2Proof.Machine

/-- A write under a mask of RW fields; reserved and read-only fields stay as they are (R4). -/
def field (mask old v : Word) : Word := (old &&& ~~~mask) ||| (v &&& mask)

/-- The bank of a cluster and its byte offset that a placement register names. -/
def placeOf (v : Word) : Nat × Nat := (bits v 19 16, bits v 15 0)

/-- Whether `n` bytes upward from a place lie in SYS banks of a cluster (R53, R366, R368). -/
def State.inSysBanks (s : State) (cluster : Nat) (p : Nat × Nat) (n : Nat) : Bool :=
  decide (p.1 * 65536 + p.2 + n ≤ 2 ^ 20) && (List.range 16).all fun b =>
    (decide ((b + 1) * 65536 ≤ p.1 * 65536 + p.2) || decide (p.1 * 65536 + p.2 + n ≤ b * 65536)) ||
      (((s.cluster cluster).bank b).sys && ((s.cluster cluster).bank b).mode == .scratch)

/-- Whether two runs of bytes of a cluster's store overlap. -/
def runsOverlap (p : Nat × Nat) (n : Nat) (q : Nat × Nat) (m : Nat) : Bool :=
  overlaps (p.1 * 65536 + p.2) n (q.1 * 65536 + q.2) m

/-- Whether an overflow ring may stand where a write places it (R368): its device is not resident, and the ring lies in SYS
banks, off the record area and off the other devices' rings. -/
def State.ovfOk (s : State) (cluster index : Nat) (v : Word) : Bool :=
  let n := 48 * bits v 47 32
  let p := placeOf v
  let absent := match s.poundOf cluster with
    | none => true
    | some q => q.resident != some (q.record.vdTags.getD index 0) || q.record.vdTags.getD index 0 == 0
  decide (bits v 47 32 ≤ 21845) && p.2 % 16 == 0 && absent && (n == 0 || (s.inSysBanks cluster p n &&
    !runsOverlap p n (placeOf (s.devReg (.saveBase cluster))) 0x20000 &&
    (List.range 8).all fun j => j == index ||
      !runsOverlap p n (placeOf (s.devReg (.ovfRing cluster j))) (48 * bits (s.devReg (.ovfRing cluster j)) 47 32)))

/-- A device register written field by field (R4), in the places that hold it: R53, R68, R89, R330, R332, R335, R341, R345, R354,
R359, R365, R366, R368, R370, R374, R379, R382, R390, R399, R401. MIGVA changes only while its entry is IDLE (entry 80). -/
def State.writeReg (s : State) (reg : DevReg) (v : Word) : State :=
  let put (mask : Word) : State := s.setDevReg reg (field mask (s.devReg reg) v)
  let absent (tag : Nat) : Bool := (s.poundOfTag tag).all fun p => p.resident != some (BitVec.ofNat 16 tag)
  match reg with
  | .bankCfg c b => s.modCluster c (·.modBank b fun k => { k with sys := v.getLsbD 7 })
  | .crPoolBase _ t => if absent t then put 0xFFFFFFFFFFFF0000 else s
  | .crPoolLen _ t => if absent t then put 0x3FFFFFF else s
  | .fpUnion c => s.modCluster c fun k => { k with fpunion := k.fpunion &&& ~~~(v.setWidth 5) }
  | .faultCh _ | .svcCh _ => put (BitVec.allOnes 64)
  | .ptShard _ _ => put 0x3FFFFFF01F
  | .rtRoot _ _ => put 0x3FFFFFFF00
  | .flight _ => put 0x1F
  | .saveBase c => if s.inSysBanks c (placeOf v) 0x20000 then put 0xFFFFF else s
  | .saveXBase _ | .cutBase _ => put (BitVec.allOnes 64)
  | .ovfRing c i => if s.ovfOk c i v then put 0x0000FFFF000FFFFF else s
  | .rte _ _ => put 0xFF8000000000FFFF
  | .emTag _ _ | .emEntry _ _ => put (BitVec.allOnes 64)
  | .emRcb _ _ => put 0xFFFFFFFFFFFFFFC0
  | .rmaBase _ _ => put 0xFFFFFFFFFFFF0003
  | .rmaLen _ _ => put 0xFFFFFFFF
  | .compCtl _ _ => put 0xFC0FFFFF
  | .keyMask n t => s.modPound n fun p => { p with record := { p.record with keyMasks := p.record.keyMasks.set t v } }
  | .migVa t e => s.modStack t (·.modMig e fun m => if m.state = .idle then { m with va := v } else m)
  | .migDst t e => s.modStack t (·.modMig e fun m => { m with dst := v &&& 0xFFFFFF3FFFFFFFFF })
  | .migCtl _ _ => s
  | .poundSch _ => put 0x0000FFFFFFFFFFFF
  | .vdCfg _ => put (BitVec.allOnes 64)
  | .vdTok _ => s
  | .wayOwn t l => s.modStack t (·.modSlice l fun k => { k with wayown := v.setWidth 48 })
  | .wayMon t l i => s.modStack t (·.modSlice l fun k =>
      { k with waymon := k.waymon.setIfInBounds i (v &&& 0x9F1F7F0000001FFF) })
  | .bucket id =>
    let b := lookupKey Bucket.reset id s.buckets
    { s with buckets := insertKey id { b with leak := v.extractLsb' 58 6, mark := v.extractLsb' 32 16 } s.buckets }
  | .chgw _ _ => put 0xFFFFFF
  | .estk _ => s.setDevReg reg (capEstk s.envelope v)
  | .estkUse _ => s

/-- What a device register reads as (R4). -/
def State.readReg (s : State) (reg : DevReg) : Word :=
  match reg with
  | .bankCfg c b =>
    let k := (s.cluster c).bank b
    let mode : Nat := match k.mode with
      | .cache => 0 | .scratch => 1 | .fifo => 2
    BitVec.ofNat 64 (num k.sys * 2 ^ 7 + k.ringCount * 2 ^ 4 + num k.busy.isSome * 2 ^ 3 + mode)
  | .fpUnion c => (s.cluster c).fpunion.setWidth 64
  | .keyMask n t => ((s.poundAt n).bind fun p => p.record.keyMasks[t]?).getD 0
  | .migVa t e => ((s.stack t).migEntry e).va
  | .migDst t e => ((s.stack t).migEntry e).dst
  | .migCtl t e =>
    let m := (s.stack t).migEntry e
    let st : Nat := match m.state with
      | .idle => 0 | .claimed => 1 | .hold => 2 | .copy => 3 | .remap => 4 | .drain => 5 | .forward => 6 | .aborted => 7
    BitVec.ofNat 64 (st * 2 ^ 61 + m.req.toNat * 2 ^ 59 + num m.refused * 2 ^ 58 + num m.retire * 2 ^ 57 +
      min m.held.length 65535 * 2 ^ 32)
  | .vdTok t => (BitVec.ofInt 41 (s.vd t).tokens).setWidth 64
  | .wayOwn t l => ((s.stack t).slice l).wayown.setWidth 64
  | .wayMon t l i => ((s.stack t).slice l).waymon.getD i 0
  | .bucket id =>
    let b := lookupKey Bucket.reset id s.buckets
    BitVec.ofNat 64 (b.leak.toNat * 2 ^ 58 + b.mark.toNat * 2 ^ 32 + num b.fired * 2 ^ 31 + b.count.toNat)
  | .estkUse t => BitVec.ofNat 64 (num (s.stack t).throttled * 2 ^ 63 + (s.stack t).used % 2 ^ 32)
  | r => s.devReg r

end Sys2Proof.Machine
end

