-- ==== Sys2Proof/Machine/Wharf.lean ====
section
/-!
DEFINITION. The wharf: layouts, virtual devices, cache ways, measured boot and the trusted interface (R371 to R389).
-/

namespace Sys2Proof.Machine

/-- Whether the wharf takes commands: it has booted (R385). -/
def State.wharfReady (s : State) : Bool := s.booted

/-! ## Digests and serialised records (R374, R385, R387, R388) -/

/-- The bytes of a digest, the most significant first. -/
def digestBytes (d : BitVec 256) : List Byte := (toBytes 32 d.toNat).reverse

/-- The 64 bytes of a layout record (R374). -/
def recordBytes (r : LayoutRecord) : List Byte :=
  toBytes 8 r.node.toNat ++ ((List.range 8).flatMap fun i => toBytes 2 (r.vdTags.getD i 0).toNat) ++ toBytes 2 r.sysMask.toNat ++
    List.replicate 6 0 ++ (List.range 4).flatMap fun i => toBytes 8 (r.keyMasks.getD i 0).toNat

/-- The devices of a pound, in VDTAG order. -/
def Pound.tags (p : Pound) : List Nat := (p.record.vdTags.filter (· != 0)).map (·.toNat)

/-- A device's entry map as bytes, each word of an entry in turn (R332, R388). -/
def State.entryMapBytes (s : State) (tag : Nat) : List Byte :=
  (List.range 64).flatMap fun n => [DevReg.emTag tag n, .emEntry tag n, .emRcb tag n].flatMap fun r => toBytes 8 (s.devReg r).toNat

/-- The frozen set of a pound in the order of R387. -/
def State.frozenBytes (s : State) (p : Pound) : List Byte :=
  let regs (rs : List DevReg) : List Byte := rs.flatMap fun r => toBytes 8 (s.devReg r).toNat
  recordBytes p.record ++ ((List.range 4).flatMap fun i => toBytes 8 (p.record.keyMasks.getD i 0).toNat) ++
    regs (p.tags.map DevReg.saveXBase) ++ p.tags.flatMap fun t =>
      s.entryMapBytes t ++ regs ((List.range 256).map (DevReg.rte t)) ++
      regs ((List.range 16).flatMap fun w => [DevReg.rmaBase t w, .rmaLen t w]) ++
      regs ((List.range 1024).map (DevReg.compCtl t)) ++
      regs ((nodeClusters p.record.node).flatMap fun c => [DevReg.ptShard c t, .rtRoot c t])

/-! ## Keys (R384) -/

/-- The key slots of a pound: stack and slot. -/
def Pound.keySlots (p : Pound) : List (Nat × Nat) :=
  (List.range 4).flatMap fun t => ((List.range 64).filter fun k => (p.record.keyMasks.getD t 0).getLsbD k).map fun k => (t, k)

/-- A pound's slots hold other keys from now on: drawn anew, or none. -/
def State.newKeys (s : State) (p : Pound) : State :=
  { s with keyGens := p.keySlots.foldl (fun g k => insertKey k (lookupKey 0 k g + 1) g) s.keyGens }

/-! ## Handover (R377) -/

/-- A core as the handover leaves it: a free core of generation 1, but for its residue configuration, its clock, its held
packets and its system boundary. -/
def Core.handed (c : Core) : Core :=
  { Core.reset with
    ctxs := c.ctxs.mapIdx fun _ x => x.killed
    acfgDeg := c.acfgDeg
    acfgFch := c.acfgFch
    cycle := c.cycle
    packets := c.packets
    sysbase := c.sysbase
    l1Epoch := c.l1Epoch }

/-- The banks of a cluster after a handover (R53, R377). -/
def handedBanks (sysMask : BitVec 16) : Vector Bank 16 :=
  Vector.ofFn fun i => if sysMask.getLsbD i.val then { Bank.reset with sys := true, mode := .scratch } else Bank.reset

/-- The handover of a cluster (R377). -/
def State.handover (s : State) (cluster : Nat) (sysMask : BitVec 16) : State :=
  let ns := coresOfCluster cluster
  let mem := clearMem s.mem (csKey cluster 0 0) (csKey (cluster + 1) 0 0)
  let mem := ns.foldl (fun m n => clearMem m (lsKey n 0) (lsKey (n + 1) 0)) mem
  let weights := ns.foldl (fun m n => clearMem m (wsKey n 0) (wsKey (n + 1) 0)) s.weights
  let s : State := { s with mem := mem, weights := weights }
  let s := ns.foldl (fun s n => s.modCore n Core.handed) s
  let s := s.modCore (Config.keeperOf cluster) fun c => { c with l1 := [], icache := [], dtlb := [], itlb := [] }
  s.modCluster cluster fun c =>
    { c with
      banks := handedBanks sysMask
      lines := []
      tlb := []
      ovf := Vector.replicate 8 []
      ovfHead := Vector.replicate 8 0 }

/-- What goes with devices that are torn down: their weirs are freed (R287), and neither a root block nor a budget notice is
remembered for them. -/
def State.dropDevices (s : State) (tags : List Nat) : State :=
  let free (w : Nat × Weir) : Nat × Weir := if w.2.live && tags.contains w.2.tag.toNat then (w.1, w.2.freed) else w
  let stk := s.stk.map fun t => { t with weirs := t.weirs.map free }
  tags.foldl (fun s t => s.modVd t fun v => { v with root := 0 })
    { s with stk := stk, noticed := s.noticed.filter fun b => !tags.contains b.1 }

/-! ## Layouts (R371 to R376) -/

/-- The children of a node, corner first (R371): even levels split along x. -/
def nodeChildren (node : Word) : List Word :=
  let l := nodeLevel node
  let (w, h) := nodeSize l
  let k := nodeCorner node
  let second := if l % 2 = 0 then k + w / 2 else k + 32 * (h / 2)
  [BitVec.ofNat 64 ((l + 1) * 512 + k), BitVec.ofNat 64 ((l + 1) * 512 + second)]

/-- Whether a core holds anything that keeps its device from being idle (R373, R381): a live or saved context, a message, or a
parked item. -/
def Core.hasWork (c : Core) : Bool :=
  c.ctxs.toList.any Ctx.isLive || c.chans.toList.any (fun k => !k.ring.isEmpty || k.presented.isSome || k.count != 0) || !c.spawnQ.isEmpty ||
    !c.outbox.isEmpty || !c.spill.isEmpty || !c.atomQ.isEmpty || !c.sideLog.isEmpty

/-- A core's state for a device: its own while it holds that device, else what was saved of it. -/
def State.coreFor (s : State) (n tag : Nat) : Core :=
  if (s.core n).devTag.toNat = tag then s.core n else lookupKey Core.reset (tag, n) s.saves

/-- Whether a device of a pound has work anywhere: on its cores, saved, or in its overflow rings (R373, R381). -/
def State.deviceWork (s : State) (p : Pound) (tag : Nat) : Bool :=
  p.workers.any (fun n => (s.coreFor n tag).hasWork) || (nodeClusters p.record.node).any fun c =>
    !((s.cluster c).ovf.getD (p.vdIndex (BitVec.ofNat 16 tag)) []).isEmpty

/-- Whether a pound is idle (R373). -/
def State.poundIdle (s : State) (p : Pound) : Bool :=
  p.tags.all fun t => !s.deviceWork p t && (List.range 4).all fun k =>
    (s.stack k).weirs.all (fun w => !(w.2.live && w.2.armed && w.2.tag.toNat == t)) &&
      (s.stack k).mig.all fun m => m.state == .idle || m.tag != t

/-- Whether new records are well formed among the pounds that stay (R372, R374). -/
def recordsOk (stay : List Pound) (rs : List LayoutRecord) : Bool :=
  let tags := (stay.flatMap Pound.tags) ++ rs.flatMap fun r => (r.vdTags.filter (· != 0)).map (·.toNat)
  rs.all (fun r => nodeOk r.node && decide (r.vdTags.length ≤ 8) && r.vdTags.headD 0 != 0 && r.keyMasks.length == 4) && tags.Nodup

/-- The check of R373: one pound split into its children, or two buddies merged into their parent, each pound removed being
UNLOCKED and idle. While no pound exists, one may be carved (entry 22). -/
def State.layoutOk (s : State) (removed : List Nat) (rs : List LayoutRecord) : Bool :=
  let old := s.pounds.filter fun p => removed.contains p.record.node.toNat
  let nodes := rs.map (·.node)
  let shape := match removed, nodes with
    | [n], [a, b] => decide (nodeLevel (BitVec.ofNat 64 n) < 9) && nodeChildren (BitVec.ofNat 64 n) == [a, b]
    | [m, n], [a] => decide (nodeLevel a < 9) && (nodeChildren a == [BitVec.ofNat 64 m, BitVec.ofNat 64 n] ||
        nodeChildren a == [BitVec.ofNat 64 n, BitVec.ofNat 64 m])
    | [], [_] => s.pounds.isEmpty
    | _, _ => false
  shape && old.length == removed.length && old.all (fun p => p.trust == .unlocked && s.poundIdle p) &&
    recordsOk (s.pounds.filter fun p => !removed.contains p.record.node.toNat) rs

/-- The digest over a journal entry (R374). -/
def journalDigest (seq : Word) (removed : List Nat) (rs : List LayoutRecord) : BitVec 256 :=
  Config.sm3 (toBytes 8 seq.toNat ++ (removed.flatMap (toBytes 8)) ++ rs.flatMap recordBytes)

/-- A pound as a commit makes it. -/
def Pound.new (r : LayoutRecord) : Pound := ⟨r, .unlocked, 0, none, 0, none, 0, true, false, true⟩

/-- The commit's end (R375, R377, R384): every affected cluster flips and is handed over, the new pounds' keys are drawn and
their tags open. -/
def State.flipAll (s : State) (j : Journal) : State :=
  let rs := j.records
  let s := s.dropDevices ((s.pounds.filter fun p => j.removed.contains p.record.node).flatMap Pound.tags)
  let s : State := { s with pounds := s.pounds.filter (fun p => !j.removed.contains p.record.node) ++ rs.map Pound.new }
  let s := rs.foldl (fun s r => (nodeClusters r.node).foldl (fun s c => s.handover c r.sysMask) s) s
  let s := rs.foldl (fun s r => s.newKeys (Pound.new r)) s
  { s with shadow := [], journal := some { j with phase := .done } }

/-- LAYOUT_COMMIT (R373, R375): the wharf takes the next step of a change: the check, the tags closed, the shadow registers and
PREPARED; then COMMITTED; then the flips, the tags opened and DONE. -/
def execLayoutCommit (removed : List Nat) (records : List LayoutRecord) (s : State) : Out :=
  .next <|
    let removed := removed.map (· % 2 ^ 13)
    let records := records.map fun r => { r with node := r.node &&& 0x1FFF }
    let olds := removed.map (BitVec.ofNat 64)
    let begin (seq : Word) : State :=
      if !s.layoutOk removed records then s
      else
        let s : State := { s with pounds := s.pounds.map fun p => if olds.contains p.record.node then { p with tagsOpen := false } else p }
        { s with shadow := records, journal := some ⟨seq, .prepared, olds, records, journalDigest seq removed records⟩ }
    if !s.wharfReady then s
    else match s.journal with
      | none => begin 1
      | some j =>
        match j.phase with
        | .done => begin (j.seq + 1)
        | .prepared => if j.removed = olds && j.records = records then { s with journal := some { j with phase := .committed } } else s
        | .committed => if j.removed = olds && j.records = records then s.flipAll j else s

/-- WHARF_RESET (R376, R385): the measurement registers are zero, and boot code first looks at the journal: PREPARED leaves the
old layout and opens its tags again, COMMITTED makes the new one stand. -/
def execWharfReset (s : State) : Out :=
  .next <|
    let s : State := { s with booted := false, mr := Vector.replicate 8 0 }
    match s.journal with
    | none => s
    | some j =>
      match j.phase with
      | .done => s
      | .committed => s.flipAll j
      | .prepared => { s with
          shadow := []
          journal := some { j with phase := .done }
          pounds := s.pounds.map fun p => if j.removed.contains p.record.node then { p with tagsOpen := true } else p }

/-- A measurement register extended (R385). -/
def State.extendMr (s : State) (i : Nat) (digest : Nat) : State :=
  let old : BitVec 256 := s.mr.getD i 0
  { s with mr := s.mr.setIfInBounds i (Config.sm3 (digestBytes old ++ digestBytes (BitVec.ofNat 256 digest))) }

/-- WHARF_BOOT (R385): images that verify extend MR0 on in order, and the wharf is up; one that fails stops the boot. -/
def execWharfBoot (digests : List Nat) (verified : Bool) (s : State) : Out :=
  .next <| if !verified then { s with booted := false }
    else { (digests.take 6).foldl (fun (q : State × Nat) d => (q.1.extendMr q.2 d, q.2 + 1)) (s, 0) |>.1 with booted := true }

/-- EXTEND (R385): an operator value into MR6 or MR7. -/
def execExtend (register digest : Nat) (s : State) : Out :=
  .next <| if s.wharfReady && (register == 6 || register == 7) then s.extendMr register digest else s

/-! ## Virtual devices' schedule (R378 to R381) -/

/-- A device's tokens after a refill (R380). -/
def refilled (t : Int) (allot : Nat) : Int := min (t + allot) (2 * allot)

/-- TOKEN_REFILL (R1, R380): a PERIOD boundary of a pound, once the wharf has counted PERIOD cycles since the last. -/
def execTokenRefill (node : Nat) (s : State) : Out :=
  .next <| match s.poundAt node with
    | none => s
    | some p =>
      let period := bits (s.devReg (.poundSch node)) 31 0
      if period = 0 || s.age (.refill p.record.node.toNat) < period then s
      else (p.tags.foldl (fun s t => s.modVd t fun v =>
        { v with tokens := refilled v.tokens (bits (s.devReg (.vdCfg t)) 63 32) }) s).restart (.refill p.record.node.toNat)

/-- Whether a device of a pound that is not resident is ready and holds tokens (R379, R381). -/
def State.deviceReady (s : State) (p : Pound) (t : Nat) : Bool :=
  s.deviceWork p t && decide (0 < (s.vd t).tokens) && bits (s.devReg (.vdCfg t)) 63 32 != 0

/-- Priority of a device's root region (R29, R381). -/
def State.rootPrio (s : State) (t : Nat) : Nat :=
  match s.regionOf t (s.vd t).root with
  | .ok r => r.prio.toNat
  | .error _ => 0

/-- The device the wharf takes (R381): ready, of the highest priority, the first after the last one chosen. -/
def State.chooseDevice (s : State) (p : Pound) : Option Nat :=
  let ready := p.tags.filter (s.deviceReady p)
  let top := ready.foldl (fun m t => max m (s.rootPrio t)) 0
  let best := ready.filter fun t => s.rootPrio t == top
  let idx (t : Nat) : Nat := p.vdIndex (BitVec.ofNat 16 t)
  match best.find? fun t => decide (p.lastVd < idx t) with
  | some t => some t
  | none => best.head?

/-- The moves of records between the record area and the extensions (R366), for one core. -/
def State.moveRecord (s : State) (core : Nat) (out in_ : BitVec 16) : State :=
  let rec_ := s.recordAt core
  let a := s.extAt core out + 0xE000
  let b := s.extAt core in_ + 0xE000
  let s := s.pinWrite a (s.ownKey core (paStack a)) (readBytes s.mem rec_ 2048)
  let new := (List.range 16).flatMap fun i => toBytes 128 (s.readDram (b + 128 * i) 128 (s.ownKey core (paStack b)))
  { s with mem := writeMem s.mem rec_ new }

/-- A device becomes resident on its pound (R38, R366, R378): its cores may resume; a core that holds no device's state holds
this one's from now on. -/
def State.makeResident (s : State) (p : Pound) (t : Nat) : State :=
  let tag := BitVec.ofNat 16 t
  let s := p.workers.foldl (fun s n =>
    let c := s.core n
    if !c.msgSaved then s.modCore n fun c => { c with devTag := tag, sluiceDue := true }
    else if c.devTag = tag then s else s.moveRecord n c.devTag tag) s
  (s.modPound p.record.node.toNat fun p => { p with resident := some tag, lastVd := p.vdIndex tag }).modVd t
    fun v => { v with held := 0, ending := false }

/-- VD_RESUME (R381): no device being resident, the wharf chooses one and resumes it. -/
def execVdResume (node : Nat) (s : State) : Out :=
  .next <| match s.poundAt node with
    | none => s
    | some p =>
      if !s.wharfReady || p.resident.isSome || p.trust == .error then s
      else match s.chooseDevice p with
        | none => s
        | some t => s.makeResident p t

/-- The slice-end signal sent to every core of a pound, with a grace interval (R38). -/
def State.signalEnd (s : State) (p : Pound) (t grace : Nat) : State :=
  (p.workers.foldl (fun s n => s.modCore n fun c => { c with signal := some grace }) s).modVd t fun v => { v with ending := true }

/-- VD_SLICE_END (R381): the wharf signals the end of the resident device's slice: out of tokens; or past its SLICE, or with
nothing live, while another device is ready. -/
def execVdSliceEnd (node : Nat) (s : State) : Out :=
  .next <| match s.poundAt node with
    | none => s
    | some p =>
      match p.resident with
      | none => s
      | some tag =>
        let t := tag.toNat
        let v := s.vd t
        let slice := bits (s.devReg (.vdCfg t)) 31 0
        let other := p.tags.any fun u => u != t && s.deviceReady p u
        let due := decide (v.tokens ≤ 0) || (slice != 0 && decide (slice ≤ v.held) && other) ||
          (!(p.workers.any fun n => (s.core n).hasWork) && p.tags.any fun u => u != t && s.deviceWork p u)
        if !s.wharfReady || v.ending || !due then s
        else s.signalEnd p t (bits (s.devReg (.poundSch node)) 47 32)

/-! ## Cache ways (R383) -/

/-- One pass of R383 over a slice. -/
def Slice.rebalance (l : Slice) : Slice :=
  let own (k : Nat) : List Nat := (List.range 16).filter fun w => wayOwner l.wayown w == some k
  let valid := (List.range 4).filter fun k => (l.waymon.getD k 0).getLsbD 63
  let hit (k d : Nat) : Int := (((l.hits.getD k (Vector.replicate 17 0)).getD d 0 : Nat) : Int)
  let gain (k : Nat) : Int := if (own k).length < bits (l.waymon.getD k 0) 60 56 then hit k ((own k).length + 1) else -1
  let loss (k : Nat) : Option Int := if bits (l.waymon.getD k 0) 52 48 < (own k).length then some (hit k (own k).length) else none
  let less (a b : Option Int) : Bool := match a, b with
    | some x, some y => decide (x < y)
    | some _, none => true
    | none, _ => false
  let r := valid.foldl (fun (m : Option Nat) k => match m with
    | none => some k
    | some j => if gain j < gain k then some k else some j) none
  let moved := match r with
    | none => l.wayown
    | some r =>
      let d := (valid.filter (· != r)).foldl (fun (m : Option Nat) k => match m with
        | none => some k
        | some j => if less (loss k) (loss j) then some k else some j) none
      match d with
      | none => l.wayown
      | some d =>
        match loss d, (own d).getLast? with
        | some x, some w => if x < gain r then BitVec.ofNat 48 (setBits (l.wayown.setWidth 64) (3 * w + 2) (3 * w) r).toNat else l.wayown
        | _, _ => l.wayown
  { l with wayown := moved, hits := l.hits.map fun h => h.map (· / 2) }

/-- WAY_REBALANCE (R1, R383): once the slice has counted 2^24 cycles since the last. -/
def execWayRebalance (stack slice : Nat) (s : State) : Out :=
  event (unitIn stack slice) <|
    if s.age (.slice stack slice) < 2 ^ 24 then s
    else (s.modStack stack (·.modSlice slice Slice.rebalance)).restart (.slice stack slice)

/-! ## The trusted interface (R386 to R389) -/

/-- A command on the pound at a node. -/
def State.onPound (s : State) (node : Nat) (f : Pound → State) : Out :=
  .next <| match s.poundAt node with
    | none => s
    | some p => if s.wharfReady then f p else s

/-- LOCK (R386): entry closes and the frozen-set digest is computed. -/
def execLock (node : Nat) (s : State) : Out :=
  s.onPound node fun p => if p.trust ≠ .unlocked then s
    else s.modPound node fun p => { p with trust := .locked, frozen := Config.sm3 (s.frozenBytes p) }

/-- UNLOCK (R386): of a LOCKED pound, or of an ERROR pound whose scrub has ended, with fresh keys. -/
def execUnlock (node : Nat) (s : State) : Out :=
  s.onPound node fun p =>
    if p.trust = .locked then s.modPound node fun p => { p with trust := .unlocked }
    else if p.trust = .error && p.scrubbed then
      (s.newKeys p).modPound node fun p => { p with trust := .unlocked, keysLive := true, scrubbed := false, tagsOpen := true }
    else s

/-- The bytes of an interface report before its signature (R388). -/
def State.reportBytes (s : State) (p : Pound) (nonce : Nat) : List Byte :=
  toBytes 4 0x31525856 ++ toBytes 2 1 ++ toBytes 2 p.tags.length ++ (toBytes 64 Config.sm2Public.toNat).reverse ++
    s.mr.toList.flatMap digestBytes ++ recordBytes p.record ++ digestBytes (BitVec.ofNat 256 nonce) ++ digestBytes p.frozen ++
    toBytes 8 p.counter.toNat ++ p.tags.flatMap s.entryMapBytes

/-- REPORT (R386, R388). -/
def execReport (node nonce : Nat) (s : State) : Out :=
  s.onPound node fun p => if p.trust ≠ .locked && p.trust ≠ .run then s
    else
      let p := { p with counter := p.counter + 1 }
      let body := s.reportBytes p nonce
      let all := body ++ (toBytes 64 (Config.sm2Sign (Config.sm3 body)).toNat).reverse
      (s.modPound node fun q => { q with counter := p.counter, report := some (Config.sm3 all) }).print "report"
        (all.map (·.setWidth 64))

/-- ACCEPT (R386): with the digest of the last report. -/
def execAccept (node digest : Nat) (s : State) : Out :=
  s.onPound node fun p => if p.trust = .locked && p.report = some (BitVec.ofNat 256 digest) then
    s.modPound node fun p => { p with trust := .run } else s

/-- What SCRUB and TEARDOWN do (R287, R389): every cluster handed over, save areas and overflow rings cleared, weirs freed, keys
released. -/
def State.scrubPound (s : State) (p : Pound) : State :=
  let s := (nodeClusters p.record.node).foldl (fun s c => s.handover c p.record.sysMask) s
  ({ s with saves := s.saves.filter fun k => !p.tags.contains k.1.1 }.dropDevices p.tags).newKeys p

/-- TEARDOWN (R386): of a RUN pound, scrubbed, with fresh keys. -/
def execTeardown (node : Nat) (s : State) : Out :=
  s.onPound node fun p => if p.trust ≠ .run then s
    else (s.scrubPound p).modPound node fun p => { p with trust := .unlocked, resident := none, report := none }

/-- SCRUB (R386, R389). -/
def execScrub (node : Nat) (s : State) : Out :=
  s.onPound node fun p => if p.trust ≠ .error then s
    else (s.scrubPound p).modPound node fun p => { p with scrubbed := true, resident := none }

/-- The step that enters ERROR (R389): keys zeroised, every context and sluice stopped, the pound's L2 lines dropped, its
outboxes discarded, its tags and windows closed. -/
def State.enterError (s : State) (p : Pound) : State :=
  let s := s.newKeys p
  let s := p.workers.foldl (fun s n => s.modCore n fun c => { c with
    outbox := []
    spill := c.spill.filter fun e => !e.isOut
    stopping := true }) s
  let mine (pa key : Nat) : Bool := (p.record.keyMasks.getD (paStack pa) 0).getLsbD key
  let drop (l : Slice) : Slice := { l with lines := l.lines.filter fun x => !mine x.pa x.key }
  let s : State := { s with stk := s.stk.mapIdx fun _ t => { t with slices := t.slices.mapIdx fun _ l => drop l } }
  s.modPound p.record.node.toNat fun p => { p with trust := .error, keysLive := false, scrubbed := false, tagsOpen := false }

/-- The pound whose frozen set a register belongs to (R387). -/
def State.frozenPound (s : State) (reg : DevReg) : Option Pound :=
  match reg with
  | .keyMask n _ => s.poundAt n
  | .saveXBase t | .rte t _ | .emTag t _ | .emEntry t _ | .emRcb t _ | .rmaBase t _ | .rmaLen t _ | .compCtl t _ | .ptShard _ t
  | .rtRoot _ t => s.poundOfTag t
  | _ => none

/-- A device register written by the wharf or a keeper: a write to the frozen set outside UNLOCKED moves the pound to ERROR
(R386, R387); in ERROR it changes nothing. -/
def State.writeChecked (s : State) (reg : DevReg) (v : Word) : State :=
  match s.frozenPound reg with
  | none => s.writeReg reg v
  | some p =>
    match p.trust with
    | .unlocked => s.writeReg reg v
    | .locked | .run => s.enterError p
    | .error => s

/-- FROZEN_SET_WRITE (R386, R387): a write to a register of a pound's frozen set. -/
def execFrozenSetWrite (node : Nat) (reg : DevReg) (value : Word) (s : State) : Out :=
  .next <| if (s.frozenPound reg).any fun p => p.record.node.toNat == node then s.writeChecked reg value else s

/-- REGISTER_WRITE (R4). -/
def execRegisterWrite (reg : DevReg) (value : Word) (s : State) : Out := .next (s.writeChecked reg value)

/-- CLEAR (R397): an error-counter block set to zero. -/
def execClear (block : Nat) (s : State) : Out :=
  .next { s with errors := insertAt block (Vector.replicate 16 0) s.errors }

/-- PACKAGE_RESET (R4, R9): every register at its reset value and every slot generation 1. What the wharf's non-volatile store
holds survives: layout records and trusted-interface state, the journal and the retired frames (R374, R386, R392). -/
def execPackageReset (s : State) : Out :=
  .next { State.reset with
    pounds := s.pounds.map fun p => { p with resident := none, lastVd := 0 }
    journal := s.journal
    retired := s.retired }

end Sys2Proof.Machine
end

