-- ==== Sys2Proof/Machine/Snivis.lean ====
section
/-!
DEFINITION. The commands of the snivis debugger (R290 to R298, R313 to R315): each acts through the keeper's debug window and the wharf, and uses no issue slot.
-/

namespace Sys2Proof.Machine

/-! ## The session (R313) -/

/-- The session changed. -/
def State.modSnivis (s : State) (f : Snivis → Snivis) : State := { s with snivis := f s.snivis }

/-- The session's pound. -/
def State.snvPound (s : State) : Option Pound := s.snivis.tag.bind s.poundOfTag

/-- ATTACH (R313): a session on the pound of a tag; nothing stops. -/
def execAttach (tag : Nat) (s : State) : Out := .next <| if (s.poundOfTag tag).isSome then s.modSnivis fun v => { v with tag := some tag } else s

/-- The code of a symbol's kind (R303). -/
def symCode : SymKind → Nat
  | .label => 0 | .equ => 1 | .channel => 2 | .pattern => 3 | .body => 4 | .region => 5 | .gang => 6

/-- SYM (R313): the placed value and section of each symbol of a name, with its kind. -/
def execSym (name : String) (s : State) : Out :=
  .next <| s.print "sym" <| (s.snivis.syms.filter fun y => y.name == name).flatMap fun y =>
    [BitVec.ofNat 64 (symCode y.kind), y.value, BitVec.ofNat 64 (y.section_.getD 0xFFFF)]

/-! ## Tables, registers and memory (R290, R298, R313) -/

/-- The code of a channel's kind (R225). -/
def chanCode : ChanKind → Nat
  | .fifo => 0 | .ladle => 1 | .relay => 2

/-- A byte of a core's local store as the debug window shows it (R12, R362): the rings, the side log and the spill ring as the
sluice holds them; nothing past the store's end. What the spec leaves open there is a free value of the byte's place (entry 6). -/
def State.lsByte (s : State) (core off : Nat) : Byte :=
  let c := s.core core
  if off < c.sysbase then BitVec.ofNat 8 (readMem s.mem (lsKey core off) 1)
  else if off < 0x8000 then ((c.sysWord (fun o => Config.freeValue (s.freeCtr + o)) (off / 8 * 8)) >>> (off % 8 * 8)).setWidth 8
  else 0

/-- A little-endian number in a core's local store as the debug window shows it. -/
def State.lsNat (s : State) (core off n : Nat) : Nat := ofBytes ((span off n).map (s.lsByte core))

/-- A command that looks into a local store has drawn the free values it shows. -/
def State.looked (s : State) : State := { s with freeCtr := s.freeCtr + 2 ^ 16 }

/-- What SLUICE prints of an allocated channel: slot, name, kind, depth or threshold, and what it holds: for a FIFO its length and
its entries as they lie in the ring, each a header and four payload words (R12); for a ladle its count, its partial and whether it
presents. -/
def State.chanLine (s : State) (core i : Nat) : List Word :=
  let c := (s.core core).chan i
  let n := c.nm1.toNat + 1
  if !c.alloc then []
  else [BitVec.ofNat 64 i, mkName Config.chip.toNat (if isKeeper core then clusterOf core else core) i c.gen.toNat (s.tagOf core).toNat,
      BitVec.ofNat 64 (chanCode c.kind), BitVec.ofNat 64 (c.nm1.toNat + 1)] ++ match c.kind with
    | .fifo => BitVec.ofNat 64 c.ring.length :: (List.range c.ring.length).flatMap fun j =>
        let at_ := (s.core core).sysbase + 40 * (c.start + (c.headAt + j) % n)
        (List.range 5).map fun w => BitVec.ofNat 64 (s.lsNat core (at_ + 8 * w) 8)
    | .ladle => [BitVec.ofNat 64 c.count, c.part0, c.part1, BitVec.ofNat 64 (num c.presented.isSome)]
    | .relay => [c.target]

/-- What SLUICE prints of an installed pattern: slot, rank, flags, channels, entry, and whether it is enabled. -/
def State.patLine (s : State) (core i : Nat) : List Word :=
  match (s.core core).pat i with
  | none => []
  | some p => [BitVec.ofNat 64 i, p.rank.setWidth 64, BitVec.ofNat 64 (2 * num p.fair + num p.ctrl)] ++
      p.chans.map (·.setWidth 64) ++ [p.entry, BitVec.ofNat 64 (num ((s.core core).enabled p))]

/-- SLUICE (R290, R313): channel and pattern tables and the Ptr values; with `chans` the channels only. -/
def execSluice (core : Nat) (chans : Bool) (s : State) : Out :=
  event (coreIn core) <| State.looked <| s.printText "sluice" (s.coreText core :: if chans then [] else
      ((List.range 32).filterMap (s.core core).pat).map fun p => s.codeText p.entry) <| (List.range 64).flatMap (s.chanLine core) ++
    if chans then [] else (List.range 32).flatMap (s.patLine core) ++ (s.core core).ptr.toList.map (·.setWidth 64)

/-- TRACE_ARRIVALS (R290, R313): each message accepted from now on is printed (`State.traceArrival`). -/
def execTraceArrivals (core : Nat) (chan : Option Nat) (s : State) : Out :=
  event (coreIn core) <| s.modSnivis fun v => { v with traces := v.traces ++ [(core, chan)] }

/-- WATCH_FIRE (R290, R313): each firing from now on is printed with registers of its body (`State.fire`). -/
def execWatchFire (core : Nat) (regs : List SnvReg) (s : State) : Out :=
  event (coreIn core) <| s.modSnivis fun v => { v with watches := (core, regs) :: v.watches.filter fun w => w.1 != core }

/-- POST (R297, R313): one message with status DATA from the host to each channel, in list order, through the port of half code 0. -/
def execPost (chans words : List Word) (s : State) : Out :=
  .next <| match s.snvPound, s.snivis.tag with
    | some p, some t =>
      if p.open_ && !words.isEmpty && words.length ≤ 4 then chans.foldl (fun s n => s.enterPort 0 t n .data (.words words)) s else s
    | _, _ => s

/-- XLATE (R313): the leaf that a core's translation finds, with the target's home slice and set. -/
def execXlate (core : Nat) (va : Word) (s : State) : Out :=
  event (coreIn core) <| match s.leafOfTag (s.tagOf core).toNat va with
    | none => s.printText "xlate" [s.coreText core] []
    | some (pa, l) => s.printText "xlate" [s.coreText core] [l, BitVec.ofNat 64 (paStack pa), BitVec.ofNat 64 (paSlice pa), BitVec.ofNat 64 (paSet pa)]

/-- Whether a context is stopped or frozen, so that the session may look into it (R313). -/
def Core.stopped (c : Core) (k : Nat) : Bool := c.halted || match (c.ctx k).state with
  | .frozen | .saved | .free => true
  | _ => false

/-- REGS (R313). -/
def execRegs (core ctx : Nat) (regs : List SnvReg) (s : State) : Out :=
  event (coreIn core && decide (ctx < 11)) <|
    if (s.core core).stopped ctx then
      s.printText "regs" (s.coreText core :: if regs.contains .pc then [s.codeText ((s.core core).ctx ctx).pc] else [])
        (regs.flatMap ((s.core core).ctx ctx).snv)
    else s

/-- The fields of a stream (R238). -/
def Stream.words : Stream → List Word
  | .off => []
  | .aff b e st i c d => b :: (e.toList.map (·.setWidth 64) ++ st.toList.map (·.signExtend 64) ++ i.toList.map (·.setWidth 64) ++
      [BitVec.ofNat 64 c, BitVec.ofNat 64 (num d)])
  | .skip l k a n v c d => [l, k, a, n, v, c, num d].map (BitVec.ofNat 64)

/-- STREAM (R313). -/
def execStreamCmd (core ctx q : Nat) (s : State) : Out :=
  event (coreIn core && decide (ctx < 11)) <|
    if (s.core core).stopped ctx then s.print "stream" (((s.core core).ctx ctx).readQ (BitVec.ofNat 2 q)).words else s

/-- The decimal digits of a fraction below 2^`e`, all of them. -/
def fractionDigits (e : Nat) : Nat → Nat → List Char
  | _, 0 => []
  | 0, _ => []
  | fuel + 1, n => Nat.digitChar (n * 10 / 2 ^ e) :: fractionDigits e fuel (n * 10 % 2 ^ e)

/-- A binary32 value in decimal (R298). -/
def f32Decimal (b : Nat) : String :=
  let m := b % 2 ^ 23
  let x := b / 2 ^ 23 % 256
  let sign := if b / 2 ^ 31 % 2 = 1 then "-" else ""
  if x = 255 then sign ++ (if m = 0 then "inf" else "nan")
  else
    let man := if x = 0 then m else 2 ^ 23 + m
    let up := if x = 0 then 1 else x
    if 150 ≤ up then sign ++ toString (man * 2 ^ (up - 150)) ++ ".0"
    else
      let e := 150 - up
      let ds := fractionDigits e e (man % 2 ^ e)
      sign ++ toString (man / 2 ^ e) ++ "." ++ (if ds.isEmpty then "0" else String.ofList ds)

/-- MEM (R290, R298, R313): words of a core's local store, as some context of it, stopped or frozen, sees it. -/
def execMem (core off n : Nat) (unit : MemUnit) (s : State) : Out :=
  event (coreIn core) <|
    if !(List.range 11).any (s.core core).stopped then s
    else State.looked <| match unit with
      | .dword => s.printText "mem" [s.coreText core] ((List.range n).map fun i => BitVec.ofNat 64 (s.lsNat core (off + 8 * i) 8))
      | .word => s.printText "mem" [s.coreText core] ((List.range n).map fun i => BitVec.ofNat 64 (s.lsNat core (off + 4 * i) 4))
      | .f32 =>
        let ws := (List.range n).map fun i => s.lsNat core (off + 4 * i) 4
        s.printText "mem" (s.coreText core :: ws.map f32Decimal) (ws.map (BitVec.ofNat 64))

/-- VIEW (R298): the fields of a view register. -/
def execViewCmd (core ctx w : Nat) (s : State) : Out :=
  event (coreIn core && decide (ctx < 11)) (s.print "view" (((s.core core).ctx ctx).snv (.w (BitVec.ofNat 3 w))))

/-! ## The Colander (R298) -/

/-- Whether a request to a Colander concerns a region. -/
def ViewReq.about (id : BitVec 24) : ViewReq → Bool
  | .alloc .. => false
  | .split _ _ _ _ _ v _ | .share _ _ _ _ v => v.region == id
  | .notice _ r _ => r == id

/-- Whether a core is stopped or idle: none of its contexts is about to issue or waits to (R298). -/
def Core.atRest (c : Core) : Bool := (List.range 11).all c.stopped

/-- Whether the Colander has yet to apply a request or notice for a region that a stopped or idle core has issued. -/
def State.regionBusy (s : State) (id : BitVec 24) : Bool :=
  let about (e : OutEntry) : Bool := match e.item with
    | .view _ r => r.about id
    | _ => false
  (s.stack (regionStack id)).colander.queue.any (·.about id) || s.cores.any fun c =>
    c.2.atRest && (c.2.owed.any (fun o => o.region == id) || c.2.outbox.any about || c.2.spill.any fun x => match x with
      | .out e => about e
      | .atom _ => false)

/-- The views that a core's registers and channels hold, its outbox and its relays, each with its place: 0, the core, the context
and the register; or 1, the core and the slot of a channel it stands in or is on its way to. -/
def viewsOn (n : Nat) (c : Core) : List (List Nat × View) :=
  let msg (m : Msg) : List (List Nat × View) := match m.payload with
    | .view v => [([1, nameCore m.name, nameSlot m.name], v)]
    | _ => []
  let out (e : OutEntry) : List (List Nat × View) := match e.item with
    | .msg m => msg m
    | _ => []
  ((List.range 11).flatMap fun k => (c.ctx k).w.toList.mapIdx fun i v => ([0, n, k, i], v)) ++
    ((List.range 64).flatMap fun i => (c.chan i).ring.flatMap fun e => match e.msg.payload with
      | .view v => [([1, n, i], v)]
      | _ => []) ++ c.outbox.flatMap out ++ (c.spill.flatMap fun x => match x with
      | .out e => out e
      | .atom _ => []) ++ c.relays.flatMap msg

/-- Every view of the machine that something holds, with its place (R76): in registers and messages of the cores, of what has been
saved, on the mesh and in the overflow rings, or in a Colander's answer. -/
def State.viewsHeld (s : State) : List (List Nat × View) :=
  let msg (m : Msg) : List (List Nat × View) := match m.payload with
    | .view v => [([1, nameCore m.name, nameSlot m.name], v)]
    | _ => []
  s.cores.flatMap (fun c => viewsOn c.1 c.2) ++ s.saves.flatMap (fun c => viewsOn c.1.2 c.2) ++ s.flight.flatMap (fun f => msg f.msg) ++
    (s.clusters.flatMap fun c => c.2.ovf.toList.flatten.flatMap fun e => match e with
      | .msg _ m => msg m
      | .launch .. => []) ++
    s.answers.flatMap fun a => ([0, a.core, a.ctx, a.dest.toNat], a.view) ::
      (a.back.elim [] fun b => [([0, a.core, a.ctx, b.1.toNat], b.2)])

/-- The rights and the place of a live view of a region. -/
def State.holderOf (s : State) (v : CovView) : Option (Nat × List Nat) :=
  (s.viewsHeld.find? fun h => h.2.live && h.2.region == v.region && h.2.handle == v.handle).map fun h =>
    (4 * num h.2.canW + 2 * num h.2.canR + num h.2.canA, h.1)

/-- COLANDER (R298): once all is applied, the live views of a region, each with its interval, rights and holder, and the cover count
of each span, all ones for a freed one. -/
def execColander (region : Nat) (s : State) : Out :=
  .next <|
    let id := BitVec.ofNat 24 region
    let c := (s.stack (regionStack id)).colander
    if s.regionBusy id then s
    else match c.regions.find? (·.id == id) with
      | none => s.print "colander" []
      | some r =>
        let vs := c.views.filter fun v => v.region == id
        s.printText "colander" (vs.filterMap fun v => (s.holderOf v).map fun h => s.coreText (h.2.getD 1 0)) <| vs.flatMap (fun v =>
          [v.handle.setWidth 64, v.lo.setWidth 64, v.hi.setWidth 64] ++
            ((s.holderOf v).elim [] fun h => (h.1 :: h.2).map (BitVec.ofNat 64))) ++
            (List.range r.spans).map fun j => if r.freed.contains j then BitVec.allOnes 64 else BitVec.ofNat 64 (c.coverCount id j)

/-! ## Slices (R291, R292) -/

/-- SLICEOCC of a slice as a CRR reads it (R62). -/
def Slice.occWord (l : Slice) : Word := BitVec.ofNat 64 (l.peak * 2 ^ 16 + l.queue.length)

/-- OCC (R292). -/
def execOcc (core : Nat) (s : State) : Out :=
  event (coreIn core) (s.print "occ" ((s.stack (stackOf core)).slices.toList.map Slice.occWord))

/-- OCC_CLEAR (R62, R292): every PEAK of the core's stack takes the present QDEPTH. -/
def execOccClear (core : Nat) (s : State) : Out :=
  event (coreIn core) <| s.modStack (stackOf core) fun t => { t with slices := t.slices.mapIdx fun _ l => { l with peak := l.queue.length } }

/-- SAMPLE (R292): a slice's register now, with the core's cycle, and from now on at an interval of the core's cycles
(`State.takeSamples`). -/
def execSample (core : Nat) (x : Sampling) (s : State) : Out :=
  event (coreIn core && decide (x.slice < 16) && decide (0 < x.interval)) <|
    let now := (s.core core).cycle
    (s.printText "sample" [s.coreText core] [now, ((s.stack (stackOf core)).slice x.slice).occWord]).modSnivis fun v =>
      { v with samples := (v.samples.filter fun p => !(p.1 == core && p.2.1 == x.slice)) ++ [(core, x.slice, x.interval, now)] }

/-! ## Pre-emption (R293) -/

/-- PREEMPT (R293): the resident device's slice ends with its own grace interval, at once or when a core issues a word. -/
def execPreempt (node grace : Nat) (at_ : Option (Nat × Word)) (s : State) : Out :=
  .next <| match s.poundAt node with
    | none => s
    | some p =>
      match p.resident, at_ with
      | none, _ => s
      | some t, none => s.signalEnd p t.toNat grace
      | some _, some (core, va) => s.modSnivis fun v => { v with stopAt := some (core, va, node, grace) }

/-- The pre-emption that waits for a core's word takes place as the word issues (R293): that core's step 1 begins now, and its
sluice fires nothing from this cycle on; the other cores' signals are on their way. -/
def State.preemptAt (s : State) (core : Nat) (va : Word) : State :=
  match s.snivis.stopAt with
  | none => s
  | some (n, a, node, grace) =>
    if n ≠ core || a ≠ va then s
    else match s.poundAt node with
      | none => s
      | some p =>
        match p.resident with
        | none => s
        | some t => ((s.signalEnd p t.toNat grace).modCore core fun c =>
            { c with signal := none, stopping := true, grace := grace }).modSnivis fun v => { v with stopAt := none }

/-- RESUME_POUND (R293): the device that was resident last is resident again (R38). -/
def execResumePound (node : Nat) (s : State) : Out :=
  .next <| match s.poundAt node with
    | none => s
    | some p =>
      if p.resident.isSome || p.trust == .error then s
      else match p.record.vdTags[p.lastVd]? with
        | none => s
        | some t => if t = 0 then s else s.makeResident p t.toNat

/-- SAVE (R293, R366): a core's part of the pinned save area: its record, then its extension for the session's device, or without
a session for the device the core holds. -/
def execSave (core : Nat) (s : State) : Out :=
  event (decide (core < Config.workers)) <|
    let tag := (s.snivis.tag.map (BitVec.ofNat 16)).getD (s.core core).devTag
    s.printText "save" [s.coreText core] <|
      ((List.range 256).map fun i => BitVec.ofNat 64 (readMem s.mem (s.recordAt core + 8 * i) 8)) ++
        (List.range 8192).map fun i => BitVec.ofNat 64 (readMem s.mem (s.extAt core tag + 8 * i) 8)

/-! ## Tiles and the residue configuration (R296, R297) -/

/-- What Decode gives of a tile's element, as printed: 0 good, 1 corrected with its channel, 2 overflow, 3 mismatch with its
suspects. -/
def RnOut.words : RnOut → List Word
  | .good x => [0, BitVec.ofInt 64 x]
  | .corrected i x => [1, BitVec.ofInt 64 x, BitVec.ofNat 64 i]
  | .overflow x => [2, BitVec.ofInt 64 x]
  | .mismatch m => [3, m.setWidth 64]

/-- TILE (R296): once the tile is not BUSY, its indices 128 to 134, or an element with what Decode would give of it. -/
def execTile (core acc : Nat) (elem : Option (Nat × Nat)) (s : State) : Out :=
  event (coreIn core && decide (acc < 8)) <|
    let c := s.core core
    let t := c.tile acc
    if t.busy then s
    else match elem with
      | none => s.print "tile" ((span 128 7).map t.read)
      | some (i, j) =>
        let w := t.read ((8 * i + j) % 128)
        s.print "tile" (w :: (c.decode w).words)

/-- FLIP (R296): once the tile is not BUSY, one bit of an element changes; refused while a context of the core is RUNNING or
WAITING. -/
def execFlip (core acc row col bit : Nat) (s : State) : Out :=
  event (coreIn core && decide (acc < 8 ∧ row < 16 ∧ col < 8 ∧ bit < 64)) <|
    let c := s.core core
    let t := c.tile acc
    if t.busy || c.ctxs.toList.any (fun x => x.state == .running || x.state == .waiting) then s
    else s.modCore core (·.modTile acc (·.write (8 * row + col) (t.read (8 * row + col) ^^^ BitVec.ofNat 64 (2 ^ bit))))

/-- A context with the operands of the session's ACFG in x5 and x6, x7 free for its result, and neither an open group nor a fault
that waits: those stand again once the word has run. -/
def Ctx.acfgOperands (core deg fch : Nat) (c : Ctx) : Ctx :=
  { c with
    x := (c.x.set 5 (BitVec.ofNat 64 core)).set 6 (BitVec.ofNat 64 (deg % 2 * 8 + fch % 8))
    xfull := c.xfull ||| 0xE0
    group := none
    deferred := [] }

/-- ACFG_COMMAND (R275, R297): the keeper of the core's cluster issues ACFG x5, x6, x7, from its context 0 (entry 83), with what that
word does: the change waits for the core's tiles, each command anew until it is made, a refused configuration raises ILLEGAL in the
keeper, and the old configuration is printed once the change has been made. -/
def execAcfgCommand (core deg fch : Nat) (s : State) : Out :=
  if core < Config.workers then
    let k := Config.keeperOf (clusterOf core)
    let old := ((s.core core).acfgWait.filter fun w => w.keeper == k && w.ctx == 0).bind (·.old)
    let x := (s.core k).ctx 0
    match execAcfg ⟨5, 6, 7⟩ (({ s with cur := (k, 0) } : State).modCtx (Ctx.acfgOperands core deg fch)) with
    | .next t =>
      let t := ({ t with cur := s.cur } : State).modCtxOf k 0 fun c => { c with
        group := if c.state = x.state then x.group else c.group
        deferred := x.deferred ++ c.deferred }
      .next <| match old with
        | none => t
        | some w => (t.modCtxOf k 0 fun c => { c with pc := x.pc }).printText "acfg" [s.coreText core] [w]
    | o => o
  else .fault .noSuchUnit

/-- RESUME_CONTEXT (R297, R363): a FROZEN context of each core named goes on at an address. -/
def execResumeContext (cores : List Nat) (ctx : Nat) (va : Word) (s : State) : Out :=
  event (cores.all coreIn && decide (ctx < 11)) <| cores.foldl (fun s n => s.modCtxOf n ctx fun c =>
    if c.state = .frozen then resumeCtx [] false { c with pc := wordAlign va } else c) s

/-- TRACE_GANG (R297): each start of a gang's barrier is printed from now on (`State.traceGang`). -/
def execTraceGang (lead mask : Nat) (s : State) : Out :=
  event (coreIn lead) <| s.modSnivis fun v => { v with gangs := v.gangs ++ [(lead, mask)] }

/-- WATCH_PC (R298): the registers are printed each time a context of the cores issues the word at an address. -/
def execWatchPc (va : Word) (cores : List Nat) (regs : List SnvReg) (s : State) : Out :=
  event (cores.all coreIn) <| s.modSnivis fun v => { v with pcWatches := v.pcWatches ++ [(va, cores, regs)] }

/-- What a watch prints of a context whose word at an address issues (R298). -/
def State.watchPc (s : State) (core k : Nat) (va : Word) (before : Ctx) : State :=
  (s.snivis.pcWatches.filter fun w => w.1 == va && w.2.1.contains core).foldl (fun s w =>
    s.printText "watch pc" [s.coreText core, s.codeText va] ([BitVec.ofNat 64 core, BitVec.ofNat 64 k] ++ w.2.2.flatMap before.snv)) s

/-! ## Breakpoints (R314, R315) -/

/-- BKPT 0xFFFE (R194). -/
def plantedWord : Word32 := (encode (.bkpt 0xFFFE)).getD 0

/-- A word of code as the home slices hold it, where it is mapped. -/
def State.codeWord (s : State) (tag : Nat) (va : Word) : Option Word32 :=
  (s.leafOfTag tag va).bind fun (pa, l) =>
    if leafTgt l = 0 && s.leafOk tag l pa then some (BitVec.ofNat 32 (s.homeReadN pa (leafKey l) 4)) else none

/-- A word of code as it was before any breakpoint was planted over it. -/
def State.originalWord (s : State) (tag : Nat) (va : Word) : Option Word32 :=
  match s.snivis.breaks.find? fun b => b.va == va with
  | some b => some b.word
  | none => s.codeWord tag va

/-- The first HINT of the group a word stands in, or the word itself (R162, R314). -/
def State.groupStart (s : State) (tag : Nat) (va : Word) : Nat → Word
  | 0 => va
  | n + 1 =>
    match s.originalWord tag (va - 4) with
    | none => va
    | some w => if isHintWord w then s.groupStart tag (va - 4) n else va

/-- A word of code changed, and CINV.line for it on every cluster of a pound (R217, R314). -/
def State.plant (s : State) (p : Pound) (tag : Nat) (va : Word) (w : Word32) : State :=
  match s.leafOfTag tag va with
  | none => s
  | some (pa, l) =>
    let s := s.homeWriteN (ownReq tag va pa (leafKey l)) pa (toBytes 4 w.toNat)
    (nodeClusters p.record.node).foldl (fun s k =>
      (s.modCores (coresOfCluster k) fun c => { c with icache := dropLine c.icache pa }).acquireCode k) s

/-- The least breakpoint number not in use. -/
def Snivis.nextBreak (v : Snivis) : Nat := v.breaks.foldl (fun m b => max m (b.number + 1)) 1

/-- BREAK (R314): BKPT 0xFFFE stands at the word, or at the first HINT of its group, on the cores named, or on all of the pound. -/
def execBreakAt (va : Word) (cores : List Nat) (s : State) : Out :=
  .next <| match s.snvPound, s.snivis.tag with
    | some p, some t =>
      let at_ := s.groupStart t va 3
      (match s.originalWord t at_ with
        | none => s
        | some w => (s.plant p t at_ plantedWord).modSnivis fun v => { v with
            breaks := v.breaks ++ [⟨v.nextBreak, at_, if cores.isEmpty then p.workers else cores, w⟩] })
    | _, _ => s

/-- DELETE (R314): the word stands again once no breakpoint of its address is left. -/
def execDelete (number : Nat) (s : State) : Out :=
  .next <| match s.snvPound, s.snivis.tag with
    | some p, some t =>
      (match s.snivis.breaks.find? fun b => b.number == number with
        | none => s
        | some b =>
          let s := if s.snivis.breaks.any fun x => x.va == b.va && x.number != number then s else s.plant p t b.va b.word
          s.modSnivis fun v => { v with breaks := v.breaks.filter fun x => x.number != number })
    | _, _ => s

/-- Whether a breakpoint has frozen a context: it met the planted word (R314). -/
def Ctx.atPlanted (c : Ctx) : Bool := c.state == .frozen && c.ir == plantedWord

/-- The breakpoint that has frozen a context, while it is planted. -/
def Snivis.breakOf (v : Snivis) (c : Ctx) : Option Breakpoint :=
  if c.atPlanted then v.breaks.find? fun b => b.va == c.pc else none

/-- A context that a breakpoint has frozen goes on: the original word runs, from the step slot while the breakpoint is planted
(R314, R362). -/
def Ctx.passBreak (v : Snivis) (c : Ctx) : Ctx :=
  match v.breakOf c with
  | none => if c.atPlanted then resumeCtx [] false c else c
  | some b => resumeCtx [b.word] false c

/-- A context that a breakpoint has frozen on a core it does not name goes on at once (R314). -/
def State.passForeign (s : State) (core k : Nat) : State :=
  let c := (s.core core).ctx k
  match s.snivis.breakOf c with
  | none => s
  | some b =>
    if s.snivis.breaks.any fun x => x.va == b.va && x.cores.contains core then s else s.modCtxOf core k (Ctx.passBreak s.snivis)

/-- CONT (R314): every context that a breakpoint has frozen goes on, and what holds after it is reported anew (R315). -/
def execCont (s : State) : Out :=
  .next <| match s.snvPound with
    | none => s
    | some p => (s.modCores p.workers fun c => c.modAll (Ctx.passBreak s.snivis)).modSnivis fun v => { v with said := [] }

/-- The contexts of the session's pound, by core. -/
def State.snvContexts (s : State) (p : Pound) : List (Nat × Nat × Ctx) :=
  s.cores.flatMap fun c => if nodeHas p.record.node (clusterOf c.1) && !isKeeper c.1 then
    (List.range 11).map fun k => (c.1, k, c.2.ctx k) else []

/-- Whether a message of a device is on its way: in an outbox or a spill ring, in flight, walking or returning (R315). -/
def State.inFlightOf (s : State) (p : Pound) (tag : Nat) : Bool :=
  s.flight.any (·.tag == tag) || s.walkers.any (fun w => w.item.tag.toNat == tag) || s.cores.any fun c =>
    nodeHas p.record.node (clusterOf c.1) && (!c.2.outbox.isEmpty || !c.2.relays.isEmpty || !c.2.spawnQ.isEmpty ||
      c.2.spill.any Spill.isOut || c.2.sluiceDue)

/-- The contexts of a pound that its breakpoints have frozen, with each breakpoint. -/
def State.stopsOf (s : State) (p : Pound) : List (Nat × Nat × Breakpoint) :=
  (s.snvContexts p).flatMap fun c =>
    (s.snivis.breaks.filter fun b => c.2.2.atPlanted && b.va == c.2.2.pc && b.cores.contains c.1).map fun b => (c.1, c.2.1, b)

/-- The reports of R315 whose conditions hold, each for itself: a stop, with every context a breakpoint has frozen, once no context
of the pound is RUNNING, LOADING or SAVED; idle, once no context is live and no message is in flight; and that no context is
runnable, once every live context is FROZEN. -/
def State.reports (s : State) : List (String × List Word) :=
  match s.snvPound, s.snivis.tag with
  | some p, some t =>
    let cs := s.snvContexts p
    let states (f : CtxState → Bool) : Bool := cs.any fun c => f c.2.2.state
    let at_ := s.stopsOf p
    (if !at_.isEmpty && !states (fun x => x == .running || x == .loading || x == .saved) then
      [("breakpoint", at_.flatMap fun b => [BitVec.ofNat 64 b.2.2.number, BitVec.ofNat 64 b.1, BitVec.ofNat 64 b.2.1])] else []) ++
    (if !states (· != .free) && !s.inFlightOf p t then [("idle", [BitVec.ofNat 64 t])] else []) ++
    if states (· != .free) && !states (fun x => x != .free && x != .frozen) then [("no context runnable", [])] else []
  | _, _ => []

/-- The reports that have come to hold, printed once each (R315). -/
def State.report (s : State) : State :=
  if s.snivis.tag.isNone then s
  else
    let now := s.reports
    let text (r : String × List Word) : List String :=
      if r.1 = "breakpoint" then (s.snvPound.elim [] s.stopsOf).flatMap fun b => [s.coreText b.1, s.codeText b.2.2.va] else []
    (now.filter fun r => !s.snivis.said.contains r).foldl (fun s r => s.printText r.1 (text r) r.2)
      (s.modSnivis fun v => { v with said := now })

end Sys2Proof.Machine
end

