-- ==== Sys2Proof/Machine/Dispatch.lean ====
section
/-!
DEFINITION. The one match that gives every operation of the table to its meaning.
-/

namespace Sys2Proof.Machine

/-- What an operation does to a state (spec/opcode_table.json, one arm per row). -/
def exec (i : Instr) (s : State) : Host.Outcome State Fault Refusal :=
  match i with
  | .add o => Sys2Proof.Machine.execAdd o s
  | .sub o => Sys2Proof.Machine.execSub o s
  | .and o => Sys2Proof.Machine.execAnd o s
  | .or o => Sys2Proof.Machine.execOr o s
  | .xor o => Sys2Proof.Machine.execXor o s
  | .andn o => Sys2Proof.Machine.execAndn o s
  | .orn o => Sys2Proof.Machine.execOrn o s
  | .sll o => Sys2Proof.Machine.execSll o s
  | .srl o => Sys2Proof.Machine.execSrl o s
  | .sra o => Sys2Proof.Machine.execSra o s
  | .rol o => Sys2Proof.Machine.execRol o s
  | .slt o => Sys2Proof.Machine.execSlt o s
  | .sltu o => Sys2Proof.Machine.execSltu o s
  | .seq o => Sys2Proof.Machine.execSeq o s
  | .sne o => Sys2Proof.Machine.execSne o s
  | .min o => Sys2Proof.Machine.execMin o s
  | .max o => Sys2Proof.Machine.execMax o s
  | .minu o => Sys2Proof.Machine.execMinu o s
  | .maxu o => Sys2Proof.Machine.execMaxu o s
  | .clz o => Sys2Proof.Machine.execClz o s
  | .ctz o => Sys2Proof.Machine.execCtz o s
  | .popc o => Sys2Proof.Machine.execPopc o s
  | .brev o => Sys2Proof.Machine.execBrev o s
  | .bswap o => Sys2Proof.Machine.execBswap o s
  | .sext o => Sys2Proof.Machine.execSext o s
  | .zext o => Sys2Proof.Machine.execZext o s
  | .addi o => Sys2Proof.Machine.execAddi o s
  | .andi o => Sys2Proof.Machine.execAndi o s
  | .ori o => Sys2Proof.Machine.execOri o s
  | .xori o => Sys2Proof.Machine.execXori o s
  | .slli o => Sys2Proof.Machine.execSlli o s
  | .srli o => Sys2Proof.Machine.execSrli o s
  | .srai o => Sys2Proof.Machine.execSrai o s
  | .slti o => Sys2Proof.Machine.execSlti o s
  | .sltui o => Sys2Proof.Machine.execSltui o s
  | .lih o => Sys2Proof.Machine.execLih o s
  | .addpc o => Sys2Proof.Machine.execAddpc o s
  | .mul o => Sys2Proof.Machine.execMul o s
  | .mulh o => Sys2Proof.Machine.execMulh o s
  | .mulhu o => Sys2Proof.Machine.execMulhu o s
  | .div o => Sys2Proof.Machine.execDiv o s
  | .divu o => Sys2Proof.Machine.execDivu o s
  | .rem o => Sys2Proof.Machine.execRem o s
  | .remu o => Sys2Proof.Machine.execRemu o s
  | .fadd o => Sys2Proof.Machine.execFadd o s
  | .fsub o => Sys2Proof.Machine.execFsub o s
  | .fmul o => Sys2Proof.Machine.execFmul o s
  | .fdiv o => Sys2Proof.Machine.execFdiv o s
  | .fsqrt o => Sys2Proof.Machine.execFsqrt o s
  | .fmin o => Sys2Proof.Machine.execFmin o s
  | .fmax o => Sys2Proof.Machine.execFmax o s
  | .fcmpEq o => Sys2Proof.Machine.execFcmpEq o s
  | .fcmpLt o => Sys2Proof.Machine.execFcmpLt o s
  | .fcmpLe o => Sys2Proof.Machine.execFcmpLe o s
  | .fcmpUn o => Sys2Proof.Machine.execFcmpUn o s
  | .fclass o => Sys2Proof.Machine.execFclass o s
  | .fcvtToFloat o => Sys2Proof.Machine.execFcvtToFloat o s
  | .fcvtToSigned o => Sys2Proof.Machine.execFcvtToSigned o s
  | .fcvtToUnsigned o => Sys2Proof.Machine.execFcvtToUnsigned o s
  | .fsignB o => Sys2Proof.Machine.execFsignB o s
  | .fsignNb o => Sys2Proof.Machine.execFsignNb o s
  | .fsignX o => Sys2Proof.Machine.execFsignX o s
  | .madd o => Sys2Proof.Machine.execMadd o s
  | .sel o => Sys2Proof.Machine.execSel o s
  | .fma o => Sys2Proof.Machine.execFma o s
  | .crr o => Sys2Proof.Machine.execCrr o s
  | .crw o => Sys2Proof.Machine.execCrw o s
  | .crs o => Sys2Proof.Machine.execCrs o s
  | .crc o => Sys2Proof.Machine.execCrc o s
  | .ld o => Sys2Proof.Machine.execLd o s
  | .st o => Sys2Proof.Machine.execSt o s
  | .lds o => Sys2Proof.Machine.execLds o s
  | .sts o => Sys2Proof.Machine.execSts o s
  | .ldv o => Sys2Proof.Machine.execLdv o s
  | .stv o => Sys2Proof.Machine.execStv o s
  | .ldp o => Sys2Proof.Machine.execLdp o s
  | .stp o => Sys2Proof.Machine.execStp o s
  | .pref o => Sys2Proof.Machine.execPref o s
  | .cflushDrop o => Sys2Proof.Machine.execCflushDrop o s
  | .cflushHome o => Sys2Proof.Machine.execCflushHome o s
  | .cflushClean o => Sys2Proof.Machine.execCflushClean o s
  | .cinvLine o => Sys2Proof.Machine.execCinvLine o s
  | .cinvAll => Sys2Proof.Machine.execCinvAll s
  | .tlbiPage o => Sys2Proof.Machine.execTlbiPage o s
  | .tlbiPound => Sys2Proof.Machine.execTlbiPound s
  | .tlbiAll => Sys2Proof.Machine.execTlbiAll s
  | .bankmode o => Sys2Proof.Machine.execBankmode o s
  | .atomAdd o => Sys2Proof.Machine.execAtomAdd o s
  | .atomAnd o => Sys2Proof.Machine.execAtomAnd o s
  | .atomOr o => Sys2Proof.Machine.execAtomOr o s
  | .atomXor o => Sys2Proof.Machine.execAtomXor o s
  | .atomMin o => Sys2Proof.Machine.execAtomMin o s
  | .atomMax o => Sys2Proof.Machine.execAtomMax o s
  | .atomMinu o => Sys2Proof.Machine.execAtomMinu o s
  | .atomMaxu o => Sys2Proof.Machine.execAtomMaxu o s
  | .atomSwap o => Sys2Proof.Machine.execAtomSwap o s
  | .atomCas o => Sys2Proof.Machine.execAtomCas o s
  | .atomIncb o => Sys2Proof.Machine.execAtomIncb o s
  | .atomDecb o => Sys2Proof.Machine.execAtomDecb o s
  | .atomFadd o => Sys2Proof.Machine.execAtomFadd o s
  | .atomFmin o => Sys2Proof.Machine.execAtomFmin o s
  | .atomFmax o => Sys2Proof.Machine.execAtomFmax o s
  | .atomFaddP2 o => Sys2Proof.Machine.execAtomFaddP2 o s
  | .atomFminP2 o => Sys2Proof.Machine.execAtomFminP2 o s
  | .atomFmaxP2 o => Sys2Proof.Machine.execAtomFmaxP2 o s
  | .atnAdd o => Sys2Proof.Machine.execAtnAdd o s
  | .atnAnd o => Sys2Proof.Machine.execAtnAnd o s
  | .atnOr o => Sys2Proof.Machine.execAtnOr o s
  | .atnXor o => Sys2Proof.Machine.execAtnXor o s
  | .atnMin o => Sys2Proof.Machine.execAtnMin o s
  | .atnMax o => Sys2Proof.Machine.execAtnMax o s
  | .atnMinu o => Sys2Proof.Machine.execAtnMinu o s
  | .atnMaxu o => Sys2Proof.Machine.execAtnMaxu o s
  | .atnSwap o => Sys2Proof.Machine.execAtnSwap o s
  | .atnCas o => Sys2Proof.Machine.execAtnCas o s
  | .atnIncb o => Sys2Proof.Machine.execAtnIncb o s
  | .atnDecb o => Sys2Proof.Machine.execAtnDecb o s
  | .atnFadd o => Sys2Proof.Machine.execAtnFadd o s
  | .atnFmin o => Sys2Proof.Machine.execAtnFmin o s
  | .atnFmax o => Sys2Proof.Machine.execAtnFmax o s
  | .atnFaddP2 o => Sys2Proof.Machine.execAtnFaddP2 o s
  | .atnFminP2 o => Sys2Proof.Machine.execAtnFminP2 o s
  | .atnFmaxP2 o => Sys2Proof.Machine.execAtnFmaxP2 o s
  | .cas128 o => Sys2Proof.Machine.execCas128 o s
  | .fenceAcq scope => Sys2Proof.Machine.execFenceAcq scope s
  | .fenceRel scope => Sys2Proof.Machine.execFenceRel scope s
  | .fenceSc scope => Sys2Proof.Machine.execFenceSc scope s
  | .fenceX o => Sys2Proof.Machine.execFenceX o s
  | .crnew o => Sys2Proof.Machine.execCrnew o s
  | .vsplit o => Sys2Proof.Machine.execVsplit o s
  | .vshare o => Sys2Proof.Machine.execVshare o s
  | .vdemote o => Sys2Proof.Machine.execVdemote o s
  | .vnarrow o => Sys2Proof.Machine.execVnarrow o s
  | .vdrop ws => Sys2Proof.Machine.execVdrop ws s
  | .vquery o => Sys2Proof.Machine.execVquery o s
  | .vmove o => Sys2Proof.Machine.execVmove o s
  | .qcfgAff o => Sys2Proof.Machine.execQcfgAff o s
  | .qcfgSkip o => Sys2Proof.Machine.execQcfgSkip o s
  | .qnext o => Sys2Proof.Machine.execQnext o s
  | .qrd o => Sys2Proof.Machine.execQrd o s
  | .rep o => Sys2Proof.Machine.execRep o s
  | .repx o => Sys2Proof.Machine.execRepx o s
  | .vadd o => Sys2Proof.Machine.execVadd o s
  | .vsub o => Sys2Proof.Machine.execVsub o s
  | .vmul o => Sys2Proof.Machine.execVmul o s
  | .vmulh o => Sys2Proof.Machine.execVmulh o s
  | .vdot o => Sys2Proof.Machine.execVdot o s
  | .vmin o => Sys2Proof.Machine.execVmin o s
  | .vmax o => Sys2Proof.Machine.execVmax o s
  | .vand o => Sys2Proof.Machine.execVand o s
  | .vor o => Sys2Proof.Machine.execVor o s
  | .vxor o => Sys2Proof.Machine.execVxor o s
  | .vsll o => Sys2Proof.Machine.execVsll o s
  | .vsrl o => Sys2Proof.Machine.execVsrl o s
  | .vsra o => Sys2Proof.Machine.execVsra o s
  | .vabs o => Sys2Proof.Machine.execVabs o s
  | .vadds o => Sys2Proof.Machine.execVadds o s
  | .vsubs o => Sys2Proof.Machine.execVsubs o s
  | .vfadd o => Sys2Proof.Machine.execVfadd o s
  | .vfsub o => Sys2Proof.Machine.execVfsub o s
  | .vfmul o => Sys2Proof.Machine.execVfmul o s
  | .vfdiv o => Sys2Proof.Machine.execVfdiv o s
  | .vfsqrt o => Sys2Proof.Machine.execVfsqrt o s
  | .vfmin o => Sys2Proof.Machine.execVfmin o s
  | .vfmax o => Sys2Proof.Machine.execVfmax o s
  | .vfma o => Sys2Proof.Machine.execVfma o s
  | .vld o => Sys2Proof.Machine.execVld o s
  | .vst o => Sys2Proof.Machine.execVst o s
  | .vldq o => Sys2Proof.Machine.execVldq o s
  | .vstq o => Sys2Proof.Machine.execVstq o s
  | .vgath o => Sys2Proof.Machine.execVgath o s
  | .vscat o => Sys2Proof.Machine.execVscat o s
  | .vldf o => Sys2Proof.Machine.execVldf o s
  | .vbcast o => Sys2Proof.Machine.execVbcast o s
  | .vshuf o => Sys2Proof.Machine.execVshuf o s
  | .vzip o => Sys2Proof.Machine.execVzip o s
  | .vuzp o => Sys2Proof.Machine.execVuzp o s
  | .vslide o => Sys2Proof.Machine.execVslide o s
  | .vext o => Sys2Proof.Machine.execVext o s
  | .vins o => Sys2Proof.Machine.execVins o s
  | .vsplat o => Sys2Proof.Machine.execVsplat o s
  | .vredAdd o => Sys2Proof.Machine.execVredAdd o s
  | .vredMin o => Sys2Proof.Machine.execVredMin o s
  | .vredMax o => Sys2Proof.Machine.execVredMax o s
  | .vcvt o => Sys2Proof.Machine.execVcvt o s
  | .vpack o => Sys2Proof.Machine.execVpack o s
  | .vunpk o => Sys2Proof.Machine.execVunpk o s
  | .vcbx o => Sys2Proof.Machine.execVcbx o s
  | .vbxq o => Sys2Proof.Machine.execVbxq o s
  | .vcq4 o => Sys2Proof.Machine.execVcq4 o s
  | .vexp2 o => Sys2Proof.Machine.execVexp2 o s
  | .vlog2 o => Sys2Proof.Machine.execVlog2 o s
  | .vrcp o => Sys2Proof.Machine.execVrcp o s
  | .vrsq o => Sys2Proof.Machine.execVrsq o s
  | .vsin o => Sys2Proof.Machine.execVsin o s
  | .vcos o => Sys2Proof.Machine.execVcos o s
  | .vcmpEq o => Sys2Proof.Machine.execVcmpEq o s
  | .vcmpNe o => Sys2Proof.Machine.execVcmpNe o s
  | .vcmpLt o => Sys2Proof.Machine.execVcmpLt o s
  | .vcmpLe o => Sys2Proof.Machine.execVcmpLe o s
  | .vcmpLtu o => Sys2Proof.Machine.execVcmpLtu o s
  | .vcmpLeu o => Sys2Proof.Machine.execVcmpLeu o s
  | .vmand o => Sys2Proof.Machine.execVmand o s
  | .vmor o => Sys2Proof.Machine.execVmor o s
  | .vmxor o => Sys2Proof.Machine.execVmxor o s
  | .vmnot o => Sys2Proof.Machine.execVmnot o s
  | .vmcnt o => Sys2Proof.Machine.execVmcnt o s
  | .vmfst o => Sys2Proof.Machine.execVmfst o s
  | .mgang o => Sys2Proof.Machine.execMgang o s
  | .mmas o => Sys2Proof.Machine.execMmas o s
  | .mzero acc => Sys2Proof.Machine.execMzero acc s
  | .mdrainI64 o => Sys2Proof.Machine.execMdrainI64 o s
  | .mdrainI32s o => Sys2Proof.Machine.execMdrainI32s o s
  | .mdrainF32 o => Sys2Proof.Machine.execMdrainF32 o s
  | .mdrainF32a o => Sys2Proof.Machine.execMdrainF32a o s
  | .mdrainBf16 o => Sys2Proof.Machine.execMdrainBf16 o s
  | .mdrainc o => Sys2Proof.Machine.execMdrainc o s
  | .ard o => Sys2Proof.Machine.execArd o s
  | .awr o => Sys2Proof.Machine.execAwr o s
  | .achk o => Sys2Proof.Machine.execAchk o s
  | .acfg o => Sys2Proof.Machine.execAcfg o s
  | .cbld ra => Sys2Proof.Machine.execCbld ra s
  | .hintImm payload => Sys2Proof.Machine.execHintImm payload s
  | .hintMod o => Sys2Proof.Machine.execHintMod o s
  | .hintSched o => Sys2Proof.Machine.execHintSched o s
  | .beq o => Sys2Proof.Machine.execBeq o s
  | .bne o => Sys2Proof.Machine.execBne o s
  | .blt o => Sys2Proof.Machine.execBlt o s
  | .bge o => Sys2Proof.Machine.execBge o s
  | .bltu o => Sys2Proof.Machine.execBltu o s
  | .bgeu o => Sys2Proof.Machine.execBgeu o s
  | .jal off => Sys2Proof.Machine.execJal off s
  | .jalr o => Sys2Proof.Machine.execJalr o s
  | .endBody => Sys2Proof.Machine.execEndBody s
  | .trap code => Sys2Proof.Machine.execTrap code s
  | .bkpt code => Sys2Proof.Machine.execBkpt code s
  | .svc code => Sys2Proof.Machine.execSvc code s
  | .send o => Sys2Proof.Machine.execSend o s
  | .sendv o => Sys2Proof.Machine.execSendv o s
  | .sendmPm o => Sys2Proof.Machine.execSendmPm o s
  | .sendmIadd o => Sys2Proof.Machine.execSendmIadd o s
  | .sendmF32 o => Sys2Proof.Machine.execSendmF32 o s
  | .sendmF64 o => Sys2Proof.Machine.execSendmF64 o s
  | .chnew o => Sys2Proof.Machine.execChnew o s
  | .chfree o => Sys2Proof.Machine.execChfree o s
  | .chcfg o => Sys2Proof.Machine.execChcfg o s
  | .chcnt o => Sys2Proof.Machine.execChcnt o s
  | .patset o => Sys2Proof.Machine.execPatset o s
  | .patclr o => Sys2Proof.Machine.execPatclr o s
  | .patrank o => Sys2Proof.Machine.execPatrank o s
  | .relay o => Sys2Proof.Machine.execRelay o s
  | .spawn o => Sys2Proof.Machine.execSpawn o s
  | .hstart o => Sys2Proof.Machine.execHstart o s
  | .hstat rd => Sys2Proof.Machine.execHstat rd s
  | .cbcfgSet o => Sys2Proof.Machine.execCbcfgSet o s
  | .cbcfgState o => Sys2Proof.Machine.execCbcfgState o s
  | .cbcfgRebuild o => Sys2Proof.Machine.execCbcfgRebuild o s
  | .cbcfgClear o => Sys2Proof.Machine.execCbcfgClear o s
  | .cbret o => Sys2Proof.Machine.execCbret o s
  | .cbcnt o => Sys2Proof.Machine.execCbcnt o s
  | .cbaudit o => Sys2Proof.Machine.execCbaudit o s
  | .rnfwd o => Sys2Proof.Machine.execRnfwd o s
  | .rnrev o => Sys2Proof.Machine.execRnrev o s
  | .rnadd o => Sys2Proof.Machine.execRnadd o s
  | .rnsub o => Sys2Proof.Machine.execRnsub o s
  | .rnmul o => Sys2Proof.Machine.execRnmul o s
  | .rnchk o => Sys2Proof.Machine.execRnchk o s
  | .cpy o => Sys2Proof.Machine.execCpy o s
  | .cpya o => Sys2Proof.Machine.execCpya o s
  | .cpyw o => Sys2Proof.Machine.execCpyw o s
  | .cpyg o => Sys2Proof.Machine.execCpyg o s
  | .weirnew o => Sys2Proof.Machine.execWeirnew o s
  | .weiradd o => Sys2Proof.Machine.execWeiradd o s
  | .weirarm o => Sys2Proof.Machine.execWeirarm o s
  | .weirarmFree o => Sys2Proof.Machine.execWeirarmFree o s
  | .weirrd o => Sys2Proof.Machine.execWeirrd o s
  | .sliceoccWrite stack slice => Sys2Proof.Machine.execSliceoccWrite stack slice s
  | .cbReturnApply cluster => Sys2Proof.Machine.execCbReturnApply cluster s
  | .repWordIssue core => Sys2Proof.Machine.execRepWordIssue core s
  | .acfgApply core => Sys2Proof.Machine.execAcfgApply core s
  | .illegalWord w => Sys2Proof.Machine.execIllegalWord w s
  | .packageReset => Sys2Proof.Machine.execPackageReset s
  | .messageAdmit core => Sys2Proof.Machine.execMessageAdmit core s
  | .messageAccept k => Sys2Proof.Machine.execMessageAccept k s
  | .overflowMoveBack core slot => Sys2Proof.Machine.execOverflowMoveBack core slot s
  | .relayForward core => Sys2Proof.Machine.execRelayForward core s
  | .sluiceEvaluate core => Sys2Proof.Machine.execSluiceEvaluate core s
  | .contextLoaded core ctx => Sys2Proof.Machine.execContextLoaded core ctx s
  | .hstartRetry core => Sys2Proof.Machine.execHstartRetry core s
  | .spawnItemArrive k => Sys2Proof.Machine.execSpawnItemArrive k s
  | .registerFill core ctx k => Sys2Proof.Machine.execRegisterFill core ctx k s
  | .storeBufferDrain core => Sys2Proof.Machine.execStoreBufferDrain core s
  | .atomicQueueSend core => Sys2Proof.Machine.execAtomicQueueSend core s
  | .homeAtomicApply k => Sys2Proof.Machine.execHomeAtomicApply k s
  | .sliceRequestAccept k => Sys2Proof.Machine.execSliceRequestAccept k s
  | .sliceAnswer stack slice => Sys2Proof.Machine.execSliceAnswer stack slice s
  | .bankModeDone cluster bank => Sys2Proof.Machine.execBankModeDone cluster bank s
  | .cbSlotStart stack engine => Sys2Proof.Machine.execCbSlotStart stack engine s
  | .cbSlotFilled stack engine => Sys2Proof.Machine.execCbSlotFilled stack engine s
  | .sliceCounterFlush stack slice => Sys2Proof.Machine.execSliceCounterFlush stack slice s
  | .fpunionUpdate cluster => Sys2Proof.Machine.execFpunionUpdate cluster s
  | .colanderAllocate stack => Sys2Proof.Machine.execColanderAllocate stack s
  | .colanderSplit stack => Sys2Proof.Machine.execColanderSplit stack s
  | .colanderShare stack => Sys2Proof.Machine.execColanderShare stack s
  | .colanderNotice stack => Sys2Proof.Machine.execColanderNotice stack s
  | .colanderAnswer k => Sys2Proof.Machine.execColanderAnswer k s
  | .viewNoticeSend core => Sys2Proof.Machine.execViewNoticeSend core s
  | .watchdogExpire core ctx => Sys2Proof.Machine.execWatchdogExpire core ctx s
  | .sliceEndSignal core => Sys2Proof.Machine.execSliceEndSignal core s
  | .graceExpire core => Sys2Proof.Machine.execGraceExpire core s
  | .contextSave core => Sys2Proof.Machine.execContextSave core s
  | .messageStateSave core => Sys2Proof.Machine.execMessageStateSave core s
  | .poundResume core => Sys2Proof.Machine.execPoundResume core s
  | .deferredFaultTake core ctx => Sys2Proof.Machine.execDeferredFaultTake core ctx s
  | .faultPacketResend core => Sys2Proof.Machine.execFaultPacketResend core s
  | .translationWalk cluster => Sys2Proof.Machine.execTranslationWalk cluster s
  | .keeperPtLookup cluster => Sys2Proof.Machine.execKeeperPtLookup cluster s
  | .missdone cluster value => Sys2Proof.Machine.execMissdone cluster value s
  | .sideLogReplay core k => Sys2Proof.Machine.execSideLogReplay core k s
  | .engineCommandStart stack engine => Sys2Proof.Machine.execEngineCommandStart stack engine s
  | .engineCommandDone stack engine => Sys2Proof.Machine.execEngineCommandDone stack engine s
  | .weirCharge stack => Sys2Proof.Machine.execWeirCharge stack s
  | .weirSubtract stack k => Sys2Proof.Machine.execWeirSubtract stack k s
  | .weirAddApply stack => Sys2Proof.Machine.execWeirAddApply stack s
  | .weirArmApply stack => Sys2Proof.Machine.execWeirArmApply stack s
  | .weirCreate stack => Sys2Proof.Machine.execWeirCreate stack s
  | .weirStateRead stack => Sys2Proof.Machine.execWeirStateRead stack s
  | .gangStart core => Sys2Proof.Machine.execGangStart core s
  | .gangTimeout core => Sys2Proof.Machine.execGangTimeout core s
  | .gangOperationDone k => Sys2Proof.Machine.execGangOperationDone k s
  | .taggedSendAccept port asks payload => Sys2Proof.Machine.execTaggedSendAccept port asks payload s
  | .peerMessageReceive port name status holds => Sys2Proof.Machine.execPeerMessageReceive port name status holds s
  | .rmaWrite key off data => Sys2Proof.Machine.execRmaWrite key off data s
  | .rmaRead key off n => Sys2Proof.Machine.execRmaRead key off n s
  | .rmaWriteComplete k => Sys2Proof.Machine.execRmaWriteComplete k s
  | .remoteTargetAck k data poison => Sys2Proof.Machine.execRemoteTargetAck k data poison s
  | .completionAccept k => Sys2Proof.Machine.execCompletionAccept k s
  | .completionTimerExpire tag endpoint => Sys2Proof.Machine.execCompletionTimerExpire tag endpoint s
  | .energyChargePost k => Sys2Proof.Machine.execEnergyChargePost k s
  | .energyIntervalEnd stack => Sys2Proof.Machine.execEnergyIntervalEnd stack s
  | .powerSample milliwatts => Sys2Proof.Machine.execPowerSample milliwatts s
  | .claim stack entry req va => Sys2Proof.Machine.execClaim stack entry req va s
  | .start stack entry => Sys2Proof.Machine.execStart stack entry s
  | .migRelease stack entry => Sys2Proof.Machine.execMigRelease stack entry s
  | .cancel stack entry => Sys2Proof.Machine.execCancel stack entry s
  | .migrationHoldReady stack entry => Sys2Proof.Machine.execMigrationHoldReady stack entry s
  | .migrationCopyDone stack entry => Sys2Proof.Machine.execMigrationCopyDone stack entry s
  | .migrationRemapDone stack entry => Sys2Proof.Machine.execMigrationRemapDone stack entry s
  | .migrationDrainDone stack entry => Sys2Proof.Machine.execMigrationDrainDone stack entry s
  | .debugWindowWrite core offset value => Sys2Proof.Machine.execDebugWindowWrite core offset value s
  | .stop core => Sys2Proof.Machine.execStop core s
  | .debugResume core slot => Sys2Proof.Machine.execDebugResume core slot s
  | .restart core => Sys2Proof.Machine.execRestart core s
  | .kill core cause => Sys2Proof.Machine.execKill core cause s
  | .step core slot => Sys2Proof.Machine.execStep core slot s
  | .halt core flight => Sys2Proof.Machine.execHalt core flight s
  | .flightRelease core flight => Sys2Proof.Machine.execFlightRelease core flight s
  | .cut node number => Sys2Proof.Machine.execCut node number s
  | .cutMarkerForward core => Sys2Proof.Machine.execCutMarkerForward core s
  | .coreCutRecord core => Sys2Proof.Machine.execCoreCutRecord core s
  | .engineCutRecord stack engine => Sys2Proof.Machine.execEngineCutRecord stack engine s
  | .portCutInject port => Sys2Proof.Machine.execPortCutInject port s
  | .layoutCommit removed records => Sys2Proof.Machine.execLayoutCommit removed records s
  | .wharfReset => Sys2Proof.Machine.execWharfReset s
  | .wharfBoot digests verified => Sys2Proof.Machine.execWharfBoot digests verified s
  | .extend register digest => Sys2Proof.Machine.execExtend register digest s
  | .tokenRefill node => Sys2Proof.Machine.execTokenRefill node s
  | .vdResume node => Sys2Proof.Machine.execVdResume node s
  | .vdSliceEnd node => Sys2Proof.Machine.execVdSliceEnd node s
  | .wayRebalance stack slice => Sys2Proof.Machine.execWayRebalance stack slice s
  | .lock node => Sys2Proof.Machine.execLock node s
  | .unlock node => Sys2Proof.Machine.execUnlock node s
  | .report node nonce => Sys2Proof.Machine.execReport node nonce s
  | .accept node digest => Sys2Proof.Machine.execAccept node digest s
  | .teardown node => Sys2Proof.Machine.execTeardown node s
  | .scrub node => Sys2Proof.Machine.execScrub node s
  | .frozenSetWrite node reg value => Sys2Proof.Machine.execFrozenSetWrite node reg value s
  | .clear block => Sys2Proof.Machine.execClear block s
  | .envelopeSet watts => Sys2Proof.Machine.execEnvelopeSet watts s
  | .hwErrorDetect place kind => Sys2Proof.Machine.execHwErrorDetect place kind s
  | .bucketLeak unit => Sys2Proof.Machine.execBucketLeak unit s
  | .dramErrorReport stack cell uncorrectable => Sys2Proof.Machine.execDramErrorReport stack cell uncorrectable s
  | .sparingDone stack cell => Sys2Proof.Machine.execSparingDone stack cell s
  | .pairRequestRelease core => Sys2Proof.Machine.execPairRequestRelease core s
  | .memoryCut node number => Sys2Proof.Machine.execMemoryCut node number s
  | .rollback node => Sys2Proof.Machine.execRollback node s
  | .registerWrite reg value => Sys2Proof.Machine.execRegisterWrite reg value s
  | .ngaturAssemble job => Sys2Proof.Machine.execNgaturAssemble job s
  | .attach tag => Sys2Proof.Machine.execAttach tag s
  | .load image request => Sys2Proof.Machine.execLoad image request s
  | .sym name => Sys2Proof.Machine.execSym name s
  | .sluice core chans => Sys2Proof.Machine.execSluice core chans s
  | .traceArrivals core chan => Sys2Proof.Machine.execTraceArrivals core chan s
  | .watchFire core regs => Sys2Proof.Machine.execWatchFire core regs s
  | .post chans words => Sys2Proof.Machine.execPost chans words s
  | .xlate core va => Sys2Proof.Machine.execXlate core va s
  | .regs core ctx regs => Sys2Proof.Machine.execRegs core ctx regs s
  | .streamCmd core ctx q => Sys2Proof.Machine.execStreamCmd core ctx q s
  | .mem core off n unit => Sys2Proof.Machine.execMem core off n unit s
  | .breakAt va cores => Sys2Proof.Machine.execBreakAt va cores s
  | .delete number => Sys2Proof.Machine.execDelete number s
  | .cont => Sys2Proof.Machine.execCont s
  | .occ core => Sys2Proof.Machine.execOcc core s
  | .occClear core => Sys2Proof.Machine.execOccClear core s
  | .sample core sampling => Sys2Proof.Machine.execSample core sampling s
  | .preempt node grace at_ => Sys2Proof.Machine.execPreempt node grace at_ s
  | .resumePound node => Sys2Proof.Machine.execResumePound node s
  | .save core => Sys2Proof.Machine.execSave core s
  | .tile core acc elem => Sys2Proof.Machine.execTile core acc elem s
  | .flip core acc row col bit => Sys2Proof.Machine.execFlip core acc row col bit s
  | .acfgCommand core deg fch => Sys2Proof.Machine.execAcfgCommand core deg fch s
  | .resumeContext cores ctx va => Sys2Proof.Machine.execResumeContext cores ctx va s
  | .traceGang lead mask => Sys2Proof.Machine.execTraceGang lead mask s
  | .watchPc va cores regs => Sys2Proof.Machine.execWatchPc va cores regs s
  | .colander region => Sys2Proof.Machine.execColander region s
  | .viewCmd core ctx w => Sys2Proof.Machine.execViewCmd core ctx w s
  | .drainComplete core => Sys2Proof.Machine.execDrainComplete core s

end Sys2Proof.Machine
end

