-- ==== Sys2Proof/Machine/Settle.lean ====
section
/-!
DEFINITION. What follows every move: counts, charges, stops and waits that end; the clocks; which context of a core issues (R198); and the order of moves when none is asked for.
-/

namespace Sys2Proof.Machine

/-! ## Counters and charges (R190, R340, R399) -/

/-- The performance counters of a core that count an event, raised (R190). -/
def Core.countPerf (c : Core) (ev n : Nat) : Core :=
  if n = 0 then c
  else { c with perf := c.perf.mapIdx fun _ w => if bits w 63 56 = ev && w.getLsbD 55 then setBits w 47 0 (bits w 47 0 + n) else w }

/-- A core's charge of `n` of a class to the block that supplies a budget (R399); none to no block. -/
def State.chargeCore (s : State) (core cls n : Nat) (at_ : Word) : State :=
  let s := s.chargeStack (stackOf core) cls n
  if at_ = 0 then s
  else s.modCore core fun c => { c with energy := addDelta c.energy at_ (n * s.weight (stackOf core) cls) }

/-- What a move has put down to be counted and charged, `before` being the state it began in. -/
def State.settleOne (before s : State) (o : Occur) : State :=
  match o with
  | .issued core k cls seq =>
    (s.modCore core fun c => (c.countPerf 2 1).countPerf 9 (num seq)).chargeCore core cls 1 ((before.core core).ctx k).region.energyAt
  | .l1Miss core => s.modCore core (·.countPerf 4 1)
  | .clMiss core => s.modCore core (·.countPerf 5 1)
  | .sent core => s.modCore core (·.countPerf 6 1)
  | .fired core => s.modCore core (·.countPerf 7 1)
  | .spilled core => s.modCore core (·.countPerf 8 1)
  | .tlbMiss core => s.modCore core (·.countPerf 10 1)
  | .kept .. => s
  | .charge core cls n at_ => s.chargeCore core cls n at_

/-! ## After a word has issued (R162, R293, R298, R314, R363) -/

/-- A context after one of its own words has issued: a word of the step slot is used up, and a context that steps freezes once its
group is over (R363). -/
def Ctx.afterIssue (c : Ctx) : Ctx :=
  let c := { c with slot := c.slot.tail }
  if c.stepping && c.group.isNone && c.state != .free then { c.halt with stepping := false } else c

/-- What follows a word that a context or its sequence has issued: the step, what snivis watches, and a pre-emption that waits for
the word (R293, R298, R363). -/
def State.afterIssue (before s : State) (o : Occur) : State :=
  match o with
  | .issued core k _ bySeq =>
    let c := (before.core core).ctx k
    let va := if bySeq then (c.rep.map fun q => q.at_ + BitVec.ofNat 64 (4 * q.index)).getD c.pc else c.pc
    ((if bySeq then s else s.modCtxOf core k Ctx.afterIssue).watchPc core k va c).preemptAt core va
  | _ => s

/-- Contexts that STOP has named freeze as soon as they may (R363). -/
def Core.stopDue (c : Core) : Core :=
  (List.range 11).foldl (fun d k => if (d.ctx k).stopReq && d.mayStop k then d.modCtx k Ctx.halt else d) c

/-- Contexts in WAITING test again once a register has filled, or the sequencer is free (R26, R155, R242). -/
def Core.wake (before c : Core) : Core :=
  (List.range 11).foldl (fun d k =>
    let a := before.ctx k
    let b := d.ctx k
    if b.state == .waiting && a.state == .waiting && (a.xfull != b.xfull || a.vfull != b.vfull || a.wfull != b.wfull ||
        (before.repOwner.isSome && d.repOwner.isNone)) then d.modCtx k fun x => { x with state := .running } else d) c

/-- A core's deltas that have reached their limits, posted (R92, R399). -/
def State.postDue (s : State) (core : Nat) : State :=
  let c := s.core core
  let s := if overPost c.energy then s.postEnergy core else s
  (List.range 11).foldl (fun s k =>
    if (c.ctx k).fpDelta.toList.any fun n => decide (256 ≤ n) then s.flushCounters core k else s) s

/-- Everything a move leaves to be done at once, `before` being the state it began in: counts and charges, the step slot, stops,
waits that end, charges to post, breakpoints that concern other cores, and snivis's report. -/
def State.settle (before s : State) : State :=
  let os := s.occurs.reverse
  let s := os.foldl (State.settleOne before) { s with occurs := [] }
  let s := os.foldl (State.afterIssue before) s
  let s : State := { s with cores := s.cores.map (fun (c : Nat × Core) => (c.1, (Core.wake (before.core c.1) c.2).stopDue)) }
  let s : State := (s.cores.foldl (fun (s : State) (c : Nat × Core) => s.postDue c.1) s).postUnits
  let s := s.passForeign s.cur.1 s.cur.2
  s.report

/-! ## A core's clock (R25, R37, R190, R269, R340, R369) -/

/-- Whether a context's run counter counts in this cycle (R26, R37, R269). -/
def Ctx.counts (c : Ctx) : Bool :=
  (c.state == .running || c.state == .waiting) && c.arrival.all fun a => a.phase != .waiting

/-- Whether a core's context waits behind another's arrival at the barrier, uncounted (R269). -/
def Core.barredAt (c : Core) (k : Nat) : Bool :=
  let x := c.ctx k
  c.atBarrier.any (·.1 != k) && x.barred.any fun a => a == x.pc || x.rep.any fun q => q.at_ + BitVec.ofNat 64 (4 * q.index) == a

/-- Whether a core's context's run counter counts in this cycle (R26, R37, R269). -/
def Core.counts (c : Core) (k : Nat) : Bool := (c.ctx k).counts && !c.barredAt k

/-- A context's counters after a cycle of its core, in which its run counter counts or not. -/
def Ctx.tick (runs : Bool) (c : Ctx) : Ctx :=
  let c := if runs && c.wdleft != 0 then { c with wdleft := c.wdleft - 1 } else c
  { c with arrival := c.arrival.map fun a => if a.phase == .waiting && a.left != 0 then { a with left := a.left - 1 } else a }

/-- A core after a cycle of its clock: CYCLE, the cycle counters, run counters and barrier timers, the grace interval and the count
of a save, and one core-cycle charged for each live context. A halted core's contexts do not run. -/
def Core.tick (c : Core) : Core :=
  let live := (List.range 11).filter fun k => (c.ctx k).state != .free
  let stuck := live.all fun k => (c.ctx k).state == .waiting || (c.ctx k).state == .xstall
  let stalled := (live.filter fun k => (c.ctx k).state == .xstall).length
  let d := { c with cycle := c.cycle + 1 }
  let d := ((d.countPerf 1 1).countPerf 3 (num (stuck && !live.isEmpty))).countPerf 11 stalled
  if c.halted then d
  else
    let d := (List.range 11).foldl (fun d k => d.modCtx k (Ctx.tick (c.counts k))) d
    { d with
      cycles := live.foldl (fun m k => if (c.ctx k).region.cyclesAt = 0 then m else addDelta m (c.ctx k).region.cyclesAt 1) d.cycles
      grace := if c.stopping && !c.ending then c.grace - 1 else c.grace
      saving := if c.arraysIdle then c.saving.map fun v => (v.1, v.2 - 1) else c.saving }

/-- The samples of slices that the session takes at a core's cycle, printed (R292). -/
def State.takeSamples (s : State) (core : Nat) : State :=
  let now := (s.core core).cycle
  s.snivis.samples.foldl (fun s p =>
    if p.1 = core && (now - p.2.2.2).toNat % p.2.2.1 = 0 then
      s.printText "sample" [s.coreText core] [now, ((s.stack (stackOf core)).slice p.2.1).occWord] else s) s

/-- A cycle of a core's clock (R292: samples are taken; R399: charges are posted every 4,096). -/
def State.tick (s : State) (core : Nat) : State :=
  let s := (s.modCore core Core.tick).takeSamples core
  if bits (s.core core).cycle 11 0 = 0 then s.postEnergy core else s

/-! ## Which context issues (R198) -/

/-- Whether a copy of a pair has as many requests waiting for the other copy as its router holds (R393). -/
def Core.pairFull (c : Core) (k : Nat) : Bool :=
  match c.pairOf k with
  | some p => decide (64 ≤ p.issued.length - p.released)
  | none => false

/-- Whether a context may issue a word in this cycle: RUNNING, with time on its run counter, on a core that runs contexts; a halted
core lets an open group end (R162, R363, R369). -/
def Core.ready (c : Core) (k : Nat) : Bool :=
  let x := c.ctx k
  x.state == .running && (x.wdleft != 0 || !c.counts k) && c.killing.isNone && !c.ending && !c.entering k && (!c.halted || x.group.isSome) && !c.pairFull k

/-- The issue priority of a context: 0 once its count is used up (R198). -/
def Ctx.issuePrio (c : Ctx) : Nat := if c.prioLeft = 0 then 0 else c.prio.toNat

/-- The context that issues, and the core with its round-robin place and its run of slots given by priority (R198). -/
def Core.pick (c : Core) : Option (Nat × Core) :=
  let order := (List.range 11).map fun i => (c.rrNext + i) % 11
  let ready := order.filter c.ready
  let top := ready.foldl (fun m k => max m (c.ctx k).issuePrio) 0
  let byPrio := ready.any fun k => decide ((c.ctx k).issuePrio < top)
  let cand := if 64 ≤ c.prioRun then ready else ready.filter fun k => (c.ctx k).issuePrio == top
  match cand.head? with
  | none => none
  | some k =>
    let run := if 64 ≤ c.prioRun || !byPrio then 0 else if (k + 1) % 11 = c.rrNext then c.prioRun + 1 else 1
    some (k, { c with rrNext := (k + 1) % 11, prioRun := run })

/-- The word the acting context is to issue: the next of the step slot (R362), or the one fetched at its PC (R142). -/
def State.nextWord (s : State) : Did ⊕ (Word32 × State) :=
  match s.ctx.slot with
  | w :: _ => .inr (w, s)
  | [] => s.fetch s.ctx.pc

/-- The acting context with the word it issues (R176), 0 until it is fetched (R360). -/
def State.withWord (s : State) (w : Word32) : State := s.modCtx fun c => { c with ir := w }

/-! ## The wharf's and the ports' clocks (R341, R380) -/

/-- A cycle of the wharf's clock: a resident device spends a token and its slice grows, and each pound's period goes on. -/
def State.wharfTick (s : State) : State :=
  s.pounds.foldl (fun s p =>
    let s := s.older (.refill p.record.node.toNat)
    match p.resident with
    | some t => s.modVd t.toNat fun v => { v with tokens := v.tokens - 1, held := v.held + 1 }
    | none => s) s

/-- A cycle of a port's clock: the timers of its batches (R342), and its posts every 4,096 cycles (R399). -/
def State.portTick (s : State) (port : Nat) : State :=
  let s := s.older (.port port)
  let s := if s.age (.port port) % 4096 = 0 then (s.postPort (2 * port)).postPort (2 * port + 1) else s
  { s with batches := s.batches.map fun b => if b.2.port = port then (b.1, { b.2 with timer := b.2.timer - 1 }) else b }

/-- A cycle of the clock of a stack, a slice, an engine or a bucket's unit (R1). A slice or an engine posts its charges every 4,096
cycles, and a slice adds its event counts every 2^16 (R92, R399). The periods of the pounds go on with the wharf's clock, and the
ports count in `portTick`. -/
def State.clockTick (s : State) (u : Timed) : State :=
  match u with
  | .refill _ | .port _ => s
  | .engine t i =>
    let s := s.older u
    if s.age u % 4096 = 0 then s.postEngine t i else s
  | .stack _ | .bucket _ => s.older u
  | .slice t i =>
    let s := s.older u
    let n := s.age u
    let s := if n % 4096 = 0 then s.postSlice t i else s
    if n % 2 ^ 16 = 0 then s.flushSlice t i else s

/-! ## The order of moves when none is asked for -/

/-- A round of a core: a cycle of its own, its units, and its contexts. -/
noncomputable def coreRound (core : Nat) (c : Core) : List Move :=
  let ev (i : Instr) : Move := .event i
  [.issue core, ev (.repWordIssue core), ev (.sluiceEvaluate core), ev (.hstartRetry core), ev (.relayForward core),
    ev (.viewNoticeSend core), ev (.messageAdmit core), ev (.storeBufferDrain core), ev (.atomicQueueSend core),
    ev (.gangTimeout core), ev (.gangStart core), ev (.drainComplete core), ev (.acfgApply core), ev (.faultPacketResend core),
    ev (.sliceEndSignal core), ev (.graceExpire core), ev (.contextSave core), ev (.messageStateSave core), ev (.poundResume core),
    ev (.cutMarkerForward core), ev (.coreCutRecord core), ev (.pairRequestRelease core)] ++
  (match c.killing with
    | some k => [ev (.kill core k)]
    | none => []) ++
  ((List.range 11).flatMap fun k =>
    let x := c.ctx k
    (if x.state == .loading then [ev (.contextLoaded core k)] else []) ++
    (if x.wdleft = 0 && c.counts k then [ev (.watchdogExpire core k)] else []) ++
    (if x.deferred.isEmpty then [] else [ev (.deferredFaultTake core k)]) ++
    (List.range x.pends.length).reverse.map fun i => ev (.registerFill core k i)) ++
  (List.range c.sideLog.length).reverse.map (fun i => ev (.sideLogReplay core i))

/-- A round of a stack: its slices, its Colander, its weirs, its engines and its migration unit. -/
noncomputable def stackRound (stack : Nat) (t : Stack) : List Move :=
  let ev (i : Instr) : Move := .event i
  ((List.range 16).flatMap fun i =>
    (if (t.slice i).queue.isEmpty then [] else [ev (.sliceAnswer stack i)]) ++
    if (t.slice i).fpDelta.isEmpty then [] else [ev (.sliceCounterFlush stack i)]) ++
  [ev (.colanderAllocate stack), ev (.colanderSplit stack), ev (.colanderShare stack), ev (.colanderNotice stack),
    ev (.weirCharge stack), ev (.weirCreate stack), ev (.weirAddApply stack), ev (.weirArmApply stack), ev (.weirStateRead stack),
    ev (.weirSubtract stack 0)] ++
  ((List.range 16).flatMap fun i => [ev (.cbSlotStart stack i), ev (.cbSlotFilled stack i), ev (.engineCommandStart stack i),
    ev (.engineCommandDone stack i), ev (.engineCutRecord stack i)]) ++
  ((List.range 16).flatMap fun i => match (t.migEntry i).state with
    | .hold => [ev (.migrationHoldReady stack i)]
    | .copy => [ev (.migrationCopyDone stack i)]
    | .remap => [ev (.migrationRemapDone stack i)]
    | .drain => [ev (.migrationDrainDone stack i)]
    | _ => [])

/-- A round of a cluster: messages that move back from overflow, walks, the keeper's lookups, its banks, its rings and its union of
flags. -/
noncomputable def clusterRound (cluster : Nat) (c : Cluster) : List Move :=
  let ev (i : Instr) : Move := .event i
  (c.ovf.toList.flatten.filterMap fun e => match e with
    | .msg home m => some (ev (.overflowMoveBack home (nameSlot m.name)))
    | .launch .. => none) ++
  [ev (.translationWalk cluster), ev (.keeperPtLookup cluster), ev (.cbReturnApply cluster), ev (.fpunionUpdate cluster)] ++
    (List.range 16).map fun b => ev (.bankModeDone cluster b)

/-- One round of the part (entry 25): every unit that can act is asked in turn; one that has nothing to do leaves the state as it is. -/
noncomputable def State.round (s : State) : List Move :=
  let ev (i : Instr) : Move := .event i
  s.cores.flatMap (fun c => coreRound c.1 c.2) ++
  (List.range s.walkers.length).reverse.map (fun k => ev (.spawnItemArrive k)) ++
  (List.range s.flight.length).reverse.flatMap (fun k => [ev (.messageAccept k), ev (.completionAccept k)]) ++
  (List.range s.net.length).reverse.flatMap (fun k => [ev (.sliceRequestAccept k), ev (.homeAtomicApply k)]) ++
  s.net.flatMap (fun r => match r.asker, r.op with
    | .occ .., .write .. => [ev (.sliceoccWrite r.key r.pa)]
    | _, _ => []) ++
  (if s.cuts.isEmpty then [] else (List.range 24).map fun i => ev (.portCutInject i)) ++
  (List.range s.answers.length).reverse.map (fun k => ev (.colanderAnswer k)) ++
  (List.range s.gangOps.length).reverse.map (fun k => ev (.gangOperationDone k)) ++
  (List.range s.rmas.length).reverse.map (fun k => ev (.rmaWriteComplete k)) ++
  (List.range 4).flatMap (fun t => stackRound t (s.stack t)) ++
  s.clusters.flatMap (fun c => clusterRound c.1 c.2) ++
  s.pounds.flatMap (fun p => [ev (.vdResume p.record.node.toNat), ev (.vdSliceEnd p.record.node.toNat)]) ++
  s.batches.filterMap (fun b => if b.2.timer = 0 then some (ev (.completionTimerExpire b.1.1 ⟨b.1.2.1, b.1.2.2⟩)) else none) ++
  s.pounds.map (fun p => ev (.tokenRefill p.record.node.toNat)) ++
  (List.range 4).flatMap (fun t => .clock (.stack t) :: ev (.energyIntervalEnd t) ::
    (List.range 16).flatMap fun i => [.clock (.slice t i), .clock (.engine t i), ev (.wayRebalance t i)]) ++
  s.buckets.flatMap (fun b => [.clock (.bucket b.1), ev (.bucketLeak b.1)]) ++
  .wharf :: (List.range 12).map Move.port

end Sys2Proof.Machine
end

