-- ==== Sys2Proof/Machine/Step.lean ====
section
/-!
DEFINITION. One step of the part: the first move of the agenda, and what an issue of a word is (R142, R198). With it, a word placed where the next step fetches.
-/

namespace Sys2Proof.Machine

/-- What a move comes to once everything it leaves to be done at once is done; `before` is the state it began in. -/
def settled (before : State) : Out → Out
  | .next t => .next (State.settle before t)
  | .fault r => .fault r
  | .refused r => .refused r

/-- Whether a core number is one of the part's (00). -/
def isCore (core : Nat) : Bool := decide (core < Config.workers + Config.clusters)

/-- The state in which a core's context acts, if one may issue: the core's clock has ticked, and the context is the one of
R198; none when no context may. -/
def State.issuer (s : State) (core : Nat) : Option State :=
  if !isCore core || !s.poundUp core then none
  else (s.core core).pick.map fun p => { s.setCore core p.2 with cur := (core, p.1) }

/-- The acting context issues: a fault reported at its next issue (R40), or its next word, decoded and executed (R142). -/
noncomputable def State.issueWord (s : State) : Out :=
  match s.ctx.deferred with
  | d :: _ => .next (s.raiseDeferred s.cur.1 s.cur.2 d)
  | [] =>
    match (s.withWord 0).nextWord with
    | .inl d => d.outcome 0
    | .inr (w, t) =>
      match decode w with
      | .ok i => exec i (t.withWord w)
      | .error _ => exec (.illegalWord w) (t.withWord w)

/-- A move of the agenda. -/
noncomputable def State.move (s : State) : Move → Out
  | .issue core =>
    let s := s.tick core
    match s.issuer core with
    | none => .next s
    | some t => settled t t.issueWord
  | .event i => settled s (exec i s)
  | .tick core => .next (s.tick core)
  | .wharf => .next s.wharfTick
  | .port i => .next (s.portTick i)
  | .clock u => .next (s.clockTick u)

/-- One step of the machine: the first move of the agenda. An empty agenda is filled with a round of every unit's moves
(entry 25), so an issue, an event and a clock cycle are one step each. -/
noncomputable def step (s : State) : Out :=
  match s.agenda with
  | [] => .next { s with agenda := s.round }
  | m :: rest => State.move { s with agenda := rest } m

/-! ## A word placed where the next step fetches (entry 26) -/

/-- The address the placed word lies at, and of the frame behind it. -/
def fetchPlace : Nat := 0x10000

/-- The leaf of the placed page (R347): a local frame that may be read, written and executed, and may hold atomics. -/
def placeLeaf : Word := BitVec.ofNat 64 (2 ^ 63 + 2 ^ 45 + 2 ^ 44 + 2 ^ 43 + 2 ^ 42 + fetchPlace / 2 ^ 16)

/-- The pound a placed word runs in: the whole package, with one virtual device, of tag 1, resident. -/
def placePound : Pound where
  record := ⟨0, [1], 0, [1, 1, 1, 1]⟩
  trust := .unlocked
  frozen := 0
  report := none
  counter := 0
  resident := some 1
  lastVd := 0
  keysLive := true
  scrubbed := true
  tagsOpen := true

/-- A context about to issue the placed word: RUNNING, its registers as they were. -/
def Ctx.placed (c : Ctx) : Ctx :=
  { c with
    pc := BitVec.ofNat 64 fetchPlace
    state := .running
    wdleft := BitVec.allOnes 32
    live := true
    group := none
    rep := none
    stall := none
    deferred := []
    arrival := none
    slot := [] }

/-- A core about to issue the placed word from its context 1, the word's line in its instruction cache. -/
def Core.placed (c : Core) (w : Word32) : Core :=
  let c := c.modCtx 1 Ctx.placed
  { c with
    itlb := pageEntry 1 fetchPlace placeLeaf :: c.itlb
    icache := ⟨fetchPlace, 0, none, 0, w.setWidth 1024, 0, 0⟩ :: c.icache
    rrNext := 1
    prioRun := 64
    halted := false
    killing := none
    ending := false
    devTag := 1
    pairs := [] }

/-- The state with an instruction stored where `step` fetches its next one: at `fetchPlace`, which context 1 of core 0 is
about to issue for a resident device (entry 26). -/
def State.withFetchWord (s : State) (nbits w : Nat) : State :=
  let word := BitVec.ofNat 32 (w % 2 ^ nbits)
  let s := s.modCore 0 fun c => c.placed word
  { s with
    mem := writeMem s.mem fetchPlace (bytesOfWord word)
    poisoned := s.poisoned.filter (· != fetchPlace)
    pounds := [placePound]
    agenda := [.issue 0] }

end Sys2Proof.Machine
end

