-- ==== Sys2Proof/Laws/Encoding.lean ====
section
/-!
SUPPORT. Bit fields of words put together from fields, and words put together from their own fields.
-/

namespace Sys2Proof

theorem fld_cat_lo {n v w lo len : Nat} (a : BitVec v) (b : BitVec w) (hn : n = v + w) (h : lo + len ≤ w) :
    fld (cat n a b) lo len = fld b lo len := by
  subst hn; simp [fld, cat, BitVec.extractLsb'_append_eq_of_add_le h]

theorem fld_cat_hi {n v w lo len : Nat} (a : BitVec v) (b : BitVec w) (hn : n = v + w) (h : w ≤ lo) :
    fld (cat n a b) lo len = fld a (lo - w) len := by
  subst hn; simp [fld, cat, BitVec.extractLsb'_append_eq_of_le h]

theorem fld_self {n : Nat} (a : BitVec n) : fld a 0 n = a := by simp [fld]

theorem flag_cat_lo {n v w k : Nat} (a : BitVec v) (b : BitVec w) (hn : n = v + w) (h : k < w) :
    flag (cat n a b) k = flag b k := by
  subst hn; simp [flag, cat, BitVec.getLsbD_append, h]

theorem flag_cat_hi {n v w k : Nat} (a : BitVec v) (b : BitVec w) (hn : n = v + w) (h : w ≤ k) :
    flag (cat n a b) k = flag a (k - w) := by
  subst hn; simp [flag, cat, BitVec.getLsbD_append, Nat.not_lt.2 h]

theorem flag_ofBool (b : Bool) : flag (BitVec.ofBool b) 0 = b := by cases b <;> rfl

/-- Two neighbouring fields of a word put back together. -/
theorem cat_fld_fld {n w v lo hi m : Nat} (x : BitVec n) (hm : m = v + w) (hh : hi = lo + w) :
    cat m (fld x hi v) (fld x lo w) = fld x lo m := by
  subst hm hh
  ext i hi
  simp only [cat, fld, BitVec.setWidth_eq, BitVec.getElem_append, BitVec.getElem_extractLsb']
  split
  · rfl
  · congr 1; omega

/-- A bit of a word as a field of one bit. -/
theorem ofBool_flag {n : Nat} (x : BitVec n) (k : Nat) : BitVec.ofBool (flag x k) = fld x k 1 := by
  ext i hi
  have : i = 0 := by omega
  subst this
  simp [flag, fld]

end Sys2Proof
end

