-- ==== Sys2Proof/Laws/PerInstr.lean ====
section
/-!
SUPPORT. One lemma per constructor of `Instr` for each family of statements about instructions as syntax: `RoundTrip`, that
the decoder reads an encoded instruction back.
-/

set_option linter.unusedSimpArgs false

namespace Sys2Proof.Laws.RoundTrip

/-- The decoder reads a well-formed instruction's word as that instruction; a step or command has no word. -/
def Statement (i : Instr) : Prop := i.wf = true → ∀ w, encode i = some w → decode w = .ok i

theorem decode_add {w : Word32} (h0 : fld w 26 6 = 1#6) (h1 : fld w 4 5 = 0#5) :
    decode w = accept (.add ⟨fld w 21 5, fld w 16 5, fld w 11 5, fld w 9 2, flag w 3, flag w 2, fld w 0 2⟩) := by
  unfold decode; rw [h0]; change decodeMajor01 w = _; unfold decodeMajor01; rw [h1]; rfl
theorem add (o : Alu2) : Statement (.add o) := by
  intro hw w h
  obtain rfl := Option.some.inj (show some _ = some w from h)
  rw [decode_add] <;> simp [fld_cat_lo, fld_cat_hi, fld_self, flag_cat_lo, flag_cat_hi, flag_ofBool, accept, hw]

theorem decode_sub {w : Word32} (h0 : fld w 26 6 = 1#6) (h1 : fld w 4 5 = 1#5) :
    decode w = accept (.sub ⟨fld w 21 5, fld w 16 5, fld w 11 5, fld w 9 2, flag w 3, flag w 2, fld w 0 2⟩) := by
  unfold decode; rw [h0]; change decodeMajor01 w = _; unfold decodeMajor01; rw [h1]; rfl
theorem sub (o : Alu2) : Statement (.sub o) := by
  intro hw w h
  obtain rfl := Option.some.inj (show some _ = some w from h)
  rw [decode_sub] <;> simp [fld_cat_lo, fld_cat_hi, fld_self, flag_cat_lo, flag_cat_hi, flag_ofBool, accept, hw]

theorem decode_and {w : Word32} (h0 : fld w 26 6 = 1#6) (h1 : fld w 4 5 = 2#5) :
    decode w = accept (.and ⟨fld w 21 5, fld w 16 5, fld w 11 5, fld w 9 2, flag w 3, flag w 2, fld w 0 2⟩) := by
  unfold decode; rw [h0]; change decodeMajor01 w = _; unfold decodeMajor01; rw [h1]; rfl
theorem and (o : Alu2) : Statement (.and o) := by
  intro hw w h
  obtain rfl := Option.some.inj (show some _ = some w from h)
  rw [decode_and] <;> simp [fld_cat_lo, fld_cat_hi, fld_self, flag_cat_lo, flag_cat_hi, flag_ofBool, accept, hw]

theorem decode_or {w : Word32} (h0 : fld w 26 6 = 1#6) (h1 : fld w 4 5 = 3#5) :
    decode w = accept (.or ⟨fld w 21 5, fld w 16 5, fld w 11 5, fld w 9 2, flag w 3, flag w 2, fld w 0 2⟩) := by
  unfold decode; rw [h0]; change decodeMajor01 w = _; unfold decodeMajor01; rw [h1]; rfl
theorem or (o : Alu2) : Statement (.or o) := by
  intro hw w h
  obtain rfl := Option.some.inj (show some _ = some w from h)
  rw [decode_or] <;> simp [fld_cat_lo, fld_cat_hi, fld_self, flag_cat_lo, flag_cat_hi, flag_ofBool, accept, hw]

theorem decode_xor {w : Word32} (h0 : fld w 26 6 = 1#6) (h1 : fld w 4 5 = 4#5) :
    decode w = accept (.xor ⟨fld w 21 5, fld w 16 5, fld w 11 5, fld w 9 2, flag w 3, flag w 2, fld w 0 2⟩) := by
  unfold decode; rw [h0]; change decodeMajor01 w = _; unfold decodeMajor01; rw [h1]; rfl
theorem xor (o : Alu2) : Statement (.xor o) := by
  intro hw w h
  obtain rfl := Option.some.inj (show some _ = some w from h)
  rw [decode_xor] <;> simp [fld_cat_lo, fld_cat_hi, fld_self, flag_cat_lo, flag_cat_hi, flag_ofBool, accept, hw]

theorem decode_andn {w : Word32} (h0 : fld w 26 6 = 1#6) (h1 : fld w 4 5 = 5#5) :
    decode w = accept (.andn ⟨fld w 21 5, fld w 16 5, fld w 11 5, fld w 9 2, flag w 3, flag w 2, fld w 0 2⟩) := by
  unfold decode; rw [h0]; change decodeMajor01 w = _; unfold decodeMajor01; rw [h1]; rfl
theorem andn (o : Alu2) : Statement (.andn o) := by
  intro hw w h
  obtain rfl := Option.some.inj (show some _ = some w from h)
  rw [decode_andn] <;> simp [fld_cat_lo, fld_cat_hi, fld_self, flag_cat_lo, flag_cat_hi, flag_ofBool, accept, hw]

theorem decode_orn {w : Word32} (h0 : fld w 26 6 = 1#6) (h1 : fld w 4 5 = 6#5) :
    decode w = accept (.orn ⟨fld w 21 5, fld w 16 5, fld w 11 5, fld w 9 2, flag w 3, flag w 2, fld w 0 2⟩) := by
  unfold decode; rw [h0]; change decodeMajor01 w = _; unfold decodeMajor01; rw [h1]; rfl
theorem orn (o : Alu2) : Statement (.orn o) := by
  intro hw w h
  obtain rfl := Option.some.inj (show some _ = some w from h)
  rw [decode_orn] <;> simp [fld_cat_lo, fld_cat_hi, fld_self, flag_cat_lo, flag_cat_hi, flag_ofBool, accept, hw]

theorem decode_sll {w : Word32} (h0 : fld w 26 6 = 1#6) (h1 : fld w 4 5 = 8#5) :
    decode w = accept (.sll ⟨fld w 21 5, fld w 16 5, fld w 11 5, fld w 9 2, flag w 3, flag w 2, fld w 0 2⟩) := by
  unfold decode; rw [h0]; change decodeMajor01 w = _; unfold decodeMajor01; rw [h1]; rfl
theorem sll (o : Alu2) : Statement (.sll o) := by
  intro hw w h
  obtain rfl := Option.some.inj (show some _ = some w from h)
  rw [decode_sll] <;> simp [fld_cat_lo, fld_cat_hi, fld_self, flag_cat_lo, flag_cat_hi, flag_ofBool, accept, hw]

theorem decode_srl {w : Word32} (h0 : fld w 26 6 = 1#6) (h1 : fld w 4 5 = 9#5) :
    decode w = accept (.srl ⟨fld w 21 5, fld w 16 5, fld w 11 5, fld w 9 2, flag w 3, flag w 2, fld w 0 2⟩) := by
  unfold decode; rw [h0]; change decodeMajor01 w = _; unfold decodeMajor01; rw [h1]; rfl
theorem srl (o : Alu2) : Statement (.srl o) := by
  intro hw w h
  obtain rfl := Option.some.inj (show some _ = some w from h)
  rw [decode_srl] <;> simp [fld_cat_lo, fld_cat_hi, fld_self, flag_cat_lo, flag_cat_hi, flag_ofBool, accept, hw]

theorem decode_sra {w : Word32} (h0 : fld w 26 6 = 1#6) (h1 : fld w 4 5 = 10#5) :
    decode w = accept (.sra ⟨fld w 21 5, fld w 16 5, fld w 11 5, fld w 9 2, flag w 3, flag w 2, fld w 0 2⟩) := by
  unfold decode; rw [h0]; change decodeMajor01 w = _; unfold decodeMajor01; rw [h1]; rfl
theorem sra (o : Alu2) : Statement (.sra o) := by
  intro hw w h
  obtain rfl := Option.some.inj (show some _ = some w from h)
  rw [decode_sra] <;> simp [fld_cat_lo, fld_cat_hi, fld_self, flag_cat_lo, flag_cat_hi, flag_ofBool, accept, hw]

theorem decode_rol {w : Word32} (h0 : fld w 26 6 = 1#6) (h1 : fld w 4 5 = 11#5) :
    decode w = accept (.rol ⟨fld w 21 5, fld w 16 5, fld w 11 5, fld w 9 2, flag w 3, flag w 2, fld w 0 2⟩) := by
  unfold decode; rw [h0]; change decodeMajor01 w = _; unfold decodeMajor01; rw [h1]; rfl
theorem rol (o : Alu2) : Statement (.rol o) := by
  intro hw w h
  obtain rfl := Option.some.inj (show some _ = some w from h)
  rw [decode_rol] <;> simp [fld_cat_lo, fld_cat_hi, fld_self, flag_cat_lo, flag_cat_hi, flag_ofBool, accept, hw]

theorem decode_slt {w : Word32} (h0 : fld w 26 6 = 1#6) (h1 : fld w 4 5 = 16#5) :
    decode w = accept (.slt ⟨fld w 21 5, fld w 16 5, fld w 11 5, fld w 9 2, flag w 3, flag w 2, fld w 0 2⟩) := by
  unfold decode; rw [h0]; change decodeMajor01 w = _; unfold decodeMajor01; rw [h1]; rfl
theorem slt (o : Alu2) : Statement (.slt o) := by
  intro hw w h
  obtain rfl := Option.some.inj (show some _ = some w from h)
  rw [decode_slt] <;> simp [fld_cat_lo, fld_cat_hi, fld_self, flag_cat_lo, flag_cat_hi, flag_ofBool, accept, hw]

theorem decode_sltu {w : Word32} (h0 : fld w 26 6 = 1#6) (h1 : fld w 4 5 = 17#5) :
    decode w = accept (.sltu ⟨fld w 21 5, fld w 16 5, fld w 11 5, fld w 9 2, flag w 3, flag w 2, fld w 0 2⟩) := by
  unfold decode; rw [h0]; change decodeMajor01 w = _; unfold decodeMajor01; rw [h1]; rfl
theorem sltu (o : Alu2) : Statement (.sltu o) := by
  intro hw w h
  obtain rfl := Option.some.inj (show some _ = some w from h)
  rw [decode_sltu] <;> simp [fld_cat_lo, fld_cat_hi, fld_self, flag_cat_lo, flag_cat_hi, flag_ofBool, accept, hw]

theorem decode_seq {w : Word32} (h0 : fld w 26 6 = 1#6) (h1 : fld w 4 5 = 18#5) :
    decode w = accept (.seq ⟨fld w 21 5, fld w 16 5, fld w 11 5, fld w 9 2, flag w 3, flag w 2, fld w 0 2⟩) := by
  unfold decode; rw [h0]; change decodeMajor01 w = _; unfold decodeMajor01; rw [h1]; rfl
theorem seq (o : Alu2) : Statement (.seq o) := by
  intro hw w h
  obtain rfl := Option.some.inj (show some _ = some w from h)
  rw [decode_seq] <;> simp [fld_cat_lo, fld_cat_hi, fld_self, flag_cat_lo, flag_cat_hi, flag_ofBool, accept, hw]

theorem decode_sne {w : Word32} (h0 : fld w 26 6 = 1#6) (h1 : fld w 4 5 = 19#5) :
    decode w = accept (.sne ⟨fld w 21 5, fld w 16 5, fld w 11 5, fld w 9 2, flag w 3, flag w 2, fld w 0 2⟩) := by
  unfold decode; rw [h0]; change decodeMajor01 w = _; unfold decodeMajor01; rw [h1]; rfl
theorem sne (o : Alu2) : Statement (.sne o) := by
  intro hw w h
  obtain rfl := Option.some.inj (show some _ = some w from h)
  rw [decode_sne] <;> simp [fld_cat_lo, fld_cat_hi, fld_self, flag_cat_lo, flag_cat_hi, flag_ofBool, accept, hw]

theorem decode_min {w : Word32} (h0 : fld w 26 6 = 1#6) (h1 : fld w 4 5 = 20#5) :
    decode w = accept (.min ⟨fld w 21 5, fld w 16 5, fld w 11 5, fld w 9 2, flag w 3, flag w 2, fld w 0 2⟩) := by
  unfold decode; rw [h0]; change decodeMajor01 w = _; unfold decodeMajor01; rw [h1]; rfl
theorem min (o : Alu2) : Statement (.min o) := by
  intro hw w h
  obtain rfl := Option.some.inj (show some _ = some w from h)
  rw [decode_min] <;> simp [fld_cat_lo, fld_cat_hi, fld_self, flag_cat_lo, flag_cat_hi, flag_ofBool, accept, hw]

theorem decode_max {w : Word32} (h0 : fld w 26 6 = 1#6) (h1 : fld w 4 5 = 21#5) :
    decode w = accept (.max ⟨fld w 21 5, fld w 16 5, fld w 11 5, fld w 9 2, flag w 3, flag w 2, fld w 0 2⟩) := by
  unfold decode; rw [h0]; change decodeMajor01 w = _; unfold decodeMajor01; rw [h1]; rfl
theorem max (o : Alu2) : Statement (.max o) := by
  intro hw w h
  obtain rfl := Option.some.inj (show some _ = some w from h)
  rw [decode_max] <;> simp [fld_cat_lo, fld_cat_hi, fld_self, flag_cat_lo, flag_cat_hi, flag_ofBool, accept, hw]

theorem decode_minu {w : Word32} (h0 : fld w 26 6 = 1#6) (h1 : fld w 4 5 = 22#5) :
    decode w = accept (.minu ⟨fld w 21 5, fld w 16 5, fld w 11 5, fld w 9 2, flag w 3, flag w 2, fld w 0 2⟩) := by
  unfold decode; rw [h0]; change decodeMajor01 w = _; unfold decodeMajor01; rw [h1]; rfl
theorem minu (o : Alu2) : Statement (.minu o) := by
  intro hw w h
  obtain rfl := Option.some.inj (show some _ = some w from h)
  rw [decode_minu] <;> simp [fld_cat_lo, fld_cat_hi, fld_self, flag_cat_lo, flag_cat_hi, flag_ofBool, accept, hw]

theorem decode_maxu {w : Word32} (h0 : fld w 26 6 = 1#6) (h1 : fld w 4 5 = 23#5) :
    decode w = accept (.maxu ⟨fld w 21 5, fld w 16 5, fld w 11 5, fld w 9 2, flag w 3, flag w 2, fld w 0 2⟩) := by
  unfold decode; rw [h0]; change decodeMajor01 w = _; unfold decodeMajor01; rw [h1]; rfl
theorem maxu (o : Alu2) : Statement (.maxu o) := by
  intro hw w h
  obtain rfl := Option.some.inj (show some _ = some w from h)
  rw [decode_maxu] <;> simp [fld_cat_lo, fld_cat_hi, fld_self, flag_cat_lo, flag_cat_hi, flag_ofBool, accept, hw]

theorem decode_clz {w : Word32} (h0 : fld w 26 6 = 1#6) (h1 : fld w 4 5 = 24#5) (h2 : fld w 2 1 = 0#1) (h3 : fld w 11 5 = 0#5) :
    decode w = accept (.clz ⟨fld w 21 5, fld w 16 5, fld w 9 2, flag w 3, fld w 0 2⟩) := by
  unfold decode; rw [h0]; change decodeMajor01 w = _; unfold decodeMajor01; rw [h1, h2, h3]; rfl
theorem clz (o : Alu1) : Statement (.clz o) := by
  intro hw w h
  obtain rfl := Option.some.inj (show some _ = some w from h)
  rw [decode_clz] <;> simp [fld_cat_lo, fld_cat_hi, fld_self, flag_cat_lo, flag_cat_hi, flag_ofBool, accept, hw]

theorem decode_ctz {w : Word32} (h0 : fld w 26 6 = 1#6) (h1 : fld w 4 5 = 25#5) (h2 : fld w 2 1 = 0#1) (h3 : fld w 11 5 = 0#5) :
    decode w = accept (.ctz ⟨fld w 21 5, fld w 16 5, fld w 9 2, flag w 3, fld w 0 2⟩) := by
  unfold decode; rw [h0]; change decodeMajor01 w = _; unfold decodeMajor01; rw [h1, h2, h3]; rfl
theorem ctz (o : Alu1) : Statement (.ctz o) := by
  intro hw w h
  obtain rfl := Option.some.inj (show some _ = some w from h)
  rw [decode_ctz] <;> simp [fld_cat_lo, fld_cat_hi, fld_self, flag_cat_lo, flag_cat_hi, flag_ofBool, accept, hw]

theorem decode_popc {w : Word32} (h0 : fld w 26 6 = 1#6) (h1 : fld w 4 5 = 26#5) (h2 : fld w 2 1 = 0#1) (h3 : fld w 11 5 = 0#5) :
    decode w = accept (.popc ⟨fld w 21 5, fld w 16 5, fld w 9 2, flag w 3, fld w 0 2⟩) := by
  unfold decode; rw [h0]; change decodeMajor01 w = _; unfold decodeMajor01; rw [h1, h2, h3]; rfl
theorem popc (o : Alu1) : Statement (.popc o) := by
  intro hw w h
  obtain rfl := Option.some.inj (show some _ = some w from h)
  rw [decode_popc] <;> simp [fld_cat_lo, fld_cat_hi, fld_self, flag_cat_lo, flag_cat_hi, flag_ofBool, accept, hw]

theorem decode_brev {w : Word32} (h0 : fld w 26 6 = 1#6) (h1 : fld w 4 5 = 27#5) (h2 : fld w 2 1 = 0#1) (h3 : fld w 11 5 = 0#5) :
    decode w = accept (.brev ⟨fld w 21 5, fld w 16 5, fld w 9 2, flag w 3, fld w 0 2⟩) := by
  unfold decode; rw [h0]; change decodeMajor01 w = _; unfold decodeMajor01; rw [h1, h2, h3]; rfl
theorem brev (o : Alu1) : Statement (.brev o) := by
  intro hw w h
  obtain rfl := Option.some.inj (show some _ = some w from h)
  rw [decode_brev] <;> simp [fld_cat_lo, fld_cat_hi, fld_self, flag_cat_lo, flag_cat_hi, flag_ofBool, accept, hw]

theorem decode_bswap {w : Word32} (h0 : fld w 26 6 = 1#6) (h1 : fld w 4 5 = 28#5) (h2 : fld w 2 1 = 0#1) (h3 : fld w 11 5 = 0#5) :
    decode w = accept (.bswap ⟨fld w 21 5, fld w 16 5, fld w 9 2, flag w 3, fld w 0 2⟩) := by
  unfold decode; rw [h0]; change decodeMajor01 w = _; unfold decodeMajor01; rw [h1, h2, h3]; rfl
theorem bswap (o : Alu1) : Statement (.bswap o) := by
  intro hw w h
  obtain rfl := Option.some.inj (show some _ = some w from h)
  rw [decode_bswap] <;> simp [fld_cat_lo, fld_cat_hi, fld_self, flag_cat_lo, flag_cat_hi, flag_ofBool, accept, hw]

theorem decode_sext {w : Word32} (h0 : fld w 26 6 = 1#6) (h1 : fld w 4 5 = 29#5) (h2 : fld w 2 1 = 0#1) (h3 : fld w 11 5 = 0#5) :
    decode w = accept (.sext ⟨fld w 21 5, fld w 16 5, fld w 9 2, flag w 3, fld w 0 2⟩) := by
  unfold decode; rw [h0]; change decodeMajor01 w = _; unfold decodeMajor01; rw [h1, h2, h3]; rfl
theorem sext (o : Alu1) : Statement (.sext o) := by
  intro hw w h
  obtain rfl := Option.some.inj (show some _ = some w from h)
  rw [decode_sext] <;> simp [fld_cat_lo, fld_cat_hi, fld_self, flag_cat_lo, flag_cat_hi, flag_ofBool, accept, hw]

theorem decode_zext {w : Word32} (h0 : fld w 26 6 = 1#6) (h1 : fld w 4 5 = 30#5) (h2 : fld w 2 1 = 0#1) (h3 : fld w 11 5 = 0#5) :
    decode w = accept (.zext ⟨fld w 21 5, fld w 16 5, fld w 9 2, flag w 3, fld w 0 2⟩) := by
  unfold decode; rw [h0]; change decodeMajor01 w = _; unfold decodeMajor01; rw [h1, h2, h3]; rfl
theorem zext (o : Alu1) : Statement (.zext o) := by
  intro hw w h
  obtain rfl := Option.some.inj (show some _ = some w from h)
  rw [decode_zext] <;> simp [fld_cat_lo, fld_cat_hi, fld_self, flag_cat_lo, flag_cat_hi, flag_ofBool, accept, hw]

theorem decode_addi {w : Word32} (h0 : fld w 26 6 = 2#6) :
    decode w = accept (.addi ⟨fld w 21 5, fld w 16 5, fld w 1 15, flag w 0⟩) := by
  unfold decode; rw [h0]; change decodeMajor02 w = _; unfold decodeMajor02; rfl
theorem addi (o : ImmI) : Statement (.addi o) := by
  intro hw w h
  obtain rfl := Option.some.inj (show some _ = some w from h)
  rw [decode_addi] <;> simp [fld_cat_lo, fld_cat_hi, fld_self, flag_cat_lo, flag_cat_hi, flag_ofBool, accept, hw]

theorem decode_andi {w : Word32} (h0 : fld w 26 6 = 3#6) :
    decode w = accept (.andi ⟨fld w 21 5, fld w 16 5, fld w 1 15, flag w 0⟩) := by
  unfold decode; rw [h0]; change decodeMajor03 w = _; unfold decodeMajor03; rfl
theorem andi (o : ImmI) : Statement (.andi o) := by
  intro hw w h
  obtain rfl := Option.some.inj (show some _ = some w from h)
  rw [decode_andi] <;> simp [fld_cat_lo, fld_cat_hi, fld_self, flag_cat_lo, flag_cat_hi, flag_ofBool, accept, hw]

theorem decode_ori {w : Word32} (h0 : fld w 26 6 = 4#6) :
    decode w = accept (.ori ⟨fld w 21 5, fld w 16 5, fld w 1 15, flag w 0⟩) := by
  unfold decode; rw [h0]; change decodeMajor04 w = _; unfold decodeMajor04; rfl
theorem ori (o : ImmI) : Statement (.ori o) := by
  intro hw w h
  obtain rfl := Option.some.inj (show some _ = some w from h)
  rw [decode_ori] <;> simp [fld_cat_lo, fld_cat_hi, fld_self, flag_cat_lo, flag_cat_hi, flag_ofBool, accept, hw]

theorem decode_xori {w : Word32} (h0 : fld w 26 6 = 5#6) :
    decode w = accept (.xori ⟨fld w 21 5, fld w 16 5, fld w 1 15, flag w 0⟩) := by
  unfold decode; rw [h0]; change decodeMajor05 w = _; unfold decodeMajor05; rfl
theorem xori (o : ImmI) : Statement (.xori o) := by
  intro hw w h
  obtain rfl := Option.some.inj (show some _ = some w from h)
  rw [decode_xori] <;> simp [fld_cat_lo, fld_cat_hi, fld_self, flag_cat_lo, flag_cat_hi, flag_ofBool, accept, hw]

theorem decode_slli {w : Word32} (h0 : fld w 26 6 = 6#6) (h1 : fld w 7 9 = 0#9) :
    decode w = accept (.slli ⟨fld w 21 5, fld w 16 5, fld w 1 6, flag w 0⟩) := by
  unfold decode; rw [h0]; change decodeMajor06 w = _; unfold decodeMajor06; rw [h1]; rfl
theorem slli (o : ShiftI) : Statement (.slli o) := by
  intro hw w h
  obtain rfl := Option.some.inj (show some _ = some w from h)
  rw [decode_slli] <;> simp [fld_cat_lo, fld_cat_hi, fld_self, flag_cat_lo, flag_cat_hi, flag_ofBool, accept, hw]

theorem decode_srli {w : Word32} (h0 : fld w 26 6 = 6#6) (h1 : fld w 7 9 = 1#9) :
    decode w = accept (.srli ⟨fld w 21 5, fld w 16 5, fld w 1 6, flag w 0⟩) := by
  unfold decode; rw [h0]; change decodeMajor06 w = _; unfold decodeMajor06; rw [h1]; rfl
theorem srli (o : ShiftI) : Statement (.srli o) := by
  intro hw w h
  obtain rfl := Option.some.inj (show some _ = some w from h)
  rw [decode_srli] <;> simp [fld_cat_lo, fld_cat_hi, fld_self, flag_cat_lo, flag_cat_hi, flag_ofBool, accept, hw]

theorem decode_srai {w : Word32} (h0 : fld w 26 6 = 6#6) (h1 : fld w 7 9 = 2#9) :
    decode w = accept (.srai ⟨fld w 21 5, fld w 16 5, fld w 1 6, flag w 0⟩) := by
  unfold decode; rw [h0]; change decodeMajor06 w = _; unfold decodeMajor06; rw [h1]; rfl
theorem srai (o : ShiftI) : Statement (.srai o) := by
  intro hw w h
  obtain rfl := Option.some.inj (show some _ = some w from h)
  rw [decode_srai] <;> simp [fld_cat_lo, fld_cat_hi, fld_self, flag_cat_lo, flag_cat_hi, flag_ofBool, accept, hw]

theorem decode_slti {w : Word32} (h0 : fld w 26 6 = 7#6) :
    decode w = accept (.slti ⟨fld w 21 5, fld w 16 5, fld w 1 15, flag w 0⟩) := by
  unfold decode; rw [h0]; change decodeMajor07 w = _; unfold decodeMajor07; rfl
theorem slti (o : ImmI) : Statement (.slti o) := by
  intro hw w h
  obtain rfl := Option.some.inj (show some _ = some w from h)
  rw [decode_slti] <;> simp [fld_cat_lo, fld_cat_hi, fld_self, flag_cat_lo, flag_cat_hi, flag_ofBool, accept, hw]

theorem decode_sltui {w : Word32} (h0 : fld w 26 6 = 8#6) :
    decode w = accept (.sltui ⟨fld w 21 5, fld w 16 5, fld w 1 15, flag w 0⟩) := by
  unfold decode; rw [h0]; change decodeMajor08 w = _; unfold decodeMajor08; rfl
theorem sltui (o : ImmI) : Statement (.sltui o) := by
  intro hw w h
  obtain rfl := Option.some.inj (show some _ = some w from h)
  rw [decode_sltui] <;> simp [fld_cat_lo, fld_cat_hi, fld_self, flag_cat_lo, flag_cat_hi, flag_ofBool, accept, hw]

theorem decode_lih {w : Word32} (h0 : fld w 26 6 = 9#6) :
    decode w = accept (.lih ⟨fld w 21 5, fld w 0 21⟩) := by
  unfold decode; rw [h0]; change decodeMajor09 w = _; unfold decodeMajor09; rfl
theorem lih (o : ImmU) : Statement (.lih o) := by
  intro hw w h
  obtain rfl := Option.some.inj (show some _ = some w from h)
  rw [decode_lih] <;> simp [fld_cat_lo, fld_cat_hi, fld_self, flag_cat_lo, flag_cat_hi, flag_ofBool, accept, hw]

theorem decode_addpc {w : Word32} (h0 : fld w 26 6 = 10#6) :
    decode w = accept (.addpc ⟨fld w 21 5, fld w 0 21⟩) := by
  unfold decode; rw [h0]; change decodeMajor0A w = _; unfold decodeMajor0A; rfl
theorem addpc (o : ImmU) : Statement (.addpc o) := by
  intro hw w h
  obtain rfl := Option.some.inj (show some _ = some w from h)
  rw [decode_addpc] <;> simp [fld_cat_lo, fld_cat_hi, fld_self, flag_cat_lo, flag_cat_hi, flag_ofBool, accept, hw]

theorem decode_mul {w : Word32} (h0 : fld w 26 6 = 11#6) (h1 : fld w 4 5 = 0#5) :
    decode w = accept (.mul ⟨fld w 21 5, fld w 16 5, fld w 11 5, fld w 9 2, flag w 3, flag w 2, fld w 0 2⟩) := by
  unfold decode; rw [h0]; change decodeMajor0B w = _; unfold decodeMajor0B; rw [h1]; rfl
theorem mul (o : Alu2) : Statement (.mul o) := by
  intro hw w h
  obtain rfl := Option.some.inj (show some _ = some w from h)
  rw [decode_mul] <;> simp [fld_cat_lo, fld_cat_hi, fld_self, flag_cat_lo, flag_cat_hi, flag_ofBool, accept, hw]

theorem decode_mulh {w : Word32} (h0 : fld w 26 6 = 11#6) (h1 : fld w 4 5 = 1#5) :
    decode w = accept (.mulh ⟨fld w 21 5, fld w 16 5, fld w 11 5, fld w 9 2, flag w 3, flag w 2, fld w 0 2⟩) := by
  unfold decode; rw [h0]; change decodeMajor0B w = _; unfold decodeMajor0B; rw [h1]; rfl
theorem mulh (o : Alu2) : Statement (.mulh o) := by
  intro hw w h
  obtain rfl := Option.some.inj (show some _ = some w from h)
  rw [decode_mulh] <;> simp [fld_cat_lo, fld_cat_hi, fld_self, flag_cat_lo, flag_cat_hi, flag_ofBool, accept, hw]

theorem decode_mulhu {w : Word32} (h0 : fld w 26 6 = 11#6) (h1 : fld w 4 5 = 2#5) :
    decode w = accept (.mulhu ⟨fld w 21 5, fld w 16 5, fld w 11 5, fld w 9 2, flag w 3, flag w 2, fld w 0 2⟩) := by
  unfold decode; rw [h0]; change decodeMajor0B w = _; unfold decodeMajor0B; rw [h1]; rfl
theorem mulhu (o : Alu2) : Statement (.mulhu o) := by
  intro hw w h
  obtain rfl := Option.some.inj (show some _ = some w from h)
  rw [decode_mulhu] <;> simp [fld_cat_lo, fld_cat_hi, fld_self, flag_cat_lo, flag_cat_hi, flag_ofBool, accept, hw]

theorem decode_div {w : Word32} (h0 : fld w 26 6 = 11#6) (h1 : fld w 4 5 = 4#5) :
    decode w = accept (.div ⟨fld w 21 5, fld w 16 5, fld w 11 5, fld w 9 2, flag w 3, flag w 2, fld w 0 2⟩) := by
  unfold decode; rw [h0]; change decodeMajor0B w = _; unfold decodeMajor0B; rw [h1]; rfl
theorem div (o : Alu2) : Statement (.div o) := by
  intro hw w h
  obtain rfl := Option.some.inj (show some _ = some w from h)
  rw [decode_div] <;> simp [fld_cat_lo, fld_cat_hi, fld_self, flag_cat_lo, flag_cat_hi, flag_ofBool, accept, hw]

theorem decode_divu {w : Word32} (h0 : fld w 26 6 = 11#6) (h1 : fld w 4 5 = 5#5) :
    decode w = accept (.divu ⟨fld w 21 5, fld w 16 5, fld w 11 5, fld w 9 2, flag w 3, flag w 2, fld w 0 2⟩) := by
  unfold decode; rw [h0]; change decodeMajor0B w = _; unfold decodeMajor0B; rw [h1]; rfl
theorem divu (o : Alu2) : Statement (.divu o) := by
  intro hw w h
  obtain rfl := Option.some.inj (show some _ = some w from h)
  rw [decode_divu] <;> simp [fld_cat_lo, fld_cat_hi, fld_self, flag_cat_lo, flag_cat_hi, flag_ofBool, accept, hw]

theorem decode_rem {w : Word32} (h0 : fld w 26 6 = 11#6) (h1 : fld w 4 5 = 6#5) :
    decode w = accept (.rem ⟨fld w 21 5, fld w 16 5, fld w 11 5, fld w 9 2, flag w 3, flag w 2, fld w 0 2⟩) := by
  unfold decode; rw [h0]; change decodeMajor0B w = _; unfold decodeMajor0B; rw [h1]; rfl
theorem rem (o : Alu2) : Statement (.rem o) := by
  intro hw w h
  obtain rfl := Option.some.inj (show some _ = some w from h)
  rw [decode_rem] <;> simp [fld_cat_lo, fld_cat_hi, fld_self, flag_cat_lo, flag_cat_hi, flag_ofBool, accept, hw]

theorem decode_remu {w : Word32} (h0 : fld w 26 6 = 11#6) (h1 : fld w 4 5 = 7#5) :
    decode w = accept (.remu ⟨fld w 21 5, fld w 16 5, fld w 11 5, fld w 9 2, flag w 3, flag w 2, fld w 0 2⟩) := by
  unfold decode; rw [h0]; change decodeMajor0B w = _; unfold decodeMajor0B; rw [h1]; rfl
theorem remu (o : Alu2) : Statement (.remu o) := by
  intro hw w h
  obtain rfl := Option.some.inj (show some _ = some w from h)
  rw [decode_remu] <;> simp [fld_cat_lo, fld_cat_hi, fld_self, flag_cat_lo, flag_cat_hi, flag_ofBool, accept, hw]

theorem decode_fadd {w : Word32} (h0 : fld w 26 6 = 12#6) (h1 : fld w 4 7 = 0#7) :
    decode w = accept (.fadd ⟨fld w 21 5, fld w 16 5, fld w 11 5, flag w 3, flag w 2, fld w 0 2⟩) := by
  unfold decode; rw [h0]; change decodeMajor0C w = _; unfold decodeMajor0C; rw [h1]; rfl
theorem fadd (o : Fp2) : Statement (.fadd o) := by
  intro hw w h
  obtain rfl := Option.some.inj (show some _ = some w from h)
  rw [decode_fadd] <;> simp [fld_cat_lo, fld_cat_hi, fld_self, flag_cat_lo, flag_cat_hi, flag_ofBool, accept, hw]

theorem decode_fsub {w : Word32} (h0 : fld w 26 6 = 12#6) (h1 : fld w 4 7 = 1#7) :
    decode w = accept (.fsub ⟨fld w 21 5, fld w 16 5, fld w 11 5, flag w 3, flag w 2, fld w 0 2⟩) := by
  unfold decode; rw [h0]; change decodeMajor0C w = _; unfold decodeMajor0C; rw [h1]; rfl
theorem fsub (o : Fp2) : Statement (.fsub o) := by
  intro hw w h
  obtain rfl := Option.some.inj (show some _ = some w from h)
  rw [decode_fsub] <;> simp [fld_cat_lo, fld_cat_hi, fld_self, flag_cat_lo, flag_cat_hi, flag_ofBool, accept, hw]

theorem decode_fmul {w : Word32} (h0 : fld w 26 6 = 12#6) (h1 : fld w 4 7 = 2#7) :
    decode w = accept (.fmul ⟨fld w 21 5, fld w 16 5, fld w 11 5, flag w 3, flag w 2, fld w 0 2⟩) := by
  unfold decode; rw [h0]; change decodeMajor0C w = _; unfold decodeMajor0C; rw [h1]; rfl
theorem fmul (o : Fp2) : Statement (.fmul o) := by
  intro hw w h
  obtain rfl := Option.some.inj (show some _ = some w from h)
  rw [decode_fmul] <;> simp [fld_cat_lo, fld_cat_hi, fld_self, flag_cat_lo, flag_cat_hi, flag_ofBool, accept, hw]

theorem decode_fdiv {w : Word32} (h0 : fld w 26 6 = 12#6) (h1 : fld w 4 7 = 3#7) :
    decode w = accept (.fdiv ⟨fld w 21 5, fld w 16 5, fld w 11 5, flag w 3, flag w 2, fld w 0 2⟩) := by
  unfold decode; rw [h0]; change decodeMajor0C w = _; unfold decodeMajor0C; rw [h1]; rfl
theorem fdiv (o : Fp2) : Statement (.fdiv o) := by
  intro hw w h
  obtain rfl := Option.some.inj (show some _ = some w from h)
  rw [decode_fdiv] <;> simp [fld_cat_lo, fld_cat_hi, fld_self, flag_cat_lo, flag_cat_hi, flag_ofBool, accept, hw]

theorem decode_fsqrt {w : Word32} (h0 : fld w 26 6 = 12#6) (h1 : fld w 4 7 = 4#7) (h2 : fld w 2 1 = 0#1) (h3 : fld w 11 5 = 0#5) :
    decode w = accept (.fsqrt ⟨fld w 21 5, fld w 16 5, flag w 3, fld w 0 2⟩) := by
  unfold decode; rw [h0]; change decodeMajor0C w = _; unfold decodeMajor0C; rw [h1, h2, h3]; rfl
theorem fsqrt (o : Fp1) : Statement (.fsqrt o) := by
  intro hw w h
  obtain rfl := Option.some.inj (show some _ = some w from h)
  rw [decode_fsqrt] <;> simp [fld_cat_lo, fld_cat_hi, fld_self, flag_cat_lo, flag_cat_hi, flag_ofBool, accept, hw] <;> rfl

theorem decode_fmin {w : Word32} (h0 : fld w 26 6 = 12#6) (h1 : fld w 4 7 = 5#7) :
    decode w = accept (.fmin ⟨fld w 21 5, fld w 16 5, fld w 11 5, flag w 3, flag w 2, fld w 0 2⟩) := by
  unfold decode; rw [h0]; change decodeMajor0C w = _; unfold decodeMajor0C; rw [h1]; rfl
theorem fmin (o : Fp2) : Statement (.fmin o) := by
  intro hw w h
  obtain rfl := Option.some.inj (show some _ = some w from h)
  rw [decode_fmin] <;> simp [fld_cat_lo, fld_cat_hi, fld_self, flag_cat_lo, flag_cat_hi, flag_ofBool, accept, hw]

theorem decode_fmax {w : Word32} (h0 : fld w 26 6 = 12#6) (h1 : fld w 4 7 = 6#7) :
    decode w = accept (.fmax ⟨fld w 21 5, fld w 16 5, fld w 11 5, flag w 3, flag w 2, fld w 0 2⟩) := by
  unfold decode; rw [h0]; change decodeMajor0C w = _; unfold decodeMajor0C; rw [h1]; rfl
theorem fmax (o : Fp2) : Statement (.fmax o) := by
  intro hw w h
  obtain rfl := Option.some.inj (show some _ = some w from h)
  rw [decode_fmax] <;> simp [fld_cat_lo, fld_cat_hi, fld_self, flag_cat_lo, flag_cat_hi, flag_ofBool, accept, hw]

theorem decode_fcmpEq {w : Word32} (h0 : fld w 26 6 = 12#6) (h1 : fld w 4 7 = 8#7) :
    decode w = accept (.fcmpEq ⟨fld w 21 5, fld w 16 5, fld w 11 5, flag w 3, flag w 2, fld w 0 2⟩) := by
  unfold decode; rw [h0]; change decodeMajor0C w = _; unfold decodeMajor0C; rw [h1]; rfl
theorem fcmpEq (o : Fp2) : Statement (.fcmpEq o) := by
  intro hw w h
  obtain rfl := Option.some.inj (show some _ = some w from h)
  rw [decode_fcmpEq] <;> simp [fld_cat_lo, fld_cat_hi, fld_self, flag_cat_lo, flag_cat_hi, flag_ofBool, accept, hw]

theorem decode_fcmpLt {w : Word32} (h0 : fld w 26 6 = 12#6) (h1 : fld w 4 7 = 9#7) :
    decode w = accept (.fcmpLt ⟨fld w 21 5, fld w 16 5, fld w 11 5, flag w 3, flag w 2, fld w 0 2⟩) := by
  unfold decode; rw [h0]; change decodeMajor0C w = _; unfold decodeMajor0C; rw [h1]; rfl
theorem fcmpLt (o : Fp2) : Statement (.fcmpLt o) := by
  intro hw w h
  obtain rfl := Option.some.inj (show some _ = some w from h)
  rw [decode_fcmpLt] <;> simp [fld_cat_lo, fld_cat_hi, fld_self, flag_cat_lo, flag_cat_hi, flag_ofBool, accept, hw]

theorem decode_fcmpLe {w : Word32} (h0 : fld w 26 6 = 12#6) (h1 : fld w 4 7 = 10#7) :
    decode w = accept (.fcmpLe ⟨fld w 21 5, fld w 16 5, fld w 11 5, flag w 3, flag w 2, fld w 0 2⟩) := by
  unfold decode; rw [h0]; change decodeMajor0C w = _; unfold decodeMajor0C; rw [h1]; rfl
theorem fcmpLe (o : Fp2) : Statement (.fcmpLe o) := by
  intro hw w h
  obtain rfl := Option.some.inj (show some _ = some w from h)
  rw [decode_fcmpLe] <;> simp [fld_cat_lo, fld_cat_hi, fld_self, flag_cat_lo, flag_cat_hi, flag_ofBool, accept, hw]

theorem decode_fcmpUn {w : Word32} (h0 : fld w 26 6 = 12#6) (h1 : fld w 4 7 = 11#7) :
    decode w = accept (.fcmpUn ⟨fld w 21 5, fld w 16 5, fld w 11 5, flag w 3, flag w 2, fld w 0 2⟩) := by
  unfold decode; rw [h0]; change decodeMajor0C w = _; unfold decodeMajor0C; rw [h1]; rfl
theorem fcmpUn (o : Fp2) : Statement (.fcmpUn o) := by
  intro hw w h
  obtain rfl := Option.some.inj (show some _ = some w from h)
  rw [decode_fcmpUn] <;> simp [fld_cat_lo, fld_cat_hi, fld_self, flag_cat_lo, flag_cat_hi, flag_ofBool, accept, hw]

theorem decode_fclass {w : Word32} (h0 : fld w 26 6 = 12#6) (h1 : fld w 4 7 = 12#7) (h2 : fld w 2 1 = 0#1) (h3 : fld w 11 5 = 0#5) :
    decode w = accept (.fclass ⟨fld w 21 5, fld w 16 5, flag w 3, fld w 0 2⟩) := by
  unfold decode; rw [h0]; change decodeMajor0C w = _; unfold decodeMajor0C; rw [h1, h2, h3]; rfl
theorem fclass (o : Fp1) : Statement (.fclass o) := by
  intro hw w h
  obtain rfl := Option.some.inj (show some _ = some w from h)
  rw [decode_fclass] <;> simp [fld_cat_lo, fld_cat_hi, fld_self, flag_cat_lo, flag_cat_hi, flag_ofBool, accept, hw] <;> rfl

theorem decode_fcvtToFloat {w : Word32} (h0 : fld w 26 6 = 12#6) (h1 : fld w 4 7 = 16#7) (h2 : fld w 2 1 = 0#1) :
    decode w = accept (.fcvtToFloat ⟨fld w 21 5, fld w 16 5, fld w 11 5, flag w 3, fld w 0 2⟩) := by
  unfold decode; rw [h0]; change decodeMajor0C w = _; unfold decodeMajor0C; rw [h1, h2]; rfl
theorem fcvtToFloat (o : FpCvt) : Statement (.fcvtToFloat o) := by
  intro hw w h
  obtain rfl := Option.some.inj (show some _ = some w from h)
  rw [decode_fcvtToFloat] <;> simp [fld_cat_lo, fld_cat_hi, fld_self, flag_cat_lo, flag_cat_hi, flag_ofBool, accept, hw]

theorem decode_fcvtToSigned {w : Word32} (h0 : fld w 26 6 = 12#6) (h1 : fld w 4 7 = 17#7) (h2 : fld w 2 1 = 0#1) :
    decode w = accept (.fcvtToSigned ⟨fld w 21 5, fld w 16 5, fld w 11 5, flag w 3, fld w 0 2⟩) := by
  unfold decode; rw [h0]; change decodeMajor0C w = _; unfold decodeMajor0C; rw [h1, h2]; rfl
theorem fcvtToSigned (o : FpCvt) : Statement (.fcvtToSigned o) := by
  intro hw w h
  obtain rfl := Option.some.inj (show some _ = some w from h)
  rw [decode_fcvtToSigned] <;> simp [fld_cat_lo, fld_cat_hi, fld_self, flag_cat_lo, flag_cat_hi, flag_ofBool, accept, hw]

theorem decode_fcvtToUnsigned {w : Word32} (h0 : fld w 26 6 = 12#6) (h1 : fld w 4 7 = 18#7) (h2 : fld w 2 1 = 0#1) :
    decode w = accept (.fcvtToUnsigned ⟨fld w 21 5, fld w 16 5, fld w 11 5, flag w 3, fld w 0 2⟩) := by
  unfold decode; rw [h0]; change decodeMajor0C w = _; unfold decodeMajor0C; rw [h1, h2]; rfl
theorem fcvtToUnsigned (o : FpCvt) : Statement (.fcvtToUnsigned o) := by
  intro hw w h
  obtain rfl := Option.some.inj (show some _ = some w from h)
  rw [decode_fcvtToUnsigned] <;> simp [fld_cat_lo, fld_cat_hi, fld_self, flag_cat_lo, flag_cat_hi, flag_ofBool, accept, hw]

theorem decode_fsignB {w : Word32} (h0 : fld w 26 6 = 12#6) (h1 : fld w 4 7 = 24#7) :
    decode w = accept (.fsignB ⟨fld w 21 5, fld w 16 5, fld w 11 5, flag w 3, flag w 2, fld w 0 2⟩) := by
  unfold decode; rw [h0]; change decodeMajor0C w = _; unfold decodeMajor0C; rw [h1]; rfl
theorem fsignB (o : Fp2) : Statement (.fsignB o) := by
  intro hw w h
  obtain rfl := Option.some.inj (show some _ = some w from h)
  rw [decode_fsignB] <;> simp [fld_cat_lo, fld_cat_hi, fld_self, flag_cat_lo, flag_cat_hi, flag_ofBool, accept, hw]

theorem decode_fsignNb {w : Word32} (h0 : fld w 26 6 = 12#6) (h1 : fld w 4 7 = 25#7) :
    decode w = accept (.fsignNb ⟨fld w 21 5, fld w 16 5, fld w 11 5, flag w 3, flag w 2, fld w 0 2⟩) := by
  unfold decode; rw [h0]; change decodeMajor0C w = _; unfold decodeMajor0C; rw [h1]; rfl
theorem fsignNb (o : Fp2) : Statement (.fsignNb o) := by
  intro hw w h
  obtain rfl := Option.some.inj (show some _ = some w from h)
  rw [decode_fsignNb] <;> simp [fld_cat_lo, fld_cat_hi, fld_self, flag_cat_lo, flag_cat_hi, flag_ofBool, accept, hw]

theorem decode_fsignX {w : Word32} (h0 : fld w 26 6 = 12#6) (h1 : fld w 4 7 = 26#7) :
    decode w = accept (.fsignX ⟨fld w 21 5, fld w 16 5, fld w 11 5, flag w 3, flag w 2, fld w 0 2⟩) := by
  unfold decode; rw [h0]; change decodeMajor0C w = _; unfold decodeMajor0C; rw [h1]; rfl
theorem fsignX (o : Fp2) : Statement (.fsignX o) := by
  intro hw w h
  obtain rfl := Option.some.inj (show some _ = some w from h)
  rw [decode_fsignX] <;> simp [fld_cat_lo, fld_cat_hi, fld_self, flag_cat_lo, flag_cat_hi, flag_ofBool, accept, hw]

theorem decode_madd {w : Word32} (h0 : fld w 26 6 = 13#6) (h1 : fld w 5 1 = 0#1) (h2 : fld w 3 2 = 0#2) :
    decode w = accept (.madd ⟨fld w 21 5, fld w 16 5, fld w 11 5, fld w 6 5, flag w 2, flag w 1, flag w 0⟩) := by
  unfold decode; rw [h0]; change decodeMajor0D w = _; unfold decodeMajor0D; rw [h1, h2]; rfl
theorem madd (o : Quad) : Statement (.madd o) := by
  intro hw w h
  obtain rfl := Option.some.inj (show some _ = some w from h)
  rw [decode_madd] <;> simp [fld_cat_lo, fld_cat_hi, fld_self, flag_cat_lo, flag_cat_hi, flag_ofBool, accept, hw] <;> rfl

theorem decode_sel {w : Word32} (h0 : fld w 26 6 = 13#6) (h1 : fld w 5 1 = 0#1) (h2 : fld w 3 2 = 1#2) :
    decode w = accept (.sel ⟨fld w 21 5, fld w 16 5, fld w 11 5, fld w 6 5, flag w 2, flag w 1, flag w 0⟩) := by
  unfold decode; rw [h0]; change decodeMajor0D w = _; unfold decodeMajor0D; rw [h1, h2]; rfl
theorem sel (o : Quad) : Statement (.sel o) := by
  intro hw w h
  obtain rfl := Option.some.inj (show some _ = some w from h)
  rw [decode_sel] <;> simp [fld_cat_lo, fld_cat_hi, fld_self, flag_cat_lo, flag_cat_hi, flag_ofBool, accept, hw] <;> rfl

theorem decode_fma {w : Word32} (h0 : fld w 26 6 = 13#6) (h1 : fld w 5 1 = 1#1) :
    decode w = accept (.fma ⟨fld w 21 5, fld w 16 5, fld w 11 5, fld w 6 5, fld w 3 2, flag w 2, flag w 1, flag w 0⟩) := by
  unfold decode; rw [h0]; change decodeMajor0D w = _; unfold decodeMajor0D; rw [h1]; rfl
theorem fma (o : QuadFp) : Statement (.fma o) := by
  intro hw w h
  obtain rfl := Option.some.inj (show some _ = some w from h)
  rw [decode_fma] <;> simp [fld_cat_lo, fld_cat_hi, fld_self, flag_cat_lo, flag_cat_hi, flag_ofBool, accept, hw]

theorem decode_crr {w : Word32} (h0 : fld w 26 6 = 14#6) (h1 : fld w 13 3 = 0#3) (h2 : fld w 0 1 = 0#1) (h3 : fld w 16 5 = 0#5) :
    decode w = accept (.crr ⟨fld w 21 5, fld w 1 12⟩) := by
  unfold decode; rw [h0]; change decodeMajor0E w = _; unfold decodeMajor0E; rw [h1, h2, h3]; rfl
theorem crr (o : CrRead) : Statement (.crr o) := by
  intro hw w h
  obtain rfl := Option.some.inj (show some _ = some w from h)
  rw [decode_crr] <;> simp [fld_cat_lo, fld_cat_hi, fld_self, flag_cat_lo, flag_cat_hi, flag_ofBool, accept, hw] <;> rfl

theorem decode_crw {w : Word32} (h0 : fld w 26 6 = 14#6) (h1 : fld w 13 3 = 1#3) (h2 : fld w 21 5 = 0#5) :
    decode w = accept (.crw ⟨fld w 16 5, fld w 1 12, flag w 0⟩) := by
  unfold decode; rw [h0]; change decodeMajor0E w = _; unfold decodeMajor0E; rw [h1, h2]; rfl
theorem crw (o : CrWrite) : Statement (.crw o) := by
  intro hw w h
  obtain rfl := Option.some.inj (show some _ = some w from h)
  rw [decode_crw] <;> simp [fld_cat_lo, fld_cat_hi, fld_self, flag_cat_lo, flag_cat_hi, flag_ofBool, accept, hw] <;> rfl

theorem decode_crs {w : Word32} (h0 : fld w 26 6 = 14#6) (h1 : fld w 13 3 = 2#3) :
    decode w = accept (.crs ⟨fld w 21 5, fld w 16 5, fld w 1 12, flag w 0⟩) := by
  unfold decode; rw [h0]; change decodeMajor0E w = _; unfold decodeMajor0E; rw [h1]; rfl
theorem crs (o : CrMod) : Statement (.crs o) := by
  intro hw w h
  obtain rfl := Option.some.inj (show some _ = some w from h)
  rw [decode_crs] <;> simp [fld_cat_lo, fld_cat_hi, fld_self, flag_cat_lo, flag_cat_hi, flag_ofBool, accept, hw]

theorem decode_crc {w : Word32} (h0 : fld w 26 6 = 14#6) (h1 : fld w 13 3 = 3#3) :
    decode w = accept (.crc ⟨fld w 21 5, fld w 16 5, fld w 1 12, flag w 0⟩) := by
  unfold decode; rw [h0]; change decodeMajor0E w = _; unfold decodeMajor0E; rw [h1]; rfl
theorem crc (o : CrMod) : Statement (.crc o) := by
  intro hw w h
  obtain rfl := Option.some.inj (show some _ = some w from h)
  rw [decode_crc] <;> simp [fld_cat_lo, fld_cat_hi, fld_self, flag_cat_lo, flag_cat_hi, flag_ofBool, accept, hw]

theorem decode_ld {w : Word32} (h0 : fld w 26 6 = 16#6) :
    decode w = accept (.ld ⟨fld w 21 5, fld w 16 5, fld w 13 3, flag w 12, fld w 0 12⟩) := by
  unfold decode; rw [h0]; change decodeMajor10 w = _; unfold decodeMajor10; rfl
theorem ld (o : MemM) : Statement (.ld o) := by
  intro hw w h
  obtain rfl := Option.some.inj (show some _ = some w from h)
  rw [decode_ld] <;> simp [fld_cat_lo, fld_cat_hi, fld_self, flag_cat_lo, flag_cat_hi, flag_ofBool, accept, hw]

theorem decode_st {w : Word32} (h0 : fld w 26 6 = 17#6) :
    decode w = accept (.st ⟨fld w 21 5, fld w 16 5, fld w 13 3, flag w 12, fld w 0 12⟩) := by
  unfold decode; rw [h0]; change decodeMajor11 w = _; unfold decodeMajor11; rfl
theorem st (o : MemM) : Statement (.st o) := by
  intro hw w h
  obtain rfl := Option.some.inj (show some _ = some w from h)
  rw [decode_st] <;> simp [fld_cat_lo, fld_cat_hi, fld_self, flag_cat_lo, flag_cat_hi, flag_ofBool, accept, hw]

theorem decode_lds {w : Word32} (h0 : fld w 26 6 = 18#6) :
    decode w = accept (.lds ⟨fld w 21 5, fld w 16 5, fld w 13 3, flag w 12, fld w 10 2, fld w 0 10⟩) := by
  unfold decode; rw [h0]; change decodeMajor12 w = _; unfold decodeMajor12; rfl
theorem lds (o : MemS) : Statement (.lds o) := by
  intro hw w h
  obtain rfl := Option.some.inj (show some _ = some w from h)
  rw [decode_lds] <;> simp [fld_cat_lo, fld_cat_hi, fld_self, flag_cat_lo, flag_cat_hi, flag_ofBool, accept, hw]

theorem decode_sts {w : Word32} (h0 : fld w 26 6 = 19#6) :
    decode w = accept (.sts ⟨fld w 21 5, fld w 16 5, fld w 13 3, flag w 12, fld w 10 2, fld w 0 10⟩) := by
  unfold decode; rw [h0]; change decodeMajor13 w = _; unfold decodeMajor13; rfl
theorem sts (o : MemS) : Statement (.sts o) := by
  intro hw w h
  obtain rfl := Option.some.inj (show some _ = some w from h)
  rw [decode_sts] <;> simp [fld_cat_lo, fld_cat_hi, fld_self, flag_cat_lo, flag_cat_hi, flag_ofBool, accept, hw]

theorem decode_ldv {w : Word32} (h0 : fld w 26 6 = 20#6) (h1 : fld w 5 6 = 0#6) (h2 : fld w 14 2 = 0#2) :
    decode w = accept (.ldv ⟨fld w 21 5, fld w 16 5, fld w 11 3, flag w 4, flag w 3, flag w 2, fld w 0 2⟩) := by
  unfold decode; rw [h0]; change decodeMajor14 w = _; unfold decodeMajor14; rw [h1, h2]; rfl
theorem ldv (o : ViewLd) : Statement (.ldv o) := by
  intro hw w h
  obtain rfl := Option.some.inj (show some _ = some w from h)
  rw [decode_ldv] <;> simp [fld_cat_lo, fld_cat_hi, fld_self, flag_cat_lo, flag_cat_hi, flag_ofBool, accept, hw]

theorem decode_stv {w : Word32} (h0 : fld w 26 6 = 21#6) (h1 : fld w 4 7 = 0#7) (h2 : fld w 14 2 = 0#2) :
    decode w = accept (.stv ⟨fld w 21 5, fld w 16 5, fld w 11 3, flag w 3, flag w 2, fld w 0 2⟩) := by
  unfold decode; rw [h0]; change decodeMajor15 w = _; unfold decodeMajor15; rw [h1, h2]; rfl
theorem stv (o : ViewSt) : Statement (.stv o) := by
  intro hw w h
  obtain rfl := Option.some.inj (show some _ = some w from h)
  rw [decode_stv] <;> simp [fld_cat_lo, fld_cat_hi, fld_self, flag_cat_lo, flag_cat_hi, flag_ofBool, accept, hw]

theorem decode_ldp {w : Word32} (h0 : fld w 26 6 = 22#6) (h1 : fld w 13 3 = 0#3) :
    decode w = accept (.ldp ⟨fld w 21 5, fld w 16 5, flag w 12, fld w 0 12⟩) := by
  unfold decode; rw [h0]; change decodeMajor16 w = _; unfold decodeMajor16; rw [h1]; rfl
theorem ldp (o : MemP) : Statement (.ldp o) := by
  intro hw w h
  obtain rfl := Option.some.inj (show some _ = some w from h)
  rw [decode_ldp] <;> simp [fld_cat_lo, fld_cat_hi, fld_self, flag_cat_lo, flag_cat_hi, flag_ofBool, accept, hw]

theorem decode_stp {w : Word32} (h0 : fld w 26 6 = 22#6) (h1 : fld w 13 3 = 1#3) :
    decode w = accept (.stp ⟨fld w 21 5, fld w 16 5, flag w 12, fld w 0 12⟩) := by
  unfold decode; rw [h0]; change decodeMajor16 w = _; unfold decodeMajor16; rw [h1]; rfl
theorem stp (o : MemP) : Statement (.stp o) := by
  intro hw w h
  obtain rfl := Option.some.inj (show some _ = some w from h)
  rw [decode_stp] <;> simp [fld_cat_lo, fld_cat_hi, fld_self, flag_cat_lo, flag_cat_hi, flag_ofBool, accept, hw]

theorem decode_pref {w : Word32} (h0 : fld w 26 6 = 23#6) (h1 : fld w 13 3 = 0#3) (h2 : fld w 23 3 = 0#3) :
    decode w = accept (.pref ⟨fld w 21 2, fld w 16 5, flag w 12, fld w 0 12⟩) := by
  unfold decode; rw [h0]; change decodeMajor17 w = _; unfold decodeMajor17; rw [h1, h2]; rfl
theorem pref (o : Prefetch) : Statement (.pref o) := by
  intro hw w h
  obtain rfl := Option.some.inj (show some _ = some w from h)
  rw [decode_pref] <;> simp [fld_cat_lo, fld_cat_hi, fld_self, flag_cat_lo, flag_cat_hi, flag_ofBool, accept, hw] <;> rfl

theorem decode_cflushDrop {w : Word32} (h0 : fld w 26 6 = 23#6) (h1 : fld w 13 3 = 1#3) (h2 : fld w 21 5 = 0#5) :
    decode w = accept (.cflushDrop ⟨fld w 16 5, flag w 12, fld w 0 12⟩) := by
  unfold decode; rw [h0]; change decodeMajor17 w = _; unfold decodeMajor17; rw [h1, h2]; rfl
theorem cflushDrop (o : KeeperM) : Statement (.cflushDrop o) := by
  intro hw w h
  obtain rfl := Option.some.inj (show some _ = some w from h)
  rw [decode_cflushDrop] <;> simp [fld_cat_lo, fld_cat_hi, fld_self, flag_cat_lo, flag_cat_hi, flag_ofBool, accept, hw] <;> rfl

theorem decode_cflushHome {w : Word32} (h0 : fld w 26 6 = 23#6) (h1 : fld w 13 3 = 1#3) (h2 : fld w 21 5 = 1#5) :
    decode w = accept (.cflushHome ⟨fld w 16 5, flag w 12, fld w 0 12⟩) := by
  unfold decode; rw [h0]; change decodeMajor17 w = _; unfold decodeMajor17; rw [h1, h2]; rfl
theorem cflushHome (o : KeeperM) : Statement (.cflushHome o) := by
  intro hw w h
  obtain rfl := Option.some.inj (show some _ = some w from h)
  rw [decode_cflushHome] <;> simp [fld_cat_lo, fld_cat_hi, fld_self, flag_cat_lo, flag_cat_hi, flag_ofBool, accept, hw] <;> rfl

theorem decode_cflushClean {w : Word32} (h0 : fld w 26 6 = 23#6) (h1 : fld w 13 3 = 1#3) (h2 : fld w 21 5 = 2#5) :
    decode w = accept (.cflushClean ⟨fld w 16 5, flag w 12, fld w 0 12⟩) := by
  unfold decode; rw [h0]; change decodeMajor17 w = _; unfold decodeMajor17; rw [h1, h2]; rfl
theorem cflushClean (o : KeeperM) : Statement (.cflushClean o) := by
  intro hw w h
  obtain rfl := Option.some.inj (show some _ = some w from h)
  rw [decode_cflushClean] <;> simp [fld_cat_lo, fld_cat_hi, fld_self, flag_cat_lo, flag_cat_hi, flag_ofBool, accept, hw] <;> rfl

theorem decode_cinvLine {w : Word32} (h0 : fld w 26 6 = 23#6) (h1 : fld w 13 3 = 2#3) (h2 : fld w 21 5 = 0#5) :
    decode w = accept (.cinvLine ⟨fld w 16 5, flag w 12, fld w 0 12⟩) := by
  unfold decode; rw [h0]; change decodeMajor17 w = _; unfold decodeMajor17; rw [h1, h2]; rfl
theorem cinvLine (o : KeeperM) : Statement (.cinvLine o) := by
  intro hw w h
  obtain rfl := Option.some.inj (show some _ = some w from h)
  rw [decode_cinvLine] <;> simp [fld_cat_lo, fld_cat_hi, fld_self, flag_cat_lo, flag_cat_hi, flag_ofBool, accept, hw] <;> rfl

theorem decode_cinvAll {w : Word32} (h0 : fld w 26 6 = 23#6) (h1 : fld w 13 3 = 2#3) (h2 : fld w 21 5 = 1#5) (h3 : fld w 0 13 = 0#13) (h4 : fld w 16 5 = 0#5) :
    decode w = accept (.cinvAll) := by
  unfold decode; rw [h0]; change decodeMajor17 w = _; unfold decodeMajor17; rw [h1, h2, h3, h4]; rfl
theorem cinvAll : Statement .cinvAll := by
  intro hw w h
  obtain rfl := Option.some.inj (show some _ = some w from h)
  rw [decode_cinvAll] <;> rfl

theorem decode_tlbiPage {w : Word32} (h0 : fld w 26 6 = 23#6) (h1 : fld w 13 3 = 3#3) (h2 : fld w 21 5 = 0#5) :
    decode w = accept (.tlbiPage ⟨fld w 16 5, flag w 12, fld w 0 12⟩) := by
  unfold decode; rw [h0]; change decodeMajor17 w = _; unfold decodeMajor17; rw [h1, h2]; rfl
theorem tlbiPage (o : KeeperM) : Statement (.tlbiPage o) := by
  intro hw w h
  obtain rfl := Option.some.inj (show some _ = some w from h)
  rw [decode_tlbiPage] <;> simp [fld_cat_lo, fld_cat_hi, fld_self, flag_cat_lo, flag_cat_hi, flag_ofBool, accept, hw] <;> rfl

theorem decode_tlbiPound {w : Word32} (h0 : fld w 26 6 = 23#6) (h1 : fld w 13 3 = 3#3) (h2 : fld w 21 5 = 1#5) (h3 : fld w 0 13 = 0#13) (h4 : fld w 16 5 = 0#5) :
    decode w = accept (.tlbiPound) := by
  unfold decode; rw [h0]; change decodeMajor17 w = _; unfold decodeMajor17; rw [h1, h2, h3, h4]; rfl
theorem tlbiPound : Statement .tlbiPound := by
  intro hw w h
  obtain rfl := Option.some.inj (show some _ = some w from h)
  rw [decode_tlbiPound] <;> rfl

theorem decode_tlbiAll {w : Word32} (h0 : fld w 26 6 = 23#6) (h1 : fld w 13 3 = 3#3) (h2 : fld w 21 5 = 2#5) (h3 : fld w 0 13 = 0#13) (h4 : fld w 16 5 = 0#5) :
    decode w = accept (.tlbiAll) := by
  unfold decode; rw [h0]; change decodeMajor17 w = _; unfold decodeMajor17; rw [h1, h2, h3, h4]; rfl
theorem tlbiAll : Statement .tlbiAll := by
  intro hw w h
  obtain rfl := Option.some.inj (show some _ = some w from h)
  rw [decode_tlbiAll] <;> rfl

theorem decode_bankmode {w : Word32} (h0 : fld w 26 6 = 23#6) (h1 : fld w 13 3 = 4#3) (h2 : fld w 0 12 = 0#12) (h3 : fld w 21 5 = 0#5) :
    decode w = accept (.bankmode ⟨fld w 16 5, flag w 12⟩) := by
  unfold decode; rw [h0]; change decodeMajor17 w = _; unfold decodeMajor17; rw [h1, h2, h3]; rfl
theorem bankmode (o : KeeperB) : Statement (.bankmode o) := by
  intro hw w h
  obtain rfl := Option.some.inj (show some _ = some w from h)
  rw [decode_bankmode] <;> simp [fld_cat_lo, fld_cat_hi, fld_self, flag_cat_lo, flag_cat_hi, flag_ofBool, accept, hw] <;> rfl

theorem decode_atomAdd {w : Word32} (h0 : fld w 26 6 = 24#6) (h1 : fld w 2 5 = 0#5) :
    decode w = accept (.atomAdd ⟨fld w 23 3, fld w 18 5, fld w 13 5, fld w 8 5, flag w 7, fld w 0 2⟩) := by
  unfold decode; rw [h0]; change decodeMajor18 w = _; unfold decodeMajor18; rw [h1]; rfl
theorem atomAdd (o : Atomic) : Statement (.atomAdd o) := by
  intro hw w h
  obtain rfl := Option.some.inj (show some _ = some w from h)
  rw [decode_atomAdd] <;> simp [fld_cat_lo, fld_cat_hi, fld_self, flag_cat_lo, flag_cat_hi, flag_ofBool, accept, hw]

theorem decode_atomAnd {w : Word32} (h0 : fld w 26 6 = 24#6) (h1 : fld w 2 5 = 1#5) :
    decode w = accept (.atomAnd ⟨fld w 23 3, fld w 18 5, fld w 13 5, fld w 8 5, flag w 7, fld w 0 2⟩) := by
  unfold decode; rw [h0]; change decodeMajor18 w = _; unfold decodeMajor18; rw [h1]; rfl
theorem atomAnd (o : Atomic) : Statement (.atomAnd o) := by
  intro hw w h
  obtain rfl := Option.some.inj (show some _ = some w from h)
  rw [decode_atomAnd] <;> simp [fld_cat_lo, fld_cat_hi, fld_self, flag_cat_lo, flag_cat_hi, flag_ofBool, accept, hw]

theorem decode_atomOr {w : Word32} (h0 : fld w 26 6 = 24#6) (h1 : fld w 2 5 = 2#5) :
    decode w = accept (.atomOr ⟨fld w 23 3, fld w 18 5, fld w 13 5, fld w 8 5, flag w 7, fld w 0 2⟩) := by
  unfold decode; rw [h0]; change decodeMajor18 w = _; unfold decodeMajor18; rw [h1]; rfl
theorem atomOr (o : Atomic) : Statement (.atomOr o) := by
  intro hw w h
  obtain rfl := Option.some.inj (show some _ = some w from h)
  rw [decode_atomOr] <;> simp [fld_cat_lo, fld_cat_hi, fld_self, flag_cat_lo, flag_cat_hi, flag_ofBool, accept, hw]

theorem decode_atomXor {w : Word32} (h0 : fld w 26 6 = 24#6) (h1 : fld w 2 5 = 3#5) :
    decode w = accept (.atomXor ⟨fld w 23 3, fld w 18 5, fld w 13 5, fld w 8 5, flag w 7, fld w 0 2⟩) := by
  unfold decode; rw [h0]; change decodeMajor18 w = _; unfold decodeMajor18; rw [h1]; rfl
theorem atomXor (o : Atomic) : Statement (.atomXor o) := by
  intro hw w h
  obtain rfl := Option.some.inj (show some _ = some w from h)
  rw [decode_atomXor] <;> simp [fld_cat_lo, fld_cat_hi, fld_self, flag_cat_lo, flag_cat_hi, flag_ofBool, accept, hw]

theorem decode_atomMin {w : Word32} (h0 : fld w 26 6 = 24#6) (h1 : fld w 2 5 = 4#5) :
    decode w = accept (.atomMin ⟨fld w 23 3, fld w 18 5, fld w 13 5, fld w 8 5, flag w 7, fld w 0 2⟩) := by
  unfold decode; rw [h0]; change decodeMajor18 w = _; unfold decodeMajor18; rw [h1]; rfl
theorem atomMin (o : Atomic) : Statement (.atomMin o) := by
  intro hw w h
  obtain rfl := Option.some.inj (show some _ = some w from h)
  rw [decode_atomMin] <;> simp [fld_cat_lo, fld_cat_hi, fld_self, flag_cat_lo, flag_cat_hi, flag_ofBool, accept, hw]

theorem decode_atomMax {w : Word32} (h0 : fld w 26 6 = 24#6) (h1 : fld w 2 5 = 5#5) :
    decode w = accept (.atomMax ⟨fld w 23 3, fld w 18 5, fld w 13 5, fld w 8 5, flag w 7, fld w 0 2⟩) := by
  unfold decode; rw [h0]; change decodeMajor18 w = _; unfold decodeMajor18; rw [h1]; rfl
theorem atomMax (o : Atomic) : Statement (.atomMax o) := by
  intro hw w h
  obtain rfl := Option.some.inj (show some _ = some w from h)
  rw [decode_atomMax] <;> simp [fld_cat_lo, fld_cat_hi, fld_self, flag_cat_lo, flag_cat_hi, flag_ofBool, accept, hw]

theorem decode_atomMinu {w : Word32} (h0 : fld w 26 6 = 24#6) (h1 : fld w 2 5 = 6#5) :
    decode w = accept (.atomMinu ⟨fld w 23 3, fld w 18 5, fld w 13 5, fld w 8 5, flag w 7, fld w 0 2⟩) := by
  unfold decode; rw [h0]; change decodeMajor18 w = _; unfold decodeMajor18; rw [h1]; rfl
theorem atomMinu (o : Atomic) : Statement (.atomMinu o) := by
  intro hw w h
  obtain rfl := Option.some.inj (show some _ = some w from h)
  rw [decode_atomMinu] <;> simp [fld_cat_lo, fld_cat_hi, fld_self, flag_cat_lo, flag_cat_hi, flag_ofBool, accept, hw]

theorem decode_atomMaxu {w : Word32} (h0 : fld w 26 6 = 24#6) (h1 : fld w 2 5 = 7#5) :
    decode w = accept (.atomMaxu ⟨fld w 23 3, fld w 18 5, fld w 13 5, fld w 8 5, flag w 7, fld w 0 2⟩) := by
  unfold decode; rw [h0]; change decodeMajor18 w = _; unfold decodeMajor18; rw [h1]; rfl
theorem atomMaxu (o : Atomic) : Statement (.atomMaxu o) := by
  intro hw w h
  obtain rfl := Option.some.inj (show some _ = some w from h)
  rw [decode_atomMaxu] <;> simp [fld_cat_lo, fld_cat_hi, fld_self, flag_cat_lo, flag_cat_hi, flag_ofBool, accept, hw]

theorem decode_atomSwap {w : Word32} (h0 : fld w 26 6 = 24#6) (h1 : fld w 2 5 = 8#5) :
    decode w = accept (.atomSwap ⟨fld w 23 3, fld w 18 5, fld w 13 5, fld w 8 5, flag w 7, fld w 0 2⟩) := by
  unfold decode; rw [h0]; change decodeMajor18 w = _; unfold decodeMajor18; rw [h1]; rfl
theorem atomSwap (o : Atomic) : Statement (.atomSwap o) := by
  intro hw w h
  obtain rfl := Option.some.inj (show some _ = some w from h)
  rw [decode_atomSwap] <;> simp [fld_cat_lo, fld_cat_hi, fld_self, flag_cat_lo, flag_cat_hi, flag_ofBool, accept, hw]

theorem decode_atomCas {w : Word32} (h0 : fld w 26 6 = 24#6) (h1 : fld w 2 5 = 9#5) :
    decode w = accept (.atomCas ⟨fld w 23 3, fld w 18 5, fld w 13 5, fld w 8 5, flag w 7, fld w 0 2⟩) := by
  unfold decode; rw [h0]; change decodeMajor18 w = _; unfold decodeMajor18; rw [h1]; rfl
theorem atomCas (o : Atomic) : Statement (.atomCas o) := by
  intro hw w h
  obtain rfl := Option.some.inj (show some _ = some w from h)
  rw [decode_atomCas] <;> simp [fld_cat_lo, fld_cat_hi, fld_self, flag_cat_lo, flag_cat_hi, flag_ofBool, accept, hw]

theorem decode_atomIncb {w : Word32} (h0 : fld w 26 6 = 24#6) (h1 : fld w 2 5 = 10#5) :
    decode w = accept (.atomIncb ⟨fld w 23 3, fld w 18 5, fld w 13 5, fld w 8 5, flag w 7, fld w 0 2⟩) := by
  unfold decode; rw [h0]; change decodeMajor18 w = _; unfold decodeMajor18; rw [h1]; rfl
theorem atomIncb (o : Atomic) : Statement (.atomIncb o) := by
  intro hw w h
  obtain rfl := Option.some.inj (show some _ = some w from h)
  rw [decode_atomIncb] <;> simp [fld_cat_lo, fld_cat_hi, fld_self, flag_cat_lo, flag_cat_hi, flag_ofBool, accept, hw]

theorem decode_atomDecb {w : Word32} (h0 : fld w 26 6 = 24#6) (h1 : fld w 2 5 = 11#5) :
    decode w = accept (.atomDecb ⟨fld w 23 3, fld w 18 5, fld w 13 5, fld w 8 5, flag w 7, fld w 0 2⟩) := by
  unfold decode; rw [h0]; change decodeMajor18 w = _; unfold decodeMajor18; rw [h1]; rfl
theorem atomDecb (o : Atomic) : Statement (.atomDecb o) := by
  intro hw w h
  obtain rfl := Option.some.inj (show some _ = some w from h)
  rw [decode_atomDecb] <;> simp [fld_cat_lo, fld_cat_hi, fld_self, flag_cat_lo, flag_cat_hi, flag_ofBool, accept, hw]

theorem decode_atomFadd {w : Word32} (h0 : fld w 26 6 = 24#6) (h1 : fld w 2 5 = 16#5) :
    decode w = accept (.atomFadd ⟨fld w 23 3, fld w 18 5, fld w 13 5, fld w 8 5, flag w 7, fld w 0 2⟩) := by
  unfold decode; rw [h0]; change decodeMajor18 w = _; unfold decodeMajor18; rw [h1]; rfl
theorem atomFadd (o : Atomic) : Statement (.atomFadd o) := by
  intro hw w h
  obtain rfl := Option.some.inj (show some _ = some w from h)
  rw [decode_atomFadd] <;> simp [fld_cat_lo, fld_cat_hi, fld_self, flag_cat_lo, flag_cat_hi, flag_ofBool, accept, hw]

theorem decode_atomFmin {w : Word32} (h0 : fld w 26 6 = 24#6) (h1 : fld w 2 5 = 17#5) :
    decode w = accept (.atomFmin ⟨fld w 23 3, fld w 18 5, fld w 13 5, fld w 8 5, flag w 7, fld w 0 2⟩) := by
  unfold decode; rw [h0]; change decodeMajor18 w = _; unfold decodeMajor18; rw [h1]; rfl
theorem atomFmin (o : Atomic) : Statement (.atomFmin o) := by
  intro hw w h
  obtain rfl := Option.some.inj (show some _ = some w from h)
  rw [decode_atomFmin] <;> simp [fld_cat_lo, fld_cat_hi, fld_self, flag_cat_lo, flag_cat_hi, flag_ofBool, accept, hw]

theorem decode_atomFmax {w : Word32} (h0 : fld w 26 6 = 24#6) (h1 : fld w 2 5 = 18#5) :
    decode w = accept (.atomFmax ⟨fld w 23 3, fld w 18 5, fld w 13 5, fld w 8 5, flag w 7, fld w 0 2⟩) := by
  unfold decode; rw [h0]; change decodeMajor18 w = _; unfold decodeMajor18; rw [h1]; rfl
theorem atomFmax (o : Atomic) : Statement (.atomFmax o) := by
  intro hw w h
  obtain rfl := Option.some.inj (show some _ = some w from h)
  rw [decode_atomFmax] <;> simp [fld_cat_lo, fld_cat_hi, fld_self, flag_cat_lo, flag_cat_hi, flag_ofBool, accept, hw]

theorem decode_atomFaddP2 {w : Word32} (h0 : fld w 26 6 = 24#6) (h1 : fld w 2 5 = 20#5) :
    decode w = accept (.atomFaddP2 ⟨fld w 23 3, fld w 18 5, fld w 13 5, fld w 8 5, flag w 7, fld w 0 2⟩) := by
  unfold decode; rw [h0]; change decodeMajor18 w = _; unfold decodeMajor18; rw [h1]; rfl
theorem atomFaddP2 (o : Atomic) : Statement (.atomFaddP2 o) := by
  intro hw w h
  obtain rfl := Option.some.inj (show some _ = some w from h)
  rw [decode_atomFaddP2] <;> simp [fld_cat_lo, fld_cat_hi, fld_self, flag_cat_lo, flag_cat_hi, flag_ofBool, accept, hw]

theorem decode_atomFminP2 {w : Word32} (h0 : fld w 26 6 = 24#6) (h1 : fld w 2 5 = 21#5) :
    decode w = accept (.atomFminP2 ⟨fld w 23 3, fld w 18 5, fld w 13 5, fld w 8 5, flag w 7, fld w 0 2⟩) := by
  unfold decode; rw [h0]; change decodeMajor18 w = _; unfold decodeMajor18; rw [h1]; rfl
theorem atomFminP2 (o : Atomic) : Statement (.atomFminP2 o) := by
  intro hw w h
  obtain rfl := Option.some.inj (show some _ = some w from h)
  rw [decode_atomFminP2] <;> simp [fld_cat_lo, fld_cat_hi, fld_self, flag_cat_lo, flag_cat_hi, flag_ofBool, accept, hw]

theorem decode_atomFmaxP2 {w : Word32} (h0 : fld w 26 6 = 24#6) (h1 : fld w 2 5 = 22#5) :
    decode w = accept (.atomFmaxP2 ⟨fld w 23 3, fld w 18 5, fld w 13 5, fld w 8 5, flag w 7, fld w 0 2⟩) := by
  unfold decode; rw [h0]; change decodeMajor18 w = _; unfold decodeMajor18; rw [h1]; rfl
theorem atomFmaxP2 (o : Atomic) : Statement (.atomFmaxP2 o) := by
  intro hw w h
  obtain rfl := Option.some.inj (show some _ = some w from h)
  rw [decode_atomFmaxP2] <;> simp [fld_cat_lo, fld_cat_hi, fld_self, flag_cat_lo, flag_cat_hi, flag_ofBool, accept, hw]

theorem decode_atnAdd {w : Word32} (h0 : fld w 26 6 = 25#6) (h1 : fld w 2 5 = 0#5) :
    decode w = accept (.atnAdd ⟨fld w 23 3, fld w 18 5, fld w 13 5, fld w 8 5, flag w 7, fld w 0 2⟩) := by
  unfold decode; rw [h0]; change decodeMajor19 w = _; unfold decodeMajor19; rw [h1]; rfl
theorem atnAdd (o : Atomic) : Statement (.atnAdd o) := by
  intro hw w h
  obtain rfl := Option.some.inj (show some _ = some w from h)
  rw [decode_atnAdd] <;> simp [fld_cat_lo, fld_cat_hi, fld_self, flag_cat_lo, flag_cat_hi, flag_ofBool, accept, hw]

theorem decode_atnAnd {w : Word32} (h0 : fld w 26 6 = 25#6) (h1 : fld w 2 5 = 1#5) :
    decode w = accept (.atnAnd ⟨fld w 23 3, fld w 18 5, fld w 13 5, fld w 8 5, flag w 7, fld w 0 2⟩) := by
  unfold decode; rw [h0]; change decodeMajor19 w = _; unfold decodeMajor19; rw [h1]; rfl
theorem atnAnd (o : Atomic) : Statement (.atnAnd o) := by
  intro hw w h
  obtain rfl := Option.some.inj (show some _ = some w from h)
  rw [decode_atnAnd] <;> simp [fld_cat_lo, fld_cat_hi, fld_self, flag_cat_lo, flag_cat_hi, flag_ofBool, accept, hw]

theorem decode_atnOr {w : Word32} (h0 : fld w 26 6 = 25#6) (h1 : fld w 2 5 = 2#5) :
    decode w = accept (.atnOr ⟨fld w 23 3, fld w 18 5, fld w 13 5, fld w 8 5, flag w 7, fld w 0 2⟩) := by
  unfold decode; rw [h0]; change decodeMajor19 w = _; unfold decodeMajor19; rw [h1]; rfl
theorem atnOr (o : Atomic) : Statement (.atnOr o) := by
  intro hw w h
  obtain rfl := Option.some.inj (show some _ = some w from h)
  rw [decode_atnOr] <;> simp [fld_cat_lo, fld_cat_hi, fld_self, flag_cat_lo, flag_cat_hi, flag_ofBool, accept, hw]

theorem decode_atnXor {w : Word32} (h0 : fld w 26 6 = 25#6) (h1 : fld w 2 5 = 3#5) :
    decode w = accept (.atnXor ⟨fld w 23 3, fld w 18 5, fld w 13 5, fld w 8 5, flag w 7, fld w 0 2⟩) := by
  unfold decode; rw [h0]; change decodeMajor19 w = _; unfold decodeMajor19; rw [h1]; rfl
theorem atnXor (o : Atomic) : Statement (.atnXor o) := by
  intro hw w h
  obtain rfl := Option.some.inj (show some _ = some w from h)
  rw [decode_atnXor] <;> simp [fld_cat_lo, fld_cat_hi, fld_self, flag_cat_lo, flag_cat_hi, flag_ofBool, accept, hw]

theorem decode_atnMin {w : Word32} (h0 : fld w 26 6 = 25#6) (h1 : fld w 2 5 = 4#5) :
    decode w = accept (.atnMin ⟨fld w 23 3, fld w 18 5, fld w 13 5, fld w 8 5, flag w 7, fld w 0 2⟩) := by
  unfold decode; rw [h0]; change decodeMajor19 w = _; unfold decodeMajor19; rw [h1]; rfl
theorem atnMin (o : Atomic) : Statement (.atnMin o) := by
  intro hw w h
  obtain rfl := Option.some.inj (show some _ = some w from h)
  rw [decode_atnMin] <;> simp [fld_cat_lo, fld_cat_hi, fld_self, flag_cat_lo, flag_cat_hi, flag_ofBool, accept, hw]

theorem decode_atnMax {w : Word32} (h0 : fld w 26 6 = 25#6) (h1 : fld w 2 5 = 5#5) :
    decode w = accept (.atnMax ⟨fld w 23 3, fld w 18 5, fld w 13 5, fld w 8 5, flag w 7, fld w 0 2⟩) := by
  unfold decode; rw [h0]; change decodeMajor19 w = _; unfold decodeMajor19; rw [h1]; rfl
theorem atnMax (o : Atomic) : Statement (.atnMax o) := by
  intro hw w h
  obtain rfl := Option.some.inj (show some _ = some w from h)
  rw [decode_atnMax] <;> simp [fld_cat_lo, fld_cat_hi, fld_self, flag_cat_lo, flag_cat_hi, flag_ofBool, accept, hw]

theorem decode_atnMinu {w : Word32} (h0 : fld w 26 6 = 25#6) (h1 : fld w 2 5 = 6#5) :
    decode w = accept (.atnMinu ⟨fld w 23 3, fld w 18 5, fld w 13 5, fld w 8 5, flag w 7, fld w 0 2⟩) := by
  unfold decode; rw [h0]; change decodeMajor19 w = _; unfold decodeMajor19; rw [h1]; rfl
theorem atnMinu (o : Atomic) : Statement (.atnMinu o) := by
  intro hw w h
  obtain rfl := Option.some.inj (show some _ = some w from h)
  rw [decode_atnMinu] <;> simp [fld_cat_lo, fld_cat_hi, fld_self, flag_cat_lo, flag_cat_hi, flag_ofBool, accept, hw]

theorem decode_atnMaxu {w : Word32} (h0 : fld w 26 6 = 25#6) (h1 : fld w 2 5 = 7#5) :
    decode w = accept (.atnMaxu ⟨fld w 23 3, fld w 18 5, fld w 13 5, fld w 8 5, flag w 7, fld w 0 2⟩) := by
  unfold decode; rw [h0]; change decodeMajor19 w = _; unfold decodeMajor19; rw [h1]; rfl
theorem atnMaxu (o : Atomic) : Statement (.atnMaxu o) := by
  intro hw w h
  obtain rfl := Option.some.inj (show some _ = some w from h)
  rw [decode_atnMaxu] <;> simp [fld_cat_lo, fld_cat_hi, fld_self, flag_cat_lo, flag_cat_hi, flag_ofBool, accept, hw]

theorem decode_atnSwap {w : Word32} (h0 : fld w 26 6 = 25#6) (h1 : fld w 2 5 = 8#5) :
    decode w = accept (.atnSwap ⟨fld w 23 3, fld w 18 5, fld w 13 5, fld w 8 5, flag w 7, fld w 0 2⟩) := by
  unfold decode; rw [h0]; change decodeMajor19 w = _; unfold decodeMajor19; rw [h1]; rfl
theorem atnSwap (o : Atomic) : Statement (.atnSwap o) := by
  intro hw w h
  obtain rfl := Option.some.inj (show some _ = some w from h)
  rw [decode_atnSwap] <;> simp [fld_cat_lo, fld_cat_hi, fld_self, flag_cat_lo, flag_cat_hi, flag_ofBool, accept, hw]

theorem decode_atnCas {w : Word32} (h0 : fld w 26 6 = 25#6) (h1 : fld w 2 5 = 9#5) :
    decode w = accept (.atnCas ⟨fld w 23 3, fld w 18 5, fld w 13 5, fld w 8 5, flag w 7, fld w 0 2⟩) := by
  unfold decode; rw [h0]; change decodeMajor19 w = _; unfold decodeMajor19; rw [h1]; rfl
theorem atnCas (o : Atomic) : Statement (.atnCas o) := by
  intro hw w h
  obtain rfl := Option.some.inj (show some _ = some w from h)
  rw [decode_atnCas] <;> simp [fld_cat_lo, fld_cat_hi, fld_self, flag_cat_lo, flag_cat_hi, flag_ofBool, accept, hw]

theorem decode_atnIncb {w : Word32} (h0 : fld w 26 6 = 25#6) (h1 : fld w 2 5 = 10#5) :
    decode w = accept (.atnIncb ⟨fld w 23 3, fld w 18 5, fld w 13 5, fld w 8 5, flag w 7, fld w 0 2⟩) := by
  unfold decode; rw [h0]; change decodeMajor19 w = _; unfold decodeMajor19; rw [h1]; rfl
theorem atnIncb (o : Atomic) : Statement (.atnIncb o) := by
  intro hw w h
  obtain rfl := Option.some.inj (show some _ = some w from h)
  rw [decode_atnIncb] <;> simp [fld_cat_lo, fld_cat_hi, fld_self, flag_cat_lo, flag_cat_hi, flag_ofBool, accept, hw]

theorem decode_atnDecb {w : Word32} (h0 : fld w 26 6 = 25#6) (h1 : fld w 2 5 = 11#5) :
    decode w = accept (.atnDecb ⟨fld w 23 3, fld w 18 5, fld w 13 5, fld w 8 5, flag w 7, fld w 0 2⟩) := by
  unfold decode; rw [h0]; change decodeMajor19 w = _; unfold decodeMajor19; rw [h1]; rfl
theorem atnDecb (o : Atomic) : Statement (.atnDecb o) := by
  intro hw w h
  obtain rfl := Option.some.inj (show some _ = some w from h)
  rw [decode_atnDecb] <;> simp [fld_cat_lo, fld_cat_hi, fld_self, flag_cat_lo, flag_cat_hi, flag_ofBool, accept, hw]

theorem decode_atnFadd {w : Word32} (h0 : fld w 26 6 = 25#6) (h1 : fld w 2 5 = 16#5) :
    decode w = accept (.atnFadd ⟨fld w 23 3, fld w 18 5, fld w 13 5, fld w 8 5, flag w 7, fld w 0 2⟩) := by
  unfold decode; rw [h0]; change decodeMajor19 w = _; unfold decodeMajor19; rw [h1]; rfl
theorem atnFadd (o : Atomic) : Statement (.atnFadd o) := by
  intro hw w h
  obtain rfl := Option.some.inj (show some _ = some w from h)
  rw [decode_atnFadd] <;> simp [fld_cat_lo, fld_cat_hi, fld_self, flag_cat_lo, flag_cat_hi, flag_ofBool, accept, hw]

theorem decode_atnFmin {w : Word32} (h0 : fld w 26 6 = 25#6) (h1 : fld w 2 5 = 17#5) :
    decode w = accept (.atnFmin ⟨fld w 23 3, fld w 18 5, fld w 13 5, fld w 8 5, flag w 7, fld w 0 2⟩) := by
  unfold decode; rw [h0]; change decodeMajor19 w = _; unfold decodeMajor19; rw [h1]; rfl
theorem atnFmin (o : Atomic) : Statement (.atnFmin o) := by
  intro hw w h
  obtain rfl := Option.some.inj (show some _ = some w from h)
  rw [decode_atnFmin] <;> simp [fld_cat_lo, fld_cat_hi, fld_self, flag_cat_lo, flag_cat_hi, flag_ofBool, accept, hw]

theorem decode_atnFmax {w : Word32} (h0 : fld w 26 6 = 25#6) (h1 : fld w 2 5 = 18#5) :
    decode w = accept (.atnFmax ⟨fld w 23 3, fld w 18 5, fld w 13 5, fld w 8 5, flag w 7, fld w 0 2⟩) := by
  unfold decode; rw [h0]; change decodeMajor19 w = _; unfold decodeMajor19; rw [h1]; rfl
theorem atnFmax (o : Atomic) : Statement (.atnFmax o) := by
  intro hw w h
  obtain rfl := Option.some.inj (show some _ = some w from h)
  rw [decode_atnFmax] <;> simp [fld_cat_lo, fld_cat_hi, fld_self, flag_cat_lo, flag_cat_hi, flag_ofBool, accept, hw]

theorem decode_atnFaddP2 {w : Word32} (h0 : fld w 26 6 = 25#6) (h1 : fld w 2 5 = 20#5) :
    decode w = accept (.atnFaddP2 ⟨fld w 23 3, fld w 18 5, fld w 13 5, fld w 8 5, flag w 7, fld w 0 2⟩) := by
  unfold decode; rw [h0]; change decodeMajor19 w = _; unfold decodeMajor19; rw [h1]; rfl
theorem atnFaddP2 (o : Atomic) : Statement (.atnFaddP2 o) := by
  intro hw w h
  obtain rfl := Option.some.inj (show some _ = some w from h)
  rw [decode_atnFaddP2] <;> simp [fld_cat_lo, fld_cat_hi, fld_self, flag_cat_lo, flag_cat_hi, flag_ofBool, accept, hw]

theorem decode_atnFminP2 {w : Word32} (h0 : fld w 26 6 = 25#6) (h1 : fld w 2 5 = 21#5) :
    decode w = accept (.atnFminP2 ⟨fld w 23 3, fld w 18 5, fld w 13 5, fld w 8 5, flag w 7, fld w 0 2⟩) := by
  unfold decode; rw [h0]; change decodeMajor19 w = _; unfold decodeMajor19; rw [h1]; rfl
theorem atnFminP2 (o : Atomic) : Statement (.atnFminP2 o) := by
  intro hw w h
  obtain rfl := Option.some.inj (show some _ = some w from h)
  rw [decode_atnFminP2] <;> simp [fld_cat_lo, fld_cat_hi, fld_self, flag_cat_lo, flag_cat_hi, flag_ofBool, accept, hw]

theorem decode_atnFmaxP2 {w : Word32} (h0 : fld w 26 6 = 25#6) (h1 : fld w 2 5 = 22#5) :
    decode w = accept (.atnFmaxP2 ⟨fld w 23 3, fld w 18 5, fld w 13 5, fld w 8 5, flag w 7, fld w 0 2⟩) := by
  unfold decode; rw [h0]; change decodeMajor19 w = _; unfold decodeMajor19; rw [h1]; rfl
theorem atnFmaxP2 (o : Atomic) : Statement (.atnFmaxP2 o) := by
  intro hw w h
  obtain rfl := Option.some.inj (show some _ = some w from h)
  rw [decode_atnFmaxP2] <;> simp [fld_cat_lo, fld_cat_hi, fld_self, flag_cat_lo, flag_cat_hi, flag_ofBool, accept, hw]

theorem decode_cas128 {w : Word32} (h0 : fld w 26 6 = 26#6) (h1 : fld w 0 7 = 0#7) :
    decode w = accept (.cas128 ⟨fld w 23 3, fld w 18 5, fld w 13 5, fld w 8 5, flag w 7⟩) := by
  unfold decode; rw [h0]; change decodeMajor1A w = _; unfold decodeMajor1A; rw [h1]; rfl
theorem cas128 (o : Cas128) : Statement (.cas128 o) := by
  intro hw w h
  obtain rfl := Option.some.inj (show some _ = some w from h)
  rw [decode_cas128] <;> simp [fld_cat_lo, fld_cat_hi, fld_self, flag_cat_lo, flag_cat_hi, flag_ofBool, accept, hw]

theorem decode_fenceAcq {w : Word32} (h0 : fld w 26 6 = 27#6) (h1 : fld w 4 4 = 0#4) (h2 : fld w 0 4 = 0#4) (h3 : fld w 11 15 = 0#15) :
    decode w = accept (.fenceAcq (fld w 8 3)) := by
  unfold decode; rw [h0]; change decodeMajor1B w = _; unfold decodeMajor1B; rw [h1, h2, h3]; rfl
theorem fenceAcq (scope : BitVec 3) : Statement (.fenceAcq scope) := by
  intro hw w h
  obtain rfl := Option.some.inj (show some _ = some w from h)
  rw [decode_fenceAcq] <;> simp [fld_cat_lo, fld_cat_hi, fld_self, flag_cat_lo, flag_cat_hi, flag_ofBool, accept, hw] <;> rfl

theorem decode_fenceRel {w : Word32} (h0 : fld w 26 6 = 27#6) (h1 : fld w 4 4 = 1#4) (h2 : fld w 0 4 = 0#4) (h3 : fld w 11 15 = 0#15) :
    decode w = accept (.fenceRel (fld w 8 3)) := by
  unfold decode; rw [h0]; change decodeMajor1B w = _; unfold decodeMajor1B; rw [h1, h2, h3]; rfl
theorem fenceRel (scope : BitVec 3) : Statement (.fenceRel scope) := by
  intro hw w h
  obtain rfl := Option.some.inj (show some _ = some w from h)
  rw [decode_fenceRel] <;> simp [fld_cat_lo, fld_cat_hi, fld_self, flag_cat_lo, flag_cat_hi, flag_ofBool, accept, hw] <;> rfl

theorem decode_fenceSc {w : Word32} (h0 : fld w 26 6 = 27#6) (h1 : fld w 4 4 = 2#4) (h2 : fld w 0 4 = 0#4) (h3 : fld w 11 15 = 0#15) :
    decode w = accept (.fenceSc (fld w 8 3)) := by
  unfold decode; rw [h0]; change decodeMajor1B w = _; unfold decodeMajor1B; rw [h1, h2, h3]; rfl
theorem fenceSc (scope : BitVec 3) : Statement (.fenceSc scope) := by
  intro hw w h
  obtain rfl := Option.some.inj (show some _ = some w from h)
  rw [decode_fenceSc] <;> simp [fld_cat_lo, fld_cat_hi, fld_self, flag_cat_lo, flag_cat_hi, flag_ofBool, accept, hw] <;> rfl

theorem decode_fenceX {w : Word32} (h0 : fld w 26 6 = 27#6) (h1 : fld w 0 4 = 0#4) (h2 : fld w 11 15 = 0#15)
    (hx : 4 ≤ (fld w 4 4).toNat) : decode w = accept (.fenceX ⟨fld w 8 3, fld w 6 2, fld w 4 2⟩) := by
  unfold decode; rw [h0]; change decodeMajor1B w = _; unfold decodeMajor1B; rw [h1, h2]
  split
  · omega
  · omega
  · omega
  · rfl
theorem fenceX_code (a b : BitVec 2) (s : BitVec 3) (k : BitVec 21) (hc : a ≠ 0) :
    4 ≤ (fld (cat 32 k (cat 11 s (cat 8 a (cat 6 b 0#4)))) 4 4).toNat := by
  rw [fld_cat_lo k _ (by decide) (by decide), fld_cat_lo s _ (by decide) (by decide)]
  revert hc; revert a b; decide
theorem fenceX (o : FenceX) : Statement (.fenceX o) := by
  intro hw w h
  obtain rfl := Option.some.inj (show some _ = some w from h)
  have hc : o.ca ≠ 0 := by
    have h' : (scopeOk o.scope && o.ca != 0#2 && o.cb != 0#2 && o.ca != o.cb) = true := hw
    simp only [Bool.and_eq_true, bne_iff_ne] at h'
    exact h'.1.1.2
  rw [decode_fenceX (hx := fenceX_code _ _ _ _ hc)] <;> simp [fld_cat_lo, fld_cat_hi, fld_self, accept, hw] <;> rfl

theorem decode_crnew {w : Word32} (h0 : fld w 26 6 = 28#6) (h1 : fld w 4 7 = 0#7) (h2 : fld w 0 3 = 0#3) (h3 : fld w 11 5 = 0#5) (h4 : fld w 24 2 = 0#2) :
    decode w = accept (.crnew ⟨fld w 21 3, fld w 16 5, flag w 3⟩) := by
  unfold decode; rw [h0]; change decodeMajor1C w = _; unfold decodeMajor1C; rw [h1, h2, h3, h4]; rfl
theorem crnew (o : ViewNew) : Statement (.crnew o) := by
  intro hw w h
  obtain rfl := Option.some.inj (show some _ = some w from h)
  rw [decode_crnew] <;> simp [fld_cat_lo, fld_cat_hi, fld_self, flag_cat_lo, flag_cat_hi, flag_ofBool, accept, hw] <;> rfl

theorem decode_vsplit {w : Word32} (h0 : fld w 26 6 = 28#6) (h1 : fld w 4 7 = 1#7) (h2 : fld w 0 2 = 0#2) (h3 : fld w 14 2 = 0#2) (h4 : fld w 24 2 = 0#2) :
    decode w = accept (.vsplit ⟨fld w 21 3, fld w 16 5, fld w 11 3, flag w 3, flag w 2⟩) := by
  unfold decode; rw [h0]; change decodeMajor1C w = _; unfold decodeMajor1C; rw [h1, h2, h3, h4]; rfl
theorem vsplit (o : ViewSplit) : Statement (.vsplit o) := by
  intro hw w h
  obtain rfl := Option.some.inj (show some _ = some w from h)
  rw [decode_vsplit] <;> simp [fld_cat_lo, fld_cat_hi, fld_self, flag_cat_lo, flag_cat_hi, flag_ofBool, accept, hw] <;> rfl

theorem decode_vshare {w : Word32} (h0 : fld w 26 6 = 28#6) (h1 : fld w 4 7 = 2#7) (h2 : fld w 0 2 = 0#2) (h3 : fld w 3 1 = 0#1) (h4 : fld w 14 7 = 0#7) (h5 : fld w 24 2 = 0#2) :
    decode w = accept (.vshare ⟨fld w 21 3, fld w 11 3, flag w 2⟩) := by
  unfold decode; rw [h0]; change decodeMajor1C w = _; unfold decodeMajor1C; rw [h1, h2, h3, h4, h5]; rfl
theorem vshare (o : ViewTwo) : Statement (.vshare o) := by
  intro hw w h
  obtain rfl := Option.some.inj (show some _ = some w from h)
  rw [decode_vshare] <;> simp [fld_cat_lo, fld_cat_hi, fld_self, flag_cat_lo, flag_cat_hi, flag_ofBool, accept, hw] <;> rfl

theorem decode_vdemote {w : Word32} (h0 : fld w 26 6 = 28#6) (h1 : fld w 4 7 = 3#7) (h2 : fld w 0 4 = 0#4) (h3 : fld w 11 5 = 0#5) (h4 : fld w 19 2 = 0#2) (h5 : fld w 24 2 = 0#2) :
    decode w = accept (.vdemote ⟨fld w 21 3, fld w 16 3⟩) := by
  unfold decode; rw [h0]; change decodeMajor1C w = _; unfold decodeMajor1C; rw [h1, h2, h3, h4, h5]; rfl
theorem vdemote (o : ViewMask) : Statement (.vdemote o) := by
  intro hw w h
  obtain rfl := Option.some.inj (show some _ = some w from h)
  rw [decode_vdemote] <;> simp [fld_cat_lo, fld_cat_hi, fld_self, flag_cat_lo, flag_cat_hi, flag_ofBool, accept, hw] <;> rfl

theorem decode_vnarrow {w : Word32} (h0 : fld w 26 6 = 28#6) (h1 : fld w 4 7 = 4#7) (h2 : fld w 0 2 = 0#2) (h3 : fld w 24 2 = 0#2) :
    decode w = accept (.vnarrow ⟨fld w 21 3, fld w 16 5, fld w 11 5, flag w 3, flag w 2⟩) := by
  unfold decode; rw [h0]; change decodeMajor1C w = _; unfold decodeMajor1C; rw [h1, h2, h3]; rfl
theorem vnarrow (o : ViewNarrow) : Statement (.vnarrow o) := by
  intro hw w h
  obtain rfl := Option.some.inj (show some _ = some w from h)
  rw [decode_vnarrow] <;> simp [fld_cat_lo, fld_cat_hi, fld_self, flag_cat_lo, flag_cat_hi, flag_ofBool, accept, hw] <;> rfl

theorem decode_vdrop {w : Word32} (h0 : fld w 26 6 = 28#6) (h1 : fld w 4 7 = 5#7) (h2 : fld w 0 4 = 0#4) (h3 : fld w 11 10 = 0#10) (h4 : fld w 24 2 = 0#2) :
    decode w = accept (.vdrop (fld w 21 3)) := by
  unfold decode; rw [h0]; change decodeMajor1C w = _; unfold decodeMajor1C; rw [h1, h2, h3, h4]; rfl
theorem vdrop (ws : BitVec 3) : Statement (.vdrop ws) := by
  intro hw w h
  obtain rfl := Option.some.inj (show some _ = some w from h)
  rw [decode_vdrop] <;> simp [fld_cat_lo, fld_cat_hi, fld_self, flag_cat_lo, flag_cat_hi, flag_ofBool, accept, hw] <;> rfl

theorem decode_vquery {w : Word32} (h0 : fld w 26 6 = 28#6) (h1 : fld w 4 7 = 6#7) (h2 : fld w 3 1 = 0#1) (h3 : fld w 14 7 = 0#7) :
    decode w = accept (.vquery ⟨fld w 21 5, fld w 11 3, flag w 2, fld w 0 2⟩) := by
  unfold decode; rw [h0]; change decodeMajor1C w = _; unfold decodeMajor1C; rw [h1, h2, h3]; rfl
theorem vquery (o : ViewQuery) : Statement (.vquery o) := by
  intro hw w h
  obtain rfl := Option.some.inj (show some _ = some w from h)
  rw [decode_vquery] <;> simp [fld_cat_lo, fld_cat_hi, fld_self, flag_cat_lo, flag_cat_hi, flag_ofBool, accept, hw] <;> rfl

theorem decode_vmove {w : Word32} (h0 : fld w 26 6 = 28#6) (h1 : fld w 4 7 = 7#7) (h2 : fld w 0 2 = 0#2) (h3 : fld w 3 1 = 0#1) (h4 : fld w 14 7 = 0#7) (h5 : fld w 24 2 = 0#2) :
    decode w = accept (.vmove ⟨fld w 21 3, fld w 11 3, flag w 2⟩) := by
  unfold decode; rw [h0]; change decodeMajor1C w = _; unfold decodeMajor1C; rw [h1, h2, h3, h4, h5]; rfl
theorem vmove (o : ViewTwo) : Statement (.vmove o) := by
  intro hw w h
  obtain rfl := Option.some.inj (show some _ = some w from h)
  rw [decode_vmove] <;> simp [fld_cat_lo, fld_cat_hi, fld_self, flag_cat_lo, flag_cat_hi, flag_ofBool, accept, hw] <;> rfl

theorem decode_qcfgAff {w : Word32} (h0 : fld w 26 6 = 40#6) (h1 : fld w 4 7 = 0#7) (h2 : fld w 0 3 = 0#3) (h3 : fld w 11 5 = 0#5) (h4 : fld w 23 3 = 0#3) :
    decode w = accept (.qcfgAff ⟨fld w 21 2, fld w 16 5, flag w 3⟩) := by
  unfold decode; rw [h0]; change decodeMajor28 w = _; unfold decodeMajor28; rw [h1, h2, h3, h4]; rfl
theorem qcfgAff (o : StreamW) : Statement (.qcfgAff o) := by
  intro hw w h
  obtain rfl := Option.some.inj (show some _ = some w from h)
  rw [decode_qcfgAff] <;> simp [fld_cat_lo, fld_cat_hi, fld_self, flag_cat_lo, flag_cat_hi, flag_ofBool, accept, hw] <;> rfl

theorem decode_qcfgSkip {w : Word32} (h0 : fld w 26 6 = 40#6) (h1 : fld w 4 7 = 0#7) (h2 : fld w 0 3 = 1#3) (h3 : fld w 11 5 = 0#5) (h4 : fld w 23 3 = 0#3) :
    decode w = accept (.qcfgSkip ⟨fld w 21 2, fld w 16 5, flag w 3⟩) := by
  unfold decode; rw [h0]; change decodeMajor28 w = _; unfold decodeMajor28; rw [h1, h2, h3, h4]; rfl
theorem qcfgSkip (o : StreamW) : Statement (.qcfgSkip o) := by
  intro hw w h
  obtain rfl := Option.some.inj (show some _ = some w from h)
  rw [decode_qcfgSkip] <;> simp [fld_cat_lo, fld_cat_hi, fld_self, flag_cat_lo, flag_cat_hi, flag_ofBool, accept, hw] <;> rfl

theorem decode_qnext {w : Word32} (h0 : fld w 26 6 = 40#6) (h1 : fld w 4 7 = 1#7) (h2 : fld w 0 3 = 0#3) (h3 : fld w 11 5 = 0#5) (h4 : fld w 23 3 = 0#3) :
    decode w = accept (.qnext ⟨fld w 21 2, fld w 16 5, flag w 3⟩) := by
  unfold decode; rw [h0]; change decodeMajor28 w = _; unfold decodeMajor28; rw [h1, h2, h3, h4]; rfl
theorem qnext (o : StreamW) : Statement (.qnext o) := by
  intro hw w h
  obtain rfl := Option.some.inj (show some _ = some w from h)
  rw [decode_qnext] <;> simp [fld_cat_lo, fld_cat_hi, fld_self, flag_cat_lo, flag_cat_hi, flag_ofBool, accept, hw] <;> rfl

theorem decode_qrd {w : Word32} (h0 : fld w 26 6 = 40#6) (h1 : fld w 4 7 = 2#7) (h2 : fld w 3 1 = 0#1) (h3 : fld w 13 8 = 0#8) :
    decode w = accept (.qrd ⟨fld w 21 5, fld w 11 2, flag w 2, fld w 0 2⟩) := by
  unfold decode; rw [h0]; change decodeMajor28 w = _; unfold decodeMajor28; rw [h1, h2, h3]; rfl
theorem qrd (o : StreamRd) : Statement (.qrd o) := by
  intro hw w h
  obtain rfl := Option.some.inj (show some _ = some w from h)
  rw [decode_qrd] <;> simp [fld_cat_lo, fld_cat_hi, fld_self, flag_cat_lo, flag_cat_hi, flag_ofBool, accept, hw] <;> rfl

theorem decode_rep {w : Word32} (h0 : fld w 26 6 = 40#6) (h1 : fld w 4 7 = 4#7) (h2 : fld w 0 2 = 0#2) (h3 : fld w 24 2 = 0#2) :
    decode w = accept (.rep ⟨fld w 21 3, fld w 16 5, fld w 11 5, flag w 3, flag w 2⟩) := by
  unfold decode; rw [h0]; change decodeMajor28 w = _; unfold decodeMajor28; rw [h1, h2, h3]; rfl
theorem rep (o : RepW) : Statement (.rep o) := by
  intro hw w h
  obtain rfl := Option.some.inj (show some _ = some w from h)
  rw [decode_rep] <;> simp [fld_cat_lo, fld_cat_hi, fld_self, flag_cat_lo, flag_cat_hi, flag_ofBool, accept, hw] <;> rfl

theorem decode_repx {w : Word32} (h0 : fld w 26 6 = 40#6) (h1 : fld w 4 7 = 5#7) (h2 : fld w 0 2 = 0#2) (h3 : fld w 24 2 = 0#2) :
    decode w = accept (.repx ⟨fld w 21 3, fld w 16 5, fld w 11 5, flag w 3, flag w 2⟩) := by
  unfold decode; rw [h0]; change decodeMajor28 w = _; unfold decodeMajor28; rw [h1, h2, h3]; rfl
theorem repx (o : RepW) : Statement (.repx o) := by
  intro hw w h
  obtain rfl := Option.some.inj (show some _ = some w from h)
  rw [decode_repx] <;> simp [fld_cat_lo, fld_cat_hi, fld_self, flag_cat_lo, flag_cat_hi, flag_ofBool, accept, hw] <;> rfl

theorem decode_vadd {w : Word32} (h0 : fld w 26 6 = 48#6) (h1 : fld w 2 5 = 0#5) :
    decode w = accept (.vadd ⟨fld w 22 4, fld w 18 4, fld w 14 4, fld w 11 3, flag w 10, fld w 8 2, flag w 7, flag w 1, flag w 0⟩) := by
  unfold decode; rw [h0]; change decodeMajor30 w = _; unfold decodeMajor30; rw [h1]; rfl
theorem vadd (o : Vec2) : Statement (.vadd o) := by
  intro hw w h
  obtain rfl := Option.some.inj (show some _ = some w from h)
  rw [decode_vadd] <;> simp [fld_cat_lo, fld_cat_hi, fld_self, flag_cat_lo, flag_cat_hi, flag_ofBool, accept, hw]

theorem decode_vsub {w : Word32} (h0 : fld w 26 6 = 48#6) (h1 : fld w 2 5 = 1#5) :
    decode w = accept (.vsub ⟨fld w 22 4, fld w 18 4, fld w 14 4, fld w 11 3, flag w 10, fld w 8 2, flag w 7, flag w 1, flag w 0⟩) := by
  unfold decode; rw [h0]; change decodeMajor30 w = _; unfold decodeMajor30; rw [h1]; rfl
theorem vsub (o : Vec2) : Statement (.vsub o) := by
  intro hw w h
  obtain rfl := Option.some.inj (show some _ = some w from h)
  rw [decode_vsub] <;> simp [fld_cat_lo, fld_cat_hi, fld_self, flag_cat_lo, flag_cat_hi, flag_ofBool, accept, hw]

theorem decode_vmul {w : Word32} (h0 : fld w 26 6 = 48#6) (h1 : fld w 2 5 = 2#5) :
    decode w = accept (.vmul ⟨fld w 22 4, fld w 18 4, fld w 14 4, fld w 11 3, flag w 10, fld w 8 2, flag w 7, flag w 1, flag w 0⟩) := by
  unfold decode; rw [h0]; change decodeMajor30 w = _; unfold decodeMajor30; rw [h1]; rfl
theorem vmul (o : Vec2) : Statement (.vmul o) := by
  intro hw w h
  obtain rfl := Option.some.inj (show some _ = some w from h)
  rw [decode_vmul] <;> simp [fld_cat_lo, fld_cat_hi, fld_self, flag_cat_lo, flag_cat_hi, flag_ofBool, accept, hw]

theorem decode_vmulh {w : Word32} (h0 : fld w 26 6 = 48#6) (h1 : fld w 2 5 = 3#5) :
    decode w = accept (.vmulh ⟨fld w 22 4, fld w 18 4, fld w 14 4, fld w 11 3, flag w 10, fld w 8 2, flag w 7, flag w 1, flag w 0⟩) := by
  unfold decode; rw [h0]; change decodeMajor30 w = _; unfold decodeMajor30; rw [h1]; rfl
theorem vmulh (o : Vec2) : Statement (.vmulh o) := by
  intro hw w h
  obtain rfl := Option.some.inj (show some _ = some w from h)
  rw [decode_vmulh] <;> simp [fld_cat_lo, fld_cat_hi, fld_self, flag_cat_lo, flag_cat_hi, flag_ofBool, accept, hw]

theorem decode_vdot {w : Word32} (h0 : fld w 26 6 = 48#6) (h1 : fld w 2 5 = 4#5) :
    decode w = accept (.vdot ⟨fld w 22 4, fld w 18 4, fld w 14 4, fld w 11 3, flag w 10, fld w 8 2, flag w 7, flag w 1, flag w 0⟩) := by
  unfold decode; rw [h0]; change decodeMajor30 w = _; unfold decodeMajor30; rw [h1]; rfl
theorem vdot (o : Vec2) : Statement (.vdot o) := by
  intro hw w h
  obtain rfl := Option.some.inj (show some _ = some w from h)
  rw [decode_vdot] <;> simp [fld_cat_lo, fld_cat_hi, fld_self, flag_cat_lo, flag_cat_hi, flag_ofBool, accept, hw]

theorem decode_vmin {w : Word32} (h0 : fld w 26 6 = 48#6) (h1 : fld w 2 5 = 5#5) :
    decode w = accept (.vmin ⟨fld w 22 4, fld w 18 4, fld w 14 4, fld w 11 3, flag w 10, fld w 8 2, flag w 7, flag w 1, flag w 0⟩) := by
  unfold decode; rw [h0]; change decodeMajor30 w = _; unfold decodeMajor30; rw [h1]; rfl
theorem vmin (o : Vec2) : Statement (.vmin o) := by
  intro hw w h
  obtain rfl := Option.some.inj (show some _ = some w from h)
  rw [decode_vmin] <;> simp [fld_cat_lo, fld_cat_hi, fld_self, flag_cat_lo, flag_cat_hi, flag_ofBool, accept, hw]

theorem decode_vmax {w : Word32} (h0 : fld w 26 6 = 48#6) (h1 : fld w 2 5 = 6#5) :
    decode w = accept (.vmax ⟨fld w 22 4, fld w 18 4, fld w 14 4, fld w 11 3, flag w 10, fld w 8 2, flag w 7, flag w 1, flag w 0⟩) := by
  unfold decode; rw [h0]; change decodeMajor30 w = _; unfold decodeMajor30; rw [h1]; rfl
theorem vmax (o : Vec2) : Statement (.vmax o) := by
  intro hw w h
  obtain rfl := Option.some.inj (show some _ = some w from h)
  rw [decode_vmax] <;> simp [fld_cat_lo, fld_cat_hi, fld_self, flag_cat_lo, flag_cat_hi, flag_ofBool, accept, hw]

theorem decode_vand {w : Word32} (h0 : fld w 26 6 = 48#6) (h1 : fld w 2 5 = 7#5) :
    decode w = accept (.vand ⟨fld w 22 4, fld w 18 4, fld w 14 4, fld w 11 3, flag w 10, fld w 8 2, flag w 7, flag w 1, flag w 0⟩) := by
  unfold decode; rw [h0]; change decodeMajor30 w = _; unfold decodeMajor30; rw [h1]; rfl
theorem vand (o : Vec2) : Statement (.vand o) := by
  intro hw w h
  obtain rfl := Option.some.inj (show some _ = some w from h)
  rw [decode_vand] <;> simp [fld_cat_lo, fld_cat_hi, fld_self, flag_cat_lo, flag_cat_hi, flag_ofBool, accept, hw]

theorem decode_vor {w : Word32} (h0 : fld w 26 6 = 48#6) (h1 : fld w 2 5 = 8#5) :
    decode w = accept (.vor ⟨fld w 22 4, fld w 18 4, fld w 14 4, fld w 11 3, flag w 10, fld w 8 2, flag w 7, flag w 1, flag w 0⟩) := by
  unfold decode; rw [h0]; change decodeMajor30 w = _; unfold decodeMajor30; rw [h1]; rfl
theorem vor (o : Vec2) : Statement (.vor o) := by
  intro hw w h
  obtain rfl := Option.some.inj (show some _ = some w from h)
  rw [decode_vor] <;> simp [fld_cat_lo, fld_cat_hi, fld_self, flag_cat_lo, flag_cat_hi, flag_ofBool, accept, hw]

theorem decode_vxor {w : Word32} (h0 : fld w 26 6 = 48#6) (h1 : fld w 2 5 = 9#5) :
    decode w = accept (.vxor ⟨fld w 22 4, fld w 18 4, fld w 14 4, fld w 11 3, flag w 10, fld w 8 2, flag w 7, flag w 1, flag w 0⟩) := by
  unfold decode; rw [h0]; change decodeMajor30 w = _; unfold decodeMajor30; rw [h1]; rfl
theorem vxor (o : Vec2) : Statement (.vxor o) := by
  intro hw w h
  obtain rfl := Option.some.inj (show some _ = some w from h)
  rw [decode_vxor] <;> simp [fld_cat_lo, fld_cat_hi, fld_self, flag_cat_lo, flag_cat_hi, flag_ofBool, accept, hw]

theorem decode_vsll {w : Word32} (h0 : fld w 26 6 = 48#6) (h1 : fld w 2 5 = 10#5) :
    decode w = accept (.vsll ⟨fld w 22 4, fld w 18 4, fld w 14 4, fld w 11 3, flag w 10, fld w 8 2, flag w 7, flag w 1, flag w 0⟩) := by
  unfold decode; rw [h0]; change decodeMajor30 w = _; unfold decodeMajor30; rw [h1]; rfl
theorem vsll (o : Vec2) : Statement (.vsll o) := by
  intro hw w h
  obtain rfl := Option.some.inj (show some _ = some w from h)
  rw [decode_vsll] <;> simp [fld_cat_lo, fld_cat_hi, fld_self, flag_cat_lo, flag_cat_hi, flag_ofBool, accept, hw]

theorem decode_vsrl {w : Word32} (h0 : fld w 26 6 = 48#6) (h1 : fld w 2 5 = 11#5) :
    decode w = accept (.vsrl ⟨fld w 22 4, fld w 18 4, fld w 14 4, fld w 11 3, flag w 10, fld w 8 2, flag w 7, flag w 1, flag w 0⟩) := by
  unfold decode; rw [h0]; change decodeMajor30 w = _; unfold decodeMajor30; rw [h1]; rfl
theorem vsrl (o : Vec2) : Statement (.vsrl o) := by
  intro hw w h
  obtain rfl := Option.some.inj (show some _ = some w from h)
  rw [decode_vsrl] <;> simp [fld_cat_lo, fld_cat_hi, fld_self, flag_cat_lo, flag_cat_hi, flag_ofBool, accept, hw]

theorem decode_vsra {w : Word32} (h0 : fld w 26 6 = 48#6) (h1 : fld w 2 5 = 12#5) :
    decode w = accept (.vsra ⟨fld w 22 4, fld w 18 4, fld w 14 4, fld w 11 3, flag w 10, fld w 8 2, flag w 7, flag w 1, flag w 0⟩) := by
  unfold decode; rw [h0]; change decodeMajor30 w = _; unfold decodeMajor30; rw [h1]; rfl
theorem vsra (o : Vec2) : Statement (.vsra o) := by
  intro hw w h
  obtain rfl := Option.some.inj (show some _ = some w from h)
  rw [decode_vsra] <;> simp [fld_cat_lo, fld_cat_hi, fld_self, flag_cat_lo, flag_cat_hi, flag_ofBool, accept, hw]

theorem decode_vabs {w : Word32} (h0 : fld w 26 6 = 48#6) (h1 : fld w 2 5 = 13#5) (h2 : fld w 0 1 = 0#1) (h3 : fld w 14 4 = 0#4) :
    decode w = accept (.vabs ⟨fld w 22 4, fld w 18 4, fld w 11 3, flag w 10, fld w 8 2, flag w 7, flag w 1⟩) := by
  unfold decode; rw [h0]; change decodeMajor30 w = _; unfold decodeMajor30; rw [h1, h2, h3]; rfl
theorem vabs (o : Vec1) : Statement (.vabs o) := by
  intro hw w h
  obtain rfl := Option.some.inj (show some _ = some w from h)
  rw [decode_vabs] <;> simp [fld_cat_lo, fld_cat_hi, fld_self, flag_cat_lo, flag_cat_hi, flag_ofBool, accept, hw]

theorem decode_vadds {w : Word32} (h0 : fld w 26 6 = 48#6) (h1 : fld w 2 5 = 14#5) :
    decode w = accept (.vadds ⟨fld w 22 4, fld w 18 4, fld w 14 4, fld w 11 3, flag w 10, fld w 8 2, flag w 7, flag w 1, flag w 0⟩) := by
  unfold decode; rw [h0]; change decodeMajor30 w = _; unfold decodeMajor30; rw [h1]; rfl
theorem vadds (o : Vec2) : Statement (.vadds o) := by
  intro hw w h
  obtain rfl := Option.some.inj (show some _ = some w from h)
  rw [decode_vadds] <;> simp [fld_cat_lo, fld_cat_hi, fld_self, flag_cat_lo, flag_cat_hi, flag_ofBool, accept, hw]

theorem decode_vsubs {w : Word32} (h0 : fld w 26 6 = 48#6) (h1 : fld w 2 5 = 15#5) :
    decode w = accept (.vsubs ⟨fld w 22 4, fld w 18 4, fld w 14 4, fld w 11 3, flag w 10, fld w 8 2, flag w 7, flag w 1, flag w 0⟩) := by
  unfold decode; rw [h0]; change decodeMajor30 w = _; unfold decodeMajor30; rw [h1]; rfl
theorem vsubs (o : Vec2) : Statement (.vsubs o) := by
  intro hw w h
  obtain rfl := Option.some.inj (show some _ = some w from h)
  rw [decode_vsubs] <;> simp [fld_cat_lo, fld_cat_hi, fld_self, flag_cat_lo, flag_cat_hi, flag_ofBool, accept, hw]

theorem decode_vfadd {w : Word32} (h0 : fld w 26 6 = 49#6) (h1 : fld w 2 5 = 0#5) :
    decode w = accept (.vfadd ⟨fld w 22 4, fld w 18 4, fld w 14 4, fld w 11 3, flag w 10, fld w 8 2, flag w 7, flag w 1, flag w 0⟩) := by
  unfold decode; rw [h0]; change decodeMajor31 w = _; unfold decodeMajor31; rw [h1]; rfl
theorem vfadd (o : Vec2) : Statement (.vfadd o) := by
  intro hw w h
  obtain rfl := Option.some.inj (show some _ = some w from h)
  rw [decode_vfadd] <;> simp [fld_cat_lo, fld_cat_hi, fld_self, flag_cat_lo, flag_cat_hi, flag_ofBool, accept, hw]

theorem decode_vfsub {w : Word32} (h0 : fld w 26 6 = 49#6) (h1 : fld w 2 5 = 1#5) :
    decode w = accept (.vfsub ⟨fld w 22 4, fld w 18 4, fld w 14 4, fld w 11 3, flag w 10, fld w 8 2, flag w 7, flag w 1, flag w 0⟩) := by
  unfold decode; rw [h0]; change decodeMajor31 w = _; unfold decodeMajor31; rw [h1]; rfl
theorem vfsub (o : Vec2) : Statement (.vfsub o) := by
  intro hw w h
  obtain rfl := Option.some.inj (show some _ = some w from h)
  rw [decode_vfsub] <;> simp [fld_cat_lo, fld_cat_hi, fld_self, flag_cat_lo, flag_cat_hi, flag_ofBool, accept, hw]

theorem decode_vfmul {w : Word32} (h0 : fld w 26 6 = 49#6) (h1 : fld w 2 5 = 2#5) :
    decode w = accept (.vfmul ⟨fld w 22 4, fld w 18 4, fld w 14 4, fld w 11 3, flag w 10, fld w 8 2, flag w 7, flag w 1, flag w 0⟩) := by
  unfold decode; rw [h0]; change decodeMajor31 w = _; unfold decodeMajor31; rw [h1]; rfl
theorem vfmul (o : Vec2) : Statement (.vfmul o) := by
  intro hw w h
  obtain rfl := Option.some.inj (show some _ = some w from h)
  rw [decode_vfmul] <;> simp [fld_cat_lo, fld_cat_hi, fld_self, flag_cat_lo, flag_cat_hi, flag_ofBool, accept, hw]

theorem decode_vfdiv {w : Word32} (h0 : fld w 26 6 = 49#6) (h1 : fld w 2 5 = 3#5) :
    decode w = accept (.vfdiv ⟨fld w 22 4, fld w 18 4, fld w 14 4, fld w 11 3, flag w 10, fld w 8 2, flag w 7, flag w 1, flag w 0⟩) := by
  unfold decode; rw [h0]; change decodeMajor31 w = _; unfold decodeMajor31; rw [h1]; rfl
theorem vfdiv (o : Vec2) : Statement (.vfdiv o) := by
  intro hw w h
  obtain rfl := Option.some.inj (show some _ = some w from h)
  rw [decode_vfdiv] <;> simp [fld_cat_lo, fld_cat_hi, fld_self, flag_cat_lo, flag_cat_hi, flag_ofBool, accept, hw]

theorem decode_vfsqrt {w : Word32} (h0 : fld w 26 6 = 49#6) (h1 : fld w 2 5 = 4#5) (h2 : fld w 0 1 = 0#1) (h3 : fld w 14 4 = 0#4) :
    decode w = accept (.vfsqrt ⟨fld w 22 4, fld w 18 4, fld w 11 3, flag w 10, fld w 8 2, flag w 7, flag w 1⟩) := by
  unfold decode; rw [h0]; change decodeMajor31 w = _; unfold decodeMajor31; rw [h1, h2, h3]; rfl
theorem vfsqrt (o : Vec1) : Statement (.vfsqrt o) := by
  intro hw w h
  obtain rfl := Option.some.inj (show some _ = some w from h)
  rw [decode_vfsqrt] <;> simp [fld_cat_lo, fld_cat_hi, fld_self, flag_cat_lo, flag_cat_hi, flag_ofBool, accept, hw]

theorem decode_vfmin {w : Word32} (h0 : fld w 26 6 = 49#6) (h1 : fld w 2 5 = 5#5) :
    decode w = accept (.vfmin ⟨fld w 22 4, fld w 18 4, fld w 14 4, fld w 11 3, flag w 10, fld w 8 2, flag w 7, flag w 1, flag w 0⟩) := by
  unfold decode; rw [h0]; change decodeMajor31 w = _; unfold decodeMajor31; rw [h1]; rfl
theorem vfmin (o : Vec2) : Statement (.vfmin o) := by
  intro hw w h
  obtain rfl := Option.some.inj (show some _ = some w from h)
  rw [decode_vfmin] <;> simp [fld_cat_lo, fld_cat_hi, fld_self, flag_cat_lo, flag_cat_hi, flag_ofBool, accept, hw]

theorem decode_vfmax {w : Word32} (h0 : fld w 26 6 = 49#6) (h1 : fld w 2 5 = 6#5) :
    decode w = accept (.vfmax ⟨fld w 22 4, fld w 18 4, fld w 14 4, fld w 11 3, flag w 10, fld w 8 2, flag w 7, flag w 1, flag w 0⟩) := by
  unfold decode; rw [h0]; change decodeMajor31 w = _; unfold decodeMajor31; rw [h1]; rfl
theorem vfmax (o : Vec2) : Statement (.vfmax o) := by
  intro hw w h
  obtain rfl := Option.some.inj (show some _ = some w from h)
  rw [decode_vfmax] <;> simp [fld_cat_lo, fld_cat_hi, fld_self, flag_cat_lo, flag_cat_hi, flag_ofBool, accept, hw]

theorem decode_vfma {w : Word32} (h0 : fld w 26 6 = 50#6) (h1 : fld w 2 5 = 0#5) :
    decode w = accept (.vfma ⟨fld w 22 4, fld w 18 4, fld w 14 4, fld w 11 3, flag w 10, fld w 8 2, flag w 7, flag w 1, flag w 0⟩) := by
  unfold decode; rw [h0]; change decodeMajor32 w = _; unfold decodeMajor32; rw [h1]; rfl
theorem vfma (o : Vec2) : Statement (.vfma o) := by
  intro hw w h
  obtain rfl := Option.some.inj (show some _ = some w from h)
  rw [decode_vfma] <;> simp [fld_cat_lo, fld_cat_hi, fld_self, flag_cat_lo, flag_cat_hi, flag_ofBool, accept, hw]

theorem decode_vld {w : Word32} (h0 : fld w 26 6 = 51#6) (h1 : fld w 2 5 = 0#5) (h2 : fld w 0 1 = 0#1) :
    decode w = accept (.vld ⟨fld w 22 4, fld w 18 4, fld w 14 4, fld w 11 3, flag w 10, fld w 8 2, flag w 7, flag w 1⟩) := by
  unfold decode; rw [h0]; change decodeMajor33 w = _; unfold decodeMajor33; rw [h1, h2]; rfl
theorem vld (o : VecMem) : Statement (.vld o) := by
  intro hw w h
  obtain rfl := Option.some.inj (show some _ = some w from h)
  rw [decode_vld] <;> simp [fld_cat_lo, fld_cat_hi, fld_self, flag_cat_lo, flag_cat_hi, flag_ofBool, accept, hw]

theorem decode_vst {w : Word32} (h0 : fld w 26 6 = 51#6) (h1 : fld w 2 5 = 1#5) (h2 : fld w 0 1 = 0#1) (h3 : fld w 7 1 = 0#1) :
    decode w = accept (.vst ⟨fld w 22 4, fld w 18 4, fld w 14 4, fld w 11 3, flag w 10, fld w 8 2, flag w 1⟩) := by
  unfold decode; rw [h0]; change decodeMajor33 w = _; unfold decodeMajor33; rw [h1, h2, h3]; rfl
theorem vst (o : VecStore) : Statement (.vst o) := by
  intro hw w h
  obtain rfl := Option.some.inj (show some _ = some w from h)
  rw [decode_vst] <;> simp [fld_cat_lo, fld_cat_hi, fld_self, flag_cat_lo, flag_cat_hi, flag_ofBool, accept, hw] <;> rfl

theorem decode_vldq {w : Word32} (h0 : fld w 26 6 = 51#6) (h1 : fld w 2 5 = 2#5) (h2 : fld w 0 2 = 0#2) (h3 : fld w 16 6 = 0#6) :
    decode w = accept (.vldq ⟨fld w 22 4, fld w 14 2, fld w 11 3, flag w 10, fld w 8 2, flag w 7⟩) := by
  unfold decode; rw [h0]; change decodeMajor33 w = _; unfold decodeMajor33; rw [h1, h2, h3]; rfl
theorem vldq (o : VecStream) : Statement (.vldq o) := by
  intro hw w h
  obtain rfl := Option.some.inj (show some _ = some w from h)
  rw [decode_vldq] <;> simp [fld_cat_lo, fld_cat_hi, fld_self, flag_cat_lo, flag_cat_hi, flag_ofBool, accept, hw] <;> rfl

theorem decode_vstq {w : Word32} (h0 : fld w 26 6 = 51#6) (h1 : fld w 2 5 = 3#5) (h2 : fld w 0 2 = 0#2) (h3 : fld w 7 1 = 0#1) (h4 : fld w 16 6 = 0#6) :
    decode w = accept (.vstq ⟨fld w 22 4, fld w 14 2, fld w 11 3, flag w 10, fld w 8 2⟩) := by
  unfold decode; rw [h0]; change decodeMajor33 w = _; unfold decodeMajor33; rw [h1, h2, h3, h4]; rfl
theorem vstq (o : VecStreamSt) : Statement (.vstq o) := by
  intro hw w h
  obtain rfl := Option.some.inj (show some _ = some w from h)
  rw [decode_vstq] <;> simp [fld_cat_lo, fld_cat_hi, fld_self, flag_cat_lo, flag_cat_hi, flag_ofBool, accept, hw] <;> rfl

theorem decode_vgath {w : Word32} (h0 : fld w 26 6 = 51#6) (h1 : fld w 2 5 = 4#5) :
    decode w = accept (.vgath ⟨fld w 22 4, fld w 18 4, fld w 14 4, fld w 11 3, flag w 10, fld w 8 2, flag w 7, flag w 1, flag w 0⟩) := by
  unfold decode; rw [h0]; change decodeMajor33 w = _; unfold decodeMajor33; rw [h1]; rfl
theorem vgath (o : Vec2) : Statement (.vgath o) := by
  intro hw w h
  obtain rfl := Option.some.inj (show some _ = some w from h)
  rw [decode_vgath] <;> simp [fld_cat_lo, fld_cat_hi, fld_self, flag_cat_lo, flag_cat_hi, flag_ofBool, accept, hw]

theorem decode_vscat {w : Word32} (h0 : fld w 26 6 = 51#6) (h1 : fld w 2 5 = 5#5) (h2 : fld w 7 1 = 0#1) :
    decode w = accept (.vscat ⟨fld w 22 4, fld w 18 4, fld w 14 4, fld w 11 3, flag w 10, fld w 8 2, flag w 1, flag w 0⟩) := by
  unfold decode; rw [h0]; change decodeMajor33 w = _; unfold decodeMajor33; rw [h1, h2]; rfl
theorem vscat (o : VecScatter) : Statement (.vscat o) := by
  intro hw w h
  obtain rfl := Option.some.inj (show some _ = some w from h)
  rw [decode_vscat] <;> simp [fld_cat_lo, fld_cat_hi, fld_self, flag_cat_lo, flag_cat_hi, flag_ofBool, accept, hw] <;> rfl

theorem decode_vldf {w : Word32} (h0 : fld w 26 6 = 51#6) (h1 : fld w 2 5 = 6#5) (h2 : fld w 0 1 = 0#1) (h3 : fld w 14 4 = 0#4) :
    decode w = accept (.vldf ⟨fld w 22 4, fld w 18 4, fld w 11 3, flag w 10, fld w 8 2, flag w 7, flag w 1⟩) := by
  unfold decode; rw [h0]; change decodeMajor33 w = _; unfold decodeMajor33; rw [h1, h2, h3]; rfl
theorem vldf (o : Vec1) : Statement (.vldf o) := by
  intro hw w h
  obtain rfl := Option.some.inj (show some _ = some w from h)
  rw [decode_vldf] <;> simp [fld_cat_lo, fld_cat_hi, fld_self, flag_cat_lo, flag_cat_hi, flag_ofBool, accept, hw]

theorem decode_vbcast {w : Word32} (h0 : fld w 26 6 = 51#6) (h1 : fld w 2 5 = 7#5) (h2 : fld w 0 1 = 0#1) :
    decode w = accept (.vbcast ⟨fld w 22 4, fld w 18 4, fld w 14 4, fld w 11 3, flag w 10, fld w 8 2, flag w 7, flag w 1⟩) := by
  unfold decode; rw [h0]; change decodeMajor33 w = _; unfold decodeMajor33; rw [h1, h2]; rfl
theorem vbcast (o : VecMem) : Statement (.vbcast o) := by
  intro hw w h
  obtain rfl := Option.some.inj (show some _ = some w from h)
  rw [decode_vbcast] <;> simp [fld_cat_lo, fld_cat_hi, fld_self, flag_cat_lo, flag_cat_hi, flag_ofBool, accept, hw]

theorem decode_vshuf {w : Word32} (h0 : fld w 26 6 = 52#6) (h1 : fld w 2 5 = 0#5) :
    decode w = accept (.vshuf ⟨fld w 22 4, fld w 18 4, fld w 14 4, fld w 11 3, flag w 10, fld w 8 2, flag w 7, flag w 1, flag w 0⟩) := by
  unfold decode; rw [h0]; change decodeMajor34 w = _; unfold decodeMajor34; rw [h1]; rfl
theorem vshuf (o : Vec2) : Statement (.vshuf o) := by
  intro hw w h
  obtain rfl := Option.some.inj (show some _ = some w from h)
  rw [decode_vshuf] <;> simp [fld_cat_lo, fld_cat_hi, fld_self, flag_cat_lo, flag_cat_hi, flag_ofBool, accept, hw]

theorem decode_vzip {w : Word32} (h0 : fld w 26 6 = 52#6) (h1 : fld w 2 5 = 1#5) :
    decode w = accept (.vzip ⟨fld w 22 4, fld w 18 4, fld w 14 4, fld w 11 3, flag w 10, fld w 8 2, flag w 7, flag w 1, flag w 0⟩) := by
  unfold decode; rw [h0]; change decodeMajor34 w = _; unfold decodeMajor34; rw [h1]; rfl
theorem vzip (o : Vec2) : Statement (.vzip o) := by
  intro hw w h
  obtain rfl := Option.some.inj (show some _ = some w from h)
  rw [decode_vzip] <;> simp [fld_cat_lo, fld_cat_hi, fld_self, flag_cat_lo, flag_cat_hi, flag_ofBool, accept, hw]

theorem decode_vuzp {w : Word32} (h0 : fld w 26 6 = 52#6) (h1 : fld w 2 5 = 2#5) :
    decode w = accept (.vuzp ⟨fld w 22 4, fld w 18 4, fld w 14 4, fld w 11 3, flag w 10, fld w 8 2, flag w 7, flag w 1, flag w 0⟩) := by
  unfold decode; rw [h0]; change decodeMajor34 w = _; unfold decodeMajor34; rw [h1]; rfl
theorem vuzp (o : Vec2) : Statement (.vuzp o) := by
  intro hw w h
  obtain rfl := Option.some.inj (show some _ = some w from h)
  rw [decode_vuzp] <;> simp [fld_cat_lo, fld_cat_hi, fld_self, flag_cat_lo, flag_cat_hi, flag_ofBool, accept, hw]

theorem decode_vslide {w : Word32} (h0 : fld w 26 6 = 52#6) (h1 : fld w 2 5 = 3#5) :
    decode w = accept (.vslide ⟨fld w 22 4, fld w 18 4, fld w 14 4, fld w 11 3, fld w 7 4, flag w 1, flag w 0⟩) := by
  unfold decode; rw [h0]; change decodeMajor34 w = _; unfold decodeMajor34; rw [h1]; rfl
theorem vslide (o : VecSlide) : Statement (.vslide o) := by
  intro hw w h
  obtain rfl := Option.some.inj (show some _ = some w from h)
  rw [decode_vslide] <;> simp [fld_cat_lo, fld_cat_hi, fld_self, flag_cat_lo, flag_cat_hi, flag_ofBool, accept, hw]

theorem decode_vext {w : Word32} (h0 : fld w 26 6 = 52#6) (h1 : fld w 2 5 = 4#5) (h2 : fld w 0 1 = 0#1) (h3 : fld w 7 4 = 0#4) :
    decode w = accept (.vext ⟨fld w 22 4, fld w 18 4, fld w 14 4, fld w 11 3, flag w 1⟩) := by
  unfold decode; rw [h0]; change decodeMajor34 w = _; unfold decodeMajor34; rw [h1, h2, h3]; rfl
theorem vext (o : VecExt) : Statement (.vext o) := by
  intro hw w h
  obtain rfl := Option.some.inj (show some _ = some w from h)
  rw [decode_vext] <;> simp [fld_cat_lo, fld_cat_hi, fld_self, flag_cat_lo, flag_cat_hi, flag_ofBool, accept, hw] <;> rfl

theorem decode_vins {w : Word32} (h0 : fld w 26 6 = 52#6) (h1 : fld w 2 5 = 5#5) (h2 : fld w 0 1 = 0#1) (h3 : fld w 7 4 = 0#4) :
    decode w = accept (.vins ⟨fld w 22 4, fld w 18 4, fld w 14 4, fld w 11 3, flag w 1⟩) := by
  unfold decode; rw [h0]; change decodeMajor34 w = _; unfold decodeMajor34; rw [h1, h2, h3]; rfl
theorem vins (o : VecIns) : Statement (.vins o) := by
  intro hw w h
  obtain rfl := Option.some.inj (show some _ = some w from h)
  rw [decode_vins] <;> simp [fld_cat_lo, fld_cat_hi, fld_self, flag_cat_lo, flag_cat_hi, flag_ofBool, accept, hw] <;> rfl

theorem decode_vsplat {w : Word32} (h0 : fld w 26 6 = 52#6) (h1 : fld w 2 5 = 6#5) (h2 : fld w 0 1 = 0#1) (h3 : fld w 14 4 = 0#4) :
    decode w = accept (.vsplat ⟨fld w 22 4, fld w 18 4, fld w 11 3, flag w 10, fld w 8 2, flag w 7, flag w 1⟩) := by
  unfold decode; rw [h0]; change decodeMajor34 w = _; unfold decodeMajor34; rw [h1, h2, h3]; rfl
theorem vsplat (o : VecSplat) : Statement (.vsplat o) := by
  intro hw w h
  obtain rfl := Option.some.inj (show some _ = some w from h)
  rw [decode_vsplat] <;> simp [fld_cat_lo, fld_cat_hi, fld_self, flag_cat_lo, flag_cat_hi, flag_ofBool, accept, hw]

theorem decode_vredAdd {w : Word32} (h0 : fld w 26 6 = 52#6) (h1 : fld w 2 5 = 8#5) (h2 : fld w 0 1 = 0#1) (h3 : fld w 14 4 = 0#4) :
    decode w = accept (.vredAdd ⟨fld w 22 4, fld w 18 4, fld w 11 3, flag w 10, fld w 8 2, flag w 7, flag w 1⟩) := by
  unfold decode; rw [h0]; change decodeMajor34 w = _; unfold decodeMajor34; rw [h1, h2, h3]; rfl
theorem vredAdd (o : Vec1) : Statement (.vredAdd o) := by
  intro hw w h
  obtain rfl := Option.some.inj (show some _ = some w from h)
  rw [decode_vredAdd] <;> simp [fld_cat_lo, fld_cat_hi, fld_self, flag_cat_lo, flag_cat_hi, flag_ofBool, accept, hw]

theorem decode_vredMin {w : Word32} (h0 : fld w 26 6 = 52#6) (h1 : fld w 2 5 = 9#5) (h2 : fld w 0 1 = 0#1) (h3 : fld w 14 4 = 0#4) :
    decode w = accept (.vredMin ⟨fld w 22 4, fld w 18 4, fld w 11 3, flag w 10, fld w 8 2, flag w 7, flag w 1⟩) := by
  unfold decode; rw [h0]; change decodeMajor34 w = _; unfold decodeMajor34; rw [h1, h2, h3]; rfl
theorem vredMin (o : Vec1) : Statement (.vredMin o) := by
  intro hw w h
  obtain rfl := Option.some.inj (show some _ = some w from h)
  rw [decode_vredMin] <;> simp [fld_cat_lo, fld_cat_hi, fld_self, flag_cat_lo, flag_cat_hi, flag_ofBool, accept, hw]

theorem decode_vredMax {w : Word32} (h0 : fld w 26 6 = 52#6) (h1 : fld w 2 5 = 10#5) (h2 : fld w 0 1 = 0#1) (h3 : fld w 14 4 = 0#4) :
    decode w = accept (.vredMax ⟨fld w 22 4, fld w 18 4, fld w 11 3, flag w 10, fld w 8 2, flag w 7, flag w 1⟩) := by
  unfold decode; rw [h0]; change decodeMajor34 w = _; unfold decodeMajor34; rw [h1, h2, h3]; rfl
theorem vredMax (o : Vec1) : Statement (.vredMax o) := by
  intro hw w h
  obtain rfl := Option.some.inj (show some _ = some w from h)
  rw [decode_vredMax] <;> simp [fld_cat_lo, fld_cat_hi, fld_self, flag_cat_lo, flag_cat_hi, flag_ofBool, accept, hw]

theorem decode_vcvt {w : Word32} (h0 : fld w 26 6 = 53#6) (h1 : fld w 2 5 = 0#5) (h2 : fld w 0 1 = 0#1) :
    decode w = accept (.vcvt ⟨fld w 22 4, fld w 18 4, fld w 14 4, fld w 11 3, flag w 10, fld w 8 2, flag w 7, flag w 1⟩) := by
  unfold decode; rw [h0]; change decodeMajor35 w = _; unfold decodeMajor35; rw [h1, h2]; rfl
theorem vcvt (o : VecCvt) : Statement (.vcvt o) := by
  intro hw w h
  obtain rfl := Option.some.inj (show some _ = some w from h)
  rw [decode_vcvt] <;> simp [fld_cat_lo, fld_cat_hi, fld_self, flag_cat_lo, flag_cat_hi, flag_ofBool, accept, hw]

theorem decode_vpack {w : Word32} (h0 : fld w 26 6 = 53#6) (h1 : fld w 2 5 = 1#5) :
    decode w = accept (.vpack ⟨fld w 22 4, fld w 18 4, fld w 14 4, fld w 11 3, flag w 10, fld w 8 2, flag w 7, flag w 1, flag w 0⟩) := by
  unfold decode; rw [h0]; change decodeMajor35 w = _; unfold decodeMajor35; rw [h1]; rfl
theorem vpack (o : Vec2) : Statement (.vpack o) := by
  intro hw w h
  obtain rfl := Option.some.inj (show some _ = some w from h)
  rw [decode_vpack] <;> simp [fld_cat_lo, fld_cat_hi, fld_self, flag_cat_lo, flag_cat_hi, flag_ofBool, accept, hw]

theorem decode_vunpk {w : Word32} (h0 : fld w 26 6 = 53#6) (h1 : fld w 2 5 = 2#5) (h2 : fld w 0 1 = 0#1) (h3 : fld w 15 3 = 0#3) :
    decode w = accept (.vunpk ⟨fld w 22 4, fld w 18 4, flag w 14, fld w 11 3, flag w 10, fld w 8 2, flag w 7, flag w 1⟩) := by
  unfold decode; rw [h0]; change decodeMajor35 w = _; unfold decodeMajor35; rw [h1, h2, h3]; rfl
theorem vunpk (o : VecUnpk) : Statement (.vunpk o) := by
  intro hw w h
  obtain rfl := Option.some.inj (show some _ = some w from h)
  rw [decode_vunpk] <;> simp [fld_cat_lo, fld_cat_hi, fld_self, flag_cat_lo, flag_cat_hi, flag_ofBool, accept, hw]

theorem decode_vcbx {w : Word32} (h0 : fld w 26 6 = 53#6) (h1 : fld w 2 5 = 3#5) :
    decode w = accept (.vcbx ⟨fld w 22 4, fld w 18 4, fld w 14 4, fld w 11 3, flag w 10, fld w 8 2, flag w 7, flag w 1, flag w 0⟩) := by
  unfold decode; rw [h0]; change decodeMajor35 w = _; unfold decodeMajor35; rw [h1]; rfl
theorem vcbx (o : Vec2) : Statement (.vcbx o) := by
  intro hw w h
  obtain rfl := Option.some.inj (show some _ = some w from h)
  rw [decode_vcbx] <;> simp [fld_cat_lo, fld_cat_hi, fld_self, flag_cat_lo, flag_cat_hi, flag_ofBool, accept, hw]

theorem decode_vbxq {w : Word32} (h0 : fld w 26 6 = 53#6) (h1 : fld w 2 5 = 4#5) (h2 : fld w 7 7 = 64#7) (h3 : fld w 22 4 = 0#4) :
    decode w = accept (.vbxq ⟨fld w 18 4, fld w 14 4, flag w 1, flag w 0⟩) := by
  unfold decode; rw [h0]; change decodeMajor35 w = _; unfold decodeMajor35; rw [h1, h2, h3]; rfl
theorem vbxq (o : BlockQ) : Statement (.vbxq o) := by
  intro hw w h
  obtain rfl := Option.some.inj (show some _ = some w from h)
  rw [decode_vbxq] <;> simp [fld_cat_lo, fld_cat_hi, fld_self, flag_cat_lo, flag_cat_hi, flag_ofBool, accept, hw] <;> rfl

theorem decode_vcq4 {w : Word32} (h0 : fld w 26 6 = 53#6) (h1 : fld w 2 5 = 5#5) (h2 : fld w 7 4 = 0#4) :
    decode w = accept (.vcq4 ⟨fld w 22 4, fld w 18 4, fld w 14 4, fld w 11 3, flag w 1, flag w 0⟩) := by
  unfold decode; rw [h0]; change decodeMajor35 w = _; unfold decodeMajor35; rw [h1, h2]; rfl
theorem vcq4 (o : BlockC) : Statement (.vcq4 o) := by
  intro hw w h
  obtain rfl := Option.some.inj (show some _ = some w from h)
  rw [decode_vcq4] <;> simp [fld_cat_lo, fld_cat_hi, fld_self, flag_cat_lo, flag_cat_hi, flag_ofBool, accept, hw] <;> rfl

theorem decode_vexp2 {w : Word32} (h0 : fld w 26 6 = 54#6) (h1 : fld w 2 5 = 0#5) (h2 : fld w 0 1 = 0#1) (h3 : fld w 14 4 = 0#4) :
    decode w = accept (.vexp2 ⟨fld w 22 4, fld w 18 4, fld w 11 3, flag w 10, fld w 8 2, flag w 7, flag w 1⟩) := by
  unfold decode; rw [h0]; change decodeMajor36 w = _; unfold decodeMajor36; rw [h1, h2, h3]; rfl
theorem vexp2 (o : Vec1) : Statement (.vexp2 o) := by
  intro hw w h
  obtain rfl := Option.some.inj (show some _ = some w from h)
  rw [decode_vexp2] <;> simp [fld_cat_lo, fld_cat_hi, fld_self, flag_cat_lo, flag_cat_hi, flag_ofBool, accept, hw]

theorem decode_vlog2 {w : Word32} (h0 : fld w 26 6 = 54#6) (h1 : fld w 2 5 = 1#5) (h2 : fld w 0 1 = 0#1) (h3 : fld w 14 4 = 0#4) :
    decode w = accept (.vlog2 ⟨fld w 22 4, fld w 18 4, fld w 11 3, flag w 10, fld w 8 2, flag w 7, flag w 1⟩) := by
  unfold decode; rw [h0]; change decodeMajor36 w = _; unfold decodeMajor36; rw [h1, h2, h3]; rfl
theorem vlog2 (o : Vec1) : Statement (.vlog2 o) := by
  intro hw w h
  obtain rfl := Option.some.inj (show some _ = some w from h)
  rw [decode_vlog2] <;> simp [fld_cat_lo, fld_cat_hi, fld_self, flag_cat_lo, flag_cat_hi, flag_ofBool, accept, hw]

theorem decode_vrcp {w : Word32} (h0 : fld w 26 6 = 54#6) (h1 : fld w 2 5 = 2#5) (h2 : fld w 0 1 = 0#1) (h3 : fld w 14 4 = 0#4) :
    decode w = accept (.vrcp ⟨fld w 22 4, fld w 18 4, fld w 11 3, flag w 10, fld w 8 2, flag w 7, flag w 1⟩) := by
  unfold decode; rw [h0]; change decodeMajor36 w = _; unfold decodeMajor36; rw [h1, h2, h3]; rfl
theorem vrcp (o : Vec1) : Statement (.vrcp o) := by
  intro hw w h
  obtain rfl := Option.some.inj (show some _ = some w from h)
  rw [decode_vrcp] <;> simp [fld_cat_lo, fld_cat_hi, fld_self, flag_cat_lo, flag_cat_hi, flag_ofBool, accept, hw]

theorem decode_vrsq {w : Word32} (h0 : fld w 26 6 = 54#6) (h1 : fld w 2 5 = 3#5) (h2 : fld w 0 1 = 0#1) (h3 : fld w 14 4 = 0#4) :
    decode w = accept (.vrsq ⟨fld w 22 4, fld w 18 4, fld w 11 3, flag w 10, fld w 8 2, flag w 7, flag w 1⟩) := by
  unfold decode; rw [h0]; change decodeMajor36 w = _; unfold decodeMajor36; rw [h1, h2, h3]; rfl
theorem vrsq (o : Vec1) : Statement (.vrsq o) := by
  intro hw w h
  obtain rfl := Option.some.inj (show some _ = some w from h)
  rw [decode_vrsq] <;> simp [fld_cat_lo, fld_cat_hi, fld_self, flag_cat_lo, flag_cat_hi, flag_ofBool, accept, hw]

theorem decode_vsin {w : Word32} (h0 : fld w 26 6 = 54#6) (h1 : fld w 2 5 = 4#5) (h2 : fld w 0 1 = 0#1) (h3 : fld w 14 4 = 0#4) :
    decode w = accept (.vsin ⟨fld w 22 4, fld w 18 4, fld w 11 3, flag w 10, fld w 8 2, flag w 7, flag w 1⟩) := by
  unfold decode; rw [h0]; change decodeMajor36 w = _; unfold decodeMajor36; rw [h1, h2, h3]; rfl
theorem vsin (o : Vec1) : Statement (.vsin o) := by
  intro hw w h
  obtain rfl := Option.some.inj (show some _ = some w from h)
  rw [decode_vsin] <;> simp [fld_cat_lo, fld_cat_hi, fld_self, flag_cat_lo, flag_cat_hi, flag_ofBool, accept, hw]

theorem decode_vcos {w : Word32} (h0 : fld w 26 6 = 54#6) (h1 : fld w 2 5 = 5#5) (h2 : fld w 0 1 = 0#1) (h3 : fld w 14 4 = 0#4) :
    decode w = accept (.vcos ⟨fld w 22 4, fld w 18 4, fld w 11 3, flag w 10, fld w 8 2, flag w 7, flag w 1⟩) := by
  unfold decode; rw [h0]; change decodeMajor36 w = _; unfold decodeMajor36; rw [h1, h2, h3]; rfl
theorem vcos (o : Vec1) : Statement (.vcos o) := by
  intro hw w h
  obtain rfl := Option.some.inj (show some _ = some w from h)
  rw [decode_vcos] <;> simp [fld_cat_lo, fld_cat_hi, fld_self, flag_cat_lo, flag_cat_hi, flag_ofBool, accept, hw]

theorem decode_vcmpEq {w : Word32} (h0 : fld w 26 6 = 55#6) (h1 : fld w 2 5 = 0#5) :
    decode w = accept (.vcmpEq ⟨fld w 22 4, fld w 18 4, fld w 14 4, fld w 11 3, flag w 10, fld w 8 2, flag w 7, flag w 1, flag w 0⟩) := by
  unfold decode; rw [h0]; change decodeMajor37 w = _; unfold decodeMajor37; rw [h1]; rfl
theorem vcmpEq (o : Vec2) : Statement (.vcmpEq o) := by
  intro hw w h
  obtain rfl := Option.some.inj (show some _ = some w from h)
  rw [decode_vcmpEq] <;> simp [fld_cat_lo, fld_cat_hi, fld_self, flag_cat_lo, flag_cat_hi, flag_ofBool, accept, hw]

theorem decode_vcmpNe {w : Word32} (h0 : fld w 26 6 = 55#6) (h1 : fld w 2 5 = 1#5) :
    decode w = accept (.vcmpNe ⟨fld w 22 4, fld w 18 4, fld w 14 4, fld w 11 3, flag w 10, fld w 8 2, flag w 7, flag w 1, flag w 0⟩) := by
  unfold decode; rw [h0]; change decodeMajor37 w = _; unfold decodeMajor37; rw [h1]; rfl
theorem vcmpNe (o : Vec2) : Statement (.vcmpNe o) := by
  intro hw w h
  obtain rfl := Option.some.inj (show some _ = some w from h)
  rw [decode_vcmpNe] <;> simp [fld_cat_lo, fld_cat_hi, fld_self, flag_cat_lo, flag_cat_hi, flag_ofBool, accept, hw]

theorem decode_vcmpLt {w : Word32} (h0 : fld w 26 6 = 55#6) (h1 : fld w 2 5 = 2#5) :
    decode w = accept (.vcmpLt ⟨fld w 22 4, fld w 18 4, fld w 14 4, fld w 11 3, flag w 10, fld w 8 2, flag w 7, flag w 1, flag w 0⟩) := by
  unfold decode; rw [h0]; change decodeMajor37 w = _; unfold decodeMajor37; rw [h1]; rfl
theorem vcmpLt (o : Vec2) : Statement (.vcmpLt o) := by
  intro hw w h
  obtain rfl := Option.some.inj (show some _ = some w from h)
  rw [decode_vcmpLt] <;> simp [fld_cat_lo, fld_cat_hi, fld_self, flag_cat_lo, flag_cat_hi, flag_ofBool, accept, hw]

theorem decode_vcmpLe {w : Word32} (h0 : fld w 26 6 = 55#6) (h1 : fld w 2 5 = 3#5) :
    decode w = accept (.vcmpLe ⟨fld w 22 4, fld w 18 4, fld w 14 4, fld w 11 3, flag w 10, fld w 8 2, flag w 7, flag w 1, flag w 0⟩) := by
  unfold decode; rw [h0]; change decodeMajor37 w = _; unfold decodeMajor37; rw [h1]; rfl
theorem vcmpLe (o : Vec2) : Statement (.vcmpLe o) := by
  intro hw w h
  obtain rfl := Option.some.inj (show some _ = some w from h)
  rw [decode_vcmpLe] <;> simp [fld_cat_lo, fld_cat_hi, fld_self, flag_cat_lo, flag_cat_hi, flag_ofBool, accept, hw]

theorem decode_vcmpLtu {w : Word32} (h0 : fld w 26 6 = 55#6) (h1 : fld w 2 5 = 4#5) :
    decode w = accept (.vcmpLtu ⟨fld w 22 4, fld w 18 4, fld w 14 4, fld w 11 3, flag w 10, fld w 8 2, flag w 7, flag w 1, flag w 0⟩) := by
  unfold decode; rw [h0]; change decodeMajor37 w = _; unfold decodeMajor37; rw [h1]; rfl
theorem vcmpLtu (o : Vec2) : Statement (.vcmpLtu o) := by
  intro hw w h
  obtain rfl := Option.some.inj (show some _ = some w from h)
  rw [decode_vcmpLtu] <;> simp [fld_cat_lo, fld_cat_hi, fld_self, flag_cat_lo, flag_cat_hi, flag_ofBool, accept, hw]

theorem decode_vcmpLeu {w : Word32} (h0 : fld w 26 6 = 55#6) (h1 : fld w 2 5 = 5#5) :
    decode w = accept (.vcmpLeu ⟨fld w 22 4, fld w 18 4, fld w 14 4, fld w 11 3, flag w 10, fld w 8 2, flag w 7, flag w 1, flag w 0⟩) := by
  unfold decode; rw [h0]; change decodeMajor37 w = _; unfold decodeMajor37; rw [h1]; rfl
theorem vcmpLeu (o : Vec2) : Statement (.vcmpLeu o) := by
  intro hw w h
  obtain rfl := Option.some.inj (show some _ = some w from h)
  rw [decode_vcmpLeu] <;> simp [fld_cat_lo, fld_cat_hi, fld_self, flag_cat_lo, flag_cat_hi, flag_ofBool, accept, hw]

theorem decode_vmand {w : Word32} (h0 : fld w 26 6 = 55#6) (h1 : fld w 2 5 = 8#5) (h2 : fld w 7 7 = 0#7) :
    decode w = accept (.vmand ⟨fld w 22 4, fld w 18 4, fld w 14 4, flag w 1, flag w 0⟩) := by
  unfold decode; rw [h0]; change decodeMajor37 w = _; unfold decodeMajor37; rw [h1, h2]; rfl
theorem vmand (o : Mask2) : Statement (.vmand o) := by
  intro hw w h
  obtain rfl := Option.some.inj (show some _ = some w from h)
  rw [decode_vmand] <;> simp [fld_cat_lo, fld_cat_hi, fld_self, flag_cat_lo, flag_cat_hi, flag_ofBool, accept, hw] <;> rfl

theorem decode_vmor {w : Word32} (h0 : fld w 26 6 = 55#6) (h1 : fld w 2 5 = 9#5) (h2 : fld w 7 7 = 0#7) :
    decode w = accept (.vmor ⟨fld w 22 4, fld w 18 4, fld w 14 4, flag w 1, flag w 0⟩) := by
  unfold decode; rw [h0]; change decodeMajor37 w = _; unfold decodeMajor37; rw [h1, h2]; rfl
theorem vmor (o : Mask2) : Statement (.vmor o) := by
  intro hw w h
  obtain rfl := Option.some.inj (show some _ = some w from h)
  rw [decode_vmor] <;> simp [fld_cat_lo, fld_cat_hi, fld_self, flag_cat_lo, flag_cat_hi, flag_ofBool, accept, hw] <;> rfl

theorem decode_vmxor {w : Word32} (h0 : fld w 26 6 = 55#6) (h1 : fld w 2 5 = 10#5) (h2 : fld w 7 7 = 0#7) :
    decode w = accept (.vmxor ⟨fld w 22 4, fld w 18 4, fld w 14 4, flag w 1, flag w 0⟩) := by
  unfold decode; rw [h0]; change decodeMajor37 w = _; unfold decodeMajor37; rw [h1, h2]; rfl
theorem vmxor (o : Mask2) : Statement (.vmxor o) := by
  intro hw w h
  obtain rfl := Option.some.inj (show some _ = some w from h)
  rw [decode_vmxor] <;> simp [fld_cat_lo, fld_cat_hi, fld_self, flag_cat_lo, flag_cat_hi, flag_ofBool, accept, hw] <;> rfl

theorem decode_vmnot {w : Word32} (h0 : fld w 26 6 = 55#6) (h1 : fld w 2 5 = 11#5) (h2 : fld w 0 1 = 0#1) (h3 : fld w 7 11 = 0#11) :
    decode w = accept (.vmnot ⟨fld w 22 4, fld w 18 4, flag w 1⟩) := by
  unfold decode; rw [h0]; change decodeMajor37 w = _; unfold decodeMajor37; rw [h1, h2, h3]; rfl
theorem vmnot (o : Mask1) : Statement (.vmnot o) := by
  intro hw w h
  obtain rfl := Option.some.inj (show some _ = some w from h)
  rw [decode_vmnot] <;> simp [fld_cat_lo, fld_cat_hi, fld_self, flag_cat_lo, flag_cat_hi, flag_ofBool, accept, hw] <;> rfl

theorem decode_vmcnt {w : Word32} (h0 : fld w 26 6 = 55#6) (h1 : fld w 2 5 = 12#5) (h2 : fld w 0 1 = 0#1) (h3 : fld w 7 4 = 0#4) (h4 : fld w 14 4 = 0#4) :
    decode w = accept (.vmcnt ⟨fld w 22 4, fld w 18 4, fld w 11 3, flag w 1⟩) := by
  unfold decode; rw [h0]; change decodeMajor37 w = _; unfold decodeMajor37; rw [h1, h2, h3, h4]; rfl
theorem vmcnt (o : MaskCount) : Statement (.vmcnt o) := by
  intro hw w h
  obtain rfl := Option.some.inj (show some _ = some w from h)
  rw [decode_vmcnt] <;> simp [fld_cat_lo, fld_cat_hi, fld_self, flag_cat_lo, flag_cat_hi, flag_ofBool, accept, hw] <;> rfl

theorem decode_vmfst {w : Word32} (h0 : fld w 26 6 = 55#6) (h1 : fld w 2 5 = 13#5) (h2 : fld w 0 1 = 0#1) (h3 : fld w 7 4 = 0#4) (h4 : fld w 14 4 = 0#4) :
    decode w = accept (.vmfst ⟨fld w 22 4, fld w 18 4, fld w 11 3, flag w 1⟩) := by
  unfold decode; rw [h0]; change decodeMajor37 w = _; unfold decodeMajor37; rw [h1, h2, h3, h4]; rfl
theorem vmfst (o : MaskCount) : Statement (.vmfst o) := by
  intro hw w h
  obtain rfl := Option.some.inj (show some _ = some w from h)
  rw [decode_vmfst] <;> simp [fld_cat_lo, fld_cat_hi, fld_self, flag_cat_lo, flag_cat_hi, flag_ofBool, accept, hw] <;> rfl

theorem decode_mgang {w : Word32} (h0 : fld w 26 6 = 56#6) (h1 : fld w 0 13 = 0#13) :
    decode w = accept (.mgang ⟨fld w 23 3, fld w 18 5, fld w 13 5⟩) := by
  unfold decode; rw [h0]; change decodeMajor38 w = _; unfold decodeMajor38; rw [h1]; rfl
theorem mgang (o : Gang) : Statement (.mgang o) := by
  intro hw w h
  obtain rfl := Option.some.inj (show some _ = some w from h)
  rw [decode_mgang] <;> simp [fld_cat_lo, fld_cat_hi, fld_self, flag_cat_lo, flag_cat_hi, flag_ofBool, accept, hw]

theorem decode_mmas {w : Word32} (h0 : fld w 26 6 = 56#6) (h1 : fld w 0 13 = 4#13) (h2 : fld w 13 5 = 0#5) :
    decode w = accept (.mmas ⟨fld w 23 3, fld w 18 5⟩) := by
  unfold decode; rw [h0]; change decodeMajor38 w = _; unfold decodeMajor38; rw [h1, h2]; rfl
theorem mmas (o : GangOne) : Statement (.mmas o) := by
  intro hw w h
  obtain rfl := Option.some.inj (show some _ = some w from h)
  rw [decode_mmas] <;> simp [fld_cat_lo, fld_cat_hi, fld_self, flag_cat_lo, flag_cat_hi, flag_ofBool, accept, hw] <;> rfl

theorem decode_mzero {w : Word32} (h0 : fld w 26 6 = 56#6) (h1 : fld w 0 13 = 8#13) (h2 : fld w 13 10 = 0#10) :
    decode w = accept (.mzero (fld w 23 3)) := by
  unfold decode; rw [h0]; change decodeMajor38 w = _; unfold decodeMajor38; rw [h1, h2]; rfl
theorem mzero (acc : BitVec 3) : Statement (.mzero acc) := by
  intro hw w h
  obtain rfl := Option.some.inj (show some _ = some w from h)
  rw [decode_mzero] <;> simp [fld_cat_lo, fld_cat_hi, fld_self, flag_cat_lo, flag_cat_hi, flag_ofBool, accept, hw] <;> rfl

theorem decode_mdrainI64 {w : Word32} (h0 : fld w 26 6 = 57#6) (h1 : fld w 2 6 = 0#6) (h2 : fld w 1 1 = 0#1) :
    decode w = accept (.mdrainI64 ⟨fld w 23 3, fld w 18 5, fld w 13 5, fld w 8 5, flag w 0⟩) := by
  unfold decode; rw [h0]; change decodeMajor39 w = _; unfold decodeMajor39; rw [h1, h2]; rfl
theorem mdrainI64 (o : Drain) : Statement (.mdrainI64 o) := by
  intro hw w h
  obtain rfl := Option.some.inj (show some _ = some w from h)
  rw [decode_mdrainI64] <;> simp [fld_cat_lo, fld_cat_hi, fld_self, flag_cat_lo, flag_cat_hi, flag_ofBool, accept, hw] <;> rfl

theorem decode_mdrainI32s {w : Word32} (h0 : fld w 26 6 = 57#6) (h1 : fld w 2 6 = 1#6) (h2 : fld w 1 1 = 0#1) :
    decode w = accept (.mdrainI32s ⟨fld w 23 3, fld w 18 5, fld w 13 5, fld w 8 5, flag w 0⟩) := by
  unfold decode; rw [h0]; change decodeMajor39 w = _; unfold decodeMajor39; rw [h1, h2]; rfl
theorem mdrainI32s (o : Drain) : Statement (.mdrainI32s o) := by
  intro hw w h
  obtain rfl := Option.some.inj (show some _ = some w from h)
  rw [decode_mdrainI32s] <;> simp [fld_cat_lo, fld_cat_hi, fld_self, flag_cat_lo, flag_cat_hi, flag_ofBool, accept, hw] <;> rfl

theorem decode_mdrainF32 {w : Word32} (h0 : fld w 26 6 = 57#6) (h1 : fld w 2 6 = 2#6) (h2 : fld w 1 1 = 0#1) :
    decode w = accept (.mdrainF32 ⟨fld w 23 3, fld w 18 5, fld w 13 5, fld w 8 5, flag w 0⟩) := by
  unfold decode; rw [h0]; change decodeMajor39 w = _; unfold decodeMajor39; rw [h1, h2]; rfl
theorem mdrainF32 (o : Drain) : Statement (.mdrainF32 o) := by
  intro hw w h
  obtain rfl := Option.some.inj (show some _ = some w from h)
  rw [decode_mdrainF32] <;> simp [fld_cat_lo, fld_cat_hi, fld_self, flag_cat_lo, flag_cat_hi, flag_ofBool, accept, hw] <;> rfl

theorem decode_mdrainF32a {w : Word32} (h0 : fld w 26 6 = 57#6) (h1 : fld w 2 6 = 3#6) (h2 : fld w 1 1 = 0#1) :
    decode w = accept (.mdrainF32a ⟨fld w 23 3, fld w 18 5, fld w 13 5, fld w 8 5, flag w 0⟩) := by
  unfold decode; rw [h0]; change decodeMajor39 w = _; unfold decodeMajor39; rw [h1, h2]; rfl
theorem mdrainF32a (o : Drain) : Statement (.mdrainF32a o) := by
  intro hw w h
  obtain rfl := Option.some.inj (show some _ = some w from h)
  rw [decode_mdrainF32a] <;> simp [fld_cat_lo, fld_cat_hi, fld_self, flag_cat_lo, flag_cat_hi, flag_ofBool, accept, hw] <;> rfl

theorem decode_mdrainBf16 {w : Word32} (h0 : fld w 26 6 = 57#6) (h1 : fld w 2 6 = 4#6) (h2 : fld w 1 1 = 0#1) :
    decode w = accept (.mdrainBf16 ⟨fld w 23 3, fld w 18 5, fld w 13 5, fld w 8 5, flag w 0⟩) := by
  unfold decode; rw [h0]; change decodeMajor39 w = _; unfold decodeMajor39; rw [h1, h2]; rfl
theorem mdrainBf16 (o : Drain) : Statement (.mdrainBf16 o) := by
  intro hw w h
  obtain rfl := Option.some.inj (show some _ = some w from h)
  rw [decode_mdrainBf16] <;> simp [fld_cat_lo, fld_cat_hi, fld_self, flag_cat_lo, flag_cat_hi, flag_ofBool, accept, hw] <;> rfl

theorem decode_mdrainc {w : Word32} (h0 : fld w 26 6 = 57#6) (h1 : fld w 2 6 = 8#6) :
    decode w = accept (.mdrainc ⟨fld w 23 3, fld w 18 5, fld w 13 5, fld w 8 5, fld w 0 2⟩) := by
  unfold decode; rw [h0]; change decodeMajor39 w = _; unfold decodeMajor39; rw [h1]; rfl
theorem mdrainc (o : DrainC) : Statement (.mdrainc o) := by
  intro hw w h
  obtain rfl := Option.some.inj (show some _ = some w from h)
  rw [decode_mdrainc] <;> simp [fld_cat_lo, fld_cat_hi, fld_self, flag_cat_lo, flag_cat_hi, flag_ofBool, accept, hw]

theorem decode_ard {w : Word32} (h0 : fld w 26 6 = 57#6) (h1 : fld w 2 6 = 16#6) (h2 : fld w 0 2 = 0#2) (h3 : fld w 8 5 = 0#5) :
    decode w = accept (.ard ⟨fld w 23 3, fld w 18 5, fld w 13 5⟩) := by
  unfold decode; rw [h0]; change decodeMajor39 w = _; unfold decodeMajor39; rw [h1, h2, h3]; rfl
theorem ard (o : AccRead) : Statement (.ard o) := by
  intro hw w h
  obtain rfl := Option.some.inj (show some _ = some w from h)
  rw [decode_ard] <;> simp [fld_cat_lo, fld_cat_hi, fld_self, flag_cat_lo, flag_cat_hi, flag_ofBool, accept, hw] <;> rfl

theorem decode_awr {w : Word32} (h0 : fld w 26 6 = 57#6) (h1 : fld w 2 6 = 17#6) (h2 : fld w 0 2 = 0#2) (h3 : fld w 18 5 = 0#5) :
    decode w = accept (.awr ⟨fld w 23 3, fld w 13 5, fld w 8 5⟩) := by
  unfold decode; rw [h0]; change decodeMajor39 w = _; unfold decodeMajor39; rw [h1, h2, h3]; rfl
theorem awr (o : AccWrite) : Statement (.awr o) := by
  intro hw w h
  obtain rfl := Option.some.inj (show some _ = some w from h)
  rw [decode_awr] <;> simp [fld_cat_lo, fld_cat_hi, fld_self, flag_cat_lo, flag_cat_hi, flag_ofBool, accept, hw] <;> rfl

theorem decode_achk {w : Word32} (h0 : fld w 26 6 = 57#6) (h1 : fld w 2 6 = 18#6) (h2 : fld w 0 2 = 0#2) (h3 : fld w 8 10 = 0#10) :
    decode w = accept (.achk ⟨fld w 23 3, fld w 18 5⟩) := by
  unfold decode; rw [h0]; change decodeMajor39 w = _; unfold decodeMajor39; rw [h1, h2, h3]; rfl
theorem achk (o : AccCheck) : Statement (.achk o) := by
  intro hw w h
  obtain rfl := Option.some.inj (show some _ = some w from h)
  rw [decode_achk] <;> simp [fld_cat_lo, fld_cat_hi, fld_self, flag_cat_lo, flag_cat_hi, flag_ofBool, accept, hw] <;> rfl

theorem decode_acfg {w : Word32} (h0 : fld w 26 6 = 57#6) (h1 : fld w 2 6 = 24#6) (h2 : fld w 0 2 = 0#2) (h3 : fld w 23 3 = 0#3) :
    decode w = accept (.acfg ⟨fld w 18 5, fld w 13 5, fld w 8 5⟩) := by
  unfold decode; rw [h0]; change decodeMajor39 w = _; unfold decodeMajor39; rw [h1, h2, h3]; rfl
theorem acfg (o : AccCfg) : Statement (.acfg o) := by
  intro hw w h
  obtain rfl := Option.some.inj (show some _ = some w from h)
  rw [decode_acfg] <;> simp [fld_cat_lo, fld_cat_hi, fld_self, flag_cat_lo, flag_cat_hi, flag_ofBool, accept, hw] <;> rfl

theorem decode_cbld {w : Word32} (h0 : fld w 26 6 = 57#6) (h1 : fld w 2 6 = 25#6) (h2 : fld w 0 2 = 0#2) (h3 : fld w 8 10 = 0#10) (h4 : fld w 23 3 = 0#3) :
    decode w = accept (.cbld (fld w 18 5)) := by
  unfold decode; rw [h0]; change decodeMajor39 w = _; unfold decodeMajor39; rw [h1, h2, h3, h4]; rfl
theorem cbld (ra : BitVec 5) : Statement (.cbld ra) := by
  intro hw w h
  obtain rfl := Option.some.inj (show some _ = some w from h)
  rw [decode_cbld] <;> simp [fld_cat_lo, fld_cat_hi, fld_self, flag_cat_lo, flag_cat_hi, flag_ofBool, accept, hw] <;> rfl

theorem decode_hintImm {w : Word32} (h0 : fld w 26 6 = 63#6) (h1 : fld w 24 2 = 0#2) :
    decode w = accept (.hintImm (fld w 0 24)) := by
  unfold decode; rw [h0]; change decodeMajor3F w = _; unfold decodeMajor3F; rw [h1]; rfl
theorem hintImm (payload : BitVec 24) : Statement (.hintImm payload) := by
  intro hw w h
  obtain rfl := Option.some.inj (show some _ = some w from h)
  rw [decode_hintImm] <;> simp [fld_cat_lo, fld_cat_hi, fld_self, flag_cat_lo, flag_cat_hi, flag_ofBool, accept, hw] <;> rfl

theorem decode_hintMod {w : Word32} (h0 : fld w 26 6 = 63#6) (h1 : fld w 24 2 = 1#2) (h2 : fld w 0 13 = 0#13) :
    decode w = accept (.hintMod ⟨flag w 23, fld w 20 3, flag w 19, fld w 16 3, fld w 14 2, flag w 13⟩) := by
  unfold decode; rw [h0]; change decodeMajor3F w = _; unfold decodeMajor3F; rw [h1, h2]; rfl
theorem hintMod (o : HintMod) : Statement (.hintMod o) := by
  intro hw w h
  obtain rfl := Option.some.inj (show some _ = some w from h)
  rw [decode_hintMod] <;> simp [fld_cat_lo, fld_cat_hi, fld_self, flag_cat_lo, flag_cat_hi, flag_ofBool, accept, hw] <;> rfl

theorem decode_hintSched {w : Word32} (h0 : fld w 26 6 = 63#6) (h1 : fld w 24 2 = 2#2) (h2 : fld w 0 16 = 0#16) :
    decode w = accept (.hintSched ⟨fld w 22 2, fld w 16 6⟩) := by
  unfold decode; rw [h0]; change decodeMajor3F w = _; unfold decodeMajor3F; rw [h1, h2]; rfl
theorem hintSched (o : HintSched) : Statement (.hintSched o) := by
  intro hw w h
  obtain rfl := Option.some.inj (show some _ = some w from h)
  rw [decode_hintSched] <;> simp [fld_cat_lo, fld_cat_hi, fld_self, flag_cat_lo, flag_cat_hi, flag_ofBool, accept, hw] <;> rfl

theorem decode_beq {w : Word32} (h0 : fld w 26 6 = 32#6) (h1 : fld w 13 3 = 0#3) :
    decode w = accept (.beq ⟨fld w 21 5, fld w 16 5, fld w 0 13⟩) := by
  unfold decode; rw [h0]; change decodeMajor20 w = _; unfold decodeMajor20; rw [h1]; rfl
theorem beq (o : Branch) : Statement (.beq o) := by
  intro hw w h
  obtain rfl := Option.some.inj (show some _ = some w from h)
  rw [decode_beq] <;> simp [fld_cat_lo, fld_cat_hi, fld_self, flag_cat_lo, flag_cat_hi, flag_ofBool, accept, hw]

theorem decode_bne {w : Word32} (h0 : fld w 26 6 = 32#6) (h1 : fld w 13 3 = 1#3) :
    decode w = accept (.bne ⟨fld w 21 5, fld w 16 5, fld w 0 13⟩) := by
  unfold decode; rw [h0]; change decodeMajor20 w = _; unfold decodeMajor20; rw [h1]; rfl
theorem bne (o : Branch) : Statement (.bne o) := by
  intro hw w h
  obtain rfl := Option.some.inj (show some _ = some w from h)
  rw [decode_bne] <;> simp [fld_cat_lo, fld_cat_hi, fld_self, flag_cat_lo, flag_cat_hi, flag_ofBool, accept, hw]

theorem decode_blt {w : Word32} (h0 : fld w 26 6 = 32#6) (h1 : fld w 13 3 = 2#3) :
    decode w = accept (.blt ⟨fld w 21 5, fld w 16 5, fld w 0 13⟩) := by
  unfold decode; rw [h0]; change decodeMajor20 w = _; unfold decodeMajor20; rw [h1]; rfl
theorem blt (o : Branch) : Statement (.blt o) := by
  intro hw w h
  obtain rfl := Option.some.inj (show some _ = some w from h)
  rw [decode_blt] <;> simp [fld_cat_lo, fld_cat_hi, fld_self, flag_cat_lo, flag_cat_hi, flag_ofBool, accept, hw]

theorem decode_bge {w : Word32} (h0 : fld w 26 6 = 32#6) (h1 : fld w 13 3 = 3#3) :
    decode w = accept (.bge ⟨fld w 21 5, fld w 16 5, fld w 0 13⟩) := by
  unfold decode; rw [h0]; change decodeMajor20 w = _; unfold decodeMajor20; rw [h1]; rfl
theorem bge (o : Branch) : Statement (.bge o) := by
  intro hw w h
  obtain rfl := Option.some.inj (show some _ = some w from h)
  rw [decode_bge] <;> simp [fld_cat_lo, fld_cat_hi, fld_self, flag_cat_lo, flag_cat_hi, flag_ofBool, accept, hw]

theorem decode_bltu {w : Word32} (h0 : fld w 26 6 = 32#6) (h1 : fld w 13 3 = 4#3) :
    decode w = accept (.bltu ⟨fld w 21 5, fld w 16 5, fld w 0 13⟩) := by
  unfold decode; rw [h0]; change decodeMajor20 w = _; unfold decodeMajor20; rw [h1]; rfl
theorem bltu (o : Branch) : Statement (.bltu o) := by
  intro hw w h
  obtain rfl := Option.some.inj (show some _ = some w from h)
  rw [decode_bltu] <;> simp [fld_cat_lo, fld_cat_hi, fld_self, flag_cat_lo, flag_cat_hi, flag_ofBool, accept, hw]

theorem decode_bgeu {w : Word32} (h0 : fld w 26 6 = 32#6) (h1 : fld w 13 3 = 5#3) :
    decode w = accept (.bgeu ⟨fld w 21 5, fld w 16 5, fld w 0 13⟩) := by
  unfold decode; rw [h0]; change decodeMajor20 w = _; unfold decodeMajor20; rw [h1]; rfl
theorem bgeu (o : Branch) : Statement (.bgeu o) := by
  intro hw w h
  obtain rfl := Option.some.inj (show some _ = some w from h)
  rw [decode_bgeu] <;> simp [fld_cat_lo, fld_cat_hi, fld_self, flag_cat_lo, flag_cat_hi, flag_ofBool, accept, hw]

theorem decode_jal {w : Word32} (h0 : fld w 26 6 = 33#6) :
    decode w = accept (.jal (fld w 0 26)) := by
  unfold decode; rw [h0]; change decodeMajor21 w = _; unfold decodeMajor21; rfl
theorem jal (off : BitVec 26) : Statement (.jal off) := by
  intro hw w h
  obtain rfl := Option.some.inj (show some _ = some w from h)
  rw [decode_jal] <;> simp [fld_cat_lo, fld_cat_hi, fld_self, flag_cat_lo, flag_cat_hi, flag_ofBool, accept, hw]

theorem decode_jalr {w : Word32} (h0 : fld w 26 6 = 34#6) :
    decode w = accept (.jalr ⟨fld w 21 5, fld w 16 5, fld w 1 15, flag w 0⟩) := by
  unfold decode; rw [h0]; change decodeMajor22 w = _; unfold decodeMajor22; rfl
theorem jalr (o : ImmI) : Statement (.jalr o) := by
  intro hw w h
  obtain rfl := Option.some.inj (show some _ = some w from h)
  rw [decode_jalr] <;> simp [fld_cat_lo, fld_cat_hi, fld_self, flag_cat_lo, flag_cat_hi, flag_ofBool, accept, hw]

theorem decode_endBody {w : Word32} (h0 : fld w 26 6 = 35#6) (h1 : fld w 16 10 = 0#10) (h2 : fld w 0 16 = 0#16) :
    decode w = accept (.endBody) := by
  unfold decode; rw [h0]; change decodeMajor23 w = _; unfold decodeMajor23; rw [h1, h2]; rfl
theorem endBody : Statement .endBody := by
  intro hw w h
  obtain rfl := Option.some.inj (show some _ = some w from h)
  rw [decode_endBody] <;> rfl

theorem decode_trap {w : Word32} (h0 : fld w 26 6 = 35#6) (h1 : fld w 16 10 = 4#10) :
    decode w = accept (.trap (fld w 0 16)) := by
  unfold decode; rw [h0]; change decodeMajor23 w = _; unfold decodeMajor23; rw [h1]; rfl
theorem trap (code : BitVec 16) : Statement (.trap code) := by
  intro hw w h
  obtain rfl := Option.some.inj (show some _ = some w from h)
  rw [decode_trap] <;> simp [fld_cat_lo, fld_cat_hi, fld_self, flag_cat_lo, flag_cat_hi, flag_ofBool, accept, hw] <;> rfl

theorem decode_bkpt {w : Word32} (h0 : fld w 26 6 = 35#6) (h1 : fld w 16 10 = 8#10) :
    decode w = accept (.bkpt (fld w 0 16)) := by
  unfold decode; rw [h0]; change decodeMajor23 w = _; unfold decodeMajor23; rw [h1]; rfl
theorem bkpt (code : BitVec 16) : Statement (.bkpt code) := by
  intro hw w h
  obtain rfl := Option.some.inj (show some _ = some w from h)
  rw [decode_bkpt] <;> simp [fld_cat_lo, fld_cat_hi, fld_self, flag_cat_lo, flag_cat_hi, flag_ofBool, accept, hw] <;> rfl

theorem decode_svc {w : Word32} (h0 : fld w 26 6 = 35#6) (h1 : fld w 16 10 = 12#10) :
    decode w = accept (.svc (fld w 0 16)) := by
  unfold decode; rw [h0]; change decodeMajor23 w = _; unfold decodeMajor23; rw [h1]; rfl
theorem svc (code : BitVec 16) : Statement (.svc code) := by
  intro hw w h
  obtain rfl := Option.some.inj (show some _ = some w from h)
  rw [decode_svc] <;> simp [fld_cat_lo, fld_cat_hi, fld_self, flag_cat_lo, flag_cat_hi, flag_ofBool, accept, hw] <;> rfl

theorem decode_send {w : Word32} (h0 : fld w 26 6 = 36#6) (h1 : fld w 1 2 = 0#2) (h2 : fld w 4 5 = 0#5) (h3 : fld w 21 5 = 0#5) :
    decode w = accept (.send ⟨fld w 16 5, fld w 11 5, fld w 9 2, flag w 3, flag w 0⟩) := by
  unfold decode; rw [h0]; change decodeMajor24 w = _; unfold decodeMajor24; rw [h1, h2, h3]; rfl
theorem send (o : SendW) : Statement (.send o) := by
  intro hw w h
  obtain rfl := Option.some.inj (show some _ = some w from h)
  rw [decode_send] <;> simp [fld_cat_lo, fld_cat_hi, fld_self, flag_cat_lo, flag_cat_hi, flag_ofBool, accept, hw] <;> rfl

theorem decode_sendv {w : Word32} (h0 : fld w 26 6 = 36#6) (h1 : fld w 1 2 = 0#2) (h2 : fld w 4 5 = 1#5) (h3 : fld w 0 1 = 0#1) (h4 : fld w 9 2 = 0#2) (h5 : fld w 14 2 = 0#2) (h6 : fld w 21 5 = 0#5) :
    decode w = accept (.sendv ⟨fld w 16 5, fld w 11 3, flag w 3⟩) := by
  unfold decode; rw [h0]; change decodeMajor24 w = _; unfold decodeMajor24; rw [h1, h2, h3, h4, h5, h6]; rfl
theorem sendv (o : SendView) : Statement (.sendv o) := by
  intro hw w h
  obtain rfl := Option.some.inj (show some _ = some w from h)
  rw [decode_sendv] <;> simp [fld_cat_lo, fld_cat_hi, fld_self, flag_cat_lo, flag_cat_hi, flag_ofBool, accept, hw] <;> rfl

theorem decode_sendmPm {w : Word32} (h0 : fld w 26 6 = 36#6) (h1 : fld w 1 2 = 0#2) (h2 : fld w 4 5 = 2#5) (h3 : fld w 9 2 = 1#2) (h4 : fld w 21 5 = 0#5) :
    decode w = accept (.sendmPm ⟨fld w 16 5, fld w 11 5, flag w 3, flag w 0⟩) := by
  unfold decode; rw [h0]; change decodeMajor24 w = _; unfold decodeMajor24; rw [h1, h2, h3, h4]; rfl
theorem sendmPm (o : SendLadle) : Statement (.sendmPm o) := by
  intro hw w h
  obtain rfl := Option.some.inj (show some _ = some w from h)
  rw [decode_sendmPm] <;> simp [fld_cat_lo, fld_cat_hi, fld_self, flag_cat_lo, flag_cat_hi, flag_ofBool, accept, hw] <;> rfl

theorem decode_sendmIadd {w : Word32} (h0 : fld w 26 6 = 36#6) (h1 : fld w 1 2 = 1#2) (h2 : fld w 4 7 = 2#7) (h3 : fld w 21 5 = 0#5) :
    decode w = accept (.sendmIadd ⟨fld w 16 5, fld w 11 5, flag w 3, flag w 0⟩) := by
  unfold decode; rw [h0]; change decodeMajor24 w = _; unfold decodeMajor24; rw [h1, h2, h3]; rfl
theorem sendmIadd (o : SendLadle) : Statement (.sendmIadd o) := by
  intro hw w h
  obtain rfl := Option.some.inj (show some _ = some w from h)
  rw [decode_sendmIadd] <;> simp [fld_cat_lo, fld_cat_hi, fld_self, flag_cat_lo, flag_cat_hi, flag_ofBool, accept, hw] <;> rfl

theorem decode_sendmF32 {w : Word32} (h0 : fld w 26 6 = 36#6) (h1 : fld w 1 2 = 2#2) (h2 : fld w 4 7 = 2#7) (h3 : fld w 21 5 = 0#5) :
    decode w = accept (.sendmF32 ⟨fld w 16 5, fld w 11 5, flag w 3, flag w 0⟩) := by
  unfold decode; rw [h0]; change decodeMajor24 w = _; unfold decodeMajor24; rw [h1, h2, h3]; rfl
theorem sendmF32 (o : SendLadle) : Statement (.sendmF32 o) := by
  intro hw w h
  obtain rfl := Option.some.inj (show some _ = some w from h)
  rw [decode_sendmF32] <;> simp [fld_cat_lo, fld_cat_hi, fld_self, flag_cat_lo, flag_cat_hi, flag_ofBool, accept, hw] <;> rfl

theorem decode_sendmF64 {w : Word32} (h0 : fld w 26 6 = 36#6) (h1 : fld w 1 2 = 3#2) (h2 : fld w 4 7 = 2#7) (h3 : fld w 21 5 = 0#5) :
    decode w = accept (.sendmF64 ⟨fld w 16 5, fld w 11 5, flag w 3, flag w 0⟩) := by
  unfold decode; rw [h0]; change decodeMajor24 w = _; unfold decodeMajor24; rw [h1, h2, h3]; rfl
theorem sendmF64 (o : SendLadle) : Statement (.sendmF64 o) := by
  intro hw w h
  obtain rfl := Option.some.inj (show some _ = some w from h)
  rw [decode_sendmF64] <;> simp [fld_cat_lo, fld_cat_hi, fld_self, flag_cat_lo, flag_cat_hi, flag_ofBool, accept, hw] <;> rfl

theorem decode_chnew {w : Word32} (h0 : fld w 26 6 = 37#6) (h1 : fld w 4 7 = 0#7) (h2 : fld w 0 2 = 0#2) :
    decode w = accept (.chnew ⟨fld w 21 5, fld w 16 5, fld w 11 5, flag w 3, flag w 2⟩) := by
  unfold decode; rw [h0]; change decodeMajor25 w = _; unfold decodeMajor25; rw [h1, h2]; rfl
theorem chnew (o : Reg2) : Statement (.chnew o) := by
  intro hw w h
  obtain rfl := Option.some.inj (show some _ = some w from h)
  rw [decode_chnew] <;> simp [fld_cat_lo, fld_cat_hi, fld_self, flag_cat_lo, flag_cat_hi, flag_ofBool, accept, hw]

theorem decode_chfree {w : Word32} (h0 : fld w 26 6 = 37#6) (h1 : fld w 4 7 = 1#7) (h2 : fld w 0 3 = 0#3) (h3 : fld w 11 5 = 0#5) :
    decode w = accept (.chfree ⟨fld w 21 5, fld w 16 5, flag w 3⟩) := by
  unfold decode; rw [h0]; change decodeMajor25 w = _; unfold decodeMajor25; rw [h1, h2, h3]; rfl
theorem chfree (o : Reg1) : Statement (.chfree o) := by
  intro hw w h
  obtain rfl := Option.some.inj (show some _ = some w from h)
  rw [decode_chfree] <;> simp [fld_cat_lo, fld_cat_hi, fld_self, flag_cat_lo, flag_cat_hi, flag_ofBool, accept, hw] <;> rfl

theorem decode_chcfg {w : Word32} (h0 : fld w 26 6 = 37#6) (h1 : fld w 4 7 = 2#7) (h2 : fld w 0 2 = 0#2) :
    decode w = accept (.chcfg ⟨fld w 21 5, fld w 16 5, fld w 11 5, flag w 3, flag w 2⟩) := by
  unfold decode; rw [h0]; change decodeMajor25 w = _; unfold decodeMajor25; rw [h1, h2]; rfl
theorem chcfg (o : Reg2) : Statement (.chcfg o) := by
  intro hw w h
  obtain rfl := Option.some.inj (show some _ = some w from h)
  rw [decode_chcfg] <;> simp [fld_cat_lo, fld_cat_hi, fld_self, flag_cat_lo, flag_cat_hi, flag_ofBool, accept, hw]

theorem decode_chcnt {w : Word32} (h0 : fld w 26 6 = 37#6) (h1 : fld w 4 7 = 3#7) (h2 : fld w 0 3 = 0#3) (h3 : fld w 11 5 = 0#5) :
    decode w = accept (.chcnt ⟨fld w 21 5, fld w 16 5, flag w 3⟩) := by
  unfold decode; rw [h0]; change decodeMajor25 w = _; unfold decodeMajor25; rw [h1, h2, h3]; rfl
theorem chcnt (o : Reg1) : Statement (.chcnt o) := by
  intro hw w h
  obtain rfl := Option.some.inj (show some _ = some w from h)
  rw [decode_chcnt] <;> simp [fld_cat_lo, fld_cat_hi, fld_self, flag_cat_lo, flag_cat_hi, flag_ofBool, accept, hw] <;> rfl

theorem decode_patset {w : Word32} (h0 : fld w 26 6 = 37#6) (h1 : fld w 4 7 = 4#7) (h2 : fld w 0 2 = 0#2) :
    decode w = accept (.patset ⟨fld w 21 5, fld w 16 5, fld w 11 5, flag w 3, flag w 2⟩) := by
  unfold decode; rw [h0]; change decodeMajor25 w = _; unfold decodeMajor25; rw [h1, h2]; rfl
theorem patset (o : Reg2) : Statement (.patset o) := by
  intro hw w h
  obtain rfl := Option.some.inj (show some _ = some w from h)
  rw [decode_patset] <;> simp [fld_cat_lo, fld_cat_hi, fld_self, flag_cat_lo, flag_cat_hi, flag_ofBool, accept, hw]

theorem decode_patclr {w : Word32} (h0 : fld w 26 6 = 37#6) (h1 : fld w 4 7 = 5#7) (h2 : fld w 0 3 = 0#3) (h3 : fld w 11 5 = 0#5) :
    decode w = accept (.patclr ⟨fld w 21 5, fld w 16 5, flag w 3⟩) := by
  unfold decode; rw [h0]; change decodeMajor25 w = _; unfold decodeMajor25; rw [h1, h2, h3]; rfl
theorem patclr (o : Reg1) : Statement (.patclr o) := by
  intro hw w h
  obtain rfl := Option.some.inj (show some _ = some w from h)
  rw [decode_patclr] <;> simp [fld_cat_lo, fld_cat_hi, fld_self, flag_cat_lo, flag_cat_hi, flag_ofBool, accept, hw] <;> rfl

theorem decode_patrank {w : Word32} (h0 : fld w 26 6 = 37#6) (h1 : fld w 4 7 = 6#7) (h2 : fld w 0 2 = 0#2) :
    decode w = accept (.patrank ⟨fld w 21 5, fld w 16 5, fld w 11 5, flag w 3, flag w 2⟩) := by
  unfold decode; rw [h0]; change decodeMajor25 w = _; unfold decodeMajor25; rw [h1, h2]; rfl
theorem patrank (o : Reg2) : Statement (.patrank o) := by
  intro hw w h
  obtain rfl := Option.some.inj (show some _ = some w from h)
  rw [decode_patrank] <;> simp [fld_cat_lo, fld_cat_hi, fld_self, flag_cat_lo, flag_cat_hi, flag_ofBool, accept, hw]

theorem decode_relay {w : Word32} (h0 : fld w 26 6 = 37#6) (h1 : fld w 4 7 = 7#7) (h2 : fld w 0 2 = 0#2) :
    decode w = accept (.relay ⟨fld w 21 5, fld w 16 5, fld w 11 5, flag w 3, flag w 2⟩) := by
  unfold decode; rw [h0]; change decodeMajor25 w = _; unfold decodeMajor25; rw [h1, h2]; rfl
theorem relay (o : Reg2) : Statement (.relay o) := by
  intro hw w h
  obtain rfl := Option.some.inj (show some _ = some w from h)
  rw [decode_relay] <;> simp [fld_cat_lo, fld_cat_hi, fld_self, flag_cat_lo, flag_cat_hi, flag_ofBool, accept, hw]

theorem decode_spawn {w : Word32} (h0 : fld w 26 6 = 38#6) (h1 : fld w 4 5 = 0#5) (h2 : fld w 1 2 = 0#2) :
    decode w = accept (.spawn ⟨fld w 21 5, fld w 16 5, fld w 11 5, fld w 9 2, flag w 3, flag w 0⟩) := by
  unfold decode; rw [h0]; change decodeMajor26 w = _; unfold decodeMajor26; rw [h1, h2]; rfl
theorem spawn (o : SpawnW) : Statement (.spawn o) := by
  intro hw w h
  obtain rfl := Option.some.inj (show some _ = some w from h)
  rw [decode_spawn] <;> simp [fld_cat_lo, fld_cat_hi, fld_self, flag_cat_lo, flag_cat_hi, flag_ofBool, accept, hw]

theorem decode_hstart {w : Word32} (h0 : fld w 26 6 = 38#6) (h1 : fld w 4 5 = 1#5) (h2 : fld w 1 2 = 0#2) :
    decode w = accept (.hstart ⟨fld w 21 5, fld w 16 5, fld w 11 5, fld w 9 2, flag w 3, flag w 0⟩) := by
  unfold decode; rw [h0]; change decodeMajor26 w = _; unfold decodeMajor26; rw [h1, h2]; rfl
theorem hstart (o : HstartW) : Statement (.hstart o) := by
  intro hw w h
  obtain rfl := Option.some.inj (show some _ = some w from h)
  rw [decode_hstart] <;> simp [fld_cat_lo, fld_cat_hi, fld_self, flag_cat_lo, flag_cat_hi, flag_ofBool, accept, hw]

theorem decode_hstat {w : Word32} (h0 : fld w 26 6 = 38#6) (h1 : fld w 4 5 = 2#5) (h2 : fld w 0 4 = 0#4) (h3 : fld w 9 12 = 0#12) :
    decode w = accept (.hstat (fld w 21 5)) := by
  unfold decode; rw [h0]; change decodeMajor26 w = _; unfold decodeMajor26; rw [h1, h2, h3]; rfl
theorem hstat (rd : BitVec 5) : Statement (.hstat rd) := by
  intro hw w h
  obtain rfl := Option.some.inj (show some _ = some w from h)
  rw [decode_hstat] <;> simp [fld_cat_lo, fld_cat_hi, fld_self, flag_cat_lo, flag_cat_hi, flag_ofBool, accept, hw] <;> rfl

theorem decode_cbcfgSet {w : Word32} (h0 : fld w 26 6 = 39#6) (h1 : fld w 4 7 = 0#7) (h2 : fld w 0 2 = 0#2) :
    decode w = accept (.cbcfgSet ⟨fld w 21 5, fld w 16 5, fld w 11 5, flag w 3, flag w 2⟩) := by
  unfold decode; rw [h0]; change decodeMajor27 w = _; unfold decodeMajor27; rw [h1, h2]; rfl
theorem cbcfgSet (o : Reg2) : Statement (.cbcfgSet o) := by
  intro hw w h
  obtain rfl := Option.some.inj (show some _ = some w from h)
  rw [decode_cbcfgSet] <;> simp [fld_cat_lo, fld_cat_hi, fld_self, flag_cat_lo, flag_cat_hi, flag_ofBool, accept, hw]

theorem decode_cbcfgState {w : Word32} (h0 : fld w 26 6 = 39#6) (h1 : fld w 4 7 = 0#7) (h2 : fld w 0 2 = 1#2) :
    decode w = accept (.cbcfgState ⟨fld w 21 5, fld w 16 5, fld w 11 5, flag w 3, flag w 2⟩) := by
  unfold decode; rw [h0]; change decodeMajor27 w = _; unfold decodeMajor27; rw [h1, h2]; rfl
theorem cbcfgState (o : Reg2) : Statement (.cbcfgState o) := by
  intro hw w h
  obtain rfl := Option.some.inj (show some _ = some w from h)
  rw [decode_cbcfgState] <;> simp [fld_cat_lo, fld_cat_hi, fld_self, flag_cat_lo, flag_cat_hi, flag_ofBool, accept, hw]

theorem decode_cbcfgRebuild {w : Word32} (h0 : fld w 26 6 = 39#6) (h1 : fld w 4 7 = 0#7) (h2 : fld w 0 2 = 2#2) :
    decode w = accept (.cbcfgRebuild ⟨fld w 21 5, fld w 16 5, fld w 11 5, flag w 3, flag w 2⟩) := by
  unfold decode; rw [h0]; change decodeMajor27 w = _; unfold decodeMajor27; rw [h1, h2]; rfl
theorem cbcfgRebuild (o : Reg2) : Statement (.cbcfgRebuild o) := by
  intro hw w h
  obtain rfl := Option.some.inj (show some _ = some w from h)
  rw [decode_cbcfgRebuild] <;> simp [fld_cat_lo, fld_cat_hi, fld_self, flag_cat_lo, flag_cat_hi, flag_ofBool, accept, hw]

theorem decode_cbcfgClear {w : Word32} (h0 : fld w 26 6 = 39#6) (h1 : fld w 4 7 = 0#7) (h2 : fld w 0 2 = 3#2) :
    decode w = accept (.cbcfgClear ⟨fld w 21 5, fld w 16 5, fld w 11 5, flag w 3, flag w 2⟩) := by
  unfold decode; rw [h0]; change decodeMajor27 w = _; unfold decodeMajor27; rw [h1, h2]; rfl
theorem cbcfgClear (o : Reg2) : Statement (.cbcfgClear o) := by
  intro hw w h
  obtain rfl := Option.some.inj (show some _ = some w from h)
  rw [decode_cbcfgClear] <;> simp [fld_cat_lo, fld_cat_hi, fld_self, flag_cat_lo, flag_cat_hi, flag_ofBool, accept, hw]

theorem decode_cbret {w : Word32} (h0 : fld w 26 6 = 39#6) (h1 : fld w 4 7 = 1#7) (h2 : fld w 0 3 = 0#3) (h3 : fld w 11 5 = 0#5) (h4 : fld w 21 5 = 0#5) :
    decode w = accept (.cbret ⟨fld w 16 5, flag w 3⟩) := by
  unfold decode; rw [h0]; change decodeMajor27 w = _; unfold decodeMajor27; rw [h1, h2, h3, h4]; rfl
theorem cbret (o : Src1) : Statement (.cbret o) := by
  intro hw w h
  obtain rfl := Option.some.inj (show some _ = some w from h)
  rw [decode_cbret] <;> simp [fld_cat_lo, fld_cat_hi, fld_self, flag_cat_lo, flag_cat_hi, flag_ofBool, accept, hw] <;> rfl

theorem decode_cbcnt {w : Word32} (h0 : fld w 26 6 = 39#6) (h1 : fld w 4 7 = 2#7) (h2 : fld w 0 3 = 0#3) (h3 : fld w 11 5 = 0#5) :
    decode w = accept (.cbcnt ⟨fld w 21 5, fld w 16 5, flag w 3⟩) := by
  unfold decode; rw [h0]; change decodeMajor27 w = _; unfold decodeMajor27; rw [h1, h2, h3]; rfl
theorem cbcnt (o : Reg1) : Statement (.cbcnt o) := by
  intro hw w h
  obtain rfl := Option.some.inj (show some _ = some w from h)
  rw [decode_cbcnt] <;> simp [fld_cat_lo, fld_cat_hi, fld_self, flag_cat_lo, flag_cat_hi, flag_ofBool, accept, hw] <;> rfl

theorem decode_cbaudit {w : Word32} (h0 : fld w 26 6 = 39#6) (h1 : fld w 4 7 = 3#7) (h2 : fld w 0 3 = 0#3) (h3 : fld w 11 5 = 0#5) :
    decode w = accept (.cbaudit ⟨fld w 21 5, fld w 16 5, flag w 3⟩) := by
  unfold decode; rw [h0]; change decodeMajor27 w = _; unfold decodeMajor27; rw [h1, h2, h3]; rfl
theorem cbaudit (o : Reg1) : Statement (.cbaudit o) := by
  intro hw w h
  obtain rfl := Option.some.inj (show some _ = some w from h)
  rw [decode_cbaudit] <;> simp [fld_cat_lo, fld_cat_hi, fld_self, flag_cat_lo, flag_cat_hi, flag_ofBool, accept, hw] <;> rfl

theorem decode_rnfwd {w : Word32} (h0 : fld w 26 6 = 58#6) (h1 : fld w 4 7 = 0#7) (h2 : fld w 2 1 = 0#1) (h3 : fld w 11 5 = 0#5) :
    decode w = accept (.rnfwd ⟨fld w 21 5, fld w 16 5, flag w 3, fld w 0 2⟩) := by
  unfold decode; rw [h0]; change decodeMajor3A w = _; unfold decodeMajor3A; rw [h1, h2, h3]; rfl
theorem rnfwd (o : Fp1) : Statement (.rnfwd o) := by
  intro hw w h
  obtain rfl := Option.some.inj (show some _ = some w from h)
  rw [decode_rnfwd] <;> simp [fld_cat_lo, fld_cat_hi, fld_self, flag_cat_lo, flag_cat_hi, flag_ofBool, accept, hw] <;> rfl

theorem decode_rnrev {w : Word32} (h0 : fld w 26 6 = 58#6) (h1 : fld w 4 7 = 1#7) (h2 : fld w 0 3 = 0#3) (h3 : fld w 11 5 = 0#5) :
    decode w = accept (.rnrev ⟨fld w 21 5, fld w 16 5, flag w 3⟩) := by
  unfold decode; rw [h0]; change decodeMajor3A w = _; unfold decodeMajor3A; rw [h1, h2, h3]; rfl
theorem rnrev (o : Reg1) : Statement (.rnrev o) := by
  intro hw w h
  obtain rfl := Option.some.inj (show some _ = some w from h)
  rw [decode_rnrev] <;> simp [fld_cat_lo, fld_cat_hi, fld_self, flag_cat_lo, flag_cat_hi, flag_ofBool, accept, hw] <;> rfl

theorem decode_rnadd {w : Word32} (h0 : fld w 26 6 = 58#6) (h1 : fld w 4 7 = 2#7) (h2 : fld w 0 2 = 0#2) :
    decode w = accept (.rnadd ⟨fld w 21 5, fld w 16 5, fld w 11 5, flag w 3, flag w 2⟩) := by
  unfold decode; rw [h0]; change decodeMajor3A w = _; unfold decodeMajor3A; rw [h1, h2]; rfl
theorem rnadd (o : Reg2) : Statement (.rnadd o) := by
  intro hw w h
  obtain rfl := Option.some.inj (show some _ = some w from h)
  rw [decode_rnadd] <;> simp [fld_cat_lo, fld_cat_hi, fld_self, flag_cat_lo, flag_cat_hi, flag_ofBool, accept, hw]

theorem decode_rnsub {w : Word32} (h0 : fld w 26 6 = 58#6) (h1 : fld w 4 7 = 3#7) (h2 : fld w 0 2 = 0#2) :
    decode w = accept (.rnsub ⟨fld w 21 5, fld w 16 5, fld w 11 5, flag w 3, flag w 2⟩) := by
  unfold decode; rw [h0]; change decodeMajor3A w = _; unfold decodeMajor3A; rw [h1, h2]; rfl
theorem rnsub (o : Reg2) : Statement (.rnsub o) := by
  intro hw w h
  obtain rfl := Option.some.inj (show some _ = some w from h)
  rw [decode_rnsub] <;> simp [fld_cat_lo, fld_cat_hi, fld_self, flag_cat_lo, flag_cat_hi, flag_ofBool, accept, hw]

theorem decode_rnmul {w : Word32} (h0 : fld w 26 6 = 58#6) (h1 : fld w 4 7 = 4#7) (h2 : fld w 0 2 = 0#2) :
    decode w = accept (.rnmul ⟨fld w 21 5, fld w 16 5, fld w 11 5, flag w 3, flag w 2⟩) := by
  unfold decode; rw [h0]; change decodeMajor3A w = _; unfold decodeMajor3A; rw [h1, h2]; rfl
theorem rnmul (o : Reg2) : Statement (.rnmul o) := by
  intro hw w h
  obtain rfl := Option.some.inj (show some _ = some w from h)
  rw [decode_rnmul] <;> simp [fld_cat_lo, fld_cat_hi, fld_self, flag_cat_lo, flag_cat_hi, flag_ofBool, accept, hw]

theorem decode_rnchk {w : Word32} (h0 : fld w 26 6 = 58#6) (h1 : fld w 4 7 = 5#7) (h2 : fld w 0 3 = 0#3) (h3 : fld w 11 5 = 0#5) :
    decode w = accept (.rnchk ⟨fld w 21 5, fld w 16 5, flag w 3⟩) := by
  unfold decode; rw [h0]; change decodeMajor3A w = _; unfold decodeMajor3A; rw [h1, h2, h3]; rfl
theorem rnchk (o : Reg1) : Statement (.rnchk o) := by
  intro hw w h
  obtain rfl := Option.some.inj (show some _ = some w from h)
  rw [decode_rnchk] <;> simp [fld_cat_lo, fld_cat_hi, fld_self, flag_cat_lo, flag_cat_hi, flag_ofBool, accept, hw] <;> rfl

theorem decode_cpy {w : Word32} (h0 : fld w 26 6 = 59#6) (h1 : fld w 4 7 = 0#7) (h2 : fld w 0 2 = 0#2) :
    decode w = accept (.cpy ⟨fld w 21 5, fld w 16 5, fld w 11 5, flag w 3, flag w 2⟩) := by
  unfold decode; rw [h0]; change decodeMajor3B w = _; unfold decodeMajor3B; rw [h1, h2]; rfl
theorem cpy (o : CopyW) : Statement (.cpy o) := by
  intro hw w h
  obtain rfl := Option.some.inj (show some _ = some w from h)
  rw [decode_cpy] <;> simp [fld_cat_lo, fld_cat_hi, fld_self, flag_cat_lo, flag_cat_hi, flag_ofBool, accept, hw]

theorem decode_cpya {w : Word32} (h0 : fld w 26 6 = 59#6) (h1 : fld w 4 7 = 1#7) (h2 : fld w 0 2 = 0#2) :
    decode w = accept (.cpya ⟨fld w 21 5, fld w 16 5, fld w 11 5, flag w 3, flag w 2⟩) := by
  unfold decode; rw [h0]; change decodeMajor3B w = _; unfold decodeMajor3B; rw [h1, h2]; rfl
theorem cpya (o : CopyW) : Statement (.cpya o) := by
  intro hw w h
  obtain rfl := Option.some.inj (show some _ = some w from h)
  rw [decode_cpya] <;> simp [fld_cat_lo, fld_cat_hi, fld_self, flag_cat_lo, flag_cat_hi, flag_ofBool, accept, hw]

theorem decode_cpyw {w : Word32} (h0 : fld w 26 6 = 59#6) (h1 : fld w 4 7 = 2#7) (h2 : fld w 0 2 = 0#2) :
    decode w = accept (.cpyw ⟨fld w 21 5, fld w 16 5, fld w 11 5, flag w 3, flag w 2⟩) := by
  unfold decode; rw [h0]; change decodeMajor3B w = _; unfold decodeMajor3B; rw [h1, h2]; rfl
theorem cpyw (o : CopyW) : Statement (.cpyw o) := by
  intro hw w h
  obtain rfl := Option.some.inj (show some _ = some w from h)
  rw [decode_cpyw] <;> simp [fld_cat_lo, fld_cat_hi, fld_self, flag_cat_lo, flag_cat_hi, flag_ofBool, accept, hw]

theorem decode_cpyg {w : Word32} (h0 : fld w 26 6 = 59#6) (h1 : fld w 4 7 = 3#7) (h2 : fld w 0 2 = 0#2) :
    decode w = accept (.cpyg ⟨fld w 21 5, fld w 16 5, fld w 11 5, flag w 3, flag w 2⟩) := by
  unfold decode; rw [h0]; change decodeMajor3B w = _; unfold decodeMajor3B; rw [h1, h2]; rfl
theorem cpyg (o : CopyW) : Statement (.cpyg o) := by
  intro hw w h
  obtain rfl := Option.some.inj (show some _ = some w from h)
  rw [decode_cpyg] <;> simp [fld_cat_lo, fld_cat_hi, fld_self, flag_cat_lo, flag_cat_hi, flag_ofBool, accept, hw]

theorem decode_weirnew {w : Word32} (h0 : fld w 26 6 = 59#6) (h1 : fld w 4 7 = 8#7) (h2 : fld w 0 3 = 0#3) (h3 : fld w 11 5 = 0#5) :
    decode w = accept (.weirnew ⟨fld w 21 5, fld w 16 5, flag w 3⟩) := by
  unfold decode; rw [h0]; change decodeMajor3B w = _; unfold decodeMajor3B; rw [h1, h2, h3]; rfl
theorem weirnew (o : Reg1) : Statement (.weirnew o) := by
  intro hw w h
  obtain rfl := Option.some.inj (show some _ = some w from h)
  rw [decode_weirnew] <;> simp [fld_cat_lo, fld_cat_hi, fld_self, flag_cat_lo, flag_cat_hi, flag_ofBool, accept, hw] <;> rfl

theorem decode_weiradd {w : Word32} (h0 : fld w 26 6 = 59#6) (h1 : fld w 4 7 = 9#7) (h2 : fld w 0 2 = 0#2) (h3 : fld w 21 5 = 0#5) :
    decode w = accept (.weiradd ⟨fld w 16 5, fld w 11 5, flag w 3, flag w 2⟩) := by
  unfold decode; rw [h0]; change decodeMajor3B w = _; unfold decodeMajor3B; rw [h1, h2, h3]; rfl
theorem weiradd (o : WeirAdd) : Statement (.weiradd o) := by
  intro hw w h
  obtain rfl := Option.some.inj (show some _ = some w from h)
  rw [decode_weiradd] <;> simp [fld_cat_lo, fld_cat_hi, fld_self, flag_cat_lo, flag_cat_hi, flag_ofBool, accept, hw] <;> rfl

theorem decode_weirarm {w : Word32} (h0 : fld w 26 6 = 59#6) (h1 : fld w 4 7 = 10#7) (h2 : fld w 0 3 = 0#3) (h3 : fld w 11 5 = 0#5) (h4 : fld w 21 5 = 0#5) :
    decode w = accept (.weirarm ⟨fld w 16 5, flag w 3⟩) := by
  unfold decode; rw [h0]; change decodeMajor3B w = _; unfold decodeMajor3B; rw [h1, h2, h3, h4]; rfl
theorem weirarm (o : Src1) : Statement (.weirarm o) := by
  intro hw w h
  obtain rfl := Option.some.inj (show some _ = some w from h)
  rw [decode_weirarm] <;> simp [fld_cat_lo, fld_cat_hi, fld_self, flag_cat_lo, flag_cat_hi, flag_ofBool, accept, hw] <;> rfl

theorem decode_weirarmFree {w : Word32} (h0 : fld w 26 6 = 59#6) (h1 : fld w 4 7 = 10#7) (h2 : fld w 0 3 = 1#3) (h3 : fld w 11 5 = 0#5) (h4 : fld w 21 5 = 0#5) :
    decode w = accept (.weirarmFree ⟨fld w 16 5, flag w 3⟩) := by
  unfold decode; rw [h0]; change decodeMajor3B w = _; unfold decodeMajor3B; rw [h1, h2, h3, h4]; rfl
theorem weirarmFree (o : Src1) : Statement (.weirarmFree o) := by
  intro hw w h
  obtain rfl := Option.some.inj (show some _ = some w from h)
  rw [decode_weirarmFree] <;> simp [fld_cat_lo, fld_cat_hi, fld_self, flag_cat_lo, flag_cat_hi, flag_ofBool, accept, hw] <;> rfl

theorem decode_weirrd {w : Word32} (h0 : fld w 26 6 = 59#6) (h1 : fld w 4 7 = 11#7) (h2 : fld w 0 3 = 0#3) (h3 : fld w 11 5 = 0#5) :
    decode w = accept (.weirrd ⟨fld w 21 5, fld w 16 5, flag w 3⟩) := by
  unfold decode; rw [h0]; change decodeMajor3B w = _; unfold decodeMajor3B; rw [h1, h2, h3]; rfl
theorem weirrd (o : Reg1) : Statement (.weirrd o) := by
  intro hw w h
  obtain rfl := Option.some.inj (show some _ = some w from h)
  rw [decode_weirrd] <;> simp [fld_cat_lo, fld_cat_hi, fld_self, flag_cat_lo, flag_cat_hi, flag_ofBool, accept, hw] <;> rfl

theorem sliceoccWrite (stack : Nat) (slice : Nat) : Statement (.sliceoccWrite stack slice) := fun _ _ h => nomatch (show none = some _ from h)
theorem cbReturnApply (cluster : Nat) : Statement (.cbReturnApply cluster) := fun _ _ h => nomatch (show none = some _ from h)
theorem repWordIssue (core : Nat) : Statement (.repWordIssue core) := fun _ _ h => nomatch (show none = some _ from h)
theorem acfgApply (core : Nat) : Statement (.acfgApply core) := fun _ _ h => nomatch (show none = some _ from h)
theorem illegalWord (w : Word32) : Statement (.illegalWord w) := fun _ _ h => nomatch (show none = some _ from h)
theorem packageReset : Statement (.packageReset) := fun _ _ h => nomatch (show none = some _ from h)
theorem messageAdmit (core : Nat) : Statement (.messageAdmit core) := fun _ _ h => nomatch (show none = some _ from h)
theorem messageAccept (k : Nat) : Statement (.messageAccept k) := fun _ _ h => nomatch (show none = some _ from h)
theorem overflowMoveBack (core : Nat) (slot : Nat) : Statement (.overflowMoveBack core slot) := fun _ _ h => nomatch (show none = some _ from h)
theorem relayForward (core : Nat) : Statement (.relayForward core) := fun _ _ h => nomatch (show none = some _ from h)
theorem sluiceEvaluate (core : Nat) : Statement (.sluiceEvaluate core) := fun _ _ h => nomatch (show none = some _ from h)
theorem contextLoaded (core : Nat) (ctx : Nat) : Statement (.contextLoaded core ctx) := fun _ _ h => nomatch (show none = some _ from h)
theorem hstartRetry (core : Nat) : Statement (.hstartRetry core) := fun _ _ h => nomatch (show none = some _ from h)
theorem spawnItemArrive (k : Nat) : Statement (.spawnItemArrive k) := fun _ _ h => nomatch (show none = some _ from h)
theorem registerFill (core : Nat) (ctx : Nat) (k : Nat) : Statement (.registerFill core ctx k) := fun _ _ h => nomatch (show none = some _ from h)
theorem storeBufferDrain (core : Nat) : Statement (.storeBufferDrain core) := fun _ _ h => nomatch (show none = some _ from h)
theorem atomicQueueSend (core : Nat) : Statement (.atomicQueueSend core) := fun _ _ h => nomatch (show none = some _ from h)
theorem homeAtomicApply (k : Nat) : Statement (.homeAtomicApply k) := fun _ _ h => nomatch (show none = some _ from h)
theorem sliceRequestAccept (k : Nat) : Statement (.sliceRequestAccept k) := fun _ _ h => nomatch (show none = some _ from h)
theorem sliceAnswer (stack : Nat) (slice : Nat) : Statement (.sliceAnswer stack slice) := fun _ _ h => nomatch (show none = some _ from h)
theorem bankModeDone (cluster : Nat) (bank : Nat) : Statement (.bankModeDone cluster bank) := fun _ _ h => nomatch (show none = some _ from h)
theorem cbSlotStart (stack : Nat) (engine : Nat) : Statement (.cbSlotStart stack engine) := fun _ _ h => nomatch (show none = some _ from h)
theorem cbSlotFilled (stack : Nat) (engine : Nat) : Statement (.cbSlotFilled stack engine) := fun _ _ h => nomatch (show none = some _ from h)
theorem sliceCounterFlush (stack : Nat) (slice : Nat) : Statement (.sliceCounterFlush stack slice) := fun _ _ h => nomatch (show none = some _ from h)
theorem fpunionUpdate (cluster : Nat) : Statement (.fpunionUpdate cluster) := fun _ _ h => nomatch (show none = some _ from h)
theorem colanderAllocate (stack : Nat) : Statement (.colanderAllocate stack) := fun _ _ h => nomatch (show none = some _ from h)
theorem colanderSplit (stack : Nat) : Statement (.colanderSplit stack) := fun _ _ h => nomatch (show none = some _ from h)
theorem colanderShare (stack : Nat) : Statement (.colanderShare stack) := fun _ _ h => nomatch (show none = some _ from h)
theorem colanderNotice (stack : Nat) : Statement (.colanderNotice stack) := fun _ _ h => nomatch (show none = some _ from h)
theorem colanderAnswer (k : Nat) : Statement (.colanderAnswer k) := fun _ _ h => nomatch (show none = some _ from h)
theorem viewNoticeSend (core : Nat) : Statement (.viewNoticeSend core) := fun _ _ h => nomatch (show none = some _ from h)
theorem watchdogExpire (core : Nat) (ctx : Nat) : Statement (.watchdogExpire core ctx) := fun _ _ h => nomatch (show none = some _ from h)
theorem sliceEndSignal (core : Nat) : Statement (.sliceEndSignal core) := fun _ _ h => nomatch (show none = some _ from h)
theorem graceExpire (core : Nat) : Statement (.graceExpire core) := fun _ _ h => nomatch (show none = some _ from h)
theorem contextSave (core : Nat) : Statement (.contextSave core) := fun _ _ h => nomatch (show none = some _ from h)
theorem messageStateSave (core : Nat) : Statement (.messageStateSave core) := fun _ _ h => nomatch (show none = some _ from h)
theorem poundResume (core : Nat) : Statement (.poundResume core) := fun _ _ h => nomatch (show none = some _ from h)
theorem deferredFaultTake (core : Nat) (ctx : Nat) : Statement (.deferredFaultTake core ctx) := fun _ _ h => nomatch (show none = some _ from h)
theorem faultPacketResend (core : Nat) : Statement (.faultPacketResend core) := fun _ _ h => nomatch (show none = some _ from h)
theorem translationWalk (cluster : Nat) : Statement (.translationWalk cluster) := fun _ _ h => nomatch (show none = some _ from h)
theorem keeperPtLookup (cluster : Nat) : Statement (.keeperPtLookup cluster) := fun _ _ h => nomatch (show none = some _ from h)
theorem missdone (cluster : Nat) (value : Word) : Statement (.missdone cluster value) := fun _ _ h => nomatch (show none = some _ from h)
theorem sideLogReplay (core : Nat) (k : Nat) : Statement (.sideLogReplay core k) := fun _ _ h => nomatch (show none = some _ from h)
theorem engineCommandStart (stack : Nat) (engine : Nat) : Statement (.engineCommandStart stack engine) := fun _ _ h => nomatch (show none = some _ from h)
theorem engineCommandDone (stack : Nat) (engine : Nat) : Statement (.engineCommandDone stack engine) := fun _ _ h => nomatch (show none = some _ from h)
theorem weirCharge (stack : Nat) : Statement (.weirCharge stack) := fun _ _ h => nomatch (show none = some _ from h)
theorem weirSubtract (stack : Nat) (k : Nat) : Statement (.weirSubtract stack k) := fun _ _ h => nomatch (show none = some _ from h)
theorem weirAddApply (stack : Nat) : Statement (.weirAddApply stack) := fun _ _ h => nomatch (show none = some _ from h)
theorem weirArmApply (stack : Nat) : Statement (.weirArmApply stack) := fun _ _ h => nomatch (show none = some _ from h)
theorem weirCreate (stack : Nat) : Statement (.weirCreate stack) := fun _ _ h => nomatch (show none = some _ from h)
theorem weirStateRead (stack : Nat) : Statement (.weirStateRead stack) := fun _ _ h => nomatch (show none = some _ from h)
theorem gangStart (core : Nat) : Statement (.gangStart core) := fun _ _ h => nomatch (show none = some _ from h)
theorem gangTimeout (core : Nat) : Statement (.gangTimeout core) := fun _ _ h => nomatch (show none = some _ from h)
theorem gangOperationDone (k : Nat) : Statement (.gangOperationDone k) := fun _ _ h => nomatch (show none = some _ from h)
theorem taggedSendAccept (port : Nat) (asks : UeUse) (payload : (List Word)) : Statement (.taggedSendAccept port asks payload) := fun _ _ h => nomatch (show none = some _ from h)
theorem peerMessageReceive (port : Nat) (name : Word) (status : (BitVec 2)) (holds : PeerPayload) : Statement (.peerMessageReceive port name status holds) := fun _ _ h => nomatch (show none = some _ from h)
theorem rmaWrite (key : Word) (off : Nat) (data : (List Byte)) : Statement (.rmaWrite key off data) := fun _ _ h => nomatch (show none = some _ from h)
theorem rmaRead (key : Word) (off : Nat) (n : Nat) : Statement (.rmaRead key off n) := fun _ _ h => nomatch (show none = some _ from h)
theorem rmaWriteComplete (k : Nat) : Statement (.rmaWriteComplete k) := fun _ _ h => nomatch (show none = some _ from h)
theorem remoteTargetAck (k : Nat) (data : Nat) (poison : Bool) : Statement (.remoteTargetAck k data poison) := fun _ _ h => nomatch (show none = some _ from h)
theorem completionAccept (k : Nat) : Statement (.completionAccept k) := fun _ _ h => nomatch (show none = some _ from h)
theorem completionTimerExpire (tag : Nat) (endpoint : HostEndpoint) : Statement (.completionTimerExpire tag endpoint) := fun _ _ h => nomatch (show none = some _ from h)
theorem energyChargePost (k : Nat) : Statement (.energyChargePost k) := fun _ _ h => nomatch (show none = some _ from h)
theorem energyIntervalEnd (stack : Nat) : Statement (.energyIntervalEnd stack) := fun _ _ h => nomatch (show none = some _ from h)
theorem powerSample (milliwatts : Nat) : Statement (.powerSample milliwatts) := fun _ _ h => nomatch (show none = some _ from h)
theorem claim (stack : Nat) (entry : Nat) (req : Nat) (va : Word) : Statement (.claim stack entry req va) := fun _ _ h => nomatch (show none = some _ from h)
theorem start (stack : Nat) (entry : Nat) : Statement (.start stack entry) := fun _ _ h => nomatch (show none = some _ from h)
theorem migRelease (stack : Nat) (entry : Nat) : Statement (.migRelease stack entry) := fun _ _ h => nomatch (show none = some _ from h)
theorem cancel (stack : Nat) (entry : Nat) : Statement (.cancel stack entry) := fun _ _ h => nomatch (show none = some _ from h)
theorem migrationHoldReady (stack : Nat) (entry : Nat) : Statement (.migrationHoldReady stack entry) := fun _ _ h => nomatch (show none = some _ from h)
theorem migrationCopyDone (stack : Nat) (entry : Nat) : Statement (.migrationCopyDone stack entry) := fun _ _ h => nomatch (show none = some _ from h)
theorem migrationRemapDone (stack : Nat) (entry : Nat) : Statement (.migrationRemapDone stack entry) := fun _ _ h => nomatch (show none = some _ from h)
theorem migrationDrainDone (stack : Nat) (entry : Nat) : Statement (.migrationDrainDone stack entry) := fun _ _ h => nomatch (show none = some _ from h)
theorem debugWindowWrite (core : Nat) (offset : Nat) (value : Word) : Statement (.debugWindowWrite core offset value) := fun _ _ h => nomatch (show none = some _ from h)
theorem stop (core : Nat) : Statement (.stop core) := fun _ _ h => nomatch (show none = some _ from h)
theorem debugResume (core : Nat) (slot : Bool) : Statement (.debugResume core slot) := fun _ _ h => nomatch (show none = some _ from h)
theorem restart (core : Nat) : Statement (.restart core) := fun _ _ h => nomatch (show none = some _ from h)
theorem kill (core : Nat) (cause : Nat) : Statement (.kill core cause) := fun _ _ h => nomatch (show none = some _ from h)
theorem step (core : Nat) (slot : Bool) : Statement (.step core slot) := fun _ _ h => nomatch (show none = some _ from h)
theorem halt (core : Nat) (flight : Nat) : Statement (.halt core flight) := fun _ _ h => nomatch (show none = some _ from h)
theorem flightRelease (core : Nat) (flight : Nat) : Statement (.flightRelease core flight) := fun _ _ h => nomatch (show none = some _ from h)
theorem cut (node : Nat) (number : Nat) : Statement (.cut node number) := fun _ _ h => nomatch (show none = some _ from h)
theorem cutMarkerForward (core : Nat) : Statement (.cutMarkerForward core) := fun _ _ h => nomatch (show none = some _ from h)
theorem coreCutRecord (core : Nat) : Statement (.coreCutRecord core) := fun _ _ h => nomatch (show none = some _ from h)
theorem engineCutRecord (stack : Nat) (engine : Nat) : Statement (.engineCutRecord stack engine) := fun _ _ h => nomatch (show none = some _ from h)
theorem portCutInject (port : Nat) : Statement (.portCutInject port) := fun _ _ h => nomatch (show none = some _ from h)
theorem layoutCommit (removed : (List Nat)) (records : (List LayoutRecord)) : Statement (.layoutCommit removed records) := fun _ _ h => nomatch (show none = some _ from h)
theorem wharfReset : Statement (.wharfReset) := fun _ _ h => nomatch (show none = some _ from h)
theorem wharfBoot (digests : (List Nat)) (verified : Bool) : Statement (.wharfBoot digests verified) := fun _ _ h => nomatch (show none = some _ from h)
theorem extend (register : Nat) (digest : Nat) : Statement (.extend register digest) := fun _ _ h => nomatch (show none = some _ from h)
theorem tokenRefill (node : Nat) : Statement (.tokenRefill node) := fun _ _ h => nomatch (show none = some _ from h)
theorem vdResume (node : Nat) : Statement (.vdResume node) := fun _ _ h => nomatch (show none = some _ from h)
theorem vdSliceEnd (node : Nat) : Statement (.vdSliceEnd node) := fun _ _ h => nomatch (show none = some _ from h)
theorem wayRebalance (stack : Nat) (slice : Nat) : Statement (.wayRebalance stack slice) := fun _ _ h => nomatch (show none = some _ from h)
theorem lock (node : Nat) : Statement (.lock node) := fun _ _ h => nomatch (show none = some _ from h)
theorem unlock (node : Nat) : Statement (.unlock node) := fun _ _ h => nomatch (show none = some _ from h)
theorem report (node : Nat) (nonce : Nat) : Statement (.report node nonce) := fun _ _ h => nomatch (show none = some _ from h)
theorem accept (node : Nat) (digest : Nat) : Statement (.accept node digest) := fun _ _ h => nomatch (show none = some _ from h)
theorem teardown (node : Nat) : Statement (.teardown node) := fun _ _ h => nomatch (show none = some _ from h)
theorem scrub (node : Nat) : Statement (.scrub node) := fun _ _ h => nomatch (show none = some _ from h)
theorem frozenSetWrite (node : Nat) (reg : DevReg) (value : Word) : Statement (.frozenSetWrite node reg value) := fun _ _ h => nomatch (show none = some _ from h)
theorem clear (block : Nat) : Statement (.clear block) := fun _ _ h => nomatch (show none = some _ from h)
theorem envelopeSet (watts : Nat) : Statement (.envelopeSet watts) := fun _ _ h => nomatch (show none = some _ from h)
theorem hwErrorDetect (place : ErrPlace) (kind : ErrKind) : Statement (.hwErrorDetect place kind) := fun _ _ h => nomatch (show none = some _ from h)
theorem bucketLeak (unit : BucketId) : Statement (.bucketLeak unit) := fun _ _ h => nomatch (show none = some _ from h)
theorem dramErrorReport (stack : Nat) (cell : DramCell) (uncorrectable : Bool) : Statement (.dramErrorReport stack cell uncorrectable) := fun _ _ h => nomatch (show none = some _ from h)
theorem sparingDone (stack : Nat) (cell : DramCell) : Statement (.sparingDone stack cell) := fun _ _ h => nomatch (show none = some _ from h)
theorem pairRequestRelease (core : Nat) : Statement (.pairRequestRelease core) := fun _ _ h => nomatch (show none = some _ from h)
theorem memoryCut (node : Nat) (number : Nat) : Statement (.memoryCut node number) := fun _ _ h => nomatch (show none = some _ from h)
theorem rollback (node : Nat) : Statement (.rollback node) := fun _ _ h => nomatch (show none = some _ from h)
theorem registerWrite (reg : DevReg) (value : Word) : Statement (.registerWrite reg value) := fun _ _ h => nomatch (show none = some _ from h)
theorem ngaturAssemble (job : AsmJob) : Statement (.ngaturAssemble job) := fun _ _ h => nomatch (show none = some _ from h)
theorem attach (tag : Nat) : Statement (.attach tag) := fun _ _ h => nomatch (show none = some _ from h)
theorem load (image : GofObject) (request : LaunchRequest) : Statement (.load image request) := fun _ _ h => nomatch (show none = some _ from h)
theorem sym (name : String) : Statement (.sym name) := fun _ _ h => nomatch (show none = some _ from h)
theorem sluice (core : Nat) (chans : Bool) : Statement (.sluice core chans) := fun _ _ h => nomatch (show none = some _ from h)
theorem traceArrivals (core : Nat) (chan : (Option Nat)) : Statement (.traceArrivals core chan) := fun _ _ h => nomatch (show none = some _ from h)
theorem watchFire (core : Nat) (regs : (List SnvReg)) : Statement (.watchFire core regs) := fun _ _ h => nomatch (show none = some _ from h)
theorem post (chans : (List Word)) (words : (List Word)) : Statement (.post chans words) := fun _ _ h => nomatch (show none = some _ from h)
theorem xlate (core : Nat) (va : Word) : Statement (.xlate core va) := fun _ _ h => nomatch (show none = some _ from h)
theorem regs (core : Nat) (ctx : Nat) (regs : (List SnvReg)) : Statement (.regs core ctx regs) := fun _ _ h => nomatch (show none = some _ from h)
theorem streamCmd (core : Nat) (ctx : Nat) (q : Nat) : Statement (.streamCmd core ctx q) := fun _ _ h => nomatch (show none = some _ from h)
theorem mem (core : Nat) (off : Nat) (n : Nat) (unit : MemUnit) : Statement (.mem core off n unit) := fun _ _ h => nomatch (show none = some _ from h)
theorem breakAt (va : Word) (cores : (List Nat)) : Statement (.breakAt va cores) := fun _ _ h => nomatch (show none = some _ from h)
theorem delete (number : Nat) : Statement (.delete number) := fun _ _ h => nomatch (show none = some _ from h)
theorem cont : Statement (.cont) := fun _ _ h => nomatch (show none = some _ from h)
theorem occ (core : Nat) : Statement (.occ core) := fun _ _ h => nomatch (show none = some _ from h)
theorem occClear (core : Nat) : Statement (.occClear core) := fun _ _ h => nomatch (show none = some _ from h)
theorem sample (core : Nat) (sampling : Sampling) : Statement (.sample core sampling) := fun _ _ h => nomatch (show none = some _ from h)
theorem preempt (node : Nat) (grace : Nat) (at_ : (Option (Nat × Word))) : Statement (.preempt node grace at_) := fun _ _ h => nomatch (show none = some _ from h)
theorem resumePound (node : Nat) : Statement (.resumePound node) := fun _ _ h => nomatch (show none = some _ from h)
theorem save (core : Nat) : Statement (.save core) := fun _ _ h => nomatch (show none = some _ from h)
theorem tile (core : Nat) (acc : Nat) (elem : (Option (Nat × Nat))) : Statement (.tile core acc elem) := fun _ _ h => nomatch (show none = some _ from h)
theorem flip (core : Nat) (acc : Nat) (row : Nat) (col : Nat) (bit : Nat) : Statement (.flip core acc row col bit) := fun _ _ h => nomatch (show none = some _ from h)
theorem acfgCommand (core : Nat) (deg : Nat) (fch : Nat) : Statement (.acfgCommand core deg fch) := fun _ _ h => nomatch (show none = some _ from h)
theorem resumeContext (cores : (List Nat)) (ctx : Nat) (va : Word) : Statement (.resumeContext cores ctx va) := fun _ _ h => nomatch (show none = some _ from h)
theorem traceGang (lead : Nat) (mask : Nat) : Statement (.traceGang lead mask) := fun _ _ h => nomatch (show none = some _ from h)
theorem watchPc (va : Word) (cores : (List Nat)) (regs : (List SnvReg)) : Statement (.watchPc va cores regs) := fun _ _ h => nomatch (show none = some _ from h)
theorem colander (region : Nat) : Statement (.colander region) := fun _ _ h => nomatch (show none = some _ from h)
theorem viewCmd (core : Nat) (ctx : Nat) (w : Nat) : Statement (.viewCmd core ctx w) := fun _ _ h => nomatch (show none = some _ from h)
theorem drainComplete (core : Nat) : Statement (.drainComplete core) := fun _ _ h => nomatch (show none = some _ from h)

end Sys2Proof.Laws.RoundTrip
end

