-- ==== Sys2Proof/Safety.lean ====
section
/-!
DEFINITION. The terms claims are stated in: when a word may take its effect, what a word of one shape leaves, what a
completed word is, and the invariants of a run.
-/

namespace Sys2Proof.Machine

/-! ## When a word takes its effect -/

/-- When a word of rule `r` executes normally on the acting context: no fault is due at this issue (R40), its group of HINTs
suits it (R157 to R161), its core may run it (R142), no repetition sequence holds it up (R242), and every register it reads
and every destination is full (R155). -/
abbrev State.Clear (s : State) (r : WordRule) : Prop :=
  s.ctx.deferred = [] ∧ s.ctx.group.all (groupSuits r) = true ∧ (r.priv = true → isKeeper s.cur.1 = true) ∧
    repHolds r s = false ∧ (∀ p ∈ r.srcs, s.ctx.full p.1 = true) ∧ (∀ d ∈ r.dests, s.ctx.full d = true)

/-- A word has retired: the acting context goes on at the next word, its group of HINTs is over, and the issue is noted
under its energy class (R142, R162, R399). -/
def State.past (s : State) (cls : Nat) (t : State) : State := t.retire cls (s.ctx.pc + 4)

/-- A word has written an x register and retired (R154): nothing else of the context has changed. -/
def State.wroteX (s : State) (rd : BitVec 5) (v : Word) : State := s.past 0 (s.modCtx (·.writeX rd v))

/-- A floating word of a result format has written its result to an x register, raised the result's flags and, when there are
any, counted its events (R183), and retired. -/
def State.wroteF (s : State) (f : Fmt) (rd : BitVec 5) (r : FOut) : State :=
  s.past 0 ((s.scalarFlags f r).modCtx (·.writeX rd (BitVec.ofNat 64 r.bits)))

/-- A word has written a v register and retired. -/
def State.wroteV (s : State) (cls : Nat) (vd : BitVec 4) (v : Vec) : State := s.past cls (s.modCtx (·.writeV vd v))

/-- R157: an immediate field as a word takes it, extended by its sign or with zeros, a HINT.IMM's payload above it. -/
def State.immediate (s : State) {w : Nat} (signed : Bool) (imm : BitVec w) : Word :=
  match s.ctx.group.bind (·.imm) with
  | none => if signed then imm.signExtend 64 else imm.setWidth 64
  | some p => if signed then (p ++ imm).signExtend 64 else (p ++ imm).setWidth 64

/-- The state in which a precise fault of the acting context has been taken (R40, R162, R360): FROZEN at its word, or its
group's first HINT, with one packet more on its way to the keeper. -/
def State.faulted (s t : State) (f : FaultInfo) : Prop :=
  t.ctx.state = .frozen ∧ t.ctx.pc = s.ctx.faultPc ∧ t.ctx.x = s.ctx.x ∧ t.ctx.v = s.ctx.v ∧ t.ctx.w = s.ctx.w ∧
    t.ctx.q = s.ctx.q ∧ t.ctx.xfull = s.ctx.xfull ∧ t.ctx.vfull = s.ctx.vfull ∧ t.ctx.wfull = s.ctx.wfull ∧ t.mem = s.mem ∧
    t.me.packets.map (·.1) = s.me.packets.map (·.1) ++
      [packetWords s.cur.1 s.cur.2 f s.ctx.faultPc s.ctx.region.domain s.ctx.faultWord]

/-- A word has placed `item` in the outbox, or behind earlier spills in the spill ring, in issue order (R30), and retired. -/
def State.sentOut (s t : State) (item : OutItem) : Prop :=
  t.ctx.pc = s.ctx.pc + 4 ∧ ∃ e : OutEntry, e.item = item ∧ e.ctx = s.cur.2 ∧
    (t.me.outbox = s.me.outbox ++ [e] ∧ t.me.spill = s.me.spill ∨ t.me.outbox = s.me.outbox ∧ t.me.spill = s.me.spill ++ [.out e])

/-! ## Loads, stores and atomics of the acting context -/

/-- Every part of a load passes the checks of R199 and R200. -/
def State.mayLoad (s : State) (al : Nat) (viaView : Bool) (dest : Dest) (parts : List (Nat × Word × Nat)) : Prop :=
  ∃ ps u, s.loadChecks al viaView dest parts [] = .inr (ps, u)

/-- What a word that has issued an access keeps of its context: the values of its registers, its views and flags; its streams
are `q`, as they were but for a word that steps one; the PC goes on; and no byte of memory has changed. -/
def State.issued (s t : State) (q : Vector Stream 4 := s.ctx.q) : Prop :=
  t.ctx.pc = s.ctx.pc + 4 ∧ t.ctx.x = s.ctx.x ∧ t.ctx.v = s.ctx.v ∧ t.ctx.m = s.ctx.m ∧ t.ctx.w = s.ctx.w ∧ t.ctx.q = q ∧
    t.ctx.fpflags = s.ctx.fpflags ∧ t.ctx.fpctl = s.ctx.fpctl ∧ t.mem = s.mem ∧ t.weights = s.weights

/-- A load of the acting context has issued (R156, R203): its destination alone is empty, and one producer more, with a part for
each run of bytes, stands for it until REGISTER_FILL. -/
def State.loaded (s t : State) (dest : Dest) (fin : Finish) (strong : Option Scope) (parts : List (Nat × Word × Nat))
    (q : Vector Stream 4 := s.ctx.q) : Prop :=
  s.issued t q ∧ (∀ r ∈ dest.regs, r = .x 0 ∨ t.ctx.full r = false) ∧ (∀ r, r ∉ dest.regs → t.ctx.full r = s.ctx.full r) ∧
    t.me.stores = s.me.stores ∧ t.me.sideLog = s.me.sideLog ∧
    ∃ p : Pend, t.ctx.pends = s.ctx.pends ++ [p] ∧ p.dest = dest ∧ p.finish = fin ∧ p.strong = strong ∧
      p.pieces.map (fun q => (q.slot, q.va, q.len)) = parts

/-- Every part of a store passes the checks of R199 and R200, and the store buffer and the side log have room for them. -/
def State.mayStore (s : State) (al : Nat) (strict viaView : Bool) (parts : List (Word × Nat × BitVec 16 × BitVec 128)) : Prop :=
  ∃ ps u, s.storeChecks al strict viaView .none parts [] = .inr (ps, u) ∧ s.me.stores.length + (storeRoom ps).1 ≤ 16 ∧
    s.me.sideLog.length + (storeRoom ps).2 ≤ 32

/-- A store of the acting context has issued (R200, R201): each part, its address, bytes and data, is in the store buffer, or in
the side log at the multiple of 16 below its address. -/
def State.stored (s t : State) (strong : Option Scope) (parts : List (Word × Nat × BitVec 16 × BitVec 128))
    (q : Vector Stream 4 := s.ctx.q) : Prop :=
  s.issued t q ∧ (∀ r, t.ctx.full r = s.ctx.full r) ∧ t.ctx.pends = s.ctx.pends ∧
    ∃ (b : List Store) (l : List SideEntry), t.me.stores = s.me.stores ++ b ∧ t.me.sideLog = s.me.sideLog ++ l ∧
      b.length + l.length = parts.length ∧
      ∀ p ∈ parts, (∃ e ∈ b, e.ctx = s.cur.2 ∧ e.va = p.1 ∧ e.len = p.2.1 ∧ e.mask = p.2.2.1 ∧ e.data = p.2.2.2 ∧ e.strong = strong) ∨
        ∃ e ∈ l, e.ctx = s.cur.2 ∧ e.va = p.1 - BitVec.ofNat 64 (p.1.toNat % 16) ∧ e.mask = p.2.2.1 <<< (p.1.toNat % 16) ∧
          e.data = p.2.2.2 <<< (8 * (p.1.toNat % 16)) ∧ e.atom = none

/-- A return atomic of the acting context has issued (R115, R209): its destination is empty, a producer waits for the old value,
and one request more is on its way to the home. -/
def State.atomicSent (s t : State) (a : AtomOp) (sc : Scope) (va : Word) (dest : Dest) : Prop :=
  s.issued t ∧ (∀ r ∈ dest.regs, r = .x 0 ∨ t.ctx.full r = false) ∧ (∀ r, r ∉ dest.regs → t.ctx.full r = s.ctx.full r) ∧
    (∃ p : Pend, t.ctx.pends = s.ctx.pends ++ [p] ∧ p.dest = dest ∧ p.isAtomic = true ∧ p.strong = some sc ∧
      p.pieces.map (fun q => (q.slot, q.va, q.len)) = [(0, va, a.bytes)]) ∧
    ∃ r : MemReq, (t.net = s.net ++ [r] ∨ t.remote = s.remote ++ [r]) ∧ r.op = .atomic a ∧ r.va = va ∧ r.node = s.cur.1 ∧
      r.strong = some sc

/-- The reads a word makes of memory before it acts have all been answered (R111, R238): `ps` holds their bytes. -/
abbrev State.haveRead (s : State) (ps : List Pend) : Prop :=
  s.ctx.reads = ps ∧ ∀ p ∈ ps, p.poison = none ∧ p.open_ = false

/-- What waits to leave a core, in order: its outbox and behind it the spilled entries of its spill ring (R30). -/
def Core.sending (c : Core) : List OutItem :=
  c.outbox.map (·.item) ++ c.spill.filterMap fun p => match p with
    | .out e => some e.item
    | .atom _ => none

/-- A word has handed a command to the copy engine of its core's cluster (R279, R285): behind what waited to leave the core stand
the charge of its weir, when it names one, and the command; the word's reads are done with, and it retires. -/
def State.commanded (s t : State) (weir : Word) (op : EngOp) (dst src : Tsr) : Prop :=
  t.ctx.pc = s.ctx.pc + 4 ∧ t.ctx.x = s.ctx.x ∧ t.ctx.v = s.ctx.v ∧ t.ctx.w = s.ctx.w ∧ t.ctx.q = s.ctx.q ∧
    (t.ctx.pends = s.ctx.pends.filter fun p => !(p.isRead && p.pc == s.ctx.pc)) ∧ t.ctx.xfull = s.ctx.xfull ∧ t.mem = s.mem ∧ ∃ c : EngCmd, c.op = op ∧ c.dst = dst ∧ c.src = src ∧ c.weir = weir ∧
      c.bytes = engBytes op dst src ∧ c.core = s.cur.1 ∧ c.ctx = s.cur.2 ∧ c.tag = s.tagOf s.cur.1 ∧
      c.rcb = s.ctx.region.rcb ∧ t.me.sending = s.me.sending ++
        (if weir = 0 then [] else [.weir (weirStack weir) (.charge weir c.bytes c.id c.tag c.rcb)]) ++
        [.engine (stackOf s.cur.1) (clusterOf s.cur.1 % 16) c]

/-- A unit has answered a context that waits (R156, R215): the producer of that number has its value, and no other part of the
context has changed. -/
def State.answered (s t : State) (core k seq v : Nat) : Prop :=
  (s.core core).pairOf k = none → (t.core core).ctx k = { (s.core core).ctx k with
    pends := ((s.core core).ctx k).pends.map fun p => if p.seq = seq then
      { p with pieces := p.pieces.map fun q => { q with value := some v } } else p }

/-- A live weir `w` of handle `h` has become `v` (R284, R287): unless `v` is armed with COUNT 0, it stands so; otherwise one notice
with its handle and state is on its way to its channel, and it is disarmed, or free with its generation stepped. No other weir
of the stack has changed. -/
def State.weirBecame (s t : State) (k : Nat) (h : Word) (w v : Weir) : Prop :=
  (∀ j, j ≠ weirIndex h → t.weirAt k j = s.weirAt k j) ∧
  (v.armed = false ∨ v.count ≠ 0 → t.weirAt k (weirIndex h) = v ∧ t.flight = s.flight) ∧
  (v.armed = true → v.count = 0 →
    (t.weirAt k (weirIndex h) = if v.autoFree then { Weir.reset with gen := if w.gen = 1023 then 1 else w.gen + 1 }
      else { v with armed := false, ovf := false, fails := 0 }) ∧
    (s.routeOf w.tag.toNat w.chan = .here → nameGen w.chan ≠ 0 → ∃ x : Flight, t.flight = s.flight ++ [x] ∧
      x.home = nameCore w.chan ∧ x.msg.name = w.chan ∧ x.msg.status = .notice ∧ x.msg.payload = .words [h, v.stateWord]))

/-- A word has placed a channel message in its core's outbox or spill ring (R15, R116, R221): its sender, region and release are the
context's own, and the lowest owed reply to that name is no longer owed (R190). -/
def State.sentMsg (s t : State) (name : Word) (p : Payload) : Prop :=
  (∃ m : Msg, s.sentOut t (.msg m) ∧ m.name = name ∧ m.status = .data ∧ m.payload = p ∧ m.chip = Config.chip ∧ m.sender = s.cur.1 ∧
    m.scope = homeScope s.cur.1 name ∧ m.cover = [⟨s.cur.1, s.cur.2, s.seq⟩] ∧ m.errCh = s.ctx.region.errCh ∧
    m.lostAt = s.ctx.region.rcb ∧ m.isReturn = false) ∧
  t.ctx.x = s.ctx.x ∧ t.ctx.v = s.ctx.v ∧ t.ctx.m = s.ctx.m ∧ t.ctx.q = s.ctx.q ∧ t.mem = s.mem ∧
  ∀ i : Fin 4, t.ctx.owe.get i =
    if name ≠ 0 ∧ s.ctx.owe.get i = name ∧ ∀ j < i, s.ctx.owe.get j ≠ name then 0 else s.ctx.owe.get i

/-- A word has written a status, a name or a count to an x register and retired, having changed its core alone, as `c` says. -/
def State.managed (s t : State) (rd : BitVec 5) (v : Word) (c : Core) : Prop :=
  t.ctx.pc = s.ctx.pc + 4 ∧ (∀ i, t.ctx.readX i = if i = 0 then 0 else if i = rd then v else s.ctx.readX i) ∧ t.mem = s.mem ∧
    (∀ n, n ≠ s.cur.1 → t.core n = s.core n) ∧ t.me.chans = c.chans ∧ t.me.pats = c.pats ∧ t.me.relays = c.relays ∧
    t.me.outbox = c.outbox ∧ t.me.spill = c.spill ∧ t.me.stores = c.stores ∧ t.me.tiles = c.tiles ∧ t.flight = s.flight ∧ t.net = s.net

/-- A context as a body starts on it (R24, R26): LOADING at the entry, x3 the region, x4 and x5 and the m registers and views as
given, every other register, flag and mode zero, null or unconfigured, and every register full. -/
def Ctx.begun (c : Ctx) (entry rcb x4 x5 : Word) (ms : List Word) (vs : List View) (mstat : Word) : Prop :=
  c.state = .loading ∧ c.pc = entry ∧ c.entry = entry ∧ c.rcbptr = rcb ∧ c.mstat = mstat ∧ c.start4 = x4 ∧ c.start5 = x5 ∧
    (∀ i, c.readX i = if i = 3 then rcb else if i = 4 then x4 else if i = 5 then x5 else 0) ∧ (∀ i, c.readV i = 0) ∧
    (∀ i < 16, c.readM i = ms.getD i 0) ∧ (∀ i, c.readW i = vs.getD i.toNat View.null) ∧ (∀ i, c.readQ i = .off) ∧
    (∀ r, c.full r = true) ∧ c.fpctl = 0 ∧ c.fpflags = 0 ∧ (∀ i : Fin 4, c.owe.get i = 0) ∧ c.pends = [] ∧ c.rep = none ∧
    c.group = none ∧ c.deferred = []

/-! ## Frames -/

/-- What the acting context keeps: every x register but those `x` names, every v register but those `v` names, every message
word, view, stream, mode and mark, and, unless `flags`, its sticky flags. -/
structure CtxFrame (x : BitVec 5 → Bool) (v : BitVec 4 → Bool) (flags : Bool) (c d : Ctx) : Prop where
  xs      : ∀ i, x i = false → d.readX i = c.readX i
  vs      : ∀ i, v i = false → d.readV i = c.readV i
  m       : d.m = c.m
  w       : d.w = c.w
  q       : d.q = c.q
  full    : d.xfull = c.xfull ∧ d.vfull = c.vfull ∧ d.wfull = c.wfull
  fpctl   : d.fpctl = c.fpctl
  fpflags : flags = false → d.fpflags = c.fpflags ∧ d.fpDelta = c.fpDelta
  special : d.mstat = c.mstat ∧ d.owe = c.owe ∧ d.rcbptr = c.rcbptr ∧ d.wdleft = c.wdleft ∧ d.entry = c.entry
  region  : d.region = c.region
  acquired : d.acqL1 = c.acqL1 ∧ d.acqCl = c.acqCl

/-- What a word that writes registers only keeps of the whole machine: the acting context as `CtxFrame` says, every other
context and core, the core's channels, patterns, tiles, codebook, buffers and counters, and every byte of memory. -/
structure Frame (x : BitVec 5 → Bool) (v : BitVec 4 → Bool) (flags : Bool) (s t : State) : Prop where
  ctx      : CtxFrame x v flags s.ctx t.ctx
  contexts : ∀ k, k % 11 ≠ s.cur.2 % 11 → t.me.ctx k = s.me.ctx k
  cores    : ∀ n, n ≠ s.cur.1 → t.core n = s.core n
  channels : t.me.chans = s.me.chans ∧ t.me.pats = s.me.pats
  matrix   : t.me.tiles = s.me.tiles ∧ t.me.codebook = s.me.codebook ∧ t.me.acfgDeg = s.me.acfgDeg ∧ t.me.acfgFch = s.me.acfgFch
  buffers  : t.me.stores = s.me.stores ∧ t.me.atomQ = s.me.atomQ ∧ t.me.sideLog = s.me.sideLog ∧ t.me.outbox = s.me.outbox ∧
    t.me.spill = s.me.spill
  counters : t.me.perf = s.me.perf ∧ t.me.cycle = s.me.cycle
  mem      : ∀ a, readByte t.mem a = readByte s.mem a
  weights  : ∀ a, readByte t.weights a = readByte s.weights a
  requests : t.net = s.net ∧ t.remote = s.remote ∧ t.flight = s.flight
  stk      : t.stk = s.stk
  clusters : flags = false → t.clusters = s.clusters
  package  : t.pounds = s.pounds ∧ t.devRegs = s.devRegs

/-- No v register. -/
def noneV (_ : BitVec 4) : Bool := false
/-- No x register. -/
def noneX (_ : BitVec 5) : Bool := false

/-! ## Launches -/

/-- No launch for a core waits in the overflow ring of the device it holds (R334). -/
def State.noLaunch (s : State) (core : Nat) : Prop :=
  ∀ i, s.ovfIndex (clusterOf core) (s.tagOf core).toNat = some i →
    ∀ it, OvfEntry.launch core it ∉ (s.cluster (clusterOf core)).ovf.getD i []

/-! ## Lanes -/

/-- Lane `i` of width `z` of a vector (R243). -/
def laneOf (v : Vec) (z i : Nat) : BitVec z := v.extractLsb' (z * i) z

/-- Lane `i` of what a maskable word writes to vd (R245): an active lane takes the word's result, any other keeps what it held, or
takes zero. -/
def State.maskedLane (s : State) (vd : BitVec 4) (me : Bool) (msk : BitVec 2) (pol : Bool) (z i : Nat) (r : BitVec z) : BitVec z :=
  if me = false ∨ (s.ctx.readV (msk.setWidth 4)).getLsbD i = true then r else if pol then 0 else laneOf (s.ctx.readV vd) z i

/-- A floating lane word has written `v`, and its flags are those of the results `r` of its `n` lanes that are active, beside the ones
raised before (R246). -/
def State.wroteLanes (s t : State) (vd : BitVec 4) (me : Bool) (msk : BitVec 2) (n : Nat) (v : Vec) (r : Nat → FOut) : Prop :=
  t.ctx.readV vd = v ∧ t.ctx.pc = s.ctx.pc + 4 ∧ Frame noneX (· == vd) true s t ∧
    ∀ k < 5, t.ctx.fpflags.getLsbD k = true ↔ s.ctx.fpflags.getLsbD k = true ∨
      ∃ i < n, (me = false ∨ (s.ctx.readV (msk.setWidth 4)).getLsbD i = true) ∧ (r i).flags.getLsbD k = true

/-! ## Streams -/

/-- The indices of an affine stream one step on: the first index that has not reached its extent goes up and those before it go to
zero; at the end of a round all are zero. -/
def nextIndices (e i : Fin 4 → Nat) : Fin 4 → Nat :=
  if i 0 + 1 < e 0 then ![i 0 + 1, i 1, i 2, i 3]
  else if i 1 + 1 < e 1 then ![0, i 1 + 1, i 2, i 3]
  else if i 2 + 1 < e 2 then ![0, 0, i 2 + 1, i 3]
  else if i 3 + 1 < e 3 then ![0, 0, 0, i 3 + 1]
  else ![0, 0, 0, 0]

/-! ## Invariants of a run -/

/-- No context that STOP has named stands where it may freeze without having done so (R363). -/
def State.noStopDue (s : State) : Prop := ∀ n k, k < 11 → ((s.core n).ctx k).stopReq = true → (s.core n).mayStop k = false

/-- Every energy delta of a core is below 2^20 pJ, and every exception count of a context below 256 (R92, R399). -/
def State.deltasBelow (s : State) : Prop :=
  ∀ n, (∀ d ∈ (s.core n).energy, d.2 < postAt) ∧ ∀ k < 11, ∀ d ∈ ((s.core n).ctx k).fpDelta.toList, d < 256

end Sys2Proof.Machine
end

