-- ==== Sys2Proof/Certificates/Slice0/Obligations.lean ====
section
/-!
DEFINITION. What is to be proved of the model, rule by rule.
-/

open Sys2Proof Sys2Proof.Machine

/-! ## Encodings -/

/-- R142 to R175: the decoder reads the word of every well-formed instruction as that instruction, with every operand at every value its
encoding admits: no bit of an encoding is dropped. -/
def Obligations.EncodedWordsDecode : Prop :=
  ∀ i : Instr, i.wf = true → ∀ w : Word32, encode i = some w → decode w = .ok i

/-- R142, R163 and R176: a word that decodes has one reading: its instruction is well-formed and its encoding is that very word, so no
bit of a word that runs is ignored; and the table numbers a word's bits as the decoder does. -/
def Obligations.DecodedWordsEncode : Prop :=
  (∀ (w : Word32) (i : Instr), decode w = .ok i → i.wf = true ∧ encode i = some w) ∧
  (∀ (v w : Word32) (i : Instr), decode v = .ok i → decode w = .ok i → v = w) ∧
  (∀ w : Word32, decodeTableWord 32 w.toNat = (decode w).toOption)

/-- R173: every word of the SYS major is END, TRAP, BKPT or SVC with its code, or raises ILLEGAL. -/
def Obligations.SysWords : Prop :=
  ∀ w : Word32, fld w 26 6 = 0x23 →
    let illegal : Prop := (∃ e, decode w = .error e) ∧
      ∀ s : State, s.ctx.deferred = [] → ∃ t : State, exec (.illegalWord w) s = .next t ∧ s.faulted t ⟨.illegal, 0, 0⟩
    (fld w 21 5 ≠ 0 → illegal) ∧ (fld w 16 2 ≠ 0 → illegal) ∧
    (fld w 21 5 = 0 → fld w 16 2 = 0 →
      (fld w 18 3 = 0 → fld w 0 16 = 0 → decode w = .ok .endBody) ∧ (fld w 18 3 = 0 → fld w 0 16 ≠ 0 → illegal) ∧
      (fld w 18 3 = 1 → decode w = .ok (.trap (fld w 0 16))) ∧ (fld w 18 3 = 2 → decode w = .ok (.bkpt (fld w 0 16))) ∧
      (fld w 18 3 = 3 → decode w = .ok (.svc (fld w 0 16))) ∧ (4 ≤ (fld w 18 3).toNat → illegal))

/-- R153 and R158: a word whose top six bits are ones is a HINT; its kind says which, and kind 11 raises ILLEGAL. The fields of
HINT.MOD: a reserved mode, scope or policy, an override field whose enable is clear, and a bit that must be zero raise ILLEGAL too. -/
def Obligations.HintWords : Prop :=
  ∀ w : Word32, fld w 26 6 = 0x3F →
    let illegal : Prop := (∃ e, decode w = .error e) ∧
      ∀ s : State, s.ctx.deferred = [] → ∃ t : State, exec (.illegalWord w) s = .next t ∧ s.faulted t ⟨.illegal, 0, 0⟩
    (fld w 24 2 = 0 → decode w = .ok (.hintImm (fld w 0 24))) ∧
    (fld w 24 2 = 1 →
      let ok := fld w 0 13 = 0 ∧ (if flag w 23 = true then (fld w 20 3).toNat ≤ 4 else fld w 20 3 = 0) ∧
        (if flag w 19 = true then (fld w 16 3).toNat ≤ 4 else fld w 16 3 = 0) ∧ fld w 14 2 ≠ 3
      (ok → decode w = .ok (.hintMod ⟨flag w 23, fld w 20 3, flag w 19, fld w 16 3, fld w 14 2, flag w 13⟩)) ∧
      (¬ok → illegal)) ∧
    (fld w 24 2 = 2 → fld w 0 16 = 0 → decode w = .ok (.hintSched ⟨fld w 22 2, fld w 16 6⟩)) ∧
    (fld w 24 2 = 2 → fld w 0 16 ≠ 0 → illegal) ∧ (fld w 24 2 = 3 → illegal)

/-- R167 and R182: in major 0x0D, fn selects MADD, SEL, or FMA of one of four formats, and codes 010 and 011 raise ILLEGAL. MADD is
modulo 2^64; SEL takes ra when rc is not zero, else rb; each source waits or faults by its e bit, SEL's three alike. -/
def Obligations.FourRegisterWords : Prop :=
  (∀ w : Word32, fld w 26 6 = 0x0D →
    let o : Quad := ⟨fld w 21 5, fld w 16 5, fld w 11 5, fld w 6 5, flag w 2, flag w 1, flag w 0⟩
    (fld w 3 3 = 0 → decode w = .ok (.madd o)) ∧ (fld w 3 3 = 1 → decode w = .ok (.sel o)) ∧
    (fld w 3 3 = 2 ∨ fld w 3 3 = 3 → (∃ e, decode w = .error e) ∧
      ∀ s : State, s.ctx.deferred = [] → ∃ t : State, exec (.illegalWord w) s = .next t ∧ s.faulted t ⟨.illegal, 0, 0⟩) ∧
    (4 ≤ (fld w 3 3).toNat → decode w = .ok (.fma ⟨o.rd, o.ra, o.rb, o.rc, fld w 3 2, o.ea, o.eb, o.ec⟩)) ∧
    [fmtOfSz 0, fmtOfSz 1, fmtOfSz 2, fmtOfSz 3] = [.f64, .f32, .f16, .bf16]) ∧
  (∀ (o : Quad) (s : State), let r : WordRule := { srcs := [(.x o.ra, o.ea), (.x o.rb, o.eb), (.x o.rc, o.ec)], dests := [.x o.rd] }
    (s.Clear r →
      exec (.madd o) s = .next (s.wroteX o.rd (s.ctx.readX o.ra * s.ctx.readX o.rb + s.ctx.readX o.rc)) ∧
      exec (.sel o) s = .next (s.wroteX o.rd (if s.ctx.readX o.rc ≠ 0 then s.ctx.readX o.ra else s.ctx.readX o.rb))) ∧
    (s.ctx.deferred = [] → s.ctx.group.all (groupSuits r) = true → repHolds r s = false → ∀ i ∈ [Instr.madd o, .sel o],
      (∀ p, r.srcs.find? (fun p => p.2 && !s.ctx.full p.1) = some p →
        ∃ t : State, exec i s = .next t ∧ s.faulted t ⟨.emptyRead, p.1.detail, 0⟩) ∧
      ((∀ p ∈ r.srcs, p.2 = true → s.ctx.full p.1 = true) → (∃ p ∈ r.srcs, s.ctx.full p.1 = false) →
        exec i s = .next (s.modCtx fun c => { c with state := .waiting }))))

/-- R180: the shift-immediate major: imm15 selects the shift and its amount; SLLI, SRLI and SRAI act on all 64 bits of ra; SRAI x5, x6,
63 is 0x18A6_017E; and HINT.IMM before one raises ILLEGAL. -/
def Obligations.ShiftImmediateWords : Prop :=
  (∀ w : Word32, fld w 26 6 = 6 → fld w 9 7 = 0 → let o : ShiftI := ⟨fld w 21 5, fld w 16 5, fld w 1 6, flag w 0⟩
    (fld w 7 2 = 0 → decode w = .ok (.slli o)) ∧ (fld w 7 2 = 1 → decode w = .ok (.srli o)) ∧ (fld w 7 2 = 2 → decode w = .ok (.srai o))) ∧
  (∀ p ∈ ([(.slli, fun a k => a <<< k), (.srli, fun a k => a >>> k), (.srai, fun a k => a.sshiftRight k)] :
      List ((ShiftI → Instr) × (Word → Nat → Word))),
    ∀ (o : ShiftI) (s : State),
      (s.Clear { srcs := [(.x o.ra, o.ea)], dests := [.x o.rd] } →
        exec (p.1 o) s = .next (s.wroteX o.rd (p.2 (s.ctx.readX o.ra) o.amt.toNat))) ∧
      (s.ctx.deferred = [] → (∃ g, s.ctx.group = some g ∧ g.imm ≠ none) →
        ∃ t : State, exec (p.1 o) s = .next t ∧ s.faulted t ⟨.illegal, 0, 0⟩)) ∧
  decode 0x18A6017E = .ok (.srai ⟨5, 6, 63, false⟩) ∧
  (∀ s : State, s.Clear { srcs := [(.x 6, false)], dests := [.x 5] } →
    exec (.srai ⟨5, 6, 63, false⟩) s = .next (s.wroteX 5 (if (s.ctx.readX 6).toInt < 0 then BitVec.allOnes 64 else 0)))

/-- R130, R177, R189, R191 to R193, R203, R220 and R243: words the spec spells out bit by bit, one or more of a family, decode to what
it says they are. -/
def Obligations.WordsOfTheSpecDecode : Prop :=
  decode 0x08A5FFFE = .ok (.addi ⟨5, 5, 0x7FFF, false⟩) ∧ decode 0x054B6011 = .ok (.sub ⟨10, 11, 12, 0, false, false, 1⟩) ∧
  decode 0x3109_5090 = .ok (.fcmpLt ⟨8, 9, 10, false, false, 0⟩) ∧ decode 0x38A0_0022 = .ok (.crr ⟨5, 0x011⟩) ∧
  decode 0x8400_0002 = .ok (.jal 2) ∧ decode 0x80A6_A002 = .ok (.bgeu ⟨5, 6, 2⟩) ∧ decode 0x8C00_0000 = .ok .endBody ∧
  decode 0x881F_0000 = .ok (.jalr ⟨0, 31, 0, false⟩) ∧ decode 0x4105_C002 = .ok (.ld ⟨8, 5, 6, false, 2⟩) ∧
  decode 0x4526_2FFF = .ok (.st ⟨9, 6, 1, false, 0xFFF⟩) ∧ (∃ e, decode 0 = .error e)

/-! ## The machine as a whole -/

/-- R142 and R198: one step of an agenda that asks a core to issue: the core's clock ticks; with no context that may issue nothing else
happens; otherwise the context chosen takes the word at its PC, or of its step slot, and the step is exec of the instruction the
word decodes to, or of an illegal word, with what settles after it; an event is a step of its own. The word fetched is the four
bytes at its place in a line of code, of the core's instruction cache or of a line of the cluster cache that may be used; a line
that neither holds is asked for from its home, and the context waits at its word. -/
def Obligations.StepRunsTheDecodedWord : Prop :=
  (∀ (s : State) (core : Nat) (rest : List Move), s.agenda = .issue core :: rest → let u := State.tick { s with agenda := rest } core
    (u.issuer core = none → step s = .next u) ∧
    ∀ v, u.issuer core = some v → v.cur.1 = core ∧ (v.ctx.deferred = [] →
      (∀ w t i, (v.withWord 0).nextWord = .inr (w, t) → decode w = .ok i → step s = settled v (exec i (t.withWord w))) ∧
      (∀ w t e, (v.withWord 0).nextWord = .inr (w, t) → decode w = .error e →
        step s = settled v (exec (.illegalWord w) (t.withWord w))) ∧
      (∀ f t, (v.withWord 0).nextWord = .inl (.fault t f) → step s = .next (State.settle v (t.raise f))))) ∧
  (∀ (s : State) (i : Instr) (rest : List Move), s.agenda = .event i :: rest →
    step s = settled { s with agenda := rest } (exec i { s with agenda := rest })) ∧
  (∀ (s : State), s.ctx.slot = [] → s.nextWord = s.fetch s.ctx.pc) ∧
  (∀ (s u : State) (va : Word) (pa : Nat) (l : Word), inWindows va = false → s.translate s.cur.1 true va = (some (pa, l), u) →
    leafX l = true → u.leafOk (u.tagOf u.cur.1).toNat l pa = true → leafTgt l = 0 →
    let here (d : BitVec 1024) : Word32 := BitVec.ofNat 32 (d.toNat / 256 ^ (pa - lineOf pa))
    let cl := u.cluster (clusterOf u.cur.1)
    (∀ c, findLine u.me.icache pa (leafKey l) none = some c → s.fetch va = .inr (here c.data, u)) ∧
    (findLine u.me.icache pa (leafKey l) none = none →
      (∀ c, cl.find pa (leafKey l) none = some c → u.ctx.acqCl.toNat ≤ c.fill.toNat → cl.codeAcq.toNat ≤ c.fill.toNat →
        ∃ t : State, s.fetch va = .inr (here c.data, t)) ∧
      ((∀ c, cl.find pa (leafKey l) none = some c → c.fill.toNat < u.ctx.acqCl.toNat ∨ c.fill.toNat < cl.codeAcq.toNat) →
        u.reqPoisoned (codeReq u va pa l) = false →
        (u.codeAsked pa = false → s.fetch va = .inl (.stay { u with net := u.net ++ [codeReq u va pa l] })) ∧
        (u.codeAsked pa = true → s.fetch va = .inl (.stay u)))))

/-- R363: STOP takes effect at the next boundary of a group: from a state in which no context that STOP has named stands at such a
boundary still running, no step leads to one that does. -/
def Obligations.StopsAreNeverOverdue : Prop :=
  ∀ s t : State, s.noStopDue → step s = .next t → t.noStopDue

/-- R92 and R399: a core posts its deltas when they reach 2^20 pJ, and a context its exception counts when one reaches 256: from a state
in which every delta is below its limit, every step leads to another. -/
def Obligations.DeltasStayBelowTheirLimits : Prop :=
  ∀ s t : State, s.deltasBelow → step s = .next t → t.deltasBelow

/-- What reset leaves, where the spec gives it (R9, R20, R25, R53, R62, R71, R87 to R89, R190, R263, R276, R284, R385, R390, R402), and
that the invariants of the two statements before hold there; memory in its canonical form lists nothing (what an unlisted byte reads
as is the model's choice, entry 3). -/
def Obligations.WhatResetLeaves : Prop :=
  let s := State.reset
  s.noStopDue ∧ s.deltasBelow ∧ Memory.wf s.mem = true ∧ s.mem = [] ∧ s.pounds = [] ∧
  (∀ n, let c := s.core n
    (∀ i, (c.chan i).alloc = false ∧ (c.chan i).gen = 1 ∧ c.pat i = none) ∧ (∀ i, c.ptr.getD i 0 = 0) ∧ c.cycle = 0 ∧
    (∀ i, (c.tile i).valid = false) ∧ c.acfgDeg = false ∧ c.acfgFch = 0 ∧ c.codebook.toList = Config.standardBook ∧ (∀ p ∈ c.perf.toList, p = 0) ∧
    (∀ k, (c.ctx k).state = .free ∧ (c.ctx k).mstat = 0 ∧ (c.ctx k).fpctl = 0 ∧ (c.ctx k).fpflags = 0 ∧ (c.ctx k).wdleft = 0 ∧
      ∀ i, (c.ctx k).readW i = View.null)) ∧
  (∀ n, (s.cluster n).fpunion = 0) ∧
  (∀ t i, ((s.stack t).slice i).queue = [] ∧ ((s.stack t).slice i).peak = 0 ∧ (s.weirAt t i).gen = 1 ∧ (s.weirAt t i).armed = false) ∧
  (∀ i < 8, s.mr.getD i 0 = 0) ∧ s.envelope = 3200 ∧ ∀ id, lookupKey Bucket.reset id s.buckets = ⟨20, 0xFFFF, false, 0⟩

/-! ## Scalar words -/

/-- R177, R178 and R181: a two-source integer word computes on the low bits its size names, for the functions whose result is extended
by its sign. R177, R178 and R181: the two-source integer words whose result is extended with zeros. -/
def Obligations.IntegerTwoSource : Prop :=
  (∀ p ∈ ([(.add, fun _ a b => a + b), (.sub, fun _ a b => a - b), (.and, fun _ a b => a &&& b), (.or, fun _ a b => a ||| b),
       (.xor, fun _ a b => a ^^^ b), (.andn, fun _ a b => a &&& ~~~b), (.orn, fun _ a b => a ||| ~~~b),
       (.sll, fun n a b => a <<< (b.toNat % n)), (.sra, fun n a b => a.sshiftRight (b.toNat % n)),
       (.slt, fun n a b => if a.toInt < b.toInt then 1#n else 0#n), (.sltu, fun n a b => if a.toNat < b.toNat then 1#n else 0#n),
       (.seq, fun n a b => if a = b then 1#n else 0#n), (.sne, fun n a b => if a = b then 0#n else 1#n),
       (.min, fun _ a b => if a.toInt < b.toInt then a else b), (.max, fun _ a b => if a.toInt < b.toInt then b else a),
       (.mul, fun _ a b => a * b), (.mulh, fun n a b => BitVec.ofInt n (a.toInt * b.toInt / 2 ^ n)),
       (.div, fun n a b => if b = 0#n then BitVec.allOnes n else BitVec.ofInt n (a.toInt.tdiv b.toInt)),
       (.rem, fun n a b => if b = 0#n then a else BitVec.ofInt n (a.toInt.tmod b.toInt))] :
       List ((Alu2 → Instr) × ((n : Nat) → BitVec n → BitVec n → BitVec n))),
     ∀ (o : Alu2) (s : State), s.Clear (alu2Rule o) →
       exec (p.1 o) s = .next (s.wroteX o.rd ((p.2 (szBits o.sz) ((s.ctx.src (srcA o.cls o.ra)).setWidth _)
         ((s.ctx.src (srcB o.cls o.rb)).setWidth _)).signExtend 64))) ∧
  (∀ p ∈ ([(.srl, fun n a b => a >>> (b.toNat % n)), (.rol, fun n a b => a <<< (b.toNat % n) ||| a >>> (n - b.toNat % n)),
       (.minu, fun _ a b => if a.toNat < b.toNat then a else b), (.maxu, fun _ a b => if a.toNat < b.toNat then b else a),
       (.mulhu, fun n a b => BitVec.ofNat n (a.toNat * b.toNat / 2 ^ n)),
       (.divu, fun n a b => if b = 0#n then BitVec.allOnes n else BitVec.ofNat n (a.toNat / b.toNat)),
       (.remu, fun n a b => if b = 0#n then a else BitVec.ofNat n (a.toNat % b.toNat))] :
       List ((Alu2 → Instr) × ((n : Nat) → BitVec n → BitVec n → BitVec n))),
     ∀ (o : Alu2) (s : State), s.Clear (alu2Rule o) →
       exec (p.1 o) s = .next (s.wroteX o.rd ((p.2 (szBits o.sz) ((s.ctx.src (srcA o.cls o.ra)).setWidth _)
         ((s.ctx.src (srcB o.cls o.rb)).setWidth _)).setWidth 64)))

/-- R177 and R178: the unary integer words. A count is a number, a permuted source is given by its bits. R179: the immediate words work
on 64 bits. R179 and R197: LIH puts its field, 21 bits or 45 with a HINT.IMM, at the top of rd; ADDPC adds its immediate to the
word's own address. -/
def Obligations.OneSourceAndImmediateWords : Prop :=
  ((∀ p ∈ ([(.clz, fun n a => if a = 0#n then n else n - 1 - Nat.log2 a.toNat),
       (.ctz, fun n a => ((List.range n).find? a.getLsbD).getD n),
       (.popc, fun n a => ((List.range n).filter a.getLsbD).length)] : List ((Alu1 → Instr) × ((n : Nat) → BitVec n → Nat))),
     ∀ (o : Alu1) (s : State), s.Clear (alu1Rule o) →
       exec (p.1 o) s = .next (s.wroteX o.rd (BitVec.ofNat 64 (p.2 (szBits o.sz) ((s.ctx.src (srcA o.cls o.ra)).setWidth _))))) ∧
   (∀ p ∈ ([(.brev, fun n i => n - 1 - i), (.bswap, fun n i => 8 * (n / 8 - 1 - i / 8) + i % 8), (.zext, fun _ i => i)] :
       List ((Alu1 → Instr) × (Nat → Nat → Nat))),
     ∀ (o : Alu1) (s : State), s.Clear (alu1Rule o) →
       ∃ r : BitVec (szBits o.sz), (∀ i < szBits o.sz, r.getLsbD i = (s.ctx.src (srcA o.cls o.ra)).getLsbD (p.2 (szBits o.sz) i)) ∧
         exec (p.1 o) s = .next (s.wroteX o.rd (r.setWidth 64))) ∧
   (∀ (o : Alu1) (s : State), s.Clear (alu1Rule o) →
     exec (.sext o) s = .next (s.wroteX o.rd (((s.ctx.src (srcA o.cls o.ra)).setWidth (szBits o.sz)).signExtend 64)))) ∧
  (∀ p ∈ ([(.addi, true, fun a i => a + i), (.andi, true, fun a i => a &&& i), (.ori, false, fun a i => a ||| i),
       (.xori, false, fun a i => a ^^^ i), (.slti, true, fun a i => if a.toInt < i.toInt then 1 else 0),
       (.sltui, true, fun a i => if a.toNat < i.toNat then 1 else 0)] : List ((ImmI → Instr) × Bool × (Word → Word → Word))),
     ∀ (o : ImmI) (s : State), s.Clear { imm := true, srcs := [(.x o.ra, o.ea)], dests := [.x o.rd] } →
       exec (p.1 o) s = .next (s.wroteX o.rd (p.2.2 (s.ctx.readX o.ra) (s.immediate p.2.1 o.imm)))) ∧
  (∀ (o : ImmU) (s : State), s.Clear { imm := true, dests := [.x o.rd] } →
     exec (.lih o) s = .next (s.wroteX o.rd (match s.ctx.group.bind (·.imm) with
       | none => o.imm ++ 0#43
       | some p => p ++ o.imm ++ 0#19)) ∧
     exec (.addpc o) s = .next (s.wroteX o.rd (s.ctx.pc + s.immediate true o.imm)))

/-- R183, R184, R186 and R188: the arithmetic and conversion words compute in the mode the context has for them, on the low bits of
their sources, and write one result with its flags. The functions are the model's reading of RoundTo, stated for themselves in the
obligations that follow. R185 and R187: a comparison writes 0 or 1 as a 64-bit integer, false for a NaN but under UN, and raises NV
for any NaN (LT and LE) or for a signalling one (EQ and UN) and nothing else; FCLASS writes the sign above one kind bit; the FSIGN
forms put a chosen sign on ra's magnitude and raise nothing. -/
def Obligations.ScalarFloatingWords : Prop :=
  ((∀ p ∈ ([(.fadd, fun f m a b => fadd f m (fval f a) (fval f b)), (.fsub, fun f m a b => fadd f m (fval f a) (negVal (fval f b))),
       (.fmul, fun f m a b => fmul f m (fval f a) (fval f b)), (.fdiv, fun f m a b => fdiv f m (fval f a) (fval f b)),
       (.fmin, fun f _ a b => fminmax f false a b), (.fmax, fun f _ a b => fminmax f true a b)] :
       List ((Fp2 → Instr) × (Fmt → BitVec 3 → Nat → Nat → FOut))),
     ∀ (o : Fp2) (s : State), s.Clear (fp2Rule o) →
       exec (p.1 o) s = .next (s.wroteF (fmtOfSz o.sz) o.rd
         (p.2 (fmtOfSz o.sz) s.ctx.mode (s.ctx.fbits (fmtOfSz o.sz) o.ra) (s.ctx.fbits (fmtOfSz o.sz) o.rb)))) ∧
   (∀ (o : Fp1) (s : State), s.Clear (fp1Rule o.rd o.ra o.ea) →
     exec (.fsqrt o) s = .next (s.wroteF (fmtOfSz o.sz) o.rd
       (fsqrt (fmtOfSz o.sz) s.ctx.mode (fval (fmtOfSz o.sz) (s.ctx.fbits (fmtOfSz o.sz) o.ra))))) ∧
   (∀ (o : FpCvt) (s : State), s.Clear (fp1Rule o.rd o.ra o.ea) →
     exec (.fcvtToFloat o) s = .next (s.wroteF (fmtOfSz o.sz) o.rd
       (roundVal (fmtOfSz o.sz) s.ctx.mode (cvtSource o.src (s.ctx.readX o.ra))))) ∧
   (∀ p ∈ ([(.fcvtToSigned, true), (.fcvtToUnsigned, false)] : List ((FpCvt → Instr) × Bool)),
     ∀ (o : FpCvt) (s : State), s.Clear (fp1Rule o.rd o.ra o.ea) →
       exec (p.1 o) s =
         let r := toInt p.2 (szBits o.sz) s.ctx.mode (cvtSource o.src (s.ctx.readX o.ra))
         .next (s.past 0 ((s.raiseFlags r.2).modCtx (·.writeX o.rd
           (if p.2 then (BitVec.ofNat (szBits o.sz) r.1).signExtend 64 else (BitVec.ofNat (szBits o.sz) r.1).setWidth 64))))) ∧
   (∀ (o : QuadFp) (s : State),
     s.Clear { rm := true, srcs := [(.x o.ra, o.ea), (.x o.rb, o.eb), (.x o.rc, o.ec)], dests := [.x o.rd] } →
     exec (.fma o) s = .next (s.wroteF (fmtOfSz o.ty) o.rd (ffma (fmtOfSz o.ty) s.ctx.mode
       (fval (fmtOfSz o.ty) (s.ctx.fbits (fmtOfSz o.ty) o.ra)) (fval (fmtOfSz o.ty) (s.ctx.fbits (fmtOfSz o.ty) o.rb))
       (fval (fmtOfSz o.ty) (s.ctx.fbits (fmtOfSz o.ty) o.rc)))))) ∧
  ((∀ p ∈ ([(.fcmpEq, false, fun x y => !isNaN x && !isNaN y && !ltVal x y && !ltVal y x),
       (.fcmpLt, true, fun x y => !isNaN x && !isNaN y && ltVal x y), (.fcmpLe, true, fun x y => !isNaN x && !isNaN y && !ltVal y x),
       (.fcmpUn, false, fun x y => isNaN x || isNaN y)] : List ((Fp2 → Instr) × Bool × (FVal → FVal → Bool))),
     ∀ (o : Fp2) (s : State), s.Clear (fp2Rule o) →
       let x := fval (fmtOfSz o.sz) (s.ctx.fbits (fmtOfSz o.sz) o.ra)
       let y := fval (fmtOfSz o.sz) (s.ctx.fbits (fmtOfSz o.sz) o.rb)
       exec (p.1 o) s = .next (s.past 0 ((s.raiseFlags
         (if isSNaN x || isSNaN y || (p.2.1 && (isNaN x || isNaN y)) then 16 else 0)).modCtx
           (·.writeX o.rd (if p.2.2 x y then 1 else 0))))) ∧
   (∀ (o : Fp1) (s : State), s.Clear (fp1Rule o.rd o.ra o.ea) →
     exec (.fclass o) s = .next (s.wroteX o.rd
       (BitVec.ofNat 64 (2 ^ classBit (fmtOfSz o.sz) (s.ctx.fbits (fmtOfSz o.sz) o.ra) +
         256 * num ((s.ctx.readX o.ra).getLsbD (fmtWidth (fmtOfSz o.sz) - 1)))))) ∧
   (∀ p ∈ ([(.fsignB, fun _ b => b), (.fsignNb, fun _ b => !b), (.fsignX, fun a b => a ^^ b)] :
       List ((Fp2 → Instr) × (Bool → Bool → Bool))),
     ∀ (o : Fp2) (s : State), s.Clear (fp2Rule o) →
       ∃ v : Word, exec (p.1 o) s = .next (s.wroteX o.rd v) ∧
         ∀ i, i < 64 → v.getLsbD i =
           (if i < fmtWidth (fmtOfSz o.sz) - 1 then (s.ctx.readX o.ra).getLsbD i
            else if i = fmtWidth (fmtOfSz o.sz) - 1 then p.2 ((s.ctx.readX o.ra).getLsbD i) ((s.ctx.readX o.rb).getLsbD i)
            else false)))

/-- R85: every computed NaN is the canonical one of the destination format; a signalling operand raises NV, a quiet one nothing. R87: a
magnitude cut to a whole number of last places goes to the nearest one, ties to the even one, under RNE and away from zero under
RNA; toward zero under RTZ; and toward plus and minus infinity under RUP and RDN. -/
def Obligations.NaNsAndRounding : Prop :=
  (∀ (f : Fmt) (m : BitVec 3) (a b : FVal),
     (isNaN a = true ∨ isNaN b = true →
       ∀ r ∈ [fadd f m a b, fmul f m a b, fdiv f m a b],
         r.bits = fmtNaN f ∧ r.flags = if isSNaN a || isSNaN b then 16 else 0) ∧
     (isNaN a = true → (fsqrt f m a).bits = fmtNaN f ∧ (fsqrt f m a).flags = (if isSNaN a then 16 else 0) ∧
       (roundVal f m a).bits = fmtNaN f ∧ (roundVal f m a).flags = (if isSNaN a then 16 else 0))) ∧
  (∀ (neg : Bool) (man k : Nat), 0 < k →
     let r (mode : BitVec 3) : Nat := (roundShift mode neg man false k).1
     (2 * (r 0 * 2 ^ k) ≤ 2 * man + 2 ^ k ∧ 2 * man ≤ 2 * (r 0 * 2 ^ k) + 2 ^ k ∧
       (2 * (r 0 * 2 ^ k) = 2 * man + 2 ^ k ∨ 2 * man = 2 * (r 0 * 2 ^ k) + 2 ^ k → r 0 % 2 = 0)) ∧
     (2 * (r 4 * 2 ^ k) ≤ 2 * man + 2 ^ k ∧ 2 * man < 2 * (r 4 * 2 ^ k) + 2 ^ k) ∧
     (r 1 * 2 ^ k ≤ man ∧ man < (r 1 + 1) * 2 ^ k) ∧
     (if neg then r 2 * 2 ^ k ≤ man ∧ man < (r 2 + 1) * 2 ^ k else man ≤ r 2 * 2 ^ k ∧ r 2 * 2 ^ k < man + 2 ^ k) ∧
     (if neg then man ≤ r 3 * 2 ^ k ∧ r 3 * 2 ^ k < man + 2 ^ k else r 3 * 2 ^ k ≤ man ∧ man < (r 3 + 1) * 2 ^ k) ∧
     (roundShift 0 neg man false k).2 = decide (man % 2 ^ k ≠ 0))

/-- R189 and R190: CRR reads a register, CRW writes it field by field, and CRS and CRC do both at once and give the value read; a
register of a slice is not among these. R62 and R156: a read of a slice's register leaves its destination empty and sends a request
to the slice of the core's own stack; a write sends one too. R87, R88, R89 and R190: what a read gives after a write. RM keeps its
value on a reserved code and QLIM holds at most 64; FPFLAGS keeps its five flags; FPUNION is cleared where ones are written; OWE0 to
OWE3 take the word; COREID, CTXID, RCBPTR, MSTAT, WDLEFT, CYCLE and ENERGY do not change; PERF keeps its event, enable and count. -/
def Obligations.ControlRegisters : Prop :=
  ((∀ (o : CrRead) (s : State), s.Clear { priv := crPriv o.reg, dests := [.x o.rd] } → crSlice o.reg = false → flagsWait s o.reg = false →
     exec (.crr o) s = .next (s.wroteX o.rd (crRead s o.reg.toNat))) ∧
   (∀ (o : CrWrite) (s : State), s.Clear { priv := crPriv o.reg, srcs := [(.x o.ra, o.ea)] } → crSlice o.reg = false →
     exec (.crw o) s = .next (s.past 0 (crWrite s o.reg.toNat (s.ctx.readX o.ra)))) ∧
   (∀ p ∈ ([(.crs, fun old a => old ||| a), (.crc, fun old a => old &&& ~~~a)] : List ((CrMod → Instr) × (Word → Word → Word))),
     ∀ (o : CrMod) (s : State), s.Clear { priv := crPriv o.reg, srcs := [(.x o.ra, o.ea)], dests := [.x o.rd] } →
       crSlice o.reg = false → flagsWait s o.reg = false →
       exec (p.1 o) s = .next (s.past 0 ((crWrite s o.reg.toNat (p.2 (crRead s o.reg.toNat) (s.ctx.readX o.ra))).modCtx
         (·.writeX o.rd (crRead s o.reg.toNat)))))) ∧
  ((∀ (o : CrRead) (s : State), s.Clear { priv := crPriv o.reg, dests := [.x o.rd] } → crSlice o.reg = true →
     ∃ t : State, exec (.crr o) s = .next t ∧ t.ctx.pc = s.ctx.pc + 4 ∧ (o.rd ≠ 0 → t.ctx.full (.x o.rd) = false) ∧
       ∃ r : MemReq, t.net = s.net ++ [r] ∧ r.op = .sample ∧ r.key = stackOf s.cur.1 ∧ r.pa = o.reg.toNat - 0x40) ∧
   (∀ (o : CrWrite) (s : State), s.Clear { priv := crPriv o.reg, srcs := [(.x o.ra, o.ea)] } → crSlice o.reg = true →
     ∃ t : State, exec (.crw o) s = .next t ∧ t.ctx.pc = s.ctx.pc + 4 ∧
       ∃ r : MemReq, t.net = s.net ++ [r] ∧ r.op = .write 0 0 ∧ r.key = stackOf s.cur.1 ∧ r.pa = o.reg.toNat - 0x40)) ∧
  (∀ (s : State) (v : Word),
     (crRead (crWrite s 0x010 v) 0x010 = BitVec.ofNat 64 (min 64 (bits v 14 8) * 256 +
       (if bits v 2 0 ≤ 4 then bits v 2 0 else bits s.ctx.fpctl 2 0))) ∧
     (crRead (crWrite s 0x011 v) 0x011 = v &&& 0x1F) ∧
     ((crWrite s 0x012 v).cluster (clusterOf s.cur.1)).fpunion =
       (s.cluster (clusterOf s.cur.1)).fpunion &&& ~~~(v.setWidth 5) ∧
     (∀ i < 4, crRead (crWrite s (0x022 + i) v) (0x022 + i) = v) ∧
     (∀ n ∈ [0x000, 0x001, 0x002, 0x020, 0x021, 0x030, 0x031], crWrite s n v = s) ∧
     (∀ i < 32, crRead (crWrite s (0x100 + i) v) (0x100 + i) = v &&& 0xFF80FFFFFFFFFFFF))

/-- R191: a branch compares all 64 bits of its sources and goes to its own address plus four times its offset, or to the next word;
nothing but the PC changes. R192: JAL links x31 and goes to its own address plus four times its offset; JALR reads its source before
it writes rd, and raises ALIGN without a write when the target is not a word address. -/
def Obligations.BranchesAndJumps : Prop :=
  (∀ p ∈ ([(.beq, fun a b => decide (a = b)), (.bne, fun a b => decide (a ≠ b)), (.blt, fun a b => decide (a.toInt < b.toInt)),
       (.bge, fun a b => decide (b.toInt ≤ a.toInt)), (.bltu, fun a b => decide (a.toNat < b.toNat)),
       (.bgeu, fun a b => decide (b.toNat ≤ a.toNat))] : List ((Branch → Instr) × (Word → Word → Bool))),
     ∀ (o : Branch) (s : State), s.Clear { imm := true, srcs := [(.x o.ra, false), (.x o.rb, false)] } →
       exec (p.1 o) s = .next (s.retire 0 (if p.2 (s.ctx.readX o.ra) (s.ctx.readX o.rb) then s.ctx.pc + 4 * s.immediate true o.off
         else s.ctx.pc + 4))) ∧
  ((∀ (off : BitVec 26) (s : State), s.Clear { imm := true, dests := [.x 31] } →
     exec (.jal off) s = .next ((s.modCtx (·.writeX 31 (s.ctx.pc + 4))).retire 0 (s.ctx.pc + 4 * s.immediate true off))) ∧
   (∀ (o : ImmI) (s : State), s.Clear { imm := true, srcs := [(.x o.ra, o.ea)], dests := [.x o.rd] } →
     let target := s.ctx.readX o.ra + s.immediate true o.imm
     (target.toNat % 4 = 0 → exec (.jalr o) s = .next ((s.modCtx (·.writeX o.rd (s.ctx.pc + 4))).retire 0 target)) ∧
     (target.toNat % 4 ≠ 0 → ∃ t : State, exec (.jalr o) s = .next t ∧ s.faulted t ⟨.align, 0, target⟩)))

/-- R193 and R26: END of a body whose registers are all full and whose views can all be given up frees its context, leaves its views
null and asks the sluice to evaluate; it waits while a register is empty. R194 and R195: TRAP and BKPT stop their context with their
code in the packet; SVC sends the code and x10 to x12 to the keeper's service channel and leaves x10 empty. -/
def Obligations.EndsTrapsAndServices : Prop :=
  (∀ s : State, s.Clear { noHint := true, rep := true } →
     (s.ctx.allFull = false → exec .endBody s = .next (s.modCtx fun c => { c with state := .waiting })) ∧
     (s.ctx.allFull = true → s.me.outbox.length ≤ 8 → s.me.spill.any Spill.isOut = false → s.me.pairOf s.cur.2 = none →
       ∃ t : State, exec .endBody s = .next t ∧ t.ctx.state = .free ∧ t.ctx.live = false ∧ t.me.sluiceDue = true ∧
         ∀ i, (t.ctx.readW i).live = false)) ∧
  ((∀ (code : BitVec 16) (s : State), s.Clear {} →
     (∃ t : State, exec (.trap code) s = .next t ∧ s.faulted t ⟨.trap, code.setWidth 24, 0⟩) ∧
     (∃ t : State, exec (.bkpt code) s = .next t ∧ s.faulted t ⟨.bkpt, code.setWidth 24, 0⟩)) ∧
   (∀ (code : BitVec 16) (s : State),
     s.Clear { srcs := [(.x 10, false), (.x 11, false), (.x 12, false)], dests := [.x 10] } → s.me.outFull = false →
     ∃ t : State, ∃ m : Msg, exec (.svc code) s = .next t ∧ s.sentOut t (.svc m) ∧ t.ctx.full (.x 10) = false ∧
       m.name = s.devReg (.svcCh (clusterOf s.cur.1)) ∧ m.status = .data ∧
       m.payload = .words [svcWord s.cur.1 s.cur.2 code, s.ctx.readX 10, s.ctx.readX 11, s.ctx.readX 12]))

/-- R157 to R161 and R198: a HINT joins the group it stands in or begins one at its own address, and issues in its own slot; a second of
its kind in one group raises ILLEGAL at the group's first HINT. R142 and R163: a word that no row of the table gives raises ILLEGAL
at its own address. -/
def Obligations.HintsAndIllegalWords : Prop :=
  (∀ s : State, s.ctx.deferred = [] →
     let g : Group := s.ctx.group.getD ⟨s.ctx.pc, s.ctx.ir, none, none, none⟩
     (∀ p : BitVec 24, (g.imm = none → ∃ t : State, exec (.hintImm p) s = .next t ∧ t.ctx.group = some { g with imm := some p } ∧
         t.ctx.pc = s.ctx.pc + 4 ∧ t.ctx.x = s.ctx.x) ∧
       (g.imm ≠ none → ∃ t : State, exec (.hintImm p) s = .next t ∧ s.faulted t ⟨.illegal, 0, 0⟩)) ∧
     (∀ o : HintMod, (g.mod = none → ∃ t : State, exec (.hintMod o) s = .next t ∧ t.ctx.group = some { g with mod := some o } ∧
         t.ctx.pc = s.ctx.pc + 4 ∧ t.ctx.x = s.ctx.x) ∧
       (g.mod ≠ none → ∃ t : State, exec (.hintMod o) s = .next t ∧ s.faulted t ⟨.illegal, 0, 0⟩)) ∧
     (∀ o : HintSched, (g.sched = none → ∃ t : State, exec (.hintSched o) s = .next t ∧ t.ctx.group = some { g with sched := some o } ∧
         t.ctx.pc = s.ctx.pc + 4 ∧ t.ctx.x = s.ctx.x ∧
         (1 < o.count.toNat → t.ctx.prio = o.prio ∧ t.ctx.prioLeft = o.count - 1)) ∧
       (g.sched ≠ none → ∃ t : State, exec (.hintSched o) s = .next t ∧ s.faulted t ⟨.illegal, 0, 0⟩))) ∧
  (∀ (w : Word32) (s : State), s.ctx.deferred = [] → ∃ t : State, exec (.illegalWord w) s = .next t ∧ s.faulted t ⟨.illegal, 0, 0⟩)

/-! ## Issue, faults and frames -/

/-- R155: a word that reads an empty register through a source with its e bit raises EMPTY_READ naming the first such register, and
writes nothing; one that reads or writes an empty register without it leaves its context in WAITING. R142 and R157 to R161: a
privileged word on a worker core raises PRIV, and a word in a group of HINTs that does not suit it raises ILLEGAL at the group's
first HINT, whatever its operands; the words of the keeper and the control registers that are its own are privileged. R40: a fault
found after its instruction retired is taken at the context's next issue, whatever the word there is: FROZEN at that word, FPC at
the culprit, one packet more, and the other causes left for later. -/
def Obligations.FaultsAtIssue : Prop :=
  (∀ (i : Instr) (r : WordRule) (s : State), (∃ body, ∀ u, exec i u = issue r body u) →
     s.ctx.deferred = [] → s.ctx.group.all (groupSuits r) = true → (r.priv = true → isKeeper s.cur.1 = true) → repHolds r s = false →
     (∀ p, r.srcs.find? (fun p => p.2 && !s.ctx.full p.1) = some p →
       ∃ t : State, exec i s = .next t ∧ s.faulted t ⟨.emptyRead, p.1.detail, 0⟩) ∧
     ((∀ p ∈ r.srcs, p.2 = true → s.ctx.full p.1 = true) → (∃ q ∈ r.srcs.map (·.1) ++ r.dests, s.ctx.full q = false) →
       exec i s = .next (s.modCtx fun c => { c with state := .waiting }))) ∧
  ((∀ (i : Instr) (r : WordRule) (s : State), (∃ body, ∀ u, exec i u = issue r body u) → s.ctx.deferred = [] →
     (s.ctx.group.all (groupSuits r) = false → ∃ t : State, exec i s = .next t ∧ s.faulted t ⟨.illegal, 0, 0⟩) ∧
     (s.ctx.group.all (groupSuits r) = true → r.priv = true → isKeeper s.cur.1 = false →
       ∃ t : State, exec i s = .next t ∧ s.faulted t ⟨.priv, 0, 0⟩)) ∧
   (∀ (k : KeeperM) (b : KeeperB) (a : AccCfg) (cr : CrRead) (cw : CrWrite) (o : Reg2),
     crPriv cr.reg = true → crPriv cw.reg = true →
     ∀ i ∈ [.cflushDrop k, .cflushHome k, .cflushClean k, .cinvLine k, .cinvAll, .tlbiPage k, .tlbiPound, .tlbiAll, .bankmode b,
         .acfg a, .cbcfgSet o, .cbcfgState o, .cbcfgRebuild o, .cbcfgClear o, .crr cr, .crw cw],
       ∃ r : WordRule, r.priv = true ∧ ∃ body, ∀ u, exec i u = issue r body u)) ∧
  (∀ (i : Instr) (r : WordRule) (s : State) (d : Deferred) (ds : List Deferred), (∃ body, ∀ u, exec i u = issue r body u) →
     s.ctx.deferred = d :: ds →
     ∃ t : State, exec i s = .next t ∧ t.ctx.state = .frozen ∧ t.ctx.pc = s.ctx.faultPc ∧ t.ctx.fpc = d.fpc ∧ t.ctx.deferred = ds ∧
       t.ctx.x = s.ctx.x ∧ t.ctx.v = s.ctx.v ∧ t.ctx.w = s.ctx.w ∧ t.ctx.q = s.ctx.q ∧ t.mem = s.mem ∧
       t.me.packets.map (·.1) = s.me.packets.map (·.1) ++
         [packetWords s.cur.1 s.cur.2 d.info s.ctx.faultPc s.ctx.region.domain s.ctx.ir])

/-- R24 and R154: x0 reads zero and discards what is written to it; a write to another x register is read back from it, and leaves every
other register as it was; the PC goes on by four. What a word that writes one register leaves (R154, R177 to R190, R243): every
other register, view, stream, channel, tile and buffer, every other context and core, and every byte of memory as they were; only a
floating word touches flags and counters. -/
def Obligations.FramesOfRegisterWords : Prop :=
  (∀ (s : State) (rd i : BitVec 5) (v : Word),
     (s.wroteX rd v).ctx.readX i = (if i = 0 then 0 else if i = rd then v else s.ctx.readX i) ∧
       (s.wroteX rd v).ctx.pc = s.ctx.pc + 4 ∧ (s.wroteX rd v).ctx.group = none) ∧
  ((∀ (s : State) (rd : BitVec 5) (v : Word), Frame (· == rd) noneV false s (s.wroteX rd v)) ∧
   (∀ (s : State) (cls : Nat) (vd : BitVec 4) (v : Vec), Frame noneX (· == vd) false s (s.wroteV cls vd v)) ∧
   (∀ (s : State) (f : Fmt) (rd : BitVec 5) (r : FOut), Frame (· == rd) noneV true s (s.wroteF f rd r)) ∧
   (∀ (s : State) (cls : Nat) (pc : Word), Frame noneX noneV false s (s.retire cls pc)) ∧
   (∀ (s : State) (cls : Nat) (vd : BitVec 4) (v : Vec), (s.wroteV cls vd v).ctx.readV vd = v))

/-! ## Memory -/

/-- R199, R203 to R206: a load whose bytes pass the checks issues: its destination is empty until its value arrives, and a producer
stands for the bytes at its address, of its width and extension; a strong one waits first for what its scope orders (R114, R204). -/
def Obligations.LoadsIssue : Prop :=
  (∀ (o : MemM) (s : State), s.Clear { imm := true, cpol := true, srcs := [(.x o.base, o.ea)], dests := [.x o.rt] } →
    let n := modeBytes o.mode
    let parts := [(0, s.ctx.memAddr o.base o.off n, n)]
    s.mayLoad n false (destX o.rt) parts →
    ∃ t : State, exec (.ld o) s = .next t ∧ s.loaded t (destX o.rt) (.load n (decide (o.mode.toNat < 4))) none parts) ∧
  (∀ (o : MemS) (s : State), s.Clear { imm := true, scope := true, cpol := true, srcs := [(.x o.base, o.ea)], dests := [.x o.rt] } →
    let n := sizeBytes o.size
    let va := s.ctx.memAddr o.base o.off n
    let sc := s.ctx.scopeOr o.scope
    (s.strongReady sc && s.storesHome va n) = true → s.mayLoad n false (destX o.rt) [(0, va, n)] →
    ∃ t : State, exec (.lds o) s = .next t ∧ s.loaded t (destX o.rt) (.load n true) (some sc) [(0, va, n)]) ∧
  (∀ (o : ViewLd) (s : State) (va : Word),
    s.Clear { cpol := true, srcs := [(.x o.ra, o.ea), (.w o.view, o.eb)], dests := [.x o.rd] } →
    let n := szBits o.sz / 8
    viewCheck (s.ctx.readW o.view) .r (s.ctx.readX o.ra) n n = .ok va → s.mayLoad n true (destX o.rd) [(0, va, n)] →
    ∃ t : State, exec (.ldv o) s = .next t ∧ s.loaded t (destX o.rd) (.load n (!o.zext)) none [(0, va, n)]) ∧
  (∀ (o : MemP) (s : State),
    s.Clear { imm := true, cpol := true, srcs := [(.x o.base, o.ea)], dests := [.x o.rt, .x (o.rt + 1)] } →
    let parts := [(0, s.ctx.memAddr o.base o.off 16, 16)]
    s.mayLoad 16 false (.xx o.rt (o.rt + 1)) parts →
    ∃ t : State, exec (.ldp o) s = .next t ∧ s.loaded t (.xx o.rt (o.rt + 1)) .pair none parts)

/-- R201, R203 to R206: a store whose bytes pass the checks puts the low bytes of its source into the store buffer, or into the side log
while its page has no translation (R200), and leaves every register and all of memory as they are. -/
def Obligations.StoresIssue : Prop :=
  (∀ (o : MemM) (s : State), s.Clear { imm := true, cpol := true, srcs := [(.x o.base, o.ea), (.x o.rt, false)] } →
    let n := modeBytes o.mode
    let parts := [(s.ctx.memAddr o.base o.off n, n, firstBytes n, (s.ctx.readX o.rt).setWidth 128)]
    s.mayStore n false false parts → ∃ t : State, exec (.st o) s = .next t ∧ s.stored t none parts) ∧
  (∀ (o : MemS) (s : State), s.Clear { imm := true, scope := true, cpol := true, srcs := [(.x o.base, o.ea), (.x o.rt, false)] } →
    let n := sizeBytes o.size
    let parts := [(s.ctx.memAddr o.base o.off n, n, firstBytes n, (s.ctx.readX o.rt).setWidth 128)]
    s.strongReady (s.ctx.scopeOr o.scope) = true → s.mayStore n true false parts →
    ∃ t : State, exec (.sts o) s = .next t ∧ s.stored t (some (s.ctx.scopeOr o.scope)) parts) ∧
  (∀ (o : ViewSt) (s : State) (va : Word),
    s.Clear { cpol := true, srcs := [(.x o.ra, o.ea), (.w o.view, o.eb), (.x o.rd, false)] } →
    let n := szBits o.sz / 8
    let parts := [(va, n, firstBytes n, (s.ctx.readX o.rd).setWidth 128)]
    viewCheck (s.ctx.readW o.view) .w (s.ctx.readX o.ra) n n = .ok va → s.mayStore n false true parts →
    ∃ t : State, exec (.stv o) s = .next t ∧ s.stored t none parts) ∧
  (∀ (o : MemP) (s : State),
    s.Clear { imm := true, cpol := true, srcs := [(.x o.base, o.ea), (.x o.rt, false), (.x (o.rt + 1), false)] } →
    let parts := [(s.ctx.memAddr o.base o.off 16, 16, firstBytes 16, s.ctx.readX (o.rt + 1) ++ s.ctx.readX o.rt)]
    s.mayStore 16 false false parts → ∃ t : State, exec (.stp o) s = .next t ∧ s.stored t none parts)

/-- R77 and R199: an access at an address that is no multiple of its width raises ALIGN there; one through a view raises VIEW_RIGHTS
without the right, then VIEW_BOUNDS outside the view, then ALIGN, and writes nothing. -/
def Obligations.AccessChecks : Prop :=
  (∀ (o : MemM) (s : State), s.Clear { imm := true, cpol := true, srcs := [(.x o.base, o.ea), (.x o.rt, false)], dests := [.x o.rt] } →
    let va := s.ctx.memAddr o.base o.off (modeBytes o.mode)
    va.toNat % modeBytes o.mode ≠ 0 →
    ∀ i ∈ [Instr.ld o, .st o], ∃ t : State, exec i s = .next t ∧ s.faulted t ⟨.align, 0, va⟩) ∧
  (∀ (o : MemS) (s : State),
    s.Clear { imm := true, scope := true, cpol := true, srcs := [(.x o.base, o.ea), (.x o.rt, false)], dests := [.x o.rt] } →
    let va := s.ctx.memAddr o.base o.off (sizeBytes o.size)
    (s.strongReady (s.ctx.scopeOr o.scope) && s.storesHome va (sizeBytes o.size)) = true → va.toNat % sizeBytes o.size ≠ 0 →
    ∀ i ∈ [Instr.lds o, .sts o], ∃ t : State, exec i s = .next t ∧ s.faulted t ⟨.align, 0, va⟩) ∧
  (∀ (o : MemP) (s : State),
    s.Clear { imm := true, cpol := true, srcs := [(.x o.base, o.ea), (.x o.rt, false), (.x (o.rt + 1), false)],
              dests := [.x o.rt, .x (o.rt + 1)] } →
    let va := s.ctx.memAddr o.base o.off 16
    va.toNat % 16 ≠ 0 → ∀ i ∈ [Instr.ldp o, .stp o], ∃ t : State, exec i s = .next t ∧ s.faulted t ⟨.align, 0, va⟩) ∧
  (∀ (l : ViewLd) (o : ViewSt) (s : State), l.ra = o.ra → l.view = o.view → l.sz = o.sz →
    s.Clear { cpol := true, srcs := [(.x l.ra, l.ea), (.w l.view, l.eb)], dests := [.x l.rd] } →
    s.Clear { cpol := true, srcs := [(.x o.ra, o.ea), (.w o.view, o.eb), (.x o.rd, false)] } →
    let w := s.ctx.readW o.view
    let off := s.ctx.readX o.ra
    let n := szBits o.sz / 8
    ∀ p ∈ [(Instr.ldv l, w.canR), (Instr.stv o, w.canW)],
      let f : Option Cause := if !w.live || !p.2 then some .viewRights
        else if off.toNat < w.lo.toNat || w.hi.toNat < off.toNat + n then some .viewBounds
        else if off.toNat % n ≠ 0 then some .align else none
      ∀ c, f = some c → ∃ t : State, exec p.1 s = .next t ∧ s.faulted t ⟨c, 0, w.base + off⟩)

/-- R78 and R207: PREF of a line that may be read asks for it; a window, a page without a translation, without the right to be read or
outside its frames, and a remote target end it without effect; it retires in each of these, and leaves every register, pending read
and byte as they were. A covered page raises VIEW_CLASS. R216 and R217: on a line of DRAM a keeper's CFLUSH.drop leaves no copy in
its cluster's caches, CFLUSH.home none in the line's home slice, CFLUSH.clean none that is dirty there, and CINV no copy in the
instruction caches of its workers, nor code that the cluster cache filled before; on a window or a remote target each ends without
effect. None changes a register or a byte of memory. R218: a TLBI drops its translations from the TLBs of its cluster and changes no
register and no byte. It retires where no access of the cluster is open that was translated, and stays at its word while a store is
buffered that was translated through an entry it drops. R55 and R219: BANKMODE raises BANK_MODE for a SYS bank, one with a ring and
a reserved mode; else it sets the bank BUSY, drops the lines of the cluster cache that it held, and waits; BANK_MODE_DONE zeroes the
bank, gives it its mode and clears BUSY, and the word then retires. -/
def Obligations.CacheWordsAndBanks : Prop :=
  (∀ (o : Prefetch) (s : State), s.Clear { imm := true, cpol := true, srcs := [(.x o.base, o.ea)] } →
     let va := s.ctx.memAddr o.base o.off 1
     let kept (t : State) : Prop := exec (.pref o) s = .next t ∧ s.issued t ∧ t.ctx.pends = s.ctx.pends ∧ ∀ r, t.ctx.full r = s.ctx.full r
     (inWindows va = true → exec (.pref o) s = .next (s.past 0 s)) ∧
     (inWindows va = false → ∀ u, s.translate s.cur.1 false va = (none, u) → ∃ t : State, kept t ∧ t.net = s.net) ∧
     (inWindows va = false → ∀ pa l u, s.translate s.cur.1 false va = (some (pa, l), u) →
       (leafCR l = true → ∃ t : State, exec (.pref o) s = .next t ∧ s.faulted t ⟨.viewClass, 0, va⟩) ∧
       (leafCR l = false → leafR l = false ∨ leafTgt l ≠ 0 ∨ s.leafOk (s.tagOf s.cur.1).toNat l pa = false →
         ∃ t : State, kept t ∧ t.net = s.net) ∧
       (leafCR l = false → leafR l = true → leafTgt l = 0 → s.leafOk (s.tagOf s.cur.1).toNat l pa = true →
         ∃ t : State, kept t ∧ ∃ r : MemReq, t.net = s.net ++ [r] ∧ r.pa = pa ∧ ∃ f1 fc k, r.op = .read 1 f1 fc k))) ∧
  ((∀ (o : KeeperM) (s : State), s.Clear { priv := true, imm := true, srcs := [(.x o.base, o.ea)] } →
     let va := s.ctx.memAddr o.base o.off 1
     let k := clusterOf s.cur.1
     (inWindows va = true → ∀ i ∈ [Instr.cflushDrop o, .cflushHome o, .cflushClean o, .cinvLine o], exec i s = .next (s.past 0 s)) ∧
     (inWindows va = false → ∀ pa l u, s.translate s.cur.1 false va = (some (pa, l), u) →
       (leafTgt l ≠ 0 → ∀ i ∈ [Instr.cflushDrop o, .cflushHome o, .cflushClean o, .cinvLine o],
         ∃ t : State, exec i s = .next t ∧ s.issued t) ∧
       (leafTgt l = 0 → s.leafOk (s.tagOf s.cur.1).toNat l pa = true →
         (∃ t : State, exec (.cflushDrop o) s = .next t ∧ s.issued t ∧ (∀ x ∈ (t.cluster k).lines, x.pa ≠ lineOf pa) ∧
           ∀ n ∈ clusterCores k, ∀ x ∈ (t.core n).l1, x.pa ≠ lineOf pa) ∧
         (∃ t : State, exec (.cflushHome o) s = .next t ∧ s.issued t ∧
           ∀ x ∈ ((t.stack (paStack pa)).slice (paSlice pa)).lines, x.pa ≠ lineOf pa) ∧
         (∃ t : State, exec (.cflushClean o) s = .next t ∧ s.issued t ∧
           ∀ x ∈ ((t.stack (paStack pa)).slice (paSlice pa)).lines, x.pa = lineOf pa → x.dirty = false) ∧
         ∃ t : State, exec (.cinvLine o) s = .next t ∧ s.issued t ∧ (t.cluster k).codeAcq = (t.cluster k).epoch ∧
           ∀ n ∈ coresOfCluster k, ∀ x ∈ (t.core n).icache, x.pa ≠ lineOf pa))) ∧
   (∀ s : State, s.Clear { priv := true, imm := true } → s.ctx.immZ (0 : BitVec 12) = 0 →
     ∃ t : State, exec .cinvAll s = .next t ∧ s.issued t ∧
       (t.cluster (clusterOf s.cur.1)).codeAcq = (t.cluster (clusterOf s.cur.1)).epoch ∧
       ∀ n ∈ clusterCores (clusterOf s.cur.1), (t.core n).icache = [])) ∧
  (∀ (o : KeeperM) (s : State),
     let va := (s.ctx.memAddr o.base o.off 1).toNat
     ∀ p ∈ ([(.tlbiPage o, { priv := true, imm := true, srcs := [(.x o.base, o.ea)] },
           fun e => e.tag == s.tagOf s.cur.1 && decide (e.first / 2 ^ 16 ≤ va / 2 ^ 16) && decide (va / 2 ^ 16 * 2 ^ 16 < e.limit)),
         (.tlbiPound, { priv := true, imm := true }, fun e => e.tag == s.tagOf s.cur.1),
         (.tlbiAll, { priv := true, imm := true }, fun _ => true)] : List (Instr × WordRule × (TlbEntry → Bool))),
       s.Clear p.2.1 → (p.1 = .tlbiPage o ∨ s.ctx.immZ (0 : BitVec 12) = 0) →
       let k := clusterOf s.cur.1
       ∃ t : State, exec p.1 s = .next t ∧ t.ctx.x = s.ctx.x ∧ t.mem = s.mem ∧
         (∀ n ∈ clusterCores k, ∀ e ∈ (t.core n).dtlb ++ (t.core n).itlb, p.2.2 e = false) ∧
         (∀ e ∈ (t.cluster k).tlb, p.2.2 e = false) ∧
         ((∀ c ∈ s.cores, c.1 ∈ clusterCores k → c.2.translatedOpen (fun _ _ => true) = false) →
           (∀ r ∈ s.requests, clusterOf r.node ≠ k) → t.ctx.pc = s.ctx.pc + 4) ∧
         (s.me.tlbWait = none → ∀ c ∈ s.cores, c.1 ∈ clusterCores k → ∀ st ∈ c.2.stores, st.window = false → st.seq < s.seq →
           ∀ e ∈ (s.cluster k).tlb, p.2.2 e = true → e.first ≤ st.va.toNat → st.va.toNat < e.limit → t.ctx.pc = s.ctx.pc)) ∧
  ((∀ (o : KeeperB) (s : State), s.Clear { priv := true, imm := true, srcs := [(.x o.base, o.ea)] } → s.ctx.immZ (0 : BitVec 12) = 0 →
     let x := s.ctx.readX o.base
     let b := bits x 3 0
     let k := clusterOf s.cur.1
     let bank := (s.cluster k).bank b
     (s.me.bankWait = none → bank.sys = true ∨ bank.ringCount ≠ 0 ∨ bits x 9 8 = 3 →
       ∃ t : State, exec (.bankmode o) s = .next t ∧ s.faulted t ⟨.bankMode, 0, 0⟩) ∧
     (∀ m, s.me.bankWait = none → bank.sys = false → bank.ringCount = 0 → bank.busy = none → bankModeOf (bits x 9 8) = some m →
       ∃ t : State, exec (.bankmode o) s = .next t ∧ t.ctx.pc = s.ctx.pc ∧ ((t.cluster k).bank b).busy = some m ∧
         ((t.cluster k).bank b).mode = bank.mode ∧ t.me.bankWait = some (s.cur.2, b, false) ∧
         ∀ l ∈ (t.cluster k).lines, l.way ≠ b) ∧
     (∀ c, s.me.bankWait = some (s.cur.2, c, true) →
       ∃ t : State, exec (.bankmode o) s = .next t ∧ t.ctx.pc = s.ctx.pc + 4 ∧ t.ctx.x = s.ctx.x ∧ t.me.bankWait = none)) ∧
   (∀ (k b : Nat) (s : State) (m : BankMode), k < Config.clusters → b < 16 → ((s.cluster k).bank b).busy = some m →
     ∃ t : State, exec (.bankModeDone k b) s = .next t ∧ ((t.cluster k).bank b).busy = none ∧ ((t.cluster k).bank b).mode = m ∧
       (∀ off < 2 ^ 16, readByte t.mem (csKey k b off) = 0) ∧
       (∀ a, a < csKey k b 0 ∨ csKey k b (2 ^ 16) ≤ a → readByte t.mem a = readByte s.mem a) ∧
       (∀ c, (s.core (Config.keeperOf k)).bankWait = some (c, b, false) →
         (t.core (Config.keeperOf k)).bankWait = some (c, b, true))))

/-- R208 to R211: an ATOM whose bytes pass the checks, and whose context has nothing open that it must wait for (R114, R210), leaves its
destination empty and sends its operation to the bytes' home. R115 and R211: an ATN whose bytes pass the checks retires at once into
the atomic queue, behind it into the spill ring, and with both full raises OUTBOX_OVERFLOW. -/
def Obligations.AtomicsIssue : Prop :=
  ((∀ p ∈ ([(.atomAdd, 0x00), (.atomAnd, 0x01), (.atomOr, 0x02), (.atomXor, 0x03), (.atomMin, 0x04), (.atomMax, 0x05),
       (.atomMinu, 0x06), (.atomMaxu, 0x07), (.atomSwap, 0x08), (.atomCas, 0x09), (.atomIncb, 0x0A), (.atomDecb, 0x0B),
       (.atomFadd, 0x10), (.atomFmin, 0x11), (.atomFmax, 0x12), (.atomFaddP2, 0x14), (.atomFminP2, 0x15), (.atomFmaxP2, 0x16)] :
       List ((Atomic → Instr) × Nat)),
     ∀ (o : Atomic) (s u : State) (va : Word) (v : Option View) (acc : Acc),
       s.Clear { scope := true, srcs := atomSrcs p.2 o, dests := [.x o.ra] } →
       let a := atomOp s.ctx p.2 o
       let sc := s.ctx.scopeOr o.scope
       atomAddr s.ctx o.view o.rb o.rc a.bytes = .ok (va, v) → va.toNat % a.bytes = 0 →
       ((v.isSome || !inWindows va) && s.me.pageLogged va) = false → s.access s.cur.1 .atom va a.bytes a.bytes v.isSome = (.ok acc, u) →
       (s.strongReady sc && s.storesHome va a.bytes && !s.loadOpen va a.bytes && !s.atomicOpen va a.bytes) = true →
       ∃ t : State, exec (p.1 o) s = .next t ∧ s.atomicSent t a sc va (destX o.ra)) ∧
   (∀ (o : Cas128) (s u : State) (va : Word) (v : Option View) (acc : Acc),
     s.Clear { scope := true, srcs := [(.x o.rb, false), (.x o.ra, false), (.x (o.ra + 1), false)] ++
         (if o.view then [(.x (o.ra + 2), false), (.x (o.ra + 3), false), (.w (o.rc.extractLsb' 2 3), false)]
          else [(.x o.rc, false), (.x (o.rc + 1), false)]), dests := [.x o.ra, .x (o.ra + 1)] } →
     let n := if o.view then o.ra + 2 else o.rc
     let a : AtomOp := ⟨0x09, 0, true, s.ctx.readX (n + 1) ++ s.ctx.readX n, s.ctx.readX (o.ra + 1) ++ s.ctx.readX o.ra⟩
     let sc := s.ctx.scopeOr o.scope
     atomAddr s.ctx o.view o.rb o.rc 16 = .ok (va, v) → va.toNat % 16 = 0 →
     ((v.isSome || !inWindows va) && s.me.pageLogged va) = false → s.access s.cur.1 .atom va 16 16 v.isSome = (.ok acc, u) →
     (s.strongReady sc && s.storesHome va 16 && !s.loadOpen va 16 && !s.atomicOpen va 16) = true →
     ∃ t : State, exec (.cas128 o) s = .next t ∧ s.atomicSent t a sc va (.xx o.ra (o.ra + 1)))) ∧
  (∀ p ∈ ([(.atnAdd, 0x00), (.atnAnd, 0x01), (.atnOr, 0x02), (.atnXor, 0x03), (.atnMin, 0x04), (.atnMax, 0x05),
       (.atnMinu, 0x06), (.atnMaxu, 0x07), (.atnSwap, 0x08), (.atnCas, 0x09), (.atnIncb, 0x0A), (.atnDecb, 0x0B),
       (.atnFadd, 0x10), (.atnFmin, 0x11), (.atnFmax, 0x12), (.atnFaddP2, 0x14), (.atnFminP2, 0x15), (.atnFmaxP2, 0x16)] :
       List ((Atomic → Instr) × Nat)),
     ∀ (o : Atomic) (s u : State) (va : Word) (v : Option View) (acc : Acc),
       s.Clear { scope := true, srcs := atomSrcs p.2 o } →
       let a := atomOp s.ctx p.2 o
       atomAddr s.ctx o.view o.rb o.rc a.bytes = .ok (va, v) → va.toNat % a.bytes = 0 →
       ((v.isSome || !inWindows va) && s.me.pageLogged va) = false → s.access s.cur.1 .atn va a.bytes a.bytes v.isSome = (.ok acc, u) →
       s.storesHome va a.bytes = true →
       let e (t : State) (e : AtomEntry) : Prop := s.issued t ∧ t.ctx.pends = s.ctx.pends ∧ (∀ r, t.ctx.full r = s.ctx.full r) ∧
         e.ctx = s.cur.2 ∧ e.va = va ∧ e.atom = a ∧ e.scope = s.ctx.scopeOr o.scope ∧ e.pa = acc.pa
       (s.me.atomQ.length < 8 → ∃ t : State, ∃ x : AtomEntry, exec (p.1 o) s = .next t ∧ e t x ∧ t.me.atomQ = s.me.atomQ ++ [x] ∧ t.me.spill = s.me.spill) ∧
       (8 ≤ s.me.atomQ.length → s.me.spill.length < 256 →
         ∃ t : State, ∃ x : AtomEntry, exec (p.1 o) s = .next t ∧ e t x ∧ t.me.atomQ = s.me.atomQ ∧ t.me.spill = s.me.spill ++ [.atom x]) ∧
       (8 ≤ s.me.atomQ.length → 256 ≤ s.me.spill.length →
         ∃ t : State, exec (p.1 o) s = .next t ∧ s.faulted t ⟨.outboxOverflow, 0, 0⟩ ∧ t.me.atomQ = s.me.atomQ))

/-- R209: what a home makes of an integer atomic, on the 64 or 32 bits its type names. R64 and R209: an atomic at a local store or an
open bank writes its result over the bytes it names and over no other byte, and gives the old value to the word that waits for it; a
result that counts events adds to its block as well. -/
def Obligations.AtomicValues : Prop :=
  (∀ (ty : BitVec 2) (op cmp : BitVec 128) (n : Nat), ty = 0 ∧ n = 64 ∨ ty = 1 ∧ n = 32 →
     ∀ p ∈ ([(0x00, fun x o _ => x + o), (0x01, fun x o _ => x &&& o), (0x02, fun x o _ => x ||| o), (0x03, fun x o _ => x ^^^ o),
         (0x04, fun x o _ => if x.toInt < o.toInt then x else o), (0x05, fun x o _ => if x.toInt < o.toInt then o else x),
         (0x06, fun x o _ => if x.toNat < o.toNat then x else o), (0x07, fun x o _ => if x.toNat < o.toNat then o else x),
         (0x08, fun _ o _ => o), (0x09, fun x o c => if x = c then o else x),
         (0x0A, fun x o _ => if x.toNat < o.toNat then x + 1 else x), (0x0B, fun x _ _ => if x.toNat = 0 then x else x - 1)] :
         List (BitVec 5 × (BitVec n → BitVec n → BitVec n → BitVec n))),
       ∀ x : BitVec n, ((⟨p.1, ty, false, op, cmp⟩ : AtomOp).apply x.toNat).1 = (p.2 x (op.setWidth n) (cmp.setWidth n)).toNat ∧
         (⟨p.1, ty, false, op, cmp⟩ : AtomOp).bytes = n / 8) ∧
  (∀ (k : Nat) (s : State) (r : MemReq) (a : AtomOp), s.net[k]? = some r → r.op = .atomic a → Config.csWindow ≤ r.pa →
     s.mayTake s.net k r = true → s.pairWaits r = false → (∃ x, s.windowState r.pa a.bytes r.va = .ok x) →
     (∀ o ∈ (a.apply (readMem s.mem r.pa a.bytes)).2, o.2.ev = 0) →
     ∃ t : State, exec (.homeAtomicApply k) s = .next t ∧ t.net = s.net.eraseIdx k ∧
       (∀ c, c < r.pa ∨ r.pa + a.bytes ≤ c → readByte t.mem c = readByte s.mem c) ∧
       (∀ i < a.bytes, readByte t.mem (r.pa + i) = BitVec.ofNat 8 ((a.apply (readMem s.mem r.pa a.bytes)).1 / 256 ^ i)) ∧
       (∀ c x q, r.asker = .atomic c x q → (s.core c).pairOf x = none →
         ((t.core c).ctx x).pends = ((s.core c).ctx x).pends.map fun p => if p.seq = q then
           { p with pieces := p.pieces.mapIdx fun j y => if j = 0 then
               { y with value := some (merge y.len (readMem s.mem r.pa a.bytes) y.omask y.odata) } else y } else p))

/-- R46, R52, R201 and R337: the oldest store of a buffer leaves it. One to a window writes there the bytes of its mask, and no other
byte of memory; one to DRAM goes to its home as a request with its bytes; one for a remote target goes to its port once, and stays
in the buffer until the target acknowledges it. Neither request changes a byte yet. R115 and R211: the oldest entry of an atomic
queue goes to its home once its context's earlier strong work has performed. R118 and R119: a fence waits, with nothing changed,
until the accesses it orders have performed; then it retires, and one that acquires makes the L1 entries filled before it unusable
to its context at cluster scope or wider. -/
def Obligations.StoresAndAtomicsLeave : Prop :=
  (∀ (core : Nat) (s : State) (st : Store) (rest : List Store), coreIn core = true → (s.core core).stores = st :: rest →
     (s.core core).mayDrain st = true → (s.core core).pairOf st.ctx = none →
     let left := (s.core core).stores.filter (·.seq != st.seq)
     let carries (r : MemReq) : Prop := r.op = .write st.mask st.data ∧ r.pa = st.pa ∧ r.va = st.va ∧
       r.asker = .store core st.ctx st.seq ∧ r.node = core
     (st.remote = false → st.window = true → (∃ a, s.windowState st.pa st.len st.va = .ok a) →
       ∃ t : State, exec (.storeBufferDrain core) s = .next t ∧ (t.core core).stores = left ∧ t.net = s.net ∧
         ∀ c, readByte t.mem c = if st.pa ≤ c ∧ c < st.pa + 16 ∧ st.mask.getLsbD (c - st.pa) = true
           then BitVec.ofNat 8 (st.data.toNat / 256 ^ (c - st.pa)) else readByte s.mem c) ∧
     (st.remote = false → st.window = false →
       ∃ t : State, ∃ r : MemReq, exec (.storeBufferDrain core) s = .next t ∧ (t.core core).stores = left ∧ t.mem = s.mem ∧
         t.net = s.net ++ [r] ∧ carries r) ∧
     (st.remote = true → s.storeFar core st.seq = false →
       ∃ t : State, ∃ r : MemReq, exec (.storeBufferDrain core) s = .next t ∧ t.cores = s.cores ∧ t.mem = s.mem ∧
         t.remote = s.remote ++ [r] ∧ carries r)) ∧
  (∀ (core : Nat) (s : State) (a : AtomEntry) (rest : List AtomEntry), coreIn core = true → (s.core core).atomQ = a :: rest →
     (s.core core).pairOf a.ctx = none → s.strongDone core a.ctx a.scope a.seq = true →
     (((s.core core).ctx a.ctx).pends.any fun p => decide (p.seq < a.seq) && p.pieces.any fun q =>
       q.value.isNone && overlaps a.va.toNat a.atom.bytes q.va.toNat q.len) = false →
     ∃ t : State, ∃ r : MemReq, exec (.atomicQueueSend core) s = .next t ∧ t.mem = s.mem ∧ (t.core core).atomsOut = (s.core core).atomsOut ++ [a] ∧
       (if leafTgt a.leaf = 0 then t.net = s.net ++ [r] else t.remote = s.remote ++ [r]) ∧
       r.op = .atomic a.atom ∧ r.pa = a.pa ∧ r.asker = .queued core a.ctx a.seq) ∧
  (∀ (scope : BitVec 3) (x : FenceX) (s : State), s.Clear { scope := true } →
     let sc := s.ctx.scopeOr scope
     let classes : Scope := if x.ca = 3 ∨ x.cb = 3 then .sys else if x.ca = 2 ∨ x.cb = 2 then .dev else .core
     let scX := widest (s.ctx.scopeOr x.scope) classes
     ∀ p ∈ ([(.fenceAcq scope, sc, true, s.loadsDone), (.fenceRel scope, sc, false, s.me.atomsApplied s.cur.2 && s.allDone sc),
         (.fenceSc scope, sc, true, s.loadsDone && s.allDone sc),
         (.fenceX x, scX, true, s.loadsDone && s.allDone scX && (x.ca != 2 || !s.engineOpen) &&
           (x.ca != 3 || s.rmas.all (·.left == 0)))] : List (Instr × Scope × Bool × Bool)),
       (p.2.2.2 = false → exec p.1 s = .next s) ∧
       (p.2.2.2 = true → ∃ t : State, exec p.1 s = .next t ∧ s.issued t ∧ t.ctx.pends = s.ctx.pends ∧ t.net = s.net ∧
         (p.2.2.1 = false ∨ p.2.1 = .core → t.ctx.acqL1 = s.ctx.acqL1 ∧ t.me.l1 = s.me.l1) ∧
         (p.2.2.1 = true → p.2.1 ≠ .core → s.me.l1Epoch ≠ 65535 →
           t.ctx.acqL1 = s.me.l1Epoch + 1 ∧ t.me.l1Epoch = s.me.l1Epoch + 1 ∧ t.me.l1 = s.me.l1)))

/-- R61, R62, R49 and R63: a request on the network joins the queue of its home slice; a slice serves the head of its queue: a write
takes effect on the bytes of its mask and no other byte of DRAM, and a read binds its part of the load that waits, or completes the
RMA of which it was the last part. R156, R203 and R252: once every part of a producer is bound its value fills its register: a
load's bytes extended as its word says, or the active lanes of a vector; the register is full, and every other register of the
context is as it was (a block that is read to be stored is the subject of VectorMemory). R62, R89 and R92: a write of a slice's
register sets its PEAK to its present depth; the cluster's union of flags takes the flags raised since it was last brought up to
date; and a slice's counts leave it for their blocks. -/
def Obligations.HomeSlicesAndFills : Prop :=
  ((∀ (k : Nat) (s : State) (r : MemReq), s.net[k]? = some r → (∀ c x q, r.asker ≠ .occ c x q) → (∀ a b c d, r.asker ≠ .engine a b c d) →
     r.homed = true → s.mayTake s.net k r = true → s.pairWaits r = false → s.migOf r.pa = none →
     ((s.stack (paStack r.pa)).slice (paSlice r.pa)).queue.length < 64 →
     ∃ t : State, exec (.sliceRequestAccept k) s = .next t ∧ t.net = s.net.eraseIdx k ∧ t.mem = s.mem ∧
       ((t.stack (paStack r.pa)).slice (paSlice r.pa)).queue = ((s.stack (paStack r.pa)).slice (paSlice r.pa)).queue ++ [r]) ∧
   (∀ (t' i : Nat) (s : State) (r : MemReq) (rest : List MemReq), t' < 4 → i < 16 → ((s.stack t').slice i).queue = r :: rest →
     s.migOf r.pa = none → s.firstTouch r = none →
     (∀ m d, r.op = .write m d → (∀ j, r.asker ≠ .rma j) →
       ∃ t : State, exec (.sliceAnswer t' i) s = .next t ∧ ((t.stack t').slice i).queue = rest ∧
         ∀ c, t.readDram c 1 r.key = if r.pa ≤ c ∧ c < r.pa + 16 ∧ m.getLsbD (c - r.pa) = true
           then d.toNat / 256 ^ (c - r.pa) % 256 else s.readDram c 1 r.key) ∧
     (∀ n f1 fc rank c x q j, r.op = .read n f1 fc rank → r.asker = .load c x q j → s.reqPoisoned r = false →
       ∃ t : State, exec (.sliceAnswer t' i) s = .next t ∧ ((t.stack t').slice i).queue = rest ∧ t.mem = s.mem ∧
         ((t.core c).ctx x).pends = ((s.core c).ctx x).pends.map fun p => if p.seq = q then
           { p with pieces := p.pieces.mapIdx fun l y => if l = j then
               { y with value := some (merge y.len (s.readDram r.pa n r.key) y.omask y.odata) } else y } else p) ∧
     (∀ n f1 fc rank w, r.op = .read n f1 fc rank → r.asker = .rma w.id → s.reqPoisoned r = false → s.rmas = [w] → w.write = false →
       w.left = n → w.got = [] →
       ∃ t : State, exec (.sliceAnswer t' i) s = .next t ∧ ((t.stack t').slice i).queue = rest ∧ t.mem = s.mem ∧ t.rmas = [] ∧
         t.egress = s.egress ++ [.rmaRead (toBytes n (s.readDram r.pa n r.key))]))) ∧
  (∀ (core x k : Nat) (s : State) (p : Pend), coreIn core = true → x < 11 → ((s.core core).ctx x).pends[k]? = some p →
     p.pieces.all (fun q => q.value.isSome) = true → p.isRead = false → p.poison = none → p.isBlock = false →
     ((s.core core).ctx x).rep = none →
     ∃ t : State, exec (.registerFill core x k) s = .next t ∧ t.mem = s.mem ∧
       (let c := (s.core core).ctx x
        let d := (t.core core).ctx x
        d.w = c.w ∧ d.pc = c.pc ∧ d.pends = c.pends.filter (·.seq != p.seq) ∧
         (∀ r, r ∉ p.dest.regs → d.full r = c.full r) ∧ (∀ i, .x i ∉ p.dest.regs → d.readX i = c.readX i) ∧
         (∀ i, .v i ∉ p.dest.regs → d.readV i = c.readV i) ∧
         (∀ (rd : BitVec 5) (n : Nat) (signed : Bool), rd ≠ 0 → 0 < n → n ≤ 8 → p.dest = .x rd → p.finish = .load n signed →
           d.full (.x rd) = true ∧
             d.readX rd = (let v : BitVec (8 * n) := BitVec.ofNat _ p.gather; if signed then v.signExtend 64 else v.setWidth 64)) ∧
         (∀ (r1 r2 : BitVec 5), r2 ≠ 0 → r1 ≠ r2 → p.dest = .xx r1 r2 → p.finish = .pair →
           d.readX r2 = BitVec.ofNat 64 (p.gather / 2 ^ 64) ∧ (r1 ≠ 0 → d.readX r1 = BitVec.ofNat 64 p.gather)) ∧
         (∀ (vd : BitVec 4) (z : Nat) (act : BitVec 16) (old : Vec), z ∈ [8, 16, 32, 64] → p.dest = .v vd → p.finish = .lanes z act old →
           d.full (.v vd) = true ∧ ∀ i < 128 / z, laneOf (d.readV vd) z i =
             if act.getLsbD i then BitVec.ofNat z (p.gather / 2 ^ (z * i)) else laneOf old z i))) ∧
  ((∀ (t' i : Nat) (s : State) (r : MemReq), t' < 4 → i < 16 → s.net = [r] → r.key = t' → r.pa = i → (∃ c x q, r.asker = .occ c x q) →
     (∃ m d, r.op = .write m d) →
     ∃ t : State, exec (.sliceoccWrite t' i) s = .next t ∧ ((t.stack t').slice i).peak = ((s.stack t').slice i).queue.length ∧ t.net = []) ∧
   (∀ (k : Nat) (s : State), k < Config.clusters →
     ∃ t : State, exec (.fpunionUpdate k) s = .next t ∧ (t.cluster k).fpunion = (s.cluster k).fpunion ||| (s.cluster k).fpRaised ∧
       (t.cluster k).fpRaised = 0 ∧ t.cores = s.cores ∧ t.mem = s.mem) ∧
   (∀ (t' i : Nat) (s : State), t' < 4 → i < 16 →
     ∃ t : State, exec (.sliceCounterFlush t' i) s = .next t ∧ ((t.stack t').slice i).fpDelta = []))

/-! ## Covered regions and views -/

/-- R75 and R215: CRNEW, VSPLIT and VSHARE place a request to the Colander of the region's stack in the outbox and leave their views
empty until it answers; a live wd raises ILLEGAL, a cut outside the view VIEW_BOUNDS, and a share of a view with W VIEW_RIGHTS. R75:
VDEMOTE clears the rights its mask names and no other; VQUERY reads a part of a view; VMOVE moves a view onto one that is not live
and leaves its source null. R75 and R80: VDROP and a VNARROW to nothing leave the view null and place its notice in the outbox;
another VNARROW inside the view holds at once, and places the new interval's; one that would widen raises VIEW_WIDEN; VDROP of a
null view has no effect. -/
def Obligations.ViewWords : Prop :=
  ((∀ (o : ViewNew) (s : State), s.Clear { srcs := [(.x o.ra, o.ea)], dests := [.w o.wd] } →
     ((s.ctx.readW o.wd).live = true → ∃ t : State, exec (.crnew o) s = .next t ∧ s.faulted t ⟨.illegal, 0, 0⟩) ∧
     ((s.ctx.readW o.wd).live = false → s.me.outFull = false →
       ∃ t : State, exec (.crnew o) s = .next t ∧ t.ctx.full (.w o.wd) = false ∧ t.ctx.w = s.ctx.w ∧ t.ctx.x = s.ctx.x ∧
         s.sentOut t (.view (stackOf s.cur.1) (.alloc s.cur.1 s.cur.2 s.seq o.wd (s.ctx.readX o.ra) s.ctx.region.spansAt
           s.ctx.region.rcb (s.tagOf s.cur.1))))) ∧
   (∀ (o : ViewSplit) (s : State), s.Clear { srcs := [(.x o.ra, o.ea), (.w o.ws, o.eb)], dests := [.w o.wd, .w o.ws] } →
     let v := s.ctx.readW o.ws
     let x := s.ctx.readX o.ra
     (s.ctx.readW o.wd).live = false →
     (v.live = false ∨ x.toNat ≤ v.lo.toNat ∨ v.hi.toNat ≤ x.toNat →
       ∃ t : State, exec (.vsplit o) s = .next t ∧ s.faulted t ⟨.viewBounds, 0, v.base + x⟩) ∧
     (v.live = true → v.lo.toNat < x.toNat → x.toNat < v.hi.toNat → s.me.outFull = false →
       ∃ t : State, exec (.vsplit o) s = .next t ∧ t.ctx.full (.w o.wd) = false ∧ t.ctx.full (.w o.ws) = false ∧ t.ctx.w = s.ctx.w ∧
         s.sentOut t (.view (regionStack v.region) (.split s.cur.1 s.cur.2 s.seq o.wd o.ws v (x.setWidth 32))))) ∧
   (∀ (o : ViewTwo) (s : State), s.Clear { srcs := [(.w o.ws, o.eb)], dests := [.w o.wd] } →
     let v := s.ctx.readW o.ws
     (s.ctx.readW o.wd).live = false →
     (v.live = false ∨ v.canW = true → ∃ t : State, exec (.vshare o) s = .next t ∧ s.faulted t ⟨.viewRights, 0, v.base⟩) ∧
     (v.live = true → v.canW = false → s.me.outFull = false →
       ∃ t : State, exec (.vshare o) s = .next t ∧ t.ctx.full (.w o.wd) = false ∧ t.ctx.w = s.ctx.w ∧
         s.sentOut t (.view (regionStack v.region) (.share s.cur.1 s.cur.2 s.seq o.wd v))))) ∧
  ((∀ (o : ViewMask) (s : State), s.Clear { srcs := [(.w o.ws, false)], dests := [.w o.ws] } →
     let v := s.ctx.readW o.ws
     (v.live = false → ∃ t : State, exec (.vdemote o) s = .next t ∧ s.faulted t ⟨.viewRights, 0, v.base⟩) ∧
     (v.live = true → exec (.vdemote o) s = .next (s.past 0 (s.modCtx (·.writeW o.ws { v with
       canW := v.canW && !o.mask.getLsbD 2, canR := v.canR && !o.mask.getLsbD 1, canA := v.canA && !o.mask.getLsbD 0 }))))) ∧
   (∀ (o : ViewQuery) (s : State), s.Clear { srcs := [(.w o.ws, o.eb)], dests := [.x o.rd] } →
     let v := s.ctx.readW o.ws
     exec (.vquery o) s = .next (s.wroteX o.rd (if o.sel = 0 then v.base else if o.sel = 1 then v.hi ++ v.lo else v.middle))) ∧
   (∀ (o : ViewTwo) (s : State), s.Clear { srcs := [(.w o.ws, o.eb)], dests := [.w o.wd, .w o.ws] } →
     ((s.ctx.readW o.wd).live = true → ∃ t : State, exec (.vmove o) s = .next t ∧ s.faulted t ⟨.illegal, 0, 0⟩) ∧
     ((s.ctx.readW o.wd).live = false →
       ∃ t : State, exec (.vmove o) s = .next t ∧ t.ctx.pc = s.ctx.pc + 4 ∧ t.ctx.x = s.ctx.x ∧ t.mem = s.mem ∧
         ∀ i, t.ctx.readW i = if i = o.ws then View.null else if i = o.wd then s.ctx.readW o.ws else s.ctx.readW i))) ∧
  ((∀ (w : BitVec 3) (s : State), s.Clear { srcs := [(.w w, false)], dests := [.w w] } →
     let v := s.ctx.readW w
     (v.live = false → exec (.vdrop w) s = .next (s.past 0 s)) ∧
     (v.live = true → s.me.outFull = false →
       ∃ t : State, exec (.vdrop w) s = .next t ∧ t.ctx.readW w = View.null ∧ (∀ i, i ≠ w → t.ctx.readW i = s.ctx.readW i) ∧
         s.sentOut t (.view (regionStack v.region) (.notice v.handle v.region none)))) ∧
   (∀ (o : ViewNarrow) (s : State),
     s.Clear { srcs := [(.x o.ra, o.ea), (.x o.rb, o.eb), (.w o.ws, false)], dests := [.w o.ws] } →
     let v := s.ctx.readW o.ws
     let a := s.ctx.readX o.ra
     let b := s.ctx.readX o.rb
     v.live = true →
     (a.toNat < v.lo.toNat ∨ v.hi.toNat < b.toNat ∨ b.toNat < a.toNat →
       ∃ t : State, exec (.vnarrow o) s = .next t ∧ s.faulted t ⟨.viewWiden, 0, v.base + a⟩) ∧
     (v.lo.toNat ≤ a.toNat → b.toNat ≤ v.hi.toNat → a.toNat ≤ b.toNat → s.me.outFull = false →
       ∃ t : State, exec (.vnarrow o) s = .next t ∧ (∀ i, i ≠ o.ws → t.ctx.readW i = s.ctx.readW i) ∧
         t.ctx.readW o.ws = (if a = b then View.null else { v with lo := a.setWidth 32, hi := b.setWidth 32 }) ∧
         s.sentOut t (.view (regionStack v.region) (.notice v.handle v.region
           (if a = b then none else some (a.setWidth 32, b.setWidth 32)))))))

/-- R70 and R72: a Colander answers the CRNEW at the head of its queue. It refuses a size of none or more than 2^30 bytes or without a
pool with reason 4, without room in its tables with 5, without a run of spans with 2, and beyond the budget with 3; else it gives
the lowest free run, a live view of all of it with every right, and a region of its spans. R75, R80 and R81: a split gives its new
view the part above the cut and leaves the old handle the part below, a share gives a second handle for the same interval; a
Colander with no room refuses both with reason 5; a notice takes a view away or makes it smaller; an answer fills the view registers
left empty; and a notice leaves its core once the view is idle and no earlier notice about its handle is there. -/
def Obligations.TheColander : Prop :=
  (∀ (k core ctx seq : Nat) (wd : BitVec 3) (bytes spansAt rcb : Word) (tag : BitVec 16) (rest : List ViewReq) (s : State), k < 4 →
     (s.stack k).colander.queue = .alloc core ctx seq wd bytes spansAt rcb tag :: rest →
     let c := (s.stack k).colander
     let pool := s.pool k tag.toNat
     let n := (bytes.toNat + 1023) / 1024
     let refuse (code : BitVec 3) : Prop := ∃ t : State, exec (.colanderAllocate k) s = .next t ∧
       t.answers = s.answers ++ [⟨core, ctx, seq, wd, { View.null with status := code }, none⟩] ∧
       (t.stack k).colander.queue = rest ∧ (t.stack k).colander.regions = c.regions
     (bytes = 0 ∨ 2 ^ 30 < bytes.toNat ∨ pool.2 = 0 → refuse 4) ∧
     (bytes ≠ 0 → bytes.toNat ≤ 2 ^ 30 → pool.2 ≠ 0 →
       (16384 ≤ c.regions.length ∨ 65536 ≤ c.views.length → refuse 5) ∧
       (c.regions.length < 16384 → c.views.length < 65536 →
         (lowestRun (c.used tag pool.1) pool.2 n = none → refuse 2) ∧
         (∀ a, lowestRun (c.used tag pool.1) pool.2 n = some a →
           (s.budget tag.toNat spansAt 2 < n → refuse 3) ∧
           (n ≤ s.budget tag.toNat spansAt 2 →
             ∃ t : State, ∃ (v : View) (r : CovRegion), exec (.colanderAllocate k) s = .next t ∧ t.answers = s.answers ++ [⟨core, ctx, seq, wd, v, none⟩] ∧
               (t.stack k).colander.queue = rest ∧ (t.stack k).colander.regions = r :: c.regions ∧ v.live = true ∧
               v.base = BitVec.ofNat 64 (pool.1 + 1024 * a) ∧ v.lo = 0 ∧ v.hi = BitVec.ofNat 32 (1024 * n) ∧
               (v.canR && v.canW && v.canA) = true ∧ r.id = v.region ∧ r.base = v.base ∧ r.spans = n ∧ r.tag = tag))))) ∧
  ((∀ (k core ctx seq : Nat) (wd ws : BitVec 3) (v : View) (cut : BitVec 32) (rest : List ViewReq) (s : State), k < 4 →
     (s.stack k).colander.queue = .split core ctx seq wd ws v cut :: rest →
     if 65536 ≤ (s.stack k).colander.views.length then
       ∃ t : State, exec (.colanderSplit k) s = .next t ∧
         t.answers = s.answers ++ [⟨core, ctx, seq, wd, { View.null with status := 5 }, some (ws, v)⟩]
     else ∃ t : State, ∃ h : BitVec 32, exec (.colanderSplit k) s = .next t ∧ (t.stack k).colander.queue = rest ∧
       t.answers = s.answers ++ [⟨core, ctx, seq, wd, { v with handle := h, lo := cut }, some (ws, { v with hi := cut })⟩] ∧
       (⟨h, v.region, cut, v.hi⟩ : CovView) ∈ (t.stack k).colander.views) ∧
   (∀ (k core ctx seq : Nat) (wd : BitVec 3) (v : View) (rest : List ViewReq) (s : State), k < 4 →
     (s.stack k).colander.queue = .share core ctx seq wd v :: rest →
     if 65536 ≤ (s.stack k).colander.views.length then
       ∃ t : State, exec (.colanderShare k) s = .next t ∧ t.answers = s.answers ++ [⟨core, ctx, seq, wd, { View.null with status := 5 }, none⟩]
     else ∃ t : State, ∃ h : BitVec 32, exec (.colanderShare k) s = .next t ∧ (t.stack k).colander.queue = rest ∧
       t.answers = s.answers ++ [⟨core, ctx, seq, wd, { v with handle := h }, none⟩] ∧
       (⟨h, v.region, v.lo, v.hi⟩ : CovView) ∈ (t.stack k).colander.views) ∧
   (∀ (k : Nat) (h : BitVec 32) (id : BitVec 24) (i : Option (BitVec 32 × BitVec 32)) (rest : List ViewReq) (s : State), k < 4 →
     (s.stack k).colander.queue = .notice h id i :: rest →
     ∃ t : State, exec (.colanderNotice k) s = .next t ∧ (t.stack k).colander.queue = rest ∧
       (t.stack k).colander.views = match i with
         | none => (s.stack k).colander.views.filter (·.handle != h)
         | some (lo, hi) => (s.stack k).colander.views.map fun x => if x.handle = h then { x with lo := lo, hi := hi } else x) ∧
   (∀ (a : ViewAnswer) (rest : List ViewAnswer) (s : State), s.answers = a :: rest →
     ((s.core a.core).ctx a.ctx).pends.any (·.seq == a.seq) = true → (s.core a.core).pairOf a.ctx = none →
     ∃ t : State, exec (.colanderAnswer 0) s = .next t ∧ t.answers = rest ∧ ((t.core a.core).ctx a.ctx).full (.w a.dest) = true ∧
       (a.back = none → ((t.core a.core).ctx a.ctx).readW a.dest = a.view) ∧
       ∀ w v, a.back = some (w, v) → ((t.core a.core).ctx a.ctx).readW w = v ∧ ((t.core a.core).ctx a.ctx).full (.w w) = true ∧
         (w ≠ a.dest → ((t.core a.core).ctx a.ctx).readW a.dest = a.view)) ∧
   (∀ (core k q : Nat) (st : Nat) (h : BitVec 32) (id : BitVec 24) (i : Option (BitVec 32 × BitVec 32)) (sc : Scope) (cv : List Cover)
       (vh : Option (BitVec 32)) (rest : List OutEntry) (s : State),
     coreIn core = true → (s.core core).outbox = ⟨.view st (.notice h id i), k, sc, cv, vh, q⟩ :: rest →
     (s.core core).pairOf k = none → cv.all (fun v => s.viewIdle core h id v.upTo) = true → (s.core core).noticeBefore h q = false → (s.core core).spill = [] →
     ∃ t : State, exec (.viewNoticeSend core) s = .next t ∧ (t.core core).outbox = rest ∧
       (t.stack st).colander.queue = (s.stack st).colander.queue ++ [.notice h id i]))

/-! ## Streams and repetition -/

/-- R238 and R239: a Step of an affine stream moves its indices on like the digits of a counter whose digits have its extents, an extent
of 0 acting as 1, adds one to its count, and sets DONE when a round is over; any number of Steps is as many single ones; and its
address is its base plus each index times its stride. R237 to R239: QCFG reads the 32 bytes its register names, waits for them, and
then sets its stream from them: an affine one to its first element, a skip list to its first kept step; QNEXT moves a stream by as
many Steps as its register says, and QRD reads one without moving it; both raise ILLEGAL on a stream that no QCFG has set, and QCFG
raises ALIGN at an address that is no multiple of 32. -/
def Obligations.AffineStreamsStep : Prop :=
  (∀ (s : State) (core : Nat) (b : Word) (e i : Vector (BitVec 16) 4) (st : Vector (BitVec 32) 4) (c : Nat) (d : Bool),
     (∀ k : Fin 4, (i.get k).toNat < max 1 (e.get k).toNat) →
     (∃ j : Vector (BitVec 16) 4,
       (∀ k, (j.get k).toNat = nextIndices (fun k => max 1 (e.get k).toNat) (fun k => (i.get k).toNat) k) ∧
       streamSteps s core 1 (.aff b e st i c d) = some (.aff b e st j (c + 1) (d || decide (∀ k, (j.get k).toNat = 0)))) ∧
     (∀ m n, (streamSteps s core m (.aff b e st i c d)).bind (streamSteps s core n) = streamSteps s core (m + n) (.aff b e st i c d)) ∧
     (Stream.aff b e st i c d).view 0 = some (b + (i.get 0).setWidth 64 * (st.get 0).signExtend 64 +
       (i.get 1).setWidth 64 * (st.get 1).signExtend 64 + (i.get 2).setWidth 64 * (st.get 2).signExtend 64 +
       (i.get 3).setWidth 64 * (st.get 3).signExtend 64)) ∧
  ((∀ (o : StreamW) (s : State), s.Clear { rep := true, srcs := [(.x o.ra, o.ea)] } →
     let va := s.ctx.readX o.ra
     (va.toNat % 32 ≠ 0 → ∀ i ∈ [Instr.qcfgAff o, .qcfgSkip o], ∃ t : State, exec i s = .next t ∧ s.faulted t ⟨.align, 0, va⟩) ∧
     (va.toNat % 32 = 0 → s.ctx.reads = [] → s.mayLoad 1 false .none (parts16 0 va 32) →
       ∀ i ∈ [Instr.qcfgAff o, .qcfgSkip o], ∃ t : State, ∃ p : Pend, exec i s = .next t ∧ t.ctx.pc = s.ctx.pc ∧ t.ctx.q = s.ctx.q ∧ t.ctx.x = s.ctx.x ∧
         t.mem = s.mem ∧ t.ctx.pends = s.ctx.pends ++ [p] ∧ p.pieces.map (fun q => (q.slot, q.va, q.len)) = parts16 0 va 32) ∧
     (∀ p, va.toNat % 32 = 0 → s.ctx.reads = [p] → p.poison = none → p.open_ = false →
       let field (off n : Nat) : Nat := p.gather / 256 ^ off % 256 ^ n
       let set (i : Instr) (q : Stream) : Prop := ∃ t : State, exec i s = .next t ∧ t.ctx.pc = s.ctx.pc + 4 ∧ t.ctx.readQ o.qd = q ∧
         (∀ j, j ≠ o.qd → t.ctx.readQ j = s.ctx.readQ j) ∧ t.ctx.x = s.ctx.x ∧ t.mem = s.mem
       set (.qcfgAff o) (.aff (BitVec.ofNat 64 (field 0 8))
         #v[BitVec.ofNat 16 (field 8 2), BitVec.ofNat 16 (field 10 2), BitVec.ofNat 16 (field 12 2), BitVec.ofNat 16 (field 14 2)]
         #v[BitVec.ofNat 32 (field 16 4), BitVec.ofNat 32 (field 20 4), BitVec.ofNat 32 (field 24 4), BitVec.ofNat 32 (field 28 4)]
         #v[0, 0, 0, 0] 0 false) ∧
       (∀ a k left, field 0 8 % 2 = 0 → field 0 8 < s.me.sysbase → skipSeek s s.cur.1 (field 0 8) (field 8 4) 0x4001 = some (a, k, left) →
         set (.qcfgSkip o) (.skip (field 0 8) (field 8 4) (a - field 0 8) (left.getD 0) k 0 left.isNone)))) ∧
   (∀ (o : StreamW) (s : State), s.Clear { rep := true, srcs := [(.x o.ra, o.ea)] } →
     (s.ctx.readQ o.qd = .off → ∃ t : State, exec (.qnext o) s = .next t ∧ s.faulted t ⟨.illegal, 0, 0⟩) ∧
     (∀ q, s.ctx.readQ o.qd ≠ .off → streamSteps s s.cur.1 (s.ctx.readX o.ra).toNat (s.ctx.readQ o.qd) = some q →
       exec (.qnext o) s = .next (s.past 0 (s.modCtx (·.writeQ o.qd q))))) ∧
   (∀ (o : StreamRd) (s : State), s.Clear { rep := true, dests := [.x o.rd] } →
     ((s.ctx.readQ o.qs).view o.sel.toNat = none → ∃ t : State, exec (.qrd o) s = .next t ∧ s.faulted t ⟨.illegal, 0, 0⟩) ∧
     (∀ v, (s.ctx.readQ o.qs).view o.sel.toNat = some v → exec (.qrd o) s = .next (s.wroteX o.rd v))))

/-- R240 and R241: REP takes the words after it, once the core's sequencer is free and the x registers they write are full, and its
context goes on behind them; a count of zero skips them; words that may not be captured raise ILLEGAL at the REP. REPX takes them
for as many passes as its count says, 0 for no limit, and ends too when a stream is done. R241 and R242: the sequencer issues the
captured word its context has come to, its fields raised by the pass's offset, in its own context and beside the context's own
words, whose PC stays; then it goes on to the next word, to the next pass, or ends, and gives the sequencer up. -/
def Obligations.Repetition : Prop :=
  (∀ (o : RepW) (s u : State) (ws : List Word32), s.Clear { rep := true, srcs := [(.x o.ra, o.ea), (.x o.rb, o.eb)] } →
     let len := o.len.toNat + 1
     let next := s.ctx.pc + BitVec.ofNat 64 (4 + 4 * len)
     let count := bits (s.ctx.readX o.ra) 31 0
     let ctl := s.ctx.readX o.rb
     let win := 2 ^ min 4 (bits ctl 27 24)
     let writes := sequenceRegs (·.dests) ws (ctl.setWidth 24) (if count = 0 then win else min win count)
     s.me.repOwner = none → s.capture (s.ctx.pc + 4) len [] = .inr (ws, u) →
     ∀ p ∈ [(Instr.rep o, false), (.repx o, true)],
       (mayCapture ws = false → ∃ t : State, exec p.1 s = .next t ∧ t.ctx.state = .frozen ∧ t.ctx.pc = s.ctx.faultPc ∧ t.ctx.rep = s.ctx.rep) ∧
       (mayCapture ws = true →
         (count = 0 → p.2 = false → ∃ t : State, exec p.1 s = .next t ∧ t.ctx.pc = next ∧ t.ctx.rep = s.ctx.rep ∧ t.ctx.x = s.ctx.x) ∧
         (count ≠ 0 ∨ p.2 = true → s.ctx.xfull &&& writes = writes →
           ∃ t : State, ∃ q : RepSeq, exec p.1 s = .next t ∧ t.ctx.pc = next ∧ t.ctx.x = s.ctx.x ∧ t.me.repOwner = some s.cur.2 ∧ t.ctx.rep = some q ∧
             q.words = ws ∧ q.count = count ∧ q.untilDone = p.2 ∧ q.pass = 0 ∧ q.index = 0 ∧ q.win = win ∧
             t.ctx.xfull = s.ctx.xfull &&& ~~~writes))) ∧
  (∀ (core k : Nat) (s u : State) (q : RepSeq) (i : Instr) (run : State → Host.Outcome State Fault Refusal), coreIn core = true →
     (s.core core).repOwner = some k → ((s.core core).ctx k).rep = some q → ((s.core core).ctx k).state = .running →
     (s.core core).halted = false → (s.core core).killing = none → (s.core core).ending = false →
     decodeCaptured (stagger q.stag q.index (q.pass % q.win) (q.words.getD q.index 0)) = .ok i → execCaptured i = some run →
     run { s.modCtxOf core k (·.inSequence q) with cur := (core, k) } = .next u → ((u.core core).ctx k).state = .running →
     ((u.core core).ctx k).pc ≠ q.at_ + BitVec.ofNat 64 (4 * q.index) →
     ∃ t : State, exec (.repWordIssue core) s = .next t ∧ ((t.core core).ctx k).pc = ((s.core core).ctx k).pc ∧
       ((t.core core).ctx k).v = ((u.core core).ctx k).v ∧ ((t.core core).ctx k).x = ((u.core core).ctx k).x ∧ t.mem = u.mem ∧
       (q.index + 1 < q.words.length →
         ∃ q', ((t.core core).ctx k).rep = some q' ∧ q'.index = q.index + 1 ∧ q'.pass = q.pass) ∧
       (q.words.length ≤ q.index + 1 → q.untilDone = false →
         (q.count = q.pass + 1 → ((t.core core).ctx k).rep = none ∧ (t.core core).repOwner = none) ∧
         (q.count ≠ q.pass + 1 → ∃ q', ((t.core core).ctx k).rep = some q' ∧ q'.index = 0 ∧ q'.pass = q.pass + 1)))

/-! ## Vectors -/

/-- R245 to R248: an integer word computes each active lane on its own from the same lanes of its sources, wrapped or, for VADDS and
VSUBS, saturated to the lane; VDOT adds four products to each wider lane of vd. R246, R249: a floating word computes each active
lane in the mode the context has for it, and raises the flags of every active lane. R156, R250: a special function leaves vd empty
and goes on; what will fill it is, lane by lane, the function of the active lanes in the context's mode, with the union of their
flags, which are not raised before. -/
def Obligations.VectorLanes : Prop :=
  ((∀ p ∈ ([(.vadd, fun _ a b => a + b), (.vsub, fun _ a b => a - b), (.vmul, fun _ a b => a * b),
       (.vmulh, fun z a b => BitVec.ofInt z (a.toInt * b.toInt / 2 ^ z)),
       (.vmin, fun _ a b => if a.toInt < b.toInt then a else b), (.vmax, fun _ a b => if a.toInt < b.toInt then b else a),
       (.vand, fun _ a b => a &&& b), (.vor, fun _ a b => a ||| b), (.vxor, fun _ a b => a ^^^ b),
       (.vsll, fun z a b => a <<< (b.toNat % z)), (.vsrl, fun z a b => a >>> (b.toNat % z)),
       (.vsra, fun z a b => a.sshiftRight (b.toNat % z)),
       (.vadds, fun z a b => BitVec.ofInt z (max (-2 ^ (z - 1)) (min (2 ^ (z - 1) - 1) (a.toInt + b.toInt)))),
       (.vsubs, fun z a b => BitVec.ofInt z (max (-2 ^ (z - 1)) (min (2 ^ (z - 1) - 1) (a.toInt - b.toInt))))] :
       List ((Vec2 → Instr) × ((z : Nat) → BitVec z → BitVec z → BitVec z))),
     ∀ (o : Vec2) (s : State), s.Clear (vec2Rule false false o) →
       let z := etBits o.et
       ∃ v : Vec, exec (p.1 o) s = .next (s.wroteV 1 o.vd v) ∧ ∀ i < 128 / z,
         laneOf v z i = s.maskedLane o.vd o.me o.msk o.pol z i (p.2 z (laneOf (s.ctx.readV o.va) z i) (laneOf (s.ctx.readV o.vb) z i))) ∧
   (∀ (o : Vec1) (s : State), s.Clear (vec1Rule false o) →
     let z := etBits o.et
     ∃ v : Vec, exec (.vabs o) s = .next (s.wroteV 1 o.vd v) ∧ ∀ i < 128 / z, laneOf v z i = s.maskedLane o.vd o.me o.msk o.pol z i
       (let a := laneOf (s.ctx.readV o.va) z i; if a.toInt < 0 then -a else a)) ∧
   (∀ (o : Vec2) (s : State), s.Clear (vec2Rule false true o) → etBits o.et ≤ 32 →
     let z := etBits o.et
     ∃ v : Vec, exec (.vdot o) s = .next (s.wroteV 1 o.vd v) ∧ ∀ i < 32 / z, laneOf v (4 * z) i = s.maskedLane o.vd o.me o.msk o.pol (4 * z) i
       (let prod (k : Nat) : Int := (laneOf (s.ctx.readV o.va) z (4 * i + k)).toInt * (laneOf (s.ctx.readV o.vb) z (4 * i + k)).toInt
        BitVec.ofInt (4 * z) ((laneOf (s.ctx.readV o.vd) (4 * z) i).toInt + prod 0 + prod 1 + prod 2 + prod 3)))) ∧
  ((∀ p ∈ ([(.vfadd, false, fun f m a b _ => fadd f m (fval f a) (fval f b)),
       (.vfsub, false, fun f m a b _ => fadd f m (fval f a) (negVal (fval f b))),
       (.vfmul, false, fun f m a b _ => fmul f m (fval f a) (fval f b)), (.vfdiv, false, fun f m a b _ => fdiv f m (fval f a) (fval f b)),
       (.vfmin, false, fun f _ a b _ => fminmax f false a b), (.vfmax, false, fun f _ a b _ => fminmax f true a b),
       (.vfma, true, fun f m a b c => ffma f m (fval f a) (fval f b) (fval f c))] :
       List ((Vec2 → Instr) × Bool × (Fmt → BitVec 3 → Nat → Nat → Nat → FOut))),
     ∀ (o : Vec2) (s : State), s.Clear (vec2Rule true p.2.1 o) →
       let z := etBits o.et
       let r (i : Nat) : FOut := p.2.2 (etFmt o.et) s.ctx.mode (laneOf (s.ctx.readV o.va) z i).toNat
         (laneOf (s.ctx.readV o.vb) z i).toNat (laneOf (s.ctx.readV o.vd) z i).toNat
       ∃ t : State, ∃ v : Vec, exec (p.1 o) s = .next t ∧ s.wroteLanes t o.vd o.me o.msk (128 / z) v r ∧
         ∀ i < 128 / z, laneOf v z i = s.maskedLane o.vd o.me o.msk o.pol z i (BitVec.ofNat z (r i).bits)) ∧
   (∀ (o : Vec1) (s : State), s.Clear (vec1Rule true o) →
     let z := etBits o.et
     let r (i : Nat) : FOut := fsqrt (etFmt o.et) s.ctx.mode (fval (etFmt o.et) (laneOf (s.ctx.readV o.va) z i).toNat)
     ∃ t : State, ∃ v : Vec, exec (.vfsqrt o) s = .next t ∧ s.wroteLanes t o.vd o.me o.msk (128 / z) v r ∧
       ∀ i < 128 / z, laneOf v z i = s.maskedLane o.vd o.me o.msk o.pol z i (BitVec.ofNat z (r i).bits))) ∧
  (∀ p ∈ ([(.vexp2, .exp2), (.vlog2, .log2), (.vrcp, .rcp), (.vrsq, .rsq), (.vsin, .sin), (.vcos, .cos)] : List ((Vec1 → Instr) × Special)),
     ∀ (o : Vec1) (s : State), s.Clear (vec1Rule true o) →
       let z := etBits o.et
       let r (i : Nat) : FOut := specialOut p.2 (etFmt o.et) s.ctx.mode (laneOf (s.ctx.readV o.va) z i).toNat
       ∃ t : State, ∃ (q : Pend) (v : BitVec 192) (fl : BitVec 5), exec (p.1 o) s = .next t ∧ t.ctx.pc = s.ctx.pc + 4 ∧ t.ctx.v = s.ctx.v ∧ t.ctx.x = s.ctx.x ∧
         t.ctx.fpflags = s.ctx.fpflags ∧ t.ctx.full (.v o.vd) = false ∧ (∀ n, n ≠ .v o.vd → t.ctx.full n = s.ctx.full n) ∧
         t.ctx.pends = s.ctx.pends ++ [q] ∧ q.dest = .v o.vd ∧ q.finish = .known v 0 fl ∧
         (∀ i < 128 / z, laneOf (v.setWidth 128) z i = s.maskedLane o.vd o.me o.msk o.pol z i (BitVec.ofNat z (r i).bits)) ∧
         ∀ k < 5, fl.getLsbD k = true ↔ ∃ i < 128 / z, (o.me = false ∨ (s.ctx.readV (o.msk.setWidth 4)).getLsbD i = true) ∧
           (r i).flags.getLsbD k = true)

/-- R255: the permutes move lanes and change none: VSHUF takes the lane its second source numbers, or zero beyond the last; VZIP
interleaves the low halves, VUZP takes the even lanes of both, VSLIDE a run across both, VINS one lane from a scalar, VSPLAT the
same scalar everywhere, and VEXT reads one lane into a scalar, extended as its type says. R94 and R256: a reduction leaves its
result in lane 0 and zero in every other. An integer one sums its active lanes modulo the lane, or takes their least or greatest,
the identity standing for a lane that is not active; a floating one combines them in the pairwise tree. R90, R257 to R259: VCVT
converts the lanes both types have and leaves zero in the rest, VPACK narrows with saturation, VUNPK widens by the sign, and VCBX
multiplies a codebook's level by the scales of its block. R261 and R262: a comparison gives one bit for each lane, false for a NaN
but under NE, and raises NV for a signalling NaN, or, where it orders, for any; the mask words work on registers as bit strings, and
count the mask's bits of the lanes there are. -/
def Obligations.VectorPermutesAndReductions : Prop :=
  ((∀ p ∈ ([(.vshuf, fun z a b i => if (laneOf b z i).toNat < 128 / z then laneOf a z (laneOf b z i).toNat else 0),
       (.vzip, fun z a b i => laneOf (if i % 2 = 0 then a else b) z (i / 2)),
       (.vuzp, fun z a b i => if i < 128 / z / 2 then laneOf a z (2 * i) else laneOf b z (2 * i - 128 / z))] :
       List ((Vec2 → Instr) × ((z : Nat) → Vec → Vec → Nat → BitVec z))),
     ∀ (o : Vec2) (s : State), s.Clear (vec2Rule false false o) →
       let z := etBits o.et
       ∃ v : Vec, exec (p.1 o) s = .next (s.wroteV 1 o.vd v) ∧ ∀ i < 128 / z,
         laneOf v z i = s.maskedLane o.vd o.me o.msk o.pol z i (p.2 z (s.ctx.readV o.va) (s.ctx.readV o.vb) i)) ∧
   (∀ (o : VecSlide) (s : State), s.Clear { rep := true, srcs := [(.v o.va, o.ea), (.v o.vb, o.eb)], dests := [.v o.vd] } →
     let z := etBits o.et
     ∃ v : Vec, exec (.vslide o) s = .next (s.wroteV 1 o.vd v) ∧ ∀ i < 128 / z, laneOf v z i =
       if i + o.k.toNat < 128 / z then laneOf (s.ctx.readV o.va) z (i + o.k.toNat)
       else laneOf (s.ctx.readV o.vb) z (i + o.k.toNat - 128 / z)) ∧
   (∀ (o : VecExt) (s : State), s.Clear { rep := true, srcs := [(.v o.va, o.ea)], dests := [.x (o.xd.setWidth 5)] } →
     let l := laneOf (s.ctx.readV o.va) (etBits o.et) o.lane.toNat
     exec (.vext o) s = .next (s.past 1 (s.modCtx (·.writeX (o.xd.setWidth 5) (if o.et.toNat < 4 then l.signExtend 64 else l.setWidth 64))))) ∧
   (∀ (o : VecIns) (s : State), s.Clear { rep := true, srcs := [(.x (o.xs.setWidth 5), o.ea), (.v o.vd, false)], dests := [.v o.vd] } →
     let z := etBits o.et
     ∃ v : Vec, exec (.vins o) s = .next (s.wroteV 1 o.vd v) ∧ ∀ i < 128 / z, laneOf v z i =
       if i = o.lane.toNat then (s.ctx.readX (o.xs.setWidth 5)).setWidth z else laneOf (s.ctx.readV o.vd) z i) ∧
   (∀ (o : VecSplat) (s : State), s.Clear (vsplatRule o) →
     let z := etBits o.et
     ∃ v : Vec, exec (.vsplat o) s = .next (s.wroteV 1 o.vd v) ∧ ∀ i < 128 / z, laneOf v z i =
       s.maskedLane o.vd o.me o.msk o.pol z i ((s.ctx.readX (o.xs.setWidth 5)).setWidth z))) ∧
  ((∀ p ∈ ([(.vredAdd, fun _ => 0, fun z l => (l.map fun a => a.toInt).sum % 2 ^ z),
       (.vredMin, fun z => 2 ^ (z - 1) - 1, fun z l => (l.map fun a => a.toInt).foldl min (2 ^ (z - 1) - 1)),
       (.vredMax, fun z => -2 ^ (z - 1), fun z l => (l.map fun a => a.toInt).foldl max (-2 ^ (z - 1)))] :
       List ((Vec1 → Instr) × (Nat → Int) × ((z : Nat) → List (BitVec z) → Int))),
     ∀ (o : Vec1) (s : State), s.Clear (vredRule o) → fmtOfEt o.et = none →
       let z := etBits o.et
       let pick : List (BitVec z) := (List.range (128 / z)).map fun i =>
         if o.me = false ∨ (s.ctx.readV (o.msk.setWidth 4)).getLsbD i = true then laneOf (s.ctx.readV o.va) z i else BitVec.ofInt z (p.2.1 z)
       exec (p.1 o) s = .next (s.wroteV 1 o.vd ((BitVec.ofInt z (p.2.2 z pick)).setWidth 128))) ∧
   (∀ p ∈ ([(.vredAdd, fun f => 2 ^ (fmtWidth f - 1), fun f m a b => (fadd f m (fval f a) (fval f b)).bits),
       (.vredMin, fun f => fmtInf f false, fun f _ a b => (fminmax f false a b).bits),
       (.vredMax, fun f => fmtInf f true, fun f _ a b => (fminmax f true a b).bits)] :
       List ((Vec1 → Instr) × (Fmt → Nat) × (Fmt → BitVec 3 → Nat → Nat → Nat))),
     ∀ (o : Vec1) (s : State) (f : Fmt), s.Clear (vredRule o) → fmtOfEt o.et = some f →
       let z := etBits o.et
       let l (i : Nat) : Nat := if o.me = false ∨ (s.ctx.readV (o.msk.setWidth 4)).getLsbD i = true then
         (laneOf (s.ctx.readV o.va) z i).toNat else p.2.1 f
       let g := p.2.2 f s.ctx.mode
       let r : Nat := if z = 64 then g (l 0) (l 1) else if z = 32 then g (g (l 0) (l 1)) (g (l 2) (l 3))
         else g (g (g (l 0) (l 1)) (g (l 2) (l 3))) (g (g (l 4) (l 5)) (g (l 6) (l 7)))
       ∃ t : State, exec (p.1 o) s = .next t ∧ t.ctx.readV o.vd = BitVec.ofNat 128 (r % 2 ^ z) ∧ t.ctx.pc = s.ctx.pc + 4 ∧
         Frame noneX (· == o.vd) true s t)) ∧
  ((∀ (o : VecCvt) (s : State), s.Clear (vcvtRule o) →
     let z := etBits o.et
     let code := o.src.setWidth 5
     let w := srcBits code
     let n := min (128 / z) (128 / w)
     let r (i : Nat) : FOut := toElem o.et s.ctx.mode (cvtInt code (laneOf (s.ctx.readV o.va) w i).toNat)
       (cvtSource code ((laneOf (s.ctx.readV o.va) w i).setWidth 64))
     ∃ t : State, ∃ v : Vec, exec (.vcvt o) s = .next t ∧ s.wroteLanes t o.vd o.me o.msk n v r ∧ ∀ i < 128 / z, laneOf v z i =
       if i < n then s.maskedLane o.vd o.me o.msk o.pol z i (BitVec.ofNat z (r i).bits) else 0) ∧
   (∀ (o : Vec2) (s : State), s.Clear (vec2Rule true false o) → etBits o.et ≤ 32 →
     let z := etBits o.et
     let n := 128 / z
     ∃ v : Vec, exec (.vpack o) s = .next (s.wroteV 1 o.vd v) ∧ ∀ i < n, laneOf v z i = s.maskedLane o.vd o.me o.msk o.pol z i
       (let w : BitVec (2 * z) := if i < n / 2 then laneOf (s.ctx.readV o.va) (2 * z) i else laneOf (s.ctx.readV o.vb) (2 * z) (i - n / 2)
        BitVec.ofInt z (max (-2 ^ (z - 1)) (min (2 ^ (z - 1) - 1) w.toInt)))) ∧
   (∀ (o : VecUnpk) (s : State), s.Clear (vunpkRule o) → 16 ≤ etBits o.et →
     let z := etBits o.et
     let n := 128 / z
     ∃ v : Vec, exec (.vunpk o) s = .next (s.wroteV 1 o.vd v) ∧ ∀ i < n, laneOf v z i = s.maskedLane o.vd o.me o.msk o.pol z i
       ((laneOf (s.ctx.readV o.va) (z / 2) (if o.half then n + i else i)).signExtend z)) ∧
   (∀ (o : Vec2) (s : State), s.Clear (vec2Rule true false o) →
     let z := etBits o.et
     let b := s.ctx.readV o.vb
     let book : List Byte := if b.getLsbD 64 then s.me.codebook.toList else Config.standardBook
     let q (i : Nat) : Int := (book.getD (laneOf (s.ctx.readV o.va) 4 i).toNat 0).toInt * ((b.extractLsb' 0 8).toNat : Int)
     let r (i : Nat) : FOut := toElem o.et s.ctx.mode (some (q i)) (scaled (q i) (fval .f32 (b.extractLsb' 32 32).toNat))
     ∃ t : State, ∃ v : Vec, exec (.vcbx o) s = .next t ∧ s.wroteLanes t o.vd o.me o.msk (128 / z) v r ∧ ∀ i < 128 / z, laneOf v z i =
       s.maskedLane o.vd o.me o.msk o.pol z i (BitVec.ofNat z (r i).bits))) ∧
  ((∀ p ∈ ([(.vcmpEq, false, fun x y => !isNaN x && !isNaN y && !ltVal x y && !ltVal y x, fun _ a b => decide (a = b)),
       (.vcmpNe, false, fun x y => isNaN x || isNaN y || ltVal x y || ltVal y x, fun _ a b => decide (a ≠ b)),
       (.vcmpLt, true, fun x y => !isNaN x && !isNaN y && ltVal x y, fun _ a b => decide (a.toInt < b.toInt)),
       (.vcmpLe, true, fun x y => !isNaN x && !isNaN y && !ltVal y x, fun _ a b => decide (a.toInt ≤ b.toInt)),
       (.vcmpLtu, true, fun x y => !isNaN x && !isNaN y && ltVal x y, fun _ a b => decide (a.toNat < b.toNat)),
       (.vcmpLeu, true, fun x y => !isNaN x && !isNaN y && !ltVal y x, fun _ a b => decide (a.toNat ≤ b.toNat))] :
       List ((Vec2 → Instr) × Bool × (FVal → FVal → Bool) × ((z : Nat) → BitVec z → BitVec z → Bool))),
     ∀ (o : Vec2) (s : State), s.Clear (vec2Rule false false o) →
       let z := etBits o.et
       let a (i : Nat) := laneOf (s.ctx.readV o.va) z i
       let b (i : Nat) := laneOf (s.ctx.readV o.vb) z i
       let res (i : Nat) : Bool × Bool := match fmtOfEt o.et with
         | none => (p.2.2.2 z (a i) (b i), false)
         | some f =>
           let x := fval f (a i).toNat
           let y := fval f (b i).toNat
           (p.2.2.1 x y, isSNaN x || isSNaN y || (p.2.1 && (isNaN x || isNaN y)))
       ∃ t : State, ∃ v : Vec, exec (p.1 o) s = .next t ∧
         s.wroteLanes t o.vd o.me o.msk (128 / z) v (fun i => ⟨0, if (res i).2 then 16 else 0, 0⟩) ∧
         ∀ i < 128, v.getLsbD i = (if i < 128 / z then
           (if o.me = false ∨ (s.ctx.readV (o.msk.setWidth 4)).getLsbD i = true then (res i).1
            else if o.pol then false else (s.ctx.readV o.vd).getLsbD i) else false)) ∧
   (∀ p ∈ ([(.vmand, fun a b => a &&& b), (.vmor, fun a b => a ||| b), (.vmxor, fun a b => a ^^^ b)] :
       List ((Mask2 → Instr) × (Vec → Vec → Vec))),
     ∀ (o : Mask2) (s : State), s.Clear { rep := true, srcs := [(.v o.va, o.ea), (.v o.vb, o.eb)], dests := [.v o.vd] } →
       exec (p.1 o) s = .next (s.wroteV 1 o.vd (p.2 (s.ctx.readV o.va) (s.ctx.readV o.vb)))) ∧
   (∀ (o : Mask1) (s : State), s.Clear { rep := true, srcs := [(.v o.va, o.ea)], dests := [.v o.vd] } →
     exec (.vmnot o) s = .next (s.wroteV 1 o.vd (~~~(s.ctx.readV o.va)))) ∧
   (∀ (o : MaskCount) (s : State), s.Clear { rep := true, srcs := [(.v o.va, o.ea)], dests := [.v o.vd] } →
     let n := 128 / etBits o.et
     exec (.vmcnt o) s = .next (s.wroteV 1 o.vd
       (BitVec.ofNat 128 ((List.range n).filter (s.ctx.readV o.va).getLsbD).length)) ∧
     exec (.vmfst o) s = .next (s.wroteV 1 o.vd
       (BitVec.ofNat 128 (((List.range n).find? (s.ctx.readV o.va).getLsbD).getD n)))))

/-- R251 to R254: a vector load reads the bytes of its active lanes, contiguous ones in one run from an address that is a multiple of
16, a gather's each from its own address, a broadcast's once; VLDF reads as the format of the page says. Its vd is empty until they
have arrived; a lane that is not active is not read. R252 and R253: a vector store puts the bytes of its active lanes, and no
others, into the store buffer, contiguous ones in one entry, a scatter's each in its own in rising order of lane; with no active
lane it ends without effect. R260: VBXQ and VCQ4 issue once every access to the 256 elements they read and to the block they write
passes its checks: the source's bytes are asked for, the block's writes stand behind them, VCQ4's vd is empty, and their context
issues nothing until the writes have entered the store buffer. REGISTER_FILL, when the bytes have come and the buffer has room, puts
there the bytes that the quantiser makes of them (R97, R99); it raises VBXQ's flags, and keeps VCQ4's counts and flags until its
last write has left. -/
def Obligations.VectorMemory : Prop :=
  ((∀ (o : VecMem) (s : State), s.Clear (vecMemRule true o) →
     let n := etBits o.et / 8
     let act := s.ctx.active o.me o.msk
     let ls := activeLanes act (etLanes o.et)
     let va := s.ctx.readX (o.xb.setWidth 5) + BitVec.ofInt 64 (o.off.toInt * 16)
     (ls = [] ∨ va.toNat % 16 = 0 → s.mayLoad n false (.v o.vd) (s.laneParts va n ls) →
       ∃ t : State, exec (.vld o) s = .next t ∧
         s.loaded t (.v o.vd) (.lanes (etBits o.et) act (s.ctx.oldV o.pol o.vd)) none (s.laneParts va n ls)) ∧
     (∀ i rest, ls = i :: rest → va.toNat % 16 ≠ 0 →
       ∃ t : State, exec (.vld o) s = .next t ∧ s.faulted t ⟨.align, 0, va + BitVec.ofNat 64 (i * n)⟩)) ∧
   (∀ (o : VecMem) (s : State), s.Clear (vecMemRule false o) →
     let n := etBits o.et / 8
     let act := s.ctx.active o.me o.msk
     let va := s.ctx.readX (o.xb.setWidth 5) + BitVec.ofInt 64 (o.off.toInt * n)
     let parts := if activeLanes act (etLanes o.et) = [] then [] else [(0, va, n)]
     s.mayLoad n false (.v o.vd) parts → ∃ t : State, exec (.vbcast o) s = .next t ∧
       s.loaded t (.v o.vd) (.splat (etBits o.et) act (s.ctx.oldV o.pol o.vd)) none parts) ∧
   (∀ (o : VecStream) (s : State) (q : Stream), s.Clear (vldqRule o) → s.ctx.readQ o.qn ≠ .off →
     streamSteps s s.cur.1 1 (s.ctx.readQ o.qn) = some q →
     let n := etBits o.et / 8
     let act := s.ctx.active o.me o.msk
     let ls := activeLanes act (etLanes o.et)
     let at_ : Word × State := match s.ctx.readQ o.qn with
       | .aff b _ st i _ _ => (affAddr b st i, s)
       | _ => s.free
     ls = [] ∨ at_.1.toNat % 16 = 0 → at_.2.mayLoad n false (.v o.vd) (at_.2.laneParts at_.1 n ls) →
     ∃ t : State, exec (.vldq o) s = .next t ∧ s.loaded t (.v o.vd) (.lanes (etBits o.et) act (s.ctx.oldV o.pol o.vd)) none
       (at_.2.laneParts at_.1 n ls) (s.ctx.q.set o.qn.toNat q o.qn.isLt)) ∧
   (∀ (o : Vec2) (s : State), s.Clear (vgathRule o) →
     let z := etBits o.et
     let act := s.ctx.active o.me o.msk
     let parts := (activeLanes act (128 / z)).map fun i => (i * (z / 8), s.ctx.readX (o.va.setWidth 5) +
       BitVec.ofInt 64 ((laneOf (s.ctx.readV o.vb) z i).toInt * (z / 8 : Nat)), z / 8)
     s.mayLoad (z / 8) false (.v o.vd) parts → ∃ t : State, exec (.vgath o) s = .next t ∧
       s.loaded t (.v o.vd) (.lanes z act (s.ctx.oldV o.pol o.vd)) none parts) ∧
   (∀ (o : Vec1) (s : State), s.Clear (vldfRule o) →
     let va := s.ctx.readX (o.va.setWidth 5)
     let act := s.ctx.active o.me o.msk
     let ls := activeLanes act (etLanes o.et)
     let old := s.ctx.oldV o.pol o.vd
     let raw : Prop := ∃ t : State, exec (.vldf o) s = .next t ∧
       s.loaded t (.v o.vd) (.lanes (etBits o.et) act old) none (s.laneParts va (etBits o.et / 8) ls)
     (ls = [] → s.mayLoad (etBits o.et / 8) false (.v o.vd) [] → raw) ∧
     (inWindows va = true → va.toNat % 16 = 0 → s.mayLoad (etBits o.et / 8) false (.v o.vd) (s.laneParts va (etBits o.et / 8) ls) → raw) ∧
     (∀ a u, inWindows va = false → ls ≠ [] → s.access s.cur.1 .load va 1 1 false = (.ok a, u) →
       fmtSuits (leafFmt a.leaf) (leafGeo a.leaf) = true →
       (leafFmt a.leaf = 0 → va.toNat % 16 = 0 →
         u.mayLoad (etBits o.et / 8) false (.v o.vd) (s.laneParts va (etBits o.et / 8) ls) → raw) ∧
       (∀ parts, leafFmt a.leaf ≠ 0 → u.vldfParts (leafFmt a.leaf) o.et va ls = .ok parts → u.mayLoad 1 false (.v o.vd) parts →
         ∃ t : State, exec (.vldf o) s = .next t ∧ s.loaded t (.v o.vd) (if fmtIsEt (leafFmt a.leaf) o.et then .lanes (etBits o.et) act old
           else .vldf (BitVec.ofNat 4 (leafFmt a.leaf)) o.et s.ctx.mode act old 0) none parts)))) ∧
  ((∀ (o : VecStore) (s : State), s.Clear (vstRule o) →
     let n := etBits o.et / 8
     let ls := activeLanes (s.ctx.active o.me o.msk) (etLanes o.et)
     let va := s.ctx.readX (o.xb.setWidth 5) + BitVec.ofInt 64 (o.off.toInt * 16)
     (ls = [] → exec (.vst o) s = .next (s.past 1 s)) ∧
     (∀ mask : BitVec 16, ls ≠ [] → va.toNat % 16 = 0 → (∀ b < 16, mask.getLsbD b = decide (b / n ∈ ls)) →
       s.mayStore 16 false false [(va, 16, mask, s.ctx.readV o.vd)] →
       ∃ t : State, exec (.vst o) s = .next t ∧ s.stored t none [(va, 16, mask, s.ctx.readV o.vd)]) ∧
     (∀ i rest, ls = i :: rest → va.toNat % 16 ≠ 0 →
       ∃ t : State, exec (.vst o) s = .next t ∧ s.faulted t ⟨.align, 0, va + BitVec.ofNat 64 (i * n)⟩)) ∧
   (∀ (o : VecStreamSt) (s : State) (q : Stream) (mask : BitVec 16), s.Clear (vstqRule o) → s.ctx.readQ o.qn ≠ .off →
     streamSteps s s.cur.1 1 (s.ctx.readQ o.qn) = some q →
     let n := etBits o.et / 8
     let ls := activeLanes (s.ctx.active o.me o.msk) (etLanes o.et)
     let at_ : Word × State := match s.ctx.readQ o.qn with
       | .aff b _ st i _ _ => (affAddr b st i, s)
       | _ => s.free
     (∀ b < 16, mask.getLsbD b = decide (b / n ∈ ls)) → ls ≠ [] → at_.1.toNat % 16 = 0 →
     at_.2.mayStore 16 false false [(at_.1, 16, mask, s.ctx.readV o.vd)] →
     ∃ t : State, exec (.vstq o) s = .next t ∧
       s.stored t none [(at_.1, 16, mask, s.ctx.readV o.vd)] (s.ctx.q.set o.qn.toNat q o.qn.isLt)) ∧
   (∀ (o : VecScatter) (s : State), s.Clear (vscatRule o) →
     let z := etBits o.et
     let parts := (activeLanes (s.ctx.active o.me o.msk) (128 / z)).map fun i => (s.ctx.readX (o.xb.setWidth 5) +
       BitVec.ofInt 64 ((laneOf (s.ctx.readV o.vi) z i).toInt * (z / 8 : Nat)), z / 8, firstBytes (z / 8),
       (laneOf (s.ctx.readV o.vd) z i).setWidth 128)
     s.mayStore (z / 8) true false parts → ∃ t : State, exec (.vscat o) s = .next t ∧ s.stored t none parts)) ∧
  ((∀ (i : Instr) (r : WordRule) (s u w : State) (xd xs : Word) (alD bytes size : Nat) (dest : Dest) (cq4 : Option (BitVec 3 × List Nat × Nat))
       (src : List (Nat × Word × Nat × (Acc ⊕ Nat))) (dst : List (Word × Nat × BitVec 16 × BitVec 128 × StoreWay)),
     (∃ o : BlockQ, i = .vbxq o ∧ r = vbxqRule o ∧ xd = s.ctx.readX (o.xd.setWidth 5) ∧ xs = s.ctx.readX (o.xs.setWidth 5) ∧ alD = 4 ∧
         bytes = 512 ∧ size = 516 ∧ dest = .none ∧ cq4 = none) ∨
       (∃ o : BlockC, i = .vcq4 o ∧ r = vcq4Rule o ∧ xd = s.ctx.readX (o.xd.setWidth 5) ∧ xs = s.ctx.readX (o.xs.setWidth 5) ∧ alD = 8 ∧
         bytes = 32 * etBits o.et ∧ size = 136 ∧ dest = .v o.vd ∧
         cq4 = some (o.et, (List.range 4).map (fun b => (laneOf (s.ctx.readV o.vd) 8 b).toNat), s.ctx.qlim)) →
     s.Clear r →
     (xs.toNat % 16 ≠ 0 → ∃ t : State, exec i s = .next t ∧ s.faulted t ⟨.align, 0, xs⟩) ∧
     (xs.toNat % 16 = 0 → xd.toNat % alD ≠ 0 → ∃ t : State, exec i s = .next t ∧ s.faulted t ⟨.align, 0, xd⟩) ∧
     (xs.toNat % 16 = 0 → xd.toNat % alD = 0 → s.loadChecks 1 false dest (parts16 0 xs bytes) [] = .inr (src, u) →
       u.storeChecks 1 true false dest (blockParts xd (List.replicate size 0)) [] = .inr (dst, w) →
       ∃ t : State, ∃ (p : Pend) (es : List Store), exec i s = .next t ∧ s.issued t ∧ t.me.stores = s.me.stores ∧
         (∀ n, t.ctx.full n = if n ∈ dest.regs then false else s.ctx.full n) ∧ t.me.entering s.cur.2 = true ∧
         t.ctx.pends = s.ctx.pends ++ [p] ∧ p.dest = dest ∧ p.finish = .block cq4 es ∧
         p.pieces.map (fun q => (q.slot, q.va, q.len)) = parts16 0 xs bytes ∧
         es.map (fun e => (e.va, e.len, e.mask)) = (blockParts xd (List.replicate size 0)).map fun q => (q.1, q.2.1, q.2.2.1))) ∧
   (∀ (core x k : Nat) (s : State) (p : Pend) (cq4 : Option (BitVec 3 × List Nat × Nat)) (es : List Store), coreIn core = true → x < 11 →
     ((s.core core).ctx x).pends[k]? = some p → p.pieces.all (fun q => q.value.isSome) = true → p.isRead = false → p.poison = none →
     p.finish = .block cq4 es → (s.core core).stores.length < 16 → (s.core core).pairOf x = none →
     let im := blockImage cq4 p.gather
     let bytes (l : List Store) : List (Word × Nat × BitVec 16 × BitVec 128) := l.map fun e => (e.va, e.len, e.mask, e.data)
     ∃ t : State, exec (.registerFill core x k) s = .next t ∧ t.mem = s.mem ∧
       bytes (t.core core).stores = bytes (s.core core).stores ++ bytes (fillStores es im.1) ∧
       (cq4 = none → ((t.core core).ctx x).fpflags = ((s.core core).ctx x).fpflags ||| im.2.2.setWidth 64 ∧
         ((t.core core).ctx x).pends = ((s.core core).ctx x).pends.filter (·.seq != p.seq)) ∧
       (cq4 ≠ none → ((t.core core).ctx x).fpflags = ((s.core core).ctx x).fpflags ∧
         (∀ n, ((t.core core).ctx x).full n = ((s.core core).ctx x).full n) ∧
         ∃ r ∈ ((t.core core).ctx x).pends, r.dest = p.dest ∧ ∃ v, r.finish = .known v 0 im.2.2 ∧
           ∀ i < 4, laneOf (v.setWidth 128) 8 i = BitVec.ofNat 8 (im.2.1.getD i 0))))

/-! ## Matrix and residues -/

/-- R101, R103 and R105: residue arithmetic is exact. Two residue words of integers, added, subtracted or multiplied channel by channel,
decode to the exact sum, difference or product whenever it lies in the range of the information moduli. -/
def Obligations.ResidueArithmeticIsExact : Prop :=
  ∀ (x y : Int), (∀ op ∈ ([(· + ·), (· - ·), (· * ·)] : List (Int → Int → Int)),
    -544387186560 ≤ op x y → op x y < 544387186560 →
      decodeFull (rnArith op (residues x) (residues y)) = .good (op x y)) ∧
    ∀ i < 7, residue (residues x) i = (x % modulus i).toNat

/-- R105 and R106: a word of an integer in range of which one channel's field has changed to anything else decodes as corrected in that
channel, to the integer. -/
def Obligations.SingleChannelErrorsAreCorrected : Prop :=
  ∀ (x : Int) (i r w : Nat), -544387186560 ≤ x → x < 544387186560 → i < 7 → residue w i = r → r ≠ (x % modulus i).toNat →
    (∀ j < 7, j ≠ i → residue w j = (x % modulus j).toNat) → w < 2 ^ 61 → decodeFull w = .corrected i x

/-- R103, R277 and R278: RNFWD sets each field to its source modulo that channel's modulus; the arithmetic words work on each channel
modulo its modulus, a field at or above which makes the result's field all ones; RNCHK says how a word decodes; RNREV leaves its
register empty, to be filled with the integer, or, when the word does not decode, reports it at the next issue. R102, R263 to R265:
a word on a BUSY tile waits. MZERO makes its tile invalid, so that it reads as never written; AWR writes one word of it and, but for
the state word, makes it valid: an element without its reserved bits, a reserved index changing nothing; ARD leaves its register
empty, to be filled with a word of the tile; ACHK gives 0 for an invalid tile, else the number of words corrected where every word
decodes, and raises the fault of the first that does not. R275 and R276: ACFG names a core of its cluster and waits until the change
has taken effect there, which it does once no tile of that core is BUSY; then it gives the old configuration. CBLD waits for its
sixteen bytes and makes them the alternate codebook. -/
def Obligations.TilesAndConfiguration : Prop :=
  ((∀ (o : Fp1) (s : State), s.Clear (rnfwdRule o) →
     ∃ v, exec (.rnfwd o) s = .next (s.wroteX o.rd v) ∧ ∀ i < 7, residue v.toNat i =
       (((s.ctx.readX o.ra).setWidth (szBits o.sz)).toInt % modulus i).toNat) ∧
   (∀ p ∈ ([(.rnadd, fun a b => a + b), (.rnsub, fun a b => a - b), (.rnmul, fun a b => a * b)] : List ((Reg2 → Instr) × (Int → Int → Int))),
     ∀ (o : Reg2) (s : State), s.Clear { reg2Rule o with rep := true, noHint := true } →
       let a (i : Nat) : Nat := residue (s.ctx.readX o.ra).toNat i
       let b (i : Nat) : Nat := residue (s.ctx.readX o.rb).toNat i
       ∃ v, exec (p.1 o) s = .next (s.wroteX o.rd v) ∧ ∀ i < 7, residue v.toNat i =
         if a i < modulus i ∧ b i < modulus i then (p.2 (a i) (b i) % modulus i).toNat else 2 ^ (rnField i).2 - 1) ∧
   (∀ (o : Reg1) (s : State), s.Clear { reg1Rule o with rep := true, noHint := true } →
     exec (.rnchk o) s = .next (s.wroteX o.rd (match s.me.decode (s.ctx.readX o.ra) with
       | .good _ => 0
       | .corrected i _ => BitVec.ofNat 64 (4 * 2 ^ i + 1)
       | .overflow _ => 2
       | .mismatch m => BitVec.ofNat 64 (4 * m.toNat + 3)))) ∧
   (∀ (o : Reg1) (s : State), s.Clear { reg1Rule o with rep := true, noHint := true } →
     ∃ t : State, exec (.rnrev o) s = .next t ∧ t.ctx.pc = s.ctx.pc + 4 ∧ t.ctx.x = s.ctx.x ∧ (o.rd ≠ 0 → t.ctx.full (.x o.rd) = false) ∧
       (∀ x, s.me.decode (s.ctx.readX o.ra) = .good x → ∃ p : Pend, t.ctx.pends = s.ctx.pends ++ [p] ∧ p.dest = destX o.rd ∧
         p.finish = .known (BitVec.ofInt 192 x) 0 0 ∧ t.ctx.deferred = [] ∧ t.me.packets = s.me.packets) ∧
       (∀ i x, s.me.decode (s.ctx.readX o.ra) = .corrected i x → ∃ p : Pend, t.ctx.pends = s.ctx.pends ++ [p] ∧ p.dest = destX o.rd ∧
         p.finish = .known (BitVec.ofInt 192 x) 0 0 ∧ t.ctx.deferred = [] ∧ t.me.packets.length = s.me.packets.length + 1) ∧
       (∀ x, s.me.decode (s.ctx.readX o.ra) = .overflow x → t.ctx.pends = s.ctx.pends ∧
         ∃ d, t.ctx.deferred = [⟨⟨.rnsOverflow, d, 0⟩, s.ctx.pc⟩]) ∧
       (∀ m, s.me.decode (s.ctx.readX o.ra) = .mismatch m → t.ctx.pends = s.ctx.pends ∧
         ∃ d, t.ctx.deferred = [⟨⟨.residueMismatch, d, 0⟩, s.ctx.pc⟩]))) ∧
  ((∀ (t : Tile) (i : Nat) (v : Word), (i < 128 → t.read i = if t.valid then t.word.getD i 0 else 0) ∧
     (i < 128 → (t.write i v).read i = v &&& 0x1FFFFFFFFFFFFFFF ∧ (t.write i v).valid = true) ∧
     (128 < i → i < 135 → (t.write i v).read i = v ∧ (t.write i v).valid = true) ∧ (135 ≤ i → t.write i v = t ∧ t.read i = 0)) ∧
   (∀ (acc : BitVec 3) (r : AccRead) (w : AccWrite) (c : AccCheck) (s : State), r.acc = acc → w.acc = acc → c.acc = acc →
     let t := s.me.tile acc.toNat
     (t.busy = true → ∀ p ∈ [(Instr.mzero acc, mzeroRule), (.ard r, ardRule r), (.awr w, awrRule w), (.achk c, achkRule c)],
       s.Clear p.2 → exec p.1 s = .next s) ∧
     (t.busy = false →
       (s.Clear mzeroRule → ∃ u : State, exec (.mzero acc) s = .next u ∧ u.ctx.pc = s.ctx.pc + 4 ∧ u.ctx.x = s.ctx.x ∧ u.mem = s.mem ∧
         u.me.tile acc.toNat = ({ t with valid := false, ksteps := 0 }) ∧ ∀ j < 8, j ≠ acc.toNat → u.me.tile j = s.me.tile j) ∧
       (s.Clear (awrRule w) → ∃ u : State, exec (.awr w) s = .next u ∧ u.ctx.pc = s.ctx.pc + 4 ∧ u.ctx.x = s.ctx.x ∧ u.mem = s.mem ∧
         u.me.tile acc.toNat = t.write (bits (s.ctx.readX w.ri) 7 0) (s.ctx.readX w.rs) ∧
         ∀ j < 8, j ≠ acc.toNat → u.me.tile j = s.me.tile j) ∧
       (s.Clear (ardRule r) → ∃ u : State, ∃ p : Pend, exec (.ard r) s = .next u ∧ u.ctx.pc = s.ctx.pc + 4 ∧ u.ctx.x = s.ctx.x ∧ u.me.tiles = s.me.tiles ∧
         (r.rd ≠ 0 → u.ctx.full (.x r.rd) = false) ∧ u.ctx.pends = s.ctx.pends ++ [p] ∧ p.dest = destX r.rd ∧
         p.finish = .known ((t.read (bits (s.ctx.readX r.ri) 7 0)).setWidth 192) 0 0) ∧
       (s.Clear (achkRule c) →
         (t.valid = false ∨ (∀ e < 128, ∃ x, s.me.decode (t.read e) = .good x) → exec (.achk c) s = .next (s.wroteX c.rd 0)) ∧
         (t.valid = true → (∀ e < 128, (∃ x, s.me.decode (t.read e) = .good x) ∨ ∃ i x, s.me.decode (t.read e) = .corrected i x) →
           ∃ u : State, exec (.achk c) s = .next u ∧ u.ctx.pc = s.ctx.pc + 4 ∧ (c.rd ≠ 0 → u.ctx.readX c.rd =
             BitVec.ofNat 64 ((List.range 128).filter fun e => (match s.me.decode (t.read e) with | .corrected _ _ => true | _ => false)).length)) ∧
         (∀ e m, t.valid = true → e < 128 → (∀ j < e, ∃ x, s.me.decode (t.read j) = .good x) → s.me.decode (t.read e) = .mismatch m →
           ∃ u : State, ∃ d, exec (.achk c) s = .next u ∧ s.faulted u ⟨.residueMismatch, d, 0⟩) ∧
         (∀ e x, t.valid = true → e < 128 → (∀ j < e, ∃ x, s.me.decode (t.read j) = .good x) → s.me.decode (t.read e) = .overflow x →
           ∃ u : State, ∃ d, exec (.achk c) s = .next u ∧ s.faulted u ⟨.rnsOverflow, d, 0⟩))))) ∧
  ((∀ (o : AccCfg) (s : State), s.Clear (acfgRule o) →
     let n := (s.ctx.readX o.rcore).toNat
     let v := s.ctx.readX o.rval
     (Config.workers ≤ n ∨ clusterOf n ≠ clusterOf s.cur.1 →
       ∃ t : State, exec (.acfg o) s = .next t ∧ s.faulted t ⟨.windowBounds, 0, 0⟩) ∧
     (n < Config.workers → clusterOf n = clusterOf s.cur.1 → (v.getLsbD 3 && bits v 2 0 == 7) = false →
       ((s.core n).acfgWait = none → ∃ t : State, ∃ w : AcfgWait, exec (.acfg o) s = .next t ∧ t.ctx.pc = s.ctx.pc ∧ (t.core n).acfgWait = some w ∧
         w.deg = v.getLsbD 3 ∧ w.fch = v.setWidth 3 ∧ w.old = none ∧ (t.core n).acfgDeg = (s.core n).acfgDeg) ∧
       (∀ w old, (s.core n).acfgWait = some w → w.keeper = s.cur.1 → w.ctx = s.cur.2 → w.old = some old →
         ∃ t : State, exec (.acfg o) s = .next t ∧ t.ctx.pc = s.ctx.pc + 4 ∧ (t.core n).acfgWait = none ∧
           ∀ i, t.ctx.readX i = if i = 0 then 0 else if i = o.rold then old else s.ctx.readX i))) ∧
   (∀ (core : Nat) (s : State) (w : AcfgWait), coreIn core = true → (s.core core).acfgWait = some w → w.old = none →
     ((s.core core).tiles.toList.any (·.busy) = true → exec (.acfgApply core) s = .next s) ∧
     ((s.core core).tiles.toList.any (·.busy) = false → ∃ t : State, exec (.acfgApply core) s = .next t ∧ (t.core core).acfgDeg = w.deg ∧
       (t.core core).acfgFch = w.fch ∧ (t.core core).acfgWait = some { w with
         old := some (BitVec.ofNat 64 ((if (s.core core).acfgDeg then 8 else 0) + (s.core core).acfgFch.toNat)) })) ∧
   (∀ (ra : BitVec 5) (s : State) (p : Pend), s.Clear (cbldRule ra) → (s.ctx.readX ra).toNat % 16 = 0 → s.ctx.reads = [p] →
     p.poison = none → p.open_ = false →
     ∃ t : State, exec (.cbld ra) s = .next t ∧ t.ctx.pc = s.ctx.pc + 4 ∧ t.ctx.x = s.ctx.x ∧ t.mem = s.mem ∧
       ∀ i : Fin 16, t.me.codebook.get i = BitVec.ofNat 8 (p.gather / 256 ^ i.val)))

/-- R238, R266 to R271: MMAS whose descriptor passes its checks adds, to every element of its tile and in each channel, the sum of the
products of A and B over its K-steps, all those it spans or the ones its skip stream keeps, starting from zero unless it accumulates
into a valid tile; the tile is valid and BUSY until the operation is done, and the stream stands past the span. R267 to R269: MGANG
whose descriptor passes its checks arrives at the barrier of its cluster row and waits there, in RUNNING; it retires once its
operation has started, and with its timer run out it withdraws and raises GANG_TIMEOUT with its mask. A gang of which a member has
not arrived does not start; one that has arrived whole, with every array free, no bank that changes and no throttle, starts at once,
and each member's tile adds the products of the leader's A and its own B. R272 and R273: MDRAIN whose rows lie in the core's own
local store holds its tile and waits until the drain is complete; that stores every element in its row and writes no other byte: as
an integer, exact or saturated, or times its scale, rounded step by step to its format, or, for F32A, added to what was there; the
word then retires with the drain's flags, or raises the fault of the first element that does not decode. -/
def Obligations.GangOperations : Prop :=
  ((∀ (o : GangOne) (s : State) (p : Pend) (steps : List Nat) (q : Stream), s.Clear (mmasRule o) → s.budgetFault = none →
     s.descFault (s.ctx.readX o.ra) = none → s.ctx.reads = [p] → p.poison = none → p.open_ = false → s.gangFault true p.gather = none →
     s.arrayFree s.cur.1 (gangTileNo o.acc p.gather) = true →
     let d := p.gather
     let t := s.me.tile (gangTileNo o.acc d)
     let fresh := !(gdAcc d && t.valid)
     (if gdSkip d then keptSteps s s.cur.1 (gdKOff d) (gdK d) (2 ^ 17) (s.ctx.readQ (gdQs d)) [] else some (span (gdKOff d) (gdK d), q)) =
       some (steps, q) →
     ∃ u : State, exec (.mmas o) s = .next u ∧ u.ctx.pc = s.ctx.pc + 4 ∧ u.ctx.x = s.ctx.x ∧ u.mem = s.mem ∧
       (gdSkip d = true → u.ctx.readQ (gdQs d) = q) ∧
       (let t' := u.me.tile (gangTileNo o.acc d)
        t'.valid = true ∧ t'.busy = true ∧
         t'.ksteps = BitVec.ofNat 16 (min 65535 ((if fresh then 0 else t.ksteps.toNat) + steps.length)) ∧
         (steps ≠ [] → ∀ e < 128, ∀ i < 7, residue (t'.word.getD e 0).toNat i =
           ((((if fresh then 0 else residue (t.word.getD e 0).toNat i : Nat) : Int) +
             (((s.aRow s.cur.1 [s.cur.1] d (e / 8) steps).zip (s.bCol s.cur.1 d (e % 8) steps)).map fun p => p.1 * p.2).sum) %
               (modulus i : Int)).toNat) ∧
         (steps = [] → ∀ e < 128, t'.word.getD e 0 = if fresh then 0 else t.word.getD e 0)) ∧
       (∀ j < 8, j ≠ gangTileNo o.acc d → u.me.tile j = s.me.tile j) ∧
       u.gangOps = s.gangOps ++ [⟨[(s.cur.1, gangTileNo o.acc d)], steps.length⟩]) ∧
   (∀ (g : GangOp) (rest : List GangOp) (s : State), s.gangOps = g :: rest →
     ∃ u : State, exec (.gangOperationDone 0) s = .next u ∧ u.gangOps = rest ∧
       (∀ m ∈ g.members, ((u.core m.1).tile m.2).busy = false) ∧ u.mem = s.mem)) ∧
  ((∀ (o : Gang) (s : State) (p : Pend), s.Clear (mgangRule o) → s.ctx.arrival = none → s.budgetFault = none →
     s.descFault (s.ctx.readX o.ra) = none → s.ctx.reads = [p] → p.poison = none → p.open_ = false → s.gangFault false p.gather = none →
     let mask := (s.ctx.readX o.rb).setWidth 8
     (mask.getLsbD (coreX s.cur.1 % 8) = false → ∃ t : State, exec (.mgang o) s = .next t ∧ t.ctx.state = .frozen ∧ t.ctx.arrival = none) ∧
     (mask.getLsbD (coreX s.cur.1 % 8) = true → isKeeper s.cur.1 = false → (gangCores s.cur.1 mask).all s.inPound = true →
       s.me.atBarrier = none → ∃ t : State, ∃ a : Arrival, exec (.mgang o) s = .next t ∧ t.ctx.pc = s.ctx.pc ∧ t.ctx.state = s.ctx.state ∧
         t.ctx.x = s.ctx.x ∧ t.ctx.arrival = some a ∧ a.mask = mask ∧ a.acc = o.acc ∧ a.desc = p.gather ∧ a.phase = .waiting ∧
         a.left = s.ctx.region.wdog)) ∧
   (∀ (o : Gang) (s : State) (a : Arrival), s.Clear (mgangRule o) → s.ctx.arrival = some a →
     (a.phase = .waiting → exec (.mgang o) s = .next s) ∧
     (a.phase = .started → ∃ t : State, exec (.mgang o) s = .next t ∧ t.ctx.pc = s.ctx.pc + 4 ∧ t.ctx.arrival = none ∧ t.ctx.x = s.ctx.x) ∧
     (∀ f, a.phase = .failed f → ∃ t : State, exec (.mgang o) s = .next t ∧ s.faulted t f ∧ t.ctx.arrival = none)) ∧
   (∀ (core k : Nat) (a : Arrival) (s : State), coreIn core = true → (s.core core).atBarrier = some (k, a) →
     (a.left ≠ 0 → exec (.gangTimeout core) s = .next s) ∧
     (a.left = 0 → ((s.core core).ctx k).rep = none → ((s.core core).ctx k).stepping = false →
       ∃ t : State, exec (.gangTimeout core) s = .next t ∧ ((t.core core).ctx k).state = .frozen ∧ ((t.core core).ctx k).arrival = none ∧
         (t.core core).packets.length = (s.core core).packets.length + 1)) ∧
   (∀ (core : Nat) (who : Nat → Nat × Arrival) (s : State), core < Config.workers → (s.core core).atBarrier = some (who core) →
     let a := (who core).2
     let cores := gangCores core a.mask
     (∀ n ∈ cores, (s.core n).atBarrier = none → exec (.gangStart core) s = .next s) ∧
     (cores.head? = some core → (∀ n ∈ cores, (s.core n).atBarrier = some (who n) ∧ (who n).2.mask = a.mask ∧
         s.arrayFree n (gangTileNo (who n).2.acc a.desc) = true ∧ ((s.core n).ctx (who n).1).rep = none ∧
         ((s.core n).ctx (who n).1).stepping = false) →
       (s.stack (stackOf core)).throttled = false → gdSkip a.desc = false →
       (gdARuns a.desc).any (fun r => (s.aBanks r).any (·.busy.isSome)) = false →
       (gdARuns a.desc).all (fun r => (s.aBanks r).all Bank.givesA) = true →
       let steps := span (gdKOff a.desc) (gdK a.desc)
       let tileNo (n : Nat) : Nat := gangTileNo (who n).2.acc a.desc
       ∃ t : State, exec (.gangStart core) s = .next t ∧ t.gangOps = s.gangOps ++ [⟨cores.map fun n => (n, tileNo n), gdK a.desc⟩] ∧
         ∀ n ∈ cores, ((t.core n).ctx (who n).1).pc = ((s.core n).ctx (who n).1).pc + 4 ∧ ((t.core n).ctx (who n).1).arrival = none ∧
           ((t.core n).tile (tileNo n)).busy = true ∧ ((t.core n).tile (tileNo n)).valid = true ∧
           (steps ≠ [] → ∀ e < 128, ∀ i < 7, residue (((t.core n).tile (tileNo n)).word.getD e 0).toNat i =
             ((((if gdAcc a.desc && ((s.core n).tile (tileNo n)).valid then
                   residue (((s.core n).tile (tileNo n)).word.getD e 0).toNat i else 0 : Nat) : Int) +
               (((s.aRow core cores a.desc (e / 8) steps).zip (s.bCol n a.desc (e % 8) steps)).map fun p => p.1 * p.2).sum) %
                 (modulus i : Int)).toNat)))) ∧
  ((∀ p ∈ ([(.mdrainI64, .i64), (.mdrainI32s, .i32s), (.mdrainF32, .f32), (.mdrainF32a, .f32a), (.mdrainBf16, .bf16)] :
       List ((Drain → Instr) × DrainKind)),
     ∀ (o : Drain) (s : State), s.Clear (drainRule o) →
       let n := p.2.bytes
       let va := s.ctx.readX o.ra
       let pitch := (s.ctx.readX o.rb).toNat
       (∀ off, s.me.drain = none → (s.me.tile o.acc.toNat).busy = false → s.me.stores.any (·.ctx == s.cur.2) = false → va.toNat % n = 0 → pitch % n = 0 →
         ownOffset s.cur.1 va = some off → off + 15 * pitch + 8 * n ≤ Config.lsSize → off + 15 * pitch + 8 * n ≤ s.me.sysbase →
         ∃ t : State, exec (p.1 o) s = .next t ∧ t.ctx.pc = s.ctx.pc ∧ t.mem = s.mem ∧ (t.me.tile o.acc.toNat).busy = true ∧
           t.me.drain = some ⟨s.cur.2, s.ctx.since, s.ctx.pc, o.acc.toNat, p.2, off, pitch,
             if o.rc = 0 then 0x3F800000 else (s.ctx.readX o.rc).setWidth 32, o.sat, .busy⟩) ∧
       (∀ j fl, s.me.drain = some j → j.mine s = true → j.phase = .done fl →
         ∃ t : State, exec (p.1 o) s = .next t ∧ t.ctx.pc = s.ctx.pc + 4 ∧ t.ctx.x = s.ctx.x ∧ t.mem = s.mem ∧ t.me.drain = none ∧
           t.ctx.fpflags = s.ctx.fpflags ||| fl.setWidth 64) ∧
       (∀ j f, s.me.drain = some j → j.mine s = true → j.phase = .failed f →
         ∃ t : State, exec (p.1 o) s = .next t ∧ s.faulted t f ∧ t.me.drain = none)) ∧
   (∀ (core : Nat) (s : State) (j : DrainJob) (x : Nat → Int), coreIn core = true → (s.core core).drain = some j → j.phase = .busy →
     j.tile < 8 → ((s.core core).ctx j.ctx).since = j.since → 8 * j.kind.bytes ≤ j.pitch →
     let t := (s.core core).tile j.tile
     let at_ (e : Nat) : Nat := lsKey core (j.base + e / 8 * j.pitch + e % 8 * j.kind.bytes)
     (∀ e < 128, (∃ i, (s.core core).decode (t.read e) = .good (x e) ∨ (s.core core).decode (t.read e) = .corrected i (x e)) ∨
       (j.sat = true ∧ (s.core core).decode (t.read e) = .overflow (x e))) →
     ∃ u : State, exec (.drainComplete core) s = .next u ∧ ((u.core core).tile j.tile).busy = false ∧
       (∀ e < 128, readMem u.mem (at_ e) j.kind.bytes =
         (let scale := fval .f32 (drainScale t.shown (e / 8) (e % 8) j.scale).bits
          let scaledVal := (fmul .f32 0 (fval .f32 (roundVal .f32 0 (intVal (x e))).bits) scale).bits
          match j.kind with
          | .i64 => (BitVec.ofInt 64 (x e)).toNat
          | .i32s => (BitVec.ofInt 32 (max (-2147483648) (min 2147483647 (x e)))).toNat
          | .f32 => scaledVal
          | .f32a => (fadd .f32 0 (fval .f32 (readMem s.mem (at_ e) 4)) (fval .f32 scaledVal)).bits
          | .bf16 => (roundVal .bf16 0 (fval .f32 scaledVal)).bits)) ∧
       (∀ a, (∀ e < 128, a < at_ e ∨ at_ e + j.kind.bytes ≤ a) → readByte u.mem a = readByte s.mem a)))

/-! ## Copy engines and weirs -/

/-- R279, R282 and R283: CPY, CPYA, CPYW and CPYG whose records have been read and pass their checks, and whose outbox has room, hand
one command to the engine of their cluster and go on; without room they raise OUTBOX_OVERFLOW at issue. R274: MDRAINC of a tile
whose words all decode hands its values, each times its scale, to the engine in one command and goes on; a record of RANK 1 or of
RAW raises ILLEGAL, a word that does not decode its fault. R279, R281 and R283: an engine that is idle takes its oldest command
unless its stack is throttled. A copy of bytes all of which pass their checks asks the homes and targets of its sources for them;
between windows it makes every write at once, each destination byte its source's, and no other byte changes; to DRAM it sends each
as a request. A command that has come to its end is marked so, and ends once its writes have all been made; one that stopped sends a
packet to the issuing core's keeper, and its weir what it left unwritten. CPYW writes weight bytes, and only those. -/
def Obligations.CopyEngines : Prop :=
  ((∀ p ∈ ([(.cpy, .cpy), (.cpya, .cpya)] : List ((CopyW → Instr) × EngOp)),
     ∀ (o : CopyW) (s : State) (a b : Pend), s.Clear (copyRule o) → s.budgetFault = none → s.haveRead [a, b] →
       s.descFault (s.ctx.readX o.ra) = none → s.descFault (s.ctx.readX o.rb) = none →
       (∀ x ∈ [a, b], ∀ w, tsrReg x.gather = some w → s.ctx.full (.w w) = true) →
       let dst (f : Nat) : Tsr := tsrOf s.ctx f a.gather
       let src (f : Nat) : Tsr := tsrOf s.ctx f b.gather
       let weir := s.ctx.readX o.weir
       s.tsrFault s.cur.1 (dst 0) (if p.2.adds then [.w, .a] else [.w]) = none → s.tsrFault s.cur.1 (src 0) [.r] = none →
       (fmtsSuit p.2.adds (dst 0) (src 0) = true → (dst 0).count = (src 0).count →
         ((if weir = 0 then 1 else 2) ≤ s.me.outRoom →
           ∃ t : State, ∃ f g, exec (p.1 o) s = .next t ∧ s.commanded t weir p.2 (dst f) (src g)) ∧
         (s.me.outRoom < (if weir = 0 then 1 else 2) →
           ∃ t : State, exec (p.1 o) s = .next t ∧ t.ctx.state = .frozen ∧ t.ctx.pc = s.ctx.faultPc ∧ t.ctx.x = s.ctx.x ∧ t.mem = s.mem ∧
             t.me.sending = s.me.sending)) ∧
       (fmtsSuit p.2.adds (dst 0) (src 0) = false ∨ (dst 0).count ≠ (src 0).count →
         ∃ t : State, exec (p.1 o) s = .next t ∧ t.ctx.state = .frozen ∧ t.ctx.pc = s.ctx.faultPc ∧ t.ctx.x = s.ctx.x ∧ t.mem = s.mem ∧
           t.me.sending = s.me.sending)) ∧
   (∀ (o : CopyW) (s : State) (b : Pend), s.Clear (copyRule o) → s.budgetFault = none → s.haveRead [b] →
     s.descFault (s.ctx.readX o.rb) = none → (∀ w, tsrReg b.gather = some w → s.ctx.full (.w w) = true) →
     let src (f : Nat) : Tsr := { tsrOf s.ctx f b.gather with fmt := 0 }
     let core := bits (s.ctx.readX o.ra) 46 32
     let off := bits (s.ctx.readX o.ra) 17 0
     let weir := s.ctx.readX o.weir
     s.tsrFault s.cur.1 (src 0) [.r] = none → s.inPound core = true → off + (src 0).count ≤ Config.sliceSize →
     (if weir = 0 then 1 else 2) ≤ s.me.outRoom →
     ∃ t : State, ∃ f, exec (.cpyw o) s = .next t ∧ s.commanded t weir (.cpyw core off) (src f) (src f)) ∧
   (∀ (o : CopyW) (s : State) (a b i : Pend) (off : Nat),
     s.Clear { copyRule o with srcs := (copyRule o).srcs ++ [(.x (o.rb + 1), o.eb)] } → s.budgetFault = none → s.haveRead [a, b, i] →
     s.descFault (s.ctx.readX o.ra) = none → s.descFault (s.ctx.readX o.rb) = none →
     (∀ x ∈ [a, b], ∀ w, tsrReg x.gather = some w → s.ctx.full (.w w) = true) →
     let dst (f : Nat) : Tsr := tsrOf s.ctx f a.gather
     let src (f : Nat) : Tsr := tsrOf s.ctx f b.gather
     let weir := s.ctx.readX o.weir
     let ix := s.ctx.readX (o.rb + 1)
     let rows := if 2 ≤ (dst 0).rank then (dst 0).lim 1 else 1
     s.tsrFault s.cur.1 (dst 0) [.w] = none → s.tsrFault s.cur.1 { src 0 with clip := (src 0).clip.set 1 0 } [.r] = none →
     fmtsSuit false (dst 0) (src 0) = true →
     (dst 0).rank = (src 0).rank → (∀ k < (dst 0).rank, k ≠ 1 → (dst 0).lim k = (src 0).lim k) →
     ix.toNat % 4 = 0 → ownOffset s.cur.1 ix = some off → off + 4 * rows ≤ Config.lsSize → off + 4 * rows ≤ s.me.sysbase →
     (if weir = 0 then 1 else 2) ≤ s.me.outRoom →
     ∃ t : State, ∃ f g, exec (.cpyg o) s = .next t ∧
       s.commanded t weir (.cpyg ((List.range rows).map fun j => i.gather / 2 ^ (32 * j) % 2 ^ 32)) (dst f) (src g))) ∧
  (∀ (o : DrainC) (s : State) (a : Pend), s.Clear (mdraincRule o) → (s.me.tile o.acc.toNat).busy = false → s.budgetFault = none →
     s.haveRead [a] → s.descFault (s.ctx.readX o.ra) = none → (∀ w, tsrReg a.gather = some w → s.ctx.full (.w w) = true) →
     let dst (f : Nat) : Tsr := tsrOf s.ctx f a.gather
     let weir := s.ctx.readX o.rb
     let t := s.me.tile o.acc.toNat
     s.tsrFault s.cur.1 (dst 0) [.w] = none →
     ((dst 0).rank = 1 ∨ (dst 0).fmt = 0 → ∃ u : State, exec (.mdrainc o) s = .next u ∧ u.ctx.state = .frozen ∧ u.ctx.pc = s.ctx.faultPc ∧
       u.me.sending = s.me.sending ∧ u.me.tiles = s.me.tiles) ∧
     ((dst 0).rank ≠ 1 → (dst 0).fmt ≠ 0 →
       (∀ x : Nat → Int, (∀ e < 128, s.me.decode (t.read e) = .good (x e)) → (if weir = 0 then 1 else 2) ≤ s.me.outRoom →
         ∃ u : State, ∃ f, exec (.mdrainc o) s = .next u ∧ u.me.tiles = s.me.tiles ∧
           s.commanded u weir (.drain (o.mode.getLsbD 0) ((List.range 128).map fun e =>
             (mulVal (intVal (x e)) (fval .f32 (drainScale t.shown (e / 8) (e % 8)
               (if o.rc = 0 then 0x3F800000 else (s.ctx.readX o.rc).setWidth 32)).bits)).getD (.nan false))) (dst f) (dst f)) ∧
       (∀ e m, e < 128 → (∀ j < e, ∃ x, s.me.decode (t.read j) = .good x) → s.me.decode (t.read e) = .mismatch m →
         ∃ u : State, exec (.mdrainc o) s = .next u ∧ u.ctx.state = .frozen ∧ u.ctx.pc = s.ctx.faultPc ∧ u.me.sending = s.me.sending ∧
           u.me.tiles = s.me.tiles))) ∧
  ((∀ (k e : Nat) (s : State) (i : EngItem) (rest : List EngItem), k < 4 → e < 16 → ((s.stack k).engine e).queue = i :: rest →
     ((s.stack k).engine e).run = none → (s.stack k).throttled = true → exec (.engineCommandStart k e) s = .next s) ∧
   (∀ (k e : Nat) (s : State) (c : EngCmd) (rest : List EngItem) (items : List EngItemParts), k < 4 → e < 16 →
     ((s.stack k).engine e).queue = .cmd c :: rest → ((s.stack k).engine e).run = none → (s.stack k).throttled = false →
     c.op = .cpy → c.src.fmt = 0 → c.dst.fmt = 0 → s.engineRing c = none → items ≠ [] →
     s.engWalk (.fresh c) false (engElems .cpy c.dst c.src) [] = (items, .done) →
     let far (a : Acc) : Prop := a.place = .dram ∨ a.place = .remote
     let runs (t : State) (r : EngRun) : Prop := exec (.engineCommandStart k e) s = .next t ∧ ((t.stack k).engine e).queue = rest ∧
       ((t.stack k).engine e).run = some r ∧ r.cmd = c
     ((∀ x ∈ items, ∀ p ∈ x.2.1, p.2.2.place = .dram) →
       ∃ t : State, ∃ (r : EngRun) (rs : List MemReq), runs t r ∧ r.asked = true ∧ r.next = 0 ∧ t.mem = s.mem ∧ t.net = s.net ++ rs ∧
         rs.map (·.pa) = items.flatMap fun x => x.2.1.map fun p => p.2.2.pa) ∧
     ((∀ x ∈ items, ∀ p ∈ x.2.1, ¬far p.2.2) → (∀ x ∈ items, ∀ p ∈ x.2.2, ¬far p.2.2) →
       (items.flatMap fun x => x.2.2.map fun p => p.2.2.pa).Nodup →
       ∃ t : State, ∃ r : EngRun, runs t r ∧ r.next = items.length ∧ r.written = items.length ∧ r.out = 0 ∧ t.net = s.net ∧
         t.remote = s.remote ∧ (∀ x ∈ items, ∀ p q, x.2.1 = [p] → x.2.2 = [q] → readByte t.mem q.2.2.pa = readByte s.mem p.2.2.pa) ∧
         ∀ b, (∀ x ∈ items, ∀ q ∈ x.2.2, b ≠ q.2.2.pa) → readByte t.mem b = readByte s.mem b) ∧
     ((∀ x ∈ items, ∀ p ∈ x.2.1, ¬far p.2.2) → (∀ x ∈ items, ∀ p ∈ x.2.2, p.2.2.place = .dram) →
       ∃ t : State, ∃ (r : EngRun) (rs : List MemReq), runs t r ∧ r.next = items.length ∧ r.out = items.length ∧ t.mem = s.mem ∧
         t.net = s.net ++ rs ∧ (rs.map (·.pa)) = (items.flatMap fun x => x.2.2.map fun p => p.2.2.pa) ∧
         ∀ q ∈ rs, ∃ b, q.op = .engine (.raw [b]) 1)) ∧
   (∀ (k e : Nat) (s : State) (r : EngRun), k < 4 → e < 16 → ((s.stack k).engine e).run = some r → r.planned = false → r.failed = none →
     r.stalled = none → r.out = 0 → (engElems r.cmd.op r.cmd.dst r.cmd.src).length ≤ r.next →
     ∃ t : State, exec (.engineCommandStart k e) s = .next t ∧ ((t.stack k).engine e).run = some { r with planned := true } ∧ t.mem = s.mem) ∧
   (∀ (k e : Nat) (s : State) (r : EngRun) (u : EngUnit) (core off : Nat) (bs : List Byte), r.cmd.op = .cpyw core off → u.what = .raw bs →
     let t := s.engWrite k e r u
     t.mem = s.mem ∧ t.net = s.net ∧ t.weights = writeMem s.weights (wsKey core u.off.toNat) bs) ∧
   (∀ (k e : Nat) (s : State) (r : EngRun), k < 4 → e < 16 → ((s.stack k).engine e).run = some r →
     ((r.planned = false ∧ r.failed = none) ∨ r.out ≠ 0 ∨ r.todo ≠ [] ∨ r.slot ≠ none → exec (.engineCommandDone k e) s = .next s) ∧
     (r.planned = true → r.failed = none → r.out = 0 → r.todo = [] → r.slot = none →
       ∃ t : State, exec (.engineCommandDone k e) s = .next t ∧ ((t.stack k).engine e).run = none ∧
         ((t.stack k).engine e).queue = ((s.stack k).engine e).queue ∧ t.mem = s.mem ∧ (t.stack k).subs = (s.stack k).subs) ∧
     (∀ f, r.failed = some f → r.out = 0 → r.todo = [] → r.slot = none →
       ∃ t : State, exec (.engineCommandDone k e) s = .next t ∧ ((t.stack k).engine e).run = none ∧ t.mem = s.mem ∧
         (r.cmd.weir ≠ 0 → (t.stack (weirStack r.cmd.weir)).subs = (s.stack (weirStack r.cmd.weir)).subs ++
           [⟨r.cmd.weir, r.cmd.id, r.cmd.bytes - r.written, true, r.cmd.tag, r.cmd.rcb⟩]) ∧
         (t.core r.cmd.core).packets.length = (s.core r.cmd.core).packets.length + 1)))

/-- R286: WEIRNEW and WEIRRD place their message in the outbox and leave their register empty until the weir answers; WEIRADD and
WEIRARM place theirs and go on. R284 to R287: a message to a weir table changes the weir its handle names, or no weir when the
handle is not live. A charge or an addition moves COUNT, clamped with OVF; a subtraction is held until its command's charge has been
applied, and one of a failed command adds to FAILS; arming arms. An armed weir whose COUNT is then 0 fires: one notice, with its
handle and its state, goes to its channel, and the weir is disarmed, or free with its generation stepped. WEIRNEW's message takes
the lowest free entry and answers its handle, or 0; WEIRRD's answers the state, all ones for a stale handle. -/
def Obligations.Weirs : Prop :=
  ((∀ (o : Reg1) (s : State), s.Clear { reg1Rule o with rep := true } → s.me.outFull = false →
     (∃ t : State, ∃ p : Pend, exec (.weirnew o) s = .next t ∧ s.sentOut t (.weir (stackOf s.cur.1) (.create s.cur.1 s.cur.2 s.seq (s.ctx.readX o.ra)
         (s.tagOf s.cur.1) s.ctx.region.rcb s.ctx.region.errCh)) ∧ t.ctx.x = s.ctx.x ∧ (o.rd ≠ 0 → t.ctx.full (.x o.rd) = false) ∧
       t.ctx.pends = s.ctx.pends ++ [p] ∧ p.seq = s.seq ∧ p.dest = destX o.rd ∧ p.finish = .whole) ∧
     (∃ t : State, ∃ p : Pend, exec (.weirrd o) s = .next t ∧ s.sentOut t (.weir (weirStack (s.ctx.readX o.ra)) (.read s.cur.1 s.cur.2 s.seq
         (s.ctx.readX o.ra) (s.tagOf s.cur.1))) ∧ t.ctx.x = s.ctx.x ∧ (o.rd ≠ 0 → t.ctx.full (.x o.rd) = false) ∧
       t.ctx.pends = s.ctx.pends ++ [p] ∧ p.seq = s.seq ∧ p.dest = destX o.rd ∧ p.finish = .whole)) ∧
   (∀ (o : WeirAdd) (s : State), s.Clear { rep := true, srcs := [(.x o.ra, o.ea), (.x o.rb, o.eb)] } → s.me.outFull = false →
     ∃ t : State, exec (.weiradd o) s = .next t ∧ s.sentOut t (.weir (weirStack (s.ctx.readX o.ra)) (.add (s.ctx.readX o.ra)
       (s.ctx.readX o.rb).toInt (s.tagOf s.cur.1) s.ctx.region.rcb)) ∧ t.ctx.x = s.ctx.x ∧ t.ctx.pends = s.ctx.pends) ∧
   (∀ p ∈ ([(.weirarm, false), (.weirarmFree, true)] : List ((Src1 → Instr) × Bool)),
     ∀ (o : Src1) (s : State), s.Clear { rep := true, srcs := [(.x o.ra, o.ea)] } → s.me.outFull = false →
       ∃ t : State, exec (p.1 o) s = .next t ∧ s.sentOut t (.weir (weirStack (s.ctx.readX o.ra)) (.arm (s.ctx.readX o.ra) p.2
         (s.tagOf s.cur.1) s.ctx.region.rcb)) ∧ t.ctx.x = s.ctx.x ∧ t.ctx.pends = s.ctx.pends)) ∧
  ((∀ (k : Nat) (h : Word) (tag : BitVec 16) (rcb : Word) (s : State) (m : WeirMsg) (i : Instr) (f : Weir → Weir) (rest : List WeirMsg),
     k < 4 → (s.stack k).weirQ = m :: rest →
     ((∃ n cmd, m = .charge h n cmd tag rcb ∧ i = .weirCharge k ∧ f = (·.addCount n)) ∨
       (∃ n, m = .add h n tag rcb ∧ i = .weirAddApply k ∧ f = (·.addCount n)) ∨
       (∃ a, m = .arm h a tag rcb ∧ i = .weirArmApply k ∧ f = fun w => { w with armed := true, autoFree := a })) →
     (s.liveWeir k h tag = none → ∃ t : State, exec i s = .next t ∧ (t.stack k).weirQ = rest ∧ (t.stack k).weirs = (s.stack k).weirs) ∧
     (∀ w, s.liveWeir k h tag = some w → ∃ t : State, exec i s = .next t ∧ (t.stack k).weirQ = rest ∧ s.weirBecame t k h w (f w))) ∧
   (∀ (w : Weir) (n : Int), let v := w.addCount n
     let c : Int := w.count + n
     (0 ≤ c → c < 2 ^ 40 → v = { w with count := c.toNat }) ∧ (c < 0 → v = { w with count := 0, ovf := true }) ∧
       (2 ^ 40 ≤ c → v = { w with count := 2 ^ 40 - 1, ovf := true })) ∧
   (∀ (k j : Nat) (s : State) (b : WeirSub), k < 4 → (s.stack k).subs[j]? = some b →
     ((s.stack k).charged.contains b.cmd = false → exec (.weirSubtract k j) s = .next s) ∧
     (∀ w, (s.stack k).charged.contains b.cmd = true → s.liveWeir k b.handle b.tag = some w →
       let v := w.addCount (-(b.bytes : Int))
       ∃ t : State, exec (.weirSubtract k j) s = .next t ∧ (t.stack k).subs = (s.stack k).subs.eraseIdx j ∧
         s.weirBecame t k b.handle w (if b.fail then { v with fails := min (w.fails + 1) (2 ^ 14 - 1) } else v))) ∧
   (∀ (k c x q : Nat) (chan : Word) (tag : BitVec 16) (rcb err : Word) (s : State) (rest : List WeirMsg), k < 4 →
     (s.stack k).weirQ = .create c x q chan tag rcb err :: rest →
     (∀ i < 4096, (s.weirAt k i).live = false → (∀ j < i, (s.weirAt k j).live = true) →
       ∃ t : State, exec (.weirCreate k) s = .next t ∧ (t.stack k).weirQ = rest ∧ (∀ j, j ≠ i → t.weirAt k j = s.weirAt k j) ∧
         (let w := t.weirAt k i
          w.live = true ∧ w.gen = (s.weirAt k i).gen ∧ w.tag = tag ∧ w.count = 0 ∧ w.chan = chan ∧ w.armed = false ∧ w.ovf = false ∧
           w.fails = 0 ∧ s.answered t c x q (k * 2 ^ 38 + i * 2 ^ 26 + w.gen.toNat * 2 ^ 16 + tag.toNat))) ∧
     ((∀ i < 4096, (s.weirAt k i).live = true) → ∃ t : State, exec (.weirCreate k) s = .next t ∧ (t.stack k).weirQ = rest ∧
       (t.stack k).weirs = (s.stack k).weirs ∧ s.answered t c x q 0)) ∧
   (∀ (k c x q : Nat) (h : Word) (tag : BitVec 16) (s : State) (rest : List WeirMsg), k < 4 →
     (s.stack k).weirQ = .read c x q h tag :: rest →
     ∃ t : State, exec (.weirStateRead k) s = .next t ∧ (t.stack k).weirQ = rest ∧ (t.stack k).weirs = (s.stack k).weirs ∧
       s.answered t c x q (match s.liveWeir k h tag with
         | none => 2 ^ 64 - 1
         | some w => w.stateWord.toNat)))

/-! ## FIFO rings -/

/-- R233: a word of major 0x27 whose selector lies outside what its core may name raises WINDOW_BOUNDS; one on a bank that is not in
FIFO mode, or on a ring with DEPTH 0 (which .set alone takes), raises BANK_MODE; one on a bank that is changing its mode waits. R56,
R60 and R234: what each op of CBCFG requires, answering status 4 otherwise, and what it makes of its ring; no other ring and no byte
of memory changes. R57, R59 and R235: CBRET releases its context's accesses, waits in RUNNING for its bank and retires once the bank
has taken the slot back: a FILLED slot whose tag matches becomes FREE, in RUN with both counts moved; for any other CBRET raises
CB_AUDIT and nothing changes. R156, R235 and R236: CBCNT and CBAUDIT leave their register empty, to be filled with the counter word
and with the audit word; a failing audit makes the ring SUSPECT and sends one packet to the keeper of the bank's cluster, and its
context goes on. R57 and R58: an engine starts the slot at FILLPTR of a ring in RUN only when that slot is FREE and FREE is above 0:
it is INFLIGHT with tag LAP, FREE is one less, and FILLPTR moves on, with LAP when it wraps. When the slot's last byte is written
the slot is FILLED, FILLED is one more, and the bound channel gets a notice with the slot's address and its word 1. -/
def Obligations.FifoRings : Prop :=
  (∀ (unset : Bool) (i : Instr) (r : WordRule) (w : Word) (s : State), s.Clear r →
     ((∃ o : Reg2, w = s.ctx.readX o.ra ∧ unset = true ∧ i = .cbcfgSet o ∧
         r = { priv := true, dests := [.x o.rd], srcs := [(.x o.ra, o.ea), (.x o.rb, o.eb), (.x (o.rb + 1), o.eb)] }) ∨
       (∃ o : Reg2, w = s.ctx.readX o.ra ∧ unset = false ∧ i = .cbcfgState o ∧
         r = { priv := true, dests := [.x o.rd], srcs := [(.x o.ra, o.ea), (.x o.rb, o.eb)] }) ∨
       (∃ o : Reg2, w = s.ctx.readX o.ra ∧ unset = false ∧ (i = .cbcfgRebuild o ∨ i = .cbcfgClear o) ∧
         r = { priv := true, dests := [.x o.rd], srcs := [(.x o.ra, o.ea)] }) ∨
       (∃ o : Reg1, w = s.ctx.readX o.ra ∧ unset = false ∧ (i = .cbcnt o ∨ i = .cbaudit o) ∧
         r = { srcs := [(.x o.ra, o.ea)], dests := [.x o.rd] }) ∨
       (∃ o : Src1, w = s.ctx.readX o.ra ∧ unset = false ∧ i = .cbret o ∧ s.ctx.cbRet = none ∧ r = { srcs := [(.x o.ra, o.ea)] })) →
     let bank := (s.cluster (selCluster w)).bank (selBank w)
     let out := if isKeeper s.cur.1 = true then selCluster w ≠ clusterOf s.cur.1 else s.clusterInPound s.cur.1 (selCluster w) = false
     (out → ∃ t : State, exec i s = .next t ∧ s.faulted t ⟨.windowBounds, 0, 0⟩) ∧
     (¬out → bank.busy ≠ none → exec i s = .next s) ∧
     (¬out → bank.busy = none → bank.mode ≠ .fifo ∨ (unset = false ∧ (s.ringAt w).depth = 0) →
       ∃ t : State, exec i s = .next t ∧ s.faulted t ⟨.bankMode, 0, 0⟩)) ∧
  (∀ (o : Reg2) (s : State) (r : Ring), let w := s.ctx.readX o.ra
     let kept (t : State) : Prop := t.ctx.pc = s.ctx.pc + 4 ∧ t.mem = s.mem ∧
       ∀ v, (selCluster v, selBank v, selRing v) ≠ (selCluster w, selBank w, selRing w) → t.ringAt v = s.ringAt v
     let gives (i : Instr) (n : Nat) (q : Ring) : Prop := ∃ t : State, exec i s = .next t ∧ kept t ∧ t.ringAt w = q ∧
       ∀ k, t.ctx.readX k = if k = 0 then 0 else if k = o.rd then BitVec.ofNat 64 n else s.ctx.readX k
     (s.Clear { priv := true, dests := [.x o.rd], srcs := [(.x o.ra, o.ea), (.x o.rb, o.eb), (.x (o.rb + 1), o.eb)] } →
       s.ringCheck true w = .ok r →
       let cfg := s.ctx.readX o.rb
       let ok := ringFits ((s.cluster (selCluster w)).bank (selBank w)) (selRing w) (bits cfg 53 44) (bits cfg 43 41) (bits cfg 40 30)
       (r.state = .run ∨ r.state = .suspect ∨ ok = false → gives (.cbcfgSet o) 4 r) ∧
       (r.state = .off ∨ r.state = .quiesced → ok = true → ∃ q : Ring, gives (.cbcfgSet o) 0 q ∧
         q.base = bits cfg 53 44 ∧ q.slot = bits cfg 43 41 ∧ q.depth = bits cfg 40 30 ∧ q.free = q.depth ∧ q.filled = 0 ∧
         q.fillPtr = 0 ∧ q.lap = 0 ∧ q.state = .run ∧ q.chan = s.ctx.readX (o.rb + 1) ∧ q.parityGood = true ∧
         ∀ i < q.depth, q.at i = (.free, 0))) ∧
     (s.Clear { priv := true, dests := [.x o.rd], srcs := [(.x o.ra, o.ea), (.x o.rb, o.eb)] } → s.ringCheck false w = .ok r →
       let x := bits (s.ctx.readX o.rb) 21 20
       (x = 1 → gives (.cbcfgState o) 0 { r with state := .run }) ∧ (x = 3 → gives (.cbcfgState o) 0 { r with state := .quiesced }) ∧
       (x = 0 ∨ x = 2 → gives (.cbcfgState o) 4 r)) ∧
     (s.Clear { priv := true, dests := [.x o.rd], srcs := [(.x o.ra, o.ea)] } → s.ringCheck false w = .ok r →
       (r.state ≠ .quiesced ∨ r.inState .inflight ≠ 0 → gives (.cbcfgRebuild o) 4 r ∧ gives (.cbcfgClear o) 4 r) ∧
       (r.state = .quiesced → r.inState .inflight = 0 → gives (.cbcfgClear o) 0 { r with depth := 0, state := .off } ∧
         ∃ q : Ring, gives (.cbcfgRebuild o) 0 q ∧ q.depth = r.depth ∧ q.state = r.state ∧ q.fillPtr = r.fillPtr ∧ q.lap = r.lap ∧
           q.free = q.inState .free ∧ q.filled = q.inState .filled ∧ q.parityGood = true ∧
           ∀ i < r.depth, (q.at i).2 = (r.at i).2 ∧ (q.at i).1 = if (r.at i).2 = r.expectedTag i then (r.at i).1 else .free))) ∧
  ((∀ (o : Src1) (s : State), s.Clear { srcs := [(.x o.ra, o.ea)] } → let w := s.ctx.readX o.ra
     (∀ r : Ring, s.ctx.cbRet = none → s.ringCheck false w = .ok r →
       (s.performed (clusterScope s.cur.1 (selCluster w)) true ⟨s.cur.1, s.cur.2, s.seq⟩ = false → exec (.cbret o) s = .next s) ∧
       (s.performed (clusterScope s.cur.1 (selCluster w)) true ⟨s.cur.1, s.cur.2, s.seq⟩ = true →
         ∃ t : State, exec (.cbret o) s = .next t ∧ t.ctx.pc = s.ctx.pc ∧ t.ctx.state = s.ctx.state ∧ t.ctx.x = s.ctx.x ∧
           t.ctx.cbRet = some (.asked s.seq) ∧ (t.cluster (selCluster w)).returns =
             (s.cluster (selCluster w)).returns ++ [(s.cur.1, s.cur.2, s.seq, w)])) ∧
     (∀ q : Nat, s.ctx.cbRet = some (.asked q) → exec (.cbret o) s = .next s) ∧
     (s.ctx.cbRet = some .ok → ∃ t : State, exec (.cbret o) s = .next t ∧ t.ctx.pc = s.ctx.pc + 4 ∧ t.ctx.x = s.ctx.x ∧
       t.ctx.cbRet = none ∧ t.mem = s.mem) ∧
     (∀ f : FaultInfo, s.ctx.cbRet = some (.bad f) → ∃ t : State, exec (.cbret o) s = .next t ∧ s.faulted t f ∧ t.ctx.cbRet = none)) ∧
   (∀ (k core x q : Nat) (w : Word) (rest : List (Nat × Nat × Nat × Word)) (s : State), k < Config.clusters →
     (s.cluster k).returns = (core, x, q, w) :: rest → ((s.core core).ctx x).cbRet = some (.asked q) → selCluster w < Config.clusters →
     let r := s.ringAt w
     let i := selIndex w
     (i < r.depth → r.slots.length = r.depth → r.at i = (.filled, selTag w) → r.state = .run ∨ r.state = .quiesced → r.parityGood = true →
       ∃ t : State, exec (.cbReturnApply k) s = .next t ∧ (t.cluster k).returns = rest ∧ ((t.core core).ctx x).cbRet = some .ok ∧
         (let u := t.ringAt w
          u.free = r.free + 1 ∧ u.filled = r.filled - 1 ∧ u.parityGood = true ∧ u.at i = (.free, selTag w) ∧ u.state = r.state ∧
           u.fillPtr = r.fillPtr ∧ u.lap = r.lap ∧ ∀ j, j ≠ i → u.at j = r.at j)) ∧
     (i < r.depth → r.slots.length = r.depth → r.at i = (.filled, selTag w) → r.state = .suspect →
       ∃ t : State, exec (.cbReturnApply k) s = .next t ∧ ((t.core core).ctx x).cbRet = some .ok ∧ (t.ringAt w).free = r.free ∧
         (t.ringAt w).filled = r.filled ∧ (t.ringAt w).at i = (.free, selTag w)) ∧
     (r.depth ≤ i ∨ r.at i ≠ (.filled, selTag w) → ∃ t : State, ∃ f : FaultInfo, exec (.cbReturnApply k) s = .next t ∧ (t.cluster k).returns = rest ∧
       ((t.core core).ctx x).cbRet = some (.bad f) ∧ f.cause = .cbAudit ∧ t.ringAt w = r))) ∧
  (∀ (o : Reg1) (s : State) (r : Ring), s.Clear { srcs := [(.x o.ra, o.ea)], dests := [.x o.rd] } →
     s.ringCheck false (s.ctx.readX o.ra) = .ok r →
     let w := s.ctx.readX o.ra
     let k := Config.keeperOf (selCluster w)
     let waits (t : State) (v : Nat) : Prop := t.ctx.pc = s.ctx.pc + 4 ∧ t.ctx.x = s.ctx.x ∧ (o.rd ≠ 0 → t.ctx.full (.x o.rd) = false) ∧
       ∃ p : Pend, t.ctx.pends = s.ctx.pends ++ [p] ∧ (o.rd ≠ 0 → p.dest = .x o.rd) ∧ p.finish = .known (BitVec.ofNat 192 v) 0 0
     (r.free < 2 ^ 12 → r.filled < 2 ^ 12 → r.fillPtr < 2 ^ 10 → r.lap < 16 →
       ∃ t : State, exec (.cbcnt o) s = .next t ∧ waits t ((if r.pf then 2 ^ 61 else 0) + r.free * 2 ^ 49 + (if r.pl then 2 ^ 48 else 0) +
         r.filled * 2 ^ 36 + r.fillPtr * 2 ^ 26 + r.lap * 2 ^ 22 + ringStateCode r.state * 2 ^ 20) ∧ t.ringAt w = r) ∧
     (let bad := r.badTag.isSome || !r.parityGood || r.badCount
      let v := r.badTag.getD 0 * 2 ^ 16 + (if r.badTag.isSome then 8 else 0) + (if r.parityGood then 0 else 4) +
       (if r.badCount then 2 else 0) + (if bad then 1 else 0)
      r.depth ≤ 1024 →
      ∃ t : State, exec (.cbaudit o) s = .next t ∧ waits t v ∧ t.ringAt w = (if bad then { r with state := .suspect } else r) ∧
       (t.core k).packets.length = (s.core k).packets.length + (if bad then 1 else 0))) ∧
  ((∀ (k e : Nat) (s : State) (r : EngRun) (off : Nat) (x : Nat × EngWrite) (rest : List (Nat × Nat × EngWrite)), k < 4 → e < 16 →
     ((s.stack k).engine e).run = some r → r.todo = (off, x) :: rest → r.slot = none → selCluster r.ring < Config.clusters →
     let q := s.ringAt r.ring
     (q.state ≠ .run ∨ q.free = 0 ∨ (q.at q.fillPtr).1 ≠ .free → exec (.cbSlotStart k e) s = .next s) ∧
     (q.state = .run → q.free ≠ 0 → q.depth ≠ 0 → (q.at q.fillPtr).1 = .free → q.fillPtr < q.slots.length → q.parityGood = true →
       ∃ t : State, exec (.cbSlotStart k e) s = .next t ∧ t.mem = s.mem ∧
         ((t.stack k).engine e).run = some { r with slot := some (q.fillPtr, off / q.slotBytes * q.slotBytes) } ∧
         (let u := t.ringAt r.ring
          u.free = q.free - 1 ∧ u.filled = q.filled ∧ u.at q.fillPtr = (.inflight, BitVec.ofNat 4 q.lap) ∧ u.state = .run ∧
           (if q.fillPtr + 1 = q.depth then u.fillPtr = 0 ∧ u.lap = (q.lap + 1) % 16 else u.fillPtr = q.fillPtr + 1 ∧ u.lap = q.lap))) ∧
     (q.state = .run → q.free ≠ 0 → q.depth ≠ 0 → (q.at q.fillPtr).1 = .free → q.parityGood = false →
       ∃ t : State, exec (.cbSlotStart k e) s = .next t ∧ (t.ringAt r.ring).state = .suspect ∧ (t.ringAt r.ring).free = q.free ∧
         ((t.stack k).engine e).run = some r)) ∧
   (∀ (k e i lo : Nat) (s : State) (r : EngRun) (bs : List Byte), k < 4 → e < 16 → ((s.stack k).engine e).run = some r →
     r.slot = some (i, lo) → r.todo = [(lo, bs.length, .raw bs)] → r.cmd.weir = 0 → bs ≠ [] → selCluster r.ring < Config.clusters →
     let q := s.ringAt r.ring
     let kp := Config.keeperOf (selCluster r.ring)
     let at_ := csKey (selCluster r.ring) (selBank r.ring) (q.slotOffset i)
     bs.length ≤ q.slotBytes → i < q.slots.length → q.state = .run → q.parityGood = true → nameGen q.chan ≠ 0 →
     s.routeOf (s.tagOf kp).toNat q.chan = .here →
     ∃ t : State, ∃ x : Flight, exec (.cbSlotFilled k e) s = .next t ∧
       (∀ a, readByte t.mem a = if at_ ≤ a ∧ a < at_ + bs.length then bs.getD (a - at_) 0 else readByte s.mem a) ∧
       (t.ringAt r.ring).at i = (.filled, (q.at i).2) ∧ (t.ringAt r.ring).filled = q.filled + 1 ∧ (t.ringAt r.ring).free = q.free ∧
       t.flight = s.flight ++ [x] ∧ x.home = nameCore q.chan ∧ x.msg.name = q.chan ∧ x.msg.status = .notice ∧
       x.msg.payload = .words [BitVec.ofNat 64 at_, slotWord bs.length r.ring (q.at i).2 i]))

/-! ## Messages and bodies -/

/-- R220 and R221: SEND, SENDM and SENDV to a name that passes its checks place one message with the run's words, or the view, and go
on; SENDV leaves its register null. A home outside the pound raises WINDOW_BOUNDS, a view that is not live VIEW_RIGHTS, a view for
another package WINDOW_BOUNDS, and an outbox and spill ring both full OUTBOX_OVERFLOW; each sends nothing. R30, R31, R34 and R116:
the oldest entry of an outbox waits until what it releases has performed, and then leaves in order: a message, or a service message
to its keeper, is on its way, a spawn item walks, a request stands in its Colander's, engine's or weir table's queue, and a message
whose name is null is returned. A relay's forward or a return leaves likewise. -/
def Obligations.MessagesGoOut : Prop :=
  ((∀ (o : SendW) (l : SendLadle) (s : State), o.ra = l.ra → o.rb = l.rb → o.mp = l.mp → o.ea = l.ea →
     let name := s.ctx.readX o.ra
     let ws (n : Nat) : List Word := (List.range n).map fun i =>
       if o.mp then s.ctx.readM (o.rb.toNat + i) else s.ctx.readX (o.rb + BitVec.ofNat 5 i)
     ∀ p ∈ ([(.send o, o.n.toNat + 1, .words (ws (o.n.toNat + 1))), (.sendmPm l, 2, .ladle .pm (ws 2)),
         (.sendmIadd l, 1, .ladle .iadd (ws 1)), (.sendmF32 l, 1, .ladle .f32 (ws 1)), (.sendmF64 l, 1, .ladle .f64 (ws 1))] :
         List (Instr × Nat × Payload)),
       s.Clear (runRule o.ra o.ea o.mp o.rb p.2.1) →
       let ok := nameGen name = 0 ∨ nameChip name ≠ Config.chip.toNat ∨ s.inPound (nameCore name) = true
       (ok → s.me.outFull = false → ∃ t : State, exec p.1 s = .next t ∧ s.sentMsg t name p.2.2 ∧ t.ctx.w = s.ctx.w) ∧
       (ok → s.me.outFull = true → ∃ t : State, exec p.1 s = .next t ∧ s.faulted t ⟨.outboxOverflow, 0, 0⟩ ∧ t.me.sending = s.me.sending) ∧
       (¬ok → ∃ t : State, exec p.1 s = .next t ∧ s.faulted t ⟨.windowBounds, 0, 0⟩ ∧ t.me.sending = s.me.sending)) ∧
   (∀ (o : SendView) (s : State), s.Clear { srcs := [(.x o.ra, o.ea), (.w o.view, false)], dests := [.w o.view] } →
     let name := s.ctx.readX o.ra
     let v := s.ctx.readW o.view
     (nameGen name = 0 ∨ nameChip name = Config.chip.toNat ∧ s.inPound (nameCore name) = true →
       (v.live = true → s.me.outFull = false → ∃ t : State, exec (.sendv o) s = .next t ∧ s.sentMsg t name (.view v) ∧
         ∀ i, t.ctx.readW i = if i = o.view then View.null else s.ctx.readW i) ∧
       (v.live = false → ∃ t : State, exec (.sendv o) s = .next t ∧ s.faulted t ⟨.viewRights, 0, v.base⟩)) ∧
     (nameGen name ≠ 0 → nameChip name ≠ Config.chip.toNat → v.live = true →
       ∃ t : State, exec (.sendv o) s = .next t ∧ s.faulted t ⟨.windowBounds, 0, 0⟩))) ∧
  ((∀ (core : Nat) (s : State) (e : OutEntry) (rest : List OutEntry), coreIn core = true → (s.core core).outbox = e :: rest →
     (s.core core).pairOf e.ctx = none →
     (s.covered e.scope e.cover = false → exec (.messageAdmit core) s = .next s) ∧
     (s.covered e.scope e.cover = true →
       let left (t : State) : Prop := exec (.messageAdmit core) s = .next t ∧ (t.core core).sending = (s.core core).sending.drop 1 ∧
         t.mem = s.mem
       let mark := (s.core core).mark
       (∀ m, e.item = .msg m → s.routeOf (s.tagOf core).toNat m.name = .here →
         (nameGen m.name ≠ 0 → ∃ t : State, left t ∧ t.flight = s.flight ++ [⟨core, nameCore m.name, m, mark, (s.tagOf core).toNat⟩]) ∧
         (nameGen m.name = 0 → m.isReturn = false → ∃ (t : State) (x : Msg), left t ∧ t.flight = s.flight ∧
           (t.core core).relays = (s.core core).relays ++ [x] ∧ x.name = m.errCh ∧ x.status = .undeliv ∧ x.payload = m.payload ∧
           x.isReturn = true)) ∧
       (∀ m, e.item = .svc m → nameGen m.name ≠ 0 → ∃ (t : State) (x : Flight), left t ∧ t.flight = s.flight ++ [x] ∧
         x.home = Config.keeperOf (clusterOf core) ∧ x.msg = m ∧ x.source = core) ∧
       (∀ it, e.item = .spawn it → (s.core core).stopping = false → ∃ t : State, left t ∧
         t.walkers = s.walkers ++ [⟨it, spawnRoute core it.hint it.radius⟩]) ∧
       (∀ k r, e.item = .view k r → k < 4 → (∀ h g i, r ≠ .notice h g i) → ∃ t : State, left t ∧
         (t.stack k).colander.queue = (s.stack k).colander.queue ++ [r]) ∧
       (∀ k g c, e.item = .engine k g c → k < 4 → g < 16 → mark = 0 → ∃ t : State, left t ∧
         ((t.stack k).engine g).queue = ((s.stack k).engine g).queue ++ [.cmd c]) ∧
       (∀ k w, e.item = .weir k w → k < 4 → ∃ t : State, left t ∧ (t.stack k).weirQ = (s.stack k).weirQ ++ [w]))) ∧
   (∀ (core : Nat) (s : State) (m : Msg) (rest : List Msg), coreIn core = true → (s.core core).relays = m :: rest →
     (s.covered m.scope m.cover = false → exec (.relayForward core) s = .next s) ∧
     (s.covered m.scope m.cover = true → s.routeOf (s.tagOf core).toNat m.name = .here → nameGen m.name ≠ 0 →
       ∃ t : State, exec (.relayForward core) s = .next t ∧ (t.core core).relays = rest ∧ t.mem = s.mem ∧
         t.flight = s.flight ++ [⟨core, nameCore m.name, m, (s.core core).mark, (s.tagOf core).toNat⟩])))

/-- R9, R225, R227 and R228: CHNEW takes the lowest free slot, and for a FIFO the lowest run of entries that no other FIFO uses, and
gives the channel's name; with no slot it gives 1, with no run 2. CHFREE empties a live channel's slot, steps its generation and
removes the patterns that name it. R10, R226 and R228: a name is live at a core when its fields name that core, an allocated slot,
its generation and the core's device; what CHCFG, CHCNT, PATSET, PATCLR, PATRANK and RELAY do to a core's slots, and the statuses
they give instead. -/
def Obligations.Channels : Prop :=
  ((∀ (o : Reg2) (s : State), s.Clear (reg2Rule o) →
     let d := s.ctx.readX o.ra
     let kind := kindOf (bits d 63 62)
     let nm1 : BitVec 8 := d.setWidth 8
     (kind = none → ∃ t : State, exec (.chnew o) s = .next t ∧ s.faulted t ⟨.illegal, 0, 0⟩) ∧
     (∀ k, kind = some k →
       ((∀ i < 64, (s.me.chan i).alloc = true) → ∃ t : State, exec (.chnew o) s = .next t ∧ s.managed t o.rd 1 s.me) ∧
       (∀ i < 64, (s.me.chan i).alloc = false → (∀ j < i, (s.me.chan j).alloc = true) →
         (k = .fifo → s.me.ringRun (nm1.toNat + 1) none = none → ∃ t : State, exec (.chnew o) s = .next t ∧ s.managed t o.rd 2 s.me) ∧
         (∀ a, (if k = .fifo then s.me.ringRun (nm1.toNat + 1) none else some 0) = some a →
           ∃ t : State, exec (.chnew o) s = .next t ∧
             s.managed t o.rd (mkName Config.chip.toNat (if isKeeper s.cur.1 then clusterOf s.cur.1 else s.cur.1) i
               (s.me.chan i).gen.toNat (s.tagOf s.cur.1).toNat) (s.me.modChan i fun _ =>
                 newSlot k (ladleOpOf (bits d 61 60)) nm1 (s.me.chan i).gen a (s.ctx.readX o.rb) s.ctx.region.rcb s.ctx.region.errCh))))) ∧
   (∀ (c : Core) (n : Nat) (e : Option Nat),
     let fits (b : Nat) : Prop := b + n ≤ c.ringArea ∧
       ∀ i < 64, some i ≠ e → (c.chan i).alloc = true → (c.chan i).kind = .fifo →
         b + n ≤ (c.chan i).start ∨ (c.chan i).start + (c.chan i).nm1.toNat + 1 ≤ b
     match c.ringRun n e with
     | some a => fits a ∧ ∀ b < a, ¬fits b
     | none => ∀ b, ¬fits b) ∧
   (∀ (o : Reg1) (s : State), s.Clear (reg1Rule o) → let live := s.liveSlot s.cur.1 (s.ctx.readX o.ra)
     (live = none → ∃ t : State, exec (.chfree o) s = .next t ∧ s.managed t o.rd 3 s.me) ∧
     (∀ i, live = some i → ∃ t : State, exec (.chfree o) s = .next t ∧ t.ctx.pc = s.ctx.pc + 4 ∧ t.mem = s.mem ∧
       (∀ j, t.ctx.readX j = if j = 0 then 0 else if j = o.rd then 0 else s.ctx.readX j) ∧
       t.me.chan i = { ChanSlot.reset with gen := if (s.me.chan i).gen = BitVec.allOnes 19 then 1 else (s.me.chan i).gen + 1 } ∧
       (∀ j < 64, j ≠ i → t.me.chan j = s.me.chan j) ∧
       ∀ j < 32, t.me.pat j = (s.me.pat j).filter fun p => !p.chans.contains (BitVec.ofNat 6 i)))) ∧
  ((∀ (s : State) (core : Nat) (n : Word) (i : Nat), isKeeper core = false → (s.liveSlot core n = some i ↔
     i = nameSlot n ∧ nameCore n = core ∧ nameChip n = Config.chip.toNat ∧ ((s.core core).chan i).alloc = true ∧
       ((s.core core).chan i).gen.toNat = nameGen n ∧ nameGen n ≠ 0 ∧ nameTag n = (s.tagOf core).toNat ∧ nameTag n ≠ 0)) ∧
   (∀ (o : Reg2) (s : State), s.Clear (reg2Rule o) →
     let live := s.liveSlot s.cur.1 (s.ctx.readX o.ra)
     let x := s.ctx.readX o.rb
     let gives (i : Instr) (n : Word) (c : Core) : Prop := ∃ t : State, exec i s = .next t ∧ s.managed t o.rd n c
     (live = none → gives (.chcfg o) 3 s.me ∧ gives (.relay o) 3 s.me) ∧
     (∀ i, live = some i →
       ((s.me.chan i).kind ≠ .relay → gives (.relay o) 3 s.me) ∧
       ((s.me.chan i).kind = .relay → gives (.chcfg o) 3 s.me ∧ gives (.relay o) 0 (s.me.modChan i fun c => { c with target := x })) ∧
       ((s.me.chan i).kind = .ladle →
         ((s.me.chan i).count ≠ 0 ∨ (s.me.chan i).presented ≠ none → gives (.chcfg o) 4 s.me) ∧
         ((s.me.chan i).count = 0 → (s.me.chan i).presented = none →
           gives (.chcfg o) 0 (s.me.modChan i fun c => { c with nm1 := x.setWidth 8 }))) ∧
       ((s.me.chan i).kind = .fifo →
         ((s.me.chan i).ring ≠ [] ∨ s.overflowed s.cur.1 i ≠ [] → gives (.chcfg o) 4 s.me) ∧
         ((s.me.chan i).ring = [] → s.overflowed s.cur.1 i = [] →
           let n := (x.setWidth 8 : BitVec 8).toNat + 1
           let now := (s.me.chan i).start
           let stays := now + n ≤ s.me.ringArea ∧ ∀ j < 64, j ≠ i → (s.me.chan j).alloc = true → (s.me.chan j).kind = .fifo →
             now + n ≤ (s.me.chan j).start ∨ (s.me.chan j).start + (s.me.chan j).nm1.toNat + 1 ≤ now
           let placed (a : Nat) : Core := s.me.modChan i fun c => { c with nm1 := x.setWidth 8, start := a, headAt := 0 }
           (stays → gives (.chcfg o) 0 (placed now)) ∧
           (¬stays → s.me.ringRun n (some i) = none → gives (.chcfg o) 2 s.me) ∧
           ∀ a, ¬stays → s.me.ringRun n (some i) = some a → gives (.chcfg o) 0 (placed a)))) ∧
     (let slot := bits (s.ctx.readX o.ra) 4 0
      (s.me.pat slot = none → gives (.patrank o) 3 s.me) ∧
       ∀ p, s.me.pat slot = some p →
         gives (.patrank o) 0 (s.me.setPat slot (some { p with rank := x.setWidth 3, fair := x.getLsbD 3 })))) ∧
   (∀ (o : Reg1) (s : State), s.Clear (reg1Rule o) →
     let live := s.liveSlot s.cur.1 (s.ctx.readX o.ra)
     let slot := bits (s.ctx.readX o.ra) 4 0
     (live = none → ∃ t : State, exec (.chcnt o) s = .next t ∧ s.managed t o.rd (BitVec.allOnes 64) s.me) ∧
     (∀ i, live = some i → let c := s.me.chan i
       ∃ t : State, exec (.chcnt o) s = .next t ∧ s.managed t o.rd (BitVec.ofNat 64 (min (s.overflowed s.cur.1 i).length 65535 * 2 ^ 32 +
         (if c.presented.isSome then 2 ^ 31 else 0) + (if c.kind = .fifo then c.ring.length else if c.kind = .ladle then c.count else 0))) s.me) ∧
     (s.me.pat slot = none → ∃ t : State, exec (.patclr o) s = .next t ∧ s.managed t o.rd 3 s.me) ∧
     (∀ p, s.me.pat slot = some p → ∃ t : State, exec (.patclr o) s = .next t ∧ s.managed t o.rd 0 (s.me.setPat slot none))) ∧
   (∀ (o : Reg2) (s : State), s.Clear { srcs := [(.x o.ra, o.ea), (.x (o.ra + 1), o.ea), (.x o.rb, o.eb)], dests := [.x o.rd] } →
     let w := s.ctx.readX o.ra
     let entry := s.ctx.readX (o.ra + 1)
     let region := s.ctx.readX o.rb
     let chans := [w.extractLsb' 14 6, w.extractLsb' 20 6, w.extractLsb' 26 6, w.extractLsb' 32 6].take (bits w 39 38 + 1)
     let slot := bits w 4 0
     let ok := chans.Nodup ∧ (∀ i ∈ chans, (s.me.chan i.toNat).alloc = true ∧ (s.me.chan i.toNat).kind ≠ .relay) ∧
       entry.toNat % 4 = 0 ∧ region.toNat % 64 = 0
     (¬ok → ∃ t : State, exec (.patset o) s = .next t ∧ s.faulted t ⟨.illegal, 0, 0⟩) ∧
     (ok → s.me.pat slot ≠ none → ∃ t : State, exec (.patset o) s = .next t ∧ s.managed t o.rd 4 s.me) ∧
     (ok → s.me.pat slot = none → ∃ t : State, exec (.patset o) s = .next t ∧ s.managed t o.rd 0
       (s.me.setPat slot (some ⟨chans, w.extractLsb' 11 3, w.getLsbD 10, w.getLsbD 9, entry, region⟩)))))

/-- R10, R11, R13, R14, R23, R32 to R34 and R222: a flight waits behind earlier flights of its source to its channel. At its home a
message for a name that is not live is returned; a FIFO with room queues it with the next arrival number, a full one leaves it to
the device's overflow ring; a relay forwards it under its target; a ladle of its operation combines it, presenting the aggregate
when the last of its count has come; a payload that does not suit the channel is returned. The oldest overflow message moves back
once its channel takes it. R117, R359: the oldest held fault packet reaches its keeper's fault channel, as a notice with the
packet's words, once that channel is live and takes it and the accesses the packet releases have performed; until then it is held. -/
def Obligations.MessagesAreAccepted : Prop :=
  ((∀ (k : Nat) (s : State) (f : Flight), s.flight[k]? = some f → f.home ≠ Config.workers →
     ((s.flight.take k).any (fun g => g.source == f.source && g.msg.name == f.msg.name) = true ∨ (s.core f.home).halted = true →
       exec (.messageAccept k) s = .next s) ∧
     ((s.flight.take k).any (fun g => g.source == f.source && g.msg.name == f.msg.name) = false → (s.core f.home).halted = false →
       (s.core f.home).cut = none → (s.poundOf (clusterOf f.home)).any (·.trust == .error) = false →
       nameTag f.msg.name = (s.tagOf f.home).toNat → (s.core f.home).msgSaved = false →
       let m := f.msg
       let c := s.core f.home
       let seq := c.arrivals + 1
       let gone (t : State) : Prop := exec (.messageAccept k) s = .next t ∧ t.flight = s.flight.eraseIdx k
       let returned (t : State) : Prop := (t.core f.home).chans = c.chans ∧ (t.core f.home).arrivals = c.arrivals ∧
         ∃ x : Msg, (t.core f.home).relays = c.relays ++ [x] ∧ x.name = m.errCh ∧ x.status = .undeliv ∧ x.payload = m.payload
       (s.liveSlot f.home m.name = none → m.isReturn = false → ∃ t : State, gone t ∧ returned t) ∧
       (∀ i, s.liveSlot f.home m.name = some i →
         ((c.chan i).takes m = .refuse → m.isReturn = false → ∃ t : State, gone t ∧ returned t) ∧
         ((c.chan i).takes m = .take → s.overflowed f.home i = [] →
           ((c.chan i).kind = .fifo → ∃ t : State, gone t ∧ (t.core f.home).arrivals = seq ∧ t.mem = s.mem ∧
             (t.core f.home).chan i = { c.chan i with ring := (c.chan i).ring ++ [⟨m, seq⟩] }) ∧
           ((c.chan i).kind = .relay → ∃ (t : State) (x : Msg), gone t ∧ (t.core f.home).arrivals = seq ∧ (t.core f.home).relays = c.relays ++ [x] ∧
             x.name = (c.chan i).target ∧ x.sender = f.home ∧ x.status = m.status ∧ x.payload = m.payload ∧
             x.errCh = (c.chan i).errCh ∧ x.lostAt = (c.chan i).region) ∧
           (∀ ws, (c.chan i).kind = .ladle → m.payload = .ladle .iadd ws →
             ∃ t : State, gone t ∧ (t.core f.home).arrivals = seq ∧ t.mem = s.mem ∧
               (let u := (t.core f.home).chan i
                if (c.chan i).count < (c.chan i).nm1.toNat then u.count = (c.chan i).count + 1 ∧
                  u.part0 = (c.chan i).part0 + ws.getD 0 0 ∧ u.presented = (c.chan i).presented
                else u.count = 0 ∧ u.part0 = 0 ∧ ∃ e : RingEntry, u.presented = some e ∧ e.seq = seq ∧ e.msg.name = m.name ∧
                  e.msg.payload = .words [(c.chan i).part0 + ws.getD 0 0]))) ∧
         (∀ x q, (c.chan i).takes m = .overflow ∨ ((c.chan i).takes m = .take ∧ s.overflowed f.home i ≠ []) →
           s.ovfIndex (clusterOf f.home) (s.tagOf f.home).toNat = some x → x < 8 → q = (s.cluster (clusterOf f.home)).ovf.getD x [] →
           q.length < bits (s.devReg (.ovfRing (clusterOf f.home) x)) 47 32 →
           ∃ t : State, gone t ∧ (t.cluster (clusterOf f.home)).ovf.getD x [] = q ++ [.msg f.home m] ∧ (t.core f.home).chans = c.chans)))) ∧
   (∀ (c : ChanSlot) (m : Msg) (op : LadleOp) (ws : List Word),
     (c.kind = .relay → c.takes m = .take) ∧
     (c.kind = .fifo → m.payload = .ladle op ws → c.takes m = .refuse) ∧
     (c.kind = .fifo → (∀ op ws, m.payload ≠ .ladle op ws) → c.takes m = if c.ring.length ≤ c.nm1.toNat then .take else .overflow) ∧
     (c.kind = .ladle → (∀ op ws, m.payload ≠ .ladle op ws) → c.takes m = .refuse) ∧
     (c.kind = .ladle → m.payload = .ladle op ws → c.takes m = if op ≠ c.op then .refuse
       else if c.nm1.toNat ≤ c.count ∧ c.presented ≠ none then .overflow else .take)) ∧
   (∀ (core slot i j n : Nat) (s : State) (m : Msg), coreIn core = true → slot < 64 → (s.core core).msgSaved = false →
     s.ovfIndex (clusterOf core) (s.tagOf core).toNat = some i → i < 8 →
     let q := (s.cluster (clusterOf core)).ovf.getD i []
     q[j]? = some (.msg core m) → nameSlot m.name = slot →
     (∀ e ∈ q.take j, e.isFor core slot = false) → s.liveSlot core m.name = some n →
     (((s.core core).chan n).takes m = .overflow → exec (.overflowMoveBack core slot) s = .next s) ∧
     (((s.core core).chan n).kind = .fifo → ((s.core core).chan n).takes m = .take →
       ∃ t : State, exec (.overflowMoveBack core slot) s = .next t ∧ (t.cluster (clusterOf core)).ovf.getD i [] = q.eraseIdx j ∧
         (t.core core).chan n = { (s.core core).chan n with
           ring := ((s.core core).chan n).ring ++ [⟨m, (s.core core).arrivals + 1⟩] }))) ∧
  (∀ (core i : Nat) (s : State) (ws : List Word) (cv : List Cover) (rest : List (List Word × List Cover)), coreIn core = true →
     (s.core core).packets = (ws, cv) :: rest →
     let k := Config.keeperOf (clusterOf core)
     let name := s.devReg (.faultCh (clusterOf core))
     (s.liveSlot k name = none → exec (.faultPacketResend core) s = .next s) ∧
     (s.liveSlot k name = some i → ((s.core k).chan i).kind = .fifo →
       (((s.core k).chan i).nm1.toNat < ((s.core k).chan i).ring.length ∨ cv.all (s.performed .clus false) = false →
         exec (.faultPacketResend core) s = .next s) ∧
       (((s.core k).chan i).ring.length ≤ ((s.core k).chan i).nm1.toNat → cv.all (s.performed .clus false) = true →
         ∃ t : State, ∃ e : RingEntry, exec (.faultPacketResend core) s = .next t ∧ (t.core core).packets = rest ∧
           ((t.core k).chan i).ring = ((s.core k).chan i).ring ++ [e] ∧ e.seq = (s.core k).arrivals + 1 ∧ e.msg.name = name ∧
           e.msg.status = .notice ∧ e.msg.payload = .words ws ∧ e.msg.sender = core)))

/-- R27, R229, R231 and R232: HSTART starts the lowest free helper at its entry, with the control context's region and the run's words,
and gives its number; with none free its context waits with a claim. A helper's HSTART raises ILLEGAL, an entry that is not a
multiple of 4 ALIGN. HSTAT gives the core's counts and live contexts. A waiting HSTART issues again once a helper is free. R28, R229
and R230: SPAWN places a spawn item with its entry, region, words, hint and radius. Walking, the item is taken by the first core on
its way that is within reach of the hint, has a helper for it and no firing that wants one; past its last core it parks in the hint
core's queue, or, the queue being full, is returned to its spawner's error channel. R19 to R24: of the patterns that may fire the
sluice chooses one of the highest rank: the lowest slot, or among fair patterns the first at or after the rank's pointer, which
moves behind it. It removes the head of each of the pattern's channels, and of no other, and starts the body with their words and
views on the control context or the lowest helper for it. With no such pattern the oldest parked item that may fire starts; with
neither, nothing happens. R24, R26 and R338: a LOADING context runs once what its start waits for has performed, with the watchdog
and the other fields of its region's chain; with a broken chain it is FROZEN with PAGE and one packet more, before its first
instruction. -/
def Obligations.BodiesStart : Prop :=
  ((∀ (o : HstartW) (s : State),
     s.Clear { srcs := (.x o.ra, o.ea) :: (payloadRegs o.mp o.rb (o.n.toNat + 1)).map fun r => (r, false), dests := [.x o.rd] } →
     let entry := s.ctx.readX o.ra
     let ws : List Word := (List.range (o.n.toNat + 1)).map fun i =>
       if o.mp then s.ctx.readM (o.rb.toNat + i) else s.ctx.readX (o.rb + BitVec.ofNat 5 i)
     (s.cur.2 ≠ 0 → ∃ t : State, exec (.hstart o) s = .next t ∧ s.faulted t ⟨.illegal, 0, 0⟩) ∧
     (s.cur.2 = 0 → entry.toNat % 4 ≠ 0 → ∃ t : State, exec (.hstart o) s = .next t ∧ s.faulted t ⟨.align, 0, entry⟩) ∧
     (s.cur.2 = 0 → entry.toNat % 4 = 0 →
       (∀ f, s.budgetFault = some f → ∃ t : State, exec (.hstart o) s = .next t ∧ s.faulted t f) ∧
       (s.budgetFault = none →
         (s.me.stopping = true ∨ (∀ k, 1 ≤ k → k ≤ 10 → (s.me.ctx k).state ≠ .free) →
           ∃ t : State, exec (.hstart o) s = .next t ∧ t.ctx.state = .waiting ∧ t.ctx.claim = true ∧ t.ctx.pc = s.ctx.pc ∧
             t.ctx.x = s.ctx.x ∧ ∀ k, k % 11 ≠ 0 → t.me.ctx k = s.me.ctx k) ∧
         (∀ k, s.me.stopping = false → 1 ≤ k → k ≤ 10 → (s.me.ctx k).state = .free →
           (∀ j, 1 ≤ j → j < k → (s.me.ctx j).state ≠ .free) →
           ∃ t : State, exec (.hstart o) s = .next t ∧ t.ctx.pc = s.ctx.pc + 4 ∧ t.ctx.claim = false ∧
             (∀ i, t.ctx.readX i = if i = 0 then 0 else if i = o.rd then BitVec.ofNat 64 k else s.ctx.readX i) ∧
             (t.me.ctx k).begun entry s.ctx.rcbptr 0 0 ws [] (mstatOf .hstart 0 [(.data, .words ws)]) ∧
             ∀ j, 1 ≤ j → j ≤ 10 → j ≠ k → t.me.ctx j = s.me.ctx j)))) ∧
   (∀ (rd : BitVec 5) (s : State), s.Clear { dests := [.x rd] } →
     exec (.hstat rd) s = .next (s.wroteX rd (BitVec.ofNat 64 (s.me.spill.length * 2 ^ 48 + s.me.outbox.length * 2 ^ 40 +
       s.me.spawnQ.length * 2 ^ 32 + ((span 1 10).filter fun k => (s.me.ctx k).state == .free).length * 2 ^ 16 +
       ((List.range 11).map fun k => if (s.me.ctx k).state = .free then 0 else 2 ^ k).sum)))) ∧
   (∀ (core : Nat) (s : State), coreIn core = true →
     (((s.core core).ctx 0).claim = true → ((s.core core).ctx 0).state = .waiting → (s.core core).stopping = false →
       (∃ k, 1 ≤ k ∧ k ≤ 10 ∧ ((s.core core).ctx k).state = .free) →
       ∃ t : State, exec (.hstartRetry core) s = .next t ∧ (t.core core).ctx 0 = { (s.core core).ctx 0 with state := .running }) ∧
     (((s.core core).ctx 0).state ≠ .waiting ∨ ((s.core core).ctx 0).claim = false → exec (.hstartRetry core) s = .next s))) ∧
  ((∀ (o : SpawnW) (s : State), s.Clear
       { srcs := (.x o.hint, false) :: (.x o.ra, o.ea) :: (payloadRegs o.mp o.rb (o.n.toNat + 1)).map fun r => (r, false) } →
     let h := s.ctx.readX o.hint
     let entry := s.ctx.readX o.ra
     let ws : List Word := (List.range (o.n.toNat + 1)).map fun i =>
       if o.mp then s.ctx.readM (o.rb.toNat + i) else s.ctx.readX (o.rb + BitVec.ofNat 5 i)
     (entry.toNat % 4 ≠ 0 → ∃ t : State, exec (.spawn o) s = .next t ∧ s.faulted t ⟨.align, 0, entry⟩) ∧
     (entry.toNat % 4 = 0 → s.inPound (bits h 14 0) = false → ∃ t : State, exec (.spawn o) s = .next t ∧ s.faulted t ⟨.windowBounds, 0, 0⟩) ∧
     (entry.toNat % 4 = 0 → s.inPound (bits h 14 0) = true →
       (∀ f, s.budgetFault = some f → ∃ t : State, exec (.spawn o) s = .next t ∧ s.faulted t f) ∧
       (s.budgetFault = none → s.me.outFull = false → ∃ t : State, ∃ it : SpawnItem, exec (.spawn o) s = .next t ∧ s.sentOut t (.spawn it) ∧
         t.ctx.x = s.ctx.x ∧ it.origin = .spawn ∧ it.entry = entry ∧ it.rcb = s.ctx.region.rcb ∧ it.words = ws ∧
         it.spawner = s.cur.1 ∧ it.hint = bits h 14 0 ∧ it.tag = s.tagOf s.cur.1 ∧ it.errCh = s.ctx.region.errCh ∧
         it.radius = (if h.getLsbD 20 then bits h 19 16 else s.ctx.region.radius.toNat)))) ∧
   (∀ (k : Nat) (s : State) (w : Walker), s.walkers[k]? = some w → let it := w.item
     (∀ c rest x, w.route = c :: rest → (s.core it.hint).stopping = false →
       (s.takesItem c it = false → ∃ t : State, exec (.spawnItemArrive k) s = .next t ∧ t.walkers = s.walkers.set k ⟨it, rest⟩ ∧
         t.cores = s.cores) ∧
       (s.takesItem c it = true → (s.core c).helpersFor.head? = some x → it.origin = .spawn →
         ∃ t : State, exec (.spawnItemArrive k) s = .next t ∧ t.walkers = s.walkers.eraseIdx k ∧
           ((t.core c).ctx x).begun it.entry it.rcb 0 (BitVec.ofNat 64 it.spawner) it.words []
             (mstatOf .spawn 0 [(.data, .words it.words)]))) ∧
     (w.route = [] ∨ (s.core it.hint).stopping = true →
       ((s.core it.hint).spawnQ.length < 32 → s.tagOf it.hint = it.tag → (s.core it.hint).msgSaved = false →
         ∃ t : State, exec (.spawnItemArrive k) s = .next t ∧ t.walkers = s.walkers.eraseIdx k ∧
           (t.core it.hint).spawnQ = (s.core it.hint).spawnQ ++ [it]) ∧
       (32 ≤ (s.core it.hint).spawnQ.length ∨ s.tagOf it.hint ≠ it.tag ∨ (s.core it.hint).msgSaved = true →
         ∃ t : State, ∃ m : Msg, exec (.spawnItemArrive k) s = .next t ∧ t.walkers = s.walkers.eraseIdx k ∧
           (t.core it.hint).relays = (s.core it.hint).relays ++ [m] ∧ m.name = it.errCh ∧ m.status = .undeliv ∧
           m.payload = .words it.words)))) ∧
  ((∀ (ps : List (Nat × Pattern)) (ptr : Nat → Nat) (i : Nat) (p : Pattern) (m : Option (Nat × Nat)), ps.Pairwise (fun a b => a.1 < b.1) →
     choose ps ptr = some ((i, p), m) → (i, p) ∈ ps ∧ (∀ q ∈ ps, q.2.rank.toNat ≤ p.rank.toNat) ∧
       (p.fair = false → m = none ∧ ∀ q ∈ ps, q.2.rank = p.rank → i ≤ q.1) ∧
       (p.fair = true → m = some (p.rank.toNat, (i + 1) % 32) ∧ ∀ q ∈ ps, q.2.rank = p.rank → q.2.fair = true →
         if ptr p.rank.toNat ≤ i then q.1 < ptr p.rank.toNat ∨ i ≤ q.1 else i ≤ q.1 ∧ q.1 < ptr p.rank.toNat)) ∧
   (∀ (core slot k : Nat) (p : Pattern) (m : Option (Nat × Nat)) (s : State), coreIn core = true →
     choose (s.candidates core) (fun r => ((s.core core).ptr.getD r 0).toNat) = some ((slot, p), m) →
     (s.core core).contextFor p.ctrl = some k → s.isPaired core p.region = false → p.chans.Nodup →
     let es := p.chans.filterMap fun i => ((s.core core).chan i.toNat).head
     let ms := es.map (·.msg)
     ∃ t : State, ∃ x5 : Word, exec (.sluiceEvaluate core) s = .next t ∧ t.mem = s.mem ∧
       ((t.core core).ctx k).begun p.entry p.region (BitVec.ofNat 64 slot) x5 (messageRegs (ms.map (·.payload)))
         (messageViews (ms.map (·.payload))) (mstatOf .firing p.rank.toNat (ms.map fun m => (m.status, m.payload))) ∧
       (∃ e ∈ es, x5 = e.seq.setWidth 64) ∧
       (∀ i ∈ p.chans, ((s.core core).chan i.toNat).kind = .fifo →
         ((t.core core).chan i.toNat).ring = ((s.core core).chan i.toNat).ring.drop 1) ∧
       (∀ i ∈ p.chans, ((s.core core).chan i.toNat).kind = .ladle → ((t.core core).chan i.toNat).presented = none) ∧
       (∀ i < 64, BitVec.ofNat 6 i ∉ p.chans → (t.core core).chan i = (s.core core).chan i) ∧
       ∀ j, j % 11 ≠ k % 11 → (t.core core).ctx j = (s.core core).ctx j) ∧
   (∀ (core k i : Nat) (it : SpawnItem) (s : State), coreIn core = true → s.candidates core = [] →
     (s.core core).helpersFor.head? = some k → (s.core core).spawnQ[i]? = some it → s.mayFire core it.rcb = true →
     (∀ j < i, ∀ x, (s.core core).spawnQ[j]? = some x → s.mayFire core x.rcb = false) →
     ∃ (t : State) (new : List SpawnItem), exec (.sluiceEvaluate core) s = .next t ∧
       (t.core core).spawnQ = (s.core core).spawnQ.eraseIdx i ++ new ∧ (s.noLaunch core → new = []) ∧
       (t.core core).chans = (s.core core).chans ∧ ((t.core core).ctx k).state = .loading ∧
       ((t.core core).ctx k).pc = it.entry ∧ ((t.core core).ctx k).m = Vector.ofFn fun j => it.words.getD j.val 0) ∧
   (∀ (core : Nat) (s : State), coreIn core = true → s.candidates core = [] → (s.core core).spawnQ = [] → s.noLaunch core →
     exec (.sluiceEvaluate core) s = .next (s.modCore core fun c => { c with sluiceDue := false }))) ∧
  (∀ (core k : Nat) (s : State), coreIn core = true → k < 11 → let c := (s.core core).ctx k
     (c.state ≠ .loading ∨ c.startCover.all (s.performed .core true) = false → exec (.contextLoaded core k) s = .next s) ∧
     (c.state = .loading → c.startCover.all (s.performed .core true) = true →
       (∀ r, s.regionOf (s.tagOf core).toNat c.rcbptr = .ok r → ∃ t : State, exec (.contextLoaded core k) s = .next t ∧ t.mem = s.mem ∧
         (let d := (t.core core).ctx k
          d.state = .running ∧ d.region = r ∧ d.wdleft = r.wdog ∧ d.pc = c.pc ∧ d.x = c.x ∧ d.m = c.m ∧ d.w = c.w ∧ d.entry = c.entry)) ∧
       (∀ a, s.regionOf (s.tagOf core).toNat c.rcbptr = .error a → ∃ t : State, exec (.contextLoaded core k) s = .next t ∧
         ((t.core core).ctx k).state = .frozen ∧ ((t.core core).ctx k).pc = c.faultPc ∧
         (t.core core).packets.map (·.1) = (s.core core).packets.map (·.1) ++
           [packetWords core k ⟨.page, 0, a⟩ c.faultPc c.region.domain c.faultWord])))

/-! ## Misses, stops and saves -/

/-- R343, R346, R349 and R350: the shard's keeper answers the oldest walk that has no answer, from the bucket. An answered walk that
finds a translation installs it, and the accesses that waited on its page go on; one that finds none opens a pending miss, with one
packet more, unless all sixteen are open. MISSDONE closes a pending miss: with bit 7 its accesses end in PAGE, without it they are
walked again. R353: an entry of a side log whose page is mapped, the oldest of its page that is not yet made, is made as issued: a
store, behind the older stores and the older accesses of its bytes, goes on to its home with its bytes; a no-return atomic joins the
atomic queue; one that its leaf refuses is dropped with its cause reported. The entry stays until its store has performed or its
atomic is applied. R337: a host, peer or pool target acknowledges the accesses of one node to one address in order; the bytes it
gives bind the part of the load that waits, and a transport failure leaves the load poisoned. A store stays in its buffer until its
target acknowledges it, with POISON found at its context's next issue where the transport failed. -/
def Obligations.WalksAndReplays : Prop :=
  ((∀ (k i : Nat) (w : Walk) (s : State), clusterIn k = true → (s.cluster k).walks[i]? = some w → w.answer = none →
     (∀ j < i, ∀ v, (s.cluster k).walks[j]? = some v → v.answer ≠ none) →
     ∃ t : State, exec (.keeperPtLookup k) s = .next t ∧ t.mem = s.mem ∧ t.cores = s.cores ∧ (t.cluster k).walks =
       (s.cluster k).walks.set i { w with answer := some (s.bucketLookup w.miss.tag.toNat w.miss.vpn.toNat) }) ∧
   (∀ (k i : Nat) (w : Walk) (s : State), clusterIn k = true → (s.cluster k).walks[i]? = some w → w.answer ≠ none →
     (∀ j < i, ∀ v, (s.cluster k).walks[j]? = some v → v.answer = none) →
     let va := w.miss.vpn.toNat * 2 ^ 16
     (∀ leaf, w.answer = some (some leaf) → ∃ t : State, exec (.translationWalk k) s = .next t ∧ t.mem = s.mem ∧
       (t.cluster k).walks = (s.cluster k).walks.eraseIdx i ∧ (t.cluster k).misses = (s.cluster k).misses ∧
       (t.cluster k).tlb = pageEntry w.miss.tag va leaf :: (s.cluster k).tlb ∧
       (w.miss.kind = 3 → (t.core w.miss.core).itlb = pageEntry w.miss.tag va leaf :: (s.core w.miss.core).itlb) ∧
       (∀ n x st, (n, s.core n) ∈ s.cores → clusterOf n = k → x < 11 → ((s.core n).ctx x).state = .xstall →
         ((s.core n).ctx x).stall = some st → st.vpn = w.miss.vpn → st.kind ≠ 7 →
         ((t.core n).ctx x).state = .running ∧ ((t.core n).ctx x).stall = none ∧ ((t.core n).ctx x).pc = ((s.core n).ctx x).pc)) ∧
     (∀ j, w.answer = some none → s.treeLookup k w.miss.tag.toNat va = none → clusterOf w.miss.core = k → j < 16 →
       (∀ i : Fin 16, ∀ m, (s.cluster k).misses.get i = some m → (m.tag, m.vpn) ≠ (w.miss.tag, w.miss.vpn)) →
       (s.cluster k).misses[j]? = some none → (∀ i < j, (s.cluster k).misses[i]? ≠ some none) →
       ∃ t : State, exec (.translationWalk k) s = .next t ∧ t.mem = s.mem ∧ (t.cluster k).walks = (s.cluster k).walks.eraseIdx i ∧
         (t.cluster k).misses[j]? = some (some w.miss) ∧ (t.core w.miss.core).packets.length = (s.core w.miss.core).packets.length + 1)) ∧
   (∀ (k : Nat) (v : Word) (m : Miss) (s : State), clusterIn k = true → let i := bits v 3 0
     (s.cluster k).misses[i]? = some (some m) →
     (v.getLsbD 7 = false → ∃ t : State, exec (.missdone k v) s = .next t ∧ t.mem = s.mem ∧ (t.cluster k).misses[i]? = some none ∧
       (t.cluster k).walks = (s.cluster k).walks ++ [⟨m, none⟩]) ∧
     (∀ n x st, v.getLsbD 7 = true → (n, s.core n) ∈ s.cores → clusterOf n = k → x < 11 →
       ((s.core n).ctx x).state = .xstall → ((s.core n).ctx x).stall = some st → st.index = some i →
       ∃ t : State, exec (.missdone k v) s = .next t ∧ t.mem = s.mem ∧ (t.cluster k).misses[i]? = some none ∧
         (t.cluster k).walks = (s.cluster k).walks ∧ ((t.core n).ctx x).state = .frozen ∧
         ((t.core n).ctx x).pc = ((s.core n).ctx x).faultPc ∧ ((t.core n).ctx x).x = ((s.core n).ctx x).x ∧
         (s.core n).packets.length < (t.core n).packets.length))) ∧
  (∀ (core k : Nat) (s u : State) (e : SideEntry) (pa : Nat) (leaf : Word), coreIn core = true → let c := s.core core
     c.sideLog[k]? = some e →
     let goes (P : State → Prop) : Prop := ∃ t : State, exec (.sideLogReplay core k) s = .next t ∧ t.mem = s.mem ∧ P t
     let older := (c.sideLog.take k).any fun d => !d.sent && d.va.toNat / 2 ^ 16 == e.va.toNat / 2 ^ 16
     let behind := if e.atom.isSome then decide (8 ≤ c.atomQ.length ∧ 256 ≤ c.spill.length)
       else c.stores.any (fun st => decide (st.seq < e.seq)) || !c.mayDrain (sideAsStore e 0 0 0)
     let low := lowestOne 16 e.mask.toNat % 16
     let va := e.va + BitVec.ofNat 64 low
     let made : List SideEntry := c.sideLog.set k { e with sent := true }
     (e.sent = true → (s.sideOut core e = true → exec (.sideLogReplay core k) s = .next s) ∧
       (s.sideOut core e = false → goes fun t => (t.core core).sideLog = c.sideLog.eraseIdx k ∧ t.net = s.net)) ∧
     (e.sent = false → (e.mapped = false ∨ older = true ∨ behind = true → exec (.sideLogReplay core k) s = .next s) ∧
       (e.mapped = true → older = false → behind = false → s.translate core false va = (some (pa, leaf), u) →
         (∀ a, e.atom = none → c.pairOf e.ctx = none → u.checkLeaf (u.tagOf core).toNat .store va e.view.isSome pa leaf = .ok a →
           leafTgt leaf = 0 → goes fun t => (t.core core).sideLog = made ∧ ∃ r : MemReq, t.net = s.net ++ [r] ∧ r.op = .write e.mask e.data ∧
             r.pa = pa - low ∧ r.asker = .store core e.ctx e.seq ∧ r.va = e.va) ∧
         (∀ a x, e.atom = some a → u.checkLeaf (u.tagOf core).toNat .atn va e.view.isSome pa leaf = .ok x →
           goes fun t => (t.core core).sideLog = made ∧ t.net = s.net ∧ ∃ q : AtomEntry, q.atom = a ∧ q.va = va ∧ q.pa = pa ∧ q.seq = e.seq ∧
             q.ctx = e.ctx ∧ q.scope = e.scope ∧ (if c.atomQ.length < 8 then (t.core core).atomQ = c.atomQ ++ [q] ∧ (t.core core).spill = c.spill
               else (t.core core).atomQ = c.atomQ ∧ (t.core core).spill = c.spill ++ [.atom q])) ∧
         (∀ f, e.atom = none → c.pairOf e.ctx = none → u.checkLeaf (u.tagOf core).toNat .store va e.view.isSome pa leaf = .fault f →
           (c.ctx e.ctx).live = true → (c.ctx e.ctx).since ≤ e.seq →
           goes fun t => (t.core core).sideLog = c.sideLog.eraseIdx k ∧ t.net = s.net ∧ ∃ d : Deferred,
             ((t.core core).ctx e.ctx).deferred = (c.ctx e.ctx).deferred ++ [d] ∧ d.info.cause = f.cause)))) ∧
  (∀ (k data : Nat) (poison : Bool) (s : State) (r : MemReq), s.remote[k]? = some r → s.pairWaits r = false →
     let blocked := (s.remote.take k).any fun q => !s.pairWaits q && (q.node == r.node && q.pa == r.pa && q.target == r.target && q.chip == r.chip)
     (blocked = true → exec (.remoteTargetAck k data poison) s = .next s) ∧
     (blocked = false → s.migRemote r = none →
       (∀ n f1 fc rank c x q i, r.op = .read n f1 fc rank → r.asker = .load c x q i →
         ∃ t : State, exec (.remoteTargetAck k data poison) s = .next t ∧ t.remote = s.remote.eraseIdx k ∧ t.mem = s.mem ∧
           ((t.core c).ctx x).pends = ((s.core c).ctx x).pends.map fun p => if p.seq = q then
             { p with
               pieces := p.pieces.mapIdx fun j y => if j = i then
                 { y with value := some (merge y.len (if poison then 0 else data % 256 ^ n) y.omask y.odata) } else y
               poison := if poison then some (BitVec.ofNat 64 r.pa) else p.poison } else p) ∧
       (∀ m d c x q, r.op = .write m d → r.asker = .store c x q →
         ∃ t : State, exec (.remoteTargetAck k data poison) s = .next t ∧ t.remote = s.remote.eraseIdx k ∧ t.mem = s.mem ∧
           (t.core c).stores = (s.core c).stores.filter (·.seq != q) ∧
           (∀ st, poison = true → (s.core c).stores.find? (·.seq == q) = some st → ((s.core c).ctx x).live = true → ((s.core c).ctx x).since ≤ q →
             ∃ e : Deferred, ((t.core c).ctx x).deferred = ((s.core c).ctx x).deferred ++ [e] ∧ e.info = ⟨.poison, 0, BitVec.ofNat 64 r.pa⟩))))

/-- R37, R39 and R369: a run counter at zero saves its context and leaves it FROZEN with a WATCHDOG packet; one in its own save resets
the core, reporting every live context; one that waits for its turn of a save is saved so in its turn; any other is left alone. R38,
R269, R366 and R369: the end of a slice. Its signal stops the sluice and starts the grace interval; at its end the contexts stop and
the saves begin, in rising order of their numbers; each save leaves its context SAVED at its group's first HINT, a FROZEN one as it
was, with its image in the extension; then the core's message state is saved, and with the last core's the pound's device is no
longer resident. A core whose device is resident again restores what it saved and lets its saved contexts run. R40: a fault found
after its instruction retired is taken at its context's next issue: FROZEN there, FPC at the culprit, with one packet more, and the
later causes left. -/
def Obligations.WatchdogsAndSlices : Prop :=
  (∀ (core k : Nat) (s : State), coreIn core = true → k < 11 → let c := s.core core
     let x := c.ctx k
     (x.wdleft ≠ 0 ∨ (x.state ≠ .running ∧ x.state ≠ .waiting) ∨ x.forced = true ∨ c.killing ≠ none →
       exec (.watchdogExpire core k) s = .next s) ∧
     (x.wdleft = 0 → x.state = .running ∨ x.state = .waiting → x.forced = false → c.killing = none →
       (c.ending = false → ∃ t : State, exec (.watchdogExpire core k) s = .next t ∧ ((t.core core).ctx k).state = .frozen ∧
         ((t.core core).ctx k).pc = x.faultPc ∧ ((t.core core).ctx k).x = x.x ∧ ((t.core core).ctx k).v = x.v ∧
         (t.core core).packets.length = c.packets.length + 1) ∧
       (c.ending = true → c.saving.any (·.1 == k) = true → ∃ t : State, exec (.watchdogExpire core k) s = .next t ∧
         (t.core core).killing = some 21 ∧ (t.core core).saving = none ∧ (t.core core).packets.length =
           c.packets.length + ((List.range 11).filter fun j => (c.ctx j).state != .free).length) ∧
       (c.ending = true → c.saving.any (·.1 == k) = false → ∃ t : State, exec (.watchdogExpire core k) s = .next t ∧
         (t.core core).ctx k = { x with forced := true } ∧ ∀ j, j % 11 ≠ k % 11 → (t.core core).ctx j = c.ctx j))) ∧
  ((∀ (core g : Nat) (s : State), coreIn core = true → (s.core core).signal = some g →
     exec (.sliceEndSignal core) s = .next (s.modCore core fun c => { c with signal := none, stopping := true, grace := g })) ∧
   (∀ (core : Nat) (s : State), coreIn core = true → let c := s.core core
     (c.stopping = false ∨ c.ending = true ∨ c.grace ≠ 0 → exec (.graceExpire core) s = .next s) ∧
     (c.stopping = true → c.ending = false → c.grace = 0 → ∃ t : State, exec (.graceExpire core) s = .next t ∧ t.mem = s.mem ∧
       (t.core core).ending = true ∧ (∀ k < 11, ((t.core core).ctx k).pc = (c.ctx k).pc ∧ ((t.core core).ctx k).x = (c.ctx k).x ∧
         ((t.core core).ctx k).arrival = (c.ctx k).arrival.filter fun a => a.phase != .waiting) ∧
       (∀ k < 11, (c.ctx k).state ≠ .free → (∀ j < k, (c.ctx j).state = .free) → ∃ n, (t.core core).saving = some (k, n)) ∧
       ((∀ k < 11, (c.ctx k).state = .free) → (t.core core).saving = none))) ∧
   (∀ (core k n : Nat) (s : State), coreIn core = true → k < 11 → (s.core core).saving = some (k, n) → let c := s.core core
     let x := c.ctx k
     (n ≠ 0 ∨ x.state = .loading ∨ x.pends ≠ [] ∨ (∃ a < 8, (c.tile a).busy = true) → exec (.contextSave core) s = .next s) ∧
     (n = 0 → x.state ≠ .loading → x.pends = [] → c.midWord k = false → c.drain = none → (∀ a < 8, (c.tile a).busy = false) →
       (x.forced = false → ∃ t : State, exec (.contextSave core) s = .next t ∧ (t.core core).savedCtx.getLsbD k = true ∧
         (let y := (t.core core).ctx k
          y.state = (if x.state = .frozen then .frozen else .saved) ∧ y.x = x.x ∧ y.v = x.v ∧ y.m = x.m ∧ y.w = x.w ∧ y.q = x.q ∧
           y.pc = (if x.state = .frozen then x.pc else x.faultPc) ∧ (x.state ≠ .frozen → y.group = none)) ∧
         (∀ j, k < j → j < 11 → (c.ctx j).state ≠ .free → c.savedCtx.getLsbD j = false →
           (∀ i, k < i → i < j → (c.ctx i).state = .free ∨ c.savedCtx.getLsbD i = true) → ∃ m, (t.core core).saving = some (j, m)) ∧
         ((∀ j, k < j → j < 11 → (c.ctx j).state = .free ∨ c.savedCtx.getLsbD j = true) → (t.core core).saving = none)) ∧
       (x.forced = true → ∃ t : State, exec (.contextSave core) s = .next t ∧ ((t.core core).ctx k).state = .frozen ∧
         ((t.core core).ctx k).pc = x.faultPc ∧ ((t.core core).ctx k).forced = false ∧
         (t.core core).packets.length = c.packets.length + 1))) ∧
   (∀ (core : Nat) (s : State) (p : Pound), coreIn core = true → let c := s.core core
     (c.ending = false ∨ c.saving ≠ none ∨ c.msgSaved = true ∨ c.stores ≠ [] ∨ c.relays ≠ [] → exec (.messageStateSave core) s = .next s) ∧
     (c.ending = true → c.saving = none → c.killing = none → c.msgSaved = false → c.stores = [] → c.atomsOut = [] → c.relays = [] →
       (∀ e ∈ c.sideLog, e.sent = false) →
       s.poundOf (clusterOf core) = some p → ∃ t : State, exec (.messageStateSave core) s = .next t ∧ (t.core core).msgSaved = true ∧
         (t.core core).chans = c.chans ∧ (t.core core).ctxs = c.ctxs ∧
         ((∃ k ∈ nodeClusters p.record.node, ∃ n ∈ coresOfCluster k, n ≠ core ∧ (s.core n).msgSaved = false) → t.pounds = s.pounds))) ∧
   (∀ (core : Nat) (s : State), coreIn core = true → let c := s.core core
     (c.msgSaved = false ∨ s.tagOf core = 0 → exec (.poundResume core) s = .next s) ∧
     (c.msgSaved = true → s.tagOf core ≠ 0 → c.devTag = s.tagOf core →
       ∃ t : State, exec (.poundResume core) s = .next t ∧ t.mem = s.mem ∧ (t.core core).msgSaved = false ∧ (t.core core).stopping = false ∧
         (t.core core).chans = c.chans ∧ ∀ k < 11, (t.core core).ctx k =
           if (c.ctx k).state = .saved then { c.ctx k with state := .running } else c.ctx k))) ∧
  (∀ (core k : Nat) (s : State) (d : Deferred) (ds : List Deferred), coreIn core = true → k < 11 → let c := (s.core core).ctx k
     c.deferred = d :: ds →
     (c.state = .running ∨ c.state = .waiting → ∃ t : State, exec (.deferredFaultTake core k) s = .next t ∧
       (let e := (t.core core).ctx k
        e.state = .frozen ∧ e.pc = c.faultPc ∧ e.fpc = d.fpc ∧ e.deferred = ds ∧ e.x = c.x ∧ e.v = c.v) ∧
       (t.core core).packets.length = (s.core core).packets.length + 1 ∧ t.mem = s.mem) ∧
     (c.state ≠ .running → c.state ≠ .waiting → exec (.deferredFaultTake core k) s = .next s))

/-! ## The keeper -/

/-- R195, R362 and R363: what the keeper's commands do to the context a core's window selects, and nothing to any other: STOP freezes
one at its group's boundary, with no packet, and marks one elsewhere to freeze at its next; RESUME and STEP let a FROZEN one go on
at its PC, STEP for one group; RESTART starts the body over with its messages and views, a view register still waiting for the
Colander's answer it has asked for (entry 78). A write of the window sets a field of a FROZEN or SAVED context, or fills an empty x
register in any state; DBGCTL takes the commands. -/
def Obligations.KeeperCommands : Prop :=
  (∀ (core k : Nat) (s : State), coreIn core = true → (s.core core).ctxsel.toNat = k → k ≤ 10 → let x := (s.core core).ctx k
    let does (i : Instr) (P : Ctx → Prop) : Prop := ∃ t : State, exec i s = .next t ∧ P ((t.core core).ctx k) ∧ t.mem = s.mem ∧
      (t.core core).packets = (s.core core).packets ∧ ∀ j < 11, j ≠ k → (t.core core).ctx j = (s.core core).ctx j
    (x.state = .free ∨ x.state = .frozen ∨ x.state = .saved → does (.stop core) (· = x)) ∧
    (x.state = .loading ∨ x.state = .running ∨ x.state = .waiting ∨ x.state = .xstall →
      ((s.core core).mayStop k = true → does (.stop core) fun y => y.state = .frozen ∧ y.pc = x.faultPc ∧ y.x = x.x ∧ y.v = x.v ∧
        y.m = x.m ∧ y.w = x.w ∧ y.q = x.q ∧ y.stopReq = false) ∧
      ((s.core core).mayStop k = false → does (.stop core) (· = { x with stopReq := true }))) ∧
    (∀ b, (x.state ≠ .frozen → does (.debugResume core b) (· = x) ∧ does (.step core b) (· = x)) ∧
      (x.state = .frozen → x.rep = none →
        does (.debugResume core b) (fun y => y.state = .running ∧ y.pc = x.pc ∧ y.x = x.x ∧ y.v = x.v ∧ y.stepping = false ∧
          y.slot = if b then slotGroup (s.core core).slotMem.toList else []) ∧
        does (.step core b) (fun y => y.state = .running ∧ y.pc = x.pc ∧ y.x = x.x ∧ y.v = x.v ∧ y.stepping = true ∧
          y.slot = if b then slotGroup (s.core core).slotMem.toList else []))) ∧
    (x.state = .free ∨ x.state = .loading → does (.restart core) (· = x)) ∧
    (x.state ≠ .free → x.state ≠ .loading → does (.restart core) fun y => y.state = .running ∧ y.pc = x.entry ∧
      (∀ i, y.readX i = if i = 3 then x.rcbptr else if i = 4 then x.start4 else if i = 5 then x.start5 else 0) ∧
      (∀ i, y.readV i = 0) ∧ y.m = x.m ∧ y.w = x.w ∧ y.mstat = x.mstat ∧ (∀ i, y.readQ i = .off) ∧ y.fpctl = 0 ∧ y.fpflags = 0 ∧
      y.wdleft = x.region.wdog ∧ y.rep = none ∧ y.pends = x.pends.filter Pend.asksView ∧
      ∀ r, y.full r = !y.pends.any fun p => p.dest.regs.contains r)) ∧
  (∀ (core : Nat) (s : State), coreIn core = true → 10 < (s.core core).ctxsel.toNat →
    ∀ i ∈ [.stop core, .debugResume core false, .step core false], exec i s = .next s) ∧
  (∀ (core : Nat) (v : Word) (s : State), core < Config.workers →
    (bits v 3 0 = 1 → exec (.debugWindowWrite core 0 v) s = exec (.stop core) s) ∧
    (bits v 3 0 = 2 → exec (.debugWindowWrite core 0 v) s = exec (.debugResume core (v.getLsbD 7)) s) ∧
    (bits v 3 0 = 3 → exec (.debugWindowWrite core 0 v) s = exec (.restart core) s) ∧
    (bits v 3 0 = 4 → exec (.debugWindowWrite core 0 v) s = exec (.kill core (bits v 15 10)) s) ∧
    (bits v 3 0 = 5 → exec (.debugWindowWrite core 0 v) s = exec (.step core (v.getLsbD 7)) s)) ∧
  (∀ (core k : Nat) (i : BitVec 5) (v : Word) (s : State), core < Config.workers → (s.core core).ctxsel.toNat = k → k ≤ 10 → i ≠ 0 →
    let x := (s.core core).ctx k
    let wrote (y : Ctx) : Prop := ∀ j, y.readX j = if j = 0 then 0 else if j = i then v else x.readX j
    (x.state = .frozen ∨ x.state = .saved → x.full (.x i) = true →
      ∃ t : State, exec (.debugWindowWrite core (0x100 + 8 * i.toNat) v) s = .next t ∧ wrote ((t.core core).ctx k) ∧
        ((t.core core).ctx k).pc = x.pc ∧ ((t.core core).ctx k).state = x.state) ∧
    (x.full (.x i) = false → ∃ t : State, exec (.debugWindowWrite core (0x100 + 8 * i.toNat) v) s = .next t ∧ wrote ((t.core core).ctx k) ∧
      ((t.core core).ctx k).full (.x i) = true ∧ ∀ r, r ≠ .x i → ((t.core core).ctx k).full r = x.full r) ∧
    (x.state ≠ .frozen → x.state ≠ .saved → x.full (.x i) = true →
      exec (.debugWindowWrite core (0x100 + 8 * i.toNat) v) s = .next s) ∧
    (x.state = .frozen → ∃ t : State, exec (.debugWindowWrite core 0x40 v) s = .next t ∧
      ((t.core core).ctx k).pc = v &&& 0xFFFFFFFFFFFFFFFC ∧
      ((t.core core).ctx k).x = x.x ∧ ((t.core core).ctx k).state = .frozen))

/-- R364: KILL with stores or atomics outstanding stops its core's contexts and waits, keeping its first cause; with none it frees every
context, channel and pattern, empties the outbox, the spill ring and the spawn queue, and ends. R365: HALT and RELEASE act on the
cores of their flight alone; a halted core's contexts stand at their group's first HINT with their state kept. -/
def Obligations.KillsAndHalts : Prop :=
  (∀ (core cause : Nat) (s : State), coreIn core = true →
    let n := (s.core core).killing.getD (cause % 64)
    let u := s.modCore core fun c => { c with killing := some n }
    (u.killReady core = false → exec (.kill core cause) s = .next u) ∧
    (u.killReady core = true → ∃ t : State, exec (.kill core cause) s = .next t ∧ (let c := t.core core
      (∀ k < 11, (c.ctx k).state = .free ∧ ∀ i, (c.ctx k).readW i = View.null) ∧ (∀ i < 64, (c.chan i).alloc = false) ∧
      (∀ i < 32, c.pat i = none) ∧ c.outbox = [] ∧ c.spill = [] ∧ c.spawnQ = [] ∧ c.sideLog = [] ∧ c.killing = none ∧
      c.drain = none ∧ ∀ a < 8, (c.tile a).valid = false))) ∧
  (∀ (core f : Nat) (s : State), core < Config.workers → let r := s.devReg (.flight core)
    (r.getLsbD 4 = false ∨ bits r 3 0 ≠ f → exec (.halt core f) s = .next s ∧ exec (.flightRelease core f) s = .next s) ∧
    (r.getLsbD 4 = true → bits r 3 0 = f →
      (∃ t : State, exec (.halt core f) s = .next t ∧ (t.core core).halted = true ∧ t.mem = s.mem ∧ ∀ k < 11,
        let x := (s.core core).ctx k
        let y := (t.core core).ctx k
        y.state = x.state ∧ y.x = x.x ∧ y.v = x.v ∧ y.q = x.q ∧ y.pends = x.pends ∧
          y.pc = if x.state = .running ∨ x.state = .waiting then x.faultPc else x.pc) ∧
      ∃ t : State, exec (.flightRelease core f) s = .next t ∧ (t.core core).halted = false ∧ (t.core core).ctxs = (s.core core).ctxs ∧
        (t.core core).chans = (s.core core).chans ∧ t.mem = s.mem))

/-- R370 and R396: a cut reaches every worker core of its pound; a quiet core records and queues its marker behind what waits to leave
it; an engine records when it has done every command ahead of its marker; a port injects its marker once. A router sends the marker
on only outputs whose inputs have had it. A memory cut with every core halted starts such a cut, and, once it is complete and has
not failed, copies memory; a rollback tears the pound's contexts down and puts the mapped frames, the recorded contexts and channels
back, and opens entry. -/
def Obligations.ConsistentCuts : Prop :=
  (∀ (node n : Nat) (s : State) (p : Pound), s.poundAt node = some p → ∃ t : State, exec (.cut node n) s = .next t ∧ t.mem = s.mem ∧
    (∀ c ∈ p.workers, (t.core c).cut = some ⟨n, false, false, 0, [], false⟩ ∧ (t.core c).ctxs = (s.core c).ctxs) ∧
    ∃ q ∈ t.cuts, q.number = n ∧ q.memory = false ∧ q.cores = [] ∧ q.ports = []) ∧
  (∀ (core : Nat) (s : State) (x : CutState), core < Config.workers → (s.core core).cut = some x → let c := s.core core
    (x.recorded = true ∨ (∃ k < 11, (c.ctx k).pends ≠ []) → exec (.coreCutRecord core) s = .next s) ∧
    (x.recorded = false → c.msgSaved = false → s.tagOf core ≠ 0 → c.outFull = false →
      (∀ k < 11, s.performed .dev false ⟨core, k, s.seq⟩ = true ∧ (c.ctx k).pends = [] ∧ c.midWord k = false ∧ (c.ctx k).state ≠ .loading) →
      ∃ t : State, exec (.coreCutRecord core) s = .next t ∧ (t.core core).cut = some { x with recorded := true } ∧
        (t.core core).sending = c.sending ++ [.marker x.number] ∧ (t.core core).ctxs = c.ctxs)) ∧
  (∀ (core : Nat) (s : State) (x : CutState) (q : Cut), core < Config.workers → (s.core core).cut = some x → s.cutOf core = some q →
    let outs := s.markerOuts core x q.ports
    ∃ t : State, ∃ y : CutState, exec (.cutMarkerForward core) s = .next t ∧ (t.core core).cut = some y ∧ y.number = x.number ∧
      (∀ i < 4, y.sent.getLsbD i = (x.sent.getLsbD i || outs.getLsbD i)) ∧
      (y.sent.getLsbD 4 = true → x.sent.getLsbD 4 = true ∨ (outs.getLsbD 4 = true ∧ x.recorded = true)) ∧
      (outs.getLsbD 4 = true → x.recorded = true → (∀ f ∈ s.flight, f.home = core → f.mark = x.number) → y.sent.getLsbD 4 = true)) ∧
  (∀ (k e n : Nat) (rest : List EngItem) (s : State), k < 4 → e < 16 → ((s.stack k).engine e).queue = .marker n :: rest →
    (((s.stack k).engine e).run ≠ none → exec (.engineCutRecord k e) s = .next s) ∧
    (((s.stack k).engine e).run = none → ∃ t : State, exec (.engineCutRecord k e) s = .next t ∧ ((t.stack k).engine e).queue = rest ∧
      ((t.stack k).engine e).cut = some n ∧ t.mem = s.mem)) ∧
  (∀ (port : Nat) (s : State), port < 24 → ∃ t : State, exec (.portCutInject port) s = .next t ∧ t.cores = s.cores ∧
    t.cuts = s.cuts.map fun c => if c.ports.contains (port / 2) then c else { c with ports := port / 2 :: c.ports }) ∧
  (∀ (node n : Nat) (s : State) (p : Pound), s.poundAt node = some p →
    ((∃ c ∈ p.workers, (s.core c).halted = false) → exec (.memoryCut node n) s = .next s) ∧
    ((∀ c ∈ p.workers, (s.core c).halted = true) →
      ((∀ q ∈ s.cuts, q.node = node → q.number = n → q.memory = false) →
        ∃ t : State, exec (.memoryCut node n) s = .next t ∧ (∀ c ∈ p.workers, (t.core c).cut = some ⟨n, false, false, 0, [], false⟩) ∧
          ∃ q ∈ t.cuts, q.number = n ∧ q.memory = true) ∧
      (∀ q, s.cuts.find? (fun c => c.node == node && c.number == n && c.memory) = some q → (∀ c ∈ p.workers, c ∈ q.cores) →
        q.failed = false → (∀ k ∈ s.checkpoints, ¬(k.node = node ∧ k.number = n)) →
        exec (.memoryCut node n) s = .next { s with checkpoints := ⟨node, n, s.mem, s.weights, s.lineKeys, s.poundFrames p⟩ :: s.checkpoints }))) ∧
  (∀ (node : Nat) (s : State) (p : Pound) (k : Checkpoint), s.poundAt node = some p →
    s.checkpoints.find? (·.node == node) = some k →
    Memory.wf k.mem = true → (∀ n ∈ p.workers, ∃ x, (lookupKey Core.reset (k.number, n) s.cutRecs).cut = some x ∧ x.log = []) →
    ∃ t : State, exec (.rollback node) s = .next t ∧
      (∀ a < Config.csWindow, a / 2 ^ 16 ∈ k.frames → readByte t.mem a = readByte k.mem a) ∧
      (∀ f ∈ t.flight, f.home ∉ p.workers) ∧
      ∀ n ∈ p.workers, let r := lookupKey Core.reset (k.number, n) s.cutRecs
        (t.core n).chans = r.chans ∧ (t.core n).pats = r.pats ∧ (t.core n).spawnQ = r.spawnQ ∧
          ∀ j < 11, (t.core n).ctx j = if (r.ctx j).state = .saved then { r.ctx j with state := .running } else r.ctx j)

/-! ## The host and the package -/

/-- R332 to R334: a tagged send that a valid entry of an open pound matches becomes a message for the channel its tag names, or a launch
item of the entry's body, parked at its home core or, while the device is away, waiting in its overflow ring; any other, and a
packet of an option the part does not implement (R328), gets the transport's error response and changes nothing else. R10 and R331:
a message from a peer enters under its name with its status and payload, for its home to check. R335, R336 and R350: an RMA through
a key that names no window, a window that does not grant it, or past the window's end, gets the error response; one whose page is
not mapped waits at its port. An RMA that passes goes to its home slices in naturally aligned parts of at most 8 bytes; a write's
completion leaves once every byte has performed. R341 and R342: a port accepts messages for a host's completion endpoint in order
per source and channel, and gathers them; a batch leaves, under the name of its first message, when it holds the endpoint's count,
at once when the endpoint's window is 0, or when its timer has run out: a message that comes then begins another batch. -/
def Obligations.PortsAndCompletions : Prop :=
  ((∀ (port : Nat) (ws : List Word) (s : State), port < 24 →
     (∀ asks : UeUse, (∀ tag, asks = .tagged tag → s.entryFor tag = none) →
       exec (.taggedSendAccept port asks ws) s = .next (s.leave .refused)) ∧
     (∀ (tag : Word) (t n kind : Nat), s.entryFor tag = some (t, n, kind) →
       let goes (P : State → Prop) : Prop := ∃ u : State, exec (.taggedSendAccept port (.tagged tag) ws) s = .next u ∧ P u
       let home := nameCore tag
       let refused (u : State) : Prop := u.egress = s.egress ++ [.refused] ∧ u.cores = s.cores ∧ u.flight = s.flight
       (ws = [] ∨ 4 < ws.length ∨ (s.poundOfTag t).any Pound.open_ = false →
         exec (.taggedSendAccept port (.tagged tag) ws) s = .next (s.leave .refused)) ∧
       (ws ≠ [] → ws.length ≤ 4 → (s.poundOfTag t).any Pound.open_ = true →
         (kind = 1 → nameChip tag = Config.chip.toNat → goes fun u => u.mem = s.mem ∧ ∃ x : Flight,
           u.flight = s.flight ++ [x] ∧ x.home = home ∧ x.msg.name = tag ∧ x.msg.status = .data ∧ x.msg.payload = .words ws) ∧
         (∀ p : Pound, kind ≠ 1 → s.poundOfTag t = some p →
           (Config.workers ≤ home ∨ nodeHas p.record.node (clusterOf home) = false → goes refused) ∧
           (home < Config.workers → nodeHas p.record.node (clusterOf home) = true →
             ((s.tagOf home).toNat = t → (s.core home).msgSaved = false →
               s.noLaunch home →
               ((s.core home).spawnQ.length < 32 → goes fun u => u.mem = s.mem ∧ ∃ it : SpawnItem,
                 (u.core home).spawnQ = (s.core home).spawnQ ++ [it] ∧ it.origin = .launch ∧ it.words = ws ∧
                   it.entry = s.devReg (.emEntry t n) &&& 0xFFFFFFFFFFFFFFFC ∧ it.rcb = s.devReg (.emRcb t n) &&& 0xFFFFFFFFFFFFFFC0) ∧
               (32 ≤ (s.core home).spawnQ.length → goes refused)) ∧
             (∀ x, (s.tagOf home).toNat ≠ t ∨ (s.core home).msgSaved = true → s.ovfIndex (clusterOf home) t = some x → x < 8 →
               let q := (s.cluster (clusterOf home)).ovf.getD x []
               let room := bits (s.devReg (.ovfRing (clusterOf home) x)) 47 32
               (q.length < room → goes fun u => u.cores = s.cores ∧ ∃ it : SpawnItem,
                 (u.cluster (clusterOf home)).ovf.getD x [] = q ++ [.launch home it] ∧ it.origin = .launch ∧ it.words = ws) ∧
               (room ≤ q.length → goes refused))))))) ∧
   (∀ (port : Nat) (name : Word) (st : BitVec 2) (op : Option (BitVec 2)) (ws : List Word) (s : State), port < 24 →
     let holds : PeerPayload := op.elim (.words ws) (.ladle · ws)
     (nameChip name ≠ Config.chip.toNat ∨ ws = [] ∨ 4 < ws.length → exec (.peerMessageReceive port name st holds) s = .next (s.leave .refused)) ∧
     (nameChip name = Config.chip.toNat → ws ≠ [] → ws.length ≤ 4 →
       ∃ u : State, ∃ x : Flight, exec (.peerMessageReceive port name st holds) s = .next u ∧ u.flight = s.flight ++ [x] ∧ u.mem = s.mem ∧
         x.home = nameCore name ∧ x.msg.name = name ∧
         x.msg.payload = (match op with
           | none => .words ws
           | some k => .ladle (if k = 0 then .pm else if k = 1 then .iadd else if k = 2 then .f32 else .f64) ws) ∧
         x.msg.status = if st = 0 then .data else if st = 1 then .error else if st = 2 then .undeliv else .notice))) ∧
  ((∀ (key : Word) (off n : Nat) (write : Bool) (s : State),
     (bits key 63 32 ≠ 0 ∨ bits key 15 4 ≠ 0 → s.rmaCheck key off n write = .refused) ∧
     (bits key 63 32 = 0 → bits key 15 4 = 0 → let tag := bits key 31 16
       let w := bits key 3 0
       (s.poundOfTag tag).any Pound.open_ = false ∨ (s.devReg (.rmaBase tag w)).getLsbD (if write then 1 else 0) = false ∨
         bits (s.devReg (.rmaLen tag w)) 31 0 * 2 ^ 16 < off + n → s.rmaCheck key off n write = .refused)) ∧
   (∀ va n, ((parts8 va n).map (·.2.2)).sum = n ∧ ∀ p ∈ parts8 va n, p.2.1 = va + p.1 ∧ 1 ≤ p.2.2 ∧
     p.2.1 / 8 = (p.2.1 + p.2.2 - 1) / 8) ∧
   (∀ (key : Word) (off n : Nat) (write : Bool) (data : List Byte) (i : Instr) (s : State),
     (write = true ∧ n = data.length ∧ i = .rmaWrite key off data) ∨ (write = false ∧ data = [] ∧ i = .rmaRead key off n) →
     (∀ w ∈ s.rmas, w.id ≠ s.seq) →
     let goes (P : State → Prop) : Prop := ∃ t : State, exec i s = .next t ∧ t.mem = s.mem ∧ P t
     (s.rmaCheck key off n write = .refused → goes fun t => t.net = s.net ∧ t.rmas = s.rmas ∧ t.egress = s.egress ++ [.refused]) ∧
     (∀ (tag : Nat) (va : Word), s.rmaCheck key off n write = .miss tag va → goes fun t => t.net = s.net ∧ t.egress = s.egress ∧
       t.rmas = s.rmas ++ [⟨s.seq, write, key, off, n, data, some (BitVec.ofNat 16 tag, va.extractLsb' 16 48), n, []⟩]) ∧
     (∀ (tag : Nat) (va : Word), s.rmaCheck key off n write = .ok tag va →
       (write = false → n = 0 → goes fun t => t.net = s.net ∧ t.rmas = s.rmas ∧ t.egress = s.egress ++ [.rmaRead []]) ∧
       (write = true ∨ n ≠ 0 → (∀ p ∈ parts8 va.toNat n, (s.leafOfTag tag (BitVec.ofNat 64 p.2.1)).isSome = true) →
         goes fun t => t.egress = s.egress ∧ t.rmas = s.rmas ++ [⟨s.seq, write, key, off, n, data, none, n, []⟩] ∧
         ∃ rs : List MemReq, t.net = s.net ++ rs ∧ rs.length = (parts8 va.toNat n).length ∧
         ∀ (j : Nat) (p : Nat × Nat × Nat), (parts8 va.toNat n)[j]? = some p → ∃ (r : MemReq) (pa : Nat) (l : Word), rs[j]? = some r ∧
           s.leafOfTag tag (BitVec.ofNat 64 p.2.1) = some (pa, l) ∧ r.pa = pa ∧ r.va = BitVec.ofNat 64 p.2.1 ∧ r.asker = .rma s.seq ∧
           r.op = if write then .write (firstBytes p.2.2) (BitVec.ofNat 128 (ofBytes ((data.drop p.1).take p.2.2)))
             else .read p.2.2 false false 0))) ∧
   (∀ (k : Nat) (w : Rma) (s : State), s.rmas[k]? = some w →
     (w.write = false ∨ w.stall ≠ none ∨ w.left ≠ 0 → exec (.rmaWriteComplete k) s = .next s) ∧
     (w.write = true → w.stall = none → w.left = 0 → ∃ t : State, exec (.rmaWriteComplete k) s = .next t ∧
       t.rmas = s.rmas.filter (·.id != w.id) ∧ t.egress = s.egress ++ [.rmaDone w.id] ∧ t.mem = s.mem))) ∧
  ((∀ (k : Nat) (f : Flight) (s : State), s.flight[k]? = some f →
     (f.home ≠ Config.workers ∨ nameChip f.msg.name = Config.chip.toNat ∨
       (s.flight.take k).any (fun g => g.source == f.source && g.msg.name == f.msg.name) = true →
       exec (.completionAccept k) s = .next s) ∧
     (f.home = Config.workers → nameChip f.msg.name ≠ Config.chip.toNat →
       (s.flight.take k).any (fun g => g.source == f.source && g.msg.name == f.msg.name) = false →
       let e := nameCore f.msg.name
       let h := nameChip f.msg.name
       let ctl := s.devReg (.compCtl f.tag e)
       let b := lookupKey (⟨[], 0, 0⟩ : Batch) (f.tag, h, e) s.batches
       let goes (P : State → Prop) : Prop := ∃ t : State, exec (.completionAccept k) s = .next t ∧ t.flight = s.flight.eraseIdx k ∧
         t.mem = s.mem ∧ P t
       let now (t : State) : Batch := lookupKey (⟨[], 0, 0⟩ : Batch) (f.tag, h, e) t.batches
       let out (l : List Msg) : Egress := .tagged ((l.head?.map (·.name)).getD 0) l
       let first : Batch := ⟨[f.msg], bits ctl 19 0, bits (s.devReg (.rte f.tag h)) 59 55 / 2⟩
       (b.msgs = [] ∨ b.timer ≠ 0 →
         (b.msgs.length + 1 ≠ bits ctl 31 26 + 1 → bits ctl 19 0 ≠ 0 → goes fun t => t.egress = s.egress ∧
           now t = if b.msgs = [] then first else ⟨b.msgs ++ [f.msg], b.timer, b.port⟩) ∧
         (b.msgs.length + 1 = bits ctl 31 26 + 1 ∨ bits ctl 19 0 = 0 → goes fun t => (now t).msgs = [] ∧
           t.egress = s.egress ++ [out (b.msgs ++ [f.msg])])) ∧
       (b.msgs ≠ [] → b.timer = 0 →
         (bits ctl 31 26 ≠ 0 → bits ctl 19 0 ≠ 0 → goes fun t => t.egress = s.egress ++ [out b.msgs] ∧ now t = first) ∧
         (bits ctl 31 26 = 0 ∨ bits ctl 19 0 = 0 → goes fun t => (now t).msgs = [] ∧ t.egress = s.egress ++ [out b.msgs, out [f.msg]])))) ∧
   (∀ (tag chip e : Nat) (s : State), let b := lookupKey (⟨[], 0, 0⟩ : Batch) (tag, chip, e) s.batches
     (b.timer ≠ 0 ∨ b.msgs = [] → exec (.completionTimerExpire tag ⟨chip, e⟩) s = .next s) ∧
     (∀ m rest, b.timer = 0 → b.msgs = m :: rest → ∃ t : State, exec (.completionTimerExpire tag ⟨chip, e⟩) s = .next t ∧
       (lookupKey (⟨[], 0, 0⟩ : Batch) (tag, chip, e) t.batches).msgs = [] ∧ t.egress = s.egress ++ [.tagged m.name (m :: rest)] ∧
       t.mem = s.mem)))

/-- R340, R399, R401 and R402: a unit posts whole picojoules of its charges and keeps the rest; once a stack has counted an interval its
end clears the stack's use and throttle, and the allotment that a reading lowered takes effect, within the envelope; an envelope
from 1600 to 3200 W bounds the stacks' allotments; a reading above it lowers those of the next interval. R354 to R356 and R392: a
migration entry moves from IDLE through CLAIMED, HOLD, COPY, REMAP, DRAIN and FORWARD, and each event moves only an entry in the
state before; a page another entry holds is refused. The copy writes the page as its old key decrypts it under the new; the remap
writes the new leaf and ends when no access of the page is open; the drain makes the held writes; CANCEL ends a claim or an aborted
migration; RELEASE frees the entry and retires the old frame when that was asked. -/
def Obligations.EnergyAndMigrations : Prop :=
  ((∀ (core : Nat) (s : State), core < Config.workers + Config.clusters → ∃ t : State, exec (.energyChargePost core) s = .next t ∧
     (t.core core).energy = ((s.core core).energy.map fun d => (d.1, d.2 % 16)).filter (fun d => d.2 != 0) ∧
     (t.core core).cycles = [] ∧ (t.core core).ctxs = (s.core core).ctxs) ∧
   (∀ (core d : Nat) (at_ : Word) (s : State), core < Config.workers + Config.clusters → (s.core core).energy = [(at_, d)] →
     (s.core core).cycles = [] → 16 ≤ d → let tag := (s.tagOf core).toNat
     let old := s.budget tag at_ 0
     old = 0 ∨ d / 16 < old → ∃ t : State, exec (.energyChargePost core) s = .next t ∧ t.flight = s.flight ∧
       t.mem = (s.pokeVa tag (at_ + 32) (toBytes 8 (old - d / 16))).mem) ∧
   (∀ (i : Nat) (s : State), i < 64 →
     (∃ t : State, exec (.energyChargePost (Config.workers + Config.clusters + i)) s = .next t ∧ ((t.stack (i / 16)).slice (i % 16)).energy =
       (((s.stack (i / 16)).slice (i % 16)).energy.map fun d => (d.1, d.2 % 16)).filter fun d => d.2 != 0) ∧
     (∃ t : State, exec (.energyChargePost (Config.workers + Config.clusters + 64 + i)) s = .next t ∧ ((t.stack (i / 16)).engine (i % 16)).energy =
       (((s.stack (i / 16)).engine (i % 16)).energy.map fun d => (d.1, d.2 % 16)).filter fun d => d.2 != 0)) ∧
   (∀ (h : Nat) (s : State), h < 24 → ∃ t : State, exec (.energyChargePost (Config.workers + Config.clusters + 128 + h)) s = .next t ∧
     t.portEnergy = s.portEnergy.filter (fun d => d.1.1 != h) ++
       (((s.portEnergy.filter fun d => d.1.1 == h).map fun d => (d.1, d.2 % 16)).filter fun d => d.2 != 0)) ∧
   (∀ (k : Nat) (s : State), k < 4 → let old := s.devReg (.estk k)
     (s.age (.stack k) < s.energyInterval k → exec (.energyIntervalEnd k) s = .next s) ∧
     (s.energyInterval k ≤ s.age (.stack k) → ∃ t : State, exec (.energyIntervalEnd k) s = .next t ∧ (t.stack k).used = 0 ∧
       (t.stack k).throttled = false ∧ t.mem = s.mem ∧ ((s.stack k).nextAllot = none → t.devRegs = s.devRegs) ∧
       ∀ a, (s.stack k).nextAllot = some a → bits (t.devReg (.estk k)) 31 0 = bits old 31 0 ∧
         bits (t.devReg (.estk k)) 63 32 = min a.toNat (allotCap s.envelope (s.energyInterval k)))) ∧
   (∀ (w : Nat) (s : State), (w < 1600 ∨ 3200 < w → exec (.envelopeSet w) s = .next s) ∧
     (1600 ≤ w → w ≤ 3200 → ∃ t : State, exec (.envelopeSet w) s = .next t ∧ t.envelope = w ∧ t.mem = s.mem ∧ ∀ k < 4,
       let old := s.devReg (.estk k)
       bits (t.devReg (.estk k)) 31 0 = bits old 31 0 ∧
         bits (t.devReg (.estk k)) 63 32 = min (bits old 63 32) (allotCap w (if bits old 31 0 = 0 then 1000000 else bits old 31 0)))) ∧
   (∀ (mw : Nat) (s : State), (mw ≤ 1000 * s.envelope → exec (.powerSample mw) s = .next s) ∧
     (1000 * s.envelope < mw → ∃ t : State, exec (.powerSample mw) s = .next t ∧ t.mem = s.mem ∧ t.envelope = s.envelope ∧ t.devRegs = s.devRegs ∧
       ∀ k < 4, ∃ a, (t.stack k).nextAllot = some a ∧
         (bits (s.devReg (.estk k)) 63 32 ≠ 0 → a.toNat < bits (s.devReg (.estk k)) 63 32)))) ∧
  ((∀ (k e : Nat) (s : State), k < 4 → e < 16 → let m := (s.stack k).migEntry e
     let goes (i : Instr) (P : Mig → Prop) : Prop := ∃ t : State, exec i s = .next t ∧ P ((t.stack k).migEntry e) ∧
       ∀ j < 16, j ≠ e → (t.stack k).migEntry j = (s.stack k).migEntry j
     (∀ req va, (m.state ≠ .idle → exec (.claim k e req va) s = .next s) ∧
       (m.state = .idle → (∃ j < 16, j ≠ e ∧ ((s.stack k).migEntry j).state ≠ .idle ∧ ((s.stack k).migEntry j).va = va) →
         goes (.claim k e req va) (· = { m with refused := true })) ∧
       (m.state = .idle → (∀ j < 16, j ≠ e → ((s.stack k).migEntry j).state = .idle ∨ ((s.stack k).migEntry j).va ≠ va) →
         goes (.claim k e req va) fun n => n.state = .claimed ∧ n.va = va ∧ n.req = BitVec.ofNat 2 req ∧ n.dst = m.dst ∧
           n.refused = false ∧ n.held = [])) ∧
     (m.state ≠ .claimed → exec (.start k e) s = .next s) ∧
     (∀ l, m.state = .claimed → s.bucketLookup (bits m.va 15 0) (bits m.va 63 16) = some l →
       goes (.start k e) (· = { m with state := .hold, oldLeaf := l })) ∧
     (m.state ≠ .hold → exec (.migrationHoldReady k e) s = .next s) ∧
     (m.state = .hold → goes (.migrationHoldReady k e) (· = { m with state := .copy })) ∧
     (m.state ≠ .copy → exec (.migrationCopyDone k e) s = .next s) ∧
     (m.state = .copy → goes (.migrationCopyDone k e) (· = { m with state := .remap })) ∧
     (m.state ≠ .remap → exec (.migrationRemapDone k e) s = .next s) ∧
     (m.state = .remap → (s.dropPage m.tag m.page).pageOpen m.tag m.page = false → s.leafPlace m.tag (m.page / 2 ^ 16) = none →
       goes (.migrationRemapDone k e) (· = { m with state := .drain })) ∧
     (m.state ≠ .drain → exec (.migrationDrainDone k e) s = .next s) ∧
     (m.state = .drain → goes (.migrationDrainDone k e) (· = { m with state := .forward, held := [] })) ∧
     (m.state ≠ .forward → exec (.migRelease k e) s = .next s) ∧
     (m.state = .forward → goes (.migRelease k e) (· = { m with state := .idle, retire := false })) ∧
     (m.state ≠ .claimed → m.state ≠ .aborted → exec (.cancel k e) s = .next s) ∧
     (m.state = .claimed ∨ m.state = .aborted → goes (.cancel k e) (· = { m with state := .idle }))) ∧
   (∀ (k e a : Nat) (s : State), k < 4 → e < 16 → let m := (s.stack k).migEntry e
     m.state = .remap → s.leafPlace m.tag (m.page / 2 ^ 16) = some a → ∃ t : State, exec (.migrationRemapDone k e) s = .next t ∧
       readMem t.mem a 8 = (newLeaf m.oldLeaf m.dst).toNat ∧ ∀ b, b < a ∨ a + 8 ≤ b → readByte t.mem b = readByte s.mem b) ∧
   (∀ (k e : Nat) (s : State), k < 4 → e < 16 → let m := (s.stack k).migEntry e
     m.state = .forward → leafTgt m.oldLeaf = 0 → m.retire = true ∨ m.req = 2 →
     ∃ t : State, exec (.migRelease k e) s = .next t ∧ leafFrame m.oldLeaf ∈ t.retired ∧ t.mem = s.mem))

/-- R372 to R376: a change of layout, its nodes the defined bits of their words, that fails its check, or comes before the wharf has
booted, changes nothing. One that passes closes the tags of the pounds it removes and stands PREPARED in the journal, then
COMMITTED, then in force: its pounds in place of the old, UNLOCKED and with their tags open, and its clusters handed over. A reset
while PREPARED leaves the old layout; while COMMITTED it makes the new one stand. R377: a handover leaves every worker core of a
cluster with no live context, channel or message, its local store and weight slice and the cluster's store as never written, and its
banks CACHE, or SCRATCH with SYS where the layout says; no other cluster's bytes change. R385 to R389: the boot extends the
measurement registers in order, and only when every image verifies; EXTEND takes MR6 and MR7 alone. A pound's trusted interface goes
from UNLOCKED through LOCKED to RUN and back, by the commands and from the states R386 gives, and any other command changes nothing;
a write to the frozen set outside UNLOCKED moves it to ERROR, with its keys gone and its tags closed, and SCRUB and then UNLOCK lead
out of that. -/
def Obligations.LayoutsAndTrust : Prop :=
  ((∀ (removed : List Nat) (news : List LayoutRecord) (s : State),
     let nodes : List Nat := removed.map (· % 2 ^ 13)
     let olds := nodes.map (BitVec.ofNat 64)
     let rs := news.map fun r => { r with node := r.node &&& 0x1FFF }
     (s.booted = false → exec (.layoutCommit removed news) s = .next s) ∧
     (s.booted = true → (s.journal = none ∨ ∃ j, s.journal = some j ∧ j.phase = .done) →
       (s.layoutOk nodes rs = false → exec (.layoutCommit removed news) s = .next s) ∧
       (s.layoutOk nodes rs = true → ∃ t : State, ∃ j : Journal, exec (.layoutCommit removed news) s = .next t ∧ t.mem = s.mem ∧ t.cores = s.cores ∧
         t.shadow = rs ∧ t.journal = some j ∧ j.phase = .prepared ∧ j.removed = olds ∧ j.records = rs ∧
         t.pounds = s.pounds.map fun p => if p.record.node ∈ olds then { p with tagsOpen := false } else p)) ∧
     (∀ j, s.booted = true → s.journal = some j → j.removed = olds → j.records = rs →
       (j.phase = .prepared → exec (.layoutCommit removed news) s = .next { s with journal := some { j with phase := .committed } }) ∧
       (j.phase = .committed → ∃ t : State, exec (.layoutCommit removed news) s = .next t ∧ t.shadow = [] ∧
         t.journal = some { j with phase := .done } ∧
         t.pounds = s.pounds.filter (fun p => p.record.node ∉ olds) ++ rs.map fun r => ⟨r, .unlocked, 0, none, 0, none, 0, true, false, true⟩))) ∧
   (∀ (s : State), ∃ t : State, exec .wharfReset s = .next t ∧ t.booted = false ∧ (∀ i : Fin 8, t.mr.get i = 0) ∧
     (∀ j, s.journal = some j → t.journal = some { j with phase := .done } ∧
       (j.phase = .prepared → t.mem = s.mem ∧ t.pounds = s.pounds.map fun p =>
         if p.record.node ∈ j.removed then { p with tagsOpen := true } else p) ∧
       (j.phase = .committed → t.pounds = s.pounds.filter (fun p => p.record.node ∉ j.removed) ++ j.records.map
         fun r => ⟨r, .unlocked, 0, none, 0, none, 0, true, false, true⟩)))) ∧
  (∀ (k : Nat) (m : BitVec 16) (s : State), k < Config.clusters → let t := s.handover k m
     (∀ n ∈ coresOfCluster k, (∀ j < 11, ((t.core n).ctx j).state = .free) ∧ (∀ i < 64, ((t.core n).chan i).alloc = false ∧
       ((t.core n).chan i).gen = 1) ∧ (t.core n).outbox = [] ∧ (t.core n).stores = [] ∧
       (∀ a < Config.lsSize, readByte t.mem (lsKey n a) = unwritten) ∧
       (∀ a < Config.sliceSize, readByte t.weights (wsKey n a) = unwritten)) ∧
     (∀ a < 2 ^ 20, readByte t.mem (csKey k 0 a) = unwritten) ∧
     (∀ b < 16, ((t.cluster k).bank b).busy = none ∧ (∀ i < 4, (((t.cluster k).bank b).ring i).depth = 0) ∧
       (if m.getLsbD b then ((t.cluster k).bank b).sys = true ∧ ((t.cluster k).bank b).mode = .scratch
         else ((t.cluster k).bank b).sys = false ∧ ((t.cluster k).bank b).mode = .cache)) ∧
     (∀ a < Config.csWindow, readByte t.mem a = readByte s.mem a) ∧
     (∀ j < Config.clusters, j ≠ k → ∀ a < 2 ^ 20, readByte t.mem (csKey j 0 a) = readByte s.mem (csKey j 0 a)) ∧
     (∀ n < Config.workers, clusterOf n ≠ k → ∀ a < Config.lsSize, readByte t.mem (lsKey n a) = readByte s.mem (lsKey n a)) ∧
     (∀ n, n < Config.workers → clusterOf n ≠ k → t.core n = s.core n)) ∧
  ((∀ (ds : List Nat) (s : State), ds.length ≤ 6 →
     exec (.wharfBoot ds false) s = .next { s with booted := false } ∧
     ∃ t : State, exec (.wharfBoot ds true) s = .next t ∧ t.booted = true ∧ t.mem = s.mem ∧ ∀ i < 8, t.mr[i]? = (s.mr[i]?).map fun old =>
       match ds[i]? with
       | none => old
       | some d => Config.sm3 (digestBytes old ++ digestBytes (BitVec.ofNat 256 d))) ∧
   (∀ (r d : Nat) (s : State), (s.booted = false ∨ (r ≠ 6 ∧ r ≠ 7) → exec (.extend r d) s = .next s) ∧
     (s.booted = true → r = 6 ∨ r = 7 → ∃ t : State, exec (.extend r d) s = .next t ∧ t.mem = s.mem ∧ ∀ i < 8, t.mr[i]? = (s.mr[i]?).map fun old =>
       if i = r then Config.sm3 (digestBytes old ++ digestBytes (BitVec.ofNat 256 d)) else old)) ∧
   (∀ (node : Nat) (s : State) (p : Pound), s.booted = true → s.poundAt node = some p → ∀ d n,
     let goes (i : Instr) (P : Pound → Prop) : Prop := ∃ t : State, ∃ q : Pound, exec i s = .next t ∧ t.poundAt node = some q ∧ q.record = p.record ∧ P q
     (p.trust ≠ .unlocked → exec (.lock node) s = .next s) ∧
     (p.trust = .unlocked → goes (.lock node) fun q => q.trust = .locked ∧ q.frozen = Config.sm3 (s.frozenBytes p)) ∧
     (p.trust = .locked → goes (.unlock node) fun q => q.trust = .unlocked) ∧
     (p.trust = .error → p.scrubbed = true → goes (.unlock node) fun q => q.trust = .unlocked ∧ q.keysLive = true ∧ q.tagsOpen = true) ∧
     (p.trust = .unlocked ∨ p.trust = .run ∨ p.trust = .error ∧ p.scrubbed = false → exec (.unlock node) s = .next s) ∧
     (p.trust = .unlocked ∨ p.trust = .error → exec (.report node n) s = .next s) ∧
     (p.trust = .locked ∨ p.trust = .run → goes (.report node n) fun q => q.trust = p.trust ∧ q.counter = p.counter + 1 ∧ q.report ≠ none) ∧
     (p.trust = .locked → p.report = some (BitVec.ofNat 256 d) → goes (.accept node d) fun q => q.trust = .run) ∧
     (p.trust ≠ .locked ∨ p.report ≠ some (BitVec.ofNat 256 d) → exec (.accept node d) s = .next s) ∧
     (p.trust ≠ .run → exec (.teardown node) s = .next s) ∧
     (p.trust = .run → goes (.teardown node) fun q => q.trust = .unlocked ∧ q.resident = none) ∧
     (p.trust ≠ .error → exec (.scrub node) s = .next s) ∧
     (p.trust = .error → goes (.scrub node) fun q => q.trust = .error ∧ q.scrubbed = true ∧ q.resident = none)) ∧
   (∀ (node : Nat) (reg : DevReg) (v : Word) (s : State) (p : Pound), s.frozenPound reg = some p → s.poundAt node = some p →
     p.record.node.toNat = node →
     (p.trust = .unlocked → exec (.frozenSetWrite node reg v) s = .next (s.writeReg reg v)) ∧
     (p.trust = .error → exec (.frozenSetWrite node reg v) s = .next s) ∧
     (p.trust = .locked ∨ p.trust = .run → ∃ t : State, ∃ q : Pound, exec (.frozenSetWrite node reg v) s = .next t ∧ t.devRegs = s.devRegs ∧
       t.poundAt node = some q ∧ q.trust = .error ∧ q.keysLive = false ∧ q.tagsOpen = false ∧ q.record = p.record ∧
       ∀ n ∈ p.workers, (t.core n).outbox = [] ∧ (t.core n).stopping = true)))

/-- R4: a write of a device register changes the fields its width gives it and keeps the reserved and read-only ones; the package's
reset sets everything but what the wharf's non-volatile store holds. CLEAR zeroes one error-counter block. R1, R378 to R381 and
R383: once a pound's period has passed each device's tokens rise by its allotment, to at most twice it; with no device resident the
wharf resumes one that is ready, of the highest priority; it ends a resident device's slice when its tokens are gone, or when
another is ready and its slice is over, by a signal to each core. A rebalance, 2^24 cycles after the last, moves at most one way and
halves its counts. -/
def Obligations.DeviceSchedule : Prop :=
  ((∀ (v : Word) (s : State) (t n c i : Nat), (∀ r, s.frozenPound r = none) →
     let wrote (r : DevReg) (m : Word) : Prop := ∃ u : State, exec (.registerWrite r v) s = .next u ∧ u.mem = s.mem ∧ u.cores = s.cores ∧
       u.readReg r = (s.devReg r &&& ~~~m) ||| (v &&& m) ∧ ∀ q, q ≠ r → u.devReg q = s.devReg q
     wrote (.faultCh c) (BitVec.allOnes 64) ∧ wrote (.svcCh c) (BitVec.allOnes 64) ∧ wrote (.ptShard c t) 0x3FFFFFF01F ∧
       wrote (.rtRoot c t) 0x3FFFFFFF00 ∧ wrote (.flight c) 0x1F ∧ wrote (.cutBase t) (BitVec.allOnes 64) ∧
       wrote (.saveXBase t) (BitVec.allOnes 64) ∧ wrote (.emTag t n) (BitVec.allOnes 64) ∧ wrote (.emEntry t n) (BitVec.allOnes 64) ∧
       wrote (.rte t n) 0xFF8000000000FFFF ∧ wrote (.emRcb t n) 0xFFFFFFFFFFFFFFC0 ∧ wrote (.rmaBase t n) 0xFFFFFFFFFFFF0003 ∧
       wrote (.rmaLen t n) 0xFFFFFFFF ∧ wrote (.compCtl t n) 0xFC0FFFFF ∧ wrote (.poundSch n) 0x0000FFFFFFFFFFFF ∧
       wrote (.chgw t i) 0xFFFFFF) ∧
   (∀ (t e : Nat) (v : Word) (s : State), exec (.registerWrite (.migCtl t e) v) s = .next s ∧
     exec (.registerWrite (.vdTok t) v) s = .next s ∧ exec (.registerWrite (.estkUse t) v) s = .next s) ∧
   (∀ s : State, ∃ t : State, exec .packageReset s = .next t ∧ t.mem = [] ∧ t.weights = [] ∧ t.cores = [] ∧ t.clusters = [] ∧
     t.devRegs = [] ∧ t.booted = false ∧ t.journal = s.journal ∧ t.retired = s.retired ∧ t.flight = [] ∧
     t.pounds.map (·.record) = s.pounds.map (·.record) ∧ t.pounds.map (·.trust) = s.pounds.map (·.trust)) ∧
   (∀ (b : Nat) (s : State), ∃ t : State, exec (.clear b) s = .next t ∧ lookupD (Vector.replicate 16 0) b t.errors = Vector.replicate 16 0 ∧
     ∀ c, c ≠ b → lookupD (Vector.replicate 16 0) c t.errors = lookupD (Vector.replicate 16 0) c s.errors)) ∧
  ((∀ (node : Nat) (s : State) (p : Pound), s.poundAt node = some p →
     let period := bits (s.devReg (.poundSch node)) 31 0
     (period = 0 ∨ s.age (.refill p.record.node.toNat) < period → exec (.tokenRefill node) s = .next s) ∧
     (period ≠ 0 → period ≤ s.age (.refill p.record.node.toNat) → p.tags.Nodup → ∃ t : State, exec (.tokenRefill node) s = .next t ∧ t.mem = s.mem ∧
       t.cores = s.cores ∧ ∀ g ∈ p.tags, let a : Int := bits (s.devReg (.vdCfg g)) 63 32
         (t.vd g).tokens = min ((s.vd g).tokens + a) (2 * a) ∧ (t.vd g).held = (s.vd g).held)) ∧
   (∀ (node : Nat) (s : State) (p : Pound), s.poundAt node = some p →
     (s.booted = false ∨ p.resident ≠ none ∨ p.trust = .error ∨ (∀ g ∈ p.tags, s.deviceReady p g = false) →
       exec (.vdResume node) s = .next s) ∧
     (s.booted = true → p.resident = none → p.trust ≠ .error → (∃ g ∈ p.tags, s.deviceReady p g = true) →
       ∃ t : State, ∃ q g, exec (.vdResume node) s = .next t ∧ t.poundAt node = some q ∧ g ∈ p.tags ∧ s.deviceReady p g = true ∧
         (∀ h ∈ p.tags, s.deviceReady p h = true → s.rootPrio h ≤ s.rootPrio g) ∧ q.resident = some (BitVec.ofNat 16 g) ∧
         (t.vd g).held = 0 ∧ (t.vd g).ending = false)) ∧
   (∀ (node : Nat) (s : State) (p : Pound) (tag : BitVec 16), s.poundAt node = some p → p.resident = some tag → s.booted = true →
     let g := tag.toNat
     let slice := bits (s.devReg (.vdCfg g)) 31 0
     let other := p.tags.any fun u => u != g && s.deviceReady p u
     let due := (s.vd g).tokens ≤ 0 ∨ (slice ≠ 0 ∧ slice ≤ (s.vd g).held ∧ other = true) ∨
       ((p.workers.any fun n => (s.core n).hasWork) = false ∧ (p.tags.any fun u => u != g && s.deviceWork p u) = true)
     ((s.vd g).ending = true ∨ ¬due → exec (.vdSliceEnd node) s = .next s) ∧
     ((s.vd g).ending = false → due → ∃ t : State, exec (.vdSliceEnd node) s = .next t ∧ (t.vd g).ending = true ∧ t.mem = s.mem ∧
       ∀ n ∈ p.workers, (t.core n).signal = some (bits (s.devReg (.poundSch node)) 47 32) ∧ (t.core n).ctxs = (s.core n).ctxs)) ∧
   (∀ (k i : Nat) (s : State), k < 4 → i < 16 → let l := (s.stack k).slice i
     (s.age (.slice k i) < 2 ^ 24 → exec (.wayRebalance k i) s = .next s) ∧
     (2 ^ 24 ≤ s.age (.slice k i) → ∃ t : State, exec (.wayRebalance k i) s = .next t ∧ t.mem = s.mem ∧ t.age (.slice k i) = 0 ∧ (let m := (t.stack k).slice i
       m.lines = l.lines ∧ m.queue = l.queue ∧ m.waymon = l.waymon ∧ m.hits = l.hits.map (fun h => h.map (· / 2)) ∧
         ∃ w < 16, ∀ v < 16, v ≠ w → bits (m.wayown.setWidth 64) (3 * v + 2) (3 * v) = bits (l.wayown.setWidth 64) (3 * v + 2) (3 * v)))))

/-- R390, R391, R397 and R398: an error adds to the bucket of its place, and of its cluster, to at most 65535, sixteen for an
uncorrectable one; a bucket that passes its mark sends one warning, and may again once it has leaked to half the mark, by one each
LEAK cycles. It adds to one counter of one block, and an uncorrectable one of DRAM or L2 marks its line. R391 and R392: a report
enters its stack's table; the class of its cell is the first of R391's rules that holds in its bank; a new class takes a spare while
its bank has one, and otherwise asks for its pages' retirement. A repaired entry leaves the table. R393 and R394: a pair's router
releases the next request of both copies when they have issued it alike; when they differ it discards what is not released and
restarts both copies from their body's entry, the second time freezing both with PAIR_MISMATCH; and it ends the pair when both are
done with nothing left to leave. -/
def Obligations.ErrorsRepairsAndPairs : Prop :=
  ((∀ (place : ErrPlace) (kind : ErrKind) (s : State), ∃ t : State, exec (.hwErrorDetect place kind) s = .next t ∧ t.mem = s.mem ∧
     t.cores = s.cores ∧
     (let n := match kind with
        | .uncorrectable => 16
        | .corrected => 1
        | .retry => if isLink place then 1 else 0
      (∀ id k, placeBucket place = some (id, k) →
         (lookupKey Bucket.reset id t.buckets).count.toNat = min ((lookupKey Bucket.reset id s.buckets).count.toNat + n) 65535) ∧
      (∀ id c, placeBucket place = some (id, some c) → (lookupKey Bucket.reset ⟨.cluster, c⟩ t.buckets).count.toNat =
         min ((lookupKey Bucket.reset ⟨.cluster, c⟩ s.buckets).count.toNat + n) 65535) ∧
      (t.errors = match errCounter place kind with
        | none => s.errors
        | some i => (s.countError (s.errBlock place) i).errors) ∧
      (placeBucket place = none → t.buckets = s.buckets ∧ t.egress = s.egress) ∧
      (∀ l, kind = .uncorrectable → place = .dramLine l → l / 128 * 128 ∈ t.poisoned) ∧
      (kind ≠ .uncorrectable → t.poisoned = s.poisoned))) ∧
   (∀ (b : Bucket) (n : Nat), let c := b.add n
     b.warns c = true ↔ b.fired = false ∧ b.count.toNat < b.level ∧ b.level ≤ min (b.count.toNat + n) 65535) ∧
   (∀ (id : BucketId) (s : State), let b := lookupKey Bucket.reset id s.buckets
     (s.age (.bucket id) < b.leakCycles → exec (.bucketLeak id) s = .next s) ∧
     (b.leakCycles ≤ s.age (.bucket id) → ∃ t : State, exec (.bucketLeak id) s = .next t ∧ t.age (.bucket id) = 0 ∧ t.egress = s.egress ∧ t.mem = s.mem ∧ (let c := lookupKey Bucket.reset id t.buckets
       c.count.toNat = b.count.toNat - 1 ∧ c.mark = b.mark ∧ c.leak = b.leak ∧
         (c.fired = true ↔ b.fired = true ∧ b.level / 2 < b.count.toNat - 1))))) ∧
  ((∀ (k : Nat) (cell : DramCell) (up : Bool) (s : State), k < 4 → let es := tableReport (s.stack k).dram cell (if up then 2 else 1)
     (classify es cell = none → ∃ t : State, exec (.dramErrorReport k cell up) s = .next t ∧ (t.stack k).dram = es ∧ t.mem = s.mem ∧
       t.retired = s.retired) ∧
     (∀ c, classify es cell = some c → c ≠ .bank → (∃ e ∈ es, e.cell = cell ∧ e.cls = none) →
       (if c = .column then lookupD 0 (bankKey cell) (s.stack k).sparesCol < 4 else lookupD 0 (bankKey cell) (s.stack k).sparesRow < 8) →
       ∃ t : State, exec (.dramErrorReport k cell up) s = .next t ∧ t.mem = s.mem ∧ t.retired = s.retired ∧
         (t.stack k).dram = es.map fun e => if c.covers cell e then { e with cls := some c, spared := true } else e)) ∧
   (∀ (es : List DramEntry) (cell : DramCell), let here := es.filter fun e => e.cell.channel == cell.channel && e.cell.bank == cell.bank
     (∀ e ∈ here, e.cell = cell ∧ e.count < 2) → classify es cell = none) ∧
   (∀ (es : List DramEntry) (cell : DramCell) (n : Nat) (e : DramEntry), e ∈ es → e.cell = cell → (∀ d ∈ es, d.cell = cell → d = e) →
     ({ e with count := e.count + n } : DramEntry) ∈ tableReport es cell n ∧ (tableReport es cell n).length = es.length) ∧
   (∀ (k : Nat) (cell : DramCell) (s : State), k < 4 →
     ((∀ e ∈ (s.stack k).dram, e.cell = cell → e.spared = false ∨ e.cls = none) → exec (.sparingDone k cell) s = .next s) ∧
     ((∃ e ∈ (s.stack k).dram, e.cell = cell ∧ e.spared = true ∧ e.cls ≠ none) → ∃ t : State, exec (.sparingDone k cell) s = .next t ∧
       (∀ e ∈ (t.stack k).dram, ¬(e.cell = cell ∧ e.spared = true ∧ e.cls ≠ none)) ∧ t.mem = s.mem))) ∧
  ((∀ (core : Nat) (s : State), coreIn core = true → (s.core core).pairs = [] → exec (.pairRequestRelease core) s = .next s) ∧
   (∀ (core : Nat) (s : State) (p q : PairState), coreIn core = true → (s.core core).pairs = [p] → p.home = true → p.other ≠ core →
     (s.core p.other).pairs = [q] → q.ctx = p.otherCtx → q.other = core → q.otherCtx = p.ctx →
     (∀ a b, p.issued[p.released]? = some a → q.issued[q.released]? = some b → a.2 = b.2 →
       ∃ t : State, exec (.pairRequestRelease core) s = .next t ∧ (t.core core).pairs.map (·.released) = [p.released + 1] ∧
         (t.core p.other).pairs.map (·.released) = [q.released + 1] ∧ t.mem = s.mem) ∧
     (∀ a b, p.issued[p.released]? = some a → q.issued[q.released]? = some b → a.2 ≠ b.2 → s.pairOwed core p = false →
       (p.rerun = false → ∃ t : State, exec (.pairRequestRelease core) s = .next t ∧
         ((t.core core).ctx p.ctx).pc = p.start.pc ∧ ((t.core core).ctx p.ctx).x = p.start.x ∧
         ((t.core p.other).ctx p.otherCtx).pc = q.start.pc ∧ ((t.core p.other).ctx p.otherCtx).x = q.start.x ∧
         (∀ x ∈ (t.core core).pairs, x.rerun = true ∧ x.issued = [] ∧ x.released = 0) ∧ t.mem = s.mem) ∧
       (p.rerun = true → ∃ t : State, exec (.pairRequestRelease core) s = .next t ∧ ((t.core core).ctx p.ctx).state = .frozen ∧
         ((t.core p.other).ctx p.otherCtx).state = .frozen ∧ (t.core core).pairs = [] ∧ (t.core p.other).pairs = [] ∧
         (t.core core).packets.length = (s.core core).packets.length + 1 ∧
         (t.core p.other).packets.length = (s.core p.other).packets.length + 1)) ∧
     (p.issued.length ≤ p.released → q.issued.length ≤ q.released → p.done = true → q.done = true →
       s.waitsOut core p.ctx p.numbers = false → s.waitsOut p.other p.otherCtx q.numbers = false →
       ∃ t : State, exec (.pairRequestRelease core) s = .next t ∧ (t.core core).pairs = [] ∧ (t.core p.other).pairs = [] ∧ t.mem = s.mem)))

/-! ## The tools -/

/-- R290, R292, R293, R296, R298 and R313: what snivis's looking commands leave alone: nothing of the machine changes but its console
and its session; each prints what it names, REGS and STREAM of a context that is stopped, MEM while some context of the core is,
TILE of a tile that is not BUSY, COLANDER once the region's requests are applied. SAMPLE prints a slice's register now and keeps the
interval at which it prints again. OCC_CLEAR sets every PEAK of a stack to its QDEPTH. (`freeCtr` is the model's own: entry 6.) -/
def Obligations.DebuggerLooks : Prop :=
  (∀ (s : State) (i : Instr), (∃ core, coreIn core = true ∧ ((∃ b, i = .sluice core b) ∨ (∃ va, i = .xlate core va) ∨ i = .occ core ∨
      (∃ k < 11, ∃ w, i = .viewCmd core k w) ∨ (∃ k < 11, (s.core core).stopped k = true ∧ ((∃ l, i = .regs core k l) ∨ ∃ q, i = .streamCmd core k q)) ∨
      (core < Config.workers ∧ i = .save core) ∨
      (∃ a < 8, ∃ e, ((s.core core).tile a).busy = false ∧ i = .tile core a e) ∨
      ∃ o n u, (∃ k < 11, (s.core core).stopped k = true) ∧ i = .mem core o n u)) ∨ (∃ y, i = .sym y) ∨
      (∃ r, s.regionBusy (BitVec.ofNat 24 r) = false ∧ i = .colander r) →
    ∃ (p : Printed) (n : Nat), exec i s = .next { s with console := s.console ++ [p], freeCtr := n } ∧
      (∀ core, i = .occ core → p.values = (List.range 16).map fun j =>
        BitVec.ofNat 64 (((s.stack (stackOf core)).slice j).peak * 2 ^ 16 + ((s.stack (stackOf core)).slice j).queue.length)) ∧
      (∀ core k l, i = .regs core k l → p.values = l.flatMap ((s.core core).ctx k).snv) ∧
      (∀ core o n, i = .mem core o n .dword → p.values.length = n ∧
        ∀ j < n, o + 8 * j + 8 ≤ (s.core core).sysbase → p.values[j]? = some (BitVec.ofNat 64 (readMem s.mem (lsKey core (o + 8 * j)) 8))) ∧
      (∀ core a, i = .tile core a none → p.values = (List.range 7).map fun j => ((s.core core).tile a).read (128 + j)) ∧
      ∀ core, i = .save core → ∀ j < 256, p.values[j]? = some (BitVec.ofNat 64 (readMem s.mem (s.recordAt core + 8 * j) 8))) ∧
  (∀ (core l n : Nat) (s : State), coreIn core = true → l < 16 → 0 < n →
    ∃ p : Printed, p.values = [(s.core core).cycle, BitVec.ofNat 64 (((s.stack (stackOf core)).slice l).peak * 2 ^ 16 +
        ((s.stack (stackOf core)).slice l).queue.length)] ∧
      exec (.sample core ⟨l, n⟩) s = .next { s with
        console := s.console ++ [p]
        snivis := { s.snivis with samples := (s.snivis.samples.filter fun q => !(q.1 == core && q.2.1 == l)) ++
          [(core, l, n, (s.core core).cycle)] } }) ∧
  (∀ (core k : Nat) (l : List SnvReg) (q : Nat) (s : State), coreIn core = true → k < 11 → (s.core core).stopped k = false →
    exec (.regs core k l) s = .next s ∧ exec (.streamCmd core k q) s = .next s) ∧
  (∀ (core o n : Nat) (u : MemUnit) (s : State), coreIn core = true → (∀ k < 11, (s.core core).stopped k = false) →
    exec (.mem core o n u) s = .next s) ∧
  (∀ (r : Nat) (s : State), s.regionBusy (BitVec.ofNat 24 r) = true → exec (.colander r) s = .next s) ∧
  (∀ (core a : Nat) (e : Option (Nat × Nat)) (s : State), coreIn core = true → a < 8 → ((s.core core).tile a).busy = true →
    exec (.tile core a e) s = .next s) ∧
  (∀ (core : Nat) (s : State), coreIn core = true → stackOf core < 4 → ∃ t : State, exec (.occClear core) s = .next t ∧ t.mem = s.mem ∧
    t.cores = s.cores ∧ (∀ i < 16, let l := (s.stack (stackOf core)).slice i
      (t.stack (stackOf core)).slice i = { l with peak := l.queue.length }) ∧
    ∀ j < 4, j ≠ stackOf core → t.stack j = s.stack j) ∧
  (∀ (s : State) (v : Snivis) (i : Instr),
    ((∃ tag p, s.poundOfTag tag = some p ∧ i = .attach tag ∧ v = { s.snivis with tag := some tag }) ∨
      (∃ core c, coreIn core = true ∧ i = .traceArrivals core c ∧ v = { s.snivis with traces := s.snivis.traces ++ [(core, c)] }) ∨
      (∃ core l, coreIn core = true ∧ i = .watchFire core l ∧
        v = { s.snivis with watches := (core, l) :: s.snivis.watches.filter fun w => w.1 != core }) ∨
      (∃ core m, coreIn core = true ∧ i = .traceGang core m ∧ v = { s.snivis with gangs := s.snivis.gangs ++ [(core, m)] }) ∨
      (∃ va cs l, (∀ c ∈ cs, coreIn c = true) ∧ i = .watchPc va cs l ∧
        v = { s.snivis with pcWatches := s.snivis.pcWatches ++ [(va, cs, l)] })) →
    exec i s = .next { s with snivis := v }) ∧
  (∀ (tag : Nat) (s : State), s.poundOfTag tag = none → exec (.attach tag) s = .next s)

/-- R275, R293, R296, R297, R314 and R362: what snivis's acting commands do. FLIP changes one bit of a tile's element, as AWR writes it
(its reserved bits stay 0: R102), while the tile is not BUSY and no context of the core runs or waits; RESUME_CONTEXT lets a FROZEN
context go on at an address; BREAK plants BKPT 0xFFFE at its word's group, keeping the word, DELETE puts the word back, CONT lets
each context a breakpoint froze go on, its own word first from the step slot; PREEMPT begins step 1 on every core, or waits for a
core's word; RESUME_POUND makes the device that was resident last resident again; ACFG is issued by the keeper (entry 83): it
changes a configuration, and prints the old one, or raises ILLEGAL; POST sends one DATA message to each channel. -/
def Obligations.DebuggerActs : Prop :=
  (∀ (core a row col b : Nat) (s : State), coreIn core = true → a < 8 → row < 16 → col < 8 → b < 64 → let c := s.core core
    ((c.tile a).busy = true ∨ (∃ k < 11, (c.ctx k).state = .running ∨ (c.ctx k).state = .waiting) →
      exec (.flip core a row col b) s = .next s) ∧
    ((c.tile a).busy = false → (∀ k < 11, (c.ctx k).state ≠ .running ∧ (c.ctx k).state ≠ .waiting) →
      ∃ t : State, exec (.flip core a row col b) s = .next t ∧ t.mem = s.mem ∧ (t.core core).ctxs = c.ctxs ∧
        (∀ j < 128, ((t.core core).tile a).read j =
          if j = 8 * row + col then ((c.tile a).read j ^^^ BitVec.ofNat 64 (2 ^ b)) &&& 0x1FFFFFFFFFFFFFFF else (c.tile a).read j) ∧
        ∀ j < 8, j ≠ a → (t.core core).tile j = c.tile j)) ∧
  (∀ (core k : Nat) (va : Word) (s : State), coreIn core = true → k < 11 → let x := (s.core core).ctx k
    ∃ t : State, exec (.resumeContext [core] k va) s = .next t ∧ t.mem = s.mem ∧ (∀ j < 11, j ≠ k → (t.core core).ctx j = (s.core core).ctx j) ∧
      (x.state ≠ .frozen → (t.core core).ctx k = x) ∧
      (x.state = .frozen → x.rep = none → let y := (t.core core).ctx k
        y.state = .running ∧ y.pc = va &&& 0xFFFFFFFFFFFFFFFC ∧ y.x = x.x ∧ y.v = x.v ∧ y.m = x.m ∧ y.w = x.w ∧ y.q = x.q)) ∧
  (∀ (va : Word) (cs : List Nat) (n : Nat) (s : State), s.snvPound = none →
    exec (.breakAt va cs) s = .next s ∧ exec (.delete n) s = .next s ∧ exec .cont s = .next s) ∧
  (∀ (va : Word) (cs : List Nat) (s : State) (p : Pound) (tag : Nat) (w : Word32), s.snivis.tag = some tag → s.poundOfTag tag = some p →
    let g := s.groupStart tag va 3
    (s.originalWord tag g = none → exec (.breakAt va cs) s = .next s) ∧
    (s.originalWord tag g = some w → ∃ t : State, exec (.breakAt va cs) s = .next t ∧
      t.snivis.breaks = s.snivis.breaks ++ [⟨s.snivis.nextBreak, g, if cs.isEmpty then p.workers else cs, w⟩] ∧
      ∀ l pa, s.leafOfTag tag g = some (pa, l) → t.mem = (s.homeWriteN (ownReq tag g pa (leafKey l)) pa (toBytes 4 plantedWord.toNat)).mem)) ∧
  (∀ (n : Nat) (s : State) (p : Pound) (tag : Nat), s.snivis.tag = some tag → s.poundOfTag tag = some p →
    ((∀ b ∈ s.snivis.breaks, b.number ≠ n) → exec (.delete n) s = .next s) ∧
    ((∃ b ∈ s.snivis.breaks, b.number = n) → ∃ t : State, exec (.delete n) s = .next t ∧
      t.snivis.breaks = (s.snivis.breaks.filter fun b => b.number != n) ∧
      ∀ b l pa, s.snivis.breaks.find? (·.number == n) = some b → s.leafOfTag tag b.va = some (pa, l) →
        t.mem = if s.snivis.breaks.any (fun c => c.va == b.va && c.number != n) then s.mem
          else (s.homeWriteN (ownReq tag b.va pa (leafKey l)) pa (toBytes 4 b.word.toNat)).mem)) ∧
  (∀ (s : State) (p : Pound) (tag core k : Nat), s.snivis.tag = some tag → s.poundOfTag tag = some p → core ∈ p.workers →
    p.workers.Nodup → k < 11 → let x := (s.core core).ctx k
    ∃ t : State, exec .cont s = .next t ∧ t.mem = s.mem ∧ t.snivis = { s.snivis with said := [] } ∧
      (x.state ≠ .frozen ∨ x.ir ≠ plantedWord → (t.core core).ctx k = x) ∧
      (x.state = .frozen → x.ir = plantedWord → x.rep = none → (∀ b ∈ s.snivis.breaks, b.va ≠ x.pc) → let y := (t.core core).ctx k
        y.state = .running ∧ y.pc = x.pc ∧ y.slot = [] ∧ y.x = x.x) ∧
      (∀ b, s.snivis.breaks.find? (fun c => c.va == x.pc) = some b → x.state = .frozen → x.ir = plantedWord → x.rep = none → let y := (t.core core).ctx k
        y.state = .running ∧ y.pc = x.pc ∧ y.slot = [b.word] ∧ y.x = x.x)) ∧
  (∀ (node grace : Nat) (s : State), ((s.poundAt node).bind (·.resident) = none →
      (∀ a, exec (.preempt node grace a) s = .next s)) ∧
    (∀ core va, (s.poundAt node).bind (·.resident) ≠ none → exec (.preempt node grace (some (core, va))) s =
      .next { s with snivis := { s.snivis with stopAt := some (core, va, node, grace) } }) ∧
    (∀ p v, s.poundAt node = some p → p.resident = some v → exec (.preempt node grace none) s = .next (s.signalEnd p v.toNat grace))) ∧
  (∀ (node : Nat) (s : State) (p : Pound), s.poundAt node = some p →
    (p.resident.isSome = true ∨ p.trust = .error → exec (.resumePound node) s = .next s) ∧
    (∀ v, p.resident = none → p.trust ≠ .error → p.record.vdTags[p.lastVd]? = some v → v ≠ 0 →
      exec (.resumePound node) s = .next (s.makeResident p v.toNat))) ∧
  (∀ (core deg fch : Nat) (s : State), core < Config.workers → let keeper := Config.keeperOf (clusterOf core)
    (deg % 2 = 1 → fch % 8 = 7 → ∃ t : State, exec (.acfgCommand core deg fch) s = .next t ∧ ((t.core keeper).ctx 0).state = .frozen ∧
      (t.core keeper).packets.length = (s.core keeper).packets.length + 1 ∧ (t.core core).acfgWait = (s.core core).acfgWait) ∧
    ((deg % 2 = 0 ∨ fch % 8 ≠ 7) → (s.core core).acfgWait = none → ∃ t : State, exec (.acfgCommand core deg fch) s = .next t ∧
      (t.core core).acfgWait = some ⟨keeper, 0, decide (deg % 2 = 1), BitVec.ofNat 3 fch, none⟩ ∧ t.console = s.console) ∧
    (∀ old b f, (deg % 2 = 0 ∨ fch % 8 ≠ 7) → (s.core core).acfgWait = some ⟨keeper, 0, b, f, some old⟩ →
      ∃ t : State, exec (.acfgCommand core deg fch) s = .next t ∧ (t.core core).acfgWait = none ∧
        ((t.core keeper).ctx 0).pc = ((s.core keeper).ctx 0).pc ∧ ∃ p : Printed, t.console = s.console ++ [p] ∧ p.values = [old])) ∧
  (∀ (cs ws : List Word) (s : State) (p : Pound) (tag : Nat), s.snivis.tag = some tag → s.poundOfTag tag = some p → p.open_ = true →
    1 ≤ ws.length → ws.length ≤ 4 → exec (.post cs ws) s = .next (cs.foldl (fun s n => s.enterPort 0 tag n .data (.words ws)) s)) ∧
  (∀ (cs ws : List Word) (s : State), s.snvPound = none ∨ ws = [] ∨ 4 < ws.length → exec (.post cs ws) s = .next s)

/-- R288, R299, R300 and R313: LOAD gives the session's pound an object whole or not at all: a refused launch changes the console alone,
and with no session nothing changes. The assembler writes its object only when no diagnostic it prints is an error, and prints its
exit status last: 2 for a command line it cannot use, 1 with an error, 0 otherwise. -/
def Obligations.LoaderAndAssembler : Prop :=
  (∀ (o : GofObject) (r : LaunchRequest) (s : State), (s.snvPound = none → exec (.load o r) s = .next s) ∧
    (∀ tag p, s.snivis.tag = some tag → s.poundOfTag tag = some p →
      (s.launchObject o r tag p = none → exec (.load o r) s = .next { s with console := s.console ++ [⟨"load refused", [], []⟩] }) ∧
      (∀ u, s.launchObject o r tag p = some u → exec (.load o r) s = .next u ∧ p.resident = some (BitVec.ofNat 16 tag)) ∧
      (∀ x ∈ o.sections, x.kind = .ls → o.sysbase < x.bytes.length → s.launchObject o r tag p = none))) ∧
  (∀ (job : AsmJob) (s : State), ∃ (ls : List Printed) (st : Word), ∃ t : State, exec (.ngaturAssemble job) s = .next t ∧
    t.console = s.console ++ ls ++ [⟨"ngatur", [], [st]⟩] ∧ t.mem = s.mem ∧ t.cores = s.cores ∧
    (st = 0 ∨ st = 1 ∨ st = 2) ∧ (st = 2 ↔ jobUsable job = false) ∧
    (st = 1 ↔ jobUsable job = true ∧ ∃ d ∈ (assembleJob job).diags, jobError job d = true ∧
      (d.code.toList.head? = some 'E' ∨ d.code ∉ job.noWarn)) ∧
    (st ≠ 0 → t.files = s.files) ∧
    (st = 0 → t.files.head? = some (jobPath job, objectBytes (assembleJob job).obj) ∧
      ∀ f ∈ s.files, f.1 ≠ jobPath job → f ∈ t.files))
end

