-- ==== Sys2Proof/Laws/Bits.lean ====
section
/-!
SUPPORT. The number helpers as bit vector operations (R83).
-/

namespace Sys2Proof.Machine

theorem zextN_eq (n v : Nat) : zextN n v = (BitVec.ofNat n v).setWidth 64 := by
  apply BitVec.eq_of_toNat_eq
  simp [zextN]

theorem toSigned_eq (n v : Nat) (h : 0 < n) : toSigned n v = (BitVec.ofNat n v).toInt := by
  obtain ⟨m, rfl⟩ : ∃ m, n = m + 1 := ⟨n - 1, by omega⟩
  have hp : (2 : Nat) ^ (m + 1) = 2 * 2 ^ m := by rw [Nat.pow_succ]; omega
  have hlt : v % 2 ^ (m + 1) < 2 ^ (m + 1) := Nat.mod_lt _ (Nat.two_pow_pos _)
  simp only [toSigned, BitVec.toInt_eq_toNat_cond, BitVec.toNat_ofNat, Nat.add_sub_cancel]
  by_cases h2 : 2 ^ m ≤ v % 2 ^ (m + 1)
  · rw [if_pos h2, if_neg (by omega)]; norm_cast
  · rw [if_neg h2, if_pos (by omega)]

theorem ofSigned_eq (n : Nat) (v : Int) : BitVec.ofNat n (ofSigned n v) = BitVec.ofInt n v := by
  apply BitVec.eq_of_toNat_eq
  have h : (0 : Int) < 2 ^ n := by positivity
  have h1 := Int.emod_nonneg v (ne_of_gt h)
  have h2 := Int.emod_lt_of_pos v h
  rw [BitVec.toNat_ofNat, BitVec.toNat_ofInt, ofSigned]
  have h3 : (v % 2 ^ n).toNat < 2 ^ n := by
    zify; rw [Int.toNat_of_nonneg h1]; exact h2
  rw [Nat.mod_eq_of_lt h3]
  norm_cast

theorem sextN_eq (n v : Nat) (h : 0 < n) (h64 : n ≤ 64) : sextN n v = (BitVec.ofNat n v).signExtend 64 := by
  apply BitVec.eq_of_toNat_eq
  have hs : (BitVec.ofNat n v).signExtend 64 = BitVec.ofInt 64 (BitVec.ofNat n v).toInt := rfl
  rw [hs, ← toSigned_eq n v h, BitVec.toNat_ofInt]
  have hp : (2 : Nat) ^ n ≤ 2 ^ 64 := Nat.pow_le_pow_right (by omega) h64
  have hq : (2 : Nat) ^ (n - 1) ≤ 2 ^ n := Nat.pow_le_pow_right (by omega) (by omega)
  have hlt : v % 2 ^ n < 2 ^ n := Nat.mod_lt _ (Nat.two_pow_pos _)
  have hc : ((2 : Int) ^ n) = ((2 ^ n : Nat) : Int) := by norm_cast
  simp only [sextN, toSigned, hc]
  generalize 2 ^ n = N at *
  generalize v % N = u at *
  split
  · rw [BitVec.toNat_ofNat]; omega
  · rw [BitVec.toNat_ofNat]; omega

end Sys2Proof.Machine
end

