-- ==== Sys2Proof/Laws/Exec.lean ====
section
/-!
SUPPORT. `exec` of each constructor is its meaning: what a proof cites instead of unfolding the dispatch.
-/

namespace Sys2Proof.Machine

theorem exec_add {o} (s : State) : exec (.add o) s = execAdd o s := rfl
theorem exec_sub {o} (s : State) : exec (.sub o) s = execSub o s := rfl
theorem exec_and {o} (s : State) : exec (.and o) s = execAnd o s := rfl
theorem exec_or {o} (s : State) : exec (.or o) s = execOr o s := rfl
theorem exec_xor {o} (s : State) : exec (.xor o) s = execXor o s := rfl
theorem exec_andn {o} (s : State) : exec (.andn o) s = execAndn o s := rfl
theorem exec_orn {o} (s : State) : exec (.orn o) s = execOrn o s := rfl
theorem exec_sll {o} (s : State) : exec (.sll o) s = execSll o s := rfl
theorem exec_srl {o} (s : State) : exec (.srl o) s = execSrl o s := rfl
theorem exec_sra {o} (s : State) : exec (.sra o) s = execSra o s := rfl
theorem exec_rol {o} (s : State) : exec (.rol o) s = execRol o s := rfl
theorem exec_slt {o} (s : State) : exec (.slt o) s = execSlt o s := rfl
theorem exec_sltu {o} (s : State) : exec (.sltu o) s = execSltu o s := rfl
theorem exec_seq {o} (s : State) : exec (.seq o) s = execSeq o s := rfl
theorem exec_sne {o} (s : State) : exec (.sne o) s = execSne o s := rfl
theorem exec_min {o} (s : State) : exec (.min o) s = execMin o s := rfl
theorem exec_max {o} (s : State) : exec (.max o) s = execMax o s := rfl
theorem exec_minu {o} (s : State) : exec (.minu o) s = execMinu o s := rfl
theorem exec_maxu {o} (s : State) : exec (.maxu o) s = execMaxu o s := rfl
theorem exec_clz {o} (s : State) : exec (.clz o) s = execClz o s := rfl
theorem exec_ctz {o} (s : State) : exec (.ctz o) s = execCtz o s := rfl
theorem exec_popc {o} (s : State) : exec (.popc o) s = execPopc o s := rfl
theorem exec_brev {o} (s : State) : exec (.brev o) s = execBrev o s := rfl
theorem exec_bswap {o} (s : State) : exec (.bswap o) s = execBswap o s := rfl
theorem exec_sext {o} (s : State) : exec (.sext o) s = execSext o s := rfl
theorem exec_zext {o} (s : State) : exec (.zext o) s = execZext o s := rfl
theorem exec_addi {o} (s : State) : exec (.addi o) s = execAddi o s := rfl
theorem exec_andi {o} (s : State) : exec (.andi o) s = execAndi o s := rfl
theorem exec_ori {o} (s : State) : exec (.ori o) s = execOri o s := rfl
theorem exec_xori {o} (s : State) : exec (.xori o) s = execXori o s := rfl
theorem exec_slli {o} (s : State) : exec (.slli o) s = execSlli o s := rfl
theorem exec_srli {o} (s : State) : exec (.srli o) s = execSrli o s := rfl
theorem exec_srai {o} (s : State) : exec (.srai o) s = execSrai o s := rfl
theorem exec_slti {o} (s : State) : exec (.slti o) s = execSlti o s := rfl
theorem exec_sltui {o} (s : State) : exec (.sltui o) s = execSltui o s := rfl
theorem exec_lih {o} (s : State) : exec (.lih o) s = execLih o s := rfl
theorem exec_addpc {o} (s : State) : exec (.addpc o) s = execAddpc o s := rfl
theorem exec_mul {o} (s : State) : exec (.mul o) s = execMul o s := rfl
theorem exec_mulh {o} (s : State) : exec (.mulh o) s = execMulh o s := rfl
theorem exec_mulhu {o} (s : State) : exec (.mulhu o) s = execMulhu o s := rfl
theorem exec_div {o} (s : State) : exec (.div o) s = execDiv o s := rfl
theorem exec_divu {o} (s : State) : exec (.divu o) s = execDivu o s := rfl
theorem exec_rem {o} (s : State) : exec (.rem o) s = execRem o s := rfl
theorem exec_remu {o} (s : State) : exec (.remu o) s = execRemu o s := rfl
theorem exec_fadd {o} (s : State) : exec (.fadd o) s = execFadd o s := rfl
theorem exec_fsub {o} (s : State) : exec (.fsub o) s = execFsub o s := rfl
theorem exec_fmul {o} (s : State) : exec (.fmul o) s = execFmul o s := rfl
theorem exec_fdiv {o} (s : State) : exec (.fdiv o) s = execFdiv o s := rfl
theorem exec_fsqrt {o} (s : State) : exec (.fsqrt o) s = execFsqrt o s := rfl
theorem exec_fmin {o} (s : State) : exec (.fmin o) s = execFmin o s := rfl
theorem exec_fmax {o} (s : State) : exec (.fmax o) s = execFmax o s := rfl
theorem exec_fcmpEq {o} (s : State) : exec (.fcmpEq o) s = execFcmpEq o s := rfl
theorem exec_fcmpLt {o} (s : State) : exec (.fcmpLt o) s = execFcmpLt o s := rfl
theorem exec_fcmpLe {o} (s : State) : exec (.fcmpLe o) s = execFcmpLe o s := rfl
theorem exec_fcmpUn {o} (s : State) : exec (.fcmpUn o) s = execFcmpUn o s := rfl
theorem exec_fclass {o} (s : State) : exec (.fclass o) s = execFclass o s := rfl
theorem exec_fcvtToFloat {o} (s : State) : exec (.fcvtToFloat o) s = execFcvtToFloat o s := rfl
theorem exec_fcvtToSigned {o} (s : State) : exec (.fcvtToSigned o) s = execFcvtToSigned o s := rfl
theorem exec_fcvtToUnsigned {o} (s : State) : exec (.fcvtToUnsigned o) s = execFcvtToUnsigned o s := rfl
theorem exec_fsignB {o} (s : State) : exec (.fsignB o) s = execFsignB o s := rfl
theorem exec_fsignNb {o} (s : State) : exec (.fsignNb o) s = execFsignNb o s := rfl
theorem exec_fsignX {o} (s : State) : exec (.fsignX o) s = execFsignX o s := rfl
theorem exec_madd {o} (s : State) : exec (.madd o) s = execMadd o s := rfl
theorem exec_sel {o} (s : State) : exec (.sel o) s = execSel o s := rfl
theorem exec_fma {o} (s : State) : exec (.fma o) s = execFma o s := rfl
theorem exec_crr {o} (s : State) : exec (.crr o) s = execCrr o s := rfl
theorem exec_crw {o} (s : State) : exec (.crw o) s = execCrw o s := rfl
theorem exec_crs {o} (s : State) : exec (.crs o) s = execCrs o s := rfl
theorem exec_crc {o} (s : State) : exec (.crc o) s = execCrc o s := rfl
theorem exec_ld {o} (s : State) : exec (.ld o) s = execLd o s := rfl
theorem exec_st {o} (s : State) : exec (.st o) s = execSt o s := rfl
theorem exec_lds {o} (s : State) : exec (.lds o) s = execLds o s := rfl
theorem exec_sts {o} (s : State) : exec (.sts o) s = execSts o s := rfl
theorem exec_ldv {o} (s : State) : exec (.ldv o) s = execLdv o s := rfl
theorem exec_stv {o} (s : State) : exec (.stv o) s = execStv o s := rfl
theorem exec_ldp {o} (s : State) : exec (.ldp o) s = execLdp o s := rfl
theorem exec_stp {o} (s : State) : exec (.stp o) s = execStp o s := rfl
theorem exec_pref {o} (s : State) : exec (.pref o) s = execPref o s := rfl
theorem exec_cflushDrop {o} (s : State) : exec (.cflushDrop o) s = execCflushDrop o s := rfl
theorem exec_cflushHome {o} (s : State) : exec (.cflushHome o) s = execCflushHome o s := rfl
theorem exec_cflushClean {o} (s : State) : exec (.cflushClean o) s = execCflushClean o s := rfl
theorem exec_cinvLine {o} (s : State) : exec (.cinvLine o) s = execCinvLine o s := rfl
theorem exec_cinvAll (s : State) : exec (.cinvAll) s = execCinvAll s := rfl
theorem exec_tlbiPage {o} (s : State) : exec (.tlbiPage o) s = execTlbiPage o s := rfl
theorem exec_tlbiPound (s : State) : exec (.tlbiPound) s = execTlbiPound s := rfl
theorem exec_tlbiAll (s : State) : exec (.tlbiAll) s = execTlbiAll s := rfl
theorem exec_bankmode {o} (s : State) : exec (.bankmode o) s = execBankmode o s := rfl
theorem exec_atomAdd {o} (s : State) : exec (.atomAdd o) s = execAtomAdd o s := rfl
theorem exec_atomAnd {o} (s : State) : exec (.atomAnd o) s = execAtomAnd o s := rfl
theorem exec_atomOr {o} (s : State) : exec (.atomOr o) s = execAtomOr o s := rfl
theorem exec_atomXor {o} (s : State) : exec (.atomXor o) s = execAtomXor o s := rfl
theorem exec_atomMin {o} (s : State) : exec (.atomMin o) s = execAtomMin o s := rfl
theorem exec_atomMax {o} (s : State) : exec (.atomMax o) s = execAtomMax o s := rfl
theorem exec_atomMinu {o} (s : State) : exec (.atomMinu o) s = execAtomMinu o s := rfl
theorem exec_atomMaxu {o} (s : State) : exec (.atomMaxu o) s = execAtomMaxu o s := rfl
theorem exec_atomSwap {o} (s : State) : exec (.atomSwap o) s = execAtomSwap o s := rfl
theorem exec_atomCas {o} (s : State) : exec (.atomCas o) s = execAtomCas o s := rfl
theorem exec_atomIncb {o} (s : State) : exec (.atomIncb o) s = execAtomIncb o s := rfl
theorem exec_atomDecb {o} (s : State) : exec (.atomDecb o) s = execAtomDecb o s := rfl
theorem exec_atomFadd {o} (s : State) : exec (.atomFadd o) s = execAtomFadd o s := rfl
theorem exec_atomFmin {o} (s : State) : exec (.atomFmin o) s = execAtomFmin o s := rfl
theorem exec_atomFmax {o} (s : State) : exec (.atomFmax o) s = execAtomFmax o s := rfl
theorem exec_atomFaddP2 {o} (s : State) : exec (.atomFaddP2 o) s = execAtomFaddP2 o s := rfl
theorem exec_atomFminP2 {o} (s : State) : exec (.atomFminP2 o) s = execAtomFminP2 o s := rfl
theorem exec_atomFmaxP2 {o} (s : State) : exec (.atomFmaxP2 o) s = execAtomFmaxP2 o s := rfl
theorem exec_atnAdd {o} (s : State) : exec (.atnAdd o) s = execAtnAdd o s := rfl
theorem exec_atnAnd {o} (s : State) : exec (.atnAnd o) s = execAtnAnd o s := rfl
theorem exec_atnOr {o} (s : State) : exec (.atnOr o) s = execAtnOr o s := rfl
theorem exec_atnXor {o} (s : State) : exec (.atnXor o) s = execAtnXor o s := rfl
theorem exec_atnMin {o} (s : State) : exec (.atnMin o) s = execAtnMin o s := rfl
theorem exec_atnMax {o} (s : State) : exec (.atnMax o) s = execAtnMax o s := rfl
theorem exec_atnMinu {o} (s : State) : exec (.atnMinu o) s = execAtnMinu o s := rfl
theorem exec_atnMaxu {o} (s : State) : exec (.atnMaxu o) s = execAtnMaxu o s := rfl
theorem exec_atnSwap {o} (s : State) : exec (.atnSwap o) s = execAtnSwap o s := rfl
theorem exec_atnCas {o} (s : State) : exec (.atnCas o) s = execAtnCas o s := rfl
theorem exec_atnIncb {o} (s : State) : exec (.atnIncb o) s = execAtnIncb o s := rfl
theorem exec_atnDecb {o} (s : State) : exec (.atnDecb o) s = execAtnDecb o s := rfl
theorem exec_atnFadd {o} (s : State) : exec (.atnFadd o) s = execAtnFadd o s := rfl
theorem exec_atnFmin {o} (s : State) : exec (.atnFmin o) s = execAtnFmin o s := rfl
theorem exec_atnFmax {o} (s : State) : exec (.atnFmax o) s = execAtnFmax o s := rfl
theorem exec_atnFaddP2 {o} (s : State) : exec (.atnFaddP2 o) s = execAtnFaddP2 o s := rfl
theorem exec_atnFminP2 {o} (s : State) : exec (.atnFminP2 o) s = execAtnFminP2 o s := rfl
theorem exec_atnFmaxP2 {o} (s : State) : exec (.atnFmaxP2 o) s = execAtnFmaxP2 o s := rfl
theorem exec_cas128 {o} (s : State) : exec (.cas128 o) s = execCas128 o s := rfl
theorem exec_fenceAcq {scope} (s : State) : exec (.fenceAcq scope) s = execFenceAcq scope s := rfl
theorem exec_fenceRel {scope} (s : State) : exec (.fenceRel scope) s = execFenceRel scope s := rfl
theorem exec_fenceSc {scope} (s : State) : exec (.fenceSc scope) s = execFenceSc scope s := rfl
theorem exec_fenceX {o} (s : State) : exec (.fenceX o) s = execFenceX o s := rfl
theorem exec_crnew {o} (s : State) : exec (.crnew o) s = execCrnew o s := rfl
theorem exec_vsplit {o} (s : State) : exec (.vsplit o) s = execVsplit o s := rfl
theorem exec_vshare {o} (s : State) : exec (.vshare o) s = execVshare o s := rfl
theorem exec_vdemote {o} (s : State) : exec (.vdemote o) s = execVdemote o s := rfl
theorem exec_vnarrow {o} (s : State) : exec (.vnarrow o) s = execVnarrow o s := rfl
theorem exec_vdrop {ws} (s : State) : exec (.vdrop ws) s = execVdrop ws s := rfl
theorem exec_vquery {o} (s : State) : exec (.vquery o) s = execVquery o s := rfl
theorem exec_vmove {o} (s : State) : exec (.vmove o) s = execVmove o s := rfl
theorem exec_qcfgAff {o} (s : State) : exec (.qcfgAff o) s = execQcfgAff o s := rfl
theorem exec_qcfgSkip {o} (s : State) : exec (.qcfgSkip o) s = execQcfgSkip o s := rfl
theorem exec_qnext {o} (s : State) : exec (.qnext o) s = execQnext o s := rfl
theorem exec_qrd {o} (s : State) : exec (.qrd o) s = execQrd o s := rfl
theorem exec_rep {o} (s : State) : exec (.rep o) s = execRep o s := rfl
theorem exec_repx {o} (s : State) : exec (.repx o) s = execRepx o s := rfl
theorem exec_vadd {o} (s : State) : exec (.vadd o) s = execVadd o s := rfl
theorem exec_vsub {o} (s : State) : exec (.vsub o) s = execVsub o s := rfl
theorem exec_vmul {o} (s : State) : exec (.vmul o) s = execVmul o s := rfl
theorem exec_vmulh {o} (s : State) : exec (.vmulh o) s = execVmulh o s := rfl
theorem exec_vdot {o} (s : State) : exec (.vdot o) s = execVdot o s := rfl
theorem exec_vmin {o} (s : State) : exec (.vmin o) s = execVmin o s := rfl
theorem exec_vmax {o} (s : State) : exec (.vmax o) s = execVmax o s := rfl
theorem exec_vand {o} (s : State) : exec (.vand o) s = execVand o s := rfl
theorem exec_vor {o} (s : State) : exec (.vor o) s = execVor o s := rfl
theorem exec_vxor {o} (s : State) : exec (.vxor o) s = execVxor o s := rfl
theorem exec_vsll {o} (s : State) : exec (.vsll o) s = execVsll o s := rfl
theorem exec_vsrl {o} (s : State) : exec (.vsrl o) s = execVsrl o s := rfl
theorem exec_vsra {o} (s : State) : exec (.vsra o) s = execVsra o s := rfl
theorem exec_vabs {o} (s : State) : exec (.vabs o) s = execVabs o s := rfl
theorem exec_vadds {o} (s : State) : exec (.vadds o) s = execVadds o s := rfl
theorem exec_vsubs {o} (s : State) : exec (.vsubs o) s = execVsubs o s := rfl
theorem exec_vfadd {o} (s : State) : exec (.vfadd o) s = execVfadd o s := rfl
theorem exec_vfsub {o} (s : State) : exec (.vfsub o) s = execVfsub o s := rfl
theorem exec_vfmul {o} (s : State) : exec (.vfmul o) s = execVfmul o s := rfl
theorem exec_vfdiv {o} (s : State) : exec (.vfdiv o) s = execVfdiv o s := rfl
theorem exec_vfsqrt {o} (s : State) : exec (.vfsqrt o) s = execVfsqrt o s := rfl
theorem exec_vfmin {o} (s : State) : exec (.vfmin o) s = execVfmin o s := rfl
theorem exec_vfmax {o} (s : State) : exec (.vfmax o) s = execVfmax o s := rfl
theorem exec_vfma {o} (s : State) : exec (.vfma o) s = execVfma o s := rfl
theorem exec_vld {o} (s : State) : exec (.vld o) s = execVld o s := rfl
theorem exec_vst {o} (s : State) : exec (.vst o) s = execVst o s := rfl
theorem exec_vldq {o} (s : State) : exec (.vldq o) s = execVldq o s := rfl
theorem exec_vstq {o} (s : State) : exec (.vstq o) s = execVstq o s := rfl
theorem exec_vgath {o} (s : State) : exec (.vgath o) s = execVgath o s := rfl
theorem exec_vscat {o} (s : State) : exec (.vscat o) s = execVscat o s := rfl
theorem exec_vldf {o} (s : State) : exec (.vldf o) s = execVldf o s := rfl
theorem exec_vbcast {o} (s : State) : exec (.vbcast o) s = execVbcast o s := rfl
theorem exec_vshuf {o} (s : State) : exec (.vshuf o) s = execVshuf o s := rfl
theorem exec_vzip {o} (s : State) : exec (.vzip o) s = execVzip o s := rfl
theorem exec_vuzp {o} (s : State) : exec (.vuzp o) s = execVuzp o s := rfl
theorem exec_vslide {o} (s : State) : exec (.vslide o) s = execVslide o s := rfl
theorem exec_vext {o} (s : State) : exec (.vext o) s = execVext o s := rfl
theorem exec_vins {o} (s : State) : exec (.vins o) s = execVins o s := rfl
theorem exec_vsplat {o} (s : State) : exec (.vsplat o) s = execVsplat o s := rfl
theorem exec_vredAdd {o} (s : State) : exec (.vredAdd o) s = execVredAdd o s := rfl
theorem exec_vredMin {o} (s : State) : exec (.vredMin o) s = execVredMin o s := rfl
theorem exec_vredMax {o} (s : State) : exec (.vredMax o) s = execVredMax o s := rfl
theorem exec_vcvt {o} (s : State) : exec (.vcvt o) s = execVcvt o s := rfl
theorem exec_vpack {o} (s : State) : exec (.vpack o) s = execVpack o s := rfl
theorem exec_vunpk {o} (s : State) : exec (.vunpk o) s = execVunpk o s := rfl
theorem exec_vcbx {o} (s : State) : exec (.vcbx o) s = execVcbx o s := rfl
theorem exec_vbxq {o} (s : State) : exec (.vbxq o) s = execVbxq o s := rfl
theorem exec_vcq4 {o} (s : State) : exec (.vcq4 o) s = execVcq4 o s := rfl
theorem exec_vexp2 {o} (s : State) : exec (.vexp2 o) s = execVexp2 o s := rfl
theorem exec_vlog2 {o} (s : State) : exec (.vlog2 o) s = execVlog2 o s := rfl
theorem exec_vrcp {o} (s : State) : exec (.vrcp o) s = execVrcp o s := rfl
theorem exec_vrsq {o} (s : State) : exec (.vrsq o) s = execVrsq o s := rfl
theorem exec_vsin {o} (s : State) : exec (.vsin o) s = execVsin o s := rfl
theorem exec_vcos {o} (s : State) : exec (.vcos o) s = execVcos o s := rfl
theorem exec_vcmpEq {o} (s : State) : exec (.vcmpEq o) s = execVcmpEq o s := rfl
theorem exec_vcmpNe {o} (s : State) : exec (.vcmpNe o) s = execVcmpNe o s := rfl
theorem exec_vcmpLt {o} (s : State) : exec (.vcmpLt o) s = execVcmpLt o s := rfl
theorem exec_vcmpLe {o} (s : State) : exec (.vcmpLe o) s = execVcmpLe o s := rfl
theorem exec_vcmpLtu {o} (s : State) : exec (.vcmpLtu o) s = execVcmpLtu o s := rfl
theorem exec_vcmpLeu {o} (s : State) : exec (.vcmpLeu o) s = execVcmpLeu o s := rfl
theorem exec_vmand {o} (s : State) : exec (.vmand o) s = execVmand o s := rfl
theorem exec_vmor {o} (s : State) : exec (.vmor o) s = execVmor o s := rfl
theorem exec_vmxor {o} (s : State) : exec (.vmxor o) s = execVmxor o s := rfl
theorem exec_vmnot {o} (s : State) : exec (.vmnot o) s = execVmnot o s := rfl
theorem exec_vmcnt {o} (s : State) : exec (.vmcnt o) s = execVmcnt o s := rfl
theorem exec_vmfst {o} (s : State) : exec (.vmfst o) s = execVmfst o s := rfl
theorem exec_mgang {o} (s : State) : exec (.mgang o) s = execMgang o s := rfl
theorem exec_mmas {o} (s : State) : exec (.mmas o) s = execMmas o s := rfl
theorem exec_mzero {acc} (s : State) : exec (.mzero acc) s = execMzero acc s := rfl
theorem exec_mdrainI64 {o} (s : State) : exec (.mdrainI64 o) s = execMdrainI64 o s := rfl
theorem exec_mdrainI32s {o} (s : State) : exec (.mdrainI32s o) s = execMdrainI32s o s := rfl
theorem exec_mdrainF32 {o} (s : State) : exec (.mdrainF32 o) s = execMdrainF32 o s := rfl
theorem exec_mdrainF32a {o} (s : State) : exec (.mdrainF32a o) s = execMdrainF32a o s := rfl
theorem exec_mdrainBf16 {o} (s : State) : exec (.mdrainBf16 o) s = execMdrainBf16 o s := rfl
theorem exec_mdrainc {o} (s : State) : exec (.mdrainc o) s = execMdrainc o s := rfl
theorem exec_ard {o} (s : State) : exec (.ard o) s = execArd o s := rfl
theorem exec_awr {o} (s : State) : exec (.awr o) s = execAwr o s := rfl
theorem exec_achk {o} (s : State) : exec (.achk o) s = execAchk o s := rfl
theorem exec_acfg {o} (s : State) : exec (.acfg o) s = execAcfg o s := rfl
theorem exec_cbld {ra} (s : State) : exec (.cbld ra) s = execCbld ra s := rfl
theorem exec_hintImm {payload} (s : State) : exec (.hintImm payload) s = execHintImm payload s := rfl
theorem exec_hintMod {o} (s : State) : exec (.hintMod o) s = execHintMod o s := rfl
theorem exec_hintSched {o} (s : State) : exec (.hintSched o) s = execHintSched o s := rfl
theorem exec_beq {o} (s : State) : exec (.beq o) s = execBeq o s := rfl
theorem exec_bne {o} (s : State) : exec (.bne o) s = execBne o s := rfl
theorem exec_blt {o} (s : State) : exec (.blt o) s = execBlt o s := rfl
theorem exec_bge {o} (s : State) : exec (.bge o) s = execBge o s := rfl
theorem exec_bltu {o} (s : State) : exec (.bltu o) s = execBltu o s := rfl
theorem exec_bgeu {o} (s : State) : exec (.bgeu o) s = execBgeu o s := rfl
theorem exec_jal {off} (s : State) : exec (.jal off) s = execJal off s := rfl
theorem exec_jalr {o} (s : State) : exec (.jalr o) s = execJalr o s := rfl
theorem exec_endBody (s : State) : exec (.endBody) s = execEndBody s := rfl
theorem exec_trap {code} (s : State) : exec (.trap code) s = execTrap code s := rfl
theorem exec_bkpt {code} (s : State) : exec (.bkpt code) s = execBkpt code s := rfl
theorem exec_svc {code} (s : State) : exec (.svc code) s = execSvc code s := rfl
theorem exec_send {o} (s : State) : exec (.send o) s = execSend o s := rfl
theorem exec_sendv {o} (s : State) : exec (.sendv o) s = execSendv o s := rfl
theorem exec_sendmPm {o} (s : State) : exec (.sendmPm o) s = execSendmPm o s := rfl
theorem exec_sendmIadd {o} (s : State) : exec (.sendmIadd o) s = execSendmIadd o s := rfl
theorem exec_sendmF32 {o} (s : State) : exec (.sendmF32 o) s = execSendmF32 o s := rfl
theorem exec_sendmF64 {o} (s : State) : exec (.sendmF64 o) s = execSendmF64 o s := rfl
theorem exec_chnew {o} (s : State) : exec (.chnew o) s = execChnew o s := rfl
theorem exec_chfree {o} (s : State) : exec (.chfree o) s = execChfree o s := rfl
theorem exec_chcfg {o} (s : State) : exec (.chcfg o) s = execChcfg o s := rfl
theorem exec_chcnt {o} (s : State) : exec (.chcnt o) s = execChcnt o s := rfl
theorem exec_patset {o} (s : State) : exec (.patset o) s = execPatset o s := rfl
theorem exec_patclr {o} (s : State) : exec (.patclr o) s = execPatclr o s := rfl
theorem exec_patrank {o} (s : State) : exec (.patrank o) s = execPatrank o s := rfl
theorem exec_relay {o} (s : State) : exec (.relay o) s = execRelay o s := rfl
theorem exec_spawn {o} (s : State) : exec (.spawn o) s = execSpawn o s := rfl
theorem exec_hstart {o} (s : State) : exec (.hstart o) s = execHstart o s := rfl
theorem exec_hstat {rd} (s : State) : exec (.hstat rd) s = execHstat rd s := rfl
theorem exec_cbcfgSet {o} (s : State) : exec (.cbcfgSet o) s = execCbcfgSet o s := rfl
theorem exec_cbcfgState {o} (s : State) : exec (.cbcfgState o) s = execCbcfgState o s := rfl
theorem exec_cbcfgRebuild {o} (s : State) : exec (.cbcfgRebuild o) s = execCbcfgRebuild o s := rfl
theorem exec_cbcfgClear {o} (s : State) : exec (.cbcfgClear o) s = execCbcfgClear o s := rfl
theorem exec_cbret {o} (s : State) : exec (.cbret o) s = execCbret o s := rfl
theorem exec_cbcnt {o} (s : State) : exec (.cbcnt o) s = execCbcnt o s := rfl
theorem exec_cbaudit {o} (s : State) : exec (.cbaudit o) s = execCbaudit o s := rfl
theorem exec_rnfwd {o} (s : State) : exec (.rnfwd o) s = execRnfwd o s := rfl
theorem exec_rnrev {o} (s : State) : exec (.rnrev o) s = execRnrev o s := rfl
theorem exec_rnadd {o} (s : State) : exec (.rnadd o) s = execRnadd o s := rfl
theorem exec_rnsub {o} (s : State) : exec (.rnsub o) s = execRnsub o s := rfl
theorem exec_rnmul {o} (s : State) : exec (.rnmul o) s = execRnmul o s := rfl
theorem exec_rnchk {o} (s : State) : exec (.rnchk o) s = execRnchk o s := rfl
theorem exec_cpy {o} (s : State) : exec (.cpy o) s = execCpy o s := rfl
theorem exec_cpya {o} (s : State) : exec (.cpya o) s = execCpya o s := rfl
theorem exec_cpyw {o} (s : State) : exec (.cpyw o) s = execCpyw o s := rfl
theorem exec_cpyg {o} (s : State) : exec (.cpyg o) s = execCpyg o s := rfl
theorem exec_weirnew {o} (s : State) : exec (.weirnew o) s = execWeirnew o s := rfl
theorem exec_weiradd {o} (s : State) : exec (.weiradd o) s = execWeiradd o s := rfl
theorem exec_weirarm {o} (s : State) : exec (.weirarm o) s = execWeirarm o s := rfl
theorem exec_weirarmFree {o} (s : State) : exec (.weirarmFree o) s = execWeirarmFree o s := rfl
theorem exec_weirrd {o} (s : State) : exec (.weirrd o) s = execWeirrd o s := rfl
theorem exec_sliceoccWrite {stack slice} (s : State) : exec (.sliceoccWrite stack slice) s = execSliceoccWrite stack slice s := rfl
theorem exec_cbReturnApply {cluster} (s : State) : exec (.cbReturnApply cluster) s = execCbReturnApply cluster s := rfl
theorem exec_repWordIssue {core} (s : State) : exec (.repWordIssue core) s = execRepWordIssue core s := rfl
theorem exec_acfgApply {core} (s : State) : exec (.acfgApply core) s = execAcfgApply core s := rfl
theorem exec_illegalWord {w} (s : State) : exec (.illegalWord w) s = execIllegalWord w s := rfl
theorem exec_packageReset (s : State) : exec (.packageReset) s = execPackageReset s := rfl
theorem exec_messageAdmit {core} (s : State) : exec (.messageAdmit core) s = execMessageAdmit core s := rfl
theorem exec_messageAccept {k} (s : State) : exec (.messageAccept k) s = execMessageAccept k s := rfl
theorem exec_overflowMoveBack {core slot} (s : State) : exec (.overflowMoveBack core slot) s = execOverflowMoveBack core slot s := rfl
theorem exec_relayForward {core} (s : State) : exec (.relayForward core) s = execRelayForward core s := rfl
theorem exec_sluiceEvaluate {core} (s : State) : exec (.sluiceEvaluate core) s = execSluiceEvaluate core s := rfl
theorem exec_contextLoaded {core ctx} (s : State) : exec (.contextLoaded core ctx) s = execContextLoaded core ctx s := rfl
theorem exec_hstartRetry {core} (s : State) : exec (.hstartRetry core) s = execHstartRetry core s := rfl
theorem exec_spawnItemArrive {k} (s : State) : exec (.spawnItemArrive k) s = execSpawnItemArrive k s := rfl
theorem exec_registerFill {core ctx k} (s : State) : exec (.registerFill core ctx k) s = execRegisterFill core ctx k s := rfl
theorem exec_storeBufferDrain {core} (s : State) : exec (.storeBufferDrain core) s = execStoreBufferDrain core s := rfl
theorem exec_atomicQueueSend {core} (s : State) : exec (.atomicQueueSend core) s = execAtomicQueueSend core s := rfl
theorem exec_homeAtomicApply {k} (s : State) : exec (.homeAtomicApply k) s = execHomeAtomicApply k s := rfl
theorem exec_sliceRequestAccept {k} (s : State) : exec (.sliceRequestAccept k) s = execSliceRequestAccept k s := rfl
theorem exec_sliceAnswer {stack slice} (s : State) : exec (.sliceAnswer stack slice) s = execSliceAnswer stack slice s := rfl
theorem exec_bankModeDone {cluster bank} (s : State) : exec (.bankModeDone cluster bank) s = execBankModeDone cluster bank s := rfl
theorem exec_cbSlotStart {stack engine} (s : State) : exec (.cbSlotStart stack engine) s = execCbSlotStart stack engine s := rfl
theorem exec_cbSlotFilled {stack engine} (s : State) : exec (.cbSlotFilled stack engine) s = execCbSlotFilled stack engine s := rfl
theorem exec_sliceCounterFlush {stack slice} (s : State) : exec (.sliceCounterFlush stack slice) s = execSliceCounterFlush stack slice s := rfl
theorem exec_fpunionUpdate {cluster} (s : State) : exec (.fpunionUpdate cluster) s = execFpunionUpdate cluster s := rfl
theorem exec_colanderAllocate {stack} (s : State) : exec (.colanderAllocate stack) s = execColanderAllocate stack s := rfl
theorem exec_colanderSplit {stack} (s : State) : exec (.colanderSplit stack) s = execColanderSplit stack s := rfl
theorem exec_colanderShare {stack} (s : State) : exec (.colanderShare stack) s = execColanderShare stack s := rfl
theorem exec_colanderNotice {stack} (s : State) : exec (.colanderNotice stack) s = execColanderNotice stack s := rfl
theorem exec_colanderAnswer {k} (s : State) : exec (.colanderAnswer k) s = execColanderAnswer k s := rfl
theorem exec_viewNoticeSend {core} (s : State) : exec (.viewNoticeSend core) s = execViewNoticeSend core s := rfl
theorem exec_watchdogExpire {core ctx} (s : State) : exec (.watchdogExpire core ctx) s = execWatchdogExpire core ctx s := rfl
theorem exec_sliceEndSignal {core} (s : State) : exec (.sliceEndSignal core) s = execSliceEndSignal core s := rfl
theorem exec_graceExpire {core} (s : State) : exec (.graceExpire core) s = execGraceExpire core s := rfl
theorem exec_contextSave {core} (s : State) : exec (.contextSave core) s = execContextSave core s := rfl
theorem exec_messageStateSave {core} (s : State) : exec (.messageStateSave core) s = execMessageStateSave core s := rfl
theorem exec_poundResume {core} (s : State) : exec (.poundResume core) s = execPoundResume core s := rfl
theorem exec_deferredFaultTake {core ctx} (s : State) : exec (.deferredFaultTake core ctx) s = execDeferredFaultTake core ctx s := rfl
theorem exec_faultPacketResend {core} (s : State) : exec (.faultPacketResend core) s = execFaultPacketResend core s := rfl
theorem exec_translationWalk {cluster} (s : State) : exec (.translationWalk cluster) s = execTranslationWalk cluster s := rfl
theorem exec_keeperPtLookup {cluster} (s : State) : exec (.keeperPtLookup cluster) s = execKeeperPtLookup cluster s := rfl
theorem exec_missdone {cluster value} (s : State) : exec (.missdone cluster value) s = execMissdone cluster value s := rfl
theorem exec_sideLogReplay {core k} (s : State) : exec (.sideLogReplay core k) s = execSideLogReplay core k s := rfl
theorem exec_engineCommandStart {stack engine} (s : State) : exec (.engineCommandStart stack engine) s = execEngineCommandStart stack engine s := rfl
theorem exec_engineCommandDone {stack engine} (s : State) : exec (.engineCommandDone stack engine) s = execEngineCommandDone stack engine s := rfl
theorem exec_weirCharge {stack} (s : State) : exec (.weirCharge stack) s = execWeirCharge stack s := rfl
theorem exec_weirSubtract {stack k} (s : State) : exec (.weirSubtract stack k) s = execWeirSubtract stack k s := rfl
theorem exec_weirAddApply {stack} (s : State) : exec (.weirAddApply stack) s = execWeirAddApply stack s := rfl
theorem exec_weirArmApply {stack} (s : State) : exec (.weirArmApply stack) s = execWeirArmApply stack s := rfl
theorem exec_weirCreate {stack} (s : State) : exec (.weirCreate stack) s = execWeirCreate stack s := rfl
theorem exec_weirStateRead {stack} (s : State) : exec (.weirStateRead stack) s = execWeirStateRead stack s := rfl
theorem exec_gangStart {core} (s : State) : exec (.gangStart core) s = execGangStart core s := rfl
theorem exec_gangTimeout {core} (s : State) : exec (.gangTimeout core) s = execGangTimeout core s := rfl
theorem exec_gangOperationDone {k} (s : State) : exec (.gangOperationDone k) s = execGangOperationDone k s := rfl
theorem exec_taggedSendAccept {port asks payload} (s : State) : exec (.taggedSendAccept port asks payload) s = execTaggedSendAccept port asks payload s := rfl
theorem exec_peerMessageReceive {port name status holds} (s : State) : exec (.peerMessageReceive port name status holds) s = execPeerMessageReceive port name status holds s := rfl
theorem exec_rmaWrite {key off data} (s : State) : exec (.rmaWrite key off data) s = execRmaWrite key off data s := rfl
theorem exec_rmaRead {key off n} (s : State) : exec (.rmaRead key off n) s = execRmaRead key off n s := rfl
theorem exec_rmaWriteComplete {k} (s : State) : exec (.rmaWriteComplete k) s = execRmaWriteComplete k s := rfl
theorem exec_remoteTargetAck {k data poison} (s : State) : exec (.remoteTargetAck k data poison) s = execRemoteTargetAck k data poison s := rfl
theorem exec_completionAccept {k} (s : State) : exec (.completionAccept k) s = execCompletionAccept k s := rfl
theorem exec_completionTimerExpire {tag endpoint} (s : State) : exec (.completionTimerExpire tag endpoint) s = execCompletionTimerExpire tag endpoint s := rfl
theorem exec_energyChargePost {k} (s : State) : exec (.energyChargePost k) s = execEnergyChargePost k s := rfl
theorem exec_energyIntervalEnd {stack} (s : State) : exec (.energyIntervalEnd stack) s = execEnergyIntervalEnd stack s := rfl
theorem exec_powerSample {milliwatts} (s : State) : exec (.powerSample milliwatts) s = execPowerSample milliwatts s := rfl
theorem exec_claim {stack entry req va} (s : State) : exec (.claim stack entry req va) s = execClaim stack entry req va s := rfl
theorem exec_start {stack entry} (s : State) : exec (.start stack entry) s = execStart stack entry s := rfl
theorem exec_migRelease {stack entry} (s : State) : exec (.migRelease stack entry) s = execMigRelease stack entry s := rfl
theorem exec_cancel {stack entry} (s : State) : exec (.cancel stack entry) s = execCancel stack entry s := rfl
theorem exec_migrationHoldReady {stack entry} (s : State) : exec (.migrationHoldReady stack entry) s = execMigrationHoldReady stack entry s := rfl
theorem exec_migrationCopyDone {stack entry} (s : State) : exec (.migrationCopyDone stack entry) s = execMigrationCopyDone stack entry s := rfl
theorem exec_migrationRemapDone {stack entry} (s : State) : exec (.migrationRemapDone stack entry) s = execMigrationRemapDone stack entry s := rfl
theorem exec_migrationDrainDone {stack entry} (s : State) : exec (.migrationDrainDone stack entry) s = execMigrationDrainDone stack entry s := rfl
theorem exec_debugWindowWrite {core offset value} (s : State) : exec (.debugWindowWrite core offset value) s = execDebugWindowWrite core offset value s := rfl
theorem exec_stop {core} (s : State) : exec (.stop core) s = execStop core s := rfl
theorem exec_debugResume {core slot} (s : State) : exec (.debugResume core slot) s = execDebugResume core slot s := rfl
theorem exec_restart {core} (s : State) : exec (.restart core) s = execRestart core s := rfl
theorem exec_kill {core cause} (s : State) : exec (.kill core cause) s = execKill core cause s := rfl
theorem exec_step {core slot} (s : State) : exec (.step core slot) s = execStep core slot s := rfl
theorem exec_halt {core flight} (s : State) : exec (.halt core flight) s = execHalt core flight s := rfl
theorem exec_flightRelease {core flight} (s : State) : exec (.flightRelease core flight) s = execFlightRelease core flight s := rfl
theorem exec_cut {node number} (s : State) : exec (.cut node number) s = execCut node number s := rfl
theorem exec_cutMarkerForward {core} (s : State) : exec (.cutMarkerForward core) s = execCutMarkerForward core s := rfl
theorem exec_coreCutRecord {core} (s : State) : exec (.coreCutRecord core) s = execCoreCutRecord core s := rfl
theorem exec_engineCutRecord {stack engine} (s : State) : exec (.engineCutRecord stack engine) s = execEngineCutRecord stack engine s := rfl
theorem exec_portCutInject {port} (s : State) : exec (.portCutInject port) s = execPortCutInject port s := rfl
theorem exec_layoutCommit {removed records} (s : State) : exec (.layoutCommit removed records) s = execLayoutCommit removed records s := rfl
theorem exec_wharfReset (s : State) : exec (.wharfReset) s = execWharfReset s := rfl
theorem exec_wharfBoot {digests verified} (s : State) : exec (.wharfBoot digests verified) s = execWharfBoot digests verified s := rfl
theorem exec_extend {register digest} (s : State) : exec (.extend register digest) s = execExtend register digest s := rfl
theorem exec_tokenRefill {node} (s : State) : exec (.tokenRefill node) s = execTokenRefill node s := rfl
theorem exec_vdResume {node} (s : State) : exec (.vdResume node) s = execVdResume node s := rfl
theorem exec_vdSliceEnd {node} (s : State) : exec (.vdSliceEnd node) s = execVdSliceEnd node s := rfl
theorem exec_wayRebalance {stack slice} (s : State) : exec (.wayRebalance stack slice) s = execWayRebalance stack slice s := rfl
theorem exec_lock {node} (s : State) : exec (.lock node) s = execLock node s := rfl
theorem exec_unlock {node} (s : State) : exec (.unlock node) s = execUnlock node s := rfl
theorem exec_report {node nonce} (s : State) : exec (.report node nonce) s = execReport node nonce s := rfl
theorem exec_accept {node digest} (s : State) : exec (.accept node digest) s = execAccept node digest s := rfl
theorem exec_teardown {node} (s : State) : exec (.teardown node) s = execTeardown node s := rfl
theorem exec_scrub {node} (s : State) : exec (.scrub node) s = execScrub node s := rfl
theorem exec_frozenSetWrite {node reg value} (s : State) : exec (.frozenSetWrite node reg value) s = execFrozenSetWrite node reg value s := rfl
theorem exec_clear {block} (s : State) : exec (.clear block) s = execClear block s := rfl
theorem exec_envelopeSet {watts} (s : State) : exec (.envelopeSet watts) s = execEnvelopeSet watts s := rfl
theorem exec_hwErrorDetect {place kind} (s : State) : exec (.hwErrorDetect place kind) s = execHwErrorDetect place kind s := rfl
theorem exec_bucketLeak {unit} (s : State) : exec (.bucketLeak unit) s = execBucketLeak unit s := rfl
theorem exec_dramErrorReport {stack cell uncorrectable} (s : State) : exec (.dramErrorReport stack cell uncorrectable) s = execDramErrorReport stack cell uncorrectable s := rfl
theorem exec_sparingDone {stack cell} (s : State) : exec (.sparingDone stack cell) s = execSparingDone stack cell s := rfl
theorem exec_pairRequestRelease {core} (s : State) : exec (.pairRequestRelease core) s = execPairRequestRelease core s := rfl
theorem exec_memoryCut {node number} (s : State) : exec (.memoryCut node number) s = execMemoryCut node number s := rfl
theorem exec_rollback {node} (s : State) : exec (.rollback node) s = execRollback node s := rfl
theorem exec_registerWrite {reg value} (s : State) : exec (.registerWrite reg value) s = execRegisterWrite reg value s := rfl
theorem exec_ngaturAssemble {job} (s : State) : exec (.ngaturAssemble job) s = execNgaturAssemble job s := rfl
theorem exec_attach {tag} (s : State) : exec (.attach tag) s = execAttach tag s := rfl
theorem exec_load {image request} (s : State) : exec (.load image request) s = execLoad image request s := rfl
theorem exec_sym {name} (s : State) : exec (.sym name) s = execSym name s := rfl
theorem exec_sluice {core chans} (s : State) : exec (.sluice core chans) s = execSluice core chans s := rfl
theorem exec_traceArrivals {core chan} (s : State) : exec (.traceArrivals core chan) s = execTraceArrivals core chan s := rfl
theorem exec_watchFire {core regs} (s : State) : exec (.watchFire core regs) s = execWatchFire core regs s := rfl
theorem exec_post {chans words} (s : State) : exec (.post chans words) s = execPost chans words s := rfl
theorem exec_xlate {core va} (s : State) : exec (.xlate core va) s = execXlate core va s := rfl
theorem exec_regs {core ctx regs} (s : State) : exec (.regs core ctx regs) s = execRegs core ctx regs s := rfl
theorem exec_streamCmd {core ctx q} (s : State) : exec (.streamCmd core ctx q) s = execStreamCmd core ctx q s := rfl
theorem exec_mem {core off n unit} (s : State) : exec (.mem core off n unit) s = execMem core off n unit s := rfl
theorem exec_breakAt {va cores} (s : State) : exec (.breakAt va cores) s = execBreakAt va cores s := rfl
theorem exec_delete {number} (s : State) : exec (.delete number) s = execDelete number s := rfl
theorem exec_cont (s : State) : exec (.cont) s = execCont s := rfl
theorem exec_occ {core} (s : State) : exec (.occ core) s = execOcc core s := rfl
theorem exec_occClear {core} (s : State) : exec (.occClear core) s = execOccClear core s := rfl
theorem exec_sample {core sampling} (s : State) : exec (.sample core sampling) s = execSample core sampling s := rfl
theorem exec_preempt {node grace at_} (s : State) : exec (.preempt node grace at_) s = execPreempt node grace at_ s := rfl
theorem exec_resumePound {node} (s : State) : exec (.resumePound node) s = execResumePound node s := rfl
theorem exec_save {core} (s : State) : exec (.save core) s = execSave core s := rfl
theorem exec_tile {core acc elem} (s : State) : exec (.tile core acc elem) s = execTile core acc elem s := rfl
theorem exec_flip {core acc row col bit} (s : State) : exec (.flip core acc row col bit) s = execFlip core acc row col bit s := rfl
theorem exec_acfgCommand {core deg fch} (s : State) : exec (.acfgCommand core deg fch) s = execAcfgCommand core deg fch s := rfl
theorem exec_resumeContext {cores ctx va} (s : State) : exec (.resumeContext cores ctx va) s = execResumeContext cores ctx va s := rfl
theorem exec_traceGang {lead mask} (s : State) : exec (.traceGang lead mask) s = execTraceGang lead mask s := rfl
theorem exec_watchPc {va cores regs} (s : State) : exec (.watchPc va cores regs) s = execWatchPc va cores regs s := rfl
theorem exec_colander {region} (s : State) : exec (.colander region) s = execColander region s := rfl
theorem exec_viewCmd {core ctx w} (s : State) : exec (.viewCmd core ctx w) s = execViewCmd core ctx w s := rfl
theorem exec_drainComplete {core} (s : State) : exec (.drainComplete core) s = execDrainComplete core s := rfl

end Sys2Proof.Machine
end

