-- ==== Sys2Proof/Laws/State.lean ====
section
/-!
SUPPORT. What each named update of the state leaves as it was, and what it gives back: one lemma per field and update.
-/

namespace Sys2Proof.Machine

/-! ## Lists of numbered values -/

@[simp] theorem lookupD_insertAt_self {α : Type} (d : α) (k : Nat) (v : α) (l : List (Nat × α)) :
    lookupD d k (insertAt k v l) = v := by
  induction l with
  | nil => simp [insertAt, lookupD]
  | cons p l ih =>
    obtain ⟨j, u⟩ := p
    simp only [insertAt]
    split
    · simp [lookupD]
    · split
      · simp [lookupD]
      · rename_i _ hn
        simp only [lookupD]
        rw [if_neg (fun h => hn h.symm)]
        exact ih

theorem lookupD_of_lt {α : Type} (d : α) (k : Nat) (l : List (Nat × α)) (h : ∀ p ∈ l, k < p.1) : lookupD d k l = d := by
  induction l with
  | nil => rfl
  | cons p l ih =>
    obtain ⟨j, u⟩ := p
    have hj := h (j, u) (by simp)
    simp only [lookupD]
    rw [if_neg (by simp at hj; omega)]
    exact ih fun q hq => h q (by simp [hq])

@[simp] theorem lookupD_insertAt_ne {α : Type} (d : α) (j k : Nat) (v : α) (l : List (Nat × α)) (h : j ≠ k) :
    lookupD d j (insertAt k v l) = lookupD d j l := by
  induction l with
  | nil => simp [insertAt, lookupD, h.symm]
  | cons p l ih =>
    obtain ⟨i, u⟩ := p
    simp only [insertAt]
    split
    · simp [lookupD, h.symm]
    · split
      · rename_i hk; subst hk; simp [lookupD, h.symm]
      · simp only [lookupD]; split
        · rfl
        · exact ih

/-! ## Cores and contexts -/

@[simp] theorem core_setCore_self (s : State) (n : Nat) (c : Core) : (s.setCore n c).core n = c := by
  simp [State.core, State.setCore]
@[simp] theorem core_setCore_ne (s : State) (n k : Nat) (c : Core) (h : k ≠ n) : (s.setCore n c).core k = s.core k := by
  simp [State.core, State.setCore, h]
@[simp] theorem core_modCore_self (s : State) (n : Nat) (f : Core → Core) : (s.modCore n f).core n = f (s.core n) := by
  simp [State.modCore]
@[simp] theorem core_modCore_ne (s : State) (n k : Nat) (f : Core → Core) (h : k ≠ n) :
    (s.modCore n f).core k = s.core k := by
  simp [State.modCore, h]
@[simp] theorem ctx_setCtx_self (c : Core) (k : Nat) (x : Ctx) : (c.setCtx k x).ctx k = x := by
  simp [Core.setCtx, Core.ctx]
@[simp] theorem ctx_setCtx_ne (c : Core) (j k : Nat) (x : Ctx) (h : j % 11 ≠ k % 11) : (c.setCtx k x).ctx j = c.ctx j := by
  simp only [Core.setCtx, Core.ctx]
  rw [Vector.getElem_set_ne]
  exact fun e => h e.symm
@[simp] theorem ctx_coreModCtx_self (c : Core) (k : Nat) (f : Ctx → Ctx) : (c.modCtx k f).ctx k = f (c.ctx k) := by
  simp [Core.modCtx]
@[simp] theorem ctx_coreModCtx_ne (c : Core) (j k : Nat) (f : Ctx → Ctx) (h : j % 11 ≠ k % 11) :
    (c.modCtx k f).ctx j = c.ctx j := by
  simp [Core.modCtx, h]
@[simp] theorem me_modMe (s : State) (f : Core → Core) : (s.modMe f).me = f s.me :=
  core_modCore_self s s.cur.1 f
@[simp] theorem core_modMe_self (s : State) (f : Core → Core) : (s.modMe f).core s.cur.1 = f s.me := me_modMe s f
@[simp] theorem core_modMe_ne (s : State) (n : Nat) (f : Core → Core) (h : n ≠ s.cur.1) : (s.modMe f).core n = s.core n :=
  core_modCore_ne s s.cur.1 n f h
@[simp] theorem ctx_modCtx (s : State) (f : Ctx → Ctx) : (s.modCtx f).ctx = f s.ctx := by
  have h : (s.modCtx f).me = s.me.modCtx s.cur.2 f := me_modMe s _
  show (s.modCtx f).me.ctx s.cur.2 = _
  rw [h]; simp [State.ctx]
theorem me_modCtx (s : State) (f : Ctx → Ctx) : (s.modCtx f).me = s.me.modCtx s.cur.2 f := me_modMe s _
@[simp] theorem core_modCtx_ne (s : State) (n : Nat) (f : Ctx → Ctx) (h : n ≠ s.cur.1) : (s.modCtx f).core n = s.core n :=
  core_modMe_ne s n _ h
@[simp] theorem ctxOf_modCtx_ne (s : State) (k : Nat) (f : Ctx → Ctx) (h : k % 11 ≠ s.cur.2 % 11) :
    (s.modCtx f).me.ctx k = s.me.ctx k := by
  rw [me_modCtx]; simp [h]
@[simp] theorem ctxOf_modCtxOf (s : State) (n k : Nat) (f : Ctx → Ctx) :
    ((s.modCtxOf n k f).core n).ctx k = f ((s.core n).ctx k) := by
  simp [State.modCtxOf]
@[simp] theorem me_note (s : State) (o : Occur) : (s.note o).me = s.me := rfl
@[simp] theorem core_note (s : State) (o : Occur) (n : Nat) : (s.note o).core n = s.core n := rfl
@[simp] theorem ctx_note (s : State) (o : Occur) : (s.note o).ctx = s.ctx := rfl
@[simp] theorem ctx_retire (s : State) (cls : Nat) (pc : Word) : (s.retire cls pc).ctx = s.ctx.retire pc := by
  simp [State.retire]
@[simp] theorem core_modCluster (s : State) (k n : Nat) (f : Cluster → Cluster) : (s.modCluster k f).core n = s.core n := rfl
@[simp] theorem me_modCluster (s : State) (k : Nat) (f : Cluster → Cluster) : (s.modCluster k f).me = s.me := rfl
@[simp] theorem ctx_modCluster (s : State) (k : Nat) (f : Cluster → Cluster) : (s.modCluster k f).ctx = s.ctx := rfl
@[simp] theorem core_modStack (s : State) (k n : Nat) (f : Stack → Stack) : (s.modStack k f).core n = s.core n := rfl
@[simp] theorem me_modStack (s : State) (k : Nat) (f : Stack → Stack) : (s.modStack k f).me = s.me := rfl
@[simp] theorem ctx_modStack (s : State) (k : Nat) (f : Stack → Stack) : (s.modStack k f).ctx = s.ctx := rfl
@[simp] theorem cluster_modCluster_self (s : State) (k : Nat) (f : Cluster → Cluster) :
    (s.modCluster k f).cluster k = f (s.cluster k) := by
  simp [State.modCluster, State.cluster]
@[simp] theorem cluster_modCluster_ne (s : State) (j k : Nat) (f : Cluster → Cluster) (h : j ≠ k) :
    (s.modCluster k f).cluster j = s.cluster j := by
  simp [State.modCluster, State.cluster, h]
@[simp] theorem stack_modStack_self (s : State) (k : Nat) (f : Stack → Stack) : (s.modStack k f).stack k = f (s.stack k) := by
  simp [State.modStack, State.stack]
@[simp] theorem stack_modStack_ne (s : State) (j k : Nat) (f : Stack → Stack) (h : j % 4 ≠ k % 4) :
    (s.modStack k f).stack j = s.stack j := by
  simp only [State.modStack, State.stack]
  rw [Vector.getElem_set_ne]
  exact fun e => h e.symm
@[simp] theorem slice_modSlice_self (t : Stack) (i : Nat) (f : Slice → Slice) : (t.modSlice i f).slice i = f (t.slice i) := by
  simp [Stack.modSlice, Stack.slice]
@[simp] theorem engine_modEngine_self (t : Stack) (i : Nat) (f : Engine → Engine) :
    (t.modEngine i f).engine i = f (t.engine i) := by
  simp [Stack.modEngine, Stack.engine]
@[simp] theorem mig_modMig_self (t : Stack) (i : Nat) (f : Mig → Mig) : (t.modMig i f).migEntry i = f (t.migEntry i) := by
  simp [Stack.modMig, Stack.migEntry]
@[simp] theorem bank_modBank_self (c : Cluster) (i : Nat) (f : Bank → Bank) : (c.modBank i f).bank i = f (c.bank i) := by
  simp [Cluster.modBank, Cluster.bank]
@[simp] theorem ring_modRing_self (b : Bank) (i : Nat) (f : Ring → Ring) : (b.modRing i f).ring i = f (b.ring i) := by
  simp [Bank.modRing, Bank.ring]
@[simp] theorem chan_modChan_self (c : Core) (i : Nat) (f : ChanSlot → ChanSlot) : (c.modChan i f).chan i = f (c.chan i) := by
  simp [Core.modChan, Core.chan]
@[simp] theorem pat_setPat_self (c : Core) (i : Nat) (p : Option Pattern) : (c.setPat i p).pat i = p := by
  simp [Core.setPat, Core.pat]
@[simp] theorem tile_modTile_self (c : Core) (i : Nat) (f : Tile → Tile) : (c.modTile i f).tile i = f (c.tile i) := by
  simp [Core.modTile, Core.tile]
@[simp] theorem vd_modVd_self (s : State) (tag : Nat) (f : Vd → Vd) : (s.modVd tag f).vd tag = f (s.vd tag) := by
  simp [State.modVd, State.vd]
@[simp] theorem me_setCur (s : State) (n k : Nat) : ({ s with cur := (n, k) } : State).me = s.core n := rfl
@[simp] theorem ctx_setCur (s : State) (n k : Nat) : ({ s with cur := (n, k) } : State).ctx = (s.core n).ctx k := rfl

/-! ## Registers -/

@[simp] theorem readX_zero (c : Ctx) : c.readX 0#5 = 0#64 := by simp [Ctx.readX]
@[simp] theorem writeX_zero (c : Ctx) (v : Word) : c.writeX 0#5 v = c := by simp [Ctx.writeX]
@[simp] theorem readX_writeX_self (c : Ctx) (i : BitVec 5) (v : Word) (h : i ≠ 0) : (c.writeX i v).readX i = v := by
  unfold Ctx.readX Ctx.writeX
  rw [if_neg h, if_neg h]
  simp
@[simp] theorem readX_writeX_ne (c : Ctx) (i j : BitVec 5) (v : Word) (h : j ≠ i) : (c.writeX i v).readX j = c.readX j := by
  have h' : i.toNat ≠ j.toNat := fun e => h (BitVec.eq_of_toNat_eq e.symm)
  unfold Ctx.readX Ctx.writeX
  split
  · rfl
  · split
    · rfl
    · simp [Vector.getElem_set_ne, h']
@[simp] theorem readV_writeV_self (c : Ctx) (i : BitVec 4) (v : Vec) : (c.writeV i v).readV i = v := by
  simp [Ctx.readV, Ctx.writeV]
@[simp] theorem readV_writeV_ne (c : Ctx) (i j : BitVec 4) (v : Vec) (h : j ≠ i) : (c.writeV i v).readV j = c.readV j := by
  have h' : i.toNat ≠ j.toNat := fun e => h (BitVec.eq_of_toNat_eq e.symm)
  simp [Ctx.readV, Ctx.writeV, Vector.getElem_set_ne, h']
@[simp] theorem readW_writeW_self (c : Ctx) (i : BitVec 3) (v : View) : (c.writeW i v).readW i = v := by
  simp [Ctx.readW, Ctx.writeW]
@[simp] theorem readW_writeW_ne (c : Ctx) (i j : BitVec 3) (v : View) (h : j ≠ i) : (c.writeW i v).readW j = c.readW j := by
  have h' : i.toNat ≠ j.toNat := fun e => h (BitVec.eq_of_toNat_eq e.symm)
  simp [Ctx.readW, Ctx.writeW, Vector.getElem_set_ne, h']
@[simp] theorem readQ_writeQ_self (c : Ctx) (i : BitVec 2) (v : Stream) : (c.writeQ i v).readQ i = v := by
  simp [Ctx.readQ, Ctx.writeQ]
@[simp] theorem readX_retire (c : Ctx) (pc : Word) (i : BitVec 5) : (c.retire pc).readX i = c.readX i := rfl
@[simp] theorem readV_retire (c : Ctx) (pc : Word) (i : BitVec 4) : (c.retire pc).readV i = c.readV i := rfl
@[simp] theorem readW_retire (c : Ctx) (pc : Word) (i : BitVec 3) : (c.retire pc).readW i = c.readW i := rfl
@[simp] theorem readQ_retire (c : Ctx) (pc : Word) (i : BitVec 2) : (c.retire pc).readQ i = c.readQ i := rfl
@[simp] theorem full_retire (c : Ctx) (pc : Word) (r : RegName) : (c.retire pc).full r = c.full r := by cases r <;> rfl
@[simp] theorem readX_writeV (c : Ctx) (i : BitVec 4) (v : Vec) (j : BitVec 5) : (c.writeV i v).readX j = c.readX j := rfl
@[simp] theorem readX_writeW (c : Ctx) (i : BitVec 3) (v : View) (j : BitVec 5) : (c.writeW i v).readX j = c.readX j := rfl
@[simp] theorem readX_writeQ (c : Ctx) (i : BitVec 2) (v : Stream) (j : BitVec 5) : (c.writeQ i v).readX j = c.readX j := rfl

/-! ## Fields of a context that an update leaves -/

@[simp] theorem writeX_pc (c : Ctx) (i : BitVec 5) (v : Word) : (c.writeX i v).pc = c.pc := by unfold Ctx.writeX; split <;> rfl
@[simp] theorem writeX_v (c : Ctx) (i : BitVec 5) (v : Word) : (c.writeX i v).v = c.v := by unfold Ctx.writeX; split <;> rfl
@[simp] theorem writeX_m (c : Ctx) (i : BitVec 5) (v : Word) : (c.writeX i v).m = c.m := by unfold Ctx.writeX; split <;> rfl
@[simp] theorem writeX_w (c : Ctx) (i : BitVec 5) (v : Word) : (c.writeX i v).w = c.w := by unfold Ctx.writeX; split <;> rfl
@[simp] theorem writeX_q (c : Ctx) (i : BitVec 5) (v : Word) : (c.writeX i v).q = c.q := by unfold Ctx.writeX; split <;> rfl
@[simp] theorem writeX_xfull (c : Ctx) (i : BitVec 5) (v : Word) : (c.writeX i v).xfull = c.xfull := by unfold Ctx.writeX; split <;> rfl
@[simp] theorem writeX_vfull (c : Ctx) (i : BitVec 5) (v : Word) : (c.writeX i v).vfull = c.vfull := by unfold Ctx.writeX; split <;> rfl
@[simp] theorem writeX_wfull (c : Ctx) (i : BitVec 5) (v : Word) : (c.writeX i v).wfull = c.wfull := by unfold Ctx.writeX; split <;> rfl
@[simp] theorem writeX_state (c : Ctx) (i : BitVec 5) (v : Word) : (c.writeX i v).state = c.state := by unfold Ctx.writeX; split <;> rfl
@[simp] theorem writeX_mstat (c : Ctx) (i : BitVec 5) (v : Word) : (c.writeX i v).mstat = c.mstat := by unfold Ctx.writeX; split <;> rfl
@[simp] theorem writeX_fpctl (c : Ctx) (i : BitVec 5) (v : Word) : (c.writeX i v).fpctl = c.fpctl := by unfold Ctx.writeX; split <;> rfl
@[simp] theorem writeX_fpflags (c : Ctx) (i : BitVec 5) (v : Word) : (c.writeX i v).fpflags = c.fpflags := by unfold Ctx.writeX; split <;> rfl
@[simp] theorem writeX_wdleft (c : Ctx) (i : BitVec 5) (v : Word) : (c.writeX i v).wdleft = c.wdleft := by unfold Ctx.writeX; split <;> rfl
@[simp] theorem writeX_owe (c : Ctx) (i : BitVec 5) (v : Word) : (c.writeX i v).owe = c.owe := by unfold Ctx.writeX; split <;> rfl
@[simp] theorem writeX_rcbptr (c : Ctx) (i : BitVec 5) (v : Word) : (c.writeX i v).rcbptr = c.rcbptr := by unfold Ctx.writeX; split <;> rfl
@[simp] theorem writeX_entry (c : Ctx) (i : BitVec 5) (v : Word) : (c.writeX i v).entry = c.entry := by unfold Ctx.writeX; split <;> rfl
@[simp] theorem writeX_start4 (c : Ctx) (i : BitVec 5) (v : Word) : (c.writeX i v).start4 = c.start4 := by unfold Ctx.writeX; split <;> rfl
@[simp] theorem writeX_start5 (c : Ctx) (i : BitVec 5) (v : Word) : (c.writeX i v).start5 = c.start5 := by unfold Ctx.writeX; split <;> rfl
@[simp] theorem writeX_fpc (c : Ctx) (i : BitVec 5) (v : Word) : (c.writeX i v).fpc = c.fpc := by unfold Ctx.writeX; split <;> rfl
@[simp] theorem writeX_acqL1 (c : Ctx) (i : BitVec 5) (v : Word) : (c.writeX i v).acqL1 = c.acqL1 := by unfold Ctx.writeX; split <;> rfl
@[simp] theorem writeX_acqCl (c : Ctx) (i : BitVec 5) (v : Word) : (c.writeX i v).acqCl = c.acqCl := by unfold Ctx.writeX; split <;> rfl
@[simp] theorem writeX_group (c : Ctx) (i : BitVec 5) (v : Word) : (c.writeX i v).group = c.group := by unfold Ctx.writeX; split <;> rfl
@[simp] theorem writeX_ir (c : Ctx) (i : BitVec 5) (v : Word) : (c.writeX i v).ir = c.ir := by unfold Ctx.writeX; split <;> rfl
@[simp] theorem writeX_prio (c : Ctx) (i : BitVec 5) (v : Word) : (c.writeX i v).prio = c.prio := by unfold Ctx.writeX; split <;> rfl
@[simp] theorem writeX_prioLeft (c : Ctx) (i : BitVec 5) (v : Word) : (c.writeX i v).prioLeft = c.prioLeft := by unfold Ctx.writeX; split <;> rfl
@[simp] theorem writeX_rep (c : Ctx) (i : BitVec 5) (v : Word) : (c.writeX i v).rep = c.rep := by unfold Ctx.writeX; split <;> rfl
@[simp] theorem writeX_pends (c : Ctx) (i : BitVec 5) (v : Word) : (c.writeX i v).pends = c.pends := by unfold Ctx.writeX; split <;> rfl
@[simp] theorem writeX_stall (c : Ctx) (i : BitVec 5) (v : Word) : (c.writeX i v).stall = c.stall := by unfold Ctx.writeX; split <;> rfl
@[simp] theorem writeX_deferred (c : Ctx) (i : BitVec 5) (v : Word) : (c.writeX i v).deferred = c.deferred := by unfold Ctx.writeX; split <;> rfl
@[simp] theorem writeX_fpDelta (c : Ctx) (i : BitVec 5) (v : Word) : (c.writeX i v).fpDelta = c.fpDelta := by unfold Ctx.writeX; split <;> rfl
@[simp] theorem writeX_arrival (c : Ctx) (i : BitVec 5) (v : Word) : (c.writeX i v).arrival = c.arrival := by unfold Ctx.writeX; split <;> rfl
@[simp] theorem writeX_stepping (c : Ctx) (i : BitVec 5) (v : Word) : (c.writeX i v).stepping = c.stepping := by unfold Ctx.writeX; split <;> rfl
@[simp] theorem writeX_stopReq (c : Ctx) (i : BitVec 5) (v : Word) : (c.writeX i v).stopReq = c.stopReq := by unfold Ctx.writeX; split <;> rfl
@[simp] theorem writeX_slot (c : Ctx) (i : BitVec 5) (v : Word) : (c.writeX i v).slot = c.slot := by unfold Ctx.writeX; split <;> rfl
@[simp] theorem writeX_startScope (c : Ctx) (i : BitVec 5) (v : Word) : (c.writeX i v).startScope = c.startScope := by unfold Ctx.writeX; split <;> rfl
@[simp] theorem writeX_region (c : Ctx) (i : BitVec 5) (v : Word) : (c.writeX i v).region = c.region := by unfold Ctx.writeX; split <;> rfl
@[simp] theorem writeX_live (c : Ctx) (i : BitVec 5) (v : Word) : (c.writeX i v).live = c.live := by unfold Ctx.writeX; split <;> rfl
@[simp] theorem writeX_since (c : Ctx) (i : BitVec 5) (v : Word) : (c.writeX i v).since = c.since := by unfold Ctx.writeX; split <;> rfl
@[simp] theorem writeX_claim (c : Ctx) (i : BitVec 5) (v : Word) : (c.writeX i v).claim = c.claim := by unfold Ctx.writeX; split <;> rfl
@[simp] theorem writeX_startCover (c : Ctx) (i : BitVec 5) (v : Word) : (c.writeX i v).startCover = c.startCover := by unfold Ctx.writeX; split <;> rfl
@[simp] theorem writeX_cbRet (c : Ctx) (i : BitVec 5) (v : Word) : (c.writeX i v).cbRet = c.cbRet := by unfold Ctx.writeX; split <;> rfl
@[simp] theorem writeX_forced (c : Ctx) (i : BitVec 5) (v : Word) : (c.writeX i v).forced = c.forced := by unfold Ctx.writeX; split <;> rfl
@[simp] theorem writeX_barred (c : Ctx) (i : BitVec 5) (v : Word) : (c.writeX i v).barred = c.barred := by unfold Ctx.writeX; split <;> rfl
@[simp] theorem writeV_pc (c : Ctx) (i : BitVec 4) (v : Vec) : (c.writeV i v).pc = c.pc := rfl
@[simp] theorem writeV_x (c : Ctx) (i : BitVec 4) (v : Vec) : (c.writeV i v).x = c.x := rfl
@[simp] theorem writeV_m (c : Ctx) (i : BitVec 4) (v : Vec) : (c.writeV i v).m = c.m := rfl
@[simp] theorem writeV_w (c : Ctx) (i : BitVec 4) (v : Vec) : (c.writeV i v).w = c.w := rfl
@[simp] theorem writeV_q (c : Ctx) (i : BitVec 4) (v : Vec) : (c.writeV i v).q = c.q := rfl
@[simp] theorem writeV_xfull (c : Ctx) (i : BitVec 4) (v : Vec) : (c.writeV i v).xfull = c.xfull := rfl
@[simp] theorem writeV_vfull (c : Ctx) (i : BitVec 4) (v : Vec) : (c.writeV i v).vfull = c.vfull := rfl
@[simp] theorem writeV_wfull (c : Ctx) (i : BitVec 4) (v : Vec) : (c.writeV i v).wfull = c.wfull := rfl
@[simp] theorem writeV_state (c : Ctx) (i : BitVec 4) (v : Vec) : (c.writeV i v).state = c.state := rfl
@[simp] theorem writeV_mstat (c : Ctx) (i : BitVec 4) (v : Vec) : (c.writeV i v).mstat = c.mstat := rfl
@[simp] theorem writeV_fpctl (c : Ctx) (i : BitVec 4) (v : Vec) : (c.writeV i v).fpctl = c.fpctl := rfl
@[simp] theorem writeV_fpflags (c : Ctx) (i : BitVec 4) (v : Vec) : (c.writeV i v).fpflags = c.fpflags := rfl
@[simp] theorem writeV_wdleft (c : Ctx) (i : BitVec 4) (v : Vec) : (c.writeV i v).wdleft = c.wdleft := rfl
@[simp] theorem writeV_owe (c : Ctx) (i : BitVec 4) (v : Vec) : (c.writeV i v).owe = c.owe := rfl
@[simp] theorem writeV_rcbptr (c : Ctx) (i : BitVec 4) (v : Vec) : (c.writeV i v).rcbptr = c.rcbptr := rfl
@[simp] theorem writeV_entry (c : Ctx) (i : BitVec 4) (v : Vec) : (c.writeV i v).entry = c.entry := rfl
@[simp] theorem writeV_start4 (c : Ctx) (i : BitVec 4) (v : Vec) : (c.writeV i v).start4 = c.start4 := rfl
@[simp] theorem writeV_start5 (c : Ctx) (i : BitVec 4) (v : Vec) : (c.writeV i v).start5 = c.start5 := rfl
@[simp] theorem writeV_fpc (c : Ctx) (i : BitVec 4) (v : Vec) : (c.writeV i v).fpc = c.fpc := rfl
@[simp] theorem writeV_acqL1 (c : Ctx) (i : BitVec 4) (v : Vec) : (c.writeV i v).acqL1 = c.acqL1 := rfl
@[simp] theorem writeV_acqCl (c : Ctx) (i : BitVec 4) (v : Vec) : (c.writeV i v).acqCl = c.acqCl := rfl
@[simp] theorem writeV_group (c : Ctx) (i : BitVec 4) (v : Vec) : (c.writeV i v).group = c.group := rfl
@[simp] theorem writeV_ir (c : Ctx) (i : BitVec 4) (v : Vec) : (c.writeV i v).ir = c.ir := rfl
@[simp] theorem writeV_prio (c : Ctx) (i : BitVec 4) (v : Vec) : (c.writeV i v).prio = c.prio := rfl
@[simp] theorem writeV_prioLeft (c : Ctx) (i : BitVec 4) (v : Vec) : (c.writeV i v).prioLeft = c.prioLeft := rfl
@[simp] theorem writeV_rep (c : Ctx) (i : BitVec 4) (v : Vec) : (c.writeV i v).rep = c.rep := rfl
@[simp] theorem writeV_pends (c : Ctx) (i : BitVec 4) (v : Vec) : (c.writeV i v).pends = c.pends := rfl
@[simp] theorem writeV_stall (c : Ctx) (i : BitVec 4) (v : Vec) : (c.writeV i v).stall = c.stall := rfl
@[simp] theorem writeV_deferred (c : Ctx) (i : BitVec 4) (v : Vec) : (c.writeV i v).deferred = c.deferred := rfl
@[simp] theorem writeV_fpDelta (c : Ctx) (i : BitVec 4) (v : Vec) : (c.writeV i v).fpDelta = c.fpDelta := rfl
@[simp] theorem writeV_arrival (c : Ctx) (i : BitVec 4) (v : Vec) : (c.writeV i v).arrival = c.arrival := rfl
@[simp] theorem writeV_stepping (c : Ctx) (i : BitVec 4) (v : Vec) : (c.writeV i v).stepping = c.stepping := rfl
@[simp] theorem writeV_stopReq (c : Ctx) (i : BitVec 4) (v : Vec) : (c.writeV i v).stopReq = c.stopReq := rfl
@[simp] theorem writeV_slot (c : Ctx) (i : BitVec 4) (v : Vec) : (c.writeV i v).slot = c.slot := rfl
@[simp] theorem writeV_startScope (c : Ctx) (i : BitVec 4) (v : Vec) : (c.writeV i v).startScope = c.startScope := rfl
@[simp] theorem writeV_region (c : Ctx) (i : BitVec 4) (v : Vec) : (c.writeV i v).region = c.region := rfl
@[simp] theorem writeV_live (c : Ctx) (i : BitVec 4) (v : Vec) : (c.writeV i v).live = c.live := rfl
@[simp] theorem writeV_since (c : Ctx) (i : BitVec 4) (v : Vec) : (c.writeV i v).since = c.since := rfl
@[simp] theorem writeV_claim (c : Ctx) (i : BitVec 4) (v : Vec) : (c.writeV i v).claim = c.claim := rfl
@[simp] theorem writeV_startCover (c : Ctx) (i : BitVec 4) (v : Vec) : (c.writeV i v).startCover = c.startCover := rfl
@[simp] theorem writeV_cbRet (c : Ctx) (i : BitVec 4) (v : Vec) : (c.writeV i v).cbRet = c.cbRet := rfl
@[simp] theorem writeV_forced (c : Ctx) (i : BitVec 4) (v : Vec) : (c.writeV i v).forced = c.forced := rfl
@[simp] theorem writeV_barred (c : Ctx) (i : BitVec 4) (v : Vec) : (c.writeV i v).barred = c.barred := rfl
@[simp] theorem writeW_pc (c : Ctx) (i : BitVec 3) (v : View) : (c.writeW i v).pc = c.pc := rfl
@[simp] theorem writeW_x (c : Ctx) (i : BitVec 3) (v : View) : (c.writeW i v).x = c.x := rfl
@[simp] theorem writeW_v (c : Ctx) (i : BitVec 3) (v : View) : (c.writeW i v).v = c.v := rfl
@[simp] theorem writeW_m (c : Ctx) (i : BitVec 3) (v : View) : (c.writeW i v).m = c.m := rfl
@[simp] theorem writeW_q (c : Ctx) (i : BitVec 3) (v : View) : (c.writeW i v).q = c.q := rfl
@[simp] theorem writeW_xfull (c : Ctx) (i : BitVec 3) (v : View) : (c.writeW i v).xfull = c.xfull := rfl
@[simp] theorem writeW_vfull (c : Ctx) (i : BitVec 3) (v : View) : (c.writeW i v).vfull = c.vfull := rfl
@[simp] theorem writeW_wfull (c : Ctx) (i : BitVec 3) (v : View) : (c.writeW i v).wfull = c.wfull := rfl
@[simp] theorem writeW_state (c : Ctx) (i : BitVec 3) (v : View) : (c.writeW i v).state = c.state := rfl
@[simp] theorem writeW_mstat (c : Ctx) (i : BitVec 3) (v : View) : (c.writeW i v).mstat = c.mstat := rfl
@[simp] theorem writeW_fpctl (c : Ctx) (i : BitVec 3) (v : View) : (c.writeW i v).fpctl = c.fpctl := rfl
@[simp] theorem writeW_fpflags (c : Ctx) (i : BitVec 3) (v : View) : (c.writeW i v).fpflags = c.fpflags := rfl
@[simp] theorem writeW_wdleft (c : Ctx) (i : BitVec 3) (v : View) : (c.writeW i v).wdleft = c.wdleft := rfl
@[simp] theorem writeW_owe (c : Ctx) (i : BitVec 3) (v : View) : (c.writeW i v).owe = c.owe := rfl
@[simp] theorem writeW_rcbptr (c : Ctx) (i : BitVec 3) (v : View) : (c.writeW i v).rcbptr = c.rcbptr := rfl
@[simp] theorem writeW_entry (c : Ctx) (i : BitVec 3) (v : View) : (c.writeW i v).entry = c.entry := rfl
@[simp] theorem writeW_start4 (c : Ctx) (i : BitVec 3) (v : View) : (c.writeW i v).start4 = c.start4 := rfl
@[simp] theorem writeW_start5 (c : Ctx) (i : BitVec 3) (v : View) : (c.writeW i v).start5 = c.start5 := rfl
@[simp] theorem writeW_fpc (c : Ctx) (i : BitVec 3) (v : View) : (c.writeW i v).fpc = c.fpc := rfl
@[simp] theorem writeW_acqL1 (c : Ctx) (i : BitVec 3) (v : View) : (c.writeW i v).acqL1 = c.acqL1 := rfl
@[simp] theorem writeW_acqCl (c : Ctx) (i : BitVec 3) (v : View) : (c.writeW i v).acqCl = c.acqCl := rfl
@[simp] theorem writeW_group (c : Ctx) (i : BitVec 3) (v : View) : (c.writeW i v).group = c.group := rfl
@[simp] theorem writeW_ir (c : Ctx) (i : BitVec 3) (v : View) : (c.writeW i v).ir = c.ir := rfl
@[simp] theorem writeW_prio (c : Ctx) (i : BitVec 3) (v : View) : (c.writeW i v).prio = c.prio := rfl
@[simp] theorem writeW_prioLeft (c : Ctx) (i : BitVec 3) (v : View) : (c.writeW i v).prioLeft = c.prioLeft := rfl
@[simp] theorem writeW_rep (c : Ctx) (i : BitVec 3) (v : View) : (c.writeW i v).rep = c.rep := rfl
@[simp] theorem writeW_pends (c : Ctx) (i : BitVec 3) (v : View) : (c.writeW i v).pends = c.pends := rfl
@[simp] theorem writeW_stall (c : Ctx) (i : BitVec 3) (v : View) : (c.writeW i v).stall = c.stall := rfl
@[simp] theorem writeW_deferred (c : Ctx) (i : BitVec 3) (v : View) : (c.writeW i v).deferred = c.deferred := rfl
@[simp] theorem writeW_fpDelta (c : Ctx) (i : BitVec 3) (v : View) : (c.writeW i v).fpDelta = c.fpDelta := rfl
@[simp] theorem writeW_arrival (c : Ctx) (i : BitVec 3) (v : View) : (c.writeW i v).arrival = c.arrival := rfl
@[simp] theorem writeW_stepping (c : Ctx) (i : BitVec 3) (v : View) : (c.writeW i v).stepping = c.stepping := rfl
@[simp] theorem writeW_stopReq (c : Ctx) (i : BitVec 3) (v : View) : (c.writeW i v).stopReq = c.stopReq := rfl
@[simp] theorem writeW_slot (c : Ctx) (i : BitVec 3) (v : View) : (c.writeW i v).slot = c.slot := rfl
@[simp] theorem writeW_startScope (c : Ctx) (i : BitVec 3) (v : View) : (c.writeW i v).startScope = c.startScope := rfl
@[simp] theorem writeW_region (c : Ctx) (i : BitVec 3) (v : View) : (c.writeW i v).region = c.region := rfl
@[simp] theorem writeW_live (c : Ctx) (i : BitVec 3) (v : View) : (c.writeW i v).live = c.live := rfl
@[simp] theorem writeW_since (c : Ctx) (i : BitVec 3) (v : View) : (c.writeW i v).since = c.since := rfl
@[simp] theorem writeW_claim (c : Ctx) (i : BitVec 3) (v : View) : (c.writeW i v).claim = c.claim := rfl
@[simp] theorem writeW_startCover (c : Ctx) (i : BitVec 3) (v : View) : (c.writeW i v).startCover = c.startCover := rfl
@[simp] theorem writeW_cbRet (c : Ctx) (i : BitVec 3) (v : View) : (c.writeW i v).cbRet = c.cbRet := rfl
@[simp] theorem writeW_forced (c : Ctx) (i : BitVec 3) (v : View) : (c.writeW i v).forced = c.forced := rfl
@[simp] theorem writeW_barred (c : Ctx) (i : BitVec 3) (v : View) : (c.writeW i v).barred = c.barred := rfl
@[simp] theorem writeQ_pc (c : Ctx) (i : BitVec 2) (v : Stream) : (c.writeQ i v).pc = c.pc := rfl
@[simp] theorem writeQ_x (c : Ctx) (i : BitVec 2) (v : Stream) : (c.writeQ i v).x = c.x := rfl
@[simp] theorem writeQ_v (c : Ctx) (i : BitVec 2) (v : Stream) : (c.writeQ i v).v = c.v := rfl
@[simp] theorem writeQ_m (c : Ctx) (i : BitVec 2) (v : Stream) : (c.writeQ i v).m = c.m := rfl
@[simp] theorem writeQ_w (c : Ctx) (i : BitVec 2) (v : Stream) : (c.writeQ i v).w = c.w := rfl
@[simp] theorem writeQ_xfull (c : Ctx) (i : BitVec 2) (v : Stream) : (c.writeQ i v).xfull = c.xfull := rfl
@[simp] theorem writeQ_vfull (c : Ctx) (i : BitVec 2) (v : Stream) : (c.writeQ i v).vfull = c.vfull := rfl
@[simp] theorem writeQ_wfull (c : Ctx) (i : BitVec 2) (v : Stream) : (c.writeQ i v).wfull = c.wfull := rfl
@[simp] theorem writeQ_state (c : Ctx) (i : BitVec 2) (v : Stream) : (c.writeQ i v).state = c.state := rfl
@[simp] theorem writeQ_mstat (c : Ctx) (i : BitVec 2) (v : Stream) : (c.writeQ i v).mstat = c.mstat := rfl
@[simp] theorem writeQ_fpctl (c : Ctx) (i : BitVec 2) (v : Stream) : (c.writeQ i v).fpctl = c.fpctl := rfl
@[simp] theorem writeQ_fpflags (c : Ctx) (i : BitVec 2) (v : Stream) : (c.writeQ i v).fpflags = c.fpflags := rfl
@[simp] theorem writeQ_wdleft (c : Ctx) (i : BitVec 2) (v : Stream) : (c.writeQ i v).wdleft = c.wdleft := rfl
@[simp] theorem writeQ_owe (c : Ctx) (i : BitVec 2) (v : Stream) : (c.writeQ i v).owe = c.owe := rfl
@[simp] theorem writeQ_rcbptr (c : Ctx) (i : BitVec 2) (v : Stream) : (c.writeQ i v).rcbptr = c.rcbptr := rfl
@[simp] theorem writeQ_entry (c : Ctx) (i : BitVec 2) (v : Stream) : (c.writeQ i v).entry = c.entry := rfl
@[simp] theorem writeQ_start4 (c : Ctx) (i : BitVec 2) (v : Stream) : (c.writeQ i v).start4 = c.start4 := rfl
@[simp] theorem writeQ_start5 (c : Ctx) (i : BitVec 2) (v : Stream) : (c.writeQ i v).start5 = c.start5 := rfl
@[simp] theorem writeQ_fpc (c : Ctx) (i : BitVec 2) (v : Stream) : (c.writeQ i v).fpc = c.fpc := rfl
@[simp] theorem writeQ_acqL1 (c : Ctx) (i : BitVec 2) (v : Stream) : (c.writeQ i v).acqL1 = c.acqL1 := rfl
@[simp] theorem writeQ_acqCl (c : Ctx) (i : BitVec 2) (v : Stream) : (c.writeQ i v).acqCl = c.acqCl := rfl
@[simp] theorem writeQ_group (c : Ctx) (i : BitVec 2) (v : Stream) : (c.writeQ i v).group = c.group := rfl
@[simp] theorem writeQ_ir (c : Ctx) (i : BitVec 2) (v : Stream) : (c.writeQ i v).ir = c.ir := rfl
@[simp] theorem writeQ_prio (c : Ctx) (i : BitVec 2) (v : Stream) : (c.writeQ i v).prio = c.prio := rfl
@[simp] theorem writeQ_prioLeft (c : Ctx) (i : BitVec 2) (v : Stream) : (c.writeQ i v).prioLeft = c.prioLeft := rfl
@[simp] theorem writeQ_rep (c : Ctx) (i : BitVec 2) (v : Stream) : (c.writeQ i v).rep = c.rep := rfl
@[simp] theorem writeQ_pends (c : Ctx) (i : BitVec 2) (v : Stream) : (c.writeQ i v).pends = c.pends := rfl
@[simp] theorem writeQ_stall (c : Ctx) (i : BitVec 2) (v : Stream) : (c.writeQ i v).stall = c.stall := rfl
@[simp] theorem writeQ_deferred (c : Ctx) (i : BitVec 2) (v : Stream) : (c.writeQ i v).deferred = c.deferred := rfl
@[simp] theorem writeQ_fpDelta (c : Ctx) (i : BitVec 2) (v : Stream) : (c.writeQ i v).fpDelta = c.fpDelta := rfl
@[simp] theorem writeQ_arrival (c : Ctx) (i : BitVec 2) (v : Stream) : (c.writeQ i v).arrival = c.arrival := rfl
@[simp] theorem writeQ_stepping (c : Ctx) (i : BitVec 2) (v : Stream) : (c.writeQ i v).stepping = c.stepping := rfl
@[simp] theorem writeQ_stopReq (c : Ctx) (i : BitVec 2) (v : Stream) : (c.writeQ i v).stopReq = c.stopReq := rfl
@[simp] theorem writeQ_slot (c : Ctx) (i : BitVec 2) (v : Stream) : (c.writeQ i v).slot = c.slot := rfl
@[simp] theorem writeQ_startScope (c : Ctx) (i : BitVec 2) (v : Stream) : (c.writeQ i v).startScope = c.startScope := rfl
@[simp] theorem writeQ_region (c : Ctx) (i : BitVec 2) (v : Stream) : (c.writeQ i v).region = c.region := rfl
@[simp] theorem writeQ_live (c : Ctx) (i : BitVec 2) (v : Stream) : (c.writeQ i v).live = c.live := rfl
@[simp] theorem writeQ_since (c : Ctx) (i : BitVec 2) (v : Stream) : (c.writeQ i v).since = c.since := rfl
@[simp] theorem writeQ_claim (c : Ctx) (i : BitVec 2) (v : Stream) : (c.writeQ i v).claim = c.claim := rfl
@[simp] theorem writeQ_startCover (c : Ctx) (i : BitVec 2) (v : Stream) : (c.writeQ i v).startCover = c.startCover := rfl
@[simp] theorem writeQ_cbRet (c : Ctx) (i : BitVec 2) (v : Stream) : (c.writeQ i v).cbRet = c.cbRet := rfl
@[simp] theorem writeQ_forced (c : Ctx) (i : BitVec 2) (v : Stream) : (c.writeQ i v).forced = c.forced := rfl
@[simp] theorem writeQ_barred (c : Ctx) (i : BitVec 2) (v : Stream) : (c.writeQ i v).barred = c.barred := rfl
@[simp] theorem ctxRetire_x (c : Ctx) (pc : Word) : (c.retire pc).x = c.x := rfl
@[simp] theorem ctxRetire_v (c : Ctx) (pc : Word) : (c.retire pc).v = c.v := rfl
@[simp] theorem ctxRetire_m (c : Ctx) (pc : Word) : (c.retire pc).m = c.m := rfl
@[simp] theorem ctxRetire_w (c : Ctx) (pc : Word) : (c.retire pc).w = c.w := rfl
@[simp] theorem ctxRetire_q (c : Ctx) (pc : Word) : (c.retire pc).q = c.q := rfl
@[simp] theorem ctxRetire_xfull (c : Ctx) (pc : Word) : (c.retire pc).xfull = c.xfull := rfl
@[simp] theorem ctxRetire_vfull (c : Ctx) (pc : Word) : (c.retire pc).vfull = c.vfull := rfl
@[simp] theorem ctxRetire_wfull (c : Ctx) (pc : Word) : (c.retire pc).wfull = c.wfull := rfl
@[simp] theorem ctxRetire_state (c : Ctx) (pc : Word) : (c.retire pc).state = c.state := rfl
@[simp] theorem ctxRetire_mstat (c : Ctx) (pc : Word) : (c.retire pc).mstat = c.mstat := rfl
@[simp] theorem ctxRetire_fpctl (c : Ctx) (pc : Word) : (c.retire pc).fpctl = c.fpctl := rfl
@[simp] theorem ctxRetire_fpflags (c : Ctx) (pc : Word) : (c.retire pc).fpflags = c.fpflags := rfl
@[simp] theorem ctxRetire_wdleft (c : Ctx) (pc : Word) : (c.retire pc).wdleft = c.wdleft := rfl
@[simp] theorem ctxRetire_owe (c : Ctx) (pc : Word) : (c.retire pc).owe = c.owe := rfl
@[simp] theorem ctxRetire_rcbptr (c : Ctx) (pc : Word) : (c.retire pc).rcbptr = c.rcbptr := rfl
@[simp] theorem ctxRetire_entry (c : Ctx) (pc : Word) : (c.retire pc).entry = c.entry := rfl
@[simp] theorem ctxRetire_start4 (c : Ctx) (pc : Word) : (c.retire pc).start4 = c.start4 := rfl
@[simp] theorem ctxRetire_start5 (c : Ctx) (pc : Word) : (c.retire pc).start5 = c.start5 := rfl
@[simp] theorem ctxRetire_fpc (c : Ctx) (pc : Word) : (c.retire pc).fpc = c.fpc := rfl
@[simp] theorem ctxRetire_acqL1 (c : Ctx) (pc : Word) : (c.retire pc).acqL1 = c.acqL1 := rfl
@[simp] theorem ctxRetire_acqCl (c : Ctx) (pc : Word) : (c.retire pc).acqCl = c.acqCl := rfl
@[simp] theorem ctxRetire_rep (c : Ctx) (pc : Word) : (c.retire pc).rep = c.rep := rfl
@[simp] theorem ctxRetire_pends (c : Ctx) (pc : Word) : (c.retire pc).pends = c.pends := rfl
@[simp] theorem ctxRetire_stall (c : Ctx) (pc : Word) : (c.retire pc).stall = c.stall := rfl
@[simp] theorem ctxRetire_deferred (c : Ctx) (pc : Word) : (c.retire pc).deferred = c.deferred := rfl
@[simp] theorem ctxRetire_fpDelta (c : Ctx) (pc : Word) : (c.retire pc).fpDelta = c.fpDelta := rfl
@[simp] theorem ctxRetire_arrival (c : Ctx) (pc : Word) : (c.retire pc).arrival = c.arrival := rfl
@[simp] theorem ctxRetire_stepping (c : Ctx) (pc : Word) : (c.retire pc).stepping = c.stepping := rfl
@[simp] theorem ctxRetire_stopReq (c : Ctx) (pc : Word) : (c.retire pc).stopReq = c.stopReq := rfl
@[simp] theorem ctxRetire_slot (c : Ctx) (pc : Word) : (c.retire pc).slot = c.slot := rfl
@[simp] theorem ctxRetire_startScope (c : Ctx) (pc : Word) : (c.retire pc).startScope = c.startScope := rfl
@[simp] theorem ctxRetire_region (c : Ctx) (pc : Word) : (c.retire pc).region = c.region := rfl
@[simp] theorem ctxRetire_live (c : Ctx) (pc : Word) : (c.retire pc).live = c.live := rfl
@[simp] theorem ctxRetire_since (c : Ctx) (pc : Word) : (c.retire pc).since = c.since := rfl
@[simp] theorem ctxRetire_claim (c : Ctx) (pc : Word) : (c.retire pc).claim = c.claim := rfl
@[simp] theorem ctxRetire_startCover (c : Ctx) (pc : Word) : (c.retire pc).startCover = c.startCover := rfl
@[simp] theorem ctxRetire_cbRet (c : Ctx) (pc : Word) : (c.retire pc).cbRet = c.cbRet := rfl
@[simp] theorem ctxRetire_forced (c : Ctx) (pc : Word) : (c.retire pc).forced = c.forced := rfl
@[simp] theorem ctxRetire_barred (c : Ctx) (pc : Word) : (c.retire pc).barred = c.barred := rfl
@[simp] theorem ctxRetire_pc (c : Ctx) (pc : Word) : (c.retire pc).pc = pc := rfl
@[simp] theorem ctxRetire_group (c : Ctx) (pc : Word) : (c.retire pc).group = none := rfl
@[simp] theorem freeze_x (c : Ctx) : c.freeze.x = c.x := rfl
@[simp] theorem freeze_v (c : Ctx) : c.freeze.v = c.v := rfl
@[simp] theorem freeze_m (c : Ctx) : c.freeze.m = c.m := rfl
@[simp] theorem freeze_w (c : Ctx) : c.freeze.w = c.w := rfl
@[simp] theorem freeze_q (c : Ctx) : c.freeze.q = c.q := rfl
@[simp] theorem freeze_xfull (c : Ctx) : c.freeze.xfull = c.xfull := rfl
@[simp] theorem freeze_vfull (c : Ctx) : c.freeze.vfull = c.vfull := rfl
@[simp] theorem freeze_wfull (c : Ctx) : c.freeze.wfull = c.wfull := rfl
@[simp] theorem freeze_mstat (c : Ctx) : c.freeze.mstat = c.mstat := rfl
@[simp] theorem freeze_fpctl (c : Ctx) : c.freeze.fpctl = c.fpctl := rfl
@[simp] theorem freeze_fpflags (c : Ctx) : c.freeze.fpflags = c.fpflags := rfl
@[simp] theorem freeze_wdleft (c : Ctx) : c.freeze.wdleft = c.wdleft := rfl
@[simp] theorem freeze_owe (c : Ctx) : c.freeze.owe = c.owe := rfl
@[simp] theorem freeze_rcbptr (c : Ctx) : c.freeze.rcbptr = c.rcbptr := rfl
@[simp] theorem freeze_entry (c : Ctx) : c.freeze.entry = c.entry := rfl
@[simp] theorem freeze_start4 (c : Ctx) : c.freeze.start4 = c.start4 := rfl
@[simp] theorem freeze_start5 (c : Ctx) : c.freeze.start5 = c.start5 := rfl
@[simp] theorem freeze_acqL1 (c : Ctx) : c.freeze.acqL1 = c.acqL1 := rfl
@[simp] theorem freeze_acqCl (c : Ctx) : c.freeze.acqCl = c.acqCl := rfl
@[simp] theorem freeze_ir (c : Ctx) : c.freeze.ir = c.ir := rfl
@[simp] theorem freeze_prio (c : Ctx) : c.freeze.prio = c.prio := rfl
@[simp] theorem freeze_prioLeft (c : Ctx) : c.freeze.prioLeft = c.prioLeft := rfl
@[simp] theorem freeze_rep (c : Ctx) : c.freeze.rep = c.rep := rfl
@[simp] theorem freeze_deferred (c : Ctx) : c.freeze.deferred = c.deferred := rfl
@[simp] theorem freeze_fpDelta (c : Ctx) : c.freeze.fpDelta = c.fpDelta := rfl
@[simp] theorem freeze_stopReq (c : Ctx) : c.freeze.stopReq = c.stopReq := rfl
@[simp] theorem freeze_startScope (c : Ctx) : c.freeze.startScope = c.startScope := rfl
@[simp] theorem freeze_region (c : Ctx) : c.freeze.region = c.region := rfl
@[simp] theorem freeze_live (c : Ctx) : c.freeze.live = c.live := rfl
@[simp] theorem freeze_since (c : Ctx) : c.freeze.since = c.since := rfl
@[simp] theorem freeze_claim (c : Ctx) : c.freeze.claim = c.claim := rfl
@[simp] theorem freeze_startCover (c : Ctx) : c.freeze.startCover = c.startCover := rfl
@[simp] theorem freeze_cbRet (c : Ctx) : c.freeze.cbRet = c.cbRet := rfl
@[simp] theorem freeze_forced (c : Ctx) : c.freeze.forced = c.forced := rfl
@[simp] theorem freeze_barred (c : Ctx) : c.freeze.barred = c.barred := rfl
@[simp] theorem ctxFreeze_state (c : Ctx) : c.freeze.state = .frozen := rfl
@[simp] theorem ctxFreeze_pc (c : Ctx) : c.freeze.pc = c.faultPc := rfl

/-! ## Fields of a core that a change of a context leaves -/

@[simp] theorem setCtx_chans (c : Core) (k : Nat) (x : Ctx) : (c.setCtx k x).chans = c.chans := rfl
@[simp] theorem coreModCtx_chans (c : Core) (k : Nat) (f : Ctx → Ctx) : (c.modCtx k f).chans = c.chans := rfl
@[simp] theorem setCtx_pats (c : Core) (k : Nat) (x : Ctx) : (c.setCtx k x).pats = c.pats := rfl
@[simp] theorem coreModCtx_pats (c : Core) (k : Nat) (f : Ctx → Ctx) : (c.modCtx k f).pats = c.pats := rfl
@[simp] theorem setCtx_ptr (c : Core) (k : Nat) (x : Ctx) : (c.setCtx k x).ptr = c.ptr := rfl
@[simp] theorem coreModCtx_ptr (c : Core) (k : Nat) (f : Ctx → Ctx) : (c.modCtx k f).ptr = c.ptr := rfl
@[simp] theorem setCtx_arrivals (c : Core) (k : Nat) (x : Ctx) : (c.setCtx k x).arrivals = c.arrivals := rfl
@[simp] theorem coreModCtx_arrivals (c : Core) (k : Nat) (f : Ctx → Ctx) : (c.modCtx k f).arrivals = c.arrivals := rfl
@[simp] theorem setCtx_outbox (c : Core) (k : Nat) (x : Ctx) : (c.setCtx k x).outbox = c.outbox := rfl
@[simp] theorem coreModCtx_outbox (c : Core) (k : Nat) (f : Ctx → Ctx) : (c.modCtx k f).outbox = c.outbox := rfl
@[simp] theorem setCtx_spill (c : Core) (k : Nat) (x : Ctx) : (c.setCtx k x).spill = c.spill := rfl
@[simp] theorem coreModCtx_spill (c : Core) (k : Nat) (f : Ctx → Ctx) : (c.modCtx k f).spill = c.spill := rfl
@[simp] theorem setCtx_spawnQ (c : Core) (k : Nat) (x : Ctx) : (c.setCtx k x).spawnQ = c.spawnQ := rfl
@[simp] theorem coreModCtx_spawnQ (c : Core) (k : Nat) (f : Ctx → Ctx) : (c.modCtx k f).spawnQ = c.spawnQ := rfl
@[simp] theorem setCtx_stores (c : Core) (k : Nat) (x : Ctx) : (c.setCtx k x).stores = c.stores := rfl
@[simp] theorem coreModCtx_stores (c : Core) (k : Nat) (f : Ctx → Ctx) : (c.modCtx k f).stores = c.stores := rfl
@[simp] theorem setCtx_atomQ (c : Core) (k : Nat) (x : Ctx) : (c.setCtx k x).atomQ = c.atomQ := rfl
@[simp] theorem coreModCtx_atomQ (c : Core) (k : Nat) (f : Ctx → Ctx) : (c.modCtx k f).atomQ = c.atomQ := rfl
@[simp] theorem setCtx_atomsOut (c : Core) (k : Nat) (x : Ctx) : (c.setCtx k x).atomsOut = c.atomsOut := rfl
@[simp] theorem coreModCtx_atomsOut (c : Core) (k : Nat) (f : Ctx → Ctx) : (c.modCtx k f).atomsOut = c.atomsOut := rfl
@[simp] theorem setCtx_sideLog (c : Core) (k : Nat) (x : Ctx) : (c.setCtx k x).sideLog = c.sideLog := rfl
@[simp] theorem coreModCtx_sideLog (c : Core) (k : Nat) (f : Ctx → Ctx) : (c.modCtx k f).sideLog = c.sideLog := rfl
@[simp] theorem setCtx_tiles (c : Core) (k : Nat) (x : Ctx) : (c.setCtx k x).tiles = c.tiles := rfl
@[simp] theorem coreModCtx_tiles (c : Core) (k : Nat) (f : Ctx → Ctx) : (c.modCtx k f).tiles = c.tiles := rfl
@[simp] theorem setCtx_codebook (c : Core) (k : Nat) (x : Ctx) : (c.setCtx k x).codebook = c.codebook := rfl
@[simp] theorem coreModCtx_codebook (c : Core) (k : Nat) (f : Ctx → Ctx) : (c.modCtx k f).codebook = c.codebook := rfl
@[simp] theorem setCtx_acfgDeg (c : Core) (k : Nat) (x : Ctx) : (c.setCtx k x).acfgDeg = c.acfgDeg := rfl
@[simp] theorem coreModCtx_acfgDeg (c : Core) (k : Nat) (f : Ctx → Ctx) : (c.modCtx k f).acfgDeg = c.acfgDeg := rfl
@[simp] theorem setCtx_acfgFch (c : Core) (k : Nat) (x : Ctx) : (c.setCtx k x).acfgFch = c.acfgFch := rfl
@[simp] theorem coreModCtx_acfgFch (c : Core) (k : Nat) (f : Ctx → Ctx) : (c.modCtx k f).acfgFch = c.acfgFch := rfl
@[simp] theorem setCtx_acfgWait (c : Core) (k : Nat) (x : Ctx) : (c.setCtx k x).acfgWait = c.acfgWait := rfl
@[simp] theorem coreModCtx_acfgWait (c : Core) (k : Nat) (f : Ctx → Ctx) : (c.modCtx k f).acfgWait = c.acfgWait := rfl
@[simp] theorem setCtx_perf (c : Core) (k : Nat) (x : Ctx) : (c.setCtx k x).perf = c.perf := rfl
@[simp] theorem coreModCtx_perf (c : Core) (k : Nat) (f : Ctx → Ctx) : (c.modCtx k f).perf = c.perf := rfl
@[simp] theorem setCtx_cycle (c : Core) (k : Nat) (x : Ctx) : (c.setCtx k x).cycle = c.cycle := rfl
@[simp] theorem coreModCtx_cycle (c : Core) (k : Nat) (f : Ctx → Ctx) : (c.modCtx k f).cycle = c.cycle := rfl
@[simp] theorem setCtx_l1Epoch (c : Core) (k : Nat) (x : Ctx) : (c.setCtx k x).l1Epoch = c.l1Epoch := rfl
@[simp] theorem coreModCtx_l1Epoch (c : Core) (k : Nat) (f : Ctx → Ctx) : (c.modCtx k f).l1Epoch = c.l1Epoch := rfl
@[simp] theorem setCtx_l1 (c : Core) (k : Nat) (x : Ctx) : (c.setCtx k x).l1 = c.l1 := rfl
@[simp] theorem coreModCtx_l1 (c : Core) (k : Nat) (f : Ctx → Ctx) : (c.modCtx k f).l1 = c.l1 := rfl
@[simp] theorem setCtx_icache (c : Core) (k : Nat) (x : Ctx) : (c.setCtx k x).icache = c.icache := rfl
@[simp] theorem coreModCtx_icache (c : Core) (k : Nat) (f : Ctx → Ctx) : (c.modCtx k f).icache = c.icache := rfl
@[simp] theorem setCtx_dtlb (c : Core) (k : Nat) (x : Ctx) : (c.setCtx k x).dtlb = c.dtlb := rfl
@[simp] theorem coreModCtx_dtlb (c : Core) (k : Nat) (f : Ctx → Ctx) : (c.modCtx k f).dtlb = c.dtlb := rfl
@[simp] theorem setCtx_itlb (c : Core) (k : Nat) (x : Ctx) : (c.setCtx k x).itlb = c.itlb := rfl
@[simp] theorem coreModCtx_itlb (c : Core) (k : Nat) (f : Ctx → Ctx) : (c.modCtx k f).itlb = c.itlb := rfl
@[simp] theorem setCtx_rrNext (c : Core) (k : Nat) (x : Ctx) : (c.setCtx k x).rrNext = c.rrNext := rfl
@[simp] theorem coreModCtx_rrNext (c : Core) (k : Nat) (f : Ctx → Ctx) : (c.modCtx k f).rrNext = c.rrNext := rfl
@[simp] theorem setCtx_prioRun (c : Core) (k : Nat) (x : Ctx) : (c.setCtx k x).prioRun = c.prioRun := rfl
@[simp] theorem coreModCtx_prioRun (c : Core) (k : Nat) (f : Ctx → Ctx) : (c.modCtx k f).prioRun = c.prioRun := rfl
@[simp] theorem setCtx_repOwner (c : Core) (k : Nat) (x : Ctx) : (c.setCtx k x).repOwner = c.repOwner := rfl
@[simp] theorem coreModCtx_repOwner (c : Core) (k : Nat) (f : Ctx → Ctx) : (c.modCtx k f).repOwner = c.repOwner := rfl
@[simp] theorem setCtx_packets (c : Core) (k : Nat) (x : Ctx) : (c.setCtx k x).packets = c.packets := rfl
@[simp] theorem coreModCtx_packets (c : Core) (k : Nat) (f : Ctx → Ctx) : (c.modCtx k f).packets = c.packets := rfl
@[simp] theorem setCtx_stopping (c : Core) (k : Nat) (x : Ctx) : (c.setCtx k x).stopping = c.stopping := rfl
@[simp] theorem coreModCtx_stopping (c : Core) (k : Nat) (f : Ctx → Ctx) : (c.modCtx k f).stopping = c.stopping := rfl
@[simp] theorem setCtx_grace (c : Core) (k : Nat) (x : Ctx) : (c.setCtx k x).grace = c.grace := rfl
@[simp] theorem coreModCtx_grace (c : Core) (k : Nat) (f : Ctx → Ctx) : (c.modCtx k f).grace = c.grace := rfl
@[simp] theorem setCtx_saving (c : Core) (k : Nat) (x : Ctx) : (c.setCtx k x).saving = c.saving := rfl
@[simp] theorem coreModCtx_saving (c : Core) (k : Nat) (f : Ctx → Ctx) : (c.modCtx k f).saving = c.saving := rfl
@[simp] theorem setCtx_tlbWait (c : Core) (k : Nat) (x : Ctx) : (c.setCtx k x).tlbWait = c.tlbWait := rfl
@[simp] theorem coreModCtx_tlbWait (c : Core) (k : Nat) (f : Ctx → Ctx) : (c.modCtx k f).tlbWait = c.tlbWait := rfl
@[simp] theorem setCtx_owed (c : Core) (k : Nat) (x : Ctx) : (c.setCtx k x).owed = c.owed := rfl
@[simp] theorem coreModCtx_owed (c : Core) (k : Nat) (f : Ctx → Ctx) : (c.modCtx k f).owed = c.owed := rfl
@[simp] theorem setCtx_savedCtx (c : Core) (k : Nat) (x : Ctx) : (c.setCtx k x).savedCtx = c.savedCtx := rfl
@[simp] theorem coreModCtx_savedCtx (c : Core) (k : Nat) (f : Ctx → Ctx) : (c.modCtx k f).savedCtx = c.savedCtx := rfl
@[simp] theorem setCtx_msgSaved (c : Core) (k : Nat) (x : Ctx) : (c.setCtx k x).msgSaved = c.msgSaved := rfl
@[simp] theorem coreModCtx_msgSaved (c : Core) (k : Nat) (f : Ctx → Ctx) : (c.modCtx k f).msgSaved = c.msgSaved := rfl
@[simp] theorem setCtx_halted (c : Core) (k : Nat) (x : Ctx) : (c.setCtx k x).halted = c.halted := rfl
@[simp] theorem coreModCtx_halted (c : Core) (k : Nat) (f : Ctx → Ctx) : (c.modCtx k f).halted = c.halted := rfl
@[simp] theorem setCtx_killing (c : Core) (k : Nat) (x : Ctx) : (c.setCtx k x).killing = c.killing := rfl
@[simp] theorem coreModCtx_killing (c : Core) (k : Nat) (f : Ctx → Ctx) : (c.modCtx k f).killing = c.killing := rfl
@[simp] theorem setCtx_signal (c : Core) (k : Nat) (x : Ctx) : (c.setCtx k x).signal = c.signal := rfl
@[simp] theorem coreModCtx_signal (c : Core) (k : Nat) (f : Ctx → Ctx) : (c.modCtx k f).signal = c.signal := rfl
@[simp] theorem setCtx_ending (c : Core) (k : Nat) (x : Ctx) : (c.setCtx k x).ending = c.ending := rfl
@[simp] theorem coreModCtx_ending (c : Core) (k : Nat) (f : Ctx → Ctx) : (c.modCtx k f).ending = c.ending := rfl
@[simp] theorem setCtx_devTag (c : Core) (k : Nat) (x : Ctx) : (c.setCtx k x).devTag = c.devTag := rfl
@[simp] theorem coreModCtx_devTag (c : Core) (k : Nat) (f : Ctx → Ctx) : (c.modCtx k f).devTag = c.devTag := rfl
@[simp] theorem setCtx_ctxsel (c : Core) (k : Nat) (x : Ctx) : (c.setCtx k x).ctxsel = c.ctxsel := rfl
@[simp] theorem coreModCtx_ctxsel (c : Core) (k : Nat) (f : Ctx → Ctx) : (c.modCtx k f).ctxsel = c.ctxsel := rfl
@[simp] theorem setCtx_lssel (c : Core) (k : Nat) (x : Ctx) : (c.setCtx k x).lssel = c.lssel := rfl
@[simp] theorem coreModCtx_lssel (c : Core) (k : Nat) (f : Ctx → Ctx) : (c.modCtx k f).lssel = c.lssel := rfl
@[simp] theorem setCtx_slotMem (c : Core) (k : Nat) (x : Ctx) : (c.setCtx k x).slotMem = c.slotMem := rfl
@[simp] theorem coreModCtx_slotMem (c : Core) (k : Nat) (f : Ctx → Ctx) : (c.modCtx k f).slotMem = c.slotMem := rfl
@[simp] theorem setCtx_cut (c : Core) (k : Nat) (x : Ctx) : (c.setCtx k x).cut = c.cut := rfl
@[simp] theorem coreModCtx_cut (c : Core) (k : Nat) (f : Ctx → Ctx) : (c.modCtx k f).cut = c.cut := rfl
@[simp] theorem setCtx_pairs (c : Core) (k : Nat) (x : Ctx) : (c.setCtx k x).pairs = c.pairs := rfl
@[simp] theorem coreModCtx_pairs (c : Core) (k : Nat) (f : Ctx → Ctx) : (c.modCtx k f).pairs = c.pairs := rfl
@[simp] theorem setCtx_sluiceDue (c : Core) (k : Nat) (x : Ctx) : (c.setCtx k x).sluiceDue = c.sluiceDue := rfl
@[simp] theorem coreModCtx_sluiceDue (c : Core) (k : Nat) (f : Ctx → Ctx) : (c.modCtx k f).sluiceDue = c.sluiceDue := rfl
@[simp] theorem setCtx_bankWait (c : Core) (k : Nat) (x : Ctx) : (c.setCtx k x).bankWait = c.bankWait := rfl
@[simp] theorem coreModCtx_bankWait (c : Core) (k : Nat) (f : Ctx → Ctx) : (c.modCtx k f).bankWait = c.bankWait := rfl
@[simp] theorem setCtx_relays (c : Core) (k : Nat) (x : Ctx) : (c.setCtx k x).relays = c.relays := rfl
@[simp] theorem coreModCtx_relays (c : Core) (k : Nat) (f : Ctx → Ctx) : (c.modCtx k f).relays = c.relays := rfl
@[simp] theorem setCtx_energy (c : Core) (k : Nat) (x : Ctx) : (c.setCtx k x).energy = c.energy := rfl
@[simp] theorem coreModCtx_energy (c : Core) (k : Nat) (f : Ctx → Ctx) : (c.modCtx k f).energy = c.energy := rfl
@[simp] theorem setCtx_cycles (c : Core) (k : Nat) (x : Ctx) : (c.setCtx k x).cycles = c.cycles := rfl
@[simp] theorem coreModCtx_cycles (c : Core) (k : Nat) (f : Ctx → Ctx) : (c.modCtx k f).cycles = c.cycles := rfl
@[simp] theorem setCtx_drain (c : Core) (k : Nat) (x : Ctx) : (c.setCtx k x).drain = c.drain := rfl
@[simp] theorem coreModCtx_drain (c : Core) (k : Nat) (f : Ctx → Ctx) : (c.modCtx k f).drain = c.drain := rfl
@[simp] theorem setCtx_sysbase (c : Core) (k : Nat) (x : Ctx) : (c.setCtx k x).sysbase = c.sysbase := rfl
@[simp] theorem coreModCtx_sysbase (c : Core) (k : Nat) (f : Ctx → Ctx) : (c.modCtx k f).sysbase = c.sysbase := rfl

/-! ## Fields of the state that an update leaves -/

@[simp] theorem setCore_mem (s : State) (n : Nat) (c : Core) : (s.setCore n c).mem = s.mem := rfl
@[simp] theorem setCore_weights (s : State) (n : Nat) (c : Core) : (s.setCore n c).weights = s.weights := rfl
@[simp] theorem setCore_lineKeys (s : State) (n : Nat) (c : Core) : (s.setCore n c).lineKeys = s.lineKeys := rfl
@[simp] theorem setCore_keyGens (s : State) (n : Nat) (c : Core) : (s.setCore n c).keyGens = s.keyGens := rfl
@[simp] theorem setCore_poisoned (s : State) (n : Nat) (c : Core) : (s.setCore n c).poisoned = s.poisoned := rfl
@[simp] theorem setCore_clusters (s : State) (n : Nat) (c : Core) : (s.setCore n c).clusters = s.clusters := rfl
@[simp] theorem setCore_stk (s : State) (n : Nat) (c : Core) : (s.setCore n c).stk = s.stk := rfl
@[simp] theorem setCore_net (s : State) (n : Nat) (c : Core) : (s.setCore n c).net = s.net := rfl
@[simp] theorem setCore_remote (s : State) (n : Nat) (c : Core) : (s.setCore n c).remote = s.remote := rfl
@[simp] theorem setCore_flight (s : State) (n : Nat) (c : Core) : (s.setCore n c).flight = s.flight := rfl
@[simp] theorem setCore_walkers (s : State) (n : Nat) (c : Core) : (s.setCore n c).walkers = s.walkers := rfl
@[simp] theorem setCore_answers (s : State) (n : Nat) (c : Core) : (s.setCore n c).answers = s.answers := rfl
@[simp] theorem setCore_gangOps (s : State) (n : Nat) (c : Core) : (s.setCore n c).gangOps = s.gangOps := rfl
@[simp] theorem setCore_pounds (s : State) (n : Nat) (c : Core) : (s.setCore n c).pounds = s.pounds := rfl
@[simp] theorem setCore_shadow (s : State) (n : Nat) (c : Core) : (s.setCore n c).shadow = s.shadow := rfl
@[simp] theorem setCore_journal (s : State) (n : Nat) (c : Core) : (s.setCore n c).journal = s.journal := rfl
@[simp] theorem setCore_vds (s : State) (n : Nat) (c : Core) : (s.setCore n c).vds = s.vds := rfl
@[simp] theorem setCore_booted (s : State) (n : Nat) (c : Core) : (s.setCore n c).booted = s.booted := rfl
@[simp] theorem setCore_devRegs (s : State) (n : Nat) (c : Core) : (s.setCore n c).devRegs = s.devRegs := rfl
@[simp] theorem setCore_batches (s : State) (n : Nat) (c : Core) : (s.setCore n c).batches = s.batches := rfl
@[simp] theorem setCore_egress (s : State) (n : Nat) (c : Core) : (s.setCore n c).egress = s.egress := rfl
@[simp] theorem setCore_rmas (s : State) (n : Nat) (c : Core) : (s.setCore n c).rmas = s.rmas := rfl
@[simp] theorem setCore_buckets (s : State) (n : Nat) (c : Core) : (s.setCore n c).buckets = s.buckets := rfl
@[simp] theorem setCore_errors (s : State) (n : Nat) (c : Core) : (s.setCore n c).errors = s.errors := rfl
@[simp] theorem setCore_mr (s : State) (n : Nat) (c : Core) : (s.setCore n c).mr = s.mr := rfl
@[simp] theorem setCore_envelope (s : State) (n : Nat) (c : Core) : (s.setCore n c).envelope = s.envelope := rfl
@[simp] theorem setCore_retired (s : State) (n : Nat) (c : Core) : (s.setCore n c).retired = s.retired := rfl
@[simp] theorem setCore_cuts (s : State) (n : Nat) (c : Core) : (s.setCore n c).cuts = s.cuts := rfl
@[simp] theorem setCore_checkpoints (s : State) (n : Nat) (c : Core) : (s.setCore n c).checkpoints = s.checkpoints := rfl
@[simp] theorem setCore_cutRecs (s : State) (n : Nat) (c : Core) : (s.setCore n c).cutRecs = s.cutRecs := rfl
@[simp] theorem setCore_portEnergy (s : State) (n : Nat) (c : Core) : (s.setCore n c).portEnergy = s.portEnergy := rfl
@[simp] theorem setCore_saves (s : State) (n : Nat) (c : Core) : (s.setCore n c).saves = s.saves := rfl
@[simp] theorem setCore_console (s : State) (n : Nat) (c : Core) : (s.setCore n c).console = s.console := rfl
@[simp] theorem setCore_files (s : State) (n : Nat) (c : Core) : (s.setCore n c).files = s.files := rfl
@[simp] theorem setCore_snivis (s : State) (n : Nat) (c : Core) : (s.setCore n c).snivis = s.snivis := rfl
@[simp] theorem setCore_cur (s : State) (n : Nat) (c : Core) : (s.setCore n c).cur = s.cur := rfl
@[simp] theorem setCore_agenda (s : State) (n : Nat) (c : Core) : (s.setCore n c).agenda = s.agenda := rfl
@[simp] theorem setCore_freeCtr (s : State) (n : Nat) (c : Core) : (s.setCore n c).freeCtr = s.freeCtr := rfl
@[simp] theorem setCore_seq (s : State) (n : Nat) (c : Core) : (s.setCore n c).seq = s.seq := rfl
@[simp] theorem setCore_occurs (s : State) (n : Nat) (c : Core) : (s.setCore n c).occurs = s.occurs := rfl
@[simp] theorem setCore_ages (s : State) (n : Nat) (c : Core) : (s.setCore n c).ages = s.ages := rfl
@[simp] theorem setCore_noticed (s : State) (n : Nat) (c : Core) : (s.setCore n c).noticed = s.noticed := rfl
@[simp] theorem modCore_mem (s : State) (n : Nat) (f : Core → Core) : (s.modCore n f).mem = s.mem := rfl
@[simp] theorem modCore_weights (s : State) (n : Nat) (f : Core → Core) : (s.modCore n f).weights = s.weights := rfl
@[simp] theorem modCore_lineKeys (s : State) (n : Nat) (f : Core → Core) : (s.modCore n f).lineKeys = s.lineKeys := rfl
@[simp] theorem modCore_keyGens (s : State) (n : Nat) (f : Core → Core) : (s.modCore n f).keyGens = s.keyGens := rfl
@[simp] theorem modCore_poisoned (s : State) (n : Nat) (f : Core → Core) : (s.modCore n f).poisoned = s.poisoned := rfl
@[simp] theorem modCore_clusters (s : State) (n : Nat) (f : Core → Core) : (s.modCore n f).clusters = s.clusters := rfl
@[simp] theorem modCore_stk (s : State) (n : Nat) (f : Core → Core) : (s.modCore n f).stk = s.stk := rfl
@[simp] theorem modCore_net (s : State) (n : Nat) (f : Core → Core) : (s.modCore n f).net = s.net := rfl
@[simp] theorem modCore_remote (s : State) (n : Nat) (f : Core → Core) : (s.modCore n f).remote = s.remote := rfl
@[simp] theorem modCore_flight (s : State) (n : Nat) (f : Core → Core) : (s.modCore n f).flight = s.flight := rfl
@[simp] theorem modCore_walkers (s : State) (n : Nat) (f : Core → Core) : (s.modCore n f).walkers = s.walkers := rfl
@[simp] theorem modCore_answers (s : State) (n : Nat) (f : Core → Core) : (s.modCore n f).answers = s.answers := rfl
@[simp] theorem modCore_gangOps (s : State) (n : Nat) (f : Core → Core) : (s.modCore n f).gangOps = s.gangOps := rfl
@[simp] theorem modCore_pounds (s : State) (n : Nat) (f : Core → Core) : (s.modCore n f).pounds = s.pounds := rfl
@[simp] theorem modCore_shadow (s : State) (n : Nat) (f : Core → Core) : (s.modCore n f).shadow = s.shadow := rfl
@[simp] theorem modCore_journal (s : State) (n : Nat) (f : Core → Core) : (s.modCore n f).journal = s.journal := rfl
@[simp] theorem modCore_vds (s : State) (n : Nat) (f : Core → Core) : (s.modCore n f).vds = s.vds := rfl
@[simp] theorem modCore_booted (s : State) (n : Nat) (f : Core → Core) : (s.modCore n f).booted = s.booted := rfl
@[simp] theorem modCore_devRegs (s : State) (n : Nat) (f : Core → Core) : (s.modCore n f).devRegs = s.devRegs := rfl
@[simp] theorem modCore_batches (s : State) (n : Nat) (f : Core → Core) : (s.modCore n f).batches = s.batches := rfl
@[simp] theorem modCore_egress (s : State) (n : Nat) (f : Core → Core) : (s.modCore n f).egress = s.egress := rfl
@[simp] theorem modCore_rmas (s : State) (n : Nat) (f : Core → Core) : (s.modCore n f).rmas = s.rmas := rfl
@[simp] theorem modCore_buckets (s : State) (n : Nat) (f : Core → Core) : (s.modCore n f).buckets = s.buckets := rfl
@[simp] theorem modCore_errors (s : State) (n : Nat) (f : Core → Core) : (s.modCore n f).errors = s.errors := rfl
@[simp] theorem modCore_mr (s : State) (n : Nat) (f : Core → Core) : (s.modCore n f).mr = s.mr := rfl
@[simp] theorem modCore_envelope (s : State) (n : Nat) (f : Core → Core) : (s.modCore n f).envelope = s.envelope := rfl
@[simp] theorem modCore_retired (s : State) (n : Nat) (f : Core → Core) : (s.modCore n f).retired = s.retired := rfl
@[simp] theorem modCore_cuts (s : State) (n : Nat) (f : Core → Core) : (s.modCore n f).cuts = s.cuts := rfl
@[simp] theorem modCore_checkpoints (s : State) (n : Nat) (f : Core → Core) : (s.modCore n f).checkpoints = s.checkpoints := rfl
@[simp] theorem modCore_cutRecs (s : State) (n : Nat) (f : Core → Core) : (s.modCore n f).cutRecs = s.cutRecs := rfl
@[simp] theorem modCore_portEnergy (s : State) (n : Nat) (f : Core → Core) : (s.modCore n f).portEnergy = s.portEnergy := rfl
@[simp] theorem modCore_saves (s : State) (n : Nat) (f : Core → Core) : (s.modCore n f).saves = s.saves := rfl
@[simp] theorem modCore_console (s : State) (n : Nat) (f : Core → Core) : (s.modCore n f).console = s.console := rfl
@[simp] theorem modCore_files (s : State) (n : Nat) (f : Core → Core) : (s.modCore n f).files = s.files := rfl
@[simp] theorem modCore_snivis (s : State) (n : Nat) (f : Core → Core) : (s.modCore n f).snivis = s.snivis := rfl
@[simp] theorem modCore_cur (s : State) (n : Nat) (f : Core → Core) : (s.modCore n f).cur = s.cur := rfl
@[simp] theorem modCore_agenda (s : State) (n : Nat) (f : Core → Core) : (s.modCore n f).agenda = s.agenda := rfl
@[simp] theorem modCore_freeCtr (s : State) (n : Nat) (f : Core → Core) : (s.modCore n f).freeCtr = s.freeCtr := rfl
@[simp] theorem modCore_seq (s : State) (n : Nat) (f : Core → Core) : (s.modCore n f).seq = s.seq := rfl
@[simp] theorem modCore_occurs (s : State) (n : Nat) (f : Core → Core) : (s.modCore n f).occurs = s.occurs := rfl
@[simp] theorem modCore_ages (s : State) (n : Nat) (f : Core → Core) : (s.modCore n f).ages = s.ages := rfl
@[simp] theorem modCore_noticed (s : State) (n : Nat) (f : Core → Core) : (s.modCore n f).noticed = s.noticed := rfl
@[simp] theorem modMe_mem (s : State) (f : Core → Core) : (s.modMe f).mem = s.mem := rfl
@[simp] theorem modMe_weights (s : State) (f : Core → Core) : (s.modMe f).weights = s.weights := rfl
@[simp] theorem modMe_lineKeys (s : State) (f : Core → Core) : (s.modMe f).lineKeys = s.lineKeys := rfl
@[simp] theorem modMe_keyGens (s : State) (f : Core → Core) : (s.modMe f).keyGens = s.keyGens := rfl
@[simp] theorem modMe_poisoned (s : State) (f : Core → Core) : (s.modMe f).poisoned = s.poisoned := rfl
@[simp] theorem modMe_clusters (s : State) (f : Core → Core) : (s.modMe f).clusters = s.clusters := rfl
@[simp] theorem modMe_stk (s : State) (f : Core → Core) : (s.modMe f).stk = s.stk := rfl
@[simp] theorem modMe_net (s : State) (f : Core → Core) : (s.modMe f).net = s.net := rfl
@[simp] theorem modMe_remote (s : State) (f : Core → Core) : (s.modMe f).remote = s.remote := rfl
@[simp] theorem modMe_flight (s : State) (f : Core → Core) : (s.modMe f).flight = s.flight := rfl
@[simp] theorem modMe_walkers (s : State) (f : Core → Core) : (s.modMe f).walkers = s.walkers := rfl
@[simp] theorem modMe_answers (s : State) (f : Core → Core) : (s.modMe f).answers = s.answers := rfl
@[simp] theorem modMe_gangOps (s : State) (f : Core → Core) : (s.modMe f).gangOps = s.gangOps := rfl
@[simp] theorem modMe_pounds (s : State) (f : Core → Core) : (s.modMe f).pounds = s.pounds := rfl
@[simp] theorem modMe_shadow (s : State) (f : Core → Core) : (s.modMe f).shadow = s.shadow := rfl
@[simp] theorem modMe_journal (s : State) (f : Core → Core) : (s.modMe f).journal = s.journal := rfl
@[simp] theorem modMe_vds (s : State) (f : Core → Core) : (s.modMe f).vds = s.vds := rfl
@[simp] theorem modMe_booted (s : State) (f : Core → Core) : (s.modMe f).booted = s.booted := rfl
@[simp] theorem modMe_devRegs (s : State) (f : Core → Core) : (s.modMe f).devRegs = s.devRegs := rfl
@[simp] theorem modMe_batches (s : State) (f : Core → Core) : (s.modMe f).batches = s.batches := rfl
@[simp] theorem modMe_egress (s : State) (f : Core → Core) : (s.modMe f).egress = s.egress := rfl
@[simp] theorem modMe_rmas (s : State) (f : Core → Core) : (s.modMe f).rmas = s.rmas := rfl
@[simp] theorem modMe_buckets (s : State) (f : Core → Core) : (s.modMe f).buckets = s.buckets := rfl
@[simp] theorem modMe_errors (s : State) (f : Core → Core) : (s.modMe f).errors = s.errors := rfl
@[simp] theorem modMe_mr (s : State) (f : Core → Core) : (s.modMe f).mr = s.mr := rfl
@[simp] theorem modMe_envelope (s : State) (f : Core → Core) : (s.modMe f).envelope = s.envelope := rfl
@[simp] theorem modMe_retired (s : State) (f : Core → Core) : (s.modMe f).retired = s.retired := rfl
@[simp] theorem modMe_cuts (s : State) (f : Core → Core) : (s.modMe f).cuts = s.cuts := rfl
@[simp] theorem modMe_checkpoints (s : State) (f : Core → Core) : (s.modMe f).checkpoints = s.checkpoints := rfl
@[simp] theorem modMe_cutRecs (s : State) (f : Core → Core) : (s.modMe f).cutRecs = s.cutRecs := rfl
@[simp] theorem modMe_portEnergy (s : State) (f : Core → Core) : (s.modMe f).portEnergy = s.portEnergy := rfl
@[simp] theorem modMe_saves (s : State) (f : Core → Core) : (s.modMe f).saves = s.saves := rfl
@[simp] theorem modMe_console (s : State) (f : Core → Core) : (s.modMe f).console = s.console := rfl
@[simp] theorem modMe_files (s : State) (f : Core → Core) : (s.modMe f).files = s.files := rfl
@[simp] theorem modMe_snivis (s : State) (f : Core → Core) : (s.modMe f).snivis = s.snivis := rfl
@[simp] theorem modMe_cur (s : State) (f : Core → Core) : (s.modMe f).cur = s.cur := rfl
@[simp] theorem modMe_agenda (s : State) (f : Core → Core) : (s.modMe f).agenda = s.agenda := rfl
@[simp] theorem modMe_freeCtr (s : State) (f : Core → Core) : (s.modMe f).freeCtr = s.freeCtr := rfl
@[simp] theorem modMe_seq (s : State) (f : Core → Core) : (s.modMe f).seq = s.seq := rfl
@[simp] theorem modMe_occurs (s : State) (f : Core → Core) : (s.modMe f).occurs = s.occurs := rfl
@[simp] theorem modMe_ages (s : State) (f : Core → Core) : (s.modMe f).ages = s.ages := rfl
@[simp] theorem modMe_noticed (s : State) (f : Core → Core) : (s.modMe f).noticed = s.noticed := rfl
@[simp] theorem modCtx_mem (s : State) (f : Ctx → Ctx) : (s.modCtx f).mem = s.mem := rfl
@[simp] theorem modCtx_weights (s : State) (f : Ctx → Ctx) : (s.modCtx f).weights = s.weights := rfl
@[simp] theorem modCtx_lineKeys (s : State) (f : Ctx → Ctx) : (s.modCtx f).lineKeys = s.lineKeys := rfl
@[simp] theorem modCtx_keyGens (s : State) (f : Ctx → Ctx) : (s.modCtx f).keyGens = s.keyGens := rfl
@[simp] theorem modCtx_poisoned (s : State) (f : Ctx → Ctx) : (s.modCtx f).poisoned = s.poisoned := rfl
@[simp] theorem modCtx_clusters (s : State) (f : Ctx → Ctx) : (s.modCtx f).clusters = s.clusters := rfl
@[simp] theorem modCtx_stk (s : State) (f : Ctx → Ctx) : (s.modCtx f).stk = s.stk := rfl
@[simp] theorem modCtx_net (s : State) (f : Ctx → Ctx) : (s.modCtx f).net = s.net := rfl
@[simp] theorem modCtx_remote (s : State) (f : Ctx → Ctx) : (s.modCtx f).remote = s.remote := rfl
@[simp] theorem modCtx_flight (s : State) (f : Ctx → Ctx) : (s.modCtx f).flight = s.flight := rfl
@[simp] theorem modCtx_walkers (s : State) (f : Ctx → Ctx) : (s.modCtx f).walkers = s.walkers := rfl
@[simp] theorem modCtx_answers (s : State) (f : Ctx → Ctx) : (s.modCtx f).answers = s.answers := rfl
@[simp] theorem modCtx_gangOps (s : State) (f : Ctx → Ctx) : (s.modCtx f).gangOps = s.gangOps := rfl
@[simp] theorem modCtx_pounds (s : State) (f : Ctx → Ctx) : (s.modCtx f).pounds = s.pounds := rfl
@[simp] theorem modCtx_shadow (s : State) (f : Ctx → Ctx) : (s.modCtx f).shadow = s.shadow := rfl
@[simp] theorem modCtx_journal (s : State) (f : Ctx → Ctx) : (s.modCtx f).journal = s.journal := rfl
@[simp] theorem modCtx_vds (s : State) (f : Ctx → Ctx) : (s.modCtx f).vds = s.vds := rfl
@[simp] theorem modCtx_booted (s : State) (f : Ctx → Ctx) : (s.modCtx f).booted = s.booted := rfl
@[simp] theorem modCtx_devRegs (s : State) (f : Ctx → Ctx) : (s.modCtx f).devRegs = s.devRegs := rfl
@[simp] theorem modCtx_batches (s : State) (f : Ctx → Ctx) : (s.modCtx f).batches = s.batches := rfl
@[simp] theorem modCtx_egress (s : State) (f : Ctx → Ctx) : (s.modCtx f).egress = s.egress := rfl
@[simp] theorem modCtx_rmas (s : State) (f : Ctx → Ctx) : (s.modCtx f).rmas = s.rmas := rfl
@[simp] theorem modCtx_buckets (s : State) (f : Ctx → Ctx) : (s.modCtx f).buckets = s.buckets := rfl
@[simp] theorem modCtx_errors (s : State) (f : Ctx → Ctx) : (s.modCtx f).errors = s.errors := rfl
@[simp] theorem modCtx_mr (s : State) (f : Ctx → Ctx) : (s.modCtx f).mr = s.mr := rfl
@[simp] theorem modCtx_envelope (s : State) (f : Ctx → Ctx) : (s.modCtx f).envelope = s.envelope := rfl
@[simp] theorem modCtx_retired (s : State) (f : Ctx → Ctx) : (s.modCtx f).retired = s.retired := rfl
@[simp] theorem modCtx_cuts (s : State) (f : Ctx → Ctx) : (s.modCtx f).cuts = s.cuts := rfl
@[simp] theorem modCtx_checkpoints (s : State) (f : Ctx → Ctx) : (s.modCtx f).checkpoints = s.checkpoints := rfl
@[simp] theorem modCtx_cutRecs (s : State) (f : Ctx → Ctx) : (s.modCtx f).cutRecs = s.cutRecs := rfl
@[simp] theorem modCtx_portEnergy (s : State) (f : Ctx → Ctx) : (s.modCtx f).portEnergy = s.portEnergy := rfl
@[simp] theorem modCtx_saves (s : State) (f : Ctx → Ctx) : (s.modCtx f).saves = s.saves := rfl
@[simp] theorem modCtx_console (s : State) (f : Ctx → Ctx) : (s.modCtx f).console = s.console := rfl
@[simp] theorem modCtx_files (s : State) (f : Ctx → Ctx) : (s.modCtx f).files = s.files := rfl
@[simp] theorem modCtx_snivis (s : State) (f : Ctx → Ctx) : (s.modCtx f).snivis = s.snivis := rfl
@[simp] theorem modCtx_cur (s : State) (f : Ctx → Ctx) : (s.modCtx f).cur = s.cur := rfl
@[simp] theorem modCtx_agenda (s : State) (f : Ctx → Ctx) : (s.modCtx f).agenda = s.agenda := rfl
@[simp] theorem modCtx_freeCtr (s : State) (f : Ctx → Ctx) : (s.modCtx f).freeCtr = s.freeCtr := rfl
@[simp] theorem modCtx_seq (s : State) (f : Ctx → Ctx) : (s.modCtx f).seq = s.seq := rfl
@[simp] theorem modCtx_occurs (s : State) (f : Ctx → Ctx) : (s.modCtx f).occurs = s.occurs := rfl
@[simp] theorem modCtx_ages (s : State) (f : Ctx → Ctx) : (s.modCtx f).ages = s.ages := rfl
@[simp] theorem modCtx_noticed (s : State) (f : Ctx → Ctx) : (s.modCtx f).noticed = s.noticed := rfl
@[simp] theorem modCtxOf_mem (s : State) (n k : Nat) (f : Ctx → Ctx) : (s.modCtxOf n k f).mem = s.mem := rfl
@[simp] theorem modCtxOf_weights (s : State) (n k : Nat) (f : Ctx → Ctx) : (s.modCtxOf n k f).weights = s.weights := rfl
@[simp] theorem modCtxOf_lineKeys (s : State) (n k : Nat) (f : Ctx → Ctx) : (s.modCtxOf n k f).lineKeys = s.lineKeys := rfl
@[simp] theorem modCtxOf_keyGens (s : State) (n k : Nat) (f : Ctx → Ctx) : (s.modCtxOf n k f).keyGens = s.keyGens := rfl
@[simp] theorem modCtxOf_poisoned (s : State) (n k : Nat) (f : Ctx → Ctx) : (s.modCtxOf n k f).poisoned = s.poisoned := rfl
@[simp] theorem modCtxOf_clusters (s : State) (n k : Nat) (f : Ctx → Ctx) : (s.modCtxOf n k f).clusters = s.clusters := rfl
@[simp] theorem modCtxOf_stk (s : State) (n k : Nat) (f : Ctx → Ctx) : (s.modCtxOf n k f).stk = s.stk := rfl
@[simp] theorem modCtxOf_net (s : State) (n k : Nat) (f : Ctx → Ctx) : (s.modCtxOf n k f).net = s.net := rfl
@[simp] theorem modCtxOf_remote (s : State) (n k : Nat) (f : Ctx → Ctx) : (s.modCtxOf n k f).remote = s.remote := rfl
@[simp] theorem modCtxOf_flight (s : State) (n k : Nat) (f : Ctx → Ctx) : (s.modCtxOf n k f).flight = s.flight := rfl
@[simp] theorem modCtxOf_walkers (s : State) (n k : Nat) (f : Ctx → Ctx) : (s.modCtxOf n k f).walkers = s.walkers := rfl
@[simp] theorem modCtxOf_answers (s : State) (n k : Nat) (f : Ctx → Ctx) : (s.modCtxOf n k f).answers = s.answers := rfl
@[simp] theorem modCtxOf_gangOps (s : State) (n k : Nat) (f : Ctx → Ctx) : (s.modCtxOf n k f).gangOps = s.gangOps := rfl
@[simp] theorem modCtxOf_pounds (s : State) (n k : Nat) (f : Ctx → Ctx) : (s.modCtxOf n k f).pounds = s.pounds := rfl
@[simp] theorem modCtxOf_shadow (s : State) (n k : Nat) (f : Ctx → Ctx) : (s.modCtxOf n k f).shadow = s.shadow := rfl
@[simp] theorem modCtxOf_journal (s : State) (n k : Nat) (f : Ctx → Ctx) : (s.modCtxOf n k f).journal = s.journal := rfl
@[simp] theorem modCtxOf_vds (s : State) (n k : Nat) (f : Ctx → Ctx) : (s.modCtxOf n k f).vds = s.vds := rfl
@[simp] theorem modCtxOf_booted (s : State) (n k : Nat) (f : Ctx → Ctx) : (s.modCtxOf n k f).booted = s.booted := rfl
@[simp] theorem modCtxOf_devRegs (s : State) (n k : Nat) (f : Ctx → Ctx) : (s.modCtxOf n k f).devRegs = s.devRegs := rfl
@[simp] theorem modCtxOf_batches (s : State) (n k : Nat) (f : Ctx → Ctx) : (s.modCtxOf n k f).batches = s.batches := rfl
@[simp] theorem modCtxOf_egress (s : State) (n k : Nat) (f : Ctx → Ctx) : (s.modCtxOf n k f).egress = s.egress := rfl
@[simp] theorem modCtxOf_rmas (s : State) (n k : Nat) (f : Ctx → Ctx) : (s.modCtxOf n k f).rmas = s.rmas := rfl
@[simp] theorem modCtxOf_buckets (s : State) (n k : Nat) (f : Ctx → Ctx) : (s.modCtxOf n k f).buckets = s.buckets := rfl
@[simp] theorem modCtxOf_errors (s : State) (n k : Nat) (f : Ctx → Ctx) : (s.modCtxOf n k f).errors = s.errors := rfl
@[simp] theorem modCtxOf_mr (s : State) (n k : Nat) (f : Ctx → Ctx) : (s.modCtxOf n k f).mr = s.mr := rfl
@[simp] theorem modCtxOf_envelope (s : State) (n k : Nat) (f : Ctx → Ctx) : (s.modCtxOf n k f).envelope = s.envelope := rfl
@[simp] theorem modCtxOf_retired (s : State) (n k : Nat) (f : Ctx → Ctx) : (s.modCtxOf n k f).retired = s.retired := rfl
@[simp] theorem modCtxOf_cuts (s : State) (n k : Nat) (f : Ctx → Ctx) : (s.modCtxOf n k f).cuts = s.cuts := rfl
@[simp] theorem modCtxOf_checkpoints (s : State) (n k : Nat) (f : Ctx → Ctx) : (s.modCtxOf n k f).checkpoints = s.checkpoints := rfl
@[simp] theorem modCtxOf_cutRecs (s : State) (n k : Nat) (f : Ctx → Ctx) : (s.modCtxOf n k f).cutRecs = s.cutRecs := rfl
@[simp] theorem modCtxOf_portEnergy (s : State) (n k : Nat) (f : Ctx → Ctx) : (s.modCtxOf n k f).portEnergy = s.portEnergy := rfl
@[simp] theorem modCtxOf_saves (s : State) (n k : Nat) (f : Ctx → Ctx) : (s.modCtxOf n k f).saves = s.saves := rfl
@[simp] theorem modCtxOf_console (s : State) (n k : Nat) (f : Ctx → Ctx) : (s.modCtxOf n k f).console = s.console := rfl
@[simp] theorem modCtxOf_files (s : State) (n k : Nat) (f : Ctx → Ctx) : (s.modCtxOf n k f).files = s.files := rfl
@[simp] theorem modCtxOf_snivis (s : State) (n k : Nat) (f : Ctx → Ctx) : (s.modCtxOf n k f).snivis = s.snivis := rfl
@[simp] theorem modCtxOf_cur (s : State) (n k : Nat) (f : Ctx → Ctx) : (s.modCtxOf n k f).cur = s.cur := rfl
@[simp] theorem modCtxOf_agenda (s : State) (n k : Nat) (f : Ctx → Ctx) : (s.modCtxOf n k f).agenda = s.agenda := rfl
@[simp] theorem modCtxOf_freeCtr (s : State) (n k : Nat) (f : Ctx → Ctx) : (s.modCtxOf n k f).freeCtr = s.freeCtr := rfl
@[simp] theorem modCtxOf_seq (s : State) (n k : Nat) (f : Ctx → Ctx) : (s.modCtxOf n k f).seq = s.seq := rfl
@[simp] theorem modCtxOf_occurs (s : State) (n k : Nat) (f : Ctx → Ctx) : (s.modCtxOf n k f).occurs = s.occurs := rfl
@[simp] theorem modCtxOf_ages (s : State) (n k : Nat) (f : Ctx → Ctx) : (s.modCtxOf n k f).ages = s.ages := rfl
@[simp] theorem modCtxOf_noticed (s : State) (n k : Nat) (f : Ctx → Ctx) : (s.modCtxOf n k f).noticed = s.noticed := rfl
@[simp] theorem modCluster_mem (s : State) (n : Nat) (f : Cluster → Cluster) : (s.modCluster n f).mem = s.mem := rfl
@[simp] theorem modCluster_weights (s : State) (n : Nat) (f : Cluster → Cluster) : (s.modCluster n f).weights = s.weights := rfl
@[simp] theorem modCluster_lineKeys (s : State) (n : Nat) (f : Cluster → Cluster) : (s.modCluster n f).lineKeys = s.lineKeys := rfl
@[simp] theorem modCluster_keyGens (s : State) (n : Nat) (f : Cluster → Cluster) : (s.modCluster n f).keyGens = s.keyGens := rfl
@[simp] theorem modCluster_poisoned (s : State) (n : Nat) (f : Cluster → Cluster) : (s.modCluster n f).poisoned = s.poisoned := rfl
@[simp] theorem modCluster_cores (s : State) (n : Nat) (f : Cluster → Cluster) : (s.modCluster n f).cores = s.cores := rfl
@[simp] theorem modCluster_stk (s : State) (n : Nat) (f : Cluster → Cluster) : (s.modCluster n f).stk = s.stk := rfl
@[simp] theorem modCluster_net (s : State) (n : Nat) (f : Cluster → Cluster) : (s.modCluster n f).net = s.net := rfl
@[simp] theorem modCluster_remote (s : State) (n : Nat) (f : Cluster → Cluster) : (s.modCluster n f).remote = s.remote := rfl
@[simp] theorem modCluster_flight (s : State) (n : Nat) (f : Cluster → Cluster) : (s.modCluster n f).flight = s.flight := rfl
@[simp] theorem modCluster_walkers (s : State) (n : Nat) (f : Cluster → Cluster) : (s.modCluster n f).walkers = s.walkers := rfl
@[simp] theorem modCluster_answers (s : State) (n : Nat) (f : Cluster → Cluster) : (s.modCluster n f).answers = s.answers := rfl
@[simp] theorem modCluster_gangOps (s : State) (n : Nat) (f : Cluster → Cluster) : (s.modCluster n f).gangOps = s.gangOps := rfl
@[simp] theorem modCluster_pounds (s : State) (n : Nat) (f : Cluster → Cluster) : (s.modCluster n f).pounds = s.pounds := rfl
@[simp] theorem modCluster_shadow (s : State) (n : Nat) (f : Cluster → Cluster) : (s.modCluster n f).shadow = s.shadow := rfl
@[simp] theorem modCluster_journal (s : State) (n : Nat) (f : Cluster → Cluster) : (s.modCluster n f).journal = s.journal := rfl
@[simp] theorem modCluster_vds (s : State) (n : Nat) (f : Cluster → Cluster) : (s.modCluster n f).vds = s.vds := rfl
@[simp] theorem modCluster_booted (s : State) (n : Nat) (f : Cluster → Cluster) : (s.modCluster n f).booted = s.booted := rfl
@[simp] theorem modCluster_devRegs (s : State) (n : Nat) (f : Cluster → Cluster) : (s.modCluster n f).devRegs = s.devRegs := rfl
@[simp] theorem modCluster_batches (s : State) (n : Nat) (f : Cluster → Cluster) : (s.modCluster n f).batches = s.batches := rfl
@[simp] theorem modCluster_egress (s : State) (n : Nat) (f : Cluster → Cluster) : (s.modCluster n f).egress = s.egress := rfl
@[simp] theorem modCluster_rmas (s : State) (n : Nat) (f : Cluster → Cluster) : (s.modCluster n f).rmas = s.rmas := rfl
@[simp] theorem modCluster_buckets (s : State) (n : Nat) (f : Cluster → Cluster) : (s.modCluster n f).buckets = s.buckets := rfl
@[simp] theorem modCluster_errors (s : State) (n : Nat) (f : Cluster → Cluster) : (s.modCluster n f).errors = s.errors := rfl
@[simp] theorem modCluster_mr (s : State) (n : Nat) (f : Cluster → Cluster) : (s.modCluster n f).mr = s.mr := rfl
@[simp] theorem modCluster_envelope (s : State) (n : Nat) (f : Cluster → Cluster) : (s.modCluster n f).envelope = s.envelope := rfl
@[simp] theorem modCluster_retired (s : State) (n : Nat) (f : Cluster → Cluster) : (s.modCluster n f).retired = s.retired := rfl
@[simp] theorem modCluster_cuts (s : State) (n : Nat) (f : Cluster → Cluster) : (s.modCluster n f).cuts = s.cuts := rfl
@[simp] theorem modCluster_checkpoints (s : State) (n : Nat) (f : Cluster → Cluster) : (s.modCluster n f).checkpoints = s.checkpoints := rfl
@[simp] theorem modCluster_cutRecs (s : State) (n : Nat) (f : Cluster → Cluster) : (s.modCluster n f).cutRecs = s.cutRecs := rfl
@[simp] theorem modCluster_portEnergy (s : State) (n : Nat) (f : Cluster → Cluster) : (s.modCluster n f).portEnergy = s.portEnergy := rfl
@[simp] theorem modCluster_saves (s : State) (n : Nat) (f : Cluster → Cluster) : (s.modCluster n f).saves = s.saves := rfl
@[simp] theorem modCluster_console (s : State) (n : Nat) (f : Cluster → Cluster) : (s.modCluster n f).console = s.console := rfl
@[simp] theorem modCluster_files (s : State) (n : Nat) (f : Cluster → Cluster) : (s.modCluster n f).files = s.files := rfl
@[simp] theorem modCluster_snivis (s : State) (n : Nat) (f : Cluster → Cluster) : (s.modCluster n f).snivis = s.snivis := rfl
@[simp] theorem modCluster_cur (s : State) (n : Nat) (f : Cluster → Cluster) : (s.modCluster n f).cur = s.cur := rfl
@[simp] theorem modCluster_agenda (s : State) (n : Nat) (f : Cluster → Cluster) : (s.modCluster n f).agenda = s.agenda := rfl
@[simp] theorem modCluster_freeCtr (s : State) (n : Nat) (f : Cluster → Cluster) : (s.modCluster n f).freeCtr = s.freeCtr := rfl
@[simp] theorem modCluster_seq (s : State) (n : Nat) (f : Cluster → Cluster) : (s.modCluster n f).seq = s.seq := rfl
@[simp] theorem modCluster_occurs (s : State) (n : Nat) (f : Cluster → Cluster) : (s.modCluster n f).occurs = s.occurs := rfl
@[simp] theorem modCluster_ages (s : State) (n : Nat) (f : Cluster → Cluster) : (s.modCluster n f).ages = s.ages := rfl
@[simp] theorem modCluster_noticed (s : State) (n : Nat) (f : Cluster → Cluster) : (s.modCluster n f).noticed = s.noticed := rfl
@[simp] theorem modStack_mem (s : State) (n : Nat) (f : Stack → Stack) : (s.modStack n f).mem = s.mem := rfl
@[simp] theorem modStack_weights (s : State) (n : Nat) (f : Stack → Stack) : (s.modStack n f).weights = s.weights := rfl
@[simp] theorem modStack_lineKeys (s : State) (n : Nat) (f : Stack → Stack) : (s.modStack n f).lineKeys = s.lineKeys := rfl
@[simp] theorem modStack_keyGens (s : State) (n : Nat) (f : Stack → Stack) : (s.modStack n f).keyGens = s.keyGens := rfl
@[simp] theorem modStack_poisoned (s : State) (n : Nat) (f : Stack → Stack) : (s.modStack n f).poisoned = s.poisoned := rfl
@[simp] theorem modStack_cores (s : State) (n : Nat) (f : Stack → Stack) : (s.modStack n f).cores = s.cores := rfl
@[simp] theorem modStack_clusters (s : State) (n : Nat) (f : Stack → Stack) : (s.modStack n f).clusters = s.clusters := rfl
@[simp] theorem modStack_net (s : State) (n : Nat) (f : Stack → Stack) : (s.modStack n f).net = s.net := rfl
@[simp] theorem modStack_remote (s : State) (n : Nat) (f : Stack → Stack) : (s.modStack n f).remote = s.remote := rfl
@[simp] theorem modStack_flight (s : State) (n : Nat) (f : Stack → Stack) : (s.modStack n f).flight = s.flight := rfl
@[simp] theorem modStack_walkers (s : State) (n : Nat) (f : Stack → Stack) : (s.modStack n f).walkers = s.walkers := rfl
@[simp] theorem modStack_answers (s : State) (n : Nat) (f : Stack → Stack) : (s.modStack n f).answers = s.answers := rfl
@[simp] theorem modStack_gangOps (s : State) (n : Nat) (f : Stack → Stack) : (s.modStack n f).gangOps = s.gangOps := rfl
@[simp] theorem modStack_pounds (s : State) (n : Nat) (f : Stack → Stack) : (s.modStack n f).pounds = s.pounds := rfl
@[simp] theorem modStack_shadow (s : State) (n : Nat) (f : Stack → Stack) : (s.modStack n f).shadow = s.shadow := rfl
@[simp] theorem modStack_journal (s : State) (n : Nat) (f : Stack → Stack) : (s.modStack n f).journal = s.journal := rfl
@[simp] theorem modStack_vds (s : State) (n : Nat) (f : Stack → Stack) : (s.modStack n f).vds = s.vds := rfl
@[simp] theorem modStack_booted (s : State) (n : Nat) (f : Stack → Stack) : (s.modStack n f).booted = s.booted := rfl
@[simp] theorem modStack_devRegs (s : State) (n : Nat) (f : Stack → Stack) : (s.modStack n f).devRegs = s.devRegs := rfl
@[simp] theorem modStack_batches (s : State) (n : Nat) (f : Stack → Stack) : (s.modStack n f).batches = s.batches := rfl
@[simp] theorem modStack_egress (s : State) (n : Nat) (f : Stack → Stack) : (s.modStack n f).egress = s.egress := rfl
@[simp] theorem modStack_rmas (s : State) (n : Nat) (f : Stack → Stack) : (s.modStack n f).rmas = s.rmas := rfl
@[simp] theorem modStack_buckets (s : State) (n : Nat) (f : Stack → Stack) : (s.modStack n f).buckets = s.buckets := rfl
@[simp] theorem modStack_errors (s : State) (n : Nat) (f : Stack → Stack) : (s.modStack n f).errors = s.errors := rfl
@[simp] theorem modStack_mr (s : State) (n : Nat) (f : Stack → Stack) : (s.modStack n f).mr = s.mr := rfl
@[simp] theorem modStack_envelope (s : State) (n : Nat) (f : Stack → Stack) : (s.modStack n f).envelope = s.envelope := rfl
@[simp] theorem modStack_retired (s : State) (n : Nat) (f : Stack → Stack) : (s.modStack n f).retired = s.retired := rfl
@[simp] theorem modStack_cuts (s : State) (n : Nat) (f : Stack → Stack) : (s.modStack n f).cuts = s.cuts := rfl
@[simp] theorem modStack_checkpoints (s : State) (n : Nat) (f : Stack → Stack) : (s.modStack n f).checkpoints = s.checkpoints := rfl
@[simp] theorem modStack_cutRecs (s : State) (n : Nat) (f : Stack → Stack) : (s.modStack n f).cutRecs = s.cutRecs := rfl
@[simp] theorem modStack_portEnergy (s : State) (n : Nat) (f : Stack → Stack) : (s.modStack n f).portEnergy = s.portEnergy := rfl
@[simp] theorem modStack_saves (s : State) (n : Nat) (f : Stack → Stack) : (s.modStack n f).saves = s.saves := rfl
@[simp] theorem modStack_console (s : State) (n : Nat) (f : Stack → Stack) : (s.modStack n f).console = s.console := rfl
@[simp] theorem modStack_files (s : State) (n : Nat) (f : Stack → Stack) : (s.modStack n f).files = s.files := rfl
@[simp] theorem modStack_snivis (s : State) (n : Nat) (f : Stack → Stack) : (s.modStack n f).snivis = s.snivis := rfl
@[simp] theorem modStack_cur (s : State) (n : Nat) (f : Stack → Stack) : (s.modStack n f).cur = s.cur := rfl
@[simp] theorem modStack_agenda (s : State) (n : Nat) (f : Stack → Stack) : (s.modStack n f).agenda = s.agenda := rfl
@[simp] theorem modStack_freeCtr (s : State) (n : Nat) (f : Stack → Stack) : (s.modStack n f).freeCtr = s.freeCtr := rfl
@[simp] theorem modStack_seq (s : State) (n : Nat) (f : Stack → Stack) : (s.modStack n f).seq = s.seq := rfl
@[simp] theorem modStack_occurs (s : State) (n : Nat) (f : Stack → Stack) : (s.modStack n f).occurs = s.occurs := rfl
@[simp] theorem modStack_ages (s : State) (n : Nat) (f : Stack → Stack) : (s.modStack n f).ages = s.ages := rfl
@[simp] theorem modStack_noticed (s : State) (n : Nat) (f : Stack → Stack) : (s.modStack n f).noticed = s.noticed := rfl
@[simp] theorem modPound_mem (s : State) (n : Nat) (f : Pound → Pound) : (s.modPound n f).mem = s.mem := rfl
@[simp] theorem modPound_weights (s : State) (n : Nat) (f : Pound → Pound) : (s.modPound n f).weights = s.weights := rfl
@[simp] theorem modPound_lineKeys (s : State) (n : Nat) (f : Pound → Pound) : (s.modPound n f).lineKeys = s.lineKeys := rfl
@[simp] theorem modPound_keyGens (s : State) (n : Nat) (f : Pound → Pound) : (s.modPound n f).keyGens = s.keyGens := rfl
@[simp] theorem modPound_poisoned (s : State) (n : Nat) (f : Pound → Pound) : (s.modPound n f).poisoned = s.poisoned := rfl
@[simp] theorem modPound_cores (s : State) (n : Nat) (f : Pound → Pound) : (s.modPound n f).cores = s.cores := rfl
@[simp] theorem modPound_clusters (s : State) (n : Nat) (f : Pound → Pound) : (s.modPound n f).clusters = s.clusters := rfl
@[simp] theorem modPound_stk (s : State) (n : Nat) (f : Pound → Pound) : (s.modPound n f).stk = s.stk := rfl
@[simp] theorem modPound_net (s : State) (n : Nat) (f : Pound → Pound) : (s.modPound n f).net = s.net := rfl
@[simp] theorem modPound_remote (s : State) (n : Nat) (f : Pound → Pound) : (s.modPound n f).remote = s.remote := rfl
@[simp] theorem modPound_flight (s : State) (n : Nat) (f : Pound → Pound) : (s.modPound n f).flight = s.flight := rfl
@[simp] theorem modPound_walkers (s : State) (n : Nat) (f : Pound → Pound) : (s.modPound n f).walkers = s.walkers := rfl
@[simp] theorem modPound_answers (s : State) (n : Nat) (f : Pound → Pound) : (s.modPound n f).answers = s.answers := rfl
@[simp] theorem modPound_gangOps (s : State) (n : Nat) (f : Pound → Pound) : (s.modPound n f).gangOps = s.gangOps := rfl
@[simp] theorem modPound_shadow (s : State) (n : Nat) (f : Pound → Pound) : (s.modPound n f).shadow = s.shadow := rfl
@[simp] theorem modPound_journal (s : State) (n : Nat) (f : Pound → Pound) : (s.modPound n f).journal = s.journal := rfl
@[simp] theorem modPound_vds (s : State) (n : Nat) (f : Pound → Pound) : (s.modPound n f).vds = s.vds := rfl
@[simp] theorem modPound_booted (s : State) (n : Nat) (f : Pound → Pound) : (s.modPound n f).booted = s.booted := rfl
@[simp] theorem modPound_devRegs (s : State) (n : Nat) (f : Pound → Pound) : (s.modPound n f).devRegs = s.devRegs := rfl
@[simp] theorem modPound_batches (s : State) (n : Nat) (f : Pound → Pound) : (s.modPound n f).batches = s.batches := rfl
@[simp] theorem modPound_egress (s : State) (n : Nat) (f : Pound → Pound) : (s.modPound n f).egress = s.egress := rfl
@[simp] theorem modPound_rmas (s : State) (n : Nat) (f : Pound → Pound) : (s.modPound n f).rmas = s.rmas := rfl
@[simp] theorem modPound_buckets (s : State) (n : Nat) (f : Pound → Pound) : (s.modPound n f).buckets = s.buckets := rfl
@[simp] theorem modPound_errors (s : State) (n : Nat) (f : Pound → Pound) : (s.modPound n f).errors = s.errors := rfl
@[simp] theorem modPound_mr (s : State) (n : Nat) (f : Pound → Pound) : (s.modPound n f).mr = s.mr := rfl
@[simp] theorem modPound_envelope (s : State) (n : Nat) (f : Pound → Pound) : (s.modPound n f).envelope = s.envelope := rfl
@[simp] theorem modPound_retired (s : State) (n : Nat) (f : Pound → Pound) : (s.modPound n f).retired = s.retired := rfl
@[simp] theorem modPound_cuts (s : State) (n : Nat) (f : Pound → Pound) : (s.modPound n f).cuts = s.cuts := rfl
@[simp] theorem modPound_checkpoints (s : State) (n : Nat) (f : Pound → Pound) : (s.modPound n f).checkpoints = s.checkpoints := rfl
@[simp] theorem modPound_cutRecs (s : State) (n : Nat) (f : Pound → Pound) : (s.modPound n f).cutRecs = s.cutRecs := rfl
@[simp] theorem modPound_portEnergy (s : State) (n : Nat) (f : Pound → Pound) : (s.modPound n f).portEnergy = s.portEnergy := rfl
@[simp] theorem modPound_saves (s : State) (n : Nat) (f : Pound → Pound) : (s.modPound n f).saves = s.saves := rfl
@[simp] theorem modPound_console (s : State) (n : Nat) (f : Pound → Pound) : (s.modPound n f).console = s.console := rfl
@[simp] theorem modPound_files (s : State) (n : Nat) (f : Pound → Pound) : (s.modPound n f).files = s.files := rfl
@[simp] theorem modPound_snivis (s : State) (n : Nat) (f : Pound → Pound) : (s.modPound n f).snivis = s.snivis := rfl
@[simp] theorem modPound_cur (s : State) (n : Nat) (f : Pound → Pound) : (s.modPound n f).cur = s.cur := rfl
@[simp] theorem modPound_agenda (s : State) (n : Nat) (f : Pound → Pound) : (s.modPound n f).agenda = s.agenda := rfl
@[simp] theorem modPound_freeCtr (s : State) (n : Nat) (f : Pound → Pound) : (s.modPound n f).freeCtr = s.freeCtr := rfl
@[simp] theorem modPound_seq (s : State) (n : Nat) (f : Pound → Pound) : (s.modPound n f).seq = s.seq := rfl
@[simp] theorem modPound_occurs (s : State) (n : Nat) (f : Pound → Pound) : (s.modPound n f).occurs = s.occurs := rfl
@[simp] theorem modPound_ages (s : State) (n : Nat) (f : Pound → Pound) : (s.modPound n f).ages = s.ages := rfl
@[simp] theorem modPound_noticed (s : State) (n : Nat) (f : Pound → Pound) : (s.modPound n f).noticed = s.noticed := rfl
@[simp] theorem modVd_mem (s : State) (n : Nat) (f : Vd → Vd) : (s.modVd n f).mem = s.mem := rfl
@[simp] theorem modVd_weights (s : State) (n : Nat) (f : Vd → Vd) : (s.modVd n f).weights = s.weights := rfl
@[simp] theorem modVd_lineKeys (s : State) (n : Nat) (f : Vd → Vd) : (s.modVd n f).lineKeys = s.lineKeys := rfl
@[simp] theorem modVd_keyGens (s : State) (n : Nat) (f : Vd → Vd) : (s.modVd n f).keyGens = s.keyGens := rfl
@[simp] theorem modVd_poisoned (s : State) (n : Nat) (f : Vd → Vd) : (s.modVd n f).poisoned = s.poisoned := rfl
@[simp] theorem modVd_cores (s : State) (n : Nat) (f : Vd → Vd) : (s.modVd n f).cores = s.cores := rfl
@[simp] theorem modVd_clusters (s : State) (n : Nat) (f : Vd → Vd) : (s.modVd n f).clusters = s.clusters := rfl
@[simp] theorem modVd_stk (s : State) (n : Nat) (f : Vd → Vd) : (s.modVd n f).stk = s.stk := rfl
@[simp] theorem modVd_net (s : State) (n : Nat) (f : Vd → Vd) : (s.modVd n f).net = s.net := rfl
@[simp] theorem modVd_remote (s : State) (n : Nat) (f : Vd → Vd) : (s.modVd n f).remote = s.remote := rfl
@[simp] theorem modVd_flight (s : State) (n : Nat) (f : Vd → Vd) : (s.modVd n f).flight = s.flight := rfl
@[simp] theorem modVd_walkers (s : State) (n : Nat) (f : Vd → Vd) : (s.modVd n f).walkers = s.walkers := rfl
@[simp] theorem modVd_answers (s : State) (n : Nat) (f : Vd → Vd) : (s.modVd n f).answers = s.answers := rfl
@[simp] theorem modVd_gangOps (s : State) (n : Nat) (f : Vd → Vd) : (s.modVd n f).gangOps = s.gangOps := rfl
@[simp] theorem modVd_pounds (s : State) (n : Nat) (f : Vd → Vd) : (s.modVd n f).pounds = s.pounds := rfl
@[simp] theorem modVd_shadow (s : State) (n : Nat) (f : Vd → Vd) : (s.modVd n f).shadow = s.shadow := rfl
@[simp] theorem modVd_journal (s : State) (n : Nat) (f : Vd → Vd) : (s.modVd n f).journal = s.journal := rfl
@[simp] theorem modVd_booted (s : State) (n : Nat) (f : Vd → Vd) : (s.modVd n f).booted = s.booted := rfl
@[simp] theorem modVd_devRegs (s : State) (n : Nat) (f : Vd → Vd) : (s.modVd n f).devRegs = s.devRegs := rfl
@[simp] theorem modVd_batches (s : State) (n : Nat) (f : Vd → Vd) : (s.modVd n f).batches = s.batches := rfl
@[simp] theorem modVd_egress (s : State) (n : Nat) (f : Vd → Vd) : (s.modVd n f).egress = s.egress := rfl
@[simp] theorem modVd_rmas (s : State) (n : Nat) (f : Vd → Vd) : (s.modVd n f).rmas = s.rmas := rfl
@[simp] theorem modVd_buckets (s : State) (n : Nat) (f : Vd → Vd) : (s.modVd n f).buckets = s.buckets := rfl
@[simp] theorem modVd_errors (s : State) (n : Nat) (f : Vd → Vd) : (s.modVd n f).errors = s.errors := rfl
@[simp] theorem modVd_mr (s : State) (n : Nat) (f : Vd → Vd) : (s.modVd n f).mr = s.mr := rfl
@[simp] theorem modVd_envelope (s : State) (n : Nat) (f : Vd → Vd) : (s.modVd n f).envelope = s.envelope := rfl
@[simp] theorem modVd_retired (s : State) (n : Nat) (f : Vd → Vd) : (s.modVd n f).retired = s.retired := rfl
@[simp] theorem modVd_cuts (s : State) (n : Nat) (f : Vd → Vd) : (s.modVd n f).cuts = s.cuts := rfl
@[simp] theorem modVd_checkpoints (s : State) (n : Nat) (f : Vd → Vd) : (s.modVd n f).checkpoints = s.checkpoints := rfl
@[simp] theorem modVd_cutRecs (s : State) (n : Nat) (f : Vd → Vd) : (s.modVd n f).cutRecs = s.cutRecs := rfl
@[simp] theorem modVd_portEnergy (s : State) (n : Nat) (f : Vd → Vd) : (s.modVd n f).portEnergy = s.portEnergy := rfl
@[simp] theorem modVd_saves (s : State) (n : Nat) (f : Vd → Vd) : (s.modVd n f).saves = s.saves := rfl
@[simp] theorem modVd_console (s : State) (n : Nat) (f : Vd → Vd) : (s.modVd n f).console = s.console := rfl
@[simp] theorem modVd_files (s : State) (n : Nat) (f : Vd → Vd) : (s.modVd n f).files = s.files := rfl
@[simp] theorem modVd_snivis (s : State) (n : Nat) (f : Vd → Vd) : (s.modVd n f).snivis = s.snivis := rfl
@[simp] theorem modVd_cur (s : State) (n : Nat) (f : Vd → Vd) : (s.modVd n f).cur = s.cur := rfl
@[simp] theorem modVd_agenda (s : State) (n : Nat) (f : Vd → Vd) : (s.modVd n f).agenda = s.agenda := rfl
@[simp] theorem modVd_freeCtr (s : State) (n : Nat) (f : Vd → Vd) : (s.modVd n f).freeCtr = s.freeCtr := rfl
@[simp] theorem modVd_seq (s : State) (n : Nat) (f : Vd → Vd) : (s.modVd n f).seq = s.seq := rfl
@[simp] theorem modVd_occurs (s : State) (n : Nat) (f : Vd → Vd) : (s.modVd n f).occurs = s.occurs := rfl
@[simp] theorem modVd_ages (s : State) (n : Nat) (f : Vd → Vd) : (s.modVd n f).ages = s.ages := rfl
@[simp] theorem modVd_noticed (s : State) (n : Nat) (f : Vd → Vd) : (s.modVd n f).noticed = s.noticed := rfl
@[simp] theorem note_mem (s : State) (o : Occur) : (s.note o).mem = s.mem := rfl
@[simp] theorem note_weights (s : State) (o : Occur) : (s.note o).weights = s.weights := rfl
@[simp] theorem note_lineKeys (s : State) (o : Occur) : (s.note o).lineKeys = s.lineKeys := rfl
@[simp] theorem note_keyGens (s : State) (o : Occur) : (s.note o).keyGens = s.keyGens := rfl
@[simp] theorem note_poisoned (s : State) (o : Occur) : (s.note o).poisoned = s.poisoned := rfl
@[simp] theorem note_cores (s : State) (o : Occur) : (s.note o).cores = s.cores := rfl
@[simp] theorem note_clusters (s : State) (o : Occur) : (s.note o).clusters = s.clusters := rfl
@[simp] theorem note_stk (s : State) (o : Occur) : (s.note o).stk = s.stk := rfl
@[simp] theorem note_net (s : State) (o : Occur) : (s.note o).net = s.net := rfl
@[simp] theorem note_remote (s : State) (o : Occur) : (s.note o).remote = s.remote := rfl
@[simp] theorem note_flight (s : State) (o : Occur) : (s.note o).flight = s.flight := rfl
@[simp] theorem note_walkers (s : State) (o : Occur) : (s.note o).walkers = s.walkers := rfl
@[simp] theorem note_answers (s : State) (o : Occur) : (s.note o).answers = s.answers := rfl
@[simp] theorem note_gangOps (s : State) (o : Occur) : (s.note o).gangOps = s.gangOps := rfl
@[simp] theorem note_pounds (s : State) (o : Occur) : (s.note o).pounds = s.pounds := rfl
@[simp] theorem note_shadow (s : State) (o : Occur) : (s.note o).shadow = s.shadow := rfl
@[simp] theorem note_journal (s : State) (o : Occur) : (s.note o).journal = s.journal := rfl
@[simp] theorem note_vds (s : State) (o : Occur) : (s.note o).vds = s.vds := rfl
@[simp] theorem note_booted (s : State) (o : Occur) : (s.note o).booted = s.booted := rfl
@[simp] theorem note_devRegs (s : State) (o : Occur) : (s.note o).devRegs = s.devRegs := rfl
@[simp] theorem note_batches (s : State) (o : Occur) : (s.note o).batches = s.batches := rfl
@[simp] theorem note_egress (s : State) (o : Occur) : (s.note o).egress = s.egress := rfl
@[simp] theorem note_rmas (s : State) (o : Occur) : (s.note o).rmas = s.rmas := rfl
@[simp] theorem note_buckets (s : State) (o : Occur) : (s.note o).buckets = s.buckets := rfl
@[simp] theorem note_errors (s : State) (o : Occur) : (s.note o).errors = s.errors := rfl
@[simp] theorem note_mr (s : State) (o : Occur) : (s.note o).mr = s.mr := rfl
@[simp] theorem note_envelope (s : State) (o : Occur) : (s.note o).envelope = s.envelope := rfl
@[simp] theorem note_retired (s : State) (o : Occur) : (s.note o).retired = s.retired := rfl
@[simp] theorem note_cuts (s : State) (o : Occur) : (s.note o).cuts = s.cuts := rfl
@[simp] theorem note_checkpoints (s : State) (o : Occur) : (s.note o).checkpoints = s.checkpoints := rfl
@[simp] theorem note_cutRecs (s : State) (o : Occur) : (s.note o).cutRecs = s.cutRecs := rfl
@[simp] theorem note_portEnergy (s : State) (o : Occur) : (s.note o).portEnergy = s.portEnergy := rfl
@[simp] theorem note_saves (s : State) (o : Occur) : (s.note o).saves = s.saves := rfl
@[simp] theorem note_console (s : State) (o : Occur) : (s.note o).console = s.console := rfl
@[simp] theorem note_files (s : State) (o : Occur) : (s.note o).files = s.files := rfl
@[simp] theorem note_snivis (s : State) (o : Occur) : (s.note o).snivis = s.snivis := rfl
@[simp] theorem note_cur (s : State) (o : Occur) : (s.note o).cur = s.cur := rfl
@[simp] theorem note_agenda (s : State) (o : Occur) : (s.note o).agenda = s.agenda := rfl
@[simp] theorem note_freeCtr (s : State) (o : Occur) : (s.note o).freeCtr = s.freeCtr := rfl
@[simp] theorem note_seq (s : State) (o : Occur) : (s.note o).seq = s.seq := rfl
@[simp] theorem retire_mem (s : State) (cls : Nat) (pc : Word) : (s.retire cls pc).mem = s.mem := rfl
@[simp] theorem retire_weights (s : State) (cls : Nat) (pc : Word) : (s.retire cls pc).weights = s.weights := rfl
@[simp] theorem retire_lineKeys (s : State) (cls : Nat) (pc : Word) : (s.retire cls pc).lineKeys = s.lineKeys := rfl
@[simp] theorem retire_keyGens (s : State) (cls : Nat) (pc : Word) : (s.retire cls pc).keyGens = s.keyGens := rfl
@[simp] theorem retire_poisoned (s : State) (cls : Nat) (pc : Word) : (s.retire cls pc).poisoned = s.poisoned := rfl
@[simp] theorem retire_clusters (s : State) (cls : Nat) (pc : Word) : (s.retire cls pc).clusters = s.clusters := rfl
@[simp] theorem retire_stk (s : State) (cls : Nat) (pc : Word) : (s.retire cls pc).stk = s.stk := rfl
@[simp] theorem retire_net (s : State) (cls : Nat) (pc : Word) : (s.retire cls pc).net = s.net := rfl
@[simp] theorem retire_remote (s : State) (cls : Nat) (pc : Word) : (s.retire cls pc).remote = s.remote := rfl
@[simp] theorem retire_flight (s : State) (cls : Nat) (pc : Word) : (s.retire cls pc).flight = s.flight := rfl
@[simp] theorem retire_walkers (s : State) (cls : Nat) (pc : Word) : (s.retire cls pc).walkers = s.walkers := rfl
@[simp] theorem retire_answers (s : State) (cls : Nat) (pc : Word) : (s.retire cls pc).answers = s.answers := rfl
@[simp] theorem retire_gangOps (s : State) (cls : Nat) (pc : Word) : (s.retire cls pc).gangOps = s.gangOps := rfl
@[simp] theorem retire_pounds (s : State) (cls : Nat) (pc : Word) : (s.retire cls pc).pounds = s.pounds := rfl
@[simp] theorem retire_shadow (s : State) (cls : Nat) (pc : Word) : (s.retire cls pc).shadow = s.shadow := rfl
@[simp] theorem retire_journal (s : State) (cls : Nat) (pc : Word) : (s.retire cls pc).journal = s.journal := rfl
@[simp] theorem retire_vds (s : State) (cls : Nat) (pc : Word) : (s.retire cls pc).vds = s.vds := rfl
@[simp] theorem retire_booted (s : State) (cls : Nat) (pc : Word) : (s.retire cls pc).booted = s.booted := rfl
@[simp] theorem retire_devRegs (s : State) (cls : Nat) (pc : Word) : (s.retire cls pc).devRegs = s.devRegs := rfl
@[simp] theorem retire_batches (s : State) (cls : Nat) (pc : Word) : (s.retire cls pc).batches = s.batches := rfl
@[simp] theorem retire_egress (s : State) (cls : Nat) (pc : Word) : (s.retire cls pc).egress = s.egress := rfl
@[simp] theorem retire_rmas (s : State) (cls : Nat) (pc : Word) : (s.retire cls pc).rmas = s.rmas := rfl
@[simp] theorem retire_buckets (s : State) (cls : Nat) (pc : Word) : (s.retire cls pc).buckets = s.buckets := rfl
@[simp] theorem retire_errors (s : State) (cls : Nat) (pc : Word) : (s.retire cls pc).errors = s.errors := rfl
@[simp] theorem retire_mr (s : State) (cls : Nat) (pc : Word) : (s.retire cls pc).mr = s.mr := rfl
@[simp] theorem retire_envelope (s : State) (cls : Nat) (pc : Word) : (s.retire cls pc).envelope = s.envelope := rfl
@[simp] theorem retire_retired (s : State) (cls : Nat) (pc : Word) : (s.retire cls pc).retired = s.retired := rfl
@[simp] theorem retire_cuts (s : State) (cls : Nat) (pc : Word) : (s.retire cls pc).cuts = s.cuts := rfl
@[simp] theorem retire_checkpoints (s : State) (cls : Nat) (pc : Word) : (s.retire cls pc).checkpoints = s.checkpoints := rfl
@[simp] theorem retire_cutRecs (s : State) (cls : Nat) (pc : Word) : (s.retire cls pc).cutRecs = s.cutRecs := rfl
@[simp] theorem retire_portEnergy (s : State) (cls : Nat) (pc : Word) : (s.retire cls pc).portEnergy = s.portEnergy := rfl
@[simp] theorem retire_saves (s : State) (cls : Nat) (pc : Word) : (s.retire cls pc).saves = s.saves := rfl
@[simp] theorem retire_console (s : State) (cls : Nat) (pc : Word) : (s.retire cls pc).console = s.console := rfl
@[simp] theorem retire_files (s : State) (cls : Nat) (pc : Word) : (s.retire cls pc).files = s.files := rfl
@[simp] theorem retire_snivis (s : State) (cls : Nat) (pc : Word) : (s.retire cls pc).snivis = s.snivis := rfl
@[simp] theorem retire_cur (s : State) (cls : Nat) (pc : Word) : (s.retire cls pc).cur = s.cur := rfl
@[simp] theorem retire_agenda (s : State) (cls : Nat) (pc : Word) : (s.retire cls pc).agenda = s.agenda := rfl
@[simp] theorem retire_freeCtr (s : State) (cls : Nat) (pc : Word) : (s.retire cls pc).freeCtr = s.freeCtr := rfl
@[simp] theorem retire_seq (s : State) (cls : Nat) (pc : Word) : (s.retire cls pc).seq = s.seq := rfl
@[simp] theorem countError_mem (s : State) (b i : Nat) : (s.countError b i).mem = s.mem := rfl
@[simp] theorem countError_weights (s : State) (b i : Nat) : (s.countError b i).weights = s.weights := rfl
@[simp] theorem countError_lineKeys (s : State) (b i : Nat) : (s.countError b i).lineKeys = s.lineKeys := rfl
@[simp] theorem countError_keyGens (s : State) (b i : Nat) : (s.countError b i).keyGens = s.keyGens := rfl
@[simp] theorem countError_poisoned (s : State) (b i : Nat) : (s.countError b i).poisoned = s.poisoned := rfl
@[simp] theorem countError_cores (s : State) (b i : Nat) : (s.countError b i).cores = s.cores := rfl
@[simp] theorem countError_clusters (s : State) (b i : Nat) : (s.countError b i).clusters = s.clusters := rfl
@[simp] theorem countError_stk (s : State) (b i : Nat) : (s.countError b i).stk = s.stk := rfl
@[simp] theorem countError_net (s : State) (b i : Nat) : (s.countError b i).net = s.net := rfl
@[simp] theorem countError_remote (s : State) (b i : Nat) : (s.countError b i).remote = s.remote := rfl
@[simp] theorem countError_flight (s : State) (b i : Nat) : (s.countError b i).flight = s.flight := rfl
@[simp] theorem countError_walkers (s : State) (b i : Nat) : (s.countError b i).walkers = s.walkers := rfl
@[simp] theorem countError_answers (s : State) (b i : Nat) : (s.countError b i).answers = s.answers := rfl
@[simp] theorem countError_gangOps (s : State) (b i : Nat) : (s.countError b i).gangOps = s.gangOps := rfl
@[simp] theorem countError_pounds (s : State) (b i : Nat) : (s.countError b i).pounds = s.pounds := rfl
@[simp] theorem countError_shadow (s : State) (b i : Nat) : (s.countError b i).shadow = s.shadow := rfl
@[simp] theorem countError_journal (s : State) (b i : Nat) : (s.countError b i).journal = s.journal := rfl
@[simp] theorem countError_vds (s : State) (b i : Nat) : (s.countError b i).vds = s.vds := rfl
@[simp] theorem countError_booted (s : State) (b i : Nat) : (s.countError b i).booted = s.booted := rfl
@[simp] theorem countError_devRegs (s : State) (b i : Nat) : (s.countError b i).devRegs = s.devRegs := rfl
@[simp] theorem countError_batches (s : State) (b i : Nat) : (s.countError b i).batches = s.batches := rfl
@[simp] theorem countError_egress (s : State) (b i : Nat) : (s.countError b i).egress = s.egress := rfl
@[simp] theorem countError_rmas (s : State) (b i : Nat) : (s.countError b i).rmas = s.rmas := rfl
@[simp] theorem countError_buckets (s : State) (b i : Nat) : (s.countError b i).buckets = s.buckets := rfl
@[simp] theorem countError_mr (s : State) (b i : Nat) : (s.countError b i).mr = s.mr := rfl
@[simp] theorem countError_envelope (s : State) (b i : Nat) : (s.countError b i).envelope = s.envelope := rfl
@[simp] theorem countError_retired (s : State) (b i : Nat) : (s.countError b i).retired = s.retired := rfl
@[simp] theorem countError_cuts (s : State) (b i : Nat) : (s.countError b i).cuts = s.cuts := rfl
@[simp] theorem countError_checkpoints (s : State) (b i : Nat) : (s.countError b i).checkpoints = s.checkpoints := rfl
@[simp] theorem countError_cutRecs (s : State) (b i : Nat) : (s.countError b i).cutRecs = s.cutRecs := rfl
@[simp] theorem countError_portEnergy (s : State) (b i : Nat) : (s.countError b i).portEnergy = s.portEnergy := rfl
@[simp] theorem countError_saves (s : State) (b i : Nat) : (s.countError b i).saves = s.saves := rfl
@[simp] theorem countError_console (s : State) (b i : Nat) : (s.countError b i).console = s.console := rfl
@[simp] theorem countError_files (s : State) (b i : Nat) : (s.countError b i).files = s.files := rfl
@[simp] theorem countError_snivis (s : State) (b i : Nat) : (s.countError b i).snivis = s.snivis := rfl
@[simp] theorem countError_cur (s : State) (b i : Nat) : (s.countError b i).cur = s.cur := rfl
@[simp] theorem countError_agenda (s : State) (b i : Nat) : (s.countError b i).agenda = s.agenda := rfl
@[simp] theorem countError_freeCtr (s : State) (b i : Nat) : (s.countError b i).freeCtr = s.freeCtr := rfl
@[simp] theorem countError_seq (s : State) (b i : Nat) : (s.countError b i).seq = s.seq := rfl
@[simp] theorem countError_occurs (s : State) (b i : Nat) : (s.countError b i).occurs = s.occurs := rfl
@[simp] theorem countError_ages (s : State) (b i : Nat) : (s.countError b i).ages = s.ages := rfl
@[simp] theorem countError_noticed (s : State) (b i : Nat) : (s.countError b i).noticed = s.noticed := rfl

end Sys2Proof.Machine
end

