-- ==== Sys2Proof/Laws/Flags.lean ====
section
/-!
SUPPORT. What raising flags leaves as it was (R88, R183, R246), and what it gives.
-/

namespace Sys2Proof.Machine

theorem ctx_raiseFlags (s : State) (f : BitVec 5) :
    (s.raiseFlags f).ctx = { s.ctx with fpflags := s.ctx.fpflags ||| f.setWidth 64 } := by
  unfold State.raiseFlags
  split
  · rename_i h; subst h; simp
  · dsimp only
    split <;> simp

@[simp] theorem raiseFlags_ctx_pc (s : State) (f : BitVec 5) : (s.raiseFlags f).ctx.pc = s.ctx.pc := by rw [ctx_raiseFlags]
@[simp] theorem countEvents_pc (c : Ctx) (n : Nat) (e : BitVec 4) : (c.countEvents n e).pc = c.pc := by unfold Ctx.countEvents; split <;> rfl
@[simp] theorem raiseFlags_ctx_x (s : State) (f : BitVec 5) : (s.raiseFlags f).ctx.x = s.ctx.x := by rw [ctx_raiseFlags]
@[simp] theorem countEvents_x (c : Ctx) (n : Nat) (e : BitVec 4) : (c.countEvents n e).x = c.x := by unfold Ctx.countEvents; split <;> rfl
@[simp] theorem raiseFlags_ctx_v (s : State) (f : BitVec 5) : (s.raiseFlags f).ctx.v = s.ctx.v := by rw [ctx_raiseFlags]
@[simp] theorem countEvents_v (c : Ctx) (n : Nat) (e : BitVec 4) : (c.countEvents n e).v = c.v := by unfold Ctx.countEvents; split <;> rfl
@[simp] theorem raiseFlags_ctx_m (s : State) (f : BitVec 5) : (s.raiseFlags f).ctx.m = s.ctx.m := by rw [ctx_raiseFlags]
@[simp] theorem countEvents_m (c : Ctx) (n : Nat) (e : BitVec 4) : (c.countEvents n e).m = c.m := by unfold Ctx.countEvents; split <;> rfl
@[simp] theorem raiseFlags_ctx_w (s : State) (f : BitVec 5) : (s.raiseFlags f).ctx.w = s.ctx.w := by rw [ctx_raiseFlags]
@[simp] theorem countEvents_w (c : Ctx) (n : Nat) (e : BitVec 4) : (c.countEvents n e).w = c.w := by unfold Ctx.countEvents; split <;> rfl
@[simp] theorem raiseFlags_ctx_q (s : State) (f : BitVec 5) : (s.raiseFlags f).ctx.q = s.ctx.q := by rw [ctx_raiseFlags]
@[simp] theorem countEvents_q (c : Ctx) (n : Nat) (e : BitVec 4) : (c.countEvents n e).q = c.q := by unfold Ctx.countEvents; split <;> rfl
@[simp] theorem raiseFlags_ctx_xfull (s : State) (f : BitVec 5) : (s.raiseFlags f).ctx.xfull = s.ctx.xfull := by rw [ctx_raiseFlags]
@[simp] theorem countEvents_xfull (c : Ctx) (n : Nat) (e : BitVec 4) : (c.countEvents n e).xfull = c.xfull := by unfold Ctx.countEvents; split <;> rfl
@[simp] theorem raiseFlags_ctx_vfull (s : State) (f : BitVec 5) : (s.raiseFlags f).ctx.vfull = s.ctx.vfull := by rw [ctx_raiseFlags]
@[simp] theorem countEvents_vfull (c : Ctx) (n : Nat) (e : BitVec 4) : (c.countEvents n e).vfull = c.vfull := by unfold Ctx.countEvents; split <;> rfl
@[simp] theorem raiseFlags_ctx_wfull (s : State) (f : BitVec 5) : (s.raiseFlags f).ctx.wfull = s.ctx.wfull := by rw [ctx_raiseFlags]
@[simp] theorem countEvents_wfull (c : Ctx) (n : Nat) (e : BitVec 4) : (c.countEvents n e).wfull = c.wfull := by unfold Ctx.countEvents; split <;> rfl
@[simp] theorem raiseFlags_ctx_state (s : State) (f : BitVec 5) : (s.raiseFlags f).ctx.state = s.ctx.state := by rw [ctx_raiseFlags]
@[simp] theorem countEvents_state (c : Ctx) (n : Nat) (e : BitVec 4) : (c.countEvents n e).state = c.state := by unfold Ctx.countEvents; split <;> rfl
@[simp] theorem raiseFlags_ctx_mstat (s : State) (f : BitVec 5) : (s.raiseFlags f).ctx.mstat = s.ctx.mstat := by rw [ctx_raiseFlags]
@[simp] theorem countEvents_mstat (c : Ctx) (n : Nat) (e : BitVec 4) : (c.countEvents n e).mstat = c.mstat := by unfold Ctx.countEvents; split <;> rfl
@[simp] theorem raiseFlags_ctx_fpctl (s : State) (f : BitVec 5) : (s.raiseFlags f).ctx.fpctl = s.ctx.fpctl := by rw [ctx_raiseFlags]
@[simp] theorem countEvents_fpctl (c : Ctx) (n : Nat) (e : BitVec 4) : (c.countEvents n e).fpctl = c.fpctl := by unfold Ctx.countEvents; split <;> rfl
@[simp] theorem countEvents_fpflags (c : Ctx) (n : Nat) (e : BitVec 4) : (c.countEvents n e).fpflags = c.fpflags := by unfold Ctx.countEvents; split <;> rfl
@[simp] theorem raiseFlags_ctx_wdleft (s : State) (f : BitVec 5) : (s.raiseFlags f).ctx.wdleft = s.ctx.wdleft := by rw [ctx_raiseFlags]
@[simp] theorem countEvents_wdleft (c : Ctx) (n : Nat) (e : BitVec 4) : (c.countEvents n e).wdleft = c.wdleft := by unfold Ctx.countEvents; split <;> rfl
@[simp] theorem raiseFlags_ctx_owe (s : State) (f : BitVec 5) : (s.raiseFlags f).ctx.owe = s.ctx.owe := by rw [ctx_raiseFlags]
@[simp] theorem countEvents_owe (c : Ctx) (n : Nat) (e : BitVec 4) : (c.countEvents n e).owe = c.owe := by unfold Ctx.countEvents; split <;> rfl
@[simp] theorem raiseFlags_ctx_rcbptr (s : State) (f : BitVec 5) : (s.raiseFlags f).ctx.rcbptr = s.ctx.rcbptr := by rw [ctx_raiseFlags]
@[simp] theorem countEvents_rcbptr (c : Ctx) (n : Nat) (e : BitVec 4) : (c.countEvents n e).rcbptr = c.rcbptr := by unfold Ctx.countEvents; split <;> rfl
@[simp] theorem raiseFlags_ctx_entry (s : State) (f : BitVec 5) : (s.raiseFlags f).ctx.entry = s.ctx.entry := by rw [ctx_raiseFlags]
@[simp] theorem countEvents_entry (c : Ctx) (n : Nat) (e : BitVec 4) : (c.countEvents n e).entry = c.entry := by unfold Ctx.countEvents; split <;> rfl
@[simp] theorem raiseFlags_ctx_start4 (s : State) (f : BitVec 5) : (s.raiseFlags f).ctx.start4 = s.ctx.start4 := by rw [ctx_raiseFlags]
@[simp] theorem countEvents_start4 (c : Ctx) (n : Nat) (e : BitVec 4) : (c.countEvents n e).start4 = c.start4 := by unfold Ctx.countEvents; split <;> rfl
@[simp] theorem raiseFlags_ctx_start5 (s : State) (f : BitVec 5) : (s.raiseFlags f).ctx.start5 = s.ctx.start5 := by rw [ctx_raiseFlags]
@[simp] theorem countEvents_start5 (c : Ctx) (n : Nat) (e : BitVec 4) : (c.countEvents n e).start5 = c.start5 := by unfold Ctx.countEvents; split <;> rfl
@[simp] theorem raiseFlags_ctx_fpc (s : State) (f : BitVec 5) : (s.raiseFlags f).ctx.fpc = s.ctx.fpc := by rw [ctx_raiseFlags]
@[simp] theorem countEvents_fpc (c : Ctx) (n : Nat) (e : BitVec 4) : (c.countEvents n e).fpc = c.fpc := by unfold Ctx.countEvents; split <;> rfl
@[simp] theorem raiseFlags_ctx_acqL1 (s : State) (f : BitVec 5) : (s.raiseFlags f).ctx.acqL1 = s.ctx.acqL1 := by rw [ctx_raiseFlags]
@[simp] theorem countEvents_acqL1 (c : Ctx) (n : Nat) (e : BitVec 4) : (c.countEvents n e).acqL1 = c.acqL1 := by unfold Ctx.countEvents; split <;> rfl
@[simp] theorem raiseFlags_ctx_acqCl (s : State) (f : BitVec 5) : (s.raiseFlags f).ctx.acqCl = s.ctx.acqCl := by rw [ctx_raiseFlags]
@[simp] theorem countEvents_acqCl (c : Ctx) (n : Nat) (e : BitVec 4) : (c.countEvents n e).acqCl = c.acqCl := by unfold Ctx.countEvents; split <;> rfl
@[simp] theorem raiseFlags_ctx_group (s : State) (f : BitVec 5) : (s.raiseFlags f).ctx.group = s.ctx.group := by rw [ctx_raiseFlags]
@[simp] theorem countEvents_group (c : Ctx) (n : Nat) (e : BitVec 4) : (c.countEvents n e).group = c.group := by unfold Ctx.countEvents; split <;> rfl
@[simp] theorem raiseFlags_ctx_ir (s : State) (f : BitVec 5) : (s.raiseFlags f).ctx.ir = s.ctx.ir := by rw [ctx_raiseFlags]
@[simp] theorem countEvents_ir (c : Ctx) (n : Nat) (e : BitVec 4) : (c.countEvents n e).ir = c.ir := by unfold Ctx.countEvents; split <;> rfl
@[simp] theorem raiseFlags_ctx_prio (s : State) (f : BitVec 5) : (s.raiseFlags f).ctx.prio = s.ctx.prio := by rw [ctx_raiseFlags]
@[simp] theorem countEvents_prio (c : Ctx) (n : Nat) (e : BitVec 4) : (c.countEvents n e).prio = c.prio := by unfold Ctx.countEvents; split <;> rfl
@[simp] theorem raiseFlags_ctx_prioLeft (s : State) (f : BitVec 5) : (s.raiseFlags f).ctx.prioLeft = s.ctx.prioLeft := by rw [ctx_raiseFlags]
@[simp] theorem countEvents_prioLeft (c : Ctx) (n : Nat) (e : BitVec 4) : (c.countEvents n e).prioLeft = c.prioLeft := by unfold Ctx.countEvents; split <;> rfl
@[simp] theorem raiseFlags_ctx_rep (s : State) (f : BitVec 5) : (s.raiseFlags f).ctx.rep = s.ctx.rep := by rw [ctx_raiseFlags]
@[simp] theorem countEvents_rep (c : Ctx) (n : Nat) (e : BitVec 4) : (c.countEvents n e).rep = c.rep := by unfold Ctx.countEvents; split <;> rfl
@[simp] theorem raiseFlags_ctx_pends (s : State) (f : BitVec 5) : (s.raiseFlags f).ctx.pends = s.ctx.pends := by rw [ctx_raiseFlags]
@[simp] theorem countEvents_pends (c : Ctx) (n : Nat) (e : BitVec 4) : (c.countEvents n e).pends = c.pends := by unfold Ctx.countEvents; split <;> rfl
@[simp] theorem raiseFlags_ctx_stall (s : State) (f : BitVec 5) : (s.raiseFlags f).ctx.stall = s.ctx.stall := by rw [ctx_raiseFlags]
@[simp] theorem countEvents_stall (c : Ctx) (n : Nat) (e : BitVec 4) : (c.countEvents n e).stall = c.stall := by unfold Ctx.countEvents; split <;> rfl
@[simp] theorem raiseFlags_ctx_deferred (s : State) (f : BitVec 5) : (s.raiseFlags f).ctx.deferred = s.ctx.deferred := by rw [ctx_raiseFlags]
@[simp] theorem countEvents_deferred (c : Ctx) (n : Nat) (e : BitVec 4) : (c.countEvents n e).deferred = c.deferred := by unfold Ctx.countEvents; split <;> rfl
@[simp] theorem raiseFlags_ctx_fpDelta (s : State) (f : BitVec 5) : (s.raiseFlags f).ctx.fpDelta = s.ctx.fpDelta := by rw [ctx_raiseFlags]
@[simp] theorem raiseFlags_ctx_arrival (s : State) (f : BitVec 5) : (s.raiseFlags f).ctx.arrival = s.ctx.arrival := by rw [ctx_raiseFlags]
@[simp] theorem countEvents_arrival (c : Ctx) (n : Nat) (e : BitVec 4) : (c.countEvents n e).arrival = c.arrival := by unfold Ctx.countEvents; split <;> rfl
@[simp] theorem raiseFlags_ctx_stepping (s : State) (f : BitVec 5) : (s.raiseFlags f).ctx.stepping = s.ctx.stepping := by rw [ctx_raiseFlags]
@[simp] theorem countEvents_stepping (c : Ctx) (n : Nat) (e : BitVec 4) : (c.countEvents n e).stepping = c.stepping := by unfold Ctx.countEvents; split <;> rfl
@[simp] theorem raiseFlags_ctx_stopReq (s : State) (f : BitVec 5) : (s.raiseFlags f).ctx.stopReq = s.ctx.stopReq := by rw [ctx_raiseFlags]
@[simp] theorem countEvents_stopReq (c : Ctx) (n : Nat) (e : BitVec 4) : (c.countEvents n e).stopReq = c.stopReq := by unfold Ctx.countEvents; split <;> rfl
@[simp] theorem raiseFlags_ctx_slot (s : State) (f : BitVec 5) : (s.raiseFlags f).ctx.slot = s.ctx.slot := by rw [ctx_raiseFlags]
@[simp] theorem countEvents_slot (c : Ctx) (n : Nat) (e : BitVec 4) : (c.countEvents n e).slot = c.slot := by unfold Ctx.countEvents; split <;> rfl
@[simp] theorem raiseFlags_ctx_startScope (s : State) (f : BitVec 5) : (s.raiseFlags f).ctx.startScope = s.ctx.startScope := by rw [ctx_raiseFlags]
@[simp] theorem countEvents_startScope (c : Ctx) (n : Nat) (e : BitVec 4) : (c.countEvents n e).startScope = c.startScope := by unfold Ctx.countEvents; split <;> rfl
@[simp] theorem raiseFlags_ctx_region (s : State) (f : BitVec 5) : (s.raiseFlags f).ctx.region = s.ctx.region := by rw [ctx_raiseFlags]
@[simp] theorem countEvents_region (c : Ctx) (n : Nat) (e : BitVec 4) : (c.countEvents n e).region = c.region := by unfold Ctx.countEvents; split <;> rfl
@[simp] theorem raiseFlags_ctx_live (s : State) (f : BitVec 5) : (s.raiseFlags f).ctx.live = s.ctx.live := by rw [ctx_raiseFlags]
@[simp] theorem countEvents_live (c : Ctx) (n : Nat) (e : BitVec 4) : (c.countEvents n e).live = c.live := by unfold Ctx.countEvents; split <;> rfl
@[simp] theorem raiseFlags_ctx_since (s : State) (f : BitVec 5) : (s.raiseFlags f).ctx.since = s.ctx.since := by rw [ctx_raiseFlags]
@[simp] theorem countEvents_since (c : Ctx) (n : Nat) (e : BitVec 4) : (c.countEvents n e).since = c.since := by unfold Ctx.countEvents; split <;> rfl
@[simp] theorem raiseFlags_ctx_claim (s : State) (f : BitVec 5) : (s.raiseFlags f).ctx.claim = s.ctx.claim := by rw [ctx_raiseFlags]
@[simp] theorem countEvents_claim (c : Ctx) (n : Nat) (e : BitVec 4) : (c.countEvents n e).claim = c.claim := by unfold Ctx.countEvents; split <;> rfl
@[simp] theorem raiseFlags_ctx_startCover (s : State) (f : BitVec 5) : (s.raiseFlags f).ctx.startCover = s.ctx.startCover := by rw [ctx_raiseFlags]
@[simp] theorem countEvents_startCover (c : Ctx) (n : Nat) (e : BitVec 4) : (c.countEvents n e).startCover = c.startCover := by unfold Ctx.countEvents; split <;> rfl
@[simp] theorem raiseFlags_ctx_cbRet (s : State) (f : BitVec 5) : (s.raiseFlags f).ctx.cbRet = s.ctx.cbRet := by rw [ctx_raiseFlags]
@[simp] theorem countEvents_cbRet (c : Ctx) (n : Nat) (e : BitVec 4) : (c.countEvents n e).cbRet = c.cbRet := by unfold Ctx.countEvents; split <;> rfl
@[simp] theorem raiseFlags_ctx_forced (s : State) (f : BitVec 5) : (s.raiseFlags f).ctx.forced = s.ctx.forced := by rw [ctx_raiseFlags]
@[simp] theorem raiseFlags_ctx_barred (s : State) (f : BitVec 5) : (s.raiseFlags f).ctx.barred = s.ctx.barred := by rw [ctx_raiseFlags]
@[simp] theorem countEvents_forced (c : Ctx) (n : Nat) (e : BitVec 4) : (c.countEvents n e).forced = c.forced := by unfold Ctx.countEvents; split <;> rfl
@[simp] theorem countEvents_barred (c : Ctx) (n : Nat) (e : BitVec 4) : (c.countEvents n e).barred = c.barred := by unfold Ctx.countEvents; split <;> rfl
@[simp] theorem scalarFlags_ctx_pc (s : State) (f : Fmt) (o : FOut) : (s.scalarFlags f o).ctx.pc = s.ctx.pc := by unfold State.scalarFlags; split <;> simp
@[simp] theorem scalarFlags_ctx_x (s : State) (f : Fmt) (o : FOut) : (s.scalarFlags f o).ctx.x = s.ctx.x := by unfold State.scalarFlags; split <;> simp
@[simp] theorem scalarFlags_ctx_v (s : State) (f : Fmt) (o : FOut) : (s.scalarFlags f o).ctx.v = s.ctx.v := by unfold State.scalarFlags; split <;> simp
@[simp] theorem scalarFlags_ctx_m (s : State) (f : Fmt) (o : FOut) : (s.scalarFlags f o).ctx.m = s.ctx.m := by unfold State.scalarFlags; split <;> simp
@[simp] theorem scalarFlags_ctx_w (s : State) (f : Fmt) (o : FOut) : (s.scalarFlags f o).ctx.w = s.ctx.w := by unfold State.scalarFlags; split <;> simp
@[simp] theorem scalarFlags_ctx_q (s : State) (f : Fmt) (o : FOut) : (s.scalarFlags f o).ctx.q = s.ctx.q := by unfold State.scalarFlags; split <;> simp
@[simp] theorem scalarFlags_ctx_xfull (s : State) (f : Fmt) (o : FOut) : (s.scalarFlags f o).ctx.xfull = s.ctx.xfull := by unfold State.scalarFlags; split <;> simp
@[simp] theorem scalarFlags_ctx_vfull (s : State) (f : Fmt) (o : FOut) : (s.scalarFlags f o).ctx.vfull = s.ctx.vfull := by unfold State.scalarFlags; split <;> simp
@[simp] theorem scalarFlags_ctx_wfull (s : State) (f : Fmt) (o : FOut) : (s.scalarFlags f o).ctx.wfull = s.ctx.wfull := by unfold State.scalarFlags; split <;> simp
@[simp] theorem scalarFlags_ctx_state (s : State) (f : Fmt) (o : FOut) : (s.scalarFlags f o).ctx.state = s.ctx.state := by unfold State.scalarFlags; split <;> simp
@[simp] theorem scalarFlags_ctx_mstat (s : State) (f : Fmt) (o : FOut) : (s.scalarFlags f o).ctx.mstat = s.ctx.mstat := by unfold State.scalarFlags; split <;> simp
@[simp] theorem scalarFlags_ctx_fpctl (s : State) (f : Fmt) (o : FOut) : (s.scalarFlags f o).ctx.fpctl = s.ctx.fpctl := by unfold State.scalarFlags; split <;> simp
@[simp] theorem scalarFlags_ctx_wdleft (s : State) (f : Fmt) (o : FOut) : (s.scalarFlags f o).ctx.wdleft = s.ctx.wdleft := by unfold State.scalarFlags; split <;> simp
@[simp] theorem scalarFlags_ctx_owe (s : State) (f : Fmt) (o : FOut) : (s.scalarFlags f o).ctx.owe = s.ctx.owe := by unfold State.scalarFlags; split <;> simp
@[simp] theorem scalarFlags_ctx_rcbptr (s : State) (f : Fmt) (o : FOut) : (s.scalarFlags f o).ctx.rcbptr = s.ctx.rcbptr := by unfold State.scalarFlags; split <;> simp
@[simp] theorem scalarFlags_ctx_entry (s : State) (f : Fmt) (o : FOut) : (s.scalarFlags f o).ctx.entry = s.ctx.entry := by unfold State.scalarFlags; split <;> simp
@[simp] theorem scalarFlags_ctx_start4 (s : State) (f : Fmt) (o : FOut) : (s.scalarFlags f o).ctx.start4 = s.ctx.start4 := by unfold State.scalarFlags; split <;> simp
@[simp] theorem scalarFlags_ctx_start5 (s : State) (f : Fmt) (o : FOut) : (s.scalarFlags f o).ctx.start5 = s.ctx.start5 := by unfold State.scalarFlags; split <;> simp
@[simp] theorem scalarFlags_ctx_fpc (s : State) (f : Fmt) (o : FOut) : (s.scalarFlags f o).ctx.fpc = s.ctx.fpc := by unfold State.scalarFlags; split <;> simp
@[simp] theorem scalarFlags_ctx_acqL1 (s : State) (f : Fmt) (o : FOut) : (s.scalarFlags f o).ctx.acqL1 = s.ctx.acqL1 := by unfold State.scalarFlags; split <;> simp
@[simp] theorem scalarFlags_ctx_acqCl (s : State) (f : Fmt) (o : FOut) : (s.scalarFlags f o).ctx.acqCl = s.ctx.acqCl := by unfold State.scalarFlags; split <;> simp
@[simp] theorem scalarFlags_ctx_group (s : State) (f : Fmt) (o : FOut) : (s.scalarFlags f o).ctx.group = s.ctx.group := by unfold State.scalarFlags; split <;> simp
@[simp] theorem scalarFlags_ctx_ir (s : State) (f : Fmt) (o : FOut) : (s.scalarFlags f o).ctx.ir = s.ctx.ir := by unfold State.scalarFlags; split <;> simp
@[simp] theorem scalarFlags_ctx_prio (s : State) (f : Fmt) (o : FOut) : (s.scalarFlags f o).ctx.prio = s.ctx.prio := by unfold State.scalarFlags; split <;> simp
@[simp] theorem scalarFlags_ctx_prioLeft (s : State) (f : Fmt) (o : FOut) : (s.scalarFlags f o).ctx.prioLeft = s.ctx.prioLeft := by unfold State.scalarFlags; split <;> simp
@[simp] theorem scalarFlags_ctx_rep (s : State) (f : Fmt) (o : FOut) : (s.scalarFlags f o).ctx.rep = s.ctx.rep := by unfold State.scalarFlags; split <;> simp
@[simp] theorem scalarFlags_ctx_pends (s : State) (f : Fmt) (o : FOut) : (s.scalarFlags f o).ctx.pends = s.ctx.pends := by unfold State.scalarFlags; split <;> simp
@[simp] theorem scalarFlags_ctx_stall (s : State) (f : Fmt) (o : FOut) : (s.scalarFlags f o).ctx.stall = s.ctx.stall := by unfold State.scalarFlags; split <;> simp
@[simp] theorem scalarFlags_ctx_deferred (s : State) (f : Fmt) (o : FOut) : (s.scalarFlags f o).ctx.deferred = s.ctx.deferred := by unfold State.scalarFlags; split <;> simp
@[simp] theorem scalarFlags_ctx_arrival (s : State) (f : Fmt) (o : FOut) : (s.scalarFlags f o).ctx.arrival = s.ctx.arrival := by unfold State.scalarFlags; split <;> simp
@[simp] theorem scalarFlags_ctx_stepping (s : State) (f : Fmt) (o : FOut) : (s.scalarFlags f o).ctx.stepping = s.ctx.stepping := by unfold State.scalarFlags; split <;> simp
@[simp] theorem scalarFlags_ctx_stopReq (s : State) (f : Fmt) (o : FOut) : (s.scalarFlags f o).ctx.stopReq = s.ctx.stopReq := by unfold State.scalarFlags; split <;> simp
@[simp] theorem scalarFlags_ctx_slot (s : State) (f : Fmt) (o : FOut) : (s.scalarFlags f o).ctx.slot = s.ctx.slot := by unfold State.scalarFlags; split <;> simp
@[simp] theorem scalarFlags_ctx_startScope (s : State) (f : Fmt) (o : FOut) : (s.scalarFlags f o).ctx.startScope = s.ctx.startScope := by unfold State.scalarFlags; split <;> simp
@[simp] theorem scalarFlags_ctx_region (s : State) (f : Fmt) (o : FOut) : (s.scalarFlags f o).ctx.region = s.ctx.region := by unfold State.scalarFlags; split <;> simp
@[simp] theorem scalarFlags_ctx_live (s : State) (f : Fmt) (o : FOut) : (s.scalarFlags f o).ctx.live = s.ctx.live := by unfold State.scalarFlags; split <;> simp
@[simp] theorem scalarFlags_ctx_since (s : State) (f : Fmt) (o : FOut) : (s.scalarFlags f o).ctx.since = s.ctx.since := by unfold State.scalarFlags; split <;> simp
@[simp] theorem scalarFlags_ctx_claim (s : State) (f : Fmt) (o : FOut) : (s.scalarFlags f o).ctx.claim = s.ctx.claim := by unfold State.scalarFlags; split <;> simp
@[simp] theorem scalarFlags_ctx_startCover (s : State) (f : Fmt) (o : FOut) : (s.scalarFlags f o).ctx.startCover = s.ctx.startCover := by unfold State.scalarFlags; split <;> simp
@[simp] theorem scalarFlags_ctx_cbRet (s : State) (f : Fmt) (o : FOut) : (s.scalarFlags f o).ctx.cbRet = s.ctx.cbRet := by unfold State.scalarFlags; split <;> simp
@[simp] theorem scalarFlags_ctx_forced (s : State) (f : Fmt) (o : FOut) : (s.scalarFlags f o).ctx.forced = s.ctx.forced := by unfold State.scalarFlags; split <;> simp
@[simp] theorem scalarFlags_ctx_barred (s : State) (f : Fmt) (o : FOut) : (s.scalarFlags f o).ctx.barred = s.ctx.barred := by unfold State.scalarFlags; split <;> simp
@[simp] theorem raiseFlags_mem (s : State) (f : BitVec 5) : (s.raiseFlags f).mem = s.mem := by unfold State.raiseFlags; dsimp only; split_ifs <;> rfl
@[simp] theorem scalarFlags_mem (s : State) (f : Fmt) (o : FOut) : (s.scalarFlags f o).mem = s.mem := by unfold State.scalarFlags; split <;> simp
@[simp] theorem raiseFlags_weights (s : State) (f : BitVec 5) : (s.raiseFlags f).weights = s.weights := by unfold State.raiseFlags; dsimp only; split_ifs <;> rfl
@[simp] theorem scalarFlags_weights (s : State) (f : Fmt) (o : FOut) : (s.scalarFlags f o).weights = s.weights := by unfold State.scalarFlags; split <;> simp
@[simp] theorem raiseFlags_lineKeys (s : State) (f : BitVec 5) : (s.raiseFlags f).lineKeys = s.lineKeys := by unfold State.raiseFlags; dsimp only; split_ifs <;> rfl
@[simp] theorem scalarFlags_lineKeys (s : State) (f : Fmt) (o : FOut) : (s.scalarFlags f o).lineKeys = s.lineKeys := by unfold State.scalarFlags; split <;> simp
@[simp] theorem raiseFlags_keyGens (s : State) (f : BitVec 5) : (s.raiseFlags f).keyGens = s.keyGens := by unfold State.raiseFlags; dsimp only; split_ifs <;> rfl
@[simp] theorem scalarFlags_keyGens (s : State) (f : Fmt) (o : FOut) : (s.scalarFlags f o).keyGens = s.keyGens := by unfold State.scalarFlags; split <;> simp
@[simp] theorem raiseFlags_poisoned (s : State) (f : BitVec 5) : (s.raiseFlags f).poisoned = s.poisoned := by unfold State.raiseFlags; dsimp only; split_ifs <;> rfl
@[simp] theorem scalarFlags_poisoned (s : State) (f : Fmt) (o : FOut) : (s.scalarFlags f o).poisoned = s.poisoned := by unfold State.scalarFlags; split <;> simp
@[simp] theorem raiseFlags_stk (s : State) (f : BitVec 5) : (s.raiseFlags f).stk = s.stk := by unfold State.raiseFlags; dsimp only; split_ifs <;> rfl
@[simp] theorem scalarFlags_stk (s : State) (f : Fmt) (o : FOut) : (s.scalarFlags f o).stk = s.stk := by unfold State.scalarFlags; split <;> simp
@[simp] theorem raiseFlags_net (s : State) (f : BitVec 5) : (s.raiseFlags f).net = s.net := by unfold State.raiseFlags; dsimp only; split_ifs <;> rfl
@[simp] theorem scalarFlags_net (s : State) (f : Fmt) (o : FOut) : (s.scalarFlags f o).net = s.net := by unfold State.scalarFlags; split <;> simp
@[simp] theorem raiseFlags_remote (s : State) (f : BitVec 5) : (s.raiseFlags f).remote = s.remote := by unfold State.raiseFlags; dsimp only; split_ifs <;> rfl
@[simp] theorem scalarFlags_remote (s : State) (f : Fmt) (o : FOut) : (s.scalarFlags f o).remote = s.remote := by unfold State.scalarFlags; split <;> simp
@[simp] theorem raiseFlags_flight (s : State) (f : BitVec 5) : (s.raiseFlags f).flight = s.flight := by unfold State.raiseFlags; dsimp only; split_ifs <;> rfl
@[simp] theorem scalarFlags_flight (s : State) (f : Fmt) (o : FOut) : (s.scalarFlags f o).flight = s.flight := by unfold State.scalarFlags; split <;> simp
@[simp] theorem raiseFlags_walkers (s : State) (f : BitVec 5) : (s.raiseFlags f).walkers = s.walkers := by unfold State.raiseFlags; dsimp only; split_ifs <;> rfl
@[simp] theorem scalarFlags_walkers (s : State) (f : Fmt) (o : FOut) : (s.scalarFlags f o).walkers = s.walkers := by unfold State.scalarFlags; split <;> simp
@[simp] theorem raiseFlags_answers (s : State) (f : BitVec 5) : (s.raiseFlags f).answers = s.answers := by unfold State.raiseFlags; dsimp only; split_ifs <;> rfl
@[simp] theorem scalarFlags_answers (s : State) (f : Fmt) (o : FOut) : (s.scalarFlags f o).answers = s.answers := by unfold State.scalarFlags; split <;> simp
@[simp] theorem raiseFlags_gangOps (s : State) (f : BitVec 5) : (s.raiseFlags f).gangOps = s.gangOps := by unfold State.raiseFlags; dsimp only; split_ifs <;> rfl
@[simp] theorem scalarFlags_gangOps (s : State) (f : Fmt) (o : FOut) : (s.scalarFlags f o).gangOps = s.gangOps := by unfold State.scalarFlags; split <;> simp
@[simp] theorem raiseFlags_pounds (s : State) (f : BitVec 5) : (s.raiseFlags f).pounds = s.pounds := by unfold State.raiseFlags; dsimp only; split_ifs <;> rfl
@[simp] theorem scalarFlags_pounds (s : State) (f : Fmt) (o : FOut) : (s.scalarFlags f o).pounds = s.pounds := by unfold State.scalarFlags; split <;> simp
@[simp] theorem raiseFlags_shadow (s : State) (f : BitVec 5) : (s.raiseFlags f).shadow = s.shadow := by unfold State.raiseFlags; dsimp only; split_ifs <;> rfl
@[simp] theorem scalarFlags_shadow (s : State) (f : Fmt) (o : FOut) : (s.scalarFlags f o).shadow = s.shadow := by unfold State.scalarFlags; split <;> simp
@[simp] theorem raiseFlags_journal (s : State) (f : BitVec 5) : (s.raiseFlags f).journal = s.journal := by unfold State.raiseFlags; dsimp only; split_ifs <;> rfl
@[simp] theorem scalarFlags_journal (s : State) (f : Fmt) (o : FOut) : (s.scalarFlags f o).journal = s.journal := by unfold State.scalarFlags; split <;> simp
@[simp] theorem raiseFlags_vds (s : State) (f : BitVec 5) : (s.raiseFlags f).vds = s.vds := by unfold State.raiseFlags; dsimp only; split_ifs <;> rfl
@[simp] theorem scalarFlags_vds (s : State) (f : Fmt) (o : FOut) : (s.scalarFlags f o).vds = s.vds := by unfold State.scalarFlags; split <;> simp
@[simp] theorem raiseFlags_booted (s : State) (f : BitVec 5) : (s.raiseFlags f).booted = s.booted := by unfold State.raiseFlags; dsimp only; split_ifs <;> rfl
@[simp] theorem scalarFlags_booted (s : State) (f : Fmt) (o : FOut) : (s.scalarFlags f o).booted = s.booted := by unfold State.scalarFlags; split <;> simp
@[simp] theorem raiseFlags_devRegs (s : State) (f : BitVec 5) : (s.raiseFlags f).devRegs = s.devRegs := by unfold State.raiseFlags; dsimp only; split_ifs <;> rfl
@[simp] theorem scalarFlags_devRegs (s : State) (f : Fmt) (o : FOut) : (s.scalarFlags f o).devRegs = s.devRegs := by unfold State.scalarFlags; split <;> simp
@[simp] theorem raiseFlags_batches (s : State) (f : BitVec 5) : (s.raiseFlags f).batches = s.batches := by unfold State.raiseFlags; dsimp only; split_ifs <;> rfl
@[simp] theorem scalarFlags_batches (s : State) (f : Fmt) (o : FOut) : (s.scalarFlags f o).batches = s.batches := by unfold State.scalarFlags; split <;> simp
@[simp] theorem raiseFlags_egress (s : State) (f : BitVec 5) : (s.raiseFlags f).egress = s.egress := by unfold State.raiseFlags; dsimp only; split_ifs <;> rfl
@[simp] theorem scalarFlags_egress (s : State) (f : Fmt) (o : FOut) : (s.scalarFlags f o).egress = s.egress := by unfold State.scalarFlags; split <;> simp
@[simp] theorem raiseFlags_rmas (s : State) (f : BitVec 5) : (s.raiseFlags f).rmas = s.rmas := by unfold State.raiseFlags; dsimp only; split_ifs <;> rfl
@[simp] theorem scalarFlags_rmas (s : State) (f : Fmt) (o : FOut) : (s.scalarFlags f o).rmas = s.rmas := by unfold State.scalarFlags; split <;> simp
@[simp] theorem raiseFlags_buckets (s : State) (f : BitVec 5) : (s.raiseFlags f).buckets = s.buckets := by unfold State.raiseFlags; dsimp only; split_ifs <;> rfl
@[simp] theorem scalarFlags_buckets (s : State) (f : Fmt) (o : FOut) : (s.scalarFlags f o).buckets = s.buckets := by unfold State.scalarFlags; split <;> simp
@[simp] theorem raiseFlags_errors (s : State) (f : BitVec 5) : (s.raiseFlags f).errors = s.errors := by unfold State.raiseFlags; dsimp only; split_ifs <;> rfl
@[simp] theorem scalarFlags_errors (s : State) (f : Fmt) (o : FOut) : (s.scalarFlags f o).errors = s.errors := by unfold State.scalarFlags; split <;> simp
@[simp] theorem raiseFlags_mr (s : State) (f : BitVec 5) : (s.raiseFlags f).mr = s.mr := by unfold State.raiseFlags; dsimp only; split_ifs <;> rfl
@[simp] theorem scalarFlags_mr (s : State) (f : Fmt) (o : FOut) : (s.scalarFlags f o).mr = s.mr := by unfold State.scalarFlags; split <;> simp
@[simp] theorem raiseFlags_envelope (s : State) (f : BitVec 5) : (s.raiseFlags f).envelope = s.envelope := by unfold State.raiseFlags; dsimp only; split_ifs <;> rfl
@[simp] theorem scalarFlags_envelope (s : State) (f : Fmt) (o : FOut) : (s.scalarFlags f o).envelope = s.envelope := by unfold State.scalarFlags; split <;> simp
@[simp] theorem raiseFlags_retired (s : State) (f : BitVec 5) : (s.raiseFlags f).retired = s.retired := by unfold State.raiseFlags; dsimp only; split_ifs <;> rfl
@[simp] theorem scalarFlags_retired (s : State) (f : Fmt) (o : FOut) : (s.scalarFlags f o).retired = s.retired := by unfold State.scalarFlags; split <;> simp
@[simp] theorem raiseFlags_cuts (s : State) (f : BitVec 5) : (s.raiseFlags f).cuts = s.cuts := by unfold State.raiseFlags; dsimp only; split_ifs <;> rfl
@[simp] theorem scalarFlags_cuts (s : State) (f : Fmt) (o : FOut) : (s.scalarFlags f o).cuts = s.cuts := by unfold State.scalarFlags; split <;> simp
@[simp] theorem raiseFlags_checkpoints (s : State) (f : BitVec 5) : (s.raiseFlags f).checkpoints = s.checkpoints := by unfold State.raiseFlags; dsimp only; split_ifs <;> rfl
@[simp] theorem scalarFlags_checkpoints (s : State) (f : Fmt) (o : FOut) : (s.scalarFlags f o).checkpoints = s.checkpoints := by unfold State.scalarFlags; split <;> simp
@[simp] theorem raiseFlags_cutRecs (s : State) (f : BitVec 5) : (s.raiseFlags f).cutRecs = s.cutRecs := by unfold State.raiseFlags; dsimp only; split_ifs <;> rfl
@[simp] theorem scalarFlags_cutRecs (s : State) (f : Fmt) (o : FOut) : (s.scalarFlags f o).cutRecs = s.cutRecs := by unfold State.scalarFlags; split <;> simp
@[simp] theorem raiseFlags_portEnergy (s : State) (f : BitVec 5) : (s.raiseFlags f).portEnergy = s.portEnergy := by unfold State.raiseFlags; dsimp only; split_ifs <;> rfl
@[simp] theorem scalarFlags_portEnergy (s : State) (f : Fmt) (o : FOut) : (s.scalarFlags f o).portEnergy = s.portEnergy := by unfold State.scalarFlags; split <;> simp
@[simp] theorem raiseFlags_saves (s : State) (f : BitVec 5) : (s.raiseFlags f).saves = s.saves := by unfold State.raiseFlags; dsimp only; split_ifs <;> rfl
@[simp] theorem scalarFlags_saves (s : State) (f : Fmt) (o : FOut) : (s.scalarFlags f o).saves = s.saves := by unfold State.scalarFlags; split <;> simp
@[simp] theorem raiseFlags_console (s : State) (f : BitVec 5) : (s.raiseFlags f).console = s.console := by unfold State.raiseFlags; dsimp only; split_ifs <;> rfl
@[simp] theorem scalarFlags_console (s : State) (f : Fmt) (o : FOut) : (s.scalarFlags f o).console = s.console := by unfold State.scalarFlags; split <;> simp
@[simp] theorem raiseFlags_files (s : State) (f : BitVec 5) : (s.raiseFlags f).files = s.files := by unfold State.raiseFlags; dsimp only; split_ifs <;> rfl
@[simp] theorem scalarFlags_files (s : State) (f : Fmt) (o : FOut) : (s.scalarFlags f o).files = s.files := by unfold State.scalarFlags; split <;> simp
@[simp] theorem raiseFlags_snivis (s : State) (f : BitVec 5) : (s.raiseFlags f).snivis = s.snivis := by unfold State.raiseFlags; dsimp only; split_ifs <;> rfl
@[simp] theorem scalarFlags_snivis (s : State) (f : Fmt) (o : FOut) : (s.scalarFlags f o).snivis = s.snivis := by unfold State.scalarFlags; split <;> simp
@[simp] theorem raiseFlags_cur (s : State) (f : BitVec 5) : (s.raiseFlags f).cur = s.cur := by unfold State.raiseFlags; dsimp only; split_ifs <;> rfl
@[simp] theorem scalarFlags_cur (s : State) (f : Fmt) (o : FOut) : (s.scalarFlags f o).cur = s.cur := by unfold State.scalarFlags; split <;> simp
@[simp] theorem raiseFlags_agenda (s : State) (f : BitVec 5) : (s.raiseFlags f).agenda = s.agenda := by unfold State.raiseFlags; dsimp only; split_ifs <;> rfl
@[simp] theorem scalarFlags_agenda (s : State) (f : Fmt) (o : FOut) : (s.scalarFlags f o).agenda = s.agenda := by unfold State.scalarFlags; split <;> simp
@[simp] theorem raiseFlags_freeCtr (s : State) (f : BitVec 5) : (s.raiseFlags f).freeCtr = s.freeCtr := by unfold State.raiseFlags; dsimp only; split_ifs <;> rfl
@[simp] theorem scalarFlags_freeCtr (s : State) (f : Fmt) (o : FOut) : (s.scalarFlags f o).freeCtr = s.freeCtr := by unfold State.scalarFlags; split <;> simp
@[simp] theorem raiseFlags_seq (s : State) (f : BitVec 5) : (s.raiseFlags f).seq = s.seq := by unfold State.raiseFlags; dsimp only; split_ifs <;> rfl
@[simp] theorem scalarFlags_seq (s : State) (f : Fmt) (o : FOut) : (s.scalarFlags f o).seq = s.seq := by unfold State.scalarFlags; split <;> simp
@[simp] theorem raiseFlags_occurs (s : State) (f : BitVec 5) : (s.raiseFlags f).occurs = s.occurs := by unfold State.raiseFlags; dsimp only; split_ifs <;> rfl
@[simp] theorem raiseFlags_ages (s : State) (f : BitVec 5) : (s.raiseFlags f).ages = s.ages := by unfold State.raiseFlags; dsimp only; split_ifs <;> rfl
@[simp] theorem raiseFlags_noticed (s : State) (f : BitVec 5) : (s.raiseFlags f).noticed = s.noticed := by unfold State.raiseFlags; dsimp only; split_ifs <;> rfl
@[simp] theorem scalarFlags_occurs (s : State) (f : Fmt) (o : FOut) : (s.scalarFlags f o).occurs = s.occurs := by unfold State.scalarFlags; split <;> simp
@[simp] theorem scalarFlags_ages (s : State) (f : Fmt) (o : FOut) : (s.scalarFlags f o).ages = s.ages := by unfold State.scalarFlags; split <;> simp
@[simp] theorem scalarFlags_noticed (s : State) (f : Fmt) (o : FOut) : (s.scalarFlags f o).noticed = s.noticed := by unfold State.scalarFlags; split <;> simp

end Sys2Proof.Machine
end

