-- ==== Sys2Proof/Laws/Issue.lean ====
section
/-!
SUPPORT. Issue and taking a fault: everything each can do, said once.
-/

namespace Sys2Proof.Machine

theorem operandTest_none (r : WordRule) (s : State) (hs : ∀ p ∈ r.srcs, s.ctx.full p.1 = true)
    (hd : ∀ d ∈ r.dests, s.ctx.full d = true) : operandTest r s = none := by
  have h1 : (r.srcs.find? fun p => p.2 && !s.ctx.full p.1) = none := by
    rw [List.find?_eq_none]
    intro p hp
    simp [hs p hp]
  have h2 : r.srcs.all (fun p => s.ctx.full p.1) = true := by
    rw [List.all_eq_true]; exact hs
  have h3 : r.dests.all s.ctx.full = true := by
    rw [List.all_eq_true]; exact hd
  simp [operandTest, h1, h2, h3]

/-- A word whose conditions of issue hold comes to what its own effect comes to. -/
theorem issue_clear {r : WordRule} {body : State → Did} {s : State} (hdef : s.ctx.deferred = [])
    (hg : s.ctx.group.all (groupSuits r) = true) (hp : r.priv = true → isKeeper s.cur.1 = true) (hr : repHolds r s = false)
    (hs : ∀ p ∈ r.srcs, s.ctx.full p.1 = true) (hd : ∀ d ∈ r.dests, s.ctx.full d = true) :
    issue r body s = (body s).outcome r.cls := by
  have hpv : (r.priv && !isKeeper s.cur.1) = false := by
    cases h : r.priv
    · rfl
    · simp [hp h]
  unfold issue
  rw [hdef]
  simp only [hg, hpv, hr, operandTest_none r s hs hd]
  simp

/-- Every way an issue can go: a fault due at this issue, a precise fault, a wait, or the word's own effect. -/
theorem issue_cases {r : WordRule} {body : State → Did} {s t : State} (h : issue r body s = .next t) :
    (∃ d, t = s.raiseDeferred s.cur.1 s.cur.2 d) ∨ (∃ f, t = s.raise f) ∨ t = s ∨
      t = s.modCtx (fun c => { c with state := .waiting }) ∨ (body s).outcome r.cls = .next t := by
  unfold issue at h
  split at h
  · rename_i d _ _
    exact .inl ⟨d, (Host.Outcome.next.inj h).symm⟩
  · split at h
    · exact .inr (.inl ⟨_, (Host.Outcome.next.inj h).symm⟩)
    · split at h
      · exact .inr (.inl ⟨_, (Host.Outcome.next.inj h).symm⟩)
      · split at h
        · exact .inr (.inr (.inl (Host.Outcome.next.inj h).symm))
        · split at h
          · rename_i d hd
            unfold operandTest at hd
            simp only at hd
            split at hd
            · injection hd with hd; subst hd
              exact .inr (.inl ⟨_, (Host.Outcome.next.inj h).symm⟩)
            · split at hd
              · cases hd
              · injection hd with hd; subst hd
                exact .inr (.inr (.inr (.inl (Host.Outcome.next.inj h).symm)))
          · exact .inr (.inr (.inr (.inr h)))

end Sys2Proof.Machine
end

