-- ==== Sys2Proof/Laws/Memory.lean ====
section
/-!
SUPPORT. Memory: what a write leaves to be read, and that every operation over memory keeps the canonical form.
-/

namespace Sys2Proof.Machine

/-! ## Reading what was written -/

theorem readByte_cons (b : Nat) (v : Byte) (m : Memory) (a : Nat) :
    readByte ((b, v) :: m) a = if b = a then v else readByte m a := rfl

/-- Entries of other addresses do not matter to a read. -/
theorem readByte_filter (m : Memory) (p : Nat × Byte → Bool) (a : Nat) (h : ∀ v, p (a, v) = true) :
    readByte (m.filter p) a = readByte m a := by
  induction m with
  | nil => rfl
  | cons c rest ih =>
    obtain ⟨b, v⟩ := c
    by_cases e : b = a
    · subst e; simp [List.filter, h, readByte_cons]
    · by_cases hp : p (b, v) = true
      · simp [List.filter, hp, readByte_cons, e, ih]
      · simp [List.filter, hp, readByte_cons, e, ih]

/-- A read of addresses a filter drops. -/
theorem readByte_dropped (m : Memory) (p : Nat × Byte → Bool) (a : Nat) (h : ∀ v, p (a, v) = false) :
    readByte (m.filter p) a = unwritten := by
  induction m with
  | nil => rfl
  | cons c rest ih =>
    obtain ⟨b, v⟩ := c
    by_cases e : b = a
    · subst e; simp [List.filter, h, ih]
    · by_cases hp : p (b, v) = true
      · simp [List.filter, hp, readByte_cons, e, ih]
      · simp [List.filter, hp, ih]

/-- A read after a write: the byte written at its address, the byte that was there at any other. -/
theorem readByte_writeByte (m : Memory) (a c : Nat) (v : Byte) :
    readByte (writeByte m a v) c = if c = a then v else readByte m c := by
  induction m with
  | nil =>
    unfold writeByte
    by_cases hc : c = a
    · subst hc; by_cases hv : v = unwritten <;> simp [hv, readByte]
    · have hca : ¬ a = c := fun e => hc e.symm
      by_cases hv : v = unwritten <;> simp [hv, hc, hca, readByte]
  | cons d rest ih =>
    obtain ⟨b, u⟩ := d
    unfold writeByte
    by_cases h1 : a < b
    · simp only [h1, if_true]
      by_cases hc : c = a
      · subst hc
        have hb : ¬ b = c := by omega
        by_cases hv : v = unwritten
        · simp only [hv, if_true, readByte_cons, hb, if_false]
          exact readByte_dropped rest _ c (by simp)
        · simp [hv, readByte_cons]
      · have hf : readByte (rest.filter (·.1 != a)) c = readByte rest c := readByte_filter _ _ _ (by simpa using hc)
        have hca : ¬ a = c := fun e => hc e.symm
        by_cases hv : v = unwritten <;> simp [hv, readByte_cons, hf, hc, hca]
    · by_cases h2 : a = b
      · subst h2
        simp only [h1, if_false, if_true, ih, readByte_cons]
        by_cases hc : c = a
        · simp [hc]
        · have : ¬ a = c := fun e => hc e.symm
          simp [hc, this]
      · simp only [h1, h2, if_false, readByte_cons, ih]
        by_cases hc : c = a
        · subst hc
          have : ¬ b = c := fun e => h2 e.symm
          simp [this]
        · simp [hc]

/-- A run of bytes written leaves the bytes outside it. -/
theorem readByte_writeMem (m : Memory) (a c : Nat) (bs : List Byte) (h : c < a ∨ a + bs.length ≤ c) :
    readByte (writeMem m a bs) c = readByte m c := by
  induction bs generalizing m a with
  | nil => rfl
  | cons b bs ih =>
    simp only [List.length_cons] at h
    unfold writeMem
    rw [ih _ _ (by omega), readByte_writeByte]
    rw [if_neg (by omega)]

/-- A run of bytes written is read back. -/
theorem readByte_writeMem_in (m : Memory) (a i : Nat) (bs : List Byte) (h : i < bs.length) :
    readByte (writeMem m a bs) (a + i) = bs[i] := by
  induction bs generalizing m a i with
  | nil => simp at h
  | cons b bs ih =>
    unfold writeMem
    cases i with
    | zero =>
      rw [readByte_writeMem _ _ _ _ (by omega), readByte_writeByte]
      simp
    | succ i =>
      have := ih (writeByte m a b) (a + 1) i (by simpa using h)
      simpa [Nat.add_assoc, Nat.add_comm, Nat.add_left_comm] using this

/-- Masked bytes written: the bytes of the mask take the datum's, every other byte stays. -/
theorem readByte_writeMasked (m : Memory) (a : Nat) (mask : BitVec 16) (data n c : Nat) :
    readByte (writeMasked m a mask data n) c =
      if a ≤ c ∧ c < a + n ∧ mask.getLsbD (c - a) = true then BitVec.ofNat 8 (data / 256 ^ (c - a)) else readByte m c := by
  induction n with
  | zero =>
    rw [if_neg (by omega)]
    rfl
  | succ n ih =>
    unfold writeMasked
    simp only
    by_cases hm : mask.getLsbD n = true
    · rw [if_pos hm, readByte_writeByte, ih]
      by_cases hc : c = a + n
      · subst hc; simp [hm]
      · rw [if_neg hc]
        have : (a ≤ c ∧ c < a + n ∧ mask.getLsbD (c - a) = true) ↔ (a ≤ c ∧ c < a + (n + 1) ∧ mask.getLsbD (c - a) = true) := by
          constructor
          · rintro ⟨h1, h2, h3⟩; exact ⟨h1, by omega, h3⟩
          · rintro ⟨h1, h2, h3⟩; exact ⟨h1, by omega, h3⟩
        simp only [this]
    · rw [if_neg hm, ih]
      have : (a ≤ c ∧ c < a + n ∧ mask.getLsbD (c - a) = true) ↔ (a ≤ c ∧ c < a + (n + 1) ∧ mask.getLsbD (c - a) = true) := by
        constructor
        · rintro ⟨h1, h2, h3⟩; exact ⟨h1, by omega, h3⟩
        · rintro ⟨h1, h2, h3⟩
          refine ⟨h1, ?_, h3⟩
          by_contra hge
          have : c - a = n := by omega
          rw [this] at h3
          exact hm h3
      simp only [this]

/-- A cleared run reads as unwritten, and nothing else changes. -/
theorem readByte_clearMem (m : Memory) (lo hi c : Nat) :
    readByte (clearMem m lo hi) c = if lo ≤ c ∧ c < hi then unwritten else readByte m c := by
  unfold clearMem
  by_cases h : lo ≤ c ∧ c < hi
  · rw [if_pos h]; exact readByte_dropped _ _ _ (by simp [h])
  · rw [if_neg h]
    refine readByte_filter _ _ _ ?_
    intro v
    simp only [Bool.not_eq_true', Bool.and_eq_false_iff, decide_eq_false_iff_not]
    omega

/-! ## The canonical form -/

/-- Every entry of a memory lies at or above an address. -/
def Memory.above (m : Memory) (lo : Nat) : Bool := m.all fun c => decide (lo ≤ c.1)

theorem wf_cons (a : Nat) (v : Byte) (m : Memory) :
    Memory.wf ((a, v) :: m) = (v != unwritten && Memory.above m (a + 1) && Memory.wf m) := by
  cases m with
  | nil => simp [Memory.wf, Memory.above]
  | cons d rest =>
    obtain ⟨b, u⟩ := d
    unfold Memory.wf
    induction rest generalizing b u with
    | nil => simp [Memory.wf, Memory.above, Bool.and_assoc]
    | cons e rest ih =>
      obtain ⟨c, w⟩ := e
      rw [Bool.eq_iff_iff]
      have := ih c w
      simp only [Memory.wf, Memory.above, List.all_cons, Bool.and_eq_true, decide_eq_true_eq, Nat.succ_le_iff] at this ⊢
      rw [Bool.eq_iff_iff] at this
      simp only [Bool.and_eq_true, decide_eq_true_eq] at this
      constructor
      · rintro ⟨⟨h1, h2⟩, ⟨h3, h4⟩, h5⟩
        have h6 := this.mp ⟨⟨h1, by omega⟩, h5⟩
        exact ⟨⟨h1, h2, h6.1.2⟩, ⟨h3, h4⟩, h5⟩
      · rintro ⟨⟨h1, h2, h3⟩, ⟨h4, h5⟩, h6⟩
        exact ⟨⟨h1, h2⟩, ⟨h4, h5⟩, h6⟩

theorem above_le {m : Memory} {i j : Nat} (h : i ≤ j) (ha : Memory.above m j = true) : Memory.above m i = true := by
  simp only [Memory.above, List.all_eq_true, decide_eq_true_eq] at *
  intro c hc
  have := ha c hc
  omega

/-- Dropping entries keeps the form. -/
theorem wf_filter {m : Memory} (p : Nat × Byte → Bool) (h : m.wf = true) : Memory.wf (m.filter p) = true := by
  induction m with
  | nil => rfl
  | cons c rest ih =>
    obtain ⟨a, v⟩ := c
    rw [wf_cons] at h
    simp only [Bool.and_eq_true] at h
    by_cases hp : p (a, v) = true
    · rw [List.filter_cons_of_pos hp, wf_cons]
      simp only [Bool.and_eq_true]
      refine ⟨⟨h.1.1, ?_⟩, ih h.2⟩
      have := h.1.2
      simp only [Memory.above, List.all_eq_true, decide_eq_true_eq] at this ⊢
      exact fun c hc => this c (List.mem_of_mem_filter hc)
    · rw [List.filter_cons_of_neg hp]
      exact ih h.2

theorem above_writeByte {m : Memory} {lo a : Nat} {v : Byte} (ha : lo ≤ a) (h : Memory.above m lo = true) :
    Memory.above (writeByte m a v) lo = true := by
  induction m with
  | nil => unfold writeByte; by_cases hv : v = unwritten <;> simp [hv, Memory.above, ha]
  | cons d rest ih =>
    obtain ⟨b, u⟩ := d
    have hb : lo ≤ b ∧ Memory.above rest lo = true := by simpa [Memory.above] using h
    have hf : Memory.above (rest.filter (·.1 != a)) lo = true := by
      have := hb.2
      simp only [Memory.above, List.all_eq_true, decide_eq_true_eq] at this ⊢
      exact fun c hc => this c (List.mem_of_mem_filter hc)
    unfold writeByte
    by_cases h1 : a < b
    · simp only [h1, if_true]
      by_cases hv : v = unwritten
      · simp only [hv, if_true]
        simpa [Memory.above, hb.1] using hf
      · simp only [hv, if_false]
        simpa [Memory.above, hb.1, ha] using hf
    · simp only [h1, if_false]
      by_cases h2 : a = b
      · simp only [h2, if_true]; rw [← h2]; exact ih hb.2
      · simp only [h2, if_false]
        have := ih hb.2
        simpa [Memory.above, hb.1] using this

/-- A write keeps the form. -/
theorem wf_writeByte {m : Memory} (a : Nat) (v : Byte) (h : m.wf = true) : (writeByte m a v).wf = true := by
  induction m with
  | nil => unfold writeByte; by_cases hv : v = unwritten <;> simp [hv, Memory.wf]
  | cons d rest ih =>
    obtain ⟨b, u⟩ := d
    have h' := h
    rw [wf_cons] at h'
    simp only [Bool.and_eq_true] at h'
    have hkept : Memory.wf ((b, u) :: rest.filter (·.1 != a)) = true := by
      rw [wf_cons]
      simp only [Bool.and_eq_true]
      refine ⟨⟨h'.1.1, ?_⟩, wf_filter _ h'.2⟩
      have := h'.1.2
      simp only [Memory.above, List.all_eq_true, decide_eq_true_eq] at this ⊢
      exact fun c hc => this c (List.mem_of_mem_filter hc)
    unfold writeByte
    by_cases h1 : a < b
    · simp only [h1, if_true]
      by_cases hv : v = unwritten
      · simp only [hv, if_true]; exact hkept
      · simp only [hv, if_false]
        rw [wf_cons]
        simp only [Bool.and_eq_true]
        refine ⟨⟨by simpa using hv, ?_⟩, hkept⟩
        have hr := above_le (i := a + 1) (by omega) h'.1.2
        simp only [Memory.above, List.all_eq_true, decide_eq_true_eq] at hr ⊢
        intro c hc
        rcases List.mem_cons.mp hc with rfl | hc
        · simp; omega
        · exact hr c (List.mem_of_mem_filter hc)
    · simp only [h1, if_false]
      by_cases h2 : a = b
      · simp only [h2, if_true]; rw [← h2]; exact ih h'.2
      · simp only [h2, if_false]
        rw [wf_cons]
        simp only [Bool.and_eq_true]
        exact ⟨⟨h'.1.1, above_writeByte (by omega) h'.1.2⟩, ih h'.2⟩

/-- A run of bytes written keeps the form. -/
theorem wf_writeMem {m : Memory} (a : Nat) (bs : List Byte) (h : m.wf = true) : (writeMem m a bs).wf = true := by
  induction bs generalizing m a with
  | nil => exact h
  | cons b bs ih => exact ih (a + 1) (wf_writeByte a b h)

/-- Masked bytes written keep the form. -/
theorem wf_writeMasked {m : Memory} (a : Nat) (mask : BitVec 16) (data n : Nat) (h : m.wf = true) :
    (writeMasked m a mask data n).wf = true := by
  induction n with
  | zero => exact h
  | succ n ih =>
    unfold writeMasked
    simp only
    split
    · exact wf_writeByte _ _ ih
    · exact ih

/-- A cleared run keeps the form. -/
theorem wf_clearMem {m : Memory} (lo hi : Nat) (h : m.wf = true) : (clearMem m lo hi).wf = true := wf_filter _ h

/-- A memory put back from an older one has the form (R396). -/
theorem wf_restoreMem {m old : Memory} (p : Nat → Bool) (h : m.wf = true) : (restoreMem m old p).wf = true := by
  unfold restoreMem
  generalize old.filter (fun c => p c.1) = cs
  have hm : Memory.wf (m.filter fun c => !p c.1) = true := wf_filter _ h
  revert hm
  generalize (m.filter fun c => !p c.1) = n
  intro hm
  induction cs generalizing n with
  | nil => exact hm
  | cons c cs ih => exact ih _ (wf_writeByte c.1 c.2 hm)

/-- Reset's memories have the form. -/
theorem reset_wf : State.reset.mem.wf = true ∧ State.reset.weights.wf = true := ⟨rfl, rfl⟩

end Sys2Proof.Machine
end

