-- ==== Sys2Proof/Laws/Outcomes.lean ====
section
/-!
SUPPORT. What taking a fault comes to (R40), when a word of a rule takes its effect, and the frames of the shared writes.
-/

namespace Sys2Proof.Machine

/-- A word whose conditions hold comes to what its own effect comes to. -/
theorem issue_of_clear {r : WordRule} {body : State → Did} {s : State} (h : s.Clear r) : issue r body s = (body s).outcome r.cls :=
  issue_clear h.1 h.2.1 h.2.2.1 h.2.2.2.1 h.2.2.2.2.1 h.2.2.2.2.2

/-! ## Packets and faults -/

theorem mem_modCtx (s : State) (f) : (s.modCtx f).mem = s.mem := rfl
theorem mem_modCtxOf (s : State) (n k : Nat) (f) : (s.modCtxOf n k f).mem = s.mem := rfl
/-- A packet of a context joins its core's queue behind the others, and nothing else of the core changes. -/
theorem core_packetOf (s : State) (n k : Nat) (ws : List Word) :
    (s.packetOf n k ws).core n = { s.core n with packets := (s.core n).packets ++ [(ws, [⟨n, k, s.seq⟩])] } := by
  unfold State.packetOf
  cases causeCounter (bits (ws.headD 0) 36 31) with
  | none => exact core_modCore_self s n (fun c => { c with packets := c.packets ++ [(ws, [⟨n, k, s.seq⟩])] })
  | some i => exact core_modCore_self (s.countError (s.blockOf n) i) n (fun c => { c with packets := c.packets ++ [(ws, [⟨n, k, s.seq⟩])] })
theorem cur_packetOf (s : State) (n k : Nat) (ws : List Word) : (s.packetOf n k ws).cur = s.cur := by
  unfold State.packetOf
  cases causeCounter (bits (ws.headD 0) 36 31) <;> rfl
theorem mem_packetOf (s : State) (n k : Nat) (ws : List Word) : (s.packetOf n k ws).mem = s.mem := by
  unfold State.packetOf
  cases causeCounter (bits (ws.headD 0) 36 31) <;> rfl
theorem me_packetOf (s : State) (k : Nat) (ws : List Word) :
    (s.packetOf s.cur.1 k ws).me = { s.me with packets := s.me.packets ++ [(ws, [⟨s.cur.1, k, s.seq⟩])] } := by
  unfold State.me; rw [cur_packetOf, core_packetOf]
theorem ctx_packetOf (s : State) (k : Nat) (ws : List Word) : (s.packetOf s.cur.1 k ws).ctx = s.ctx := by
  unfold State.ctx; rw [me_packetOf, cur_packetOf]; rfl
/-- Taking a precise fault is what R40 says it is. -/
theorem faulted_raise (s : State) (f : FaultInfo) : s.faulted (s.raise f) f := by
  have hc : (s.raise f).ctx = s.ctx.freeze := by
    unfold State.raise; rw [ctx_modCtx, ctx_packetOf]
  have hp : (s.raise f).me.packets.map (·.1) = s.me.packets.map (·.1) ++
      [packetWords s.cur.1 s.cur.2 f s.ctx.faultPc s.ctx.region.domain s.ctx.faultWord] := by
    unfold State.raise
    rw [me_modCtx, coreModCtx_packets, me_packetOf, List.map_append, List.map_cons, List.map_nil]
  have hm : (s.raise f).mem = s.mem := by unfold State.raise; rw [mem_modCtx]; exact mem_packetOf s _ _ _
  refine ⟨?_, ?_, ?_, ?_, ?_, ?_, ?_, ?_, ?_, hm, hp⟩ <;> rw [hc] <;> rfl

/-- What a fault found after its instruction retired leaves of its context (R40). -/
theorem ctx_raiseDeferred (s : State) (d : Deferred) : (s.raiseDeferred s.cur.1 s.cur.2 d).ctx =
    { s.ctx.freeze with fpc := d.fpc, deferred := s.ctx.deferred.drop 1 } := by
  unfold State.raiseDeferred
  have h : ∀ (u : State) (f : Ctx → Ctx) (c : Nat × Nat), u.cur = c → (u.modCtxOf c.1 c.2 f).ctx = f u.ctx := by
    intro u f c h; subst h; exact ctx_modCtx u f
  rw [h _ _ _ (cur_packetOf _ _ _ _), ctx_packetOf]

/-! ## Frames -/

/-- A retired word keeps all its context but the PC, the group and the issue priority. -/
theorem ctxFrame_retire (c : Ctx) (pc : Word) : CtxFrame noneX noneV false c (c.retire pc) :=
  ⟨fun _ _ => rfl, fun _ _ => rfl, rfl, rfl, rfl, ⟨rfl, rfl, rfl⟩, rfl, fun _ => ⟨rfl, rfl⟩, ⟨rfl, rfl, rfl, rfl, rfl⟩, rfl, rfl, rfl⟩

/-- A written x register is all that a write to it changes. -/
theorem ctxFrame_writeX (c : Ctx) (rd : BitVec 5) (v : Word) : CtxFrame (· == rd) noneV false c (c.writeX rd v) := by
  refine ⟨?_, fun _ _ => ?_, ?_, ?_, ?_, ?_, ?_, fun _ => ?_, ?_, ?_, ?_⟩
  · intro i hi
    have h : i ≠ rd := by simpa using hi
    simp [h]
  all_goals (unfold Ctx.writeX; split <;> simp [Ctx.readV])

/-- A change of the acting context keeps the rest of the machine. -/
theorem frame_of_modCtx {x : BitVec 5 → Bool} {v : BitVec 4 → Bool} {fl : Bool} (s : State) (f : Ctx → Ctx)
    (h : CtxFrame x v fl s.ctx (f s.ctx)) : Frame x v fl s (s.modCtx f) := by
  refine ⟨by rw [ctx_modCtx]; exact h, fun k hk => ctxOf_modCtx_ne s k f hk, fun n hn => core_modCtx_ne s n f hn, ?_, ?_, ?_, ?_,
    fun _ => rfl, fun _ => rfl, ⟨rfl, rfl, rfl⟩, rfl, fun _ => rfl, ⟨rfl, rfl⟩⟩
  all_goals rw [me_modCtx]; simp

/-- Frames compose. -/
theorem Frame.trans {x y : BitVec 5 → Bool} {v w : BitVec 4 → Bool} {fl : Bool} {s t u : State} (h : Frame x v fl s t)
    (hc : t.cur = s.cur) (k : Frame y w fl t u) : Frame (fun i => x i || y i) (fun i => v i || w i) fl s u where
  ctx := {
    xs := fun i hi => by
      have := Bool.or_eq_false_iff.mp hi
      rw [k.ctx.xs i this.2, h.ctx.xs i this.1]
    vs := fun i hi => by
      have := Bool.or_eq_false_iff.mp hi
      rw [k.ctx.vs i this.2, h.ctx.vs i this.1]
    m := k.ctx.m.trans h.ctx.m
    w := k.ctx.w.trans h.ctx.w
    q := k.ctx.q.trans h.ctx.q
    full := ⟨k.ctx.full.1.trans h.ctx.full.1, k.ctx.full.2.1.trans h.ctx.full.2.1, k.ctx.full.2.2.trans h.ctx.full.2.2⟩
    fpctl := k.ctx.fpctl.trans h.ctx.fpctl
    fpflags := fun e => ⟨(k.ctx.fpflags e).1.trans (h.ctx.fpflags e).1, (k.ctx.fpflags e).2.trans (h.ctx.fpflags e).2⟩
    special := ⟨k.ctx.special.1.trans h.ctx.special.1, k.ctx.special.2.1.trans h.ctx.special.2.1,
      k.ctx.special.2.2.1.trans h.ctx.special.2.2.1, k.ctx.special.2.2.2.1.trans h.ctx.special.2.2.2.1,
      k.ctx.special.2.2.2.2.trans h.ctx.special.2.2.2.2⟩
    region := k.ctx.region.trans h.ctx.region
    acquired := ⟨k.ctx.acquired.1.trans h.ctx.acquired.1, k.ctx.acquired.2.trans h.ctx.acquired.2⟩ }
  contexts := fun n hn => by rw [k.contexts n (by rw [hc]; exact hn), h.contexts n hn]
  cores := fun n hn => by rw [k.cores n (by rw [hc]; exact hn), h.cores n hn]
  channels := ⟨k.channels.1.trans h.channels.1, k.channels.2.trans h.channels.2⟩
  matrix := ⟨k.matrix.1.trans h.matrix.1, k.matrix.2.1.trans h.matrix.2.1, k.matrix.2.2.1.trans h.matrix.2.2.1,
    k.matrix.2.2.2.trans h.matrix.2.2.2⟩
  buffers := ⟨k.buffers.1.trans h.buffers.1, k.buffers.2.1.trans h.buffers.2.1, k.buffers.2.2.1.trans h.buffers.2.2.1,
    k.buffers.2.2.2.1.trans h.buffers.2.2.2.1, k.buffers.2.2.2.2.trans h.buffers.2.2.2.2⟩
  counters := ⟨k.counters.1.trans h.counters.1, k.counters.2.trans h.counters.2⟩
  mem := fun a => (k.mem a).trans (h.mem a)
  weights := fun a => (k.weights a).trans (h.weights a)
  requests := ⟨k.requests.1.trans h.requests.1, k.requests.2.1.trans h.requests.2.1, k.requests.2.2.trans h.requests.2.2⟩
  stk := k.stk.trans h.stk
  clusters := fun e => (k.clusters e).trans (h.clusters e)
  package := ⟨k.package.1.trans h.package.1, k.package.2.trans h.package.2⟩

/-- A note for the counters changes nothing a frame speaks of. -/
theorem Frame.note {x : BitVec 5 → Bool} {v : BitVec 4 → Bool} {fl : Bool} {s t : State} (h : Frame x v fl s t) (o : Occur) :
    Frame x v fl s (t.note o) :=
  ⟨h.ctx, h.contexts, h.cores, h.channels, h.matrix, h.buffers, h.counters, h.mem, h.weights, h.requests, h.stk, h.clusters,
    h.package⟩

/-- A retired word keeps the rest of the machine. -/
theorem frame_retire (s : State) (cls : Nat) (pc : Word) : Frame noneX noneV false s (s.retire cls pc) :=
  (frame_of_modCtx s _ (ctxFrame_retire s.ctx pc)).note _

end Sys2Proof.Machine
end

