-- ==== Sys2Proof/Tests/Slice0.lean ====
section
/-!
SUPPORT. This package's own tests: ill-formed terms that WellFormed refuses, words written out from the encodings of the spec, and for
every statement with hypotheses a small state, or several, that meet them.
-/

open Sys2Proof Sys2Proof.Machine

set_option Elab.async false

namespace Sys2Proof.Tests

/-! ## Ill-formed operands (R131, R152, R154, R164 to R175)

One for each check that `Instr.wf` makes, beside a neighbour the check lets through. -/

theorem test_wf_register_class : Instr.wf (.add ⟨1, 2, 3, 3, false, false, 0⟩) = false ∧ Instr.wf (.add ⟨1, 16, 3, 1, false, false, 0⟩) = false ∧
    Instr.wf (.add ⟨1, 15, 3, 1, false, false, 0⟩) = true ∧ Instr.wf (.mul ⟨1, 2, 16, 2, false, false, 0⟩) = false ∧
    Instr.wf (.clz ⟨1, 2, 2, false, 0⟩) = false := by decide
theorem test_wf_bswap_of_one_byte : Instr.wf (.bswap ⟨1, 2, 0, false, 3⟩) = false ∧ Instr.wf (.bswap ⟨1, 2, 0, false, 2⟩) = true := by decide
theorem test_wf_conversion_source : Instr.wf (.fcvtToFloat ⟨1, 2, 8, false, 0⟩) = false ∧ Instr.wf (.fcvtToFloat ⟨1, 2, 12, false, 0⟩) = true ∧
    Instr.wf (.fcvtToSigned ⟨1, 2, 4, false, 0⟩) = false := by decide
theorem test_wf_control_register : Instr.wf (.crr ⟨1, 0x003⟩) = false ∧ Instr.wf (.crr ⟨1, 0x11F⟩) = true ∧ Instr.wf (.crr ⟨1, 0x120⟩) = false ∧
    Instr.wf (.crw ⟨1, 0x026, false⟩) = false := by decide
theorem test_wf_load_mode : Instr.wf (.ld ⟨1, 2, 7, false, 0⟩) = false ∧ Instr.wf (.ld ⟨1, 2, 6, false, 0⟩) = true ∧
    Instr.wf (.st ⟨1, 2, 4, false, 0⟩) = false ∧ Instr.wf (.ldv ⟨1, 2, 0, true, false, false, 0⟩) = false := by decide
theorem test_wf_scope : Instr.wf (.lds ⟨1, 2, 5, false, 0, 0⟩) = false ∧ Instr.wf (.lds ⟨1, 2, 4, false, 0, 0⟩) = true ∧
    Instr.wf (.fenceAcq 5) = false := by decide
theorem test_wf_pairs : Instr.wf (.ldp ⟨1, 2, false, 0⟩) = false ∧ Instr.wf (.stp ⟨3, 2, false, 0⟩) = false ∧
    Instr.wf (.patset ⟨1, 3, 2, false, false⟩) = false ∧ Instr.wf (.cbcfgSet ⟨1, 2, 3, false, false⟩) = false ∧
    Instr.wf (.cas128 ⟨0, 3, 2, 4, false⟩) = false ∧ Instr.wf (.cas128 ⟨0, 2, 2, 4, false⟩) = true ∧ Instr.wf (.cas128 ⟨0, 2, 2, 4, true⟩) = false := by decide
theorem test_wf_prefetch_level : Instr.wf (.pref ⟨3, 2, false, 0⟩) = false := by decide
theorem test_wf_atomics : Instr.wf (.atomAdd ⟨0, 1, 2, 3, false, 2⟩) = false ∧ Instr.wf (.atomAdd ⟨0, 1, 2, 3, true, 0⟩) = false ∧
    Instr.wf (.atomAdd ⟨0, 1, 2, 4, true, 1⟩) = true ∧ Instr.wf (.atomFadd ⟨0, 1, 2, 3, false, 3⟩) = false ∧
    Instr.wf (.atomFaddP2 ⟨0, 1, 2, 3, false, 0⟩) = false ∧ Instr.wf (.atomDecb ⟨0, 1, 2, 3, false, 0⟩) = false ∧
    Instr.wf (.atomCas ⟨0, 1, 2, 4, true, 0⟩) = false ∧ Instr.wf (.atnAdd ⟨0, 1, 2, 3, false, 0⟩) = false ∧
    Instr.wf (.atnDecb ⟨0, 1, 2, 4, true, 0⟩) = false := by decide
theorem test_wf_fence_classes : Instr.wf (.fenceX ⟨0, 0, 1⟩) = false ∧ Instr.wf (.fenceX ⟨0, 1, 0⟩) = false ∧ Instr.wf (.fenceX ⟨0, 2, 2⟩) = false ∧
    Instr.wf (.fenceX ⟨0, 1, 2⟩) = true := by decide
theorem test_wf_views : Instr.wf (.vsplit ⟨1, 2, 1, false, false⟩) = false ∧ Instr.wf (.vshare ⟨1, 1, false⟩) = false ∧
    Instr.wf (.vmove ⟨1, 1, false⟩) = false ∧ Instr.wf (.vquery ⟨1, 1, false, 3⟩) = false ∧ Instr.wf (.qrd ⟨1, 1, false, 3⟩) = false := by decide
theorem test_wf_vector_mask : Instr.wf (.vadd ⟨1, 2, 3, 0, false, 1, false, false, false⟩) = false ∧
    Instr.wf (.vadd ⟨1, 2, 3, 0, false, 0, true, false, false⟩) = false ∧ Instr.wf (.vadd ⟨1, 2, 3, 0, true, 1, true, false, false⟩) = true := by decide
theorem test_wf_element_types : Instr.wf (.vadd ⟨1, 2, 3, 4, false, 0, false, false, false⟩) = false ∧
    Instr.wf (.vfadd ⟨1, 2, 3, 3, false, 0, false, false, false⟩) = false ∧ Instr.wf (.vdot ⟨1, 2, 3, 2, false, 0, false, false, false⟩) = false ∧
    Instr.wf (.vexp2 ⟨1, 2, 7, false, 0, false, false⟩) = false ∧ Instr.wf (.vpack ⟨1, 2, 3, 3, false, 0, false, false, false⟩) = false ∧
    Instr.wf (.vunpk ⟨1, 2, false, 0, false, 0, false, false⟩) = false ∧ Instr.wf (.vcq4 ⟨1, 2, 3, 7, false, false⟩) = false ∧
    Instr.wf (.vcvt ⟨1, 2, 8, 6, false, 0, false, false⟩) = false ∧ Instr.wf (.vcmpLtu ⟨1, 2, 3, 4, false, 0, false, false, false⟩) = false := by decide
theorem test_wf_lane_numbers : Instr.wf (.vslide ⟨1, 2, 3, 2, 4, false, false⟩) = false ∧ Instr.wf (.vslide ⟨1, 2, 3, 2, 3, false, false⟩) = true ∧
    Instr.wf (.vext ⟨1, 2, 2, 3, false⟩) = false ∧ Instr.wf (.vins ⟨1, 2, 8, 1, false⟩) = false := by decide
theorem test_wf_ring_and_gather_words : Instr.wf (.cbcfgRebuild ⟨5, 6, 2, false, true⟩) = false ∧ Instr.wf (.cbcfgRebuild ⟨5, 6, 3, false, false⟩) = false ∧
    Instr.wf (.cbcfgClear ⟨5, 6, 2, false, true⟩) = false ∧ Instr.wf (.cbcfgClear ⟨5, 6, 2, false, false⟩) = true ∧
    Instr.wf (.cpyg ⟨0, 2, 3, false, false⟩) = false ∧ Instr.wf (.cpyg ⟨0, 2, 4, false, false⟩) = true := by decide
theorem test_wf_hint_mod : Instr.wf (.hintMod ⟨true, 5, false, 0, 0, false⟩) = false ∧ Instr.wf (.hintMod ⟨false, 1, false, 0, 0, false⟩) = false ∧
    Instr.wf (.hintMod ⟨false, 0, true, 5, 0, false⟩) = false ∧ Instr.wf (.hintMod ⟨false, 0, false, 1, 0, false⟩) = false ∧
    Instr.wf (.hintMod ⟨false, 0, false, 0, 3, false⟩) = false ∧ Instr.wf (.hintMod ⟨true, 4, true, 4, 2, true⟩) = true := by decide
theorem test_wf_payload_runs : Instr.wf (.send ⟨1, 31, 1, false, false⟩) = false ∧ Instr.wf (.send ⟨1, 30, 1, false, false⟩) = true ∧
    Instr.wf (.send ⟨1, 15, 1, false, true⟩) = false ∧ Instr.wf (.sendmPm ⟨1, 31, false, false⟩) = false ∧
    Instr.wf (.sendmIadd ⟨1, 16, false, true⟩) = false ∧ Instr.wf (.spawn ⟨1, 2, 29, 3, false, false⟩) = false ∧
    Instr.wf (.hstart ⟨1, 2, 29, 3, false, false⟩) = false := by decide
theorem test_wf_unit_numbers : Instr.wf (.stop 33280) = false ∧ Instr.wf (.stop 33279) = true ∧ Instr.wf (.contextLoaded 0 11) = false ∧
    Instr.wf (.bankModeDone 512 0) = false ∧ Instr.wf (.bankModeDone 0 16) = false ∧ Instr.wf (.sliceAnswer 4 0) = false ∧
    Instr.wf (.sliceAnswer 0 16) = false ∧ Instr.wf (.engineCutRecord 0 16) = false ∧ Instr.wf (.portCutInject 24) = false ∧
    Instr.wf (.claim 0 16 0 0) = false ∧ Instr.wf (.tile 0 8 none) = false ∧ Instr.wf (.viewCmd 0 0 8) = false ∧
    Instr.wf (.streamCmd 0 0 4) = false := by decide


/-! ## Words the spec spells out (R130, R132, R157, R158, R177 to R197, R203 to R232, R240, R243 to R262, R263 to R287)

Each is given in the spec by its hexadecimal word and, beside it, its fields. -/

theorem test_decode_integer : decode 0x054B6011 = .ok (.sub ⟨10, 11, 12, 0, false, false, 1⟩) ∧
    decode 0x05AA7160 = .ok (.minu ⟨13, 10, 14, 0, false, false, 0⟩) ∧ decode 0x05F00182 = .ok (.clz ⟨15, 16, 0, false, 2⟩) ∧
    decode 0x2D095041 = .ok (.div ⟨8, 9, 10, 0, false, false, 1⟩) ∧ decode 0x2D695061 = .ok (.rem ⟨11, 9, 10, 0, false, false, 1⟩) ∧
    decode 0x04E20200 = .ok (.add ⟨7, 2, 0, 1, false, false, 0⟩) := ⟨rfl, rfl, rfl, rfl, rfl, rfl⟩
theorem test_decode_immediates : decode 0x08A5FFFE = .ok (.addi ⟨5, 5, 0x7FFF, false⟩) ∧ decode 0x08A6FFFB = .ok (.addi ⟨5, 6, 0x7FFD, true⟩) ∧
    decode 0x10E79BDE = .ok (.ori ⟨7, 7, 0x4DEF, false⟩) ∧ decode 0x18A6017E = .ok (.srai ⟨5, 6, 63, false⟩) ∧
    decode 0x24ECF135 = .ok (.lih ⟨7, 0x0CF135⟩) := ⟨rfl, rfl, rfl, rfl, rfl⟩
theorem test_decode_floating : decode 0x31095090 = .ok (.fcmpLt ⟨8, 9, 10, false, false, 0⟩) ∧
    decode 0x31690111 = .ok (.fcvtToSigned ⟨11, 9, 0, false, 1⟩) ∧ decode 0x31095001 = .ok (.fadd ⟨8, 9, 10, false, false, 1⟩) := ⟨rfl, rfl, rfl⟩
theorem test_decode_control : decode 0x38A00022 = .ok (.crr ⟨5, 0x011⟩) ∧ decode 0x38056022 = .ok (.crc ⟨0, 5, 0x011, false⟩) ∧
    decode 0x84000002 = .ok (.jal 2) ∧ decode 0x80A6A002 = .ok (.bgeu ⟨5, 6, 2⟩) ∧ decode 0x80A03FFE = .ok (.bne ⟨5, 0, 0x1FFE⟩) ∧
    decode 0x881F0000 = .ok (.jalr ⟨0, 31, 0, false⟩) ∧ decode 0x8C000000 = .ok .endBody := ⟨rfl, rfl, rfl, rfl, rfl, rfl, rfl⟩
theorem test_decode_hints : decode 0xFC012345 = .ok (.hintImm 0x012345) ∧ decode 0xFD900000 = .ok (.hintMod ⟨true, 1, false, 0, 0, false⟩) ∧
    decode 0xFEC80000 = .ok (.hintSched ⟨3, 8⟩) := ⟨rfl, rfl, rfl⟩
theorem test_decode_memory : decode 0x4105C002 = .ok (.ld ⟨8, 5, 6, false, 2⟩) ∧ decode 0x45262FFF = .ok (.st ⟨9, 6, 1, false, 0xFFF⟩) ∧
    decode 0x49054C02 = .ok (.lds ⟨8, 5, 2, false, 3, 2⟩) ∧ decode 0x59050002 = .ok (.ldp ⟨8, 5, false, 2⟩) ∧
    decode 0x51071000 = .ok (.ldv ⟨8, 7, 2, false, false, false, 0⟩) ∧ decode 0x55630801 = .ok (.stv ⟨11, 3, 1, false, false, 1⟩) :=
  ⟨rfl, rfl, rfl, rfl, rfl, rfl⟩
theorem test_decode_atomics : decode 0x61A0C928 = .ok (.atomIncb ⟨3, 8, 6, 9, false, 0⟩) ∧ decode 0x6480C901 = .ok (.atnAdd ⟨1, 0, 6, 9, false, 1⟩) ∧
    decode 0x69A0CA00 = .ok (.cas128 ⟨3, 8, 6, 10, false⟩) ∧ decode 0x61A0C941 = .ok (.atomFadd ⟨3, 8, 6, 9, false, 1⟩) := ⟨rfl, rfl, rfl, rfl⟩
theorem test_decode_fences : decode 0x6C000210 = .ok (.fenceRel 2) ∧ decode 0x6C000360 = .ok (.fenceX ⟨3, 1, 2⟩) := ⟨rfl, rfl⟩
theorem test_decode_views : decode 0x70060000 = .ok (.crnew ⟨0, 6, false⟩) ∧ decode 0x70270010 = .ok (.vsplit ⟨1, 7, 0, false, false⟩) ∧
    decode 0x70221840 = .ok (.vnarrow ⟨1, 2, 3, false, false⟩) := ⟨rfl, rfl, rfl⟩
theorem test_decode_messages : decode 0x900A4800 = .ok (.send ⟨10, 9, 0, false, false⟩) ∧ decode 0x900C4220 = .ok (.sendmPm ⟨12, 8, false, false⟩) ∧
    decode 0x900A1810 = .ok (.sendv ⟨10, 3, false⟩) ∧ decode 0x900A2601 = .ok (.send ⟨10, 4, 3, false, true⟩) ∧
    decode 0x94A60000 = .ok (.chnew ⟨5, 6, 0, false, false⟩) ∧ decode 0x94085040 = .ok (.patset ⟨0, 8, 10, false, false⟩) :=
  ⟨rfl, rfl, rfl, rfl, rfl, rfl⟩
theorem test_decode_starting : decode 0x98C74210 = .ok (.hstart ⟨6, 7, 8, 1, false, false⟩) ∧
    decode 0x99674600 = .ok (.spawn ⟨11, 7, 8, 3, false, false⟩) ∧ decode 0x99A00020 = .ok (.hstat 13) ∧
    decode 0xA00C6840 = .ok (.rep ⟨0, 12, 13, false, false⟩) := ⟨rfl, rfl, rfl, rfl⟩
theorem test_decode_vectors : decode 0xC1005000 = .ok (.vadd ⟨4, 0, 1, 2, false, 0, false, false, false⟩) ∧
    decode 0xC988F500 = .ok (.vfma ⟨6, 2, 3, 6, true, 1, false, false, false⟩) ∧
    decode 0xC508F002 = .ok (.vfadd ⟨4, 2, 3, 6, false, 0, false, true, false⟩) ∧ decode 0xDA603000 = .ok (.vexp2 ⟨9, 8, 6, false, 0, false, false⟩) ∧
    decode 0xCD589000 = .ok (.vld ⟨5, 6, 2, 2, false, 0, false, false⟩) ∧
    decode 0xCDD27010 = .ok (.vgath ⟨7, 4, 9, 6, false, 0, false, false, false⟩) := ⟨rfl, rfl, rfl, rfl, rfl, rfl⟩
theorem test_decode_vectors_two : decode 0xD148D08C = .ok (.vslide ⟨5, 2, 3, 2, 1, false, false⟩) ∧
    decode 0xD4C9F000 = .ok (.vcvt ⟨3, 2, 7, 6, false, 0, false, false⟩) ∧ decode 0xD499F014 = .ok (.vcq4 ⟨2, 6, 7, 6, false, false⟩) ∧
    decode 0xDC517008 = .ok (.vcmpLt ⟨1, 4, 5, 6, false, 0, false, false, false⟩) ∧ decode 0xD2103028 = .ok (.vredMax ⟨8, 4, 6, false, 0, false, false⟩) ∧
    decode 0xD2603000 = .ok (.vshuf ⟨9, 8, 0, 6, false, 0, false, false, false⟩) := ⟨rfl, rfl, rfl, rfl, rfl, rfl⟩
theorem test_decode_matrix : decode 0xE118E000 = .ok (.mgang ⟨2, 6, 7⟩) ∧ decode 0xE1980004 = .ok (.mmas ⟨3, 6⟩) ∧
    decode 0xE52D8040 = .ok (.ard ⟨2, 11, 12⟩) := ⟨rfl, rfl, rfl⟩
theorem test_decode_residues : decode 0xE9270000 = .ok (.rnfwd ⟨9, 7, false, 0⟩) ∧ decode 0xE9496040 = .ok (.rnmul ⟨10, 9, 12, false, false⟩) ∧
    decode 0xE90A0010 = .ok (.rnrev ⟨8, 10, false⟩) := ⟨rfl, rfl, rfl⟩
theorem test_decode_copies : decode 0xEE95B000 = .ok (.cpy ⟨20, 21, 22, false, false⟩) ∧ decode 0xEE8A0080 = .ok (.weirnew ⟨20, 10, false⟩) ∧
    decode 0xEC1400A1 = .ok (.weirarmFree ⟨20, false⟩) := ⟨rfl, rfl, rfl⟩
theorem test_decode_fates : decode 0 = .error .major ∧ decode 0x8C040001 = .ok (.trap 1) ∧ decode 0x8C000001 = .error .mustBeZero ∧
    decode 0x8C100000 = .error .function ∧ decode 0xFF000000 = .error .function ∧ decode 0x4105E002 = .error .reserved := ⟨rfl, rfl, rfl, rfl, rfl, rfl⟩


/-! ## Small states

The states the hypotheses of the statements are met in. -/

/-- The reset state with its acting context, 0 of core 0, changed. -/
def ctxWith (f : Ctx → Ctx) : State := State.reset.modCtx f
/-- The reset state with core 0 changed. -/
def coreWith (f : Core → Core) : State := State.reset.modCore 0 f
/-- The reset state with stack 0 changed. -/
def stackWith (f : Stack → Stack) : State := State.reset.modStack 0 f
/-- The reset state, acting as the keeper of cluster 0. -/
def keeperAt : State := { State.reset with cur := (Config.keeperOf 0, 0) }
/-- The reset state with an x register of the acting context written. -/
def xWith (i : BitVec 5) (v : Word) : State := ctxWith (·.writeX i v)
/-- Register x1 of the acting context empty. -/
def x1Empty : State := ctxWith fun c => { c with xfull := BitVec.allOnes 32 &&& ~~~2 }
/-- A HINT.IMM before the acting context's next word. -/
def afterImm : State := ctxWith fun c => { c with group := some ⟨0, 0, some 0, none, none⟩ }
/-- A word placed for core 0 to issue. -/
def placed (w : Word32) : State := State.reset.withFetchWord 32 w.toNat
/-- Context 1 of core 0 acting for a resident device, x2 at the start of a page it may read and write. -/
def onPage : State :=
  ({ State.reset.withFetchWord 32 0 with cur := (0, 1), agenda := [] }.modMe fun c => { c with dtlb := c.itlb }).modCtx (·.writeX 2 (BitVec.ofNat 64 fetchPlace))

/-- `onPage` with a page of the covered class, and w1 a view of its first 256 bytes with every right. -/
def onView : State :=
  let leaf := placeLeaf ||| BitVec.ofNat 64 (2 ^ 46)
  (onPage.modMe fun c => { c with dtlb := [pageEntry 1 fetchPlace leaf] }).modCtx
    (·.writeW 1 ⟨BitVec.ofNat 64 fetchPlace, 7, 9, true, true, true, 0, 256, 0⟩)
/-- A state acting for the keeper of cluster 0, with the page and x2 as in `onPage`. -/
def keeperOnPage : State :=
  ({ onPage with cur := (Config.keeperOf 0, 0) }.modMe fun c => { c with dtlb := [pageEntry 1 fetchPlace placeLeaf] }).modCtx
    (·.writeX 2 (BitVec.ofNat 64 fetchPlace))
/-- The package as one pound, with a device resident. -/
def inPound : State := { State.reset with pounds := [placePound] }
/-- `inPound` with one range that maps the device's first 4 GiB to themselves, a covered pool of four spans, a block at
address 0 with budgets of energy and cycles, and one at fetchPlace with a spans budget of 4. -/
def mapped : State :=
  let put (m : Memory) (p : Nat × Nat) : Memory := writeMem m p.1 (toBytes 8 p.2)
  { inPound with
    devRegs := [(.rtRoot 0 1, 0x100), (.crPoolBase 0 1, 0x20000), (.crPoolLen 0 1, 4)]
    mem := [(32, 100), (40, 100), (0x100, 0x11), (0x128, 2 ^ 32), (0x138, placeLeaf.toNat), (fetchPlace + 48, 4)].foldl put [] }
/-- A register whose value waits for `n` bytes at an address. -/
def waitsFor (d : Dest) (fin : Finish) (va : Word) (n : Nat) (value : Option Nat) : Pend :=
  ⟨0, d, [⟨0, va, n, 0, 0, false, false, 0, 0, value⟩], fin, true, none, 0, false, none, none⟩
/-- A buffered store of a context of core 0. -/
def aStore (window : Bool) (va : Word) (pa : Nat) : Store :=
  ⟨1, 0, va, 8, 0xFF, 0x0123456789ABCDEF, pa, 0, window, false, none, none, 0, 0, 0⟩
/-- A request of core 0. -/
def aReq (asker : Asker) (op : MemOp) (pa : Nat) : MemReq := ⟨asker, op, BitVec.ofNat 64 pa, pa, 0, none, 1, 0, 0, 0, false, none, 0, 0⟩
/-- A message of core 0. -/
def aMsg (name : Word) (p : Payload) : Msg := ⟨name, .data, p, Config.chip, 0, .core, [], 0, 0, false, 1⟩
/-- An outbox entry of context 0 that releases nothing. -/
def anEntry (item : OutItem) : OutEntry := ⟨item, 0, .core, [], none, 0⟩

/-- A word of a rule takes its effect on a context at rest, in the mode it needs. -/
theorem clear_of {s : State} (r : WordRule) (hd : s.ctx.deferred = []) (hg : s.ctx.group = none) (hr : s.ctx.rep = none)
    (hf : s.ctx.xfull = BitVec.allOnes 32 ∧ s.ctx.vfull = BitVec.allOnes 16 ∧ s.ctx.wfull = BitVec.allOnes 8)
    (hp : r.priv = true → isKeeper s.cur.1 = true) : s.Clear r := by
  have full : ∀ n : RegName, s.ctx.full n = true := by
    intro n
    cases n with
    | x i => rw [Ctx.full, hf.1, BitVec.getLsbD_allOnes, decide_eq_true i.isLt, Bool.or_true]
    | v i => rw [Ctx.full, hf.2.1, BitVec.getLsbD_allOnes, decide_eq_true i.isLt]
    | m i => rfl
    | w i => rw [Ctx.full, hf.2.2, BitVec.getLsbD_allOnes, decide_eq_true i.isLt]
  exact ⟨hd, by rw [hg]; rfl, hp, by rw [repHolds, hr], fun _ _ => full _, fun _ _ => full _⟩

theorem clear_reset (r : WordRule) (h : r.priv = false) : State.reset.Clear r :=
  clear_of r (by decide +kernel) (by decide +kernel) (by decide +kernel) (by decide +kernel) (fun e => by rw [h] at e; cases e)
theorem clear_keeperAt (r : WordRule) : keeperAt.Clear r :=
  clear_of r (by decide +kernel) (by decide +kernel) (by decide +kernel) (by decide +kernel) (fun _ => by decide +kernel)
theorem clear_onPage (r : WordRule) (h : r.priv = false) : onPage.Clear r :=
  clear_of r (by decide +kernel) (by decide +kernel) (by decide +kernel) (by decide +kernel) (fun e => by rw [h] at e; cases e)
/-- A change of the acting context that leaves its registers full keeps it at rest. -/
theorem clear_ctxWith (f : Ctx → Ctx) (r : WordRule) (h : r.priv = false)
    (hd : (f Ctx.reset).deferred = [] ∧ (f Ctx.reset).group = none ∧ (f Ctx.reset).rep = none)
    (hf : (f Ctx.reset).xfull = BitVec.allOnes 32 ∧ (f Ctx.reset).vfull = BitVec.allOnes 16 ∧ (f Ctx.reset).wfull = BitVec.allOnes 8) :
    (ctxWith f).Clear r := by
  have e : (ctxWith f).ctx = f Ctx.reset := ctx_modCtx State.reset f
  exact clear_of r (by rw [e]; exact hd.1) (by rw [e]; exact hd.2.1) (by rw [e]; exact hd.2.2) (by rw [e]; exact hf)
    (fun e => by rw [h] at e; cases e)
/-- A right answer has what it answers. -/
theorem right_of {α β γ : Type} {x : α ⊕ (β × γ)} (h : x.isRight = true) : ∃ a b, x = .inr (a, b) := by
  cases x with
  | inl a => cases h
  | inr b => exact ⟨b.1, b.2, rfl⟩

/-- The name of a slot of core 0, of its first generation and device 1. -/
def named (slot : Nat) : Word := mkName 0 0 slot 1 1

/-! ## The statements' hypotheses are met

For each statement with hypotheses, a theorem that shows states and operands meeting those of each of its clauses together. -/

theorem meets_EncodedWordsDecode : (Instr.sub ⟨10, 11, 12, 0, false, false, 1⟩).wf = true ∧
    encode (.sub ⟨10, 11, 12, 0, false, false, 1⟩) = some 0x054B6011 ∧ (Instr.lih ⟨31, 0x1FFFFF⟩).wf = true ∧
    (encode (.lih ⟨31, 0x1FFFFF⟩)).isSome = true := by decide +kernel
theorem meets_DecodedWordsEncode : decode 0x08A5FFFE = .ok (.addi ⟨5, 5, 0x7FFF, false⟩) := rfl
theorem meets_SysWords : ([0x8C200000, 0x8C010000, 0x8C000000, 0x8C000001, 0x8C04FFFF, 0x8C080001, 0x8C0C0000, 0x8C100000, 0x8C1CFFFF] : List Word32).all
      (fld · 26 6 == 0x23) = true ∧
    fld (0x8C200000 : Word32) 21 5 ≠ 0 ∧ fld (0x8C010000 : Word32) 16 2 ≠ 0 ∧
    ([0x8C000000, 0x8C000001, 0x8C04FFFF, 0x8C080001, 0x8C0C0000, 0x8C100000, 0x8C1CFFFF] : List Word32).all
      (fun w => fld w 21 5 == 0 && fld w 16 2 == 0) = true ∧
    fld (0x8C000000 : Word32) 18 3 = 0 ∧ fld (0x8C000000 : Word32) 0 16 = 0 ∧ fld (0x8C000001 : Word32) 0 16 ≠ 0 ∧
    fld (0x8C04FFFF : Word32) 18 3 = 1 ∧ fld (0x8C080001 : Word32) 18 3 = 2 ∧ fld (0x8C0C0000 : Word32) 18 3 = 3 ∧
    (fld (0x8C100000 : Word32) 18 3).toNat = 4 ∧ (fld (0x8C1CFFFF : Word32) 18 3).toNat = 7 ∧ State.reset.ctx.deferred = [] := by decide +kernel
theorem meets_HintWords : ([0xFC000000, 0xFD900000, 0xFDD00000, 0xFD0D0000, 0xFD00C000, 0xFD000001, 0xFEC80000, 0xFE000001, 0xFF000000] : List Word32).all
      (fld · 26 6 == 0x3F) = true ∧
    fld (0xFC000000 : Word32) 24 2 = 0 ∧
    ([0xFD900000, 0xFDD00000, 0xFD0D0000, 0xFD00C000, 0xFD000001] : List Word32).all (fld · 24 2 == 1) = true ∧
    (let ok (w : Word32) : Prop := fld w 0 13 = 0 ∧ (if flag w 23 = true then (fld w 20 3).toNat ≤ 4 else fld w 20 3 = 0) ∧
        (if flag w 19 = true then (fld w 16 3).toNat ≤ 4 else fld w 16 3 = 0) ∧ fld w 14 2 ≠ 3
     ok 0xFD900000 ∧ ¬ok 0xFDD00000 ∧ ¬ok 0xFD0D0000 ∧ ¬ok 0xFD00C000 ∧ ¬ok 0xFD000001) ∧
    fld (0xFEC80000 : Word32) 24 2 = 2 ∧ fld (0xFEC80000 : Word32) 0 16 = 0 ∧ fld (0xFE000001 : Word32) 24 2 = 2 ∧
    fld (0xFE000001 : Word32) 0 16 ≠ 0 ∧ fld (0xFF000000 : Word32) 24 2 = 3 ∧ State.reset.ctx.deferred = [] := by decide +kernel

theorem meets_FourRegisterWords :
    ([0x34000000, 0x34000008, 0x34000010, 0x34000018, 0x34000020, 0x34000038] : List Word32).all (fld · 26 6 == 0x0D) = true ∧
    (fld (0x34000000 : Word32) 3 3 = 0 ∧ fld (0x34000008 : Word32) 3 3 = 1 ∧ fld (0x34000010 : Word32) 3 3 = 2 ∧ fld (0x34000018 : Word32) 3 3 = 3 ∧
      (fld (0x34000020 : Word32) 3 3).toNat = 4 ∧ (fld (0x34000038 : Word32) 3 3).toNat = 7) ∧
    (let r (e : Bool) : WordRule := { srcs := [(.x 1, e), (.x 2, e), (.x 3, e)], dests := [.x 4] }
     State.reset.Clear (r false) ∧ x1Empty.ctx.deferred = [] ∧ x1Empty.ctx.group.all (groupSuits (r true)) = true ∧
     repHolds (r true) x1Empty = false ∧ (r true).srcs.find? (fun p => p.2 && !x1Empty.ctx.full p.1) = some (.x 1, true) ∧
     (∀ p ∈ (r false).srcs, p.2 = true → x1Empty.ctx.full p.1 = true) ∧ ∃ p ∈ (r false).srcs, x1Empty.ctx.full p.1 = false) := by decide +kernel
theorem meets_ShiftImmediateWords :
    ([0x18A60000, 0x18A60080, 0x18A6017E] : List Word32).all (fun w => fld w 26 6 == 6 && fld w 9 7 == 0) = true ∧
    fld (0x18A60000 : Word32) 7 2 = 0 ∧ fld (0x18A60080 : Word32) 7 2 = 1 ∧ fld (0x18A6017E : Word32) 7 2 = 2 ∧
    (xWith 6 (BitVec.ofInt 64 (-1))).Clear { srcs := [(.x 6, false)], dests := [.x 5] } ∧ afterImm.ctx.deferred = [] ∧
    afterImm.ctx.group = some ⟨0, 0, some 0, none, none⟩ := by decide +kernel

theorem meets_StepRunsTheDecodedWord :
    (let s := coreWith id
     ({ s with agenda := [.issue 0] } : State).agenda = [.issue 0] ∧ (State.tick { s with agenda := [] } 0).issuer 0 = none) ∧
    (let ok (w : Word32) : Bool := (placed w).agenda == [.issue 0] &&
      (let u := State.tick { placed w with agenda := [] } 0
       (u.issuer 0).any fun v => v.cur.1 == 0 && v.ctx.deferred.isEmpty && v.ctx.slot.isEmpty && (v.withWord 0).nextWord.isRight)
     ok 0x08A5FFFE = true ∧ ok 0 = true) ∧
    (∃ i, decode 0x08A5FFFE = .ok i) ∧ (∃ e, decode 0 = .error e) ∧
    (let u := State.tick { (placed 0) with agenda := [], cores := (placed 0).cores.map fun c => (c.1, { c.2 with itlb := [] }) } 0
     (u.issuer 0).any fun v => v.ctx.deferred.isEmpty && (v.withWord 0).nextWord.isLeft) ∧
    (let here : State := { placed 0 with cur := (0, 1) }
     let away : State := here.modMe fun c => { c with icache := [] }
     let near : State := away.modCluster 0 fun k => { k with lines := [⟨fetchPlace, 0, none, 0, 7, 0, 0⟩] }
     let old : State := (away.modCluster 0 fun k => { k with lines := [⟨fetchPlace, 0, none, 0, 7, 0, 0⟩] }).modCtx fun c => { c with acqCl := 1 }
     let va := BitVec.ofNat 64 fetchPlace
     let ok (s : State) : Bool := s.ctx.slot.isEmpty && !inWindows va && (s.translate 0 true va).1 == some (fetchPlace, placeLeaf) &&
       leafX placeLeaf && leafTgt placeLeaf == 0 && (let u := (s.translate 0 true va).2
       u.leafOk (u.tagOf u.cur.1).toNat placeLeaf fetchPlace && !u.reqPoisoned (codeReq u va fetchPlace placeLeaf))
     let u (s : State) : State := (s.translate 0 true va).2
     let asked (s : State) : State := { s with net := [codeReq s va fetchPlace placeLeaf] }
     [here, away, near, old, asked away].all ok = true ∧ (findLine (u here).me.icache fetchPlace 0 none).isSome = true ∧
      [away, near, old].all (fun s => (findLine (u s).me.icache fetchPlace 0 none).isNone && !(u s).codeAsked fetchPlace) = true ∧
      (((u away).cluster 0).find fetchPlace 0 none) = none ∧
      (((u near).cluster 0).find fetchPlace 0 none).any (fun c => decide ((u near).ctx.acqCl.toNat ≤ c.fill.toNat) &&
        decide (((u near).cluster 0).codeAcq.toNat ≤ c.fill.toNat)) = true ∧
      (((u old).cluster 0).find fetchPlace 0 none).all (fun c => decide (c.fill.toNat < (u old).ctx.acqCl.toNat)) = true ∧
      (u (asked away)).codeAsked fetchPlace = true) := by
  refine ⟨by decide +kernel, by decide +kernel, ⟨_, rfl⟩, ⟨_, rfl⟩, by decide +kernel, ?_⟩
  decide +kernel
theorem meets_StopsAreNeverOverdue : State.reset.noStopDue ∧ ∃ t, step State.reset = .next t := by
  refine ⟨fun n k _ h => ?_, _, rfl⟩
  have : ((State.reset.core n).ctx k).stopReq = false := by
    have e : State.reset.core n = Core.reset := rfl
    rw [e]; simp [Core.ctx, Core.reset, Ctx.reset]
  rw [this] at h; cases h
theorem meets_DeltasStayBelowTheirLimits : State.reset.deltasBelow := by
  intro n
  have e : State.reset.core n = Core.reset := rfl
  rw [e]
  refine ⟨by simp [Core.reset], fun k _ => ?_⟩
  simp only [Core.ctx, Core.reset, Ctx.reset, Vector.getElem_replicate]
  decide

theorem meets_IntegerTwoSource : (xWith 12 (BitVec.allOnes 64)).Clear (alu2Rule ⟨10, 11, 12, 0, false, false, 0⟩) ∧
    State.reset.Clear (alu2Rule ⟨31, 15, 31, 1, true, true, 3⟩) := by decide +kernel
theorem meets_OneSourceAndImmediateWords : State.reset.Clear (alu1Rule ⟨15, 16, 0, false, 2⟩) ∧
    (xWith 5 0x8000).Clear { imm := true, srcs := [(.x 5, true)], dests := [.x 0] } ∧ afterImm.Clear { imm := true, dests := [.x 7] } := by
  decide +kernel
theorem meets_ScalarFloatingWords : State.reset.Clear (fp2Rule ⟨8, 9, 10, false, false, 1⟩) ∧ State.reset.Clear (fp1Rule 8 9 true) ∧
    State.reset.Clear { rm := true, srcs := [(.x 1, false), (.x 2, true), (.x 3, false)], dests := [.x 4] } := by decide +kernel
theorem meets_NaNsAndRounding : isNaN (fval .f64 0x7FF0000000000001) = true ∧ isNaN (fval .f64 0x7FF8000000000000) = true ∧ 0 < (1 : Nat) := by
  decide +kernel
theorem meets_ControlRegisters : State.reset.Clear { priv := crPriv 0x011, dests := [.x 5] } ∧ crSlice 0x011 = false ∧ flagsWait State.reset 0x011 = false ∧
    State.reset.Clear { priv := crPriv 0x010, srcs := [(.x 5, true)] } ∧ crSlice 0x010 = false ∧
    State.reset.Clear { priv := crPriv 0x011, srcs := [(.x 5, false)], dests := [.x 6] } ∧ crSlice 0x040 = true ∧ crSlice 0x04F = true ∧
    keeperAt.Clear { priv := crPriv 0x040, dests := [.x 5] } ∧ keeperAt.Clear { priv := crPriv 0x04F, srcs := [(.x 5, false)] } := by
  decide +kernel
theorem meets_BranchesAndJumps : State.reset.Clear { imm := true, srcs := [(.x 5, false), (.x 6, false)] } ∧
    afterImm.Clear { imm := true, dests := [.x 31] } ∧ State.reset.Clear { imm := true, srcs := [(.x 31, false)], dests := [.x 0] } ∧
    (State.reset.ctx.readX 31 + State.reset.immediate true (0 : BitVec 16)).toNat % 4 = 0 ∧
    (State.reset.ctx.readX 31 + State.reset.immediate true (2 : BitVec 16)).toNat % 4 ≠ 0 := by decide +kernel
theorem meets_EndsTrapsAndServices : x1Empty.Clear { noHint := true, rep := true } ∧ x1Empty.ctx.allFull = false ∧
    State.reset.Clear { noHint := true, rep := true } ∧ State.reset.ctx.allFull = true ∧ State.reset.me.outbox.length ≤ 8 ∧
    State.reset.me.spill.any Spill.isOut = false ∧ State.reset.me.pairOf State.reset.cur.2 = none ∧ State.reset.Clear {} ∧
    State.reset.Clear { srcs := [(.x 10, false), (.x 11, false), (.x 12, false)], dests := [.x 10] } ∧ State.reset.me.outFull = false := by
  decide +kernel
theorem meets_HintsAndIllegalWords : State.reset.ctx.deferred = [] ∧ State.reset.ctx.group = none ∧
    (let s := ctxWith fun c => { c with group := some ⟨0, 0, some 0, some ⟨true, 0, false, 0, 0, false⟩, some ⟨3, 63⟩⟩ }
     s.ctx.deferred = [] ∧ s.ctx.group.all fun g => g.imm.isSome && g.mod.isSome && g.sched.isSome) ∧
    1 < (⟨3, 63⟩ : HintSched).count.toNat := by decide +kernel

/-- Two faults found after their instructions retired. -/
def twoDeferred : State := ctxWith fun c => { c with deferred := [⟨⟨.rnsOverflow, 0, 0⟩, 4⟩, ⟨⟨.residueMismatch, 1, 0⟩, 8⟩] }
theorem meets_FaultsAtIssue : (∃ body, ∀ u, exec (.madd ⟨4, 1, 2, 3, true, false, false⟩) u =
      issue { srcs := [(.x 1, true), (.x 2, false), (.x 3, false)], dests := [.x 4] } body u) ∧
    (let r : WordRule := { srcs := [(.x 1, true), (.x 2, false), (.x 3, false)], dests := [.x 4] }
     x1Empty.ctx.deferred = [] ∧ x1Empty.ctx.group.all (groupSuits r) = true ∧ (r.priv = true → isKeeper x1Empty.cur.1 = true) ∧
     repHolds r x1Empty = false ∧ r.srcs.find? (fun p => p.2 && !x1Empty.ctx.full p.1) = some (.x 1, true) ∧
     afterImm.ctx.deferred = [] ∧ afterImm.ctx.group.all (groupSuits r) = false ∧
     twoDeferred.ctx.deferred = [⟨⟨.rnsOverflow, 0, 0⟩, 4⟩, ⟨⟨.residueMismatch, 1, 0⟩, 8⟩]) ∧
    (∃ body, ∀ u, exec (.madd ⟨1, 2, 2, 3, false, false, false⟩) u =
      issue { srcs := [(.x 2, false), (.x 2, false), (.x 3, false)], dests := [.x 1] } body u) ∧
    (let r : WordRule := { srcs := [(.x 2, false), (.x 2, false), (.x 3, false)], dests := [.x 1] }
     (∀ p ∈ r.srcs, p.2 = true → x1Empty.ctx.full p.1 = true) ∧ ∃ q ∈ r.srcs.map (·.1) ++ r.dests, x1Empty.ctx.full q = false) ∧
    (∃ body, ∀ u, exec .cinvAll u = issue { priv := true, imm := true } body u) ∧
    (let r : WordRule := { priv := true, imm := true }
     State.reset.ctx.group.all (groupSuits r) = true ∧ r.priv = true ∧ isKeeper State.reset.cur.1 = false) ∧
    crPriv 0x012 = true := by
  refine ⟨⟨_, fun _ => rfl⟩, by decide +kernel, ⟨_, fun _ => rfl⟩, by decide +kernel, ⟨_, fun _ => rfl⟩, by decide +kernel, by decide +kernel⟩

theorem meets_LoadsIssue :
    (onPage.Clear { imm := true, cpol := true, srcs := [(.x 2, false)], dests := [.x 8] } ∧
      ∀ n ∈ [1, 8], onPage.mayLoad n false (destX 8) [(0, onPage.ctx.memAddr 2 (0 : BitVec 12) n, n)]) ∧
    (onPage.Clear { imm := true, scope := true, cpol := true, srcs := [(.x 2, true)], dests := [.x 0] } ∧
      (onPage.strongReady (onPage.ctx.scopeOr 4) && onPage.storesHome (onPage.ctx.memAddr 2 (1 : BitVec 10) 8) 8) = true ∧
      onPage.mayLoad 8 false (destX 0) [(0, onPage.ctx.memAddr 2 (1 : BitVec 10) 8, 8)]) ∧
    (onView.Clear { cpol := true, srcs := [(.x 3, false), (.w 1, true)], dests := [.x 8] } ∧
      viewCheck (onView.ctx.readW 1) .r (onView.ctx.readX 3) 8 8 = .ok (BitVec.ofNat 64 fetchPlace) ∧
      onView.mayLoad 8 true (destX 8) [(0, BitVec.ofNat 64 fetchPlace, 8)]) ∧
    (onPage.Clear { imm := true, cpol := true, srcs := [(.x 2, false)], dests := [.x 8, .x (8 + 1)] } ∧
      onPage.mayLoad 16 false (.xx 8 (8 + 1)) [(0, onPage.ctx.memAddr 2 (0 : BitVec 12) 16, 16)]) := by
  refine ⟨⟨by decide +kernel, ?_⟩, ⟨by decide +kernel, by decide +kernel, right_of (by decide +kernel)⟩,
    ⟨by decide +kernel, by decide +kernel, right_of (by decide +kernel)⟩, by decide +kernel, right_of (by decide +kernel)⟩
  intro n hn
  rcases List.mem_cons.mp hn with rfl | hn
  · exact right_of (by decide +kernel)
  · rw [List.mem_singleton.mp hn]; exact right_of (by decide +kernel)

/-- A store's checks passed, with room where its parts go. -/
theorem mayStore_of {s : State} {al : Nat} {strict v : Bool} {parts : List (Word × Nat × BitVec 16 × BitVec 128)}
    (h : (match s.storeChecks al strict v .none parts [] with
      | .inl _ => false
      | .inr (ps, _) => decide (s.me.stores.length + (storeRoom ps).1 ≤ 16) && decide (s.me.sideLog.length + (storeRoom ps).2 ≤ 32)) = true) :
    s.mayStore al strict v parts := by
  cases e : s.storeChecks al strict v .none parts [] with
  | inl d => rw [e] at h; cases h
  | inr p =>
    rw [e] at h
    have := Bool.and_eq_true_iff.mp h
    exact ⟨p.1, p.2, e, of_decide_eq_true this.1, of_decide_eq_true this.2⟩
theorem meets_StoresIssue :
    (onPage.Clear { imm := true, cpol := true, srcs := [(.x 2, false), (.x 9, false)] } ∧
      onPage.mayStore 8 false false [(onPage.ctx.memAddr 2 (0 : BitVec 12) 8, 8, firstBytes 8, (onPage.ctx.readX 9).setWidth 128)]) ∧
    (onPage.Clear { imm := true, scope := true, cpol := true, srcs := [(.x 2, false), (.x 9, false)] } ∧
      onPage.strongReady (onPage.ctx.scopeOr 0) = true ∧
      onPage.mayStore 1 true false [(onPage.ctx.memAddr 2 (0 : BitVec 10) 1, 1, firstBytes 1, (onPage.ctx.readX 9).setWidth 128)]) ∧
    (onView.Clear { cpol := true, srcs := [(.x 3, false), (.w 1, false), (.x 9, false)] } ∧
      viewCheck (onView.ctx.readW 1) .w (onView.ctx.readX 3) 8 8 = .ok (BitVec.ofNat 64 fetchPlace) ∧
      onView.mayStore 8 false true [(BitVec.ofNat 64 fetchPlace, 8, firstBytes 8, (onView.ctx.readX 9).setWidth 128)]) ∧
    (onPage.Clear { imm := true, cpol := true, srcs := [(.x 2, false), (.x 8, false), (.x (8 + 1), false)] } ∧
      onPage.mayStore 16 false false [(onPage.ctx.memAddr 2 (0 : BitVec 12) 16, 16, firstBytes 16, onPage.ctx.readX (8 + 1) ++ onPage.ctx.readX 8)]) := by
  exact ⟨⟨by decide +kernel, mayStore_of (by decide +kernel)⟩, ⟨by decide +kernel, by decide +kernel, mayStore_of (by decide +kernel)⟩,
    ⟨by decide +kernel, by decide +kernel, mayStore_of (by decide +kernel)⟩, by decide +kernel, mayStore_of (by decide +kernel)⟩
theorem meets_AccessChecks :
    (let s := xWith 2 1
     s.Clear { imm := true, cpol := true, srcs := [(.x 2, false), (.x 8, false)], dests := [.x 8] } ∧
      (s.ctx.memAddr 2 (0 : BitVec 12) (modeBytes 1)).toNat % modeBytes 1 ≠ 0 ∧
     s.Clear { imm := true, scope := true, cpol := true, srcs := [(.x 2, false), (.x 8, false)], dests := [.x 8] } ∧
      (s.strongReady (s.ctx.scopeOr 1) && s.storesHome (s.ctx.memAddr 2 (0 : BitVec 10) (sizeBytes 3)) (sizeBytes 3)) = true ∧
      (s.ctx.memAddr 2 (0 : BitVec 10) (sizeBytes 3)).toNat % sizeBytes 3 ≠ 0 ∧
     s.Clear { imm := true, cpol := true, srcs := [(.x 2, false), (.x 8, false), (.x (8 + 1), false)], dests := [.x 8, .x (8 + 1)] } ∧
      (s.ctx.memAddr 2 (0 : BitVec 12) 16).toNat % 16 ≠ 0) ∧
    (let fits (s : State) : Bool := decide (s.Clear { cpol := true, srcs := [(.x 3, false), (.w 1, false)], dests := [.x 8] }) &&
      decide (s.Clear { cpol := true, srcs := [(.x 3, false), (.w 1, false), (.x 8, false)] })
     let f (s : State) : Option Cause := if !(s.ctx.readW 1).live || !(s.ctx.readW 1).canR then some .viewRights
        else if (s.ctx.readX 3).toNat < (s.ctx.readW 1).lo.toNat || (s.ctx.readW 1).hi.toNat < (s.ctx.readX 3).toNat + 8 then some .viewBounds
        else if (s.ctx.readX 3).toNat % 8 ≠ 0 then some .align else none
     fits State.reset ∧ f State.reset = some .viewRights ∧ fits (onView.modCtx (·.writeX 3 249)) ∧
       f (onView.modCtx (·.writeX 3 249)) = some .viewBounds ∧ fits (onView.modCtx (·.writeX 3 247)) ∧
       f (onView.modCtx (·.writeX 3 247)) = some .align) := by decide +kernel
/-- The keeper of cluster 0 at BANKMODE, its bank 0 changed. -/
def bankState (f : Bank → Bank) (w : Option (Nat × Nat × Bool)) : State :=
  (keeperAt.modMe fun c => { c with bankWait := w }).modCluster 0 (·.modBank 0 f)
/-- The bank the acting context's BANKMODE names. -/
def bankOf (s : State) : Bank := (s.cluster (clusterOf s.cur.1)).bank (bits (s.ctx.readX 2) 3 0)
/-- Whether a BANKMODE of x2 takes its effect. -/
def clear (s : State) : Bool := decide (s.Clear { priv := true, imm := true, srcs := [(.x 2, false)] })
theorem meets_CacheWordsAndBanks :
    (let va := onPage.ctx.memAddr 2 (0 : BitVec 12) 1
     onPage.Clear { imm := true, cpol := true, srcs := [(.x 2, false)] } ∧ inWindows va = false ∧
      (onPage.translate onPage.cur.1 false va).1 = some (fetchPlace, placeLeaf) ∧ leafCR placeLeaf = false ∧ leafR placeLeaf = true ∧
      leafTgt placeLeaf = 0 ∧ onPage.leafOk (onPage.tagOf onPage.cur.1).toNat placeLeaf fetchPlace = true) ∧
    (let s := xWith 2 (BitVec.ofNat 64 Config.reservedWindow)
     s.Clear { imm := true, cpol := true, srcs := [(.x 2, false)] } ∧ inWindows (s.ctx.memAddr 2 (0 : BitVec 12) 1) = true) ∧
    (let r := (onView.translate onView.cur.1 false (onView.ctx.memAddr 2 (0 : BitVec 12) 1)).1
     onView.Clear { imm := true, cpol := true, srcs := [(.x 2, false)] } ∧ inWindows (onView.ctx.memAddr 2 (0 : BitVec 12) 1) = false ∧
      r.any fun p => leafCR p.2) ∧
    (let va := keeperOnPage.ctx.memAddr 2 (0 : BitVec 12) 1
     keeperOnPage.Clear { priv := true, imm := true, srcs := [(.x 2, false)] } ∧ inWindows va = false ∧
      (keeperOnPage.translate keeperOnPage.cur.1 false va).1 = some (fetchPlace, placeLeaf) ∧
      keeperOnPage.leafOk (keeperOnPage.tagOf keeperOnPage.cur.1).toNat placeLeaf fetchPlace = true) ∧
    (let gone : State := onPage.modMe fun c => { c with dtlb := [] }
     let shut : State := onPage.modMe fun c => { c with dtlb := [pageEntry 1 fetchPlace (placeLeaf &&& ~~~BitVec.ofNat 64 (2 ^ 45))] }
     let va := onPage.ctx.memAddr 2 (0 : BitVec 12) 1
     gone.Clear { imm := true, cpol := true, srcs := [(.x 2, false)] } ∧ (gone.translate gone.cur.1 false va).1 = none ∧
      shut.Clear { imm := true, cpol := true, srcs := [(.x 2, false)] } ∧
      (shut.translate shut.cur.1 false va).1.any (fun p => !leafCR p.2 && !leafR p.2) = true) ∧
    (let r : WordRule := { priv := true, imm := true, srcs := [(.x 2, false)] }
     let far : State := keeperOnPage.modMe fun c => { c with dtlb := [pageEntry 1 fetchPlace (placeLeaf ||| BitVec.ofNat 64 (2 ^ 61))] }
     let window : State := keeperOnPage.modCtx (·.writeX 2 (BitVec.ofNat 64 Config.reservedWindow))
     far.Clear r ∧ (far.translate far.cur.1 false (far.ctx.memAddr 2 (0 : BitVec 12) 1)).1.any (fun p => leafTgt p.2 != 0) = true ∧
      window.Clear r ∧ inWindows (window.ctx.memAddr 2 (0 : BitVec 12) 1) = true ∧
      (keeperOnPage.cores.all fun c => !c.2.translatedOpen fun _ _ => true) = true ∧ keeperOnPage.requests = []) ∧
    (let e := pageEntry 1 fetchPlace placeLeaf
     let s : State := { (keeperOnPage.modCore 0 fun c => { c with stores := [aStore false (BitVec.ofNat 64 fetchPlace) fetchPlace] }).modCluster 0
       (fun c => { c with tlb := [e] }) with seq := 2 }
     s.Clear { priv := true, imm := true, srcs := [(.x 2, false)] } ∧ s.me.tlbWait = none ∧ 0 ∈ clusterCores 0 ∧ (s.core 0).stores.length = 1 ∧
      e.tag = s.tagOf s.cur.1 ∧ e.first ≤ fetchPlace ∧ fetchPlace < e.limit ∧ (s.cluster 0).tlb = [e] ∧ clusterOf s.cur.1 = 0) ∧
    keeperAt.Clear { priv := true, imm := true } ∧ keeperAt.ctx.immZ (0 : BitVec 12) = 0 ∧
    clear (bankState (fun b => { b with sys := true }) none) = true ∧ (bankState (fun b => { b with sys := true }) none).me.bankWait = none ∧
    (bankOf (bankState (fun b => { b with sys := true }) none)).sys = true ∧
    clear (bankState id none) = true ∧ (bankState id none).me.bankWait = none ∧ (bankOf (bankState id none)).sys = false ∧
    (bankOf (bankState id none)).ringCount = 0 ∧ (bankOf (bankState id none)).busy = none ∧
    bankModeOf (bits ((bankState id none).ctx.readX 2) 9 8) = some .cache ∧ clear (bankState id (some (0, 0, true))) = true ∧
    (bankState id (some (0, 0, true))).me.bankWait = some (keeperAt.cur.2, 0, true) ∧
    (((bankState (fun b => { b with busy := some .scratch }) none).cluster 0).bank 0).busy = some .scratch ∧ 0 < Config.clusters := by
  and_intros <;> decide +kernel

/-- `onPage` with a number of entries in its atomic queue and spill ring. -/
def queued (n m : Nat) : State :=
  let e : AtomEntry := ⟨1, 2, 0, 0, 0, false, none, ⟨0, 0, false, 1, 0⟩, .core, 0, 0, 0, 0⟩
  onPage.modMe fun c => { c with atomQ := List.replicate n e, spill := List.replicate m (.atom e) }
theorem meets_AtomicsIssue :
    (let o : Atomic := ⟨0, 8, 2, 9, false, 0⟩
     let va := BitVec.ofNat 64 fetchPlace
     onPage.Clear { scope := true, srcs := atomSrcs 0x00 o, dests := [.x 8] } ∧ atomAddr onPage.ctx false 2 9 8 = .ok (va, none) ∧
      (atomOp onPage.ctx 0x00 o).bytes = 8 ∧ va.toNat % 8 = 0 ∧ (!inWindows va && onPage.me.pageLogged va) = false ∧
      (onPage.access onPage.cur.1 .atom va 8 8 false).1 = .ok ⟨.dram, fetchPlace, placeLeaf⟩ ∧
      (onPage.strongReady (onPage.ctx.scopeOr 0) && onPage.storesHome va 8 && !onPage.loadOpen va 8 && !onPage.atomicOpen va 8) = true) ∧
    (let va := BitVec.ofNat 64 fetchPlace
     onPage.Clear { scope := true, srcs := [(.x 2, false), (.x 8, false), (.x (8 + 1), false)] ++ [(.x 10, false), (.x (10 + 1), false)], dests := [.x 8, .x (8 + 1)] } ∧
      atomAddr onPage.ctx false 2 10 16 = .ok (va, none) ∧ va.toNat % 16 = 0 ∧
      (onPage.access onPage.cur.1 .atom va 16 16 false).1 = .ok ⟨.dram, fetchPlace, placeLeaf⟩ ∧
      (onPage.strongReady (onPage.ctx.scopeOr 4) && onPage.storesHome va 16 && !onPage.loadOpen va 16 && !onPage.atomicOpen va 16) = true) ∧
    (let o : Atomic := ⟨0, 0, 2, 4, true, 0⟩
     let va := BitVec.ofNat 64 fetchPlace
     let s := onView.modCtx (·.writeX 2 0)
     s.Clear { scope := true, srcs := atomSrcs 0x00 o, dests := [.x 0] } ∧
      (atomAddr s.ctx true 2 4 8).toOption.map (·.1) = some va ∧ s.me.pageLogged va = false ∧
      (s.access s.cur.1 .atom va 8 8 true).1 = .ok ⟨.dram, fetchPlace, placeLeaf ||| BitVec.ofNat 64 (2 ^ 46)⟩) ∧
    (let o : Atomic := ⟨0, 0, 2, 9, false, 1⟩
     let va := BitVec.ofNat 64 fetchPlace
     let fits (s : State) : Bool := decide (s.Clear { scope := true, srcs := atomSrcs 0x09 o }) && s.storesHome va 4 &&
       (s.access s.cur.1 .atn va 4 4 false).1 == .ok ⟨.dram, fetchPlace, placeLeaf⟩
     (atomOp onPage.ctx 0x09 o).bytes = 4 ∧ fits (queued 7 0) = true ∧ (queued 7 0).me.atomQ.length < 8 ∧ fits (queued 8 255) = true ∧
      8 ≤ (queued 8 255).me.atomQ.length ∧ (queued 8 255).me.spill.length < 256 ∧ fits (queued 8 256) = true ∧
      256 ≤ (queued 8 256).me.spill.length) := by
  refine ⟨?_, ?_, ?_, ?_⟩ <;> decide +kernel

/-- A request of core 0 to bank 0 of cluster 0, which is open. -/
def atBank (op : MemOp) : State :=
  { inPound.modCluster 0 (·.modBank 0 fun b => { b with mode := .scratch }) with
    net := [aReq (.atomic 0 0 1) op Config.csWindow] }
theorem meets_AtomicValues :
    (let a : AtomOp := ⟨0x00, 0, false, 5, 0⟩
     let s := atBank (.atomic a)
     let r := aReq (.atomic 0 0 1) (.atomic a) Config.csWindow
     s.net[0]? = some r ∧ r.op = .atomic a ∧ Config.csWindow ≤ r.pa ∧ s.mayTake s.net 0 r = true ∧ s.pairWaits r = false ∧
      s.windowState r.pa a.bytes r.va = .ok ⟨.bank 0 0, Config.csWindow, 0⟩ ∧ (∀ o ∈ (a.apply (readMem s.mem r.pa a.bytes)).2, o.2.ev = 0) ∧
      (s.core 0).pairOf 0 = none) := by decide +kernel
theorem meets_StoresAndAtomicsLeave :
    (let st := aStore true (BitVec.ofNat 64 Config.ownWindow) (lsKey 0 0)
     let s := inPound.modCore 0 fun c => { c with stores := [st] }
     coreIn 0 = true ∧ (s.core 0).stores = [st] ∧ (s.core 0).mayDrain st = true ∧ (s.core 0).pairOf st.ctx = none ∧ st.remote = false ∧
      st.window = true ∧ s.windowState st.pa st.len st.va = .ok ⟨.sram 0, lsKey 0 0, 0⟩) ∧
    (let st := aStore false 0 0
     let s := coreWith fun c => { c with stores := [st] }
     (s.core 0).stores = [st] ∧ (s.core 0).mayDrain st = true ∧ (s.core 0).pairOf st.ctx = none ∧ st.remote = false ∧ st.window = false) ∧
    (let st := { aStore false 0 0 with remote := true }
     let s := coreWith fun c => { c with stores := [st] }
     (s.core 0).stores = [st] ∧ (s.core 0).mayDrain st = true ∧ (s.core 0).pairOf st.ctx = none ∧ s.storeFar 0 st.seq = false) ∧
    (let s := { queued 1 0 with cur := (0, 2) }
     coreIn 0 = true ∧ (s.core 0).atomQ.length = 1 ∧ (s.core 0).pairOf 2 = none ∧ s.strongDone 0 2 .core 1 = true ∧
      (((s.core 0).ctx 2).pends.any fun p => decide (p.seq < 1) && p.pieces.any fun q => q.value.isNone && overlaps 0 8 q.va.toNat q.len) = false) ∧
    (let s : State := { coreWith (fun c => { c with stores := [aStore false 0 0] }) with seq := 2 }
     s.Clear { scope := true } ∧ (s.me.atomsApplied s.cur.2 && s.allDone (s.ctx.scopeOr 1)) = false) ∧
    (State.reset.Clear { scope := true } ∧ (State.reset.loadsDone && State.reset.allDone (State.reset.ctx.scopeOr 4)) = true ∧ State.reset.me.l1Epoch ≠ 65535) := by
  refine ⟨?_, ?_, ?_, ?_, ?_, ?_⟩ <;> decide +kernel
theorem meets_HomeSlicesAndFills :
    (let r := aReq (.load 0 0 1 0) (.read 8 false false 0) 128
     let s := { State.reset with net := [r] }
     s.net[0]? = some r ∧ r.homed = true ∧ s.mayTake s.net 0 r = true ∧ s.pairWaits r = false ∧ s.migOf r.pa = none ∧
      ((s.stack (paStack r.pa)).slice (paSlice r.pa)).queue.length < 64) ∧
    (let w := aReq (.store 0 0 1) (.write 0xFFFF 1) 0
     let r := aReq (.load 0 0 1 0) (.read 8 false false 0) 0
     let s (r : MemReq) : State := stackWith (·.modSlice 0 fun l => { l with queue := [r] })
     (((s w).stack 0).slice 0).queue = [w] ∧ (s w).migOf w.pa = none ∧ (s w).firstTouch w = none ∧ (((s r).stack 0).slice 0).queue = [r] ∧
      (s r).firstTouch r = none ∧ (s r).reqPoisoned r = false) ∧
    (let r := aReq (.rma 4) (.read 8 false false 0) 0
     let w : Rma := ⟨4, false, 0, 0, 8, [], none, 8, []⟩
     let s : State := { stackWith (·.modSlice 0 fun l => { l with queue := [r] }) with rmas := [w] }
     ((s.stack 0).slice 0).queue = [r] ∧ s.migOf r.pa = none ∧ s.firstTouch r = none ∧ s.reqPoisoned r = false ∧ r.asker = .rma w.id) ∧
    (let ok (p : Pend) : Bool := p.pieces.all (fun q => q.value.isSome) && !p.isRead && p.poison.isNone && !p.isBlock
     let s (p : Pend) : State := ctxWith fun c => { c with pends := [p] }
     ok (waitsFor (.x 5) (.load 8 true) 0 8 (some 0)) = true ∧ ok (waitsFor (.x 5) (.load 1 false) 0 1 (some 255)) = true ∧
      ok (waitsFor (.xx 0 1) .pair 0 16 (some 1)) = true ∧ ok (waitsFor (.v 3) (.lanes 8 0xFFFF 0) 0 16 (some 1)) = true ∧
      (((s (waitsFor (.x 5) (.load 8 true) 0 8 (some 0))).core 0).ctx 0).pends[0]? = some (waitsFor (.x 5) (.load 8 true) 0 8 (some 0)) ∧
      (((s (waitsFor (.x 5) (.load 8 true) 0 8 (some 0))).core 0).ctx 0).rep = none) ∧
    (let r := { aReq (.occ 0 0 1) (.write 0 0) 15 with key := 3 }
     let s := { State.reset with net := [r] }
     s.net = [r] ∧ r.key = 3 ∧ r.pa = 15) := by
  refine ⟨?_, ?_, ?_, ?_, ?_⟩ <;> decide +kernel

/-- `onView` with w1 a view of other bounds and rights. -/
def viewed (lo hi : BitVec 32) (w : Bool) : State :=
  onView.modCtx (·.writeW 1 ⟨BitVec.ofNat 64 fetchPlace, 7, 9, w, true, true, 0, hi, lo⟩)
theorem meets_ViewWords :
    (onView.Clear { srcs := [(.x 2, false)], dests := [.w 1] } ∧ (onView.ctx.readW 1).live = true) ∧
    (onView.Clear { srcs := [(.x 2, false)], dests := [.w 0] } ∧ (onView.ctx.readW 0).live = false ∧ onView.me.outFull = false) ∧
    (let s (x : Word) : State := (viewed 0 256 true).modCtx (·.writeX 2 x)
     let fits (s : State) : Bool := decide (s.Clear { srcs := [(.x 2, false), (.w 1, false)], dests := [.w 0, .w 1] }) && !(s.ctx.readW 0).live
     let cut (s : State) : Bool := (s.ctx.readW 1).live && decide ((s.ctx.readW 1).lo.toNat < (s.ctx.readX 2).toNat) &&
       decide ((s.ctx.readX 2).toNat < (s.ctx.readW 1).hi.toNat)
     ((s 0).ctx.readX 2).toNat ≤ ((s 0).ctx.readW 1).lo.toNat ∧ fits (s 0) = true ∧ fits (s 1) = true ∧ cut (s 1) = true ∧ cut (s 255) = true ∧
      fits (s 255) = true ∧ fits (s 256) = true ∧ ((s 256).ctx.readW 1).hi.toNat ≤ ((s 256).ctx.readX 2).toNat) ∧
    ((viewed 0 256 true).Clear { srcs := [(.w 1, true)], dests := [.w 0] } ∧ ((viewed 0 256 true).ctx.readW 1).canW = true ∧
      (viewed 0 256 false).Clear { srcs := [(.w 1, true)], dests := [.w 0] } ∧ ((viewed 0 256 false).ctx.readW 1).live = true ∧
      ((viewed 0 256 false).ctx.readW 1).canW = false ∧ (viewed 0 256 false).me.outFull = false) ∧
    (State.reset.Clear { srcs := [(.w 2, false)], dests := [.w 2] } ∧ (State.reset.ctx.readW 2).live = false ∧
      onView.Clear { srcs := [(.w 1, false)], dests := [.w 1] } ∧ onView.Clear { srcs := [(.w 1, true)], dests := [.x 5] } ∧
      onView.Clear { srcs := [(.w 1, false)], dests := [.w 2, .w 1] } ∧ onView.Clear { srcs := [(.w 2, false)], dests := [.w 1, .w 2] }) ∧
    (let s (a b : Word) : State := ((viewed 8 256 true).modCtx (·.writeX 4 a)).modCtx (·.writeX 5 b)
     let fits (s : State) : Bool := decide (s.Clear { srcs := [(.x 4, false), (.x 5, false), (.w 1, false)], dests := [.w 1] }) && !s.me.outFull
     let no (s : State) : Bool := decide ((s.ctx.readX 4).toNat < (s.ctx.readW 1).lo.toNat ∨ (s.ctx.readW 1).hi.toNat < (s.ctx.readX 5).toNat ∨
       (s.ctx.readX 5).toNat < (s.ctx.readX 4).toNat)
     fits (s 8 256) = true ∧ no (s 8 256) = false ∧ no (s 7 256) = true ∧ no (s 8 257) = true ∧ no (s 16 15) = true ∧ no (s 16 16) = false) := by
  refine ⟨?_, ?_, ?_, ?_, ?_, ?_⟩ <;> decide +kernel

/-- `mapped` with a request at the head of the Colander of stack 0. -/
def atColander (r : ViewReq) : State := mapped.modStack 0 fun t => { t with colander := { t.colander with queue := [r] } }
/-- A CRNEW of a number of bytes, of device `tag`, charged to a block. -/
def alloc (bytes : Word) (tag : BitVec 16) (at_ : Nat) : ViewReq := .alloc 0 0 1 0 bytes (BitVec.ofNat 64 at_) 0 tag
/-- `atColander` with the Colander's tables full. -/
def fullTables (r : ViewReq) : State := (atColander r).modStack 0 fun t =>
  { t with colander := { t.colander with regions := List.replicate 16384 ⟨0, 0, 0, [], 0, 2⟩, views := List.replicate 65536 ⟨0, 0, 0, 0⟩ } }
theorem meets_TheColander_full (r : ViewReq) : 16384 ≤ ((fullTables r).stack 0).colander.regions.length ∧
    65536 ≤ ((fullTables r).stack 0).colander.views.length ∧ ((fullTables r).stack 0).colander.queue = [r] :=
  ⟨Nat.le_of_eq List.length_replicate.symm, Nat.le_of_eq List.length_replicate.symm, rfl⟩
theorem meets_TheColander :
    (let s := atColander (alloc 4096 1 fetchPlace)
     (s.stack 0).colander.queue = [alloc 4096 1 fetchPlace] ∧ (s.pool 0 1).2 = 4 ∧ (s.pool 0 2).2 = 0 ∧ (2 : Nat) ^ 30 < (0x40000001 : Word).toNat ∧
      (s.stack 0).colander.regions.length < 16384 ∧ (s.stack 0).colander.views.length < 65536 ∧
      lowestRun ((s.stack 0).colander.used 1 (s.pool 0 1).1) 4 4 = some 0 ∧ lowestRun ((s.stack 0).colander.used 1 (s.pool 0 1).1) 4 5 = none ∧
      4 ≤ s.budget 1 (BitVec.ofNat 64 fetchPlace) 2 ∧ s.budget 1 0 2 < 1) ∧
    (let v : View := ⟨0, 7, 9, false, true, true, 0, 256, 0⟩
     ((atColander (.split 0 0 1 0 1 v 8)).stack 0).colander.queue = [.split 0 0 1 0 1 v 8] ∧
     ((atColander (.share 0 0 1 0 v)).stack 0).colander.queue = [.share 0 0 1 0 v] ∧
     ((atColander (.notice 9 7 none)).stack 0).colander.queue = [.notice 9 7 none]) ∧
    (let a : ViewAnswer := ⟨0, 0, 1, 0, View.null, none⟩
     let s := { ctxWith (fun c => { c with pends := [{ waitsFor (.w 0) .whole 0 0 none with seq := 1 }] }) with answers := [a] }
     s.answers = [a] ∧ ((s.core a.core).ctx a.ctx).pends.any (·.seq == a.seq) = true ∧ (s.core a.core).pairOf a.ctx = none) ∧
    (let e : OutEntry := { anEntry (.view 0 (.notice 9 7 none)) with cover := [⟨0, 0, 0⟩] }
     let s := coreWith fun c => { c with outbox := [e] }
     coreIn 0 = true ∧ (s.core 0).outbox = [e] ∧ (s.core 0).pairOf 0 = none ∧ e.cover.all (fun v => s.viewIdle 0 9 7 v.upTo) = true ∧
      (s.core 0).noticeBefore 9 e.seq = false ∧ (s.core 0).spill = []) := by
  refine ⟨?_, ?_, ?_, ?_⟩ <;> decide +kernel

/-- A context whose QCFG, at x2, has read its bytes. -/
def hasRead (n : Nat) : State := onPage.modCtx fun c => { c with pends := [{ waitsFor .none .whole 0 32 (some n) with pc := c.pc }] }
theorem meets_AffineStreamsStep :
    (let e : Vector (BitVec 16) 4 := #v[3, 0, 1, 65535]
     let i : Vector (BitVec 16) 4 := #v[2, 0, 0, 65534]
     ∀ k : Fin 4, (i.get k).toNat < max 1 (e.get k).toNat) ∧
    ((xWith 2 16).Clear { rep := true, srcs := [(.x 2, false)] } ∧ ((xWith 2 16).ctx.readX 2).toNat % 32 ≠ 0) ∧
    (onPage.Clear { rep := true, srcs := [(.x 2, false)] } ∧ (onPage.ctx.readX 2).toNat % 32 = 0 ∧ onPage.ctx.reads = []) ∧
    onPage.mayLoad 1 false .none (parts16 0 (onPage.ctx.readX 2) 32) ∧
    (let p : Pend := { waitsFor .none .whole 0 32 (some 0) with pc := onPage.ctx.pc }
     (hasRead 0).ctx.reads = [p] ∧ p.poison = none ∧ p.open_ = false ∧ (hasRead 0).Clear { rep := true, srcs := [(.x 2, false)] } ∧
      (p.gather / 256 ^ 0 % 256 ^ 8) % 2 = 0 ∧ p.gather / 256 ^ 0 % 256 ^ 8 < (hasRead 0).me.sysbase ∧
      skipSeek (hasRead 0) (hasRead 0).cur.1 0 (p.gather / 256 ^ 8 % 256 ^ 4) 0x4001 = some (0, 0, none)) ∧
    (State.reset.Clear { rep := true, srcs := [(.x 2, true)] } ∧ State.reset.ctx.readQ 1 = .off ∧
      (let s := ctxWith (·.writeQ 1 (.aff 0 #v[3, 0, 0, 0] #v[4, 0, 0, 0] #v[0, 0, 0, 0] 0 false))
       s.Clear { rep := true, srcs := [(.x 2, true)] } ∧ s.ctx.readQ 1 ≠ .off ∧
        (streamSteps s s.cur.1 (s.ctx.readX 2).toNat (s.ctx.readQ 1)).isSome = true ∧ s.Clear { rep := true, dests := [.x 5] } ∧
        (s.ctx.readQ 1).view 0 = some 0)) ∧
    (State.reset.Clear { rep := true, dests := [.x 5] } ∧ (State.reset.ctx.readQ 1).view 0 = none) := by
  refine ⟨by decide +kernel, by decide +kernel, by decide +kernel, right_of (by decide +kernel), by decide +kernel, by decide +kernel, by decide +kernel⟩

/-- `onPage` with the words of its line given, and x12 a count. -/
def atRep (line : BitVec 1024) (count : Word) : State :=
  (onPage.modMe fun c => { c with icache := [⟨fetchPlace, 0, none, 0, line, 0, 0⟩] }).modCtx (·.writeX 12 count)
/-- A sequence of one word about to issue. -/
def aSequence (w : Word32) (count pass : Nat) (untilDone : Bool) : RepSeq :=
  ⟨[w], 0x20004, 0, 1, count, untilDone, pass, 0, 0x20004, false, none, 0, 0⟩
/-- Context 0 of core 0 running, with a sequence of its own. -/
def sequencing (q : RepSeq) : State := coreWith fun c => { c.modCtx 0 (fun x => { x with rep := some q, state := .running }) with repOwner := some 0 }
/-- Whether the sequencer's next word, of opcode `w`, ends in a next state in which its context still runs. -/
def sequenceRuns (q : RepSeq) : Bool :=
  match decodeCaptured (stagger q.stag q.index (q.pass % q.win) (q.words.getD q.index 0)) with
  | .error _ => false
  | .ok i => match execCaptured i with
    | none => false
    | some run => match run { (sequencing q).modCtxOf 0 0 (·.inSequence q) with cur := (0, 0) } with
      | .next u => ((u.core 0).ctx 0).state == .running && ((u.core 0).ctx 0).pc != q.at_ + BitVec.ofNat 64 (4 * q.index)
      | _ => false
theorem meets_Repetition :
    (let takes (s : State) (ws : List Word32) : Bool := decide (s.Clear { rep := true, srcs := [(.x 12, false), (.x 13, false)] }) &&
       s.me.repOwner.isNone && (match s.capture (s.ctx.pc + 4) 1 [] with | .inl _ => false | .inr (vs, _) => vs == ws)
     takes (atRep 0 1) [0] = true ∧ mayCapture [0] = false ∧ takes (atRep (BitVec.ofNat 1024 (0xC1005000 * 2 ^ 32)) 0) [0xC1005000] = true ∧
      takes (atRep (BitVec.ofNat 1024 (0xC1005000 * 2 ^ 32)) 2) [0xC1005000] = true ∧ mayCapture [0xC1005000] = true ∧
      bits ((atRep 0 2).ctx.readX 12) 31 0 = 2 ∧ bits ((atRep 0 0).ctx.readX 12) 31 0 = 0 ∧ (atRep 0 2).ctx.xfull = BitVec.allOnes 32) ∧
    (let q := aSequence 0xC1005000 2 0 false
     let s := sequencing q
     coreIn 0 = true ∧ (s.core 0).repOwner = some 0 ∧ ((s.core 0).ctx 0).rep = some q ∧ ((s.core 0).ctx 0).state = .running ∧
      (s.core 0).halted = false ∧ (s.core 0).killing = none ∧ (s.core 0).ending = false ∧ sequenceRuns q = true ∧
      sequenceRuns (aSequence 0xC1005000 2 1 false) = true) := by
  refine ⟨?_, ?_⟩ <;> decide +kernel
theorem meets_VectorLanes : State.reset.Clear (vec2Rule false false ⟨4, 0, 1, 2, true, 3, false, false, true⟩) ∧
    State.reset.Clear (vec1Rule false ⟨4, 0, 0, false, 0, false, false⟩) ∧ State.reset.Clear (vec2Rule false true ⟨4, 0, 1, 1, false, 0, false, false, false⟩) ∧
    etBits 1 ≤ 32 ∧ State.reset.Clear (vec2Rule true false ⟨4, 2, 3, 6, false, 0, false, true, false⟩) ∧
    State.reset.Clear (vec2Rule true true ⟨6, 2, 3, 6, true, 1, false, false, false⟩) ∧ State.reset.Clear (vec1Rule true ⟨9, 8, 6, false, 0, false, false⟩) := by
  decide +kernel
theorem meets_VectorPermutesAndReductions : State.reset.Clear (vec2Rule false false ⟨4, 0, 1, 0, true, 3, true, false, true⟩) ∧
    State.reset.Clear { rep := true, srcs := [(.v 2, false), (.v 3, false)], dests := [.v 5] } ∧
    State.reset.Clear { rep := true, srcs := [(.v 2, true)], dests := [.x ((3 : BitVec 4).setWidth 5)] } ∧
    State.reset.Clear { rep := true, srcs := [(.x ((3 : BitVec 4).setWidth 5), false), (.v 5, false)], dests := [.v 5] } ∧
    State.reset.Clear (vsplatRule ⟨5, 3, 2, false, 0, false, false⟩) ∧ State.reset.Clear (vredRule ⟨5, 2, 0, true, 1, false, false⟩) ∧
    fmtOfEt 0 = none ∧ State.reset.Clear (vredRule ⟨5, 2, 7, false, 0, false, false⟩) ∧ fmtOfEt 7 = some .f64 ∧ fmtOfEt 6 = some .f32 ∧
    State.reset.Clear (vcvtRule ⟨5, 2, 6, 2, false, 0, false, false⟩) ∧ State.reset.Clear (vec2Rule true false ⟨5, 2, 3, 2, false, 0, false, false, false⟩) ∧
    etBits 2 = 32 ∧ State.reset.Clear (vunpkRule ⟨5, 2, true, 1, false, 0, false, false⟩) ∧ 16 ≤ etBits 1 ∧
    State.reset.Clear (vec2Rule true false ⟨5, 2, 3, 6, false, 0, false, false, false⟩) ∧
    State.reset.Clear { rep := true, srcs := [(.v 2, false), (.v 3, true)], dests := [.v 5] } ∧
    State.reset.Clear { rep := true, srcs := [(.v 2, true)], dests := [.v 5] } := by
  and_intros <;> decide +kernel

/-- `onPage` with q0 standing at the page. -/
def streaming : State := onPage.modCtx (·.writeQ 0 (.aff (BitVec.ofNat 64 fetchPlace) #v[4, 0, 0, 0] #v[16, 0, 0, 0] #v[0, 0, 0, 0] 0 false))
/-- `onPage` with pages of 32-bit floats. -/
def formatted : State := onPage.modMe fun c => { c with dtlb := [pageEntry 1 fetchPlace (placeLeaf ||| BitVec.ofNat 64 (4 * 2 ^ 49))] }
/-- `onPage` with x2 at a local window. -/
def onWindow : State := onPage.modCtx (·.writeX 2 (BitVec.ofNat 64 Config.ownWindow))
/-- `onPage` with x3 past its elements at x2. -/
def blockAt (x2 x3 : Nat) : State :=
  (onPage.modCtx (·.writeX 2 (BitVec.ofNat 64 x2))).modCtx (·.writeX 3 (BitVec.ofNat 64 x3))
/-- Whether every access of a block word at x2 and x3 passes its checks. -/
def blockReady (s : State) (dest : Dest) (bytes size : Nat) : Bool :=
  match s.loadChecks 1 false dest (parts16 0 (s.ctx.readX 2) bytes) [] with
  | .inl _ => false
  | .inr (_, u) => (u.storeChecks 1 true false dest (blockParts (s.ctx.readX 3) (List.replicate size 0)) []).isRight
theorem meets_VectorMemory_loads :
    (let o : VecMem := ⟨5, 2, 0, 2, false, 0, false, false⟩
     onPage.Clear (vecMemRule true o) ∧ (BitVec.ofNat 64 fetchPlace : Word).toNat % 16 = 0 ∧
      (onPage.ctx.readX 2 + BitVec.ofInt 64 ((0 : BitVec 4).toInt * 16)) = BitVec.ofNat 64 fetchPlace ∧
      onPage.Clear (vecMemRule false o) ∧ (xWith 2 8).Clear (vecMemRule true o) ∧ ((xWith 2 8).ctx.readX 2).toNat % 16 ≠ 0 ∧
      activeLanes ((xWith 2 8).ctx.active false 0) (etLanes 2) = [0, 1, 2, 3]) ∧
    onPage.mayLoad 4 false (.v 5) (onPage.laneParts (BitVec.ofNat 64 fetchPlace) 4 (activeLanes (onPage.ctx.active false 0) (etLanes 2))) ∧
    onPage.mayLoad 4 false (.v 5) [(0, BitVec.ofNat 64 fetchPlace, 4)] ∧
    (streaming.Clear (vldqRule ⟨5, 0, 2, false, 0, false⟩) ∧ streaming.ctx.readQ 0 ≠ .off ∧
      (streamSteps streaming streaming.cur.1 1 (streaming.ctx.readQ 0)).isSome = true ∧ (streaming.ctx.readQ 0).view 0 = some (BitVec.ofNat 64 fetchPlace)) ∧
    streaming.mayLoad 4 false (.v 5) (streaming.laneParts (BitVec.ofNat 64 fetchPlace) 4 [0, 1, 2, 3]) ∧
    onPage.Clear (vgathRule ⟨5, 2, 9, 2, false, 0, false, false, false⟩) ∧
    onPage.mayLoad (32 / 8) false (.v 5) ((activeLanes (onPage.ctx.active false 0) (128 / 32)).map fun i => (i * (32 / 8),
      onPage.ctx.readX 2 + BitVec.ofInt 64 ((laneOf (onPage.ctx.readV 9) 32 i).toInt * (32 / 8 : Nat)), 32 / 8)) ∧
    (onWindow.Clear (vldfRule ⟨5, 2, 6, false, 0, false, false⟩) ∧ inWindows (onWindow.ctx.readX 2) = true ∧ (onWindow.ctx.readX 2).toNat % 16 = 0) ∧
    onWindow.mayLoad 4 false (.v 5) (onWindow.laneParts (onWindow.ctx.readX 2) 4 [0, 1, 2, 3]) ∧
    (let l : Word := placeLeaf ||| BitVec.ofNat 64 (4 * 2 ^ 49)
     formatted.Clear (vldfRule ⟨5, 2, 6, false, 0, false, false⟩) ∧ inWindows (formatted.ctx.readX 2) = false ∧
      (formatted.access formatted.cur.1 .load (formatted.ctx.readX 2) 1 1 false).1 = .ok ⟨.dram, fetchPlace, l⟩ ∧
      fmtSuits (leafFmt l) (leafGeo l) = true ∧ leafFmt l ≠ 0 ∧
      (formatted.vldfParts (leafFmt l) 6 (formatted.ctx.readX 2) [0, 1, 2, 3]).toOption = some (formatted.laneParts (formatted.ctx.readX 2) 4 [0, 1, 2, 3])) ∧
    formatted.mayLoad 1 false (.v 5) (formatted.laneParts (formatted.ctx.readX 2) 4 [0, 1, 2, 3]) := by
  exact ⟨by decide +kernel, right_of (by decide +kernel), right_of (by decide +kernel), by decide +kernel, right_of (by decide +kernel),
    by decide +kernel, right_of (by decide +kernel), by decide +kernel, right_of (by decide +kernel), by decide +kernel, right_of (by decide +kernel)⟩
theorem meets_VectorMemory_stores :
    (let o : VecStore := ⟨5, 2, 0, 2, false, 0, false⟩
     onPage.Clear (vstRule o) ∧ (onPage.ctx.readX 2 + BitVec.ofInt 64 ((0 : BitVec 4).toInt * 16)).toNat % 16 = 0 ∧
      (∀ b < 16, (0xFFFF : BitVec 16).getLsbD b = decide (b / 4 ∈ activeLanes (onPage.ctx.active false 0) (etLanes 2))) ∧
      (xWith 2 8).Clear (vstRule o) ∧ State.reset.Clear (vstRule ⟨5, 2, 0, 2, true, 1, false⟩) ∧
      activeLanes (State.reset.ctx.active true 1) (etLanes 2) = []) ∧
    onPage.mayStore 16 false false [(onPage.ctx.readX 2, 16, 0xFFFF, onPage.ctx.readV 5)] ∧
    (streaming.Clear (vstqRule ⟨5, 0, 2, false, 0⟩) ∧ streaming.ctx.readQ 0 ≠ .off) ∧
    streaming.mayStore 16 false false [(BitVec.ofNat 64 fetchPlace, 16, 0xFFFF, streaming.ctx.readV 5)] ∧
    onPage.Clear (vscatRule ⟨5, 2, 9, 2, false, 0, false, false⟩) ∧
    onPage.mayStore (32 / 8) true false ((activeLanes (onPage.ctx.active false 0) (128 / 32)).map fun i => (onPage.ctx.readX 2 +
       BitVec.ofInt 64 ((laneOf (onPage.ctx.readV 9) 32 i).toInt * (32 / 8 : Nat)), 32 / 8, firstBytes (32 / 8), (laneOf (onPage.ctx.readV 5) 32 i).setWidth 128)) ∧
    (let vbxq : BlockQ := ⟨3, 2, false, false⟩
     let vcq4 : BlockC := ⟨5, 3, 2, 5, false, false⟩
     let s := blockAt fetchPlace (fetchPlace + 0x1000)
     let fits (s : State) : Bool := decide (s.Clear (vbxqRule vbxq)) && decide (s.Clear (vcq4Rule vcq4))
     fits s = true ∧ (s.ctx.readX 2).toNat % 16 = 0 ∧ (s.ctx.readX 3).toNat % 8 = 0 ∧ blockReady s .none 512 516 = true ∧
      blockReady s (.v 5) 512 136 = true ∧ fits (blockAt 8 0) = true ∧ ((blockAt 8 0).ctx.readX 2).toNat % 16 ≠ 0 ∧
      fits (blockAt 0 2) = true ∧ ((blockAt 0 2).ctx.readX 3).toNat % 4 ≠ 0) ∧
    (let e := aStore false (BitVec.ofNat 64 fetchPlace) fetchPlace
     let p (cq4 : Option (BitVec 3 × List Nat × Nat)) : Pend := waitsFor .none (.block cq4 [e]) 0 16 (some 0)
     let s (cq4 : Option (BitVec 3 × List Nat × Nat)) : State := ctxWith fun c => { c with pends := [p cq4] }
     let fits (cq4 : Option (BitVec 3 × List Nat × Nat)) : Bool := decide (((((s cq4).core 0).ctx 0).pends[0]?) = some (p cq4)) &&
       (p cq4).pieces.all (fun q => q.value.isSome) && !(p cq4).isRead && (p cq4).poison.isNone && decide (((s cq4).core 0).stores.length < 16) &&
       decide (((s cq4).core 0).pairOf 0 = none)
     fits none = true ∧ fits (some (5, [0, 0, 0, 0], 7)) = true) := by
  refine ⟨by decide +kernel, mayStore_of (by decide +kernel), by decide +kernel, mayStore_of (by decide +kernel), by decide +kernel,
    mayStore_of (by decide +kernel), ?_, ?_⟩ <;> decide +kernel

/-! A residue word of 5, and one whose check field alone is wrong. -/
theorem meets_ResidueArithmeticIsExact : -544387186560 ≤ (-544387186560 : Int) + 0 ∧ (544387186559 : Int) * 1 < 544387186560 := by decide +kernel
theorem meets_SingleChannelErrorsAreCorrected :
    (let w := residues 5 + 2 ^ (rnField 6).1
     (-544387186560 : Int) ≤ 5 ∧ (5 : Int) < 544387186560 ∧ residue w 6 ≠ ((5 : Int) % modulus 6).toNat ∧
      ∀ j < 7, j ≠ 6 → residue w j = ((5 : Int) % modulus j).toNat) ∧
    (let w := residues (-544387186560) + 2 ^ (rnField 0).1
     residue w 0 ≠ ((-544387186560 : Int) % modulus 0).toNat ∧ ∀ j < 7, j ≠ 0 → residue w j = ((-544387186560 : Int) % modulus j).toNat) := by
  decide +kernel

/-- The state with tile 2 of core 0 changed. -/
def tiled (f : Tile → Tile) : State := coreWith (·.modTile 2 f)
/-- How a word decodes, by name. -/
def decodesAs : RnOut → Nat
  | .good _ => 0
  | .corrected _ _ => 1
  | .overflow _ => 2
  | .mismatch _ => 3
theorem meets_TilesAndConfiguration :
    (let r : WordRule := { reg1Rule ⟨5, 6, false⟩ with rep := true, noHint := true }
     State.reset.Clear (rnfwdRule ⟨5, 6, true, 0⟩) ∧ State.reset.Clear { reg2Rule ⟨5, 6, 7, false, false⟩ with rep := true, noHint := true } ∧
      State.reset.Clear r ∧ decodesAs (State.reset.me.decode (BitVec.ofNat 64 (residues 5))) = 0 ∧
      decodesAs (State.reset.me.decode (BitVec.ofNat 64 (residues 5 + 2 ^ (rnField 6).1))) = 1 ∧
      decodesAs (State.reset.me.decode (BitVec.ofNat 64 (residues 544387186560))) = 2 ∧ decodesAs (State.reset.me.decode (BitVec.allOnes 64)) = 3) ∧
    (let rules : List WordRule := [mzeroRule, ardRule ⟨2, 5, 6⟩, awrRule ⟨2, 6, 7⟩, achkRule ⟨2, 5⟩]
     let busy := tiled fun t => { t with busy := true }
     (busy.me.tile 2).busy = true ∧ (∀ r ∈ rules, busy.Clear r) ∧ (State.reset.me.tile 2).busy = false ∧ (∀ r ∈ rules, State.reset.Clear r) ∧
      (State.reset.me.tile 2).valid = false) ∧
    (let good := tiled fun t => { t with valid := true }
     let bad := tiled fun t => { t with valid := true, word := t.word.set 127 (BitVec.allOnes 64) }
     good.Clear (achkRule ⟨2, 5⟩) ∧ ((List.range 128).all fun e => decodesAs (good.me.decode ((good.me.tile 2).read e)) == 0) = true ∧
      bad.Clear (achkRule ⟨2, 5⟩) ∧ (bad.me.tile 2).valid = true ∧
      ((List.range 127).all fun e => decodesAs (bad.me.decode ((bad.me.tile 2).read e)) == 0) = true ∧
      decodesAs (bad.me.decode ((bad.me.tile 2).read 127)) = 3) ∧
    (let o : AccCfg := ⟨5, 6, 7⟩
     let s (core : Word) (w : Option AcfgWait) : State := ((keeperAt.modCore 1 fun c => { c with acfgWait := w }).modCtx (·.writeX 5 core)).modCtx (·.writeX 6 8)
     let w : AcfgWait := ⟨Config.keeperOf 0, 0, true, 0, some 0⟩
     (s 1 none).Clear (acfgRule o) ∧ Config.workers ≤ (BitVec.ofNat 64 Config.workers : Word).toNat ∧
      (1 : Nat) < Config.workers ∧ clusterOf 1 = clusterOf (Config.keeperOf 0) ∧
      ((8 : Word).getLsbD 3 && bits (8 : Word) 2 0 == 7) = false ∧ ((s 1 none).core 1).acfgWait = none ∧
      ((s 1 (some w)).core 1).acfgWait = some w ∧ w.keeper = (s 1 (some w)).cur.1 ∧ w.ctx = (s 1 (some w)).cur.2) ∧
    (let w : AcfgWait := ⟨Config.keeperOf 0, 0, true, 0, none⟩
     let s (f : Tile → Tile) : State := (tiled f).modCore 0 fun c => { c with acfgWait := some w }
     ((s id).core 0).acfgWait = some w ∧ ((s id).core 0).tiles.toList.any (·.busy) = false ∧
      ((s fun t => { t with busy := true }).core 0).tiles.toList.any (·.busy) = true) ∧
    (let p := waitsFor .none .whole 0 16 (some 0)
     let s := ctxWith fun c => { c with pends := [p] }
     s.Clear (cbldRule 2) ∧ (s.ctx.readX 2).toNat % 16 = 0 ∧ s.ctx.reads = [p] ∧ p.poison = none ∧ p.open_ = false) := by
  refine ⟨?_, ?_, ?_, ?_, ?_, ?_⟩ <;> decide +kernel

/-- Context 1 of core 0 of `mapped`, bank 0 of its cluster open, x2 to x4 at descriptors in its local store, which its word has read: each its number. -/
def described (ds : List Nat) : State :=
  let at_ (i : Nat) : Word := BitVec.ofNat 64 (Config.ownWindow + 64 * i)
  (({ mapped with cur := (0, 1) } : State).modCluster 0 (·.modBank 0 fun b => { b with mode := .scratch })).modCtx fun c =>
    { (((c.writeX 2 (at_ 0)).writeX 3 (at_ 1)).writeX 4 (at_ 2)) with
      pends := ds.map fun d => waitsFor .none .whole (at_ 0) 64 (some d), state := .running }
/-- A gang descriptor of one K-step of S8 elements at the start of the local store and of the slice. -/
def oneStep : Nat := Config.ownWindow + 2 ^ 128
/-- The same of A at the start of the cluster store. -/
def oneStepOfBank : Nat := Config.csWindow + 2 ^ 128
/-- Core 0 with context 1 at a gang barrier. -/
def arrived (a : Arrival) : State := (described []).modCore 0 fun c => c.modCtx 1 fun x => { x with arrival := some a }
/-- A drain of tile 2 of core 0 in some phase. -/
def draining (k : DrainKind) (p : DrainPhase) : DrainJob := ⟨0, 0, 0, 2, k, 0, 64, 0x3F800000, false, p⟩
theorem meets_GangOperations :
    (let s := described [oneStep]
     let p := waitsFor .none .whole (BitVec.ofNat 64 Config.ownWindow) 64 (some oneStep)
     s.Clear (mmasRule ⟨2, 2⟩) ∧ s.budgetFault = none ∧ s.descFault (s.ctx.readX 2) = none ∧ s.ctx.reads = [p] ∧ p.poison = none ∧
      p.open_ = false ∧ p.gather = oneStep ∧ s.gangFault true oneStep = none ∧ gdSkip oneStep = false ∧
      s.arrayFree s.cur.1 (gangTileNo 2 oneStep) = true) ∧
    (let s := (described [oneStepOfBank]).modCtx (·.writeX 5 1)
     s.Clear (mgangRule ⟨2, 2, 5⟩) ∧ s.ctx.arrival = none ∧ s.budgetFault = none ∧ s.descFault (s.ctx.readX 2) = none ∧
      s.ctx.reads.map (·.gather) = [oneStepOfBank] ∧ s.gangFault false oneStepOfBank = none ∧ s.me.atBarrier = none ∧
      isKeeper s.cur.1 = false ∧ ((s.ctx.readX 5).setWidth 8 : BitVec 8).getLsbD (coreX s.cur.1 % 8) = true ∧
      (gangCores s.cur.1 ((s.ctx.readX 5).setWidth 8)).all s.inPound = true ∧ ((0 : Word).setWidth 8 : BitVec 8).getLsbD (coreX s.cur.1 % 8) = false) ∧
    (let a (p : GangPhase) (left : BitVec 32) : Arrival := ⟨0, 1, left, 2, oneStep, p⟩
     (arrived (a .waiting 5)).Clear (mgangRule ⟨2, 2, 5⟩) ∧ (arrived (a .waiting 5)).ctx.arrival = some (a .waiting 5) ∧
      (arrived (a .started 5)).Clear (mgangRule ⟨2, 2, 5⟩) ∧ (arrived (a (.failed ⟨.illegal, 0, 0⟩) 5)).Clear (mgangRule ⟨2, 2, 5⟩) ∧
      ((arrived (a .waiting 5)).core 0).atBarrier = some (1, a .waiting 5) ∧ ((arrived (a .waiting 0)).core 0).atBarrier = some (1, a .waiting 0) ∧
      (let s := arrived (a .waiting 5)
       ((s.core 0).ctx 1).rep = none ∧ ((s.core 0).ctx 1).stepping = false ∧ gangCores 0 1 = [0] ∧ (s.stack (stackOf 0)).throttled = false ∧
        s.arrayFree 0 (gangTileNo 2 oneStep) = true ∧ (gdARuns oneStep).any (fun r => (s.aBanks r).any (·.busy.isSome)) = false ∧
        (gdARuns oneStep).all (fun r => (s.aBanks r).all Bank.givesA) = true)) ∧
    (let g : GangOp := ⟨[(0, 2)], 1⟩
     ({ State.reset with gangOps := [g] } : State).gangOps = [g]) := by
  refine ⟨?_, ?_, ?_, ?_⟩ <;> decide +kernel
theorem meets_GangOperations_drains :
    (let s := xWith 2 (BitVec.ofNat 64 Config.ownWindow)
     let fits (x : Word) : Bool := decide (((xWith 2 (BitVec.ofNat 64 Config.ownWindow)).modCtx (·.writeX 3 x)).Clear (drainRule ⟨2, 2, 3, 4, false⟩))
     fits 0 = true ∧ s.me.drain = none ∧ (s.me.tile 2).busy = false ∧ s.me.stores = [] ∧ (s.ctx.readX 2).toNat % 8 = 0 ∧
      ownOffset s.cur.1 (s.ctx.readX 2) = some 0 ∧ 0 + 15 * 64 + 8 * 8 ≤ Config.lsSize ∧ 0 + 15 * 64 + 8 * 8 ≤ s.me.sysbase) ∧
    (let s (p : DrainPhase) : State := coreWith fun c => { c with drain := some (draining .i64 p) }
     (s (.done 1)).Clear (drainRule ⟨2, 2, 3, 4, false⟩) ∧ (draining .i64 (.done 1)).mine (s (.done 1)) = true ∧
      (draining .i64 (.failed ⟨.rnsOverflow, 0, 0⟩)).mine (s (.failed ⟨.rnsOverflow, 0, 0⟩)) = true) ∧
    (let j := draining .i32s .busy
     let s := coreWith fun c => { (c.modTile 2 fun t => { t with valid := true, busy := true }) with drain := some j }
     (s.core 0).drain = some j ∧ ((s.core 0).ctx 0).since = j.since ∧ 8 * j.kind.bytes ≤ j.pitch ∧
      ((List.range 128).all fun e => decodesAs ((s.core 0).decode (((s.core 0).tile 2).read e)) == 0) = true) := by
  refine ⟨?_, ?_, ?_⟩ <;> decide +kernel

/-- A record of one raw byte at an address. -/
def rawAt (a : Nat) : Nat := a + 2 ^ 72 + 2 ^ 96
/-- A record of 16 rows of 8 32-bit floats at an address. -/
def floatsAt (a : Nat) : Nat := a + 4 * 2 ^ 64 + 2 * 2 ^ 72 + 8 * 2 ^ 96 + 16 * 2 ^ 112 + 4 * 2 ^ 192 + 32 * 2 ^ 224
/-- `described` with a full outbox and spill ring. -/
def noRoom (s : State) : State := s.modMe fun c =>
  { c with outbox := List.replicate 16 (anEntry (.marker 1)), spill := List.replicate 256 (.out (anEntry (.marker 1))) }
/-- Whether the records a word has read pass their checks, as the copy words ask. -/
def recordsPass (s : State) (o : CopyW) (ds : List Nat) : Bool :=
  decide (s.Clear (copyRule o)) && s.budgetFault.isNone && s.ctx.reads.map (·.gather) == ds && s.ctx.reads.all (fun p => p.poison.isNone && !p.open_) &&
    (s.descFault (s.ctx.readX o.ra)).isNone && (s.descFault (s.ctx.readX o.rb)).isNone &&
    ds.all fun d => (tsrReg d).isNone && (s.tsrFault s.cur.1 (tsrOf s.ctx 0 d) [.w]).isNone && (s.tsrFault s.cur.1 (tsrOf s.ctx 0 d) [.r]).isNone
theorem meets_CopyEngines_words :
    (let o : CopyW := ⟨0, 2, 3, false, false⟩
     let ds := [rawAt 0x30000, rawAt 0x40000]
     let t (d : Nat) : Tsr := tsrOf (described ds).ctx 0 d
     recordsPass (described ds) o ds = true ∧ fmtsSuit false (t (rawAt 0x30000)) (t (rawAt 0x40000)) = true ∧
      (t (rawAt 0x30000)).count = (t (rawAt 0x40000)).count ∧ 1 ≤ (described ds).me.outRoom ∧ recordsPass (noRoom (described ds)) o ds = true ∧
      (noRoom (described ds)).me.outRoom < 1 ∧ recordsPass (described [rawAt 0x30000, floatsAt 0x40000]) o [rawAt 0x30000, floatsAt 0x40000] = true ∧
      fmtsSuit false (t (rawAt 0x30000)) (t (floatsAt 0x40000)) = false ∧
      recordsPass (described [floatsAt 0x30000, floatsAt 0x40000]) o [floatsAt 0x30000, floatsAt 0x40000] = true ∧
      fmtsSuit true (t (floatsAt 0x30000)) (t (floatsAt 0x40000)) = true) ∧
    (let s := (described [rawAt 0x30000]).modCtx (·.writeX 5 0)
     s.Clear (copyRule ⟨0, 5, 3, false, false⟩) ∧ s.budgetFault = none ∧ s.ctx.reads.map (·.gather) = [rawAt 0x30000] ∧
      s.descFault (s.ctx.readX 3) = none ∧ tsrReg (rawAt 0x30000) = none ∧
      s.tsrFault s.cur.1 { tsrOf s.ctx 0 (rawAt 0x30000) with fmt := 0 } [.r] = none ∧ s.inPound (bits (s.ctx.readX 5) 46 32) = true ∧
      bits (s.ctx.readX 5) 17 0 + (tsrOf s.ctx 0 (rawAt 0x30000)).count ≤ Config.sliceSize) ∧
    (let o : CopyW := ⟨0, 3, 2, false, false⟩
     let ds := [rawAt 0x30000, rawAt 0x40000, 0]
     let s := described ds
     s.Clear { copyRule o with srcs := (copyRule o).srcs ++ [(.x (o.rb + 1), o.eb)] } ∧ s.ctx.reads.map (·.gather) = ds ∧
      (tsrOf s.ctx 0 (rawAt 0x30000)).rank = 1 ∧ (Instr.cpyg o).wf = true ∧ (s.ctx.readX (o.rb + 1)).toNat % 4 = 0 ∧
      ownOffset s.cur.1 (s.ctx.readX (o.rb + 1)) = some 64 ∧ 64 + 4 * 1 ≤ Config.lsSize ∧ 64 + 4 * 1 ≤ s.me.sysbase) := by
  refine ⟨?_, ?_, ?_⟩ <;> decide +kernel
theorem meets_CopyEngines_drains :
    (let fits (s : State) (d : Nat) : Bool := decide (s.Clear (mdraincRule ⟨2, 2, 0, 0, 0⟩)) && !(s.me.tile 2).busy && s.budgetFault.isNone &&
       s.ctx.reads.map (·.gather) == [d] && (s.descFault (s.ctx.readX 2)).isNone && (tsrReg d).isNone &&
       (s.tsrFault s.cur.1 (tsrOf s.ctx 0 d) [.w]).isNone
     let bad := (described [floatsAt 0x30000]).modMe (·.modTile 2 fun t => { t with valid := true, word := t.word.set 0 (BitVec.allOnes 64) })
     fits (described [rawAt 0x30000]) (rawAt 0x30000) = true ∧ (tsrOf (described []).ctx 0 (rawAt 0x30000)).rank = 1 ∧
      fits (described [floatsAt 0x30000]) (floatsAt 0x30000) = true ∧ (tsrOf (described []).ctx 0 (floatsAt 0x30000)).rank = 2 ∧
      (tsrOf (described []).ctx 0 (floatsAt 0x30000)).fmt = 4 ∧
      ((List.range 128).all fun e => decodesAs ((described []).me.decode (((described []).me.tile 2).read e)) == 0) = true ∧
      1 ≤ (described []).me.outRoom ∧ fits bad (floatsAt 0x30000) = true ∧ decodesAs (bad.me.decode ((bad.me.tile 2).read 0)) = 3) := by
  decide +kernel

/-- A copy of one raw byte. -/
def copyOf (dst src : Nat) : EngCmd := ⟨1, .cpy, tsrOf Ctx.reset 0 (rawAt dst), tsrOf Ctx.reset 0 (rawAt src), 0, 1, 0, 0, 1, 0, 0, 0⟩
/-- A copy of one raw byte between two places of bank 0. -/
def aCommand : EngCmd := copyOf (Config.csWindow + 16) Config.csWindow
/-- Engine 0 of stack 0 with commands waiting and a command under way. -/
def engineAt (q : List EngItem) (r : Option EngRun) (throttled : Bool) : State :=
  (described []).modStack 0 fun t => { (t.modEngine 0 fun e => { e with queue := q, run := r }) with throttled := throttled }
/-- A command under way, planned, with nothing left to write. -/
def aRun (f : Option FaultInfo) (weir : Word) : EngRun := { EngRun.fresh { aCommand with weir := weir } with planned := true, written := 1, failed := f, next := 1 }
/-- `engineAt` with a command waiting. -/
def awaits (c : EngCmd) : State := engineAt [.cmd c] none false
/-- The places of what a command that names no ring reads and writes, when every access passes. -/
def placesOf (c : EngCmd) : Option (List (List Place × List Place) × Bool × Bool) :=
  match (awaits c).engWalk (.fresh c) false (engElems .cpy c.dst c.src) [] with
  | (items, .done) => some (items.map fun x => (x.2.1.map (·.2.2.place), x.2.2.map (·.2.2.place)),
      decide (items.flatMap fun x => x.2.2.map fun p => p.2.2.pa).Nodup, (awaits c).engineRing c == none)
  | _ => none
theorem meets_CopyEngines_events :
    (((engineAt [.cmd aCommand] none true).stack 0).engine 0).queue = [.cmd aCommand] ∧
    (((engineAt [.cmd aCommand] none true).stack 0).engine 0).run = none ∧ ((engineAt [.cmd aCommand] none true).stack 0).throttled = true ∧
    ((awaits aCommand).stack 0).throttled = false ∧ aCommand.src.fmt = 0 ∧ aCommand.dst.fmt = 0 ∧
    placesOf aCommand = some ([([.bank 0 0], [.bank 0 0])], true, true) ∧
    placesOf (copyOf Config.csWindow fetchPlace) = some ([([.dram], [.bank 0 0])], true, true) ∧
    placesOf (copyOf fetchPlace Config.csWindow) = some ([([.bank 0 0], [.dram])], true, true) ∧
    (let r : EngRun := { EngRun.fresh aCommand with next := 1 }
     (((engineAt [] (some r) false).stack 0).engine 0).run = some r ∧ r.planned = false ∧ r.failed = none ∧ r.stalled = none ∧ r.out = 0 ∧
      (engElems r.cmd.op r.cmd.dst r.cmd.src).length ≤ r.next) ∧
    (let r := aRun none 0
     (((engineAt [] (some r) false).stack 0).engine 0).run = some r ∧ r.planned = true ∧ r.failed = none ∧ r.out = 0 ∧ r.todo = [] ∧ r.slot = none) ∧
    (let r := aRun (some ⟨.illegal, 0, 0⟩) 0x10001
     r.failed = some ⟨.illegal, 0, 0⟩ ∧ r.cmd.weir ≠ 0) := by
  refine ⟨?_, ?_, ?_, ?_, ?_, ?_, ?_, ?_, ?_, ?_, ?_, ?_⟩ <;> decide +kernel

/-- Stack 0 with weir 0 live for device 1. -/
def weirState (f : Weir → Weir) (q : List WeirMsg) : State :=
  mapped.modStack 0 fun t => { t with weirs := [(0, f { Weir.reset with live := true, tag := 1 })], weirQ := q, charged := [7] }
/-- Its handle. -/
def aHandle : Word := 0x10001
theorem meets_Weirs :
    (State.reset.Clear { reg1Rule ⟨5, 6, true⟩ with rep := true } ∧ State.reset.me.outFull = false ∧
      State.reset.Clear { rep := true, srcs := [(.x 5, true), (.x 6, false)] } ∧ State.reset.Clear { rep := true, srcs := [(.x 5, true)] }) ∧
    (let q (h : Word) : List WeirMsg := [.charge h 8 7 1 0]
     ((weirState id (q aHandle)).stack 0).weirQ = q aHandle ∧ ((weirState id (q 0)).liveWeir 0 0 1) = none ∧
      ((weirState id (q aHandle)).liveWeir 0 aHandle 1).isSome = true) ∧
    ((0 : Int) + 2 ^ 40 - 1 < 2 ^ 40 ∧ (2 : Int) ^ 40 ≤ 2 ^ 40 ∧ (0 : Int) + -1 < 0) ∧
    (let b : WeirSub := ⟨aHandle, 7, 8, true, 1, 0⟩
     let s := (weirState (fun w => { w with count := 8, armed := true }) []).modStack 0 fun t => { t with subs := [b, { b with cmd := 8 }] }
     (s.stack 0).subs[0]? = some b ∧ (s.stack 0).charged.contains b.cmd = true ∧ (s.liveWeir 0 b.handle b.tag).isSome = true ∧
      (s.stack 0).subs[1]? = some { b with cmd := 8 } ∧ (s.stack 0).charged.contains 8 = false) ∧
    (let s := weirState id [.create 0 0 1 0 1 0 0]
     (s.stack 0).weirQ = [.create 0 0 1 0 1 0 0] ∧ (s.weirAt 0 1).live = false ∧ (∀ j < 1, (s.weirAt 0 j).live = true)) ∧
    ((weirState id [.read 0 0 1 aHandle 1]).stack 0).weirQ = [.read 0 0 1 aHandle 1] := by
  refine ⟨?_, ?_, ?_, ?_, ?_, ?_⟩ <;> decide +kernel
/-- A stack whose 4096 weirs are all live. -/
theorem lookup_live (w : Weir) (i : Nat) : ∀ n k, i < n → lookupD Weir.reset (k + i) ((List.range' k n).map fun j => (j, w)) = w
  | n + 1, k, h => by
    rw [List.range'_succ, List.map_cons, lookupD]
    split
    · rfl
    · cases i with
      | zero => omega
      | succ i => rw [show k + (i + 1) = k + 1 + i by omega]; exact lookup_live w i n (k + 1) (by omega)
theorem meets_Weirs_full : let s := stackWith fun t => { t with weirs := (List.range' 0 4096).map fun j => (j, { Weir.reset with live := true }) }
    ∀ i < 4096, (s.weirAt 0 i).live = true := by
  intro s i h
  have := lookup_live { Weir.reset with live := true } i 4096 0 h
  rw [Nat.zero_add] at this
  exact congrArg Weir.live this

/-- A ring of two slots of 64 bytes, its slot 0 FILLED with tag 0. -/
def aRing : Ring :=
  ⟨0, 0, 2, parityFor 1, 1, parityFor 1, 1, 1, 0, .run, mkName 0 0 0 1 1, [(.filled, 0), (.free, 0)]⟩
/-- The keeper of cluster 0 of `inPound`, x2 the selector of ring 0 of bank 0, a FIFO bank with that ring. -/
def ringed (f : Bank → Bank) (r : Ring) : State :=
  ({ inPound with cur := (Config.keeperOf 0, 0) } : State).modCluster 0
    (·.modBank 0 fun b => f { b with mode := .fifo, rings := b.rings.set 0 r })
/-- Core 0 of the same state acting. -/
def worker (s : State) : State := { s with cur := (0, 0) }
theorem meets_FifoRings_words :
    (let r : WordRule := { srcs := [(.x 2, false)], dests := [.x 5] }
     let out (s : State) (w : Word) : Bool := if isKeeper s.cur.1 then selCluster w != clusterOf s.cur.1 else !s.clusterInPound s.cur.1 (selCluster w)
     keeperAt.Clear r ∧ out keeperAt (BitVec.ofNat 64 (2 ^ 20)) = true ∧ State.reset.Clear r ∧ out State.reset 0 = true ∧
      (worker (ringed (fun b => { b with busy := some .cache }) aRing)).Clear r ∧ out (worker (ringed id aRing)) 0 = false ∧
      (((ringed (fun b => { b with busy := some .cache }) aRing).cluster 0).bank 0).busy ≠ none ∧
      (((ringed (fun b => { b with mode := .scratch }) aRing).cluster 0).bank 0).mode ≠ .fifo ∧ ((ringed id Ring.reset).ringAt 0).depth = 0) ∧
    (let r : WordRule := { priv := true, dests := [.x 5], srcs := [(.x 2, false), (.x 6, false), (.x (6 + 1), false)] }
     (ringed id Ring.reset).Clear r ∧ ((ringed id Ring.reset).ringCheck true 0).toOption = some Ring.reset ∧
      ringFits (((ringed id Ring.reset).cluster 0).bank 0) 0 0 6 16 = true ∧ ringFits (((ringed id Ring.reset).cluster 0).bank 0) 0 0 6 17 = false) ∧
    (let r : WordRule := { priv := true, dests := [.x 5], srcs := [(.x 2, false), (.x 6, false)] }
     (ringed id aRing).Clear r ∧ ((ringed id aRing).ringCheck false 0).toOption = some aRing ∧
      (ringed id { aRing with state := .quiesced }).Clear { r with srcs := [(.x 2, false)] } ∧
      ({ aRing with state := .quiesced } : Ring).inState .inflight = 0) ∧
    (let s := worker (ringed id aRing)
     s.Clear { srcs := [(.x 2, false)] } ∧ s.ctx.cbRet = none ∧ (s.ringCheck false (s.ctx.readX 2)).toOption = some aRing ∧
      s.performed (clusterScope s.cur.1 0) true ⟨0, 0, s.seq⟩ = true ∧
      (let t : State := { s.modMe (fun c => { c with stores := [aStore false 0 0] }) with seq := 2 }
       t.performed (clusterScope t.cur.1 0) true ⟨0, 0, t.seq⟩ = false) ∧
      (s.modCtx fun c => { c with cbRet := some (.asked 1) }).ctx.cbRet = some (.asked 1)) ∧
    (let s := worker (ringed id aRing)
     s.Clear { srcs := [(.x 2, false)], dests := [.x 5] } ∧ aRing.free < 2 ^ 12 ∧ aRing.filled < 2 ^ 12 ∧ aRing.fillPtr < 2 ^ 10 ∧ aRing.lap < 16 ∧
      aRing.depth ≤ 1024) := by
  refine ⟨?_, ?_, ?_, ?_, ?_⟩ <;> decide +kernel
theorem meets_FifoRings_events :
    (let s (r : Ring) (w : Word) : State := ((ringed id r).modCluster 0 fun c => { c with returns := [(0, 0, 1, w)] }).modCtxOf 0 0
       fun c => { c with cbRet := some (.asked 1) }
     ((s aRing 0).cluster 0).returns = [(0, 0, 1, 0)] ∧ (((s aRing 0).core 0).ctx 0).cbRet = some (.asked 1) ∧ selCluster (0 : Word) < Config.clusters ∧
      selIndex (0 : Word) < aRing.depth ∧ aRing.slots.length = aRing.depth ∧ aRing.at 0 = (.filled, selTag 0) ∧ aRing.parityGood = true ∧
      (s aRing 0).ringAt 0 = aRing ∧ aRing.depth ≤ selIndex (2 : Word) ∧ aRing.at 1 ≠ (.filled, selTag 1)) ∧
    (let r : EngRun := { aRun none 0 with todo := [(0, 1, .raw [5])] }
     let s (q : Ring) : State := (ringed id q).modStack 0 (·.modEngine 0 fun e => { e with run := some r })
     (((s aRing).stack 0).engine 0).run = some r ∧ r.slot = none ∧ selCluster r.ring < Config.clusters ∧ ((s aRing).ringAt r.ring).free ≠ 0 ∧
      (aRing.at aRing.fillPtr).1 = .free ∧ aRing.fillPtr < aRing.slots.length ∧ ((s { aRing with free := 0 }).ringAt r.ring).free = 0 ∧
      ({ aRing with pf := !parityFor 1 } : Ring).parityGood = false) ∧
    (let r : EngRun := { aRun none 0 with slot := some (1, 0), todo := [(0, 1, .raw [5])] }
     let q := { aRing with free := 0, pf := parityFor 0, fillPtr := 0, lap := 1, slots := [(.filled, 0), (.inflight, 0)] }
     let s : State := (ringed id q).modStack 0 (·.modEngine 0 fun e => { e with run := some r })
     (((s.stack 0).engine 0).run = some r) ∧ r.cmd.weir = 0 ∧ [(5 : Byte)].length ≤ q.slotBytes ∧ 1 < q.slots.length ∧ q.parityGood = true ∧
      nameGen q.chan ≠ 0 ∧ s.routeOf (s.tagOf (Config.keeperOf 0)).toNat q.chan = .here) := by
  refine ⟨?_, ?_, ?_⟩ <;> decide +kernel

/-- Core 0 acting in `inPound`, or in a package of no pounds, x10 a name, with its outbox and spill ring as given. -/
def sender (pounds : Bool) (name : Word) (n m : Nat) : State :=
  ((if pounds then inPound else State.reset).modMe fun c =>
    { c with outbox := List.replicate n (anEntry (.marker 1)), spill := List.replicate m (.out (anEntry (.marker 1))) }).modCtx (·.writeX 10 name)
theorem meets_MessagesGoOut_words :
    (let fits (s : State) : Bool := decide (s.Clear (runRule 10 true false 4 4)) && decide (s.Clear (runRule 10 true true 14 2))
     let ok (s : State) : Bool := let n := s.ctx.readX 10; decide (nameGen n = 0 ∨ nameChip n ≠ Config.chip.toNat ∨ s.inPound (nameCore n) = true)
     fits (sender true (named 0) 0 0) = true ∧ ok (sender true (named 0) 0 0) = true ∧ (sender true (named 0) 0 0).me.outFull = false ∧
      ok (sender true 0 0 0) = true ∧ fits (sender true (named 0) 16 256) = true ∧ ok (sender true (named 0) 16 256) = true ∧
      (sender true (named 0) 16 256).me.outFull = true ∧ fits (sender false (named 0) 0 0) = true ∧ ok (sender false (named 0) 0 0) = false) ∧
    (let s := onView.modCtx (·.writeX 10 (named 0))
     let far := onView.modCtx (·.writeX 10 (mkName 1 0 0 1 1))
     s.Clear { srcs := [(.x 10, false), (.w 1, false)], dests := [.w 1] } ∧ (s.ctx.readW 1).live = true ∧ s.me.outFull = false ∧
      nameChip (s.ctx.readX 10) = Config.chip.toNat ∧ s.inPound (nameCore (s.ctx.readX 10)) = true ∧
      s.Clear { srcs := [(.x 10, false), (.w 2, false)], dests := [.w 2] } ∧ (s.ctx.readW 2).live = false ∧
      nameGen (far.ctx.readX 10) ≠ 0 ∧ nameChip (far.ctx.readX 10) ≠ Config.chip.toNat) := by
  refine ⟨?_, ?_⟩ <;> decide +kernel
theorem meets_MessagesGoOut_events :
    (let s (e : OutEntry) (stores : List Store) : State := inPound.modCore 0 fun c => { c with outbox := [e], stores := stores }
     let e (i : OutItem) : OutEntry := { anEntry i with cover := [⟨0, 0, 5⟩] }
     let m := e (.msg (aMsg (named 0) (.words [1])))
     coreIn 0 = true ∧ ((s m []).core 0).outbox = [m] ∧ ((s m []).core 0).pairOf m.ctx = none ∧ (s m []).covered m.scope m.cover = true ∧
      (s m [aStore false 0 0]).covered m.scope m.cover = false ∧ (s m []).routeOf ((s m []).tagOf 0).toNat (named 0) = .here ∧
      nameGen (named 0) ≠ 0 ∧ nameGen 0 = 0 ∧ (s m []).routeOf ((s m []).tagOf 0).toNat 0 = .here ∧ ((s m []).core 0).stopping = false ∧
      ((s m []).core 0).mark = 0) ∧
    (let m := { aMsg (named 0) (.words [1]) with cover := [⟨0, 0, 5⟩] }
     let s (stores : List Store) : State := inPound.modCore 0 fun c => { c with relays := [m], stores := stores }
     ((s []).core 0).relays = [m] ∧ (s []).covered m.scope m.cover = true ∧ (s [aStore false 0 0]).covered m.scope m.cover = false) := by
  refine ⟨?_, ?_⟩ <;> decide +kernel

/-- `inPound` with channel 0 of core 0 changed from a live one of a kind. -/
def channel (k : ChanKind) (f : ChanSlot → ChanSlot) : State :=
  inPound.modCore 0 (·.modChan 0 fun _ => f (newSlot k .iadd 1 1 0 0 0 0))
/-- The state with x6 and x7 of the acting context written. -/
def x67 (s : State) (a b : Word) : State := (s.modCtx (·.writeX 6 a)).modCtx (·.writeX 7 b)
/-- Every slot of core 0 live. -/
def allLive : State := coreWith fun c => { c with chans := Vector.replicate 64 (newSlot .ladle .iadd 1 1 0 0 0 0) }
theorem meets_Channels :
    (let r := reg2Rule ⟨5, 6, 7, false, false⟩
     State.reset.Clear r ∧ kindOf 3 = none ∧ kindOf 0 = some .fifo ∧ (x67 State.reset (3 <<< 62) 0).Clear r ∧
      bits ((x67 State.reset (3 <<< 62) 0).ctx.readX 6) 63 62 = 3 ∧ allLive.Clear r ∧ (∀ i < 64, (allLive.me.chan i).alloc = true) ∧
      (State.reset.me.chan 0).alloc = false ∧ ((channel .fifo id).me.chan 0).alloc = true ∧ ((channel .fifo id).me.chan 1).alloc = false ∧
      (coreWith fun c => { c with sysbase := Config.ringEnd }).me.ringRun 1 none = none ∧ State.reset.me.ringRun 25 none = some 0 ∧
      State.reset.me.ringRun 26 none = none) ∧
    (let at_ (s : State) : State := x67 s (named 0) 0
     let r := reg2Rule ⟨5, 6, 7, false, false⟩
     let one := reg1Rule ⟨5, 6, false⟩
     (at_ inPound).Clear one ∧ (at_ inPound).liveSlot 0 (named 0) = none ∧ (at_ (channel .fifo id)).Clear one ∧
      (at_ (channel .fifo id)).Clear r ∧ (at_ (channel .fifo id)).liveSlot 0 (named 0) = some 0 ∧
      ((channel .fifo id).me.chan 0).ring = [] ∧ (channel .fifo id).overflowed 0 0 = [] ∧ (channel .fifo id).me.ringRun 1 (some 0) = some 0 ∧
      0 + 1 ≤ (channel .fifo id).me.ringArea ∧ (channel .fifo id).me.ringArea < 25 + 1 ∧
      ((channel .fifo fun c => { c with start := 25 }).me.chan 0).start = 25 ∧ (channel .fifo fun c => { c with start := 25 }).me.ringRun 1 (some 0) = some 0 ∧
      ((channel .fifo fun c => { c with ring := [⟨aMsg 0 (.words [1]), 1⟩] }).me.chan 0).ring ≠ [] ∧
      ((channel .relay id).me.chan 0).kind = .relay ∧ (at_ (channel .relay id)).liveSlot 0 (named 0) = some 0 ∧
      ((channel .ladle id).me.chan 0).kind = .ladle ∧ ((channel .ladle id).me.chan 0).count = 0 ∧ ((channel .ladle id).me.chan 0).presented = none ∧
      ((channel .ladle fun c => { c with count := 1 }).me.chan 0).count ≠ 0) ∧
    isKeeper 0 = false := by
  refine ⟨?_, ?_, ?_⟩ <;> decide +kernel
theorem meets_Channels_patterns :
    (let r : WordRule := { srcs := [(.x 6, false), (.x (6 + 1), false), (.x 8, false)], dests := [.x 5] }
     let ok (s : State) (w entry region : Word) : Bool := let chans := [w.extractLsb' 14 6, w.extractLsb' 20 6, w.extractLsb' 26 6, w.extractLsb' 32 6].take (bits w 39 38 + 1)
       decide chans.Nodup && chans.all (fun i => (s.me.chan i.toNat).alloc && (s.me.chan i.toNat).kind != .relay) &&
         entry.toNat % 4 == 0 && region.toNat % 64 == 0
     let p : Pattern := ⟨[0], 0, false, false, 0, 0⟩
     (channel .fifo id).Clear r ∧ ok (channel .fifo id) 0 0 0 = true ∧ ok (channel .fifo id) 0 2 0 = false ∧ ok (channel .fifo id) 0 0 32 = false ∧
      ok (channel .fifo id) (1 <<< 38) 0 0 = false ∧ ok (channel .relay id) 0 0 0 = false ∧ ok State.reset 0 0 0 = false ∧
      (channel .fifo id).me.pat 0 = none ∧ (coreWith fun c => c.setPat 0 (some p)).me.pat 0 = some p) := by
  decide +kernel

/-- `channel` with a message on its way to core 0. -/
def arriving (s : State) (f : List Flight) : State := { s with flight := f }
/-- A flight from core 1 to core 0's slot 0. -/
def aFlight (p : Payload) : Flight := ⟨1, 0, aMsg (named 0) p, 0, 1⟩
theorem meets_MessagesAreAccepted :
    (let f := aFlight (.words [1])
     let s := arriving (channel .fifo id) [f]
     s.flight[0]? = some f ∧ f.home ≠ Config.workers ∧ (s.core f.home).halted = false ∧ (s.core f.home).cut = none ∧
      (s.poundOf (clusterOf f.home)).any (·.trust == .error) = false ∧ nameTag f.msg.name = (s.tagOf f.home).toNat ∧ (s.core f.home).msgSaved = false ∧
      s.liveSlot f.home f.msg.name = some 0 ∧ ((s.core f.home).chan 0).takes f.msg = .take ∧ s.overflowed f.home 0 = [] ∧
      (arriving inPound [f]).liveSlot f.home f.msg.name = none ∧ f.msg.isReturn = false ∧
      ((arriving (channel .fifo id) [f, f]).flight.take 1).any (fun g => g.source == f.source && g.msg.name == f.msg.name) = true) ∧
    (let f := aFlight (.words [1])
     let full := channel .fifo fun c => { c with ring := List.replicate 2 ⟨aMsg 0 (.words [1]), 1⟩ }
     let s := { full with devRegs := [(.ovfRing 0 0, 1 <<< 32)] }
     ((channel .ladle id).me.chan 0).takes f.msg = .refuse ∧ ((channel .relay id).me.chan 0).takes f.msg = .take ∧
      ((channel .ladle id).me.chan 0).takes (aFlight (.ladle .iadd [1])).msg = .take ∧ ((channel .ladle id).me.chan 0).takes (aFlight (.ladle .f32 [1])).msg = .refuse ∧
      (full.me.chan 0).takes f.msg = .overflow ∧ s.ovfIndex (clusterOf 0) (s.tagOf 0).toNat = some 0 ∧ (s.cluster 0).ovf.getD 0 [] = [] ∧
      0 < bits (s.devReg (.ovfRing 0 0)) 47 32) ∧
    (let m := aMsg (named 0) (.words [1])
     let s (f : ChanSlot → ChanSlot) : State := (channel .fifo f).modCluster 0 fun c => { c with ovf := c.ovf.set 0 [.msg 0 m] }
     ((s id).cluster 0).ovf.getD 0 [] = [.msg 0 m] ∧ nameSlot m.name = 0 ∧ (s id).liveSlot 0 m.name = some 0 ∧
      (((s id).core 0).chan 0).takes m = .take ∧ (((s fun c => { c with ring := List.replicate 2 ⟨m, 1⟩ }).core 0).chan 0).takes m = .overflow) ∧
    (let k := Config.keeperOf (clusterOf 0)
     let name := mkName 0 0 0 1 1
     let s (live : Bool) (n : Nat) : State := { ((if live then inPound.modCore k (·.modChan 0 fun _ => { newSlot .fifo .iadd 1 1 0 0 0 0 with
       ring := List.replicate n ⟨aMsg 0 (.words [1]), 1⟩ }) else inPound).modCore 0 fun c => { c with packets := [([1, 2, 3, 4], [⟨0, 0, 5⟩])] }) with
       devRegs := [(.faultCh 0, name)] }
     ((s true 1).core 0).packets = [([1, 2, 3, 4], [⟨0, 0, 5⟩])] ∧ (s true 1).liveSlot k ((s true 1).devReg (.faultCh (clusterOf 0))) = some 0 ∧
      (((s true 1).core k).chan 0).kind = .fifo ∧ (((s true 1).core k).chan 0).ring.length ≤ (((s true 1).core k).chan 0).nm1.toNat ∧
      (s true 1).performed .clus false ⟨0, 0, 5⟩ = true ∧ (((s true 2).core k).chan 0).nm1.toNat < (((s true 2).core k).chan 0).ring.length ∧
      (s false 1).liveSlot k name = none) := by
  refine ⟨?_, ?_, ?_, ?_⟩ <;> decide +kernel

/-- `mapped` acting for context `k` of core 0, x7 an entry. -/
def starting (k : Nat) (entry : Word) : State := ({ mapped with cur := (0, k) } : State).modCtx (·.writeX 7 entry)
/-- Core 0 of a state with none of its helpers free. -/
def noHelper (s : State) : State := s.modCore 0 fun c => { c with ctxs := c.ctxs.mapIdx fun i x => if i = 0 then x else { x with state := .running } }
/-- A spawn item of core 0's for itself. -/
def anItem : SpawnItem := ⟨.spawn, 0x40, 0, [7], 0, 0, 15, 0, 1, .core, []⟩
/-- A pattern of slot 0 alone, whose body has its region at address 0. -/
def aPattern : Pattern := ⟨[0], 3, true, false, 0x40, 0⟩
/-- `mapped` with a message at channel 0 of core 0 and a pattern of it in slot 31. -/
def firing : State := mapped.modCore 0 fun c =>
  (c.modChan 0 fun _ => { newSlot .fifo .iadd 1 1 0 0 0 0 with ring := [⟨aMsg (named 0) (.words [9]), 1⟩] }).setPat 31 (some aPattern)
theorem meets_BodiesStart_words :
    (let r : WordRule := { srcs := (.x 7, false) :: (payloadRegs false 8 2).map fun r => (r, false), dests := [.x 6] }
     (starting 1 0).Clear r ∧ (starting 1 0).cur.2 ≠ 0 ∧ (starting 0 2).Clear r ∧ ((starting 0 2).ctx.readX 7).toNat % 4 ≠ 0 ∧
      (starting 0 4).Clear r ∧ ((starting 0 4).ctx.readX 7).toNat % 4 = 0 ∧ (starting 0 4).budgetFault = none ∧
      ({ starting 0 4 with mem := [] } : State).budgetFault ≠ none ∧ ({ starting 0 4 with mem := [] } : State).Clear r ∧
      (starting 0 4).me.stopping = false ∧ ((starting 0 4).me.ctx 1).state = .free ∧ (noHelper (starting 0 4)).Clear r ∧
      (noHelper (starting 0 4)).budgetFault = none ∧ (∀ k < 11, 1 ≤ k → ((noHelper (starting 0 4)).me.ctx k).state ≠ .free)) ∧
    State.reset.Clear { dests := [.x 13] } ∧
    (let s := coreWith (·.modCtx 0 fun c => { c with claim := true, state := .waiting })
     ((s.core 0).ctx 0).claim = true ∧ ((s.core 0).ctx 0).state = .waiting ∧ (s.core 0).stopping = false ∧ ((s.core 0).ctx 10).state = .free) ∧
    (let r : WordRule := { srcs := (.x 11, false) :: (.x 7, false) :: (payloadRegs true 0 4).map fun r => (r, false) }
     (starting 0 4).Clear r ∧ (starting 0 2).Clear r ∧ (starting 0 4).inPound (bits ((starting 0 4).ctx.readX 11) 14 0) = true ∧
      (starting 0 4).me.outFull = false ∧ ({ starting 0 4 with pounds := [] } : State).Clear r ∧ ({ starting 0 4 with pounds := [] } : State).inPound 0 = false) := by
  refine ⟨?_, ?_, ?_, ?_⟩ <;> decide +kernel
theorem meets_BodiesStart_walks :
    (let s (route : List Nat) (f : Core → Core) : State := { mapped.modCore 0 f with walkers := [⟨anItem, route⟩] }
     (s [0] id).walkers[0]? = some ⟨anItem, [0]⟩ ∧ ((s [0] id).core anItem.hint).stopping = false ∧ (s [0] id).takesItem 0 anItem = true ∧
      ((s [0] id).core 0).helpersFor.head? = some 1 ∧ (s [0, 1] fun c => { c with halted := true }).takesItem 0 anItem = false ∧
      ((s [] id).core anItem.hint).spawnQ.length < 32 ∧ (s [] id).tagOf anItem.hint = anItem.tag ∧ ((s [] id).core anItem.hint).msgSaved = false ∧
      32 ≤ ((s [] fun c => { c with spawnQ := List.replicate 32 anItem }).core anItem.hint).spawnQ.length) := by decide +kernel
theorem meets_BodiesStart_sluice :
    choose [(3, aPattern), (31, aPattern)] (fun _ => 4) = some ((31, aPattern), some (3, 0)) ∧
    choose [(3, { aPattern with fair := false }), (31, aPattern)] (fun _ => 4) = some ((3, { aPattern with fair := false }), none) ∧
    (coreIn 0 = true ∧
      choose (firing.candidates 0) (fun r => ((firing.core 0).ptr.getD r 0).toNat) = some ((31, aPattern), some (3, 0)) ∧
      (firing.core 0).contextFor aPattern.ctrl = some 1 ∧ firing.isPaired 0 aPattern.region = false ∧ aPattern.chans.Nodup ∧
      ((firing.core 0).chan 0).kind = .fifo) ∧
    (let s := mapped.modCore 0 fun c => { c with spawnQ := [anItem] }
     s.candidates 0 = [] ∧ (s.core 0).helpersFor.head? = some 1 ∧ (s.core 0).spawnQ[0]? = some anItem ∧ s.mayFire 0 anItem.rcb = true ∧
      mapped.candidates 0 = [] ∧ (mapped.core 0).spawnQ = []) ∧
    (let s (rcb : Word) (st : List Store) : State := mapped.modCore 0 fun c =>
       { c.modCtx 1 (fun x => { x with state := .loading, rcbptr := rcb, startCover := [⟨0, 1, 5⟩] }) with stores := st }
     let covered (s : State) : Bool := ((s.core 0).ctx 1).startCover.all (s.performed .core true)
     (((s 0 []).core 0).ctx 1).state = .loading ∧ covered (s 0 []) = true ∧ ((s 0 []).regionOf ((s 0 []).tagOf 0).toNat 0).toOption.isSome = true ∧
      ((s 0 []).regionOf ((s 0 []).tagOf 0).toNat 8).toOption = none ∧ covered (s 0 [aStore false 0 0]) = false) := by
  refine ⟨?_, ?_, ?_, ?_, ?_⟩ <;> decide +kernel

theorem noLaunch_of (s : State) (i core : Nat) (h : s.ovfIndex (clusterOf core) (s.tagOf core).toNat = some i)
    (q : (s.cluster (clusterOf core)).ovf.getD i [] = []) : s.noLaunch core := by
  intro j hj it hm
  obtain rfl : i = j := Option.some.inj (h.symm.trans hj)
  rw [q] at hm
  cases hm
theorem meets_TheSluice_noLaunch : mapped.noLaunch 0 := noLaunch_of _ 0 0 (by decide +kernel) (by decide +kernel)

/-- A miss of page 1 of device 1 by context 1 of core 0. -/
def aMiss : Miss := ⟨1, 1, 0, BitVec.ofNat 64 fetchPlace, 0, 1, 0⟩
/-- `inPound` with walks and pending misses of cluster 0, context 1 of core 0 waiting on page 1. -/
def walking (ws : List Walk) (ms : Option Miss) : State :=
  (inPound.modCluster 0 fun c => { c with walks := ws, misses := c.misses.set 0 ms }).modCore 0
    (·.modCtx 1 fun x => { x with state := .xstall, stall := some ⟨1, BitVec.ofNat 64 fetchPlace, some 0, 0, .none, false⟩ })
/-- `mapped` with an entry in the side log of core 0. -/
def logging (m sent : Bool) (a : Option AtomOp) (va : Word) : State :=
  mapped.modCore 0 fun c => { c.modCtx 1 (fun x => { x with live := true }) with
    sideLog := [⟨0, 1, sent, 0xFF, va, 5, a, .core, none, 1, 0, m, none, 0, 0⟩] }
theorem meets_WalksAndReplays :
    (let w : Walk := ⟨aMiss, none⟩
     let none_ : Walk := ⟨aMiss, some none⟩
     let found : Walk := ⟨aMiss, some (some placeLeaf)⟩
     clusterIn 0 = true ∧ ((walking [w] none).cluster 0).walks[0]? = some w ∧ ((walking [found] none).cluster 0).walks[0]? = some found ∧
      (((walking [found] none).core 0).ctx 1).state = .xstall ∧ (0, (walking [found] none).core 0) ∈ (walking [found] none).cores ∧
      (((walking [found] none).core 0).ctx 1).stall.any (fun st => st.vpn == aMiss.vpn && st.kind != 7) = true ∧
      ((walking [none_] none).cluster 0).walks[0]? = some none_ ∧ (walking [none_] none).treeLookup 0 1 (aMiss.vpn.toNat * 2 ^ 16) = none ∧
      ((walking [none_] none).cluster 0).misses[0]? = some none ∧ (∀ i : Fin 16, ((walking [none_] none).cluster 0).misses.get i = none)) ∧
    (((walking [] (some aMiss)).cluster 0).misses[bits (0x80 : Word) 3 0]? = some (some aMiss) ∧ (0x80 : Word).getLsbD 7 = true ∧
      (0 : Word).getLsbD 7 = false ∧ (((walking [] (some aMiss)).core 0).ctx 1).stall.any (fun st => st.index == some 0) = true) ∧
    (let va := BitVec.ofNat 64 fetchPlace
     let s := logging true false none va
     let u := (s.translate 0 false va).2
     (s.translate 0 false va).1 = some (fetchPlace, placeLeaf) ∧ (s.core 0).sideLog.length = 1 ∧ (s.core 0).pairOf 1 = none ∧ leafTgt placeLeaf = 0 ∧
      u.checkLeaf (u.tagOf 0).toNat .store va false fetchPlace placeLeaf = .ok ⟨.dram, fetchPlace, placeLeaf⟩ ∧
      u.checkLeaf (u.tagOf 0).toNat .atn va false fetchPlace placeLeaf = .ok ⟨.dram, fetchPlace, placeLeaf⟩ ∧
      (((logging false false none va).core 0).sideLog.all fun e => !e.mapped) = true ∧
      (((s.core 0).ctx 1).live = true ∧ ((s.core 0).ctx 1).since ≤ 1) ∧
      (let o := { s with net := [aReq (.store 0 1 1) (.write 0xFF 5) fetchPlace] }
       (s.core 0).sideLog.all (fun e => s.sideOut 0 { e with sent := true }) = false ∧
        (o.core 0).sideLog.all (fun e => o.sideOut 0 { e with sent := true }) = true) ∧ (s.core 0).atomQ.length < 8 ∧
      (s.core 0).stores = [] ∧ (s.core 0).sideLog.all (fun e => (s.core 0).mayDrain (sideAsStore e 0 0 0)) = true) ∧
    (let va := BitVec.ofNat 64 fetchPlace
     let l : Word := placeLeaf &&& ~~~(BitVec.ofNat 64 (2 ^ 44))
     let s := { logging true false none va with mem := writeMem mapped.mem 0x138 (toBytes 8 l.toNat) }
     let u := (s.translate 0 false va).2
     (s.translate 0 false va).1 = some (fetchPlace, l) ∧
      (match u.checkLeaf (u.tagOf 0).toNat .store va false fetchPlace l with | .fault _ => true | _ => false) = true) ∧
    (let r := { aReq (.load 0 0 1 0) (.read 8 false false 0) 0 with target := 2 }
     let w := { aReq (.store 0 0 1) (.write 0xFF 1) 0 with target := 2 }
     let s (rs : List MemReq) : State := { inPound with remote := rs }
     (s [r]).remote[0]? = some r ∧ (s [r]).pairWaits r = false ∧ (s [r]).migRemote r = none ∧ (s [w]).migRemote w = none ∧
      (((s [r, w]).remote.take 1).any fun q => !(s [r, w]).pairWaits q && (q.node == w.node && q.pa == w.pa && q.target == w.target && q.chip == w.chip)) = true) := by
  refine ⟨?_, ?_, ?_, ?_, ?_⟩ <;> decide +kernel

/-- Core 0 of `inPound`, changed, with context 1 changed. -/
def coreOf (g : Core → Core) (f : Ctx → Ctx) : State := inPound.modCore 0 fun c => g (c.modCtx 1 f)
theorem meets_WatchdogsAndSlices :
    (let out (x : Ctx) : Ctx := { x with state := .running, wdleft := 0 }
     let s := coreOf id out
     coreIn 0 = true ∧ ((s.core 0).ctx 1).wdleft = 0 ∧ ((s.core 0).ctx 1).state = .running ∧ ((s.core 0).ctx 1).forced = false ∧
      (s.core 0).killing = none ∧ (s.core 0).ending = false ∧
      (let t := coreOf (fun c => { c with ending := true, saving := some (1, 5) }) out
       (t.core 0).ending = true ∧ (t.core 0).saving.any (·.1 == 1) = true) ∧
      (let t := coreOf (fun c => { c with ending := true, saving := some (0, 5) }) out
       (t.core 0).saving.any (·.1 == 1) = false) ∧
      (((coreOf id fun x => { x with wdleft := 1 }).core 0).ctx 1).wdleft ≠ 0) ∧
    (((coreOf (fun c => { c with signal := some 7 }) id).core 0).signal = some 7 ∧
      (let s := coreOf (fun c => { c with stopping := true }) fun x => { x with state := .running }
       (s.core 0).stopping = true ∧ (s.core 0).ending = false ∧ (s.core 0).grace = 0 ∧ ((s.core 0).ctx 1).state ≠ .free ∧
        (∀ j < 1, ((s.core 0).ctx j).state = .free)) ∧
      (let s := coreOf (fun c => { c with stopping := true }) id
       (s.core 0).grace = 0 ∧ ∀ k < 11, ((s.core 0).ctx k).state = .free)) ∧
    (let s (f : Ctx → Ctx) (n : Nat) : State := coreOf (fun c => { c with ending := true, saving := some (1, n) }) f
     let run (x : Ctx) : Ctx := { x with state := .running }
     let two := (s run 0).modCore 0 (·.modCtx 10 run)
     ((s run 0).core 0).saving = some (1, 0) ∧ (((s run 0).core 0).ctx 1).state ≠ .loading ∧ (((s run 0).core 0).ctx 1).pends = [] ∧
      ((s run 0).core 0).midWord 1 = false ∧ ((s run 0).core 0).drain = none ∧ (∀ a < 8, (((s run 0).core 0).tile a).busy = false) ∧
      (((s run 0).core 0).ctx 1).forced = false ∧ (((s (fun x => { x with forced := true, state := .running }) 0).core 0).ctx 1).forced = true ∧
      ((s run 3).core 0).saving = some (1, 3) ∧ ((two.core 0).ctx 10).state ≠ .free ∧ (two.core 0).savedCtx.getLsbD 10 = false) ∧
    (let s := coreOf (fun c => { c with ending := true }) id
     (s.core 0).ending = true ∧ (s.core 0).saving = none ∧ (s.core 0).msgSaved = false ∧ (s.core 0).stores = [] ∧ (s.core 0).atomsOut = [] ∧
      (s.core 0).relays = [] ∧ s.poundOf (clusterOf 0) = some placePound ∧ (s.core 1).msgSaved = false) ∧
    (let s := coreOf (fun c => { c with msgSaved := true, devTag := 1 }) fun x => { x with state := .saved }
     (s.core 0).msgSaved = true ∧ s.tagOf 0 ≠ 0 ∧ (s.core 0).devTag = s.tagOf 0 ∧ (inPound.core 0).msgSaved = false) ∧
    (let d : Deferred := ⟨⟨.poison, 0, 0⟩, 4⟩
     let s (st : CtxState) : State := coreOf id fun x => { x with deferred := [d, d], state := st }
     ((s .running).core 0).ctx 1 |>.deferred = [d, d]) := by
  refine ⟨?_, ?_, ?_, ?_, ?_, ?_⟩ <;> decide +kernel
theorem meets_KeeperCommands :
    (let s (st : CtxState) (g : Option Group) : State := coreOf (fun c => { c with ctxsel := 1 }) fun x => { x with state := st, group := g }
     ((s .running none).core 0).ctxsel.toNat = 1 ∧ (((s .frozen none).core 0).ctx 1).state = .frozen ∧ (((s .frozen none).core 0).ctx 1).rep = none ∧
      (((s .running none).core 0).ctx 1).state = .running ∧ ((s .running none).core 0).mayStop 1 = true ∧
      ((s .running (some ⟨0, 0, some 0, none, none⟩)).core 0).mayStop 1 = false ∧ (((s .free none).core 0).ctx 1).state = .free ∧
      10 < ((coreOf (fun c => { c with ctxsel := 11 }) id).core 0).ctxsel.toNat) ∧
    (bits (5 : Word) 3 0 = 5 ∧ bits (1 : Word) 3 0 = 1 ∧ bits (0xFC04 : Word) 15 10 = 63) ∧
    (let s (st : CtxState) : State := coreOf (fun c => { c with ctxsel := 1 }) fun x => { x with state := st, xfull := ~~~(1 <<< 31) }
     (0 : Nat) < Config.workers ∧ (((s .frozen).core 0).ctx 1).full (.x 30) = true ∧ (((s .running).core 0).ctx 1).full (.x 31) = false ∧
      (((s .running).core 0).ctx 1).full (.x 1) = true) := by
  refine ⟨?_, ?_, ?_⟩ <;> decide +kernel
theorem meets_KillsAndHalts :
    (let ready (s : State) : Bool := (s.modCore 0 fun c => { c with killing := some 21 }).killReady 0
     ready inPound = true ∧ ready (inPound.modCore 0 fun c => { c with stores := [aStore false 0 0] }) = false) ∧
    (let s := { inPound with devRegs := [(.flight 0, 0x1F)] }
     (s.devReg (.flight 0)).getLsbD 4 = true ∧ bits (s.devReg (.flight 0)) 3 0 = 15 ∧ (inPound.devReg (.flight 0)).getLsbD 4 = false) := by
  refine ⟨?_, ?_⟩ <;> decide +kernel
theorem meets_ConsistentCuts :
    inPound.poundAt 0 = some placePound ∧
    (let x : CutState := ⟨1, false, false, 0, [], false⟩
     let s := { coreOf (fun c => { c with cut := some x }) id with cuts := [⟨0, 1, false, false, [], []⟩] }
     (s.core 0).cut = some x ∧ (s.core 0).msgSaved = false ∧ s.tagOf 0 ≠ 0 ∧ (s.core 0).outFull = false ∧
      (∀ k < 11, s.performed .dev false ⟨0, k, s.seq⟩ = true ∧ ((s.core 0).ctx k).pends = [] ∧ (s.core 0).midWord k = false ∧
        ((s.core 0).ctx k).state ≠ .loading) ∧ (s.cutOf 0).isSome = true ∧
      (s.markerOuts 0 { x with recorded := true, injected := true } [0, 1, 2, 3, 4, 5, 6, 7, 8, 9, 10, 11]).getLsbD 0 = true) ∧
    ((((engineAt [.marker 1] none false).stack 0).engine 0).queue = [.marker 1] ∧ (((engineAt [.marker 1] none false).stack 0).engine 0).run = none ∧
      (((engineAt [.marker 1] (some (aRun none 0)) false).stack 0).engine 0).run ≠ none) ∧
    (∃ c ∈ placePound.workers, (inPound.core c).halted = false) := by
  refine ⟨by decide +kernel, by decide +kernel, by decide +kernel, 0, ?_, by decide +kernel⟩
  decide +kernel

/-- A pound of one cluster, 0, with device 1 resident. -/
def smallPound : Pound := { placePound with record := ⟨BitVec.ofNat 64 (9 * 2 ^ 9), [1], 0, [1, 1, 1, 1]⟩ }
/-- Every core of `smallPound` halted. -/
def allHalted : State :=
  { State.reset with pounds := [smallPound], cores := smallPound.workers.map fun n => (n, { Core.reset with halted := true }) }
/-- A memory cut of `smallPound`'s node. -/
def aCut (cores : List Nat) : Cut := ⟨4608, 1, true, false, cores, []⟩
/-- `allHalted` with a checkpoint, and a record of each core under its number. -/
def checkpointed : State :=
  { allHalted with
    checkpoints := [⟨4608, 1, [], [], [], [3]⟩]
    cutRecs := smallPound.workers.map fun n => ((1, n), { Core.reset with cut := some ⟨1, true, true, 0, [], false⟩ }) }
theorem meets_ConsistentCuts_memory :
    allHalted.poundAt 4608 = some smallPound ∧ (∀ c ∈ smallPound.workers, (allHalted.core c).halted = true) ∧
    (∀ q ∈ allHalted.cuts, q.node = 4608 → q.number = 1 → q.memory = false) ∧
    (let q := aCut smallPound.workers
     ({ allHalted with cuts := [q] } : State).cuts.find? (fun c => c.node == 4608 && c.number == 1 && c.memory) = some q ∧
      (∀ c ∈ smallPound.workers, c ∈ q.cores) ∧ q.failed = false ∧ (∀ k ∈ allHalted.checkpoints, ¬(k.node = 4608 ∧ k.number = 1))) ∧
    checkpointed.poundAt 4608 = some smallPound ∧
    (checkpointed.checkpoints.find? (·.node == 4608)).any (fun k => Memory.wf k.mem && k.number == 1) = true ∧
    (smallPound.workers.all fun n => ((lookupKey Core.reset (1, n) checkpointed.cutRecs).cut.any (·.log.isEmpty))) = true := by
  refine ⟨?_, ?_, ?_, ?_, ?_, ?_, ?_⟩ <;> decide +kernel

/-- `mapped` with more device registers. -/
def regsWith (rs : List (DevReg × Word)) : State := { mapped with devRegs := rs ++ mapped.devRegs }
/-- `mapped` with an entry of a kind for the name of slot 3. -/
def entryWith (kind : Word) : State := regsWith [(.emTag 1 0, named 3), (.emEntry 1 0, kind)]
/-- The name of slot 3 of core 0 of another chip. -/
def abroad : Word := mkName 1 0 3 1 1
/-- The RMA key of window 0 of device 1. -/
def aKey : Word := 0x10000
/-- `mapped` with RMA window 0 of one page from an address, to read and to write. -/
def windowAt (va : Word) : State := regsWith [(.rmaBase 1 0, va ||| 3), (.rmaLen 1 0, 1)]
/-- A message for a completion endpoint, and the endpoint's control. -/
def completing (ctl : Word) : State :=
  { regsWith [(.compCtl 1 0, ctl)] with flight := [⟨0, Config.workers, aMsg abroad (.words [1]), 0, 1⟩] }
theorem meets_PortsAndCompletions :
    (mapped.entryFor 5 = none ∧ (entryWith 1).entryFor (named 3) = some (1, 0, 1) ∧ nameChip (named 3) = Config.chip.toNat ∧
      ((entryWith 1).poundOfTag 1).any Pound.open_ = true ∧
      ({ entryWith 1 with pounds := [{ placePound with trust := .locked }] } : State).entryFor (named 3) = some (1, 0, 1) ∧
      (({ entryWith 1 with pounds := [{ placePound with trust := .locked }] } : State).poundOfTag 1).any Pound.open_ = false ∧
      (let s := entryWith 2
       let full := s.modCore 0 fun c => { c with spawnQ := List.replicate 32 ⟨.spawn, 0x40, 0, [7], 0, 0, 15, 0, 1, .core, []⟩ }
       s.entryFor (named 3) = some (1, 0, 2) ∧ (s.poundOfTag 1).any Pound.open_ = true ∧ s.poundOfTag 1 = some placePound ∧
        nameCore (named 3) < Config.workers ∧ nodeHas placePound.record.node (clusterOf (nameCore (named 3))) = true ∧
        (s.tagOf (nameCore (named 3))).toNat = 1 ∧ (s.core (nameCore (named 3))).msgSaved = false ∧
        (s.core (nameCore (named 3))).spawnQ.length < 32 ∧
        (let away := { s with devRegs := (.ovfRing 0 0, 1 <<< 32) :: s.devRegs }.modCore 0 fun c => { c with msgSaved := true }
         away.entryFor (named 3) = some (1, 0, 2) ∧ (away.core 0).msgSaved = true ∧ away.ovfIndex (clusterOf 0) 1 = some 0 ∧
          (away.cluster (clusterOf 0)).ovf.getD 0 [] = [] ∧ 0 < bits (away.devReg (.ovfRing (clusterOf 0) 0)) 47 32 ∧
          s.devReg (.ovfRing (clusterOf 0) 0) = 0) ∧ full.entryFor (named 3) = some (1, 0, 2) ∧ full.poundOfTag 1 = some placePound ∧
        (full.tagOf 0).toNat = 1 ∧ (full.core 0).msgSaved = false ∧ 32 ≤ (full.core (nameCore (named 3))).spawnQ.length)) ∧
    (nameChip abroad ≠ Config.chip.toNat ∧ nameChip (named 3) = Config.chip.toNat) ∧
    (bits aKey 63 32 = 0 ∧ bits aKey 15 4 = 0 ∧ bits (2 ^ 32 : Word) 63 32 ≠ 0 ∧ mapped.rmaCheck (2 ^ 32) 0 1 true = .refused ∧
      ((mapped.devReg (.rmaBase 1 0)).getLsbD 1) = false ∧ mapped.rmaCheck aKey 0 1 false = .refused ∧
      (let s := windowAt 0x30000
       s.rmaCheck aKey 6 4 true = .ok 1 0x30006 ∧ s.rmaCheck aKey 6 4 false = .ok 1 0x30006 ∧
        (∀ p ∈ parts8 0x30006 4, (s.leafOfTag 1 (BitVec.ofNat 64 p.2.1)).isSome = true) ∧ (∀ w ∈ s.rmas, w.id ≠ s.seq)) ∧
      (windowAt (2 ^ 33)).rmaCheck aKey 0 1 true = .miss 1 (2 ^ 33) ∧ (windowAt (2 ^ 33)).rmaCheck aKey 0 1 false = .miss 1 (2 ^ 33)) ∧
    (let done : Rma := ⟨5, true, 0, 0, 8, [], none, 0, []⟩
     let under : Rma := ⟨6, true, 0, 0, 8, [], none, 8, []⟩
     ({ mapped with rmas := [done, under] } : State).rmas[0]? = some done ∧ ({ mapped with rmas := [done, under] } : State).rmas[1]? = some under ∧
      done.left = 0 ∧ under.left ≠ 0) ∧
    (let s := completing 0
     let two := { s with flight := s.flight ++ s.flight }
     s.flight[0]? = some ⟨0, Config.workers, aMsg abroad (.words [1]), 0, 1⟩ ∧
      ((s.flight.take 0).any fun g => g.source == 0 && g.msg.name == abroad) = false ∧
      ((two.flight.take 1).any fun g => g.source == 0 && g.msg.name == abroad) = true ∧ nameCore abroad = 0 ∧
      0 + 1 = bits (s.devReg (.compCtl 1 0)) 31 26 + 1 ∧
      (let t := completing 0x04000010
       0 + 1 ≠ bits (t.devReg (.compCtl 1 0)) 31 26 + 1 ∧ bits (t.devReg (.compCtl 1 0)) 19 0 ≠ 0) ∧
      (let old : Batch := ⟨[aMsg abroad (.words [2])], 0, 0⟩
       let t := { completing 0x04000010 with batches := [((1, nameChip abroad, 0), old)] }
       lookupKey (⟨[], 0, 0⟩ : Batch) (1, nameChip abroad, 0) t.batches = old ∧ old.msgs ≠ [] ∧ old.timer = 0)) ∧
    (let m := aMsg abroad (.words [1])
     let s := { mapped with batches := [((1, 0, 0), (⟨[m], 0, 0⟩ : Batch)), ((1, 0, 1), ⟨[m], 5, 0⟩)] }
     lookupKey (⟨[], 0, 0⟩ : Batch) (1, 0, 0) s.batches = ⟨[m], 0, 0⟩ ∧ (lookupKey (⟨[], 0, 0⟩ : Batch) (1, 0, 1) s.batches).timer ≠ 0) := by
  refine ⟨?_, ?_, ?_, ?_, ?_, ?_⟩ <;> decide +kernel

theorem meets_EntryThroughPorts_noLaunch : (entryWith 2).noLaunch 0 := noLaunch_of _ 0 0 (by decide +kernel) (by decide +kernel)

/-- Stack 0 with migration entry 0 in a state and its page at a leaf's place. -/
def migAt (st : MigState) : State := stackWith fun t => t.modMig 0 fun m => { m with state := st, va := 0x50001, req := 2 }
theorem meets_EnergyAndMigrations :
    (let s := mapped.modCore 0 fun c => { c with energy := [(0, 40)] }
     let big := mapped.modCore 0 fun c => { c with energy := [(0, 1616)] }
     (s.core 0).energy = [(0, 40)] ∧ (s.core 0).cycles = [] ∧ 40 / 16 < s.budget (s.tagOf 0).toNat 0 0 ∧
      (big.core 0).energy = [(0, 1616)] ∧ 1616 / 16 = 1 + big.budget (big.tagOf 0).toNat 0 0 ∧
      State.reset.budget 0 0 0 = 0) ∧
    (1000 * State.reset.envelope < 5000000 ∧ bits ((regsWith [(.estk 0, 5 * 2 ^ 32)]).devReg (.estk 0)) 63 32 ≠ 0 ∧
      State.reset.age (.stack 0) < State.reset.energyInterval 0 ∧
      (let s := { stackWith (fun t => { t with nextAllot := some 5 }) with devRegs := [(.estk 0, 1)], ages := [(.stack 0, 1)] }
       s.energyInterval 0 ≤ s.age (.stack 0) ∧ (s.stack 0).nextAllot = some 5)) ∧
    ([MigState.idle, .claimed, .hold, .copy, .remap, .drain, .forward, .aborted].all fun st => (((migAt st).stack 0).migEntry 0).state == st) = true ∧
    (let s := (migAt .idle).modStack 0 (·.modMig 1 fun m => { m with state := .copy, va := 0x50001 })
     ((s.stack 0).migEntry 0).state = .idle ∧ ((s.stack 0).migEntry 1).state ≠ .idle ∧ ((s.stack 0).migEntry 1).va = 0x50001 ∧
      (∀ j < 16, j ≠ 0 → (((migAt .idle).stack 0).migEntry j).state = .idle)) ∧
    (let m := ((migAt .remap).stack 0).migEntry 0
     ((migAt .remap).dropPage m.tag m.page).pageOpen m.tag m.page = false ∧ (migAt .remap).leafPlace m.tag (m.page / 2 ^ 16) = none) ∧
    (leafTgt (((migAt .forward).stack 0).migEntry 0).oldLeaf = 0 ∧ (((migAt .forward).stack 0).migEntry 0).req = 2) := by
  refine ⟨?_, ?_, ?_, ?_, ?_, ?_⟩ <;> decide +kernel
/-- A claimed page with a leaf in its device's table: every cluster's shard has 16 buckets from 0x1000. -/
def tabled (st : MigState) : State :=
  let s := (migAt st).modStack 0 (·.modMig 0 fun m => { m with va := 0x50001 })
  let at_ := 0x1000 + 128 * (pageHash 5 1 % 16)
  { s with
    pounds := [smallPound]
    devRegs := [(.ptShard 0 1, 0x1004)]
    mem := writeMem (writeMem [] at_ (toBytes 8 0x50001)) (at_ + 8) (toBytes 8 placeLeaf.toNat) }
theorem meets_EnergyAndMigrations_table :
    (((tabled .claimed).stack 0).migEntry 0).state = .claimed ∧
    (tabled .claimed).bucketLookup (bits (0x50001 : Word) 15 0) (bits (0x50001 : Word) 63 16) = some placeLeaf ∧
    (((tabled .remap).stack 0).migEntry 0).state = .remap ∧
    (let m := ((tabled .remap).stack 0).migEntry 0
     ((tabled .remap).leafPlace m.tag (m.page / 2 ^ 16)).isSome = true) := by
  refine ⟨?_, ?_, ?_, ?_⟩ <;> decide +kernel

/-- `smallPound` in a state of its trusted interface, after the wharf's boot. -/
def trusting (t : Trust) (scrubbed : Bool) (report : Option (BitVec 256)) : State :=
  { State.reset with booted := true, pounds := [{ smallPound with trust := t, scrubbed := scrubbed, report := report }] }
/-- A pound of the two clusters of node (8, 0). -/
def pairPound : Pound := { placePound with record := ⟨4096, [1], 0, [1, 1, 1, 1]⟩, resident := none }
theorem meets_LayoutsAndTrust :
    (let s := { State.reset with booted := true }
     State.reset.booted = false ∧ s.booted = true ∧ s.journal = none ∧ s.layoutOk [] [placePound.record] = true ∧ s.layoutOk [] [] = false ∧
      (let two := [⟨4608, [1], 0, [1, 1, 1, 1]⟩, ⟨4609, [2], 0, [1, 1, 1, 1]⟩]
       ({ s with pounds := [pairPound] } : State).layoutOk [4096] two = true) ∧
      (let j (p : JournalPhase) : Journal := ⟨1, p, [], [placePound.record], 0⟩
       ([] : List Nat).map (BitVec.ofNat 64) = (j .prepared).removed ∧ (j .committed).phase = .committed ∧ (j .done).phase = .done)) ∧
    ((0 : Nat) < Config.clusters ∧ (1 : Nat) < Config.clusters ∧ (64 : Nat) < Config.workers ∧ clusterOf 64 ≠ 0) ∧
    ([1, 2, 3] : List Nat).length ≤ 6 ∧
    ([Trust.unlocked, .locked, .run, .error].all fun t => [true, false].all fun b =>
      ((trusting t b (some 5)).poundAt 4608).any fun p => p.trust == t && p.scrubbed == b && p.report == some (BitVec.ofNat 256 5)) = true ∧
    (trusting .locked true none).booted = true ∧ (trusting .locked true none).poundAt 4608 ≠ none ∧
    ([Trust.unlocked, .locked, .run, .error].all fun t => let s := trusting t true none
      (s.frozenPound (.rte 1 0)).any (fun p => p.trust == t && p.record.node.toNat == 4608) && s.frozenPound (.rte 1 0) == s.poundAt 4608) = true := by
  refine ⟨?_, ?_, ?_, ?_, ?_, ?_, ?_⟩ <;> decide +kernel

/-- `smallPound` with a resident or none, its device holding tokens, and core 0 holding a parked item of it. -/
def sharing (r : Option (BitVec 16)) (tokens : Int) (ending : Bool) : State :=
  let s := { State.reset with
    booted := true
    pounds := [{ smallPound with resident := r }]
    devRegs := [(.poundSch 4608, 100), (.vdCfg 1, 7 * 2 ^ 32)] }
  (s.modVd 1 fun v => { v with tokens := tokens, ending := ending }).modCore 0 fun c =>
    { c with devTag := 1, spawnQ := [⟨.spawn, 0x40, 0, [7], 0, 0, 15, 0, 1, .core, []⟩] }
theorem meets_DeviceSchedule :
    ([DevReg.faultCh 0, .rte 1 0, .emTag 1 0, .keyMask 0 0, .ptShard 0 1].all fun r => (State.reset.frozenPound r).isNone) = true ∧
    (let s := sharing none 5 false
     let p := { smallPound with resident := none }
     s.poundAt 4608 = some p ∧ bits (s.devReg (.poundSch 4608)) 31 0 = 100 ∧ s.age (.refill p.record.node.toNat) < 100 ∧
      100 ≤ ({ s with ages := [(.refill 4608, 100)] } : State).age (.refill p.record.node.toNat) ∧ p.tags.Nodup ∧ bits (State.reset.devReg (.poundSch 4608)) 31 0 = 0 ∧
      s.booted = true ∧ p.trust ≠ .error ∧ (∃ g ∈ p.tags, s.deviceReady p g = true) ∧
      (∀ g ∈ p.tags, (sharing none 0 false).deviceReady p g = false)) ∧
    State.reset.age (.slice 0 0) < 2 ^ 24 ∧ (2 : Nat) ^ 24 ≤ ({ State.reset with ages := [(.slice 0 0, 2 ^ 24)] } : State).age (.slice 0 0) ∧
    (let due (s : State) : Bool := decide ((s.vd 1).tokens ≤ 0) || decide (bits (s.devReg (.vdCfg 1)) 31 0 ≠ 0) ||
       !(smallPound.workers.any fun n => (s.core n).hasWork)
     (sharing (some 1) 0 false).poundAt 4608 = some smallPound ∧ smallPound.resident = some 1 ∧ ((sharing (some 1) 0 false).vd 1).tokens ≤ 0 ∧
      ((sharing (some 1) 0 false).vd 1).ending = false ∧ ((sharing (some 1) 0 true).vd 1).ending = true ∧ due (sharing (some 1) 5 false) = false) := by
  refine ⟨?_, ?_, ?_, ?_, ?_⟩ <;> decide +kernel
/-- No register is in a frozen set while the package has no pound. -/
theorem meets_DeviceSchedule_writes : ∀ r, State.reset.frozenPound r = none := by
  intro r
  cases r <;> simp [State.frozenPound, State.poundAt, State.poundOfTag, State.reset]

/-- One entry of the table for a cell. -/
def seen (c : DramCell) (n : Nat) (k : Option DramClass) (spared : Bool) : DramEntry := ⟨c, n, k, spared⟩
/-- A pair of contexts 1 of cores 0 and 1 with what each has issued. -/
def pairWith (a b : List (Nat × List Nat)) (done rerun : Bool) : State :=
  let one (other : Nat) (home : Bool) (l : List (Nat × List Nat)) : PairState := ⟨1, other, 1, home, l, 0, 0, [], [], rerun, done, Ctx.reset⟩
  (State.reset.modCore 0 fun c => { c with pairs := [one 1 true a] }).modCore 1 fun c => { c with pairs := [one 0 false b] }
theorem meets_ErrorsRepairsAndPairs :
    (placeBucket (.ueLane 3) = some (⟨.ueLane, 3⟩, none) ∧ placeBucket (.localStore 64 none) = some (⟨.localStore, 64⟩, some (clusterOf 64)) ∧
      placeBucket .wharf = none) ∧
    (let b : Bucket := ⟨20, 4, false, 3⟩
     b.fired = false ∧ b.count.toNat < b.level ∧ b.level ≤ min (b.count.toNat + 1) 65535 ∧
      State.reset.age (.bucket ⟨.ueLane, 3⟩) < Bucket.reset.leakCycles ∧
      Bucket.reset.leakCycles ≤ ({ State.reset with ages := [(.bucket ⟨.ueLane, 3⟩, Bucket.reset.leakCycles)] } : State).age (.bucket ⟨.ueLane, 3⟩)) ∧
    (let c (r k : Nat) : DramCell := ⟨0, 1, r, k⟩
     let one := [seen (c 5 5) 2 none false]
     classify (tableReport [] (c 5 5) 1) (c 5 5) = none ∧ (∀ e ∈ [seen (c 5 5) 1 none false], e.cell = c 5 5 ∧ e.count < 2) ∧
      tableReport [] (c 5 5) 2 = one ∧ classify one (c 5 5) = some .cell ∧ (∃ e ∈ one, e.cell = c 5 5 ∧ e.cls = none) ∧
      lookupD 0 (bankKey (c 5 5)) (State.reset.stack 0).sparesRow < 8 ∧
      (let col := tableReport [seen (c 1 5) 1 none false, seen (c 2 5) 1 none false] (c 3 5) 1
       classify col (c 3 5) = some .column ∧ lookupD 0 (bankKey (c 3 5)) (State.reset.stack 0).sparesCol < 4) ∧
      (∃ e ∈ one, e.cell = c 5 5) ∧ (∀ d ∈ one, d.cell = c 5 5 → d = seen (c 5 5) 2 none false) ∧
      (let s := stackWith fun t => { t with dram := [seen (c 5 5) 2 (some .cell) true] }
       (∃ e ∈ (s.stack 0).dram, e.cell = c 5 5 ∧ e.spared = true ∧ e.cls ≠ none) ∧
        ∀ e ∈ ((stackWith fun t => { t with dram := one }).stack 0).dram, e.cell = c 5 5 → e.spared = false ∨ e.cls = none)) ∧
    (coreIn 0 = true ∧ (State.reset.core 0).pairs = [] ∧
      (let s := pairWith [(4, [1, 2])] [(9, [1, 2])] false false
       (s.core 0).pairs.length = 1 ∧ (s.core 1).pairs.length = 1 ∧
        (s.core 0).pairs.all (fun p => p.home && p.other == 1 && p.issued[p.released]? == some (4, [1, 2])) = true ∧
        (s.core 1).pairs.all (fun q => q.ctx == 1 && q.other == 0 && q.otherCtx == 1 && q.issued[q.released]? == some (9, [1, 2])) = true) ∧
      (let s := pairWith [(4, [1, 2])] [(9, [1, 3])] false true
       (s.core 0).pairs.all (fun p => !s.pairOwed 0 p && p.rerun) = true ∧
        ((pairWith [(4, [1, 2])] [(9, [1, 3])] false false).core 0).pairs.all (fun p => !p.rerun) = true) ∧
      (let s := pairWith [] [] true false
       (s.core 0).pairs.all (fun p => decide (p.issued.length ≤ p.released) && p.done && !s.waitsOut 0 p.ctx p.numbers) = true ∧
        (s.core 1).pairs.all (fun q => decide (q.issued.length ≤ q.released) && q.done && !s.waitsOut 1 q.ctx q.numbers) = true)) := by
  refine ⟨?_, ?_, ?_, ?_⟩ <;> decide +kernel

/-- Core 0 of the reset state with context 1 in a state, and its word. -/
def lookAt (st : CtxState) (ir : Word32) : State := coreWith fun c => c.modCtx 1 fun x => { x with state := st, ir := ir }
theorem meets_DebuggerLooks :
    coreIn 0 = true ∧ ((lookAt .frozen 0).core 0).stopped 1 = true ∧ ((lookAt .running 0).core 0).stopped 1 = false ∧
    ((State.reset.core 0).tile 2).busy = false ∧ ((coreWith (·.modTile 2 fun t => { t with busy := true })).core 0 |>.tile 2).busy = true ∧
    (∀ k < 11, ((State.reset.core 0).ctx k).state ≠ .running) ∧ (((lookAt .running 0).core 0).ctx 1).state = .running ∧
    State.reset.regionBusy (BitVec.ofNat 24 7) = false ∧ stackOf 0 < 4 ∧ inPound.poundOfTag 1 = some placePound := by
  refine ⟨?_, ?_, ?_, ?_, ?_, ?_, ?_, ?_, ?_, ?_⟩ <;> decide +kernel
/-- `smallPound` under a session, its device's first 4 GiB mapped, with a word of code at 0x50000, a breakpoint or none, and context 1 of
core 0 as given. -/
def session (bs : List Breakpoint) (x : Ctx → Ctx) : State :=
  ({ mapped with
    pounds := [smallPound]
    mem := writeMem mapped.mem 0x50000 (toBytes 4 0x04432820)
    snivis := { State.reset.snivis with tag := some 1, breaks := bs } } : State).modCore 0 (·.modCtx 1 x)
theorem meets_DebuggerActs :
    (((State.reset.core 0).tile 2).busy = false ∧ (∀ k < 11, ((State.reset.core 0).ctx k).state ≠ .running ∧ ((State.reset.core 0).ctx k).state ≠ .waiting)) ∧
    ((((lookAt .frozen 0).core 0).ctx 1).state = .frozen ∧ (((lookAt .frozen 0).core 0).ctx 1).rep = none ∧ State.reset.snvPound = none) ∧
    (let s := session [] id
     s.snivis.tag = some 1 ∧ s.poundOfTag 1 = some smallPound ∧ s.groupStart 1 0x50000 3 = 0x50000 ∧
      s.originalWord 1 0x50000 = some 0x04432820 ∧ s.originalWord 1 (2 ^ 40) = none) ∧
    (let b : Breakpoint := ⟨1, 0x50000, [0], 0x04432820⟩
     let s := session [b] fun x => { x with state := .frozen, ir := plantedWord, pc := 0x50000 }
     (∃ b ∈ s.snivis.breaks, b.number = 1) ∧ (∀ b ∈ s.snivis.breaks, b.number ≠ 2) ∧ s.snivis.breaks.find? (·.number == 1) = some b ∧
      (s.leafOfTag 1 b.va).isSome = true ∧ (0 : Nat) ∈ smallPound.workers ∧ smallPound.workers.Nodup ∧ ((s.core 0).ctx 1).state = .frozen ∧
      ((s.core 0).ctx 1).ir = plantedWord ∧ ((s.core 0).ctx 1).rep = none ∧ b.va = ((s.core 0).ctx 1).pc ∧
      (∀ c ∈ s.snivis.breaks, c.va = b.va → c = b)) ∧
    ((State.reset.poundAt 4608).bind (·.resident) = none ∧ ((session [] id).poundAt 4608).bind (·.resident) ≠ none ∧
      (let s := sharing none 5 false
       let p := { smallPound with resident := none }
       s.poundAt 4608 = some p ∧ p.trust ≠ .error ∧ p.record.vdTags[p.lastVd]? = some 1)) ∧
    ((State.reset.core 0).acfgWait = none ∧
      ((coreWith fun c => { c with acfgWait := some ⟨Config.keeperOf (clusterOf 0), 15, false, 2, some 0⟩ }).core 0).acfgWait =
        some ⟨Config.keeperOf (clusterOf 0), 15, false, 2, some 0⟩ ∧ smallPound.open_ = true) := by
  refine ⟨?_, ?_, ?_, ?_, ?_, ?_⟩ <;> decide +kernel

/-- A launch at fixed addresses, with nothing supplied. -/
def aLaunch : LaunchRequest := ⟨0x50000, 0x60000, 0x70000, [], none, none, none, none, none, none, none, none, none, none, none, []⟩
theorem meets_LoaderAndAssembler :
    State.reset.snvPound = none ∧ (session [] id).snivis.tag = some 1 ∧ (session [] id).poundOfTag 1 = some smallPound ∧
    (let o : GofObject := ⟨0x1000, [⟨.ls, 0, 0, List.replicate 0x1001 0⟩], [], [], [], [], []⟩
     ((session [] id).launchObject o aLaunch 1 smallPound).isNone = true ∧ ∃ x ∈ o.sections, x.kind = .ls ∧ o.sysbase < x.bytes.length) ∧
    (let o : GofObject := ⟨0x1000, [⟨.text, 0, 2, [0x20, 0x28, 0x43, 0x04]⟩], [], [], [], [], []⟩
     ((session [] id).launchObject o aLaunch 1 smallPound).isSome = true) ∧
    (let j (text : String) (base : Nat) : AsmJob := ⟨"a.s", text, [], [], [], none, some base, none, some .wait, false, []⟩
     jobUsable (j "END\n" 0x1000) = true ∧ jobUsable (j "END\n" 0x1001) = false ∧ (assembleJob (j "END\n" 0x1000)).diags = [] ∧
      (assembleJob (j "NOSUCH\n" 0x1000)).diags.any (fun d => d.code.toList.head? == some 'E') = true) := by
  refine ⟨?_, ?_, ?_, ?_, ?_, ?_⟩ <;> decide +kernel

end Sys2Proof.Tests
end

section
/-!
SUPPORT. Values numbered by any kind of key, folds over units, and the fields of words.
-/

namespace Sys2Proof.Machine

/-! ## Lists of values under keys -/

section Keyed
variable {κ α : Type} [DecidableEq κ]

@[simp] theorem lookupKey_insertKey_self (d : α) (k : κ) (v : α) (l : List (κ × α)) :
    lookupKey d k (insertKey k v l) = v := by
  induction l with
  | nil => simp [insertKey, lookupKey]
  | cons p l ih =>
    rw [insertKey]
    split
    · simp [lookupKey]
    · rename_i hk
      simp [lookupKey, hk, ih]

@[simp] theorem lookupKey_insertKey_ne (d : α) {j k : κ} (v : α) (l : List (κ × α)) (h : j ≠ k) :
    lookupKey d j (insertKey k v l) = lookupKey d j l := by
  induction l with
  | nil => simp [insertKey, lookupKey, h.symm]
  | cons p l ih =>
    rw [insertKey]
    split
    · rename_i hk
      simp [lookupKey, hk, h.symm]
    · simp only [lookupKey, ih]

end Keyed

@[simp] theorem age_restart_self (s : State) (u : Timed) : (s.restart u).age u = 0 := by
  simp [State.age, State.restart]
@[simp] theorem stack_restart (s : State) (u : Timed) (k : Nat) : (s.restart u).stack k = s.stack k := rfl
@[simp] theorem vd_restart (s : State) (u : Timed) (g : Nat) : (s.restart u).vd g = s.vd g := rfl
@[simp] theorem vd_modVd_ne (s : State) {g t : Nat} (f : Vd → Vd) (h : g ≠ t) : (s.modVd t f).vd g = s.vd g := by
  simp [State.modVd, State.vd, h]
@[simp] theorem devReg_setDevReg_self (s : State) (r : DevReg) (v : Word) : (s.setDevReg r v).devReg r = v := by
  simp [State.devReg, State.setDevReg]
@[simp] theorem devReg_setDevReg_ne (s : State) {q r : DevReg} (v : Word) (h : q ≠ r) :
    (s.setDevReg r v).devReg q = s.devReg q := by
  simp [State.devReg, State.setDevReg, h]

/-! ## Folds over units -/

/-- What every step of a fold keeps, the fold keeps. -/
theorem foldl_keeps {α β γ : Type} (π : α → γ) (f : α → β → α) (h : ∀ a b, π (f a b) = π a) (l : List β) (a : α) :
    π (l.foldl f a) = π a := by
  induction l generalizing a with
  | nil => rfl
  | cons b l ih => rw [List.foldl_cons, ih, h]

section ModCores
variable {f : Core → Core} (hf : ∀ c, f (f c) = f c) {n : Nat}

include hf in
/-- A core that already stands as the change leaves it stays so. -/
theorem core_foldl_modCore_done (l : List Nat) {s : State} {c : Core} (h : s.core n = f c) :
    (l.foldl (fun s n => s.modCore n f) s).core n = f c := by
  induction l generalizing s with
  | nil => exact h
  | cons m l ih =>
    apply ih
    by_cases hm : n = m
    · subst hm
      rw [core_modCore_self, h, hf]
    · rw [core_modCore_ne _ _ _ _ hm, h]

include hf in
/-- A change that is the same made once or twice, made to every core of a list. -/
theorem core_foldl_modCore_mem {l : List Nat} (hn : n ∈ l) (s : State) :
    (l.foldl (fun s n => s.modCore n f) s).core n = f (s.core n) := by
  induction l generalizing s with
  | nil => cases hn
  | cons m l ih =>
    by_cases hm : n = m
    · subst hm
      exact core_foldl_modCore_done hf l (core_modCore_self s n f)
    · rw [List.foldl_cons, ih (List.mem_of_ne_of_mem hm hn), core_modCore_ne _ _ _ _ hm]

end ModCores

/-- The largest value of a function over a list, as the model folds it. -/
theorem foldl_max_eq_max? {α : Type} (f : α → Nat) {l : List α} (h : l ≠ []) :
    (l.map f).max? = some (l.foldl (fun m t => max m (f t)) 0) := by
  cases l with
  | nil => exact absurd rfl h
  | cons a l => rw [List.map_cons, List.max?_cons', List.foldl_map, List.foldl_cons, Nat.zero_max]

/-! ## Fields of words -/

theorem two_pow_succ_eq_mul {hi lo : Nat} (h : lo ≤ hi) : (2 : Nat) ^ (hi + 1) = 2 ^ lo * 2 ^ (hi - lo + 1) := by
  rw [← pow_add, ← Nat.add_assoc, Nat.add_sub_of_le h]

/-- A field read from the low part of the word that ends with it. -/
theorem bits_eq_mod_div {n : Nat} (w : BitVec n) {hi lo : Nat} (h : lo ≤ hi) :
    bits w hi lo = w.toNat % 2 ^ (hi + 1) / 2 ^ lo := by
  rw [bits, ← Nat.mod_mul_right_div_self, two_pow_succ_eq_mul h]

/-- A number of two digits, the lower below `a` and the upper below `b`. -/
theorem mul_add_lt_mul_of_lt {a b y r : Nat} (hy : y < b) (hr : r < a) : a * y + r < a * b :=
  calc a * y + r < a * (y + 1) := by rw [Nat.mul_succ]; omega
    _ ≤ a * b := Nat.mul_le_mul_left a hy

section SetBits
variable {n : Nat} (w : BitVec n) {hi lo : Nat} (v : Nat) (hle : lo ≤ hi) (hn : hi < n)

include hle in
theorem field_add_low_lt : 2 ^ lo * (v % 2 ^ (hi - lo + 1)) + w.toNat % 2 ^ lo < 2 ^ (hi + 1) := by
  rw [two_pow_succ_eq_mul hle]
  exact mul_add_lt_mul_of_lt (Nat.mod_lt _ (Nat.two_pow_pos _)) (Nat.mod_lt _ (Nat.two_pow_pos _))

include hle hn in
/-- A field set: what lies above it stays, then the field's new value, then what lies below it. -/
theorem setBits_toNat : (setBits w hi lo v).toNat =
    2 ^ (hi + 1) * (w.toNat / 2 ^ (hi + 1)) + (2 ^ lo * (v % 2 ^ (hi - lo + 1)) + w.toNat % 2 ^ lo) := by
  have hN : (2 : Nat) ^ n = 2 ^ (hi + 1) * 2 ^ (n - (hi + 1)) := (pow_mul_pow_sub 2 hn).symm
  have hx : 2 ^ (hi + 1) * (w.toNat / 2 ^ (hi + 1)) + (2 ^ lo * bits w hi lo + w.toNat % 2 ^ lo) = w.toNat := by
    have hlow : 2 ^ lo * bits w hi lo + w.toNat % 2 ^ lo = w.toNat % 2 ^ (hi + 1) := by
      rw [bits_eq_mod_div w hle, ← Nat.mod_mod_of_dvd w.toNat (Nat.pow_dvd_pow 2 (by omega : lo ≤ hi + 1))]
      exact Nat.div_add_mod _ _
    rw [hlow]
    exact Nat.div_add_mod _ _
  have hlt := mul_add_lt_mul_of_lt (Nat.div_lt_of_lt_mul (hN ▸ w.isLt)) (field_add_low_lt w v hle)
  rw [setBits, BitVec.toNat_ofNat, Nat.mul_comm (bits w hi lo), Nat.mul_comm (v % _)]
  refine (congrArg (· % 2 ^ n) ?_).trans (Nat.mod_eq_of_lt (hN ▸ hlt))
  omega

include hle hn in
theorem setBits_mod : (setBits w hi lo v).toNat % 2 ^ lo = w.toNat % 2 ^ lo := by
  rw [setBits_toNat w v hle hn, two_pow_succ_eq_mul hle, Nat.mul_assoc, Nat.mul_add_mod, Nat.mul_add_mod, Nat.mod_mod]

include hle hn in
theorem setBits_div : (setBits w hi lo v).toNat / 2 ^ (hi + 1) = w.toNat / 2 ^ (hi + 1) := by
  rw [setBits_toNat w v hle hn, Nat.mul_add_div (Nat.two_pow_pos _), Nat.div_eq_of_lt (field_add_low_lt w v hle),
    Nat.add_zero]

include hle hn in
/-- A field set leaves every field above it and every field below it. -/
theorem bits_setBits_of_disjoint {hi' lo' : Nat} (h : hi < lo' ∨ lo' ≤ hi' ∧ hi' < lo) :
    bits (setBits w hi lo v) hi' lo' = bits w hi' lo' := by
  rcases h with h | ⟨h', h⟩
  · have hL : (2 : Nat) ^ lo' = 2 ^ (hi + 1) * 2 ^ (lo' - (hi + 1)) := (pow_mul_pow_sub 2 h).symm
    rw [bits, bits, hL, ← Nat.div_div_eq_div_mul, setBits_div w v hle hn, Nat.div_div_eq_div_mul]
  · have hd : (2 : Nat) ^ (hi' + 1) ∣ 2 ^ lo := Nat.pow_dvd_pow 2 h
    rw [bits_eq_mod_div _ h', bits_eq_mod_div _ h', ← Nat.mod_mod_of_dvd _ hd, setBits_mod w v hle hn,
      Nat.mod_mod_of_dvd _ hd]
end SetBits

/-- A field of the low part of a word is the word's. -/
theorem bits_ofNat_setWidth {n m k hi lo : Nat} (w : BitVec n) (hle : lo ≤ hi) (hm : hi < m) (hk : m ≤ k) :
    bits ((BitVec.ofNat m w.toNat).setWidth k) hi lo = bits w hi lo := by
  have hm' : (2 : Nat) ^ (hi + 1) ∣ 2 ^ m := Nat.pow_dvd_pow 2 hm
  have hk' : (2 : Nat) ^ (hi + 1) ∣ 2 ^ k := hm'.trans (Nat.pow_dvd_pow 2 hk)
  rw [bits_eq_mod_div _ hle, bits_eq_mod_div _ hle, BitVec.toNat_setWidth, BitVec.toNat_ofNat, Nat.mod_mod_of_dvd _ hk',
    Nat.mod_mod_of_dvd _ hm']

end Sys2Proof.Machine
end

section
/-!
PROOFS. Device registers, and the schedule of virtual devices and cache ways (R4, R378 to R383).
-/

namespace Sys2Proof.Machine

/-! ## Writes of device registers (R4) -/

theorem exec_registerWrite_unfrozen {s : State} {r : DevReg} (h : s.frozenPound r = none) (v : Word) :
    exec (.registerWrite r v) s = .next (s.writeReg r v) := by
  simp only [exec_registerWrite, execRegisterWrite, State.writeChecked, h]

/-- A register that stands in `State.devRegs`, that reads as it stands there, and whose writable fields are those of a mask. -/
structure KeptUnder (r : DevReg) (mask : Word) : Prop where
  write (s : State) (v : Word) : s.writeReg r v = s.setDevReg r (field mask (s.devReg r) v)
  read (s : State) : s.readReg r = s.devReg r

/-- A write of such a register puts the written bits under its mask and nothing else. -/
theorem KeptUnder.registerWrite {r : DevReg} {mask : Word} (k : KeptUnder r mask) {s : State} (h : s.frozenPound r = none)
    (v : Word) : ∃ u : State, exec (.registerWrite r v) s = .next u ∧ u.mem = s.mem ∧ u.cores = s.cores ∧
      u.readReg r = (s.devReg r &&& ~~~mask) ||| (v &&& mask) ∧ ∀ q, q ≠ r → u.devReg q = s.devReg q := by
  refine ⟨_, exec_registerWrite_unfrozen h v, ?_⟩
  rw [k.write, k.read]
  exact ⟨rfl, rfl, devReg_setDevReg_self .., fun q hq => devReg_setDevReg_ne s _ hq⟩

/-- Registers of status alone take no write. -/
theorem registerWrite_readOnly {s : State} {r : DevReg} {v : Word} (hf : s.frozenPound r = none) (hw : s.writeReg r v = s) :
    exec (.registerWrite r v) s = .next s := by
  rw [exec_registerWrite_unfrozen hf, hw]

/-! ## Token refills (R380) -/

/-- What a refill does to one device. -/
def State.refill (s : State) (t : Nat) : State :=
  s.modVd t fun v => { v with tokens := refilled v.tokens (bits (s.devReg (.vdCfg t)) 63 32) }

theorem exec_tokenRefill_early {node : Nat} {s : State} {p : Pound} (hp : s.poundAt node = some p)
    (h : bits (s.devReg (.poundSch node)) 31 0 = 0 ∨
      s.age (.refill p.record.node.toNat) < bits (s.devReg (.poundSch node)) 31 0) :
    exec (.tokenRefill node) s = .next s := by
  simp [exec_tokenRefill, execTokenRefill, hp, h]

theorem exec_tokenRefill_due {node : Nat} {s : State} {p : Pound} (hp : s.poundAt node = some p)
    (h0 : bits (s.devReg (.poundSch node)) 31 0 ≠ 0)
    (h : bits (s.devReg (.poundSch node)) 31 0 ≤ s.age (.refill p.record.node.toNat)) :
    exec (.tokenRefill node) s = .next ((p.tags.foldl State.refill s).restart (.refill p.record.node.toNat)) := by
  simp only [exec_tokenRefill, execTokenRefill, hp]
  rw [if_neg (by simpa [h0] using h)]
  rfl

@[simp] theorem refill_mem (s : State) (t : Nat) : (s.refill t).mem = s.mem := rfl
@[simp] theorem refill_cores (s : State) (t : Nat) : (s.refill t).cores = s.cores := rfl
@[simp] theorem devReg_refill (s : State) (t : Nat) (r : DevReg) : (s.refill t).devReg r = s.devReg r := rfl
@[simp] theorem vd_refill_self (s : State) (t : Nat) :
    (s.refill t).vd t = { s.vd t with tokens := refilled (s.vd t).tokens (bits (s.devReg (.vdCfg t)) 63 32) } :=
  vd_modVd_self s t _
@[simp] theorem vd_refill_ne (s : State) {g t : Nat} (h : g ≠ t) : (s.refill t).vd g = s.vd g := vd_modVd_ne s _ h

theorem vd_foldl_refill_notMem {g : Nat} {l : List Nat} (h : g ∉ l) (s : State) : (l.foldl State.refill s).vd g = s.vd g := by
  induction l generalizing s with
  | nil => rfl
  | cons t l ih =>
    rw [List.mem_cons, not_or] at h
    rw [List.foldl_cons, ih h.2, vd_refill_ne s h.1]

/-- Each device of a list without repeats is refilled once. -/
theorem vd_foldl_refill_mem {g : Nat} {l : List Nat} (hl : l.Nodup) (hg : g ∈ l) (s : State) :
    (l.foldl State.refill s).vd g = (s.refill g).vd g := by
  induction l generalizing s with
  | nil => cases hg
  | cons t l ih =>
    obtain ⟨ht, hl⟩ := List.nodup_cons.mp hl
    by_cases h : g = t
    · subst h
      rw [List.foldl_cons, vd_foldl_refill_notMem ht]
    · rw [List.foldl_cons, ih hl (List.mem_of_ne_of_mem h hg), vd_refill_self, vd_refill_self, devReg_refill, vd_refill_ne s h]

/-! ## The device the wharf takes (R381) -/

/-- The devices the wharf chooses between: ready, and of the highest priority among those. -/
def State.bestDevices (s : State) (p : Pound) : List Nat :=
  let ready := p.tags.filter (s.deviceReady p)
  ready.filter fun t => s.rootPrio t == ready.foldl (fun m t => max m (s.rootPrio t)) 0

section Choose
variable {s : State} {p : Pound}

theorem chooseDevice_eq : s.chooseDevice p =
    ((s.bestDevices p).find? fun t => decide (p.lastVd < p.vdIndex (BitVec.ofNat 16 t))).or (s.bestDevices p).head? := by
  unfold State.chooseDevice
  dsimp only
  split
  next h => exact (congrArg (Option.or · _) h).symm
  next h => exact (congrArg (Option.or · _) h).symm

theorem bestDevices_max? (h : ∃ g ∈ p.tags, s.deviceReady p g = true) :
    ((p.tags.filter (s.deviceReady p)).map s.rootPrio).max? =
      some ((p.tags.filter (s.deviceReady p)).foldl (fun m t => max m (s.rootPrio t)) 0) := by
  obtain ⟨g, hg, hr⟩ := h
  exact foldl_max_eq_max? _ (List.ne_nil_of_mem (List.mem_filter.mpr ⟨hg, hr⟩))

theorem bestDevices_spec {g : Nat} (hg : g ∈ s.bestDevices p) :
    g ∈ p.tags ∧ s.deviceReady p g = true ∧ ∀ h ∈ p.tags, s.deviceReady p h = true → s.rootPrio h ≤ s.rootPrio g := by
  obtain ⟨hready, htop⟩ := List.mem_filter.mp hg
  obtain ⟨hmem, hr⟩ := List.mem_filter.mp hready
  have hmax := (List.max?_eq_some_iff.mp (bestDevices_max? ⟨g, hmem, hr⟩)).2
  refine ⟨hmem, hr, fun h hh hhr => ?_⟩
  rw [eq_of_beq htop]
  exact hmax _ (List.mem_map_of_mem (List.mem_filter.mpr ⟨hh, hhr⟩))

theorem bestDevices_ne_nil (h : ∃ g ∈ p.tags, s.deviceReady p g = true) : s.bestDevices p ≠ [] := by
  obtain ⟨g, hg, htop⟩ := List.mem_map.mp (List.max?_eq_some_iff.mp (bestDevices_max? h)).1
  exact List.ne_nil_of_mem (List.mem_filter.mpr ⟨hg, beq_iff_eq.mpr htop⟩)

theorem chooseDevice_none (h : ∀ g ∈ p.tags, s.deviceReady p g = false) : s.chooseDevice p = none := by
  have hbest : s.bestDevices p = [] := List.eq_nil_iff_forall_not_mem.mpr fun g hg => by
    obtain ⟨hmem, hr, -⟩ := bestDevices_spec hg
    simp [h g hmem] at hr
  rw [chooseDevice_eq, hbest]
  rfl

theorem chooseDevice_mem_bestDevices (h : s.bestDevices p ≠ []) : ∃ g ∈ s.bestDevices p, s.chooseDevice p = some g := by
  rw [chooseDevice_eq]
  cases hf : (s.bestDevices p).find? fun t => decide (p.lastVd < p.vdIndex (BitVec.ofNat 16 t)) with
  | some t => exact ⟨t, List.mem_of_find?_eq_some hf, rfl⟩
  | none => exact ⟨_, List.head_mem h, List.head?_eq_some_head h⟩

end Choose

/-! ## A device becoming resident (R366, R378) -/

@[simp] theorem rekey_pounds (s : State) (line slot : Nat) : (s.rekey line slot).pounds = s.pounds := by
  unfold State.rekey; dsimp only; split
  · split <;> rfl
  · rfl
@[simp] theorem pinWrite_pounds (s : State) (pa slot : Nat) (bs : List Byte) : (s.pinWrite pa slot bs).pounds = s.pounds :=
  foldl_keeps State.pounds _ (fun s _ => rekey_pounds s _ _) _ _
@[simp] theorem moveRecord_pounds (s : State) (n : Nat) (a b : BitVec 16) : (s.moveRecord n a b).pounds = s.pounds := by
  simp only [State.moveRecord, pinWrite_pounds]

/-- What one worker does when a device becomes resident: it takes the device's tag, or its record is moved. -/
def State.takeDevice (tag : BitVec 16) (s : State) (n : Nat) : State :=
  let c := s.core n
  if !c.msgSaved then s.modCore n fun c => { c with devTag := tag, sluiceDue := true }
  else if c.devTag = tag then s else s.moveRecord n c.devTag tag

@[simp] theorem takeDevice_pounds (tag : BitVec 16) (s : State) (n : Nat) : (s.takeDevice tag n).pounds = s.pounds := by
  unfold State.takeDevice; dsimp only; split_ifs <;> simp

/-- The pound's record after a device has become resident on it. -/
def Pound.withResident (p : Pound) (tag : BitVec 16) : Pound := { p with resident := some tag, lastVd := p.vdIndex tag }

theorem makeResident_eq (s : State) (p : Pound) (t : Nat) : s.makeResident p t =
    ((p.workers.foldl (State.takeDevice (BitVec.ofNat 16 t)) s).modPound p.record.node.toNat
      (·.withResident (BitVec.ofNat 16 t))).modVd t fun v => { v with held := 0, ending := false } := rfl

/-- A change of a pound that keeps its record leaves it where it was found. -/
theorem poundAt_modPound (s : State) {f : Pound → Pound} (hf : ∀ p, (f p).record = p.record) (m node : Nat) :
    (s.modPound m f).poundAt node = (s.poundAt node).map fun p => if p.record.node.toNat = m then f p else p := by
  simp only [State.poundAt, State.modPound, List.find?_map]
  congr 2
  funext p
  simp only [Function.comp_apply]
  split <;> simp [hf]

theorem poundAt_congr {s t : State} (h : t.pounds = s.pounds) (node : Nat) : t.poundAt node = s.poundAt node := by
  rw [State.poundAt, State.poundAt, h]

theorem poundAt_makeResident {s : State} {p : Pound} {node : Nat} (hp : s.poundAt node = some p) (t : Nat) :
    (s.makeResident p t).poundAt node = some (p.withResident (BitVec.ofNat 16 t)) := by
  have hfold := poundAt_congr (foldl_keeps State.pounds _ (takeDevice_pounds (BitVec.ofNat 16 t)) p.workers s) node
  rw [makeResident_eq, poundAt_congr (modVd_pounds ..),
    poundAt_modPound _ (f := (·.withResident _)) (fun _ => rfl), hfold, hp]
  simp

theorem vd_makeResident (s : State) (p : Pound) (t : Nat) :
    ((s.makeResident p t).vd t).held = 0 ∧ ((s.makeResident p t).vd t).ending = false := by
  simp [makeResident_eq]

theorem exec_vdResume_idle {node : Nat} {s : State} {p : Pound} (hp : s.poundAt node = some p)
    (h : s.booted = false ∨ p.resident ≠ none ∨ p.trust = .error ∨ s.chooseDevice p = none) :
    exec (.vdResume node) s = .next s := by
  simp only [exec_vdResume, execVdResume, hp, State.wharfReady]
  rcases h with h | h | h | h
  · simp [h]
  · simp [Option.isSome_iff_ne_none.mpr h]
  · simp [h]
  · simp [h]

theorem exec_vdResume_chosen {node g : Nat} {s : State} {p : Pound} (hp : s.poundAt node = some p) (hb : s.booted = true)
    (hr : p.resident = none) (he : p.trust ≠ .error) (hg : s.chooseDevice p = some g) :
    exec (.vdResume node) s = .next (s.makeResident p g) := by
  simp [exec_vdResume, execVdResume, hp, State.wharfReady, hb, hr, he, hg]

/-! ## The end of a slice (R381) -/

/-- When the wharf ends the slice of a pound's resident device. -/
def State.SliceDue (s : State) (p : Pound) (g : Nat) : Prop :=
  let slice := bits (s.devReg (.vdCfg g)) 31 0
  (s.vd g).tokens ≤ 0 ∨
    (slice ≠ 0 ∧ slice ≤ (s.vd g).held ∧ (p.tags.any fun u => u != g && s.deviceReady p u) = true) ∨
    ((p.workers.any fun n => (s.core n).hasWork) = false ∧ (p.tags.any fun u => u != g && s.deviceWork p u) = true)

section SliceEnd
variable {node : Nat} {s : State} {p : Pound} {tag : BitVec 16} (hp : s.poundAt node = some p) (hr : p.resident = some tag)
  (hb : s.booted = true)

include hp hr hb in
open Classical in
theorem exec_vdSliceEnd_resident : exec (.vdSliceEnd node) s = .next
    (if (s.vd tag.toNat).ending = true ∨ ¬ s.SliceDue p tag.toNat then s
      else s.signalEnd p tag.toNat (bits (s.devReg (.poundSch node)) 47 32)) := by
  simp only [exec_vdSliceEnd, execVdSliceEnd, hp, hr, State.wharfReady, hb]
  congr 1
  refine if_congr ?_ rfl rfl
  simp only [State.SliceDue, Bool.not_true, Bool.false_or, Bool.or_eq_true, Bool.not_eq_true', ← Bool.not_eq_true,
    Bool.and_eq_true, decide_eq_true_eq, bne_iff_ne, and_assoc, or_assoc]

end SliceEnd

theorem signalEnd_mem (s : State) (p : Pound) (g grace : Nat) : (s.signalEnd p g grace).mem = s.mem :=
  foldl_keeps State.mem (fun s n => s.modCore n fun c => { c with signal := some grace }) (fun _ _ => rfl) _ _
theorem signalEnd_ending (s : State) (p : Pound) (g grace : Nat) : ((s.signalEnd p g grace).vd g).ending = true := by
  simp [State.signalEnd]
theorem core_signalEnd {p : Pound} {n : Nat} (hn : n ∈ p.workers) (s : State) (g grace : Nat) :
    (s.signalEnd p g grace).core n = { s.core n with signal := some grace } :=
  core_foldl_modCore_mem (f := fun c => { c with signal := some grace }) (fun _ => rfl) hn s

/-! ## Cache ways (R383) -/

theorem exec_wayRebalance_in {k i : Nat} (hk : k < 4) (hi : i < 16) (s : State) : exec (.wayRebalance k i) s =
    .next (if s.age (.slice k i) < 2 ^ 24 then s
      else (s.modStack k (·.modSlice i Slice.rebalance)).restart (.slice k i)) := by
  simp [exec_wayRebalance, execWayRebalance, event, unitIn, hk, hi]

/-- The way whose owner is set is the only one whose owner changes. -/
theorem wayField_setBits_ne (own : BitVec 48) {v w : Nat} (r : Nat) (hw : w < 16) (hv : v < 16) (h : v ≠ w) :
    bits ((BitVec.ofNat 48 (setBits (own.setWidth 64) (3 * w + 2) (3 * w) r).toNat).setWidth 64) (3 * v + 2) (3 * v) =
      bits (own.setWidth 64) (3 * v + 2) (3 * v) := by
  rw [bits_ofNat_setWidth _ (by omega) (by omega) (by omega), bits_setBits_of_disjoint _ _ (by omega) (by omega) (by omega)]

/-- A pass gives at most one way to another owner. -/
theorem rebalance_wayown (l : Slice) : l.rebalance.wayown = l.wayown ∨ ∃ w < 16, ∃ r,
    l.rebalance.wayown = BitVec.ofNat 48 (setBits (l.wayown.setWidth 64) (3 * w + 2) (3 * w) r).toNat := by
  unfold Slice.rebalance
  dsimp only
  split
  · exact .inl rfl
  · split
    · exact .inl rfl
    · split
      next hw =>
        exact (ite_eq_or_eq ..).elim
          (fun h => .inr ⟨_, List.mem_range.mp (List.mem_filter.mp (List.mem_of_getLast? hw)).1, _, h⟩) .inl
      next => exact .inl rfl

theorem rebalance_moves_at_most_one (l : Slice) : ∃ w < 16, ∀ v < 16, v ≠ w →
    bits (l.rebalance.wayown.setWidth 64) (3 * v + 2) (3 * v) = bits (l.wayown.setWidth 64) (3 * v + 2) (3 * v) := by
  rcases rebalance_wayown l with h | ⟨w, hw, r, h⟩
  · exact ⟨0, by omega, fun v _ _ => by rw [h]⟩
  · exact ⟨w, hw, fun v hv hvw => by rw [h, wayField_setBits_ne l.wayown r hw hv hvw]⟩

/-- Settles O56: a write keeps what its mask leaves out; a refill is one change of each device; the device taken is one of the ready
devices of highest priority; the slice's end is one signal to each core; and a rebalance sets the owner of at most one way. -/
theorem deviceSchedule : Obligations.DeviceSchedule := by
  unfold Obligations.DeviceSchedule
  refine ⟨⟨?writes, ?readOnly, ?reset, ?clear⟩, ?refill, ?resume, ?sliceEnd, ?rebalance⟩
  case writes =>
    intro v s t n c i hf wrote
    have kept (r : DevReg) (m : Word) (k : KeptUnder r m) : wrote r m := k.registerWrite (hf r) v
    refine ⟨kept _ _ ?_, kept _ _ ?_, kept _ _ ?_, kept _ _ ?_, kept _ _ ?_, kept _ _ ?_, kept _ _ ?_, kept _ _ ?_,
      kept _ _ ?_, kept _ _ ?_, kept _ _ ?_, kept _ _ ?_, kept _ _ ?_, kept _ _ ?_, kept _ _ ?_, kept _ _ ?_⟩ <;>
    exact ⟨fun _ _ => rfl, fun _ => rfl⟩
  case readOnly =>
    exact fun t e v s => ⟨registerWrite_readOnly rfl rfl, registerWrite_readOnly rfl rfl, registerWrite_readOnly rfl rfl⟩
  case reset =>
    intro s
    exact ⟨_, exec_packageReset s, rfl, rfl, rfl, rfl, rfl, rfl, rfl, rfl, rfl, by simp, by simp⟩
  case clear =>
    intro b s
    exact ⟨_, exec_clear s, lookupD_insertAt_self .., fun c hc => lookupD_insertAt_ne _ c b _ _ hc⟩
  case refill =>
    intro node s p hp period
    refine ⟨exec_tokenRefill_early hp, fun h0 hage hnd => ⟨_, exec_tokenRefill_due hp h0 hage, ?_, ?_, fun g hg => ?_⟩⟩
    · exact foldl_keeps State.mem _ refill_mem p.tags s
    · exact foldl_keeps State.cores _ refill_cores p.tags s
    · rw [vd_restart, vd_foldl_refill_mem hnd hg, vd_refill_self]
      exact ⟨rfl, rfl⟩
  case resume =>
    intro node s p hp
    constructor
    · intro h
      exact exec_vdResume_idle hp (h.imp_right (Or.imp_right (Or.imp_right chooseDevice_none)))
    · intro hb hr he hready
      obtain ⟨g, hbest, hg⟩ := chooseDevice_mem_bestDevices (bestDevices_ne_nil hready)
      obtain ⟨hmem, hgr, htop⟩ := bestDevices_spec hbest
      obtain ⟨hheld, hending⟩ := vd_makeResident s p g
      exact ⟨_, _, g, exec_vdResume_chosen hp hb hr he hg, poundAt_makeResident hp g, hmem, hgr, htop, rfl, hheld, hending⟩
  case sliceEnd =>
    intro node s p tag hp hr hb g slice other due
    have hexec := exec_vdSliceEnd_resident hp hr hb
    constructor
    · intro (h : (s.vd tag.toNat).ending = true ∨ ¬ s.SliceDue p tag.toNat)
      rw [hexec, if_pos h]
    · intro (hending : (s.vd tag.toNat).ending = false) (hdue : s.SliceDue p tag.toNat)
      rw [if_neg (by simp [hending, hdue])] at hexec
      exact ⟨_, hexec, signalEnd_ending .., signalEnd_mem .., fun n hn => by rw [core_signalEnd hn]; exact ⟨rfl, rfl⟩⟩
  case rebalance =>
    intro k i s hk hi l
    have hexec := exec_wayRebalance_in hk hi s
    constructor
    · intro h
      rw [hexec, if_pos h]
    · intro h
      rw [if_neg (by omega)] at hexec
      refine ⟨_, hexec, rfl, age_restart_self .., ?_⟩
      rw [stack_restart, stack_modStack_self, slice_modSlice_self]
      exact ⟨rfl, rfl, rfl, rfl, rebalance_moves_at_most_one l⟩

end Sys2Proof.Machine
end

section
/-!
PROOFS. The frames of words that write registers (R24, R154, R177 to R190, R243).
-/

namespace Sys2Proof.Machine

/-- A written v register is all that a write to it changes. -/
theorem ctxFrame_writeV (c : Ctx) (vd : BitVec 4) (v : Vec) : CtxFrame noneX (· == vd) false c (c.writeV vd v) where
  xs _ _ := rfl
  vs i hi := readV_writeV_ne c vd i v (by simpa using hi)
  m := rfl
  w := rfl
  q := rfl
  full := ⟨rfl, rfl, rfl⟩
  fpctl := rfl
  fpflags _ := ⟨rfl, rfl⟩
  special := ⟨rfl, rfl, rfl, rfl, rfl⟩
  region := rfl
  acquired := ⟨rfl, rfl⟩

/-- A change of the flags alone. -/
theorem ctxFrame_fpflags (c : Ctx) (f : Word) : CtxFrame noneX noneV true c { c with fpflags := f } :=
  ⟨fun _ _ => rfl, fun _ _ => rfl, rfl, rfl, rfl, ⟨rfl, rfl, rfl⟩, rfl, nofun, ⟨rfl, rfl, rfl, rfl, rfl⟩, rfl, rfl, rfl⟩

/-- Counted events change the context's deltas alone. -/
theorem ctxFrame_countEvents (c : Ctx) (n : Nat) (e : BitVec 4) : CtxFrame noneX noneV true c (c.countEvents n e) where
  xs _ _ := by simp only [Ctx.readX, countEvents_x]
  vs _ _ := by simp only [Ctx.readV, countEvents_v]
  m := countEvents_m ..
  w := countEvents_w ..
  q := countEvents_q ..
  full := by simp
  fpctl := countEvents_fpctl ..
  fpflags := nofun
  special := by simp
  region := countEvents_region ..
  acquired := by simp

theorem CtxFrame.allowFlags {x : BitVec 5 → Bool} {v : BitVec 4 → Bool} {fl : Bool} {c d : Ctx} (h : CtxFrame x v fl c d) :
    CtxFrame x v true c d :=
  { h with fpflags := nofun }

theorem Frame.allowFlags {x : BitVec 5 → Bool} {v : BitVec 4 → Bool} {fl : Bool} {s t : State} (h : Frame x v fl s t) :
    Frame x v true s t :=
  { h with ctx := h.ctx.allowFlags, clusters := nofun }

theorem Frame.refl (s : State) : Frame noneX noneV true s s :=
  ⟨⟨fun _ _ => rfl, fun _ _ => rfl, rfl, rfl, rfl, ⟨rfl, rfl, rfl⟩, rfl, nofun, ⟨rfl, rfl, rfl, rfl, rfl⟩, rfl, rfl, rfl⟩,
    fun _ _ => rfl, fun _ _ => rfl, ⟨rfl, rfl⟩, ⟨rfl, rfl, rfl, rfl⟩, ⟨rfl, rfl, rfl, rfl, rfl⟩, ⟨rfl, rfl⟩, fun _ => rfl,
    fun _ => rfl, ⟨rfl, rfl, rfl⟩, rfl, nofun, ⟨rfl, rfl⟩⟩

/-- The union of a cluster's flags is outside the frame of a floating word. -/
theorem Frame.modCluster {x : BitVec 5 → Bool} {v : BitVec 4 → Bool} {s t : State} (h : Frame x v true s t) (k : Nat)
    (f : Cluster → Cluster) : Frame x v true s (t.modCluster k f) :=
  ⟨h.ctx, h.contexts, h.cores, h.channels, h.matrix, h.buffers, h.counters, h.mem, h.weights, h.requests, h.stk, nofun,
    h.package⟩

/-- What a word does before it retires is all that the retired word changes. -/
theorem Frame.past {x : BitVec 5 → Bool} {v : BitVec 4 → Bool} {fl : Bool} {s t : State} (h : Frame x v fl s t)
    (hc : t.cur = s.cur) (cls : Nat) : Frame x v fl s (s.past cls t) := by
  have hr : Frame noneX noneV fl t (s.past cls t) := by
    cases fl with
    | false => exact frame_retire ..
    | true => exact (frame_retire ..).allowFlags
  simpa only [noneX, noneV, Bool.or_false] using h.trans hc hr

theorem frame_raiseFlags (s : State) (f : BitVec 5) : Frame noneX noneV true s (s.raiseFlags f) := by
  have hf := frame_of_modCtx s (fun c => { c with fpflags := c.fpflags ||| f.setWidth 64 }) (ctxFrame_fpflags ..)
  unfold State.raiseFlags
  split
  · exact Frame.refl s
  · dsimp only
    split
    · exact hf
    · exact hf.modCluster _ _

theorem frame_scalarFlags (s : State) (f : Fmt) (o : FOut) : Frame noneX noneV true s (s.scalarFlags f o) := by
  unfold State.scalarFlags
  split
  · exact Frame.refl s
  · exact (frame_raiseFlags s o.flags).trans (raiseFlags_cur ..) (frame_of_modCtx _ _ (ctxFrame_countEvents ..))

theorem frame_wroteX (s : State) (rd : BitVec 5) (v : Word) : Frame (· == rd) noneV false s (s.wroteX rd v) :=
  (frame_of_modCtx s _ (ctxFrame_writeX s.ctx rd v)).past (modCtx_cur ..) 0

theorem frame_wroteV (s : State) (cls : Nat) (vd : BitVec 4) (v : Vec) :
    Frame noneX (· == vd) false s (s.wroteV cls vd v) :=
  (frame_of_modCtx s _ (ctxFrame_writeV s.ctx vd v)).past (modCtx_cur ..) cls

theorem frame_wroteF (s : State) (f : Fmt) (rd : BitVec 5) (r : FOut) :
    Frame (· == rd) noneV true s (s.wroteF f rd r) :=
  ((frame_scalarFlags s f r).trans (scalarFlags_cur ..)
    (frame_of_modCtx _ _ (ctxFrame_writeX _ rd _).allowFlags)).past (by simp) 0

@[simp] theorem ctx_past (s : State) (cls : Nat) (t : State) : (s.past cls t).ctx = t.ctx.retire (s.ctx.pc + 4) :=
  ctx_retire ..

/-- A register read after a word wrote `rd`. -/
theorem readX_wroteX (s : State) (rd i : BitVec 5) (v : Word) :
    (s.wroteX rd v).ctx.readX i = if i = 0 then 0 else if i = rd then v else s.ctx.readX i := by
  rw [State.wroteX, ctx_past, readX_retire, ctx_modCtx]
  by_cases h0 : i = 0
  · subst h0; exact readX_zero _
  · rw [if_neg h0]
    by_cases hr : i = rd
    · subst hr; rw [if_pos rfl, readX_writeX_self _ _ _ h0]
    · rw [if_neg hr, readX_writeX_ne _ _ _ _ hr]

/-- Settles O21: a write of one register and the retirement of its word are two frames that compose; flags are the floating word's. -/
theorem framesOfRegisterWords : Obligations.FramesOfRegisterWords := by
  unfold Obligations.FramesOfRegisterWords
  refine ⟨fun s rd i v => ⟨readX_wroteX s rd i v, ?_, ?_⟩, frame_wroteX, frame_wroteV, frame_wroteF, frame_retire, ?_⟩
  · rw [State.wroteX, ctx_past, ctxRetire_pc]
  · rw [State.wroteX, ctx_past, ctxRetire_group]
  · intro s cls vd v
    rw [State.wroteV, ctx_past, readV_retire, ctx_modCtx, readV_writeV_self]

end Sys2Proof.Machine
end

section
/-!
PROOFS. The units of the part right after package reset (R9 to R402).
-/

namespace Sys2Proof.Machine

@[simp] theorem core_reset (n : Nat) : State.reset.core n = Core.reset := rfl
@[simp] theorem cluster_reset (n : Nat) : State.reset.cluster n = Cluster.reset := rfl
@[simp] theorem stack_reset (t : Nat) : State.reset.stack t = Stack.reset := Vector.getElem_replicate _
@[simp] theorem slice_reset (i : Nat) : Stack.reset.slice i = Slice.reset := Vector.getElem_replicate _
@[simp] theorem ctx_reset (k : Nat) : Core.reset.ctx k = Ctx.reset := Vector.getElem_replicate _
@[simp] theorem chan_reset (i : Nat) : Core.reset.chan i = ChanSlot.reset := Vector.getElem_replicate _
@[simp] theorem pat_reset (i : Nat) : Core.reset.pat i = none := Vector.getElem_replicate _
@[simp] theorem tile_reset (i : Nat) : Core.reset.tile i = Tile.reset := Vector.getElem_replicate _
@[simp] theorem readW_reset (i : BitVec 3) : Ctx.reset.readW i = View.null := Vector.getElem_replicate _
@[simp] theorem weirAt_reset (t i : Nat) : State.reset.weirAt t i = Weir.reset := by
  rw [State.weirAt, stack_reset]; rfl

/-- A place of a vector of one value, or past its end, holds the value. -/
theorem getD_replicate_self {α : Type} (n i : Nat) (a : α) : (Vector.replicate n a).getD i a = a := by
  rw [Vector.getD, Vector.toArray_replicate, Array.getD_eq_getD_getElem?, Array.getElem?_replicate]
  split <;> rfl

theorem noStopDue_reset : State.reset.noStopDue := by
  intro n k _ hs
  rw [core_reset, ctx_reset] at hs
  cases hs

theorem deltasBelow_reset : State.reset.deltasBelow := by
  intro n
  refine ⟨nofun, fun k _ d hd => ?_⟩
  rw [core_reset, ctx_reset, Ctx.reset, Vector.toList_replicate] at hd
  rw [List.eq_of_mem_replicate hd]
  decide

/-- Settles O11: each unit of the reset state is its own reset value, which gives the fields. -/
theorem whatResetLeaves : Obligations.WhatResetLeaves := by
  unfold Obligations.WhatResetLeaves
  refine ⟨noStopDue_reset, deltasBelow_reset, rfl, rfl, rfl, fun n => ?core, fun _ => rfl, fun t i => ?stack,
    fun i _ => getD_replicate_self .., rfl, fun _ => rfl⟩
  case core =>
    refine ⟨fun i => ?_, fun i => getD_replicate_self .., rfl, fun i => ?_, rfl, rfl, rfl, fun p hp => ?_, fun k => ?_⟩
    · simp [ChanSlot.reset]
    · simp [Tile.reset]
    · rw [core_reset, Core.reset, Vector.toList_replicate] at hp
      exact List.eq_of_mem_replicate hp
    · rw [core_reset, ctx_reset]
      exact ⟨rfl, rfl, rfl, rfl, rfl, readW_reset⟩
  case stack =>
    simp [Slice.reset, Weir.reset]

end Sys2Proof.Machine
end

section
/-!
PROOFS. First places in lists, and the slots of a core: what later proofs about channels and bodies cite (R9, R16).
-/

namespace Sys2Proof.Machine

theorem findIndex_eq_findIdx? {α : Type} (p : α → Bool) (l : List α) : findIndex p l = l.findIdx? p := by
  rw [List.findIdx?_eq_guard_findIdx_lt]
  simp [findIndex, Option.guard]

theorem findIndex_eq_none_iff {α : Type} {p : α → Bool} {l : List α} : findIndex p l = none ↔ ∀ x ∈ l, p x = false := by
  rw [findIndex_eq_findIdx?, List.findIdx?_eq_none_iff]

theorem findIndex_eq_some_iff {α : Type} {p : α → Bool} {l : List α} {i : Nat} : findIndex p l = some i ↔
    ∃ x, l[i]? = some x ∧ p x = true ∧ ∀ j < i, ∀ y, l[j]? = some y → p y = false := by
  rw [findIndex_eq_findIdx?, List.findIdx?_eq_some_iff_getElem]
  constructor
  · rintro ⟨hi, hp, hbefore⟩
    refine ⟨l[i], List.getElem?_eq_getElem hi, hp, fun j hj y hy => ?_⟩
    obtain ⟨hj', rfl⟩ := List.getElem?_eq_some_iff.mp hy
    simpa using hbefore j hj
  · rintro ⟨x, hx, hp, hbefore⟩
    obtain ⟨hi, rfl⟩ := List.getElem?_eq_some_iff.mp hx
    exact ⟨hi, hp, fun j hj => by simp [hbefore j hj _ (List.getElem?_eq_getElem (by omega))]⟩

/-! ## Slots of a core -/

theorem chans_getElem? (c : Core) {i : Nat} (hi : i < 64) : c.chans.toList[i]? = some (c.chan i) := by
  rw [List.getElem?_eq_getElem (by simpa using hi), Vector.getElem_toList]
  simp only [Core.chan, Nat.mod_eq_of_lt hi]

theorem forall_mem_chans {c : Core} {P : ChanSlot → Prop} : (∀ k ∈ c.chans.toList, P k) ↔ ∀ i < 64, P (c.chan i) := by
  constructor
  · exact fun h i hi => h _ (List.mem_of_getElem? (chans_getElem? c hi))
  · intro h k hk
    obtain ⟨i, hi, rfl⟩ := List.mem_iff_getElem.mp hk
    have hi' : i < 64 := by simpa using hi
    have := chans_getElem? c hi'
    rw [List.getElem?_eq_getElem hi] at this
    rw [Option.some.inj this]
    exact h i hi'

/-- No slot is free. -/
theorem freeSlot_eq_none_iff {c : Core} :
    findIndex (fun k : ChanSlot => !k.alloc) c.chans.toList = none ↔ ∀ i < 64, (c.chan i).alloc = true := by
  rw [findIndex_eq_none_iff, forall_mem_chans]
  simp

/-- The lowest free slot. -/
theorem freeSlot_eq_some {c : Core} {i : Nat} (hi : i < 64) (hfree : (c.chan i).alloc = false)
    (hbelow : ∀ j < i, (c.chan j).alloc = true) : findIndex (fun k : ChanSlot => !k.alloc) c.chans.toList = some i := by
  refine findIndex_eq_some_iff.mpr ⟨c.chan i, chans_getElem? c hi, by simp [hfree], fun j hj y hy => ?_⟩
  rw [chans_getElem? c (by omega)] at hy
  rw [← Option.some.inj hy, hbelow j hj]
  rfl

@[simp] theorem chan_modChan_ne (c : Core) {i j : Nat} (f : ChanSlot → ChanSlot) (h : j % 64 ≠ i % 64) :
    (c.modChan i f).chan j = c.chan j := by
  simp only [Core.modChan, Core.chan]
  exact Vector.getElem_set_ne _ _ (fun e => h e.symm)

/-! ## Runs of a ring area (R228) -/

/-- Whether `n` entries from `b` on lie in an area and touch none of the runs used. -/
def fitsRun (area : Nat) (used : List (Nat × Nat)) (n b : Nat) : Prop :=
  b + n ≤ area ∧ ∀ u ∈ used, b + n ≤ u.1 ∨ u.1 + u.2 ≤ b

/-- The lowest place where a run fits is the area's start or the end of a used run. -/
theorem fitsRun_candidate {area : Nat} {used : List (Nat × Nat)} {n b : Nat} (h : fitsRun area used n b)
    (hmin : ∀ a < b, ¬fitsRun area used n a) : b ∈ 0 :: used.map fun u => u.1 + u.2 := by
  by_contra hb
  simp only [List.mem_cons, List.mem_map, not_or, not_exists, not_and] at hb
  obtain ⟨hpos, hend⟩ := hb
  refine hmin (b - 1) (by omega) ⟨by have := h.1; omega, fun u hu => ?_⟩
  have hne := hend u hu
  have := h.2 u hu
  omega

/-- The smallest number of a list, as the model folds it. -/
theorem foldl_min_eq_min? (l : List Nat) (m : Option Nat) :
    l.foldl (fun m a => some (m.elim a (min a))) m = (m.toList ++ l).min? := by
  induction l generalizing m with
  | nil => cases m <;> rfl
  | cons a l ih =>
    rw [List.foldl_cons, ih]
    cases m with
    | none => rfl
    | some b =>
      show (min a b :: l).min? = (b :: a :: l).min?
      rw [List.min?_cons', List.min?_cons', List.foldl_cons, Nat.min_comm]

theorem ringRun_eq_min? (c : Core) (n : Nat) (e : Option Nat) : c.ringRun n e =
    ((0 :: (c.runsUsed e).map fun u => u.1 + u.2).filter fun a => decide (a + n ≤ c.ringArea) &&
      (c.runsUsed e).all fun u => decide (a + n ≤ u.1) || decide (u.1 + u.2 ≤ a)).min? :=
  foldl_min_eq_min? _ none

theorem fitsRun_iff {area : Nat} {used : List (Nat × Nat)} {n b : Nat} :
    (decide (b + n ≤ area) && used.all fun u => decide (b + n ≤ u.1) || decide (u.1 + u.2 ≤ b)) = true ↔
      fitsRun area used n b := by
  simp [fitsRun]

theorem ringRun_spec (c : Core) (n : Nat) (e : Option Nat) : match c.ringRun n e with
    | some a => fitsRun c.ringArea (c.runsUsed e) n a ∧ ∀ b < a, ¬fitsRun c.ringArea (c.runsUsed e) n b
    | none => ∀ b, ¬fitsRun c.ringArea (c.runsUsed e) n b := by
  have lowest (b : Nat) (hb : fitsRun c.ringArea (c.runsUsed e) n b) : ∃ a ≤ b, a ∈
      (0 :: (c.runsUsed e).map fun u => u.1 + u.2).filter fun a => decide (a + n ≤ c.ringArea) &&
        (c.runsUsed e).all fun u => decide (a + n ≤ u.1) || decide (u.1 + u.2 ≤ a) := by
    classical
    have hex : ∃ b, fitsRun c.ringArea (c.runsUsed e) n b := ⟨b, hb⟩
    exact ⟨Nat.find hex, Nat.find_min' hex hb, List.mem_filter.mpr
      ⟨fitsRun_candidate (Nat.find_spec hex) fun a ha => Nat.find_min hex ha, fitsRun_iff.mpr (Nat.find_spec hex)⟩⟩
  rw [ringRun_eq_min?]
  split
  next a ha =>
    obtain ⟨hmem, hle⟩ := List.min?_eq_some_iff.mp ha
    refine ⟨fitsRun_iff.mp (List.mem_filter.mp hmem).2, fun b hb hfit => ?_⟩
    obtain ⟨a', ha', hmem'⟩ := lowest b hfit
    have := hle a' hmem'
    omega
  next hnone =>
    intro b hfit
    obtain ⟨a, -, hmem⟩ := lowest b hfit
    rw [List.min?_eq_none_iff.mp hnone] at hmem
    cases hmem

theorem mem_runsUsed {c : Core} {e : Option Nat} {u : Nat × Nat} : u ∈ c.runsUsed e ↔
    ∃ i < 64, some i ≠ e ∧ (c.chan i).alloc = true ∧ (c.chan i).kind = .fifo ∧
      u = ((c.chan i).start, (c.chan i).nm1.toNat + 1) := by
  simp only [Core.runsUsed, List.mem_map, List.mem_filter, List.mem_range, Bool.and_eq_true, bne_iff_ne, beq_iff_eq,
    and_assoc, eq_comm (a := u)]

/-- A run touches none of those the FIFO slots use. -/
theorem fitsRun_runsUsed {c : Core} {e : Option Nat} {n b : Nat} : fitsRun c.ringArea (c.runsUsed e) n b ↔
    b + n ≤ c.ringArea ∧ ∀ i < 64, some i ≠ e → (c.chan i).alloc = true → (c.chan i).kind = .fifo →
      b + n ≤ (c.chan i).start ∨ (c.chan i).start + (c.chan i).nm1.toNat + 1 ≤ b := by
  refine and_congr_right' ⟨fun h i hi he ha hk => h _ (mem_runsUsed.mpr ⟨i, hi, he, ha, hk, rfl⟩), fun h u hu => ?_⟩
  obtain ⟨i, hi, he, ha, hk, rfl⟩ := mem_runsUsed.mp hu
  exact h i hi he ha hk

/-- Whether a run touches none of those the other FIFO slots use. -/
theorem runFree_iff {c : Core} {a n i : Nat} : c.runFree a n i = true ↔
    a + n ≤ c.ringArea ∧ ∀ j < 64, j ≠ i → (c.chan j).alloc = true → (c.chan j).kind = .fifo →
      a + n ≤ (c.chan j).start ∨ (c.chan j).start + (c.chan j).nm1.toNat + 1 ≤ a := by
  have h : c.runFree a n i = true ↔ fitsRun c.ringArea (c.runsUsed (some i)) n a := fitsRun_iff
  rw [h, fitsRun_runsUsed]
  simp only [ne_eq, Option.some.injEq]

end Sys2Proof.Machine
end

section
/-!
PROOFS. Words that make, change and free channels and patterns (R9 to R18, R224 to R228).
-/

namespace Sys2Proof.Machine

/-! ## A word that answers in a register and changes its core -/

/-- A word that writes a register and goes on has written it and retired. -/
theorem outcome_done_writeX (u : State) (rd : BitVec 5) (v : Word) :
    (Did.done (u.modCtx (·.writeX rd v))).outcome 0 = .next (u.wroteX rd v) := by
  rw [Did.outcome, ctx_modCtx, writeX_pc]
  rfl

theorem outcome_answer (u : State) (rd : BitVec 5) (n : Nat) :
    (answer u rd n).outcome 0 = .next (u.wroteX rd (BitVec.ofNat 64 n)) :=
  outcome_done_writeX u rd _

theorem me_wroteX (s : State) (rd : BitVec 5) (v : Word) : (s.wroteX rd v).me =
    (s.me.modCtx s.cur.2 (·.writeX rd v)).modCtx s.cur.2 (·.retire (s.ctx.pc + 4)) := by
  rw [State.wroteX, State.past, State.retire, me_note, me_modCtx, me_modCtx, modCtx_cur]

@[simp] theorem ctxs_ctx {c d : Core} (h : d.ctxs = c.ctxs) (k : Nat) : d.ctx k = c.ctx k := by
  simp only [Core.ctx, h]

section Managed
variable (s : State) (rd : BitVec 5) (v : Word)

/-- A word that changes its core's message state, but no context, and answers in a register. -/
theorem managed_modMe {f : Core → Core} (hf : (f s.me).ctxs = s.me.ctxs) :
    s.managed ((s.modMe f).wroteX rd v) rd v (f s.me) := by
  have hctx : (s.modMe f).ctx = s.ctx := by
    rw [State.ctx, me_modMe, modMe_cur, ctxs_ctx hf]; rfl
  have hframe := frame_wroteX (s.modMe f) rd v
  refine ⟨?_, fun i => ?_, rfl, fun n hn => ?_, ?_, ?_, ?_, ?_, ?_, ?_, ?_, rfl, rfl⟩
  · rw [State.wroteX, ctx_past, ctxRetire_pc, hctx]
  · rw [readX_wroteX, hctx]
  · rw [hframe.cores n hn, core_modMe_ne s n f hn]
  all_goals
    rw [me_wroteX, me_modMe]
    rfl

theorem managed_self : s.managed (s.wroteX rd v) rd v s.me := by
  have hframe := frame_wroteX s rd v
  refine ⟨?_, fun i => readX_wroteX .., rfl, hframe.cores, ?_, ?_, ?_, ?_, ?_, ?_, ?_, rfl, rfl⟩
  · rw [State.wroteX, ctx_past, ctxRetire_pc]
  all_goals
    rw [me_wroteX]
    rfl

end Managed

/-! ## CHNEW (R225, R227, R228) -/

section NewChannel
variable {s : State} {core : Nat} {kind : ChanKind} {op : LadleOp} {nm1 : BitVec 8} {target rcb errCh : Word}

theorem newChannel_noSlot (h : ∀ i < 64, ((s.core core).chan i).alloc = true) :
    s.newChannel core kind op nm1 target rcb errCh = (1, s) := by
  simp only [State.newChannel, freeSlot_eq_none_iff.mpr h]

variable {i : Nat} (hi : i < 64) (hfree : ((s.core core).chan i).alloc = false)
  (hbelow : ∀ j < i, ((s.core core).chan j).alloc = true)
include hi hfree hbelow

theorem newChannel_noRun (h : (if kind = .fifo then (s.core core).ringRun (nm1.toNat + 1) none else some 0) = none) :
    s.newChannel core kind op nm1 target rcb errCh = (2, s) := by
  simp only [State.newChannel, freeSlot_eq_some hi hfree hbelow, h]

theorem newChannel_made {a : Nat}
    (h : (if kind = .fifo then (s.core core).ringRun (nm1.toNat + 1) none else some 0) = some a) :
    s.newChannel core kind op nm1 target rcb errCh =
      (mkName Config.chip.toNat (if isKeeper core then clusterOf core else core) i ((s.core core).chan i).gen.toNat
        (s.tagOf core).toNat,
      s.modCore core (·.modChan i fun _ => newSlot kind op nm1 ((s.core core).chan i).gen a target rcb errCh)) := by
  simp only [State.newChannel, freeSlot_eq_some hi hfree hbelow, h]

end NewChannel

section Chnew
variable {o : Reg2} {s : State} (hclear : s.Clear (reg2Rule o))
include hclear

theorem exec_chnew_illegal (h : kindOf (bits (s.ctx.readX o.ra) 63 62) = none) :
    exec (.chnew o) s = .next (s.raise (plain .illegal)) := by
  rw [exec_chnew, execChnew, issue_of_clear hclear]
  simp only [h]
  rfl

theorem exec_chnew_kind {k : ChanKind} (h : kindOf (bits (s.ctx.readX o.ra) 63 62) = some k) {name : Word} {u : State}
    (hnew : s.newChannel s.cur.1 k (ladleOpOf (bits (s.ctx.readX o.ra) 61 60)) ((s.ctx.readX o.ra).setWidth 8)
      (s.ctx.readX o.rb) s.ctx.region.rcb s.ctx.region.errCh = (name, u)) :
    exec (.chnew o) s = .next (u.wroteX o.rd name) := by
  rw [exec_chnew, execChnew, issue_of_clear hclear]
  simp only [h, hnew]
  exact outcome_done_writeX u o.rd name

end Chnew

/-! ## CHFREE (R18, R227, R228) -/

/-- A core apart from the notices it owes. -/
def Core.apartFromOwed (c : Core) : Core := { c with owed := [] }

theorem apartFromOwed_owe (s : State) (core n : Nat) (v : View) (left : Option (BitVec 32 × BitVec 32)) :
    ((s.owe core v left).core n).apartFromOwed = (s.core n).apartFromOwed := by
  have howe : (s.owe core v left).core n =
      (s.modCore core fun c => { c with owed := c.owed ++ [⟨v.handle, v.region, left, s.seq⟩] }).core n := rfl
  rw [howe]
  by_cases h : n = core
  · subst h
    rw [core_modCore_self]
    rfl
  · rw [core_modCore_ne _ _ _ _ h]

section DropPayload
variable (s : State) (core : Nat) (p : Payload)

theorem dropPayload_cases : (∃ v, s.dropPayload core p = s.owe core v none) ∨ s.dropPayload core p = s := by
  unfold State.dropPayload
  split
  · exact (ite_eq_or_eq ..).imp_left fun h => ⟨_, h⟩
  · exact .inr rfl

theorem dropPayload_cur : (s.dropPayload core p).cur = s.cur := by
  rcases dropPayload_cases s core p with ⟨v, h⟩ | h
  · rw [h]; rfl
  · rw [h]
theorem dropPayload_mem : (s.dropPayload core p).mem = s.mem := by
  rcases dropPayload_cases s core p with ⟨v, h⟩ | h
  · rw [h]; rfl
  · rw [h]
theorem apartFromOwed_dropPayload (n : Nat) :
    ((s.dropPayload core p).core n).apartFromOwed = (s.core n).apartFromOwed := by
  rcases dropPayload_cases s core p with ⟨v, h⟩ | h
  · rw [h, apartFromOwed_owe]
  · rw [h]

end DropPayload

section FreeChannel
variable (s : State) (core i : Nat)

/-- A slot once its channel has ended: free, of the next generation. -/
def ChanSlot.freed (k : ChanSlot) : ChanSlot := { ChanSlot.reset with gen := nextGen k.gen }

/-- A core once a slot's channel has ended. -/
def Core.freed (c : Core) (i : Nat) : Core :=
  { c.modChan i ChanSlot.freed with
    pats := c.pats.mapIdx (fun _ p => p.filter fun p => !p.chans.contains (BitVec.ofNat 6 i))
    sluiceDue := true }

theorem freeChannel_eq : s.freeChannel core i =
    (((((s.core core).chan i).ring ++ ((s.core core).chan i).presented.toList).foldl
      (fun s e => s.dropPayload core e.msg.payload) s).modCore core (·.freed i)) := rfl

theorem freeChannel_cur : (s.freeChannel core i).cur = s.cur := by
  rw [freeChannel_eq, modCore_cur]
  exact foldl_keeps State.cur _ (fun _ _ => dropPayload_cur ..) _ _

theorem freeChannel_mem : (s.freeChannel core i).mem = s.mem := by
  rw [freeChannel_eq, modCore_mem]
  exact foldl_keeps State.mem _ (fun _ _ => dropPayload_mem ..) _ _

theorem apartFromOwed_freeChannel :
    ((s.freeChannel core i).core core).apartFromOwed = ((s.core core).freed i).apartFromOwed := by
  have hfold := foldl_keeps (fun s : State => (s.core core).apartFromOwed)
    (fun (s : State) (e : RingEntry) => s.dropPayload core e.msg.payload) (fun _ _ => apartFromOwed_dropPayload ..)
    (((s.core core).chan i).ring ++ ((s.core core).chan i).presented.toList) s
  rw [freeChannel_eq, core_modCore_self]
  exact congrArg (Core.freed · i) hfold

end FreeChannel

@[simp] theorem pat_mapIdx (c : Core) (f : Nat → Option Pattern → Option Pattern) {j : Nat} (hj : j < 32) :
    ({ c with pats := c.pats.mapIdx f } : Core).pat j = f j (c.pat j) := by
  simp [Core.pat, Nat.mod_eq_of_lt hj]

section Chfree
variable {o : Reg1} {s : State} (hclear : s.Clear (reg1Rule o))
include hclear

theorem exec_chfree_dead (h : s.liveSlot s.cur.1 (s.ctx.readX o.ra) = none) :
    exec (.chfree o) s = .next (s.wroteX o.rd 3) := by
  rw [exec_chfree, execChfree, issue_of_clear hclear]
  simp only [h]
  exact outcome_answer s o.rd 3

theorem exec_chfree_live {i : Nat} (h : s.liveSlot s.cur.1 (s.ctx.readX o.ra) = some i) :
    exec (.chfree o) s = .next ((s.freeChannel s.cur.1 i).wroteX o.rd 0) := by
  rw [exec_chfree, execChfree, issue_of_clear hclear]
  simp only [h]
  exact outcome_answer _ o.rd 0

end Chfree

/-! ## Names that are live (R10) -/

theorem liveSlot_eq_some_iff {s : State} {core : Nat} {n : Word} {i : Nat} : s.liveSlot core n = some i ↔
    i = nameSlot n ∧ nameCore n = (if isKeeper core then clusterOf core else core) ∧ nameChip n = Config.chip.toNat ∧
      ((s.core core).chan i).alloc = true ∧ ((s.core core).chan i).gen.toNat = nameGen n ∧ nameGen n ≠ 0 ∧
      nameTag n = (s.tagOf core).toNat ∧ nameTag n ≠ 0 := by
  have hhere : (if isKeeper core then nameCore n == clusterOf core else nameCore n == core) =
      (nameCore n == if isKeeper core then clusterOf core else core) := by split <;> rfl
  simp only [State.liveSlot, hhere, Option.ite_none_right_eq_some, Option.some.injEq, Bool.and_eq_true, beq_iff_eq,
    bne_iff_ne, and_assoc]
  constructor
  · rintro ⟨h1, h2, h3, h4, h5, h6, h7, rfl⟩
    exact ⟨rfl, h1, h2, h3, h4, h5, h6, h7⟩
  · rintro ⟨rfl, h1, h2, h3, h4, h5, h6, h7⟩
    exact ⟨h1, h2, h3, h4, h5, h6, h7, rfl⟩

theorem nameSlot_lt (n : Word) : nameSlot n < 64 := Nat.mod_lt _ (by decide)

theorem liveSlot_lt {s : State} {core : Nat} {n : Word} {i : Nat} (h : s.liveSlot core n = some i) : i < 64 := by
  rw [(liveSlot_eq_some_iff.mp h).1]
  exact nameSlot_lt n

/-! ## CHCFG, RELAY and CHCNT (R228) -/

section Answers
variable {s : State} {i : Instr} {rd : BitVec 5} {n : Nat}

/-- A word that answers a status and does nothing else. -/
theorem managed_of_answer (h : exec i s = (answer s rd n).outcome 0) :
    ∃ t : State, exec i s = .next t ∧ s.managed t rd (BitVec.ofNat 64 n) s.me :=
  ⟨_, h.trans (outcome_answer ..), managed_self ..⟩

/-- A word that changes its core and answers a status. -/
theorem managed_of_answer_modMe {f : Core → Core} (h : exec i s = (answer (s.modMe f) rd n).outcome 0)
    (hf : (f s.me).ctxs = s.me.ctxs) : ∃ t : State, exec i s = .next t ∧ s.managed t rd (BitVec.ofNat 64 n) (f s.me) :=
  ⟨_, h.trans (outcome_answer ..), managed_modMe _ _ _ hf⟩

end Answers

section ConfigureChannel
variable {o : Reg2} {s : State} (hclear : s.Clear (reg2Rule o))
include hclear

theorem chcfg_dead (h : s.liveSlot s.cur.1 (s.ctx.readX o.ra) = none) :
    exec (.chcfg o) s = (answer s o.rd 3).outcome 0 := by
  rw [exec_chcfg, execChcfg, issue_of_clear hclear]
  simp only [h]
  rfl

theorem relay_dead (h : s.liveSlot s.cur.1 (s.ctx.readX o.ra) = none) :
    exec (.relay o) s = (answer s o.rd 3).outcome 0 := by
  rw [exec_relay, execRelay, issue_of_clear hclear]
  simp only [h]
  rfl

variable {i : Nat} (hlive : s.liveSlot s.cur.1 (s.ctx.readX o.ra) = some i)
include hlive

theorem relay_other (h : (s.me.chan i).kind ≠ .relay) : exec (.relay o) s = (answer s o.rd 3).outcome 0 := by
  rw [exec_relay, execRelay, issue_of_clear hclear]
  simp only [hlive, if_pos h]
  rfl

theorem relay_relay (h : (s.me.chan i).kind = .relay) : exec (.relay o) s =
    (answer (s.modMe (·.modChan i fun c => { c with target := s.ctx.readX o.rb })) o.rd 0).outcome 0 := by
  rw [exec_relay, execRelay, issue_of_clear hclear]
  simp only [hlive, if_neg (not_not.mpr h)]
  rfl

theorem chcfg_relay (h : (s.me.chan i).kind = .relay) : exec (.chcfg o) s = (answer s o.rd 3).outcome 0 := by
  rw [exec_chcfg, execChcfg, issue_of_clear hclear]
  simp only [hlive, h]
  rfl

theorem chcfg_ladle_busy (h : (s.me.chan i).kind = .ladle)
    (hbusy : (s.me.chan i).count ≠ 0 ∨ (s.me.chan i).presented ≠ none) :
    exec (.chcfg o) s = (answer s o.rd 4).outcome 0 := by
  rw [exec_chcfg, execChcfg, issue_of_clear hclear]
  simp only [hlive, h]
  rw [if_pos (by simpa [Option.isSome_iff_ne_none] using hbusy)]
  rfl

theorem chcfg_ladle (h : (s.me.chan i).kind = .ladle) (hcount : (s.me.chan i).count = 0)
    (hpresented : (s.me.chan i).presented = none) : exec (.chcfg o) s =
      (answer (s.modMe (·.modChan i fun c => { c with nm1 := (s.ctx.readX o.rb).setWidth 8 })) o.rd 0).outcome 0 := by
  rw [exec_chcfg, execChcfg, issue_of_clear hclear]
  simp only [hlive, h]
  rw [if_neg (by simp [hcount, hpresented])]
  rfl

theorem chcfg_fifo_busy (h : (s.me.chan i).kind = .fifo)
    (hbusy : (s.me.chan i).ring ≠ [] ∨ s.overflowed s.cur.1 i ≠ []) : exec (.chcfg o) s = (answer s o.rd 4).outcome 0 := by
  rw [exec_chcfg, execChcfg, issue_of_clear hclear]
  simp only [hlive, h]
  rw [if_pos (by simpa using hbusy)]
  rfl

variable (hkind : (s.me.chan i).kind = .fifo) (hring : (s.me.chan i).ring = [])
  (hovf : s.overflowed s.cur.1 i = [])
include hkind hring hovf

/-- Where CHCFG puts an empty FIFO: where it stands, if its new run fits there, else the lowest run. -/
theorem chcfg_fifo {place : Option Nat}
    (hplace : (if s.me.runFree (s.me.chan i).start (((s.ctx.readX o.rb).setWidth 8 : BitVec 8).toNat + 1) i then
      some (s.me.chan i).start else s.me.ringRun (((s.ctx.readX o.rb).setWidth 8 : BitVec 8).toNat + 1) (some i)) = place) :
    exec (.chcfg o) s = (match place with
      | none => answer s o.rd 2
      | some a => answer (s.modMe (·.modChan i fun c =>
          { c with nm1 := (s.ctx.readX o.rb).setWidth 8, start := a, headAt := 0 })) o.rd 0).outcome 0 := by
  rw [exec_chcfg, execChcfg, issue_of_clear hclear]
  simp only [hlive, hkind]
  rw [if_neg (by simp [hring, hovf]), hplace]
  cases place <;> rfl

end ConfigureChannel

section CountChannel
variable {o : Reg1} {s : State} (hclear : s.Clear (reg1Rule o))
include hclear

theorem exec_chcnt_dead (h : s.liveSlot s.cur.1 (s.ctx.readX o.ra) = none) :
    exec (.chcnt o) s = .next (s.wroteX o.rd (BitVec.allOnes 64)) := by
  rw [exec_chcnt, execChcnt, issue_of_clear hclear]
  simp only [h]
  exact outcome_done_writeX s o.rd _

theorem exec_chcnt_live {i : Nat} (h : s.liveSlot s.cur.1 (s.ctx.readX o.ra) = some i) :
    exec (.chcnt o) s = .next (s.wroteX o.rd (BitVec.ofNat 64 (min (s.overflowed s.cur.1 i).length 65535 * 2 ^ 32 +
      (if (s.me.chan i).presented.isSome then 2 ^ 31 else 0) +
      (if (s.me.chan i).kind = .fifo then (s.me.chan i).ring.length
        else if (s.me.chan i).kind = .ladle then (s.me.chan i).count else 0)))) := by
  have hpresented (b : Bool) : num b * 2 ^ 31 = if b then 2 ^ 31 else 0 := by cases b <;> rfl
  rw [exec_chcnt, execChcnt, issue_of_clear hclear]
  simp only [h, hpresented]
  cases (s.me.chan i).kind <;> exact outcome_done_writeX s o.rd _

end CountChannel

/-! ## PATSET, PATCLR and PATRANK (R226, R228) -/

section ClearPattern
variable {o : Reg1} {s : State} (hclear : s.Clear (reg1Rule o))
include hclear

theorem patclr_none (h : s.me.pat (bits (s.ctx.readX o.ra) 4 0) = none) :
    exec (.patclr o) s = (answer s o.rd 3).outcome 0 := by
  rw [exec_patclr, execPatclr, issue_of_clear hclear]
  simp only [h]
  rfl

theorem patclr_some {p : Pattern} (h : s.me.pat (bits (s.ctx.readX o.ra) 4 0) = some p) : exec (.patclr o) s =
    (answer (s.modMe fun c => { c.setPat (bits (s.ctx.readX o.ra) 4 0) none with sluiceDue := true }) o.rd 0).outcome 0 := by
  rw [exec_patclr, execPatclr, issue_of_clear hclear]
  simp only [h]
  rfl

end ClearPattern

section RankPattern
variable {o : Reg2} {s : State} (hclear : s.Clear (reg2Rule o))
include hclear

theorem patrank_none (h : s.me.pat (bits (s.ctx.readX o.ra) 4 0) = none) :
    exec (.patrank o) s = (answer s o.rd 3).outcome 0 := by
  rw [exec_patrank, execPatrank, issue_of_clear hclear]
  simp only [h]
  rfl

theorem patrank_some {p : Pattern} (h : s.me.pat (bits (s.ctx.readX o.ra) 4 0) = some p) : exec (.patrank o) s =
    (answer (s.modMe fun c => { c.setPat (bits (s.ctx.readX o.ra) 4 0) (some { p with
      rank := (s.ctx.readX o.rb).setWidth 3, fair := (s.ctx.readX o.rb).getLsbD 3 }) with sluiceDue := true }) o.rd 0).outcome 0 := by
  rw [exec_patrank, execPatrank, issue_of_clear hclear]
  simp only [h]
  rfl

end RankPattern

theorem patternOk_iff {c : Core} {chans : List (BitVec 6)} {entry region : Word} : c.patternOk chans entry region = true ↔
    chans.Nodup ∧ (∀ i ∈ chans, (c.chan i.toNat).alloc = true ∧ (c.chan i.toNat).kind ≠ .relay) ∧ entry.toNat % 4 = 0 ∧
      region.toNat % 64 = 0 := by
  simp [Core.patternOk, and_assoc]

section SetPattern
variable {o : Reg2} {s : State}
  (hclear : s.Clear { srcs := [(.x o.ra, o.ea), (.x (o.ra + 1), o.ea), (.x o.rb, o.eb)], dests := [.x o.rd] })
include hclear

theorem exec_patset_illegal (h : ¬s.me.patternOk (patternChans (s.ctx.readX o.ra)) (s.ctx.readX (o.ra + 1))
    (s.ctx.readX o.rb) = true) : exec (.patset o) s = .next (s.raise (plain .illegal)) := by
  rw [exec_patset, execPatset, issue_of_clear hclear]
  simp only [h]
  rfl

variable (hok : s.me.patternOk (patternChans (s.ctx.readX o.ra)) (s.ctx.readX (o.ra + 1)) (s.ctx.readX o.rb) = true)
include hok

theorem patset_taken (h : s.me.pat (bits (s.ctx.readX o.ra) 4 0) ≠ none) :
    exec (.patset o) s = (answer s o.rd 4).outcome 0 := by
  rw [exec_patset, execPatset, issue_of_clear hclear]
  simp only [hok, Option.isSome_iff_ne_none.mpr h]
  rfl

theorem patset_free (h : s.me.pat (bits (s.ctx.readX o.ra) 4 0) = none) : exec (.patset o) s =
    (answer (s.modMe fun c => { c.setPat (bits (s.ctx.readX o.ra) 4 0) (some ⟨patternChans (s.ctx.readX o.ra),
      (s.ctx.readX o.ra).extractLsb' 11 3, (s.ctx.readX o.ra).getLsbD 10, (s.ctx.readX o.ra).getLsbD 9,
      s.ctx.readX (o.ra + 1), s.ctx.readX o.rb⟩) with sluiceDue := true }) o.rd 0).outcome 0 := by
  rw [exec_patset, execPatset, issue_of_clear hclear]
  simp only [hok, h]
  rfl

end SetPattern

theorem chan_freed_self (c : Core) (i : Nat) :
    (c.freed i).chan i = (c.chan i).freed :=
  chan_modChan_self c i ChanSlot.freed
theorem chan_freed_ne (c : Core) {i j : Nat} (h : j % 64 ≠ i % 64) : (c.freed i).chan j = c.chan j :=
  chan_modChan_ne c ChanSlot.freed h
theorem pat_freed (c : Core) (i : Nat) {j : Nat} (hj : j < 32) :
    (c.freed i).pat j = (c.pat j).filter fun p => !p.chans.contains (BitVec.ofNat 6 i) :=
  pat_mapIdx (c.modChan i ChanSlot.freed) _ hj

/-- What a freed channel leaves of its core. -/
theorem core_freeChannel (s : State) (core : Nat) {i : Nat} (hi : i < 64) : let c := (s.freeChannel core i).core core
    c.ctxs = (s.core core).ctxs ∧ c.chan i = ((s.core core).chan i).freed ∧
      (∀ j < 64, j ≠ i → c.chan j = (s.core core).chan j) ∧
      ∀ j < 32, c.pat j = ((s.core core).pat j).filter fun p => !p.chans.contains (BitVec.ofNat 6 i) := by
  have h {α : Type} (π : Core → α) : π ((s.freeChannel core i).core core).apartFromOwed = π ((s.core core).freed i).apartFromOwed :=
    congrArg π (apartFromOwed_freeChannel s core i)
  exact ⟨h Core.ctxs, (h (·.chan i)).trans (chan_freed_self ..), fun j hj hne => (h (·.chan j)).trans (chan_freed_ne _ (by omega)),
    fun j hj => (h (·.pat j)).trans (pat_freed _ _ hj)⟩

/-- A pattern's conditions, with the slots it names written out (R226). -/
theorem patternOk_chans {s : State} {w entry region : Word} :
    (let chans := [w.extractLsb' 14 6, w.extractLsb' 20 6, w.extractLsb' 26 6, w.extractLsb' 32 6].take (bits w 39 38 + 1)
     chans.Nodup ∧ (∀ i ∈ chans, (s.me.chan i.toNat).alloc = true ∧ (s.me.chan i.toNat).kind ≠ .relay) ∧
       entry.toNat % 4 = 0 ∧ region.toNat % 64 = 0) ↔ s.me.patternOk (patternChans w) entry region = true :=
  patternOk_iff.symm

/-- Settles O45: the model's issue of each word is its own effect, which changes the slots of its core as the clause says. -/
theorem channels : Obligations.Channels := by
  unfold Obligations.Channels
  refine ⟨⟨?chnew, ?ringRun, ?chfree⟩, ?live, ?configure, ?count, ?patset⟩
  case chnew =>
    intro o s hclear
    refine ⟨fun hk => ⟨_, exec_chnew_illegal hclear hk, faulted_raise ..⟩, fun k hk => ⟨fun hfull => ?_, ?_⟩⟩
    · exact ⟨_, exec_chnew_kind hclear hk (newChannel_noSlot hfull), managed_self ..⟩
    · intro i hi hfree hbelow
      refine ⟨fun hfifo hrun => ?_, fun a ha => ?_⟩
      · exact ⟨_, exec_chnew_kind hclear hk (newChannel_noRun hi hfree hbelow ((if_pos hfifo).trans hrun)), managed_self ..⟩
      · exact ⟨_, exec_chnew_kind hclear hk (newChannel_made hi hfree hbelow ha), managed_modMe _ _ _ rfl⟩
  case ringRun =>
    intro c n e
    have h := ringRun_spec c n e
    simp only [fitsRun_runsUsed] at h
    exact h
  case chfree =>
    intro o s hclear
    refine ⟨fun hdead => ⟨_, exec_chfree_dead hclear hdead, managed_self ..⟩, fun i hlive => ?_⟩
    have hcur := freeChannel_cur s s.cur.1 i
    obtain ⟨hctxs, hself, hother, hpats⟩ := core_freeChannel s s.cur.1 (liveSlot_lt hlive)
    have hctx : (s.freeChannel s.cur.1 i).ctx = s.ctx := by
      rw [State.ctx, State.me, hcur, ctxs_ctx hctxs]; rfl
    refine ⟨_, exec_chfree_live hclear hlive, ?_, ?_, fun j => ?_, ?_, fun j hj hne => ?_, fun j hj => ?_⟩
    · rw [State.wroteX, ctx_past, ctxRetire_pc, hctx]
    · exact freeChannel_mem ..
    · rw [readX_wroteX, hctx]
    all_goals rw [me_wroteX, State.me, hcur]
    · exact hself
    · exact hother j hj hne
    · exact hpats j hj
  case live =>
    intro s core n i hworker
    rw [liveSlot_eq_some_iff, hworker]
    rfl
  case configure =>
    intro o s hclear
    refine ⟨fun hdead => ⟨managed_of_answer (chcfg_dead hclear hdead), managed_of_answer (relay_dead hclear hdead)⟩,
      fun i hlive => ⟨fun hk => managed_of_answer (relay_other hclear hlive hk), fun hk => ⟨managed_of_answer (chcfg_relay hclear hlive hk),
        managed_of_answer_modMe (relay_relay hclear hlive hk) rfl⟩, fun hk => ⟨fun hbusy => ?_, fun hc hp => ?_⟩,
        fun hk => ⟨fun hbusy => ?_, fun hr hovf => ⟨fun hstays => ?_, fun hmoves hrun => ?_, fun a hmoves hrun => ?_⟩⟩⟩,
      fun hnone => managed_of_answer (patrank_none hclear hnone), fun p hp => managed_of_answer_modMe (patrank_some hclear hp) rfl⟩
    · exact managed_of_answer (chcfg_ladle_busy hclear hlive hk hbusy)
    · exact managed_of_answer_modMe (chcfg_ladle hclear hlive hk hc hp) rfl
    · exact managed_of_answer (chcfg_fifo_busy hclear hlive hk hbusy)
    · exact managed_of_answer_modMe (chcfg_fifo hclear hlive hk hr hovf (if_pos (runFree_iff.mpr hstays))) rfl
    · exact managed_of_answer (chcfg_fifo hclear hlive hk hr hovf ((if_neg (runFree_iff.not.mpr hmoves)).trans hrun))
    · exact managed_of_answer_modMe (chcfg_fifo hclear hlive hk hr hovf ((if_neg (runFree_iff.not.mpr hmoves)).trans hrun)) rfl
  case count =>
    intro o s hclear
    exact ⟨fun h => ⟨_, exec_chcnt_dead hclear h, managed_self ..⟩, fun i h => ⟨_, exec_chcnt_live hclear h, managed_self ..⟩,
      fun h => managed_of_answer (patclr_none hclear h), fun p h => managed_of_answer_modMe (patclr_some hclear h) rfl⟩
  case patset =>
    intro o s hclear
    refine ⟨fun hbad => ⟨_, exec_patset_illegal hclear (patternOk_chans.not.mp hbad), faulted_raise ..⟩, fun hok h => ?_, fun hok h => ?_⟩
    · exact managed_of_answer (patset_taken hclear (patternOk_chans.mp hok) h)
    · exact managed_of_answer_modMe (patset_free hclear (patternOk_chans.mp hok) h) rfl

end Sys2Proof.Machine
end

section
/-!
PROOFS. Messages at their homes: accepted, forwarded, combined, left to the overflow ring or returned, and fault packets
(R10 to R14, R23, R32 to R34, R117, R222, R359).
-/

namespace Sys2Proof.Machine

/-! ## How a slot stands to a message (R13, R33, R222) -/

section Takes
variable {c : ChanSlot} {m : Msg}

theorem takes_relay (h : c.kind = .relay) : c.takes m = .take := by
  simp only [ChanSlot.takes, h]

theorem takes_fifo (h : c.kind = .fifo) (hm : ∀ op ws, m.payload ≠ .ladle op ws) :
    c.takes m = if c.ring.length ≤ c.nm1.toNat then .take else .overflow := by
  cases hp : m.payload with
  | ladle op ws => exact absurd hp (hm op ws)
  | words | view => simp only [ChanSlot.takes, h, hp]

theorem takes_fifo_ladle {op : LadleOp} {ws : List Word} (h : c.kind = .fifo) (hm : m.payload = .ladle op ws) :
    c.takes m = .refuse := by
  simp only [ChanSlot.takes, h, hm]

theorem takes_ladle_other (h : c.kind = .ladle) (hm : ∀ op ws, m.payload ≠ .ladle op ws) : c.takes m = .refuse := by
  cases hp : m.payload with
  | ladle op ws => exact absurd hp (hm op ws)
  | words | view => simp only [ChanSlot.takes, h, hp]

theorem takes_ladle {op : LadleOp} {ws : List Word} (h : c.kind = .ladle) (hm : m.payload = .ladle op ws) :
    c.takes m = if op ≠ c.op then .refuse else if c.nm1.toNat ≤ c.count ∧ c.presented ≠ none then .overflow else .take := by
  simp only [ChanSlot.takes, h, hm, ge_iff_le, Bool.and_eq_true, decide_eq_true_eq, Option.isSome_iff_ne_none]

/-- A ladle takes what is of its operation. -/
theorem op_of_takes_ladle {op : LadleOp} {ws : List Word} (h : c.kind = .ladle) (hm : m.payload = .ladle op ws)
    (ht : c.takes m = .take) : c.op = op := by
  rw [takes_ladle h hm] at ht
  by_contra hne
  rw [if_pos (Ne.symm hne)] at ht
  cases ht

end Takes

/-! ## A message accepted into a channel (R13, R14, R23) -/

/-- A core that has given the next arrival number. -/
def Core.arrived (c : Core) : Core := { c with arrivals := c.arrivals + 1, sluiceDue := true }

/-- The arrival counted, and printed where the session traces it. -/
def State.counted (s : State) (core i : Nat) (m : Msg) : State :=
  (s.modCore core fun c => { c with arrivals := (s.core core).arrivals + 1, sluiceDue := true }).traceArrival core i m
    ((s.core core).arrivals + 1)

/-- A traced arrival changes the console alone. -/
theorem traceArrival_eq (s : State) (core slot : Nat) (m : Msg) (seq : BitVec 32) :
    ∃ l, s.traceArrival core slot m seq = { s with console := l } := by
  unfold State.traceArrival
  split
  · exact ⟨_, rfl⟩
  · exact ⟨s.console, rfl⟩

section Counted
variable (s : State) (core i : Nat) (m : Msg)

theorem counted_eq : ∃ l, s.counted core i m = { s.modCore core Core.arrived with console := l } := by
  obtain ⟨l, h⟩ := traceArrival_eq (s.modCore core Core.arrived) core i m ((s.core core).arrivals + 1)
  exact ⟨l, h⟩

@[simp] theorem counted_mem : (s.counted core i m).mem = s.mem := by
  obtain ⟨l, h⟩ := counted_eq s core i m
  rw [h]; rfl
@[simp] theorem counted_flight : (s.counted core i m).flight = s.flight := by
  obtain ⟨l, h⟩ := counted_eq s core i m
  rw [h]; rfl
@[simp] theorem counted_cluster (n : Nat) : (s.counted core i m).cluster n = s.cluster n := by
  obtain ⟨l, h⟩ := counted_eq s core i m
  rw [h]; rfl
theorem core_counted (n : Nat) : (s.counted core i m).core n = (s.modCore core Core.arrived).core n := by
  obtain ⟨l, h⟩ := counted_eq s core i m
  rw [h]; rfl
@[simp] theorem core_counted_self : (s.counted core i m).core core = (s.core core).arrived := by
  rw [core_counted, core_modCore_self]
@[simp] theorem core_counted_ne {n : Nat} (h : n ≠ core) : (s.counted core i m).core n = s.core n := by
  rw [core_counted, core_modCore_ne _ _ _ _ h]
@[simp] theorem chan_arrived (c : Core) (i : Nat) : c.arrived.chan i = c.chan i := rfl

end Counted

section Enter
variable {s : State} {core i : Nat} {m : Msg}

/-- The arrival counted, and then what the channel's kind makes of it. -/
theorem enter_fifo (h : ((s.core core).chan i).kind = .fifo) : s.enter core i m =
    (s.counted core i m).modCore core (·.modChan i fun c => { c with ring := c.ring ++ [⟨m, (s.core core).arrivals + 1⟩] }) := by
  unfold State.enter
  extract_lets seq u c
  have hu : u = s.counted core i m := rfl
  have hc : c.kind = .fifo := by rwa [show c = (u.core core).chan i from rfl, hu, core_counted_self]
  simp only [hc]
  rfl

theorem enter_relay (h : ((s.core core).chan i).kind = .relay) : s.enter core i m =
    (s.counted core i m).modCore core fun c => { c with relays := c.relays ++ [forwardOf core ((s.core core).chan i) m] } := by
  unfold State.enter
  extract_lets seq u c
  have hu : u = s.counted core i m := rfl
  have hc : c = (s.core core).chan i := by rw [show c = (u.core core).chan i from rfl, hu, core_counted_self]; rfl
  simp only [hc, h]
  rfl

/-- A ladle whose sum has taken one arrival more (R13, R223): the partial goes on, or, with the last of its count, the aggregate
is presented and the partial begins again. -/
def ChanSlot.summed (c v : ChanSlot) (name w : Word) (seq : BitVec 32) : Prop :=
  if c.count < c.nm1.toNat then v.count = c.count + 1 ∧ v.part0 = c.part0 + w ∧ v.presented = c.presented
  else v.count = 0 ∧ v.part0 = 0 ∧ ∃ e : RingEntry, v.presented = some e ∧ e.seq = seq ∧ e.msg.name = name ∧
    e.msg.payload = .words [c.part0 + w]

theorem enter_iadd {ws : List Word} (h : ((s.core core).chan i).kind = .ladle) (hop : ((s.core core).chan i).op = .iadd)
    (hm : m.payload = .ladle .iadd ws) : ∃ v, s.enter core i m = (s.counted core i m).modCore core (·.modChan i fun _ => v) ∧
      ((s.core core).chan i).summed v m.name (ws.getD 0 0) ((s.core core).arrivals + 1) := by
  unfold State.enter
  extract_lets seq u c words
  have hu : u = s.counted core i m := rfl
  have hc : c = (s.core core).chan i := by rw [show c = (u.core core).chan i from rfl, hu, core_counted_self]; rfl
  have hwords : words = ws := by simp only [words, hm]
  simp only [hc, h, hwords, combine, hop]
  refine ⟨_, rfl, ?_⟩
  unfold ChanSlot.summed
  by_cases hlast : ((s.core core).chan i).count < ((s.core core).chan i).nm1.toNat
  · rw [if_pos hlast, if_pos (Nat.succ_le_of_lt hlast)]
    exact ⟨rfl, rfl, rfl⟩
  · rw [if_neg hlast, if_neg (by omega)]
    exact ⟨rfl, rfl, _, rfl, rfl, rfl, rfl⟩

end Enter

/-! ## Arriving at a home (R10, R33, R222) -/

section Arrive
variable {s : State} {core : Nat} {m : Msg}

theorem undeliver_first (h : m.isReturn = false) : ∃ x : Msg, s.undeliver core m =
    s.modCore core (fun c => { c with relays := c.relays ++ [x] }) ∧ x.name = m.errCh ∧ x.status = .undeliv ∧
      x.payload = m.payload := by
  simp only [State.undeliver, h]
  exact ⟨_, rfl, rfl, rfl, rfl⟩

theorem toOverflow_room {cluster tag x : Nat} {e : OvfEntry} (hx : s.ovfIndex cluster tag = some x)
    (hroom : ((s.cluster cluster).ovf.getD x []).length < bits (s.devReg (.ovfRing cluster x)) 47 32) :
    s.toOverflow cluster tag e = some (s.modCluster cluster fun c =>
      { c with ovf := c.ovf.setIfInBounds x ((s.cluster cluster).ovf.getD x [] ++ [e]) }) := by
  simp only [State.toOverflow, hx, Option.bind_some, if_pos hroom]

variable (htrust : (s.poundOf (clusterOf core)).any (·.trust == .error) = false)
  (htag : nameTag m.name = (s.tagOf core).toNat) (hsaved : (s.core core).msgSaved = false)
include htrust htag hsaved

theorem arrive_dead (h : s.liveSlot core m.name = none) : s.arrive core m = s.undeliver core m := by
  simp [State.arrive, htrust, htag, hsaved, h]

variable {i : Nat} (hlive : s.liveSlot core m.name = some i)
include hlive

theorem arrive_refused (h : ((s.core core).chan i).takes m = .refuse) : s.arrive core m = s.undeliver core m := by
  simp [State.arrive, htrust, htag, hsaved, hlive, h]

theorem arrive_taken (h : ((s.core core).chan i).takes m = .take) (hovf : s.overflowed core i = []) :
    s.arrive core m = s.enter core i m := by
  simp [State.arrive, htrust, htag, hsaved, hlive, h, hovf]

theorem arrive_overflows (h : ((s.core core).chan i).takes m = .overflow ∨
    ((s.core core).chan i).takes m = .take ∧ s.overflowed core i ≠ []) :
    s.arrive core m = s.overflowOr core (s.tagOf core).toNat m := by
  rcases h with h | ⟨h, hovf⟩
  · simp [State.arrive, htrust, htag, hsaved, hlive, h]
  · simp [State.arrive, htrust, htag, hsaved, hlive, h, hovf]

end Arrive

/-! ## A flight accepted (R23, R32) -/

/-- The state in which a flight arrives: it is off its way, and logged where a cut is open. -/
def State.landed (s : State) (k : Nat) (f : Flight) : State :=
  ({ s with flight := s.flight.eraseIdx k } : State).logged f.home f.msg

section MessageAccept
variable {s : State} {k : Nat} {f : Flight} (hf : s.flight[k]? = some f) (hhome : f.home ≠ Config.workers)
include hf hhome

theorem exec_messageAccept_waits (h : (s.flight.take k).any (fun g => g.source == f.source && g.msg.name == f.msg.name) = true ∨
    (s.core f.home).halted = true) : exec (.messageAccept k) s = .next s := by
  simp only [exec_messageAccept, execMessageAccept, hf]
  rw [if_neg (by simp [hhome]), if_pos (by rcases h with h | h <;> simp [h])]

theorem exec_messageAccept_arrives
    (hfirst : (s.flight.take k).any (fun g => g.source == f.source && g.msg.name == f.msg.name) = false)
    (hhalt : (s.core f.home).halted = false) (hcut : (s.core f.home).cut = none) :
    exec (.messageAccept k) s = .next ((s.landed k f).arrive f.home f.msg) := by
  simp only [exec_messageAccept, execMessageAccept, hf]
  rw [if_neg (by simp [hhome]), if_neg (by simp [hfirst, hhalt, hcut])]
  rfl

end MessageAccept

theorem mapCut_of_none {c : Core} (h : c.cut = none) (g : CutState → CutState) : { c with cut := c.cut.map g } = c := by
  rw [h, Option.map_none, ← h]

/-- With no cut at the home, a landed flight leaves every core as it was. -/
theorem core_landed {s : State} {k : Nat} {f : Flight} (hcut : (s.core f.home).cut = none) (n : Nat) :
    (s.landed k f).core n = s.core n := by
  by_cases hn : n = f.home
  · subst hn
    exact (core_modCore_self _ _ _).trans (mapCut_of_none hcut _)
  · exact core_modCore_ne _ _ _ _ hn

theorem liveSlot_congr {s t : State} {core : Nat} (hcore : t.core core = s.core core) (hpounds : t.pounds = s.pounds)
    (name : Word) : t.liveSlot core name = s.liveSlot core name := by
  have htag : t.tagOf core = s.tagOf core := by
    simp only [State.tagOf, State.tagOfCluster, State.poundOf, hpounds]
  simp only [State.liveSlot, hcore, htag]

theorem overflowed_congr {s t : State} {core : Nat} (hcore : t.core core = s.core core) (hpounds : t.pounds = s.pounds)
    (hclusters : t.clusters = s.clusters) (slot : Nat) : t.overflowed core slot = s.overflowed core slot := by
  have htag : t.tagOf core = s.tagOf core := by
    simp only [State.tagOf, State.tagOfCluster, State.poundOf, hpounds]
  have hcluster (k : Nat) : t.cluster k = s.cluster k := by simp only [State.cluster, hclusters]
  simp only [State.overflowed, State.ovfIndex, State.poundOf, hcore, htag, hcluster, hpounds]

/-- A message returned for the first time: one message more waits to leave its home, under the sender's error channel. -/
theorem undeliver_returned {s : State} {core : Nat} {m : Msg} (h : m.isReturn = false) : let t := s.undeliver core m
    t.flight = s.flight ∧ (t.core core).chans = (s.core core).chans ∧ (t.core core).arrivals = (s.core core).arrivals ∧
      ∃ x : Msg, (t.core core).relays = (s.core core).relays ++ [x] ∧ x.name = m.errCh ∧ x.status = .undeliv ∧
        x.payload = m.payload := by
  obtain ⟨x, hx, hmsg⟩ := undeliver_first (s := s) (core := core) h
  simp only [hx, core_modCore_self]
  exact ⟨rfl, trivial, trivial, x, rfl, hmsg⟩

theorem getD_setIfInBounds_self {α : Type} {n i : Nat} (v : Vector α n) (a d : α) (h : i < n) :
    (v.setIfInBounds i a).getD i d = a := by
  simp [Vector.getD, h]

section Entered
variable {s : State} {core i : Nat} {m : Msg}

theorem entered_fifo (h : ((s.core core).chan i).kind = .fifo) : let t := s.enter core i m
    t.flight = s.flight ∧ (t.core core).arrivals = (s.core core).arrivals + 1 ∧ t.mem = s.mem ∧ (t.core core).chan i =
      { (s.core core).chan i with ring := ((s.core core).chan i).ring ++ [⟨m, (s.core core).arrivals + 1⟩] } := by
  simp only [enter_fifo h, modCore_flight, counted_flight, modCore_mem, counted_mem, core_modCore_self, core_counted_self,
    chan_modChan_self, chan_arrived]
  exact ⟨trivial, rfl, trivial, trivial⟩

theorem entered_relay (h : ((s.core core).chan i).kind = .relay) : let t := s.enter core i m
    t.flight = s.flight ∧ (t.core core).arrivals = (s.core core).arrivals + 1 ∧
      (t.core core).relays = (s.core core).relays ++ [forwardOf core ((s.core core).chan i) m] := by
  simp only [enter_relay h, modCore_flight, counted_flight, core_modCore_self, core_counted_self]
  exact ⟨trivial, rfl, rfl⟩

theorem entered_iadd {ws : List Word} (h : ((s.core core).chan i).kind = .ladle) (hop : ((s.core core).chan i).op = .iadd)
    (hm : m.payload = .ladle .iadd ws) : let t := s.enter core i m
    t.flight = s.flight ∧ (t.core core).arrivals = (s.core core).arrivals + 1 ∧ t.mem = s.mem ∧
      ((s.core core).chan i).summed ((t.core core).chan i) m.name (ws.getD 0 0) ((s.core core).arrivals + 1) := by
  obtain ⟨v, hv, hsum⟩ := enter_iadd h hop hm
  simp only [hv, modCore_flight, counted_flight, modCore_mem, counted_mem, core_modCore_self, core_counted_self,
    chan_modChan_self]
  exact ⟨trivial, rfl, trivial, hsum⟩

/-- A message left to the overflow ring that has room for it. -/
theorem overflowed_room {x : Nat} (hx : s.ovfIndex (clusterOf core) (s.tagOf core).toNat = some x) (hx8 : x < 8)
    (hroom : ((s.cluster (clusterOf core)).ovf.getD x []).length < bits (s.devReg (.ovfRing (clusterOf core) x)) 47 32) :
    let t := s.overflowOr core (s.tagOf core).toNat m
    t.flight = s.flight ∧ (t.cluster (clusterOf core)).ovf.getD x [] =
      (s.cluster (clusterOf core)).ovf.getD x [] ++ [.msg core m] ∧ ∀ n, t.core n = s.core n := by
  simp only [State.overflowOr, toOverflow_room hx hroom, Option.getD_some, cluster_modCluster_self]
  exact ⟨rfl, getD_setIfInBounds_self _ _ _ hx8, fun _ => rfl⟩

end Entered

/-! ## Overflow messages that move back (R33, R367) -/

section MoveBack
variable {core slot i j n : Nat} {s : State} {m : Msg} (hcore : coreIn core = true) (hslot : slot < 64)
  (hsaved : (s.core core).msgSaved = false) (hi : s.ovfIndex (clusterOf core) (s.tagOf core).toNat = some i)
  (hj : ((s.cluster (clusterOf core)).ovf.getD i [])[j]? = some (.msg core m)) (hm : nameSlot m.name = slot)
  (holdest : ∀ e ∈ ((s.cluster (clusterOf core)).ovf.getD i []).take j, e.isFor core slot = false)
  (hlive : s.liveSlot core m.name = some n)

include hj hm holdest in
theorem findIndex_isFor : findIndex (·.isFor core slot) ((s.cluster (clusterOf core)).ovf.getD i []) = some j := by
  refine findIndex_eq_some_iff.mpr ⟨_, hj, by simp [OvfEntry.isFor, hm], fun l hl e he => holdest e ?_⟩
  exact List.mem_of_getElem? ((List.getElem?_take_of_lt hl).trans he)

/-- The overflow ring without the message that moves back. -/
def State.unqueued (s : State) (core i j : Nat) : State :=
  s.modCluster (clusterOf core) fun c =>
    { c with ovf := c.ovf.setIfInBounds i (((s.cluster (clusterOf core)).ovf.getD i []).eraseIdx j)
             ovfHead := c.ovfHead.setIfInBounds i (c.ovfHead.getD i 0 + 1) }

include hcore hslot hsaved hi hj hm holdest hlive

theorem exec_overflowMoveBack_waits (h : ((s.core core).chan n).takes m = .overflow) :
    exec (.overflowMoveBack core slot) s = .next s := by
  simp [exec_overflowMoveBack, execOverflowMoveBack, event, hcore, hslot, hi, hsaved, findIndex_isFor hj hm holdest, hj, hlive, h]

theorem exec_overflowMoveBack_taken (h : ((s.core core).chan n).takes m = .take) :
    exec (.overflowMoveBack core slot) s = .next ((s.unqueued core i j).enter core n m) := by
  simp [exec_overflowMoveBack, execOverflowMoveBack, event, hcore, hslot, hi, hsaved, findIndex_isFor hj hm holdest, hj, hlive, h]
  rfl

end MoveBack

/-- A message moves back into a FIFO: the overflow ring has it no longer, and the channel has it last. -/
theorem movedBack_fifo {core i j n : Nat} {s : State} {m : Msg} (hi : i < 8) (h : ((s.core core).chan n).kind = .fifo) :
    let t := (s.unqueued core i j).enter core n m
    (t.cluster (clusterOf core)).ovf.getD i [] = ((s.cluster (clusterOf core)).ovf.getD i []).eraseIdx j ∧
      (t.core core).chan n = { (s.core core).chan n with
        ring := ((s.core core).chan n).ring ++ [⟨m, (s.core core).arrivals + 1⟩] } := by
  have h' : (((s.unqueued core i j).core core).chan n).kind = .fifo := h
  refine ⟨?_, (entered_fifo h').2.2.2⟩
  have hcluster (u : State) (f : Core → Core) (k : Nat) : (u.modCore core f).cluster k = u.cluster k := rfl
  rw [enter_fifo h', hcluster, counted_cluster, State.unqueued, cluster_modCluster_self, getD_setIfInBounds_self _ _ _ hi]

/-! ## Fault packets at their channel (R117, R359) -/

section FaultPacket
variable {core i : Nat} {s : State} {ws : List Word} {cv : List Cover} {rest : List (List Word × List Cover)}
  (hcore : coreIn core = true) (hpackets : (s.core core).packets = (ws, cv) :: rest)

/-- The notice a fault packet reaches its keeper as. -/
def State.packetNotice (s : State) (core : Nat) (ws : List Word) : Msg :=
  notice (s.tagOf core).toNat core (s.devReg (.faultCh (clusterOf core))) ws 0 0

theorem takes_packetNotice {c : ChanSlot} (h : c.kind = .fifo) :
    c.takes (s.packetNotice core ws) = if c.ring.length ≤ c.nm1.toNat then .take else .overflow :=
  takes_fifo h fun _ _ => nofun

include hcore hpackets

theorem exec_faultPacketResend_noChannel
    (h : s.liveSlot (Config.keeperOf (clusterOf core)) (s.devReg (.faultCh (clusterOf core))) = none) :
    exec (.faultPacketResend core) s = .next s := by
  simp only [exec_faultPacketResend, execFaultPacketResend, event, hcore, hpackets, h, if_true]

variable (hlive : s.liveSlot (Config.keeperOf (clusterOf core)) (s.devReg (.faultCh (clusterOf core))) = some i)
  (hkind : ((s.core (Config.keeperOf (clusterOf core))).chan i).kind = .fifo)
include hlive hkind

theorem exec_faultPacketResend_held
    (h : ((s.core (Config.keeperOf (clusterOf core))).chan i).nm1.toNat <
        ((s.core (Config.keeperOf (clusterOf core))).chan i).ring.length ∨ cv.all (s.performed .clus false) = false) :
    exec (.faultPacketResend core) s = .next s := by
  have htakes := takes_packetNotice (s := s) (core := core) (ws := ws) hkind
  simp only [State.packetNotice] at htakes
  simp only [exec_faultPacketResend, execFaultPacketResend, event, hcore, hpackets, hlive, if_true, htakes]
  rcases h with h | h
  · rw [if_neg (by simp [Nat.not_le.mpr h])]
  · rw [if_neg (by simp [h])]

theorem exec_faultPacketResend_sent
    (hroom : ((s.core (Config.keeperOf (clusterOf core))).chan i).ring.length ≤
      ((s.core (Config.keeperOf (clusterOf core))).chan i).nm1.toNat)
    (hperformed : cv.all (s.performed .clus false) = true) : exec (.faultPacketResend core) s =
      .next ((s.modCore core fun c => { c with packets := rest }).enter (Config.keeperOf (clusterOf core)) i
        (s.packetNotice core ws)) := by
  have htakes := takes_packetNotice (s := s) (core := core) (ws := ws) hkind
  simp only [State.packetNotice] at htakes
  simp only [exec_faultPacketResend, execFaultPacketResend, event, hcore, hpackets, hlive, if_true, htakes, if_pos hroom]
  rw [if_pos (by simp [hperformed])]
  rfl

end FaultPacket

/-- What a message accepted into a FIFO leaves of any core's packets. -/
theorem packets_enter_fifo {s : State} {core i : Nat} {m : Msg} (h : ((s.core core).chan i).kind = .fifo) (n : Nat) :
    ((s.enter core i m).core n).packets = (s.core n).packets := by
  rw [enter_fifo h]
  by_cases hn : n = core
  · subst hn
    rw [core_modCore_self, core_counted_self]
    rfl
  · rw [core_modCore_ne _ _ _ _ hn, core_counted_ne _ _ _ _ hn]

/-- A change of the packets a core holds leaves every core's channels and arrivals. -/
theorem chan_modPackets (s : State) (core n : Nat) (l : List (List Word × List Cover)) :
    let t := s.modCore core fun c => { c with packets := l }
    (∀ i, (t.core n).chan i = (s.core n).chan i) ∧ (t.core n).arrivals = (s.core n).arrivals := by
  by_cases hn : n = core
  · subst hn
    simp only [core_modCore_self]
    exact ⟨fun _ => rfl, trivial⟩
  · simp only [core_modCore_ne _ _ _ _ hn]
    exact ⟨fun _ => trivial, trivial⟩

/-- Settles O46: a message for a home that takes messages arrives there, and the slot its name gives decides what becomes of it. -/
theorem messagesAreAccepted : Obligations.MessagesAreAccepted := by
  unfold Obligations.MessagesAreAccepted
  refine ⟨⟨?accept, ?takes, ?moveBack⟩, ?packet⟩
  case accept =>
    intro k s f hf hhome
    refine ⟨exec_messageAccept_waits hf hhome, fun hfirst hhalt hcut htrust htag hsaved => ?_⟩
    intro m c seq gone returned
    have hcore := core_landed (k := k) hcut f.home
    have htrust' : ((s.landed k f).poundOf (clusterOf f.home)).any (·.trust == .error) = false := htrust
    have htag' : nameTag m.name = ((s.landed k f).tagOf f.home).toNat := htag
    have hsaved' : ((s.landed k f).core f.home).msgSaved = false := by rwa [hcore]
    have hlive : (s.landed k f).liveSlot f.home m.name = s.liveSlot f.home m.name := liveSlot_congr hcore rfl _
    have hovf (i : Nat) : (s.landed k f).overflowed f.home i = s.overflowed f.home i := overflowed_congr hcore rfl rfl _
    have arrives {t : State} (h : (s.landed k f).arrive f.home m = t) (ht : t.flight = (s.landed k f).flight) : gone t :=
      ⟨h ▸ exec_messageAccept_arrives hf hhome hfirst hhalt hcut, ht⟩
    have harrive {i : Nat} (hi : s.liveSlot f.home m.name = some i) (htakes : (c.chan i).takes m = .take)
        (hempty : s.overflowed f.home i = []) :=
      arrive_taken htrust' htag' hsaved' (hlive.trans hi) (by rwa [hcore]) ((hovf i).trans hempty)
    have hreturned (hm : m.isReturn = false) := undeliver_returned (s := s.landed k f) (core := f.home) hm
    rw [hcore] at hreturned
    refine ⟨fun hdead hm => ?_, fun i hi => ⟨fun htakes hm => ?_, fun htakes hempty => ⟨fun hkind => ?_, fun hkind => ?_,
      fun ws hkind hpayload => ?_⟩, ?_⟩⟩
    · have h := arrive_dead htrust' htag' hsaved' (hlive.trans hdead)
      exact ⟨_, arrives h (hreturned hm).1, (hreturned hm).2⟩
    · have h := arrive_refused htrust' htag' hsaved' (hlive.trans hi) (by rwa [hcore])
      exact ⟨_, arrives h (hreturned hm).1, (hreturned hm).2⟩
    · have h := harrive hi htakes hempty
      obtain ⟨hflight, harr, hmem, hchan⟩ := entered_fifo (s := s.landed k f) (core := f.home) (i := i) (m := m) (by rwa [hcore])
      rw [hcore] at harr hchan
      exact ⟨_, arrives h hflight, harr, hmem, hchan⟩
    · have h := harrive hi htakes hempty
      obtain ⟨hflight, harr, hrelays⟩ := entered_relay (s := s.landed k f) (core := f.home) (i := i) (m := m) (by rwa [hcore])
      rw [hcore] at harr hrelays
      exact ⟨_, _, arrives h hflight, harr, hrelays, rfl, rfl, rfl, rfl, rfl, rfl⟩
    · have h := harrive hi htakes hempty
      obtain ⟨hflight, harr, hmem, hsum⟩ := entered_iadd (s := s.landed k f) (core := f.home) (i := i) (m := m) (by rwa [hcore])
        (by rw [hcore]; exact op_of_takes_ladle hkind hpayload htakes) hpayload
      rw [hcore] at harr hsum
      exact ⟨_, arrives h hflight, harr, hmem, hsum⟩
    · intro x q htakes hx hx8 hq hroom
      subst hq
      have h := arrive_overflows htrust' htag' hsaved' (hlive.trans hi) (by rwa [hcore, hovf])
      obtain ⟨hflight, hring, hcores⟩ := overflowed_room (s := s.landed k f) (core := f.home) (m := m) hx hx8 hroom
      exact ⟨_, arrives h hflight, hring, congrArg Core.chans ((hcores _).trans hcore)⟩
  case takes =>
    exact fun c m op ws => ⟨takes_relay, takes_fifo_ladle, takes_fifo, takes_ladle_other, takes_ladle⟩
  case moveBack =>
    intro core slot i j n s m hcore hslot hsaved hi hi8 q hj hm holdest hlive
    refine ⟨exec_overflowMoveBack_waits hcore hslot hsaved hi hj hm holdest hlive, fun hkind htakes => ?_⟩
    exact ⟨_, exec_overflowMoveBack_taken hcore hslot hsaved hi hj hm holdest hlive htakes, movedBack_fifo hi8 hkind⟩
  case packet =>
    intro core i s ws cv rest hcore hpackets k name
    refine ⟨exec_faultPacketResend_noChannel hcore hpackets, fun hlive hkind =>
      ⟨exec_faultPacketResend_held hcore hpackets hlive hkind, fun hroom hperformed => ?_⟩⟩
    obtain ⟨hchan, harr⟩ := chan_modPackets s core k rest
    have hkind' : (((s.modCore core fun c => { c with packets := rest }).core k).chan i).kind = .fifo := by rwa [hchan]
    obtain ⟨-, -, -, hentered⟩ := entered_fifo (m := s.packetNotice core ws) hkind'
    rw [hchan, harr] at hentered
    refine ⟨_, ⟨s.packetNotice core ws, (s.core k).arrivals + 1⟩, exec_faultPacketResend_sent hcore hpackets hlive hkind hroom hperformed,
      ?_, ?_, rfl, rfl, rfl, rfl, rfl⟩
    · rw [packets_enter_fifo hkind', core_modCore_self]
    · rw [hentered]

end Sys2Proof.Machine
end

section
/-!
PROOFS. A spawn item that a core on its way takes (R28), and what the statement about starting bodies leaves out (R142, R231).
-/

namespace Sys2Proof.Machine

/-- A body starts at its entry as the PC holds it: a multiple of 4 (R142). -/
theorem pc_startItem (s : State) (core k : Nat) (it : SpawnItem) :
    (((s.startItem core k it).core core).ctx k).pc = wordAlign it.entry := by
  simp only [State.startItem, State.startBody, State.nextSeq, ctxOf_modCtxOf]
  rfl

theorem exec_spawnItemArrive_taken {k c x : Nat} {rest : List Nat} {s : State} {w : Walker} (hw : s.walkers[k]? = some w)
    (hroute : w.route = c :: rest) (hhint : (s.core w.item.hint).stopping = false) (htakes : s.takesItem c w.item = true)
    (hx : (s.core c).helpersFor.head? = some x) : exec (.spawnItemArrive k) s =
      .next (({ s with walkers := s.walkers.eraseIdx k } : State).startItem c x w.item) := by
  simp only [exec_spawnItemArrive, execSpawnItemArrive, hw, hhint, hroute, htakes, hx, Bool.false_eq_true, if_false,
    if_true]

/-- A spawn item whose entry is no multiple of 4. -/
def oddItem : SpawnItem := ⟨.spawn, 1, 0, [], 0, 0, 0, 0, 0, .core, []⟩

/-- The reset machine with that item at core 0, which is on its way. -/
def oddWalk : State := { State.reset with walkers := [⟨oddItem, [0]⟩] }

theorem takesItem_oddWalk : oddWalk.takesItem 0 oddItem = true := by rfl
theorem helpersFor_oddWalk : (oddWalk.core 0).helpersFor.head? = some 1 := by rfl

/-- Refutes O47: the clause about a walking item lets its entry be any word, and says the body's PC is that word; but a PC is a multiple
of 4, so a taken item of entry 1 starts at 0. -/
theorem not_bodiesStart : ¬ Obligations.BodiesStart := by
  unfold Obligations.BodiesStart
  rintro ⟨-, ⟨-, walk⟩, -⟩
  obtain ⟨hstep, -⟩ := walk 0 oddWalk ⟨oddItem, [0]⟩ rfl
  obtain ⟨-, htaken⟩ := hstep 0 [] 1 rfl rfl
  obtain ⟨t, hexec, -, hbegun⟩ := htaken takesItem_oddWalk helpersFor_oddWalk rfl
  have hpc : ((t.core 0).ctx 1).pc = oddItem.entry := hbegun.2.1
  rw [exec_spawnItemArrive_taken rfl rfl rfl takesItem_oddWalk helpersFor_oddWalk] at hexec
  rw [← Host.Outcome.next.inj hexec, pc_startItem] at hpc
  exact absurd hpc (by decide)

end Sys2Proof.Machine
end

section
/-!
PROOFS. What the part's own writes, messages and counts leave of its cores (R29, R34, R35, R92, R340, R366).
-/

namespace Sys2Proof.Machine

/-! ## Writes at home slices and of save areas -/

section Writes
variable (s : State)

@[simp] theorem rekey_cores (line slot : Nat) : (s.rekey line slot).cores = s.cores := by
  unfold State.rekey
  dsimp only
  split
  · split <;> rfl
  · rfl

@[simp] theorem writeDram_cores (pa slot : Nat) (mask : BitVec 16) (data : Nat) :
    (s.writeDram pa slot mask data).cores = s.cores := by
  unfold State.writeDram
  dsimp only
  split <;> simp

@[simp] theorem homeWrite_cores (r : MemReq) (mask : BitVec 16) (data : BitVec 128) :
    (s.homeWrite r mask data).cores = s.cores := by
  unfold State.homeWrite
  split
  · exact writeDram_cores ..
  · split
    · split
      · exact writeDram_cores ..
      · rfl
    · rfl

@[simp] theorem homeWriteN_cores (r : MemReq) (pa : Nat) (bs : List Byte) : (s.homeWriteN r pa bs).cores = s.cores := by
  induction bs generalizing s pa with
  | nil => rfl
  | cons b bs ih => rw [State.homeWriteN, ih, homeWrite_cores]

@[simp] theorem pokeVa_cores (tag : Nat) (va : Word) (bs : List Byte) : (s.pokeVa tag va bs).cores = s.cores := by
  unfold State.pokeVa
  split
  · rfl
  · exact homeWriteN_cores ..

@[simp] theorem countLost_cores (tag : Nat) (rcb : Word) : (s.countLost tag rcb).cores = s.cores := by
  unfold State.countLost
  dsimp only
  split
  · exact pokeVa_cores ..
  · rfl

@[simp] theorem portCharge_cores (rte : Word) (tag : Nat) (rcb : Word) (n : Nat) :
    (s.portCharge rte tag rcb n).cores = s.cores := by
  unfold State.portCharge
  dsimp only
  split <;> rfl

@[simp] theorem pinWrite_cores (pa slot : Nat) (bs : List Byte) : (s.pinWrite pa slot bs).cores = s.cores :=
  foldl_keeps State.cores _ (fun s _ => rekey_cores s _ _) _ _

@[simp] theorem saveImage_cores (core k : Nat) : (s.saveImage core k).cores = s.cores := by
  simp only [State.saveImage, State.openImage, pinWrite_cores]

@[simp] theorem saveMessages_cores (core : Nat) : (s.saveMessages core).cores = s.cores := by
  simp only [State.saveMessages, State.openImage, pinWrite_cores]

@[simp] theorem saveMessages_pounds (core : Nat) : (s.saveMessages core).pounds = s.pounds := by
  simp only [State.saveMessages, State.openImage, pinWrite_pounds]

end Writes

/-! ## Messages and counts of the part itself -/

/-- A core apart from what the part's own messages and posted counts change: what waits to leave it, what it owes, and the
charges it has yet to post. -/
def Core.apartFromPosts (c : Core) : Core := { c with relays := [], owed := [], energy := [], cycles := [] }

/-- Two states whose cores differ in no more than that. -/
structure State.SameBodies (s t : State) : Prop where
  core : ∀ n, (t.core n).apartFromPosts = (s.core n).apartFromPosts

theorem State.SameBodies.refl (s : State) : s.SameBodies s := ⟨fun _ => rfl⟩
theorem State.SameBodies.trans {s t u : State} (h : s.SameBodies t) (k : t.SameBodies u) : s.SameBodies u :=
  ⟨fun n => (k.core n).trans (h.core n)⟩
theorem sameBodies_of_cores {s t : State} (h : t.cores = s.cores) : s.SameBodies t :=
  ⟨fun n => by rw [State.core, State.core, h]⟩
/-- A change of a core's posts. -/
theorem sameBodies_modCore (s : State) (core : Nat) {f : Core → Core} (hf : ∀ c, (f c).apartFromPosts = c.apartFromPosts) :
    s.SameBodies (s.modCore core f) := by
  refine ⟨fun n => ?_⟩
  by_cases h : n = core
  · subst h
    rw [core_modCore_self, hf]
  · rw [core_modCore_ne _ _ _ _ h]
theorem sameBodies_foldl {α : Type} {f : State → α → State} (hf : ∀ (s : State) (a : α), s.SameBodies (f s a)) (l : List α) (s : State) :
    s.SameBodies (l.foldl f s) := by
  induction l generalizing s with
  | nil => exact State.SameBodies.refl s
  | cons a l ih => exact (hf s a).trans (ih _)

section Posts
variable (s : State) (core tag : Nat)

theorem sameBodies_dropPayload (p : Payload) : s.SameBodies (s.dropPayload core p) :=
  ⟨fun n => (congrArg Core.apartFromPosts (apartFromOwed_dropPayload s core p n) :)⟩

theorem sameBodies_undeliver (m : Msg) : s.SameBodies (s.undeliver core m) := by
  unfold State.undeliver
  split
  · exact (sameBodies_dropPayload ..).trans (sameBodies_of_cores (countLost_cores ..))
  · exact sameBodies_modCore _ _ fun _ => rfl

theorem sameBodies_admitFor (m : Msg) : s.SameBodies (s.admitFor tag core m) := by
  unfold State.admitFor
  split
  · exact sameBodies_undeliver ..
  · split
    case h_1 => exact sameBodies_of_cores rfl
    case h_2 =>
      split
      · exact sameBodies_undeliver ..
      · exact sameBodies_of_cores rfl
    case h_3 => exact sameBodies_of_cores (portCharge_cores ..)
    case h_4 => exact sameBodies_undeliver ..

theorem sameBodies_admitFor_of {s u : State} {core tag : Nat} {m : Msg} (h : u.cores = s.cores) :
    s.SameBodies (u.admitFor tag core m) :=
  (sameBodies_of_cores h).trans (sameBodies_admitFor ..)

theorem sameBodies_setBudget (block : Word) (which v : Nat) : s.SameBodies (s.setBudget core tag block which v) := by
  have hpoke := sameBodies_of_cores (pokeVa_cores s tag (block + BitVec.ofNat 64 (32 + 8 * which)) (toBytes 8 v))
  unfold State.setBudget
  extract_lets old at_ u
  split
  · split
    · exact hpoke
    · exact hpoke.trans (sameBodies_admitFor_of rfl)
  · exact hpoke

theorem sameBodies_chargeBudget (block : Word) (which n : Nat) : s.SameBodies (s.chargeBudget core tag block which n) := by
  unfold State.chargeBudget
  extract_lets old
  split
  · exact State.SameBodies.refl s
  · exact sameBodies_setBudget ..

theorem sameBodies_addCounter (rcb : Word) (i n : Nat) : s.SameBodies (s.addCounter core tag rcb i n) := by
  unfold State.addCounter
  split
  · exact State.SameBodies.refl s
  · extract_lets at_ old new u
    have hpoke : s.SameBodies u := sameBodies_of_cores (pokeVa_cores ..)
    split
    · exact hpoke
    · extract_lets thr
      split
      · simp only [State.free]
        exact hpoke.trans (sameBodies_admitFor_of rfl)
      · exact hpoke

theorem sameBodies_addCounters (rcb : Word) (d : Vector Nat 16) : s.SameBodies (s.addCounters core tag rcb d) :=
  sameBodies_foldl (fun s i => sameBodies_addCounter s core tag rcb i _) _ s

theorem sameBodies_postCycles : s.SameBodies (s.postCycles core) := by
  unfold State.postCycles
  refine State.SameBodies.trans ?_ (sameBodies_modCore _ _ fun _ => rfl)
  exact sameBodies_foldl (fun _ _ => sameBodies_chargeBudget ..) _ s

theorem sameBodies_postEnergy : s.SameBodies (s.postEnergy core) := by
  unfold State.postEnergy
  dsimp only
  refine State.SameBodies.trans ?_ (sameBodies_postCycles ..)
  refine State.SameBodies.trans ?_ (sameBodies_modCore _ _ fun _ => rfl)
  exact sameBodies_foldl (fun _ _ => sameBodies_chargeBudget ..) _ s

end Posts

/-! ## A context's counts posted before it is saved -/

theorem modCtx_eq_self {c : Core} {k : Nat} {f : Ctx → Ctx} (h : f (c.ctx k) = c.ctx k) : c.modCtx k f = c := by
  rw [Core.modCtx, h, Core.setCtx, Core.ctx, Vector.set_getElem_self]

/-- A context with other exception deltas. -/
def Ctx.withDelta (c : Ctx) (d : Vector Nat 16) : Ctx := { c with fpDelta := d }

theorem ctx_apartFromPosts (c : Core) (k : Nat) : c.apartFromPosts.ctx k = c.ctx k := rfl
theorem packets_apartFromPosts (c : Core) : c.apartFromPosts.packets = c.packets := rfl
theorem savedCtx_apartFromPosts (c : Core) : c.apartFromPosts.savedCtx = c.savedCtx := rfl
theorem modCtx_apartFromPosts (c : Core) (k : Nat) (f : Ctx → Ctx) :
    (c.modCtx k f).apartFromPosts = c.apartFromPosts.modCtx k f := rfl

/-- Flushed counters leave the context's deltas at some value, and no more of its core than posts do. -/
theorem core_flushCounters (s : State) (core k : Nat) : ∃ d, ((s.flushCounters core k).core core).apartFromPosts =
    (s.core core).apartFromPosts.modCtx k (·.withDelta d) := by
  unfold State.flushCounters
  extract_lets x
  split
  · exact ⟨((s.core core).ctx k).fpDelta, (modCtx_eq_self rfl).symm⟩
  · refine ⟨Vector.replicate 16 0, ?_⟩
    rw [State.modCtxOf, core_modCore_self, modCtx_apartFromPosts, (sameBodies_addCounters ..).core]
    rfl

/-- The state once a core's energy and a context's counters are posted (R92, R340). -/
def State.posted (s : State) (core k : Nat) : State := (s.postEnergy core).flushCounters core k

section Posted
variable (s : State) (core k : Nat)

theorem core_posted : ∃ d, ((s.posted core k).core core).apartFromPosts =
    (s.core core).apartFromPosts.modCtx k (·.withDelta d) := by
  obtain ⟨d, h⟩ := core_flushCounters (s.postEnergy core) core k
  exact ⟨d, by rw [State.posted, h, (sameBodies_postEnergy ..).core]⟩

theorem ctx_posted_self : ∃ d, ((s.posted core k).core core).ctx k = ((s.core core).ctx k).withDelta d := by
  obtain ⟨d, h⟩ := core_posted s core k
  refine ⟨d, ?_⟩
  rw [← ctx_apartFromPosts, h, ctx_coreModCtx_self, ctx_apartFromPosts]
theorem ctx_posted_ne {j : Nat} (hj : j % 11 ≠ k % 11) : ((s.posted core k).core core).ctx j = (s.core core).ctx j := by
  obtain ⟨d, h⟩ := core_posted s core k
  rw [← ctx_apartFromPosts, h, ctx_coreModCtx_ne _ _ _ _ hj, ctx_apartFromPosts]
theorem packets_posted : ((s.posted core k).core core).packets = (s.core core).packets := by
  obtain ⟨d, h⟩ := core_posted s core k
  rw [← packets_apartFromPosts, h, coreModCtx_packets, packets_apartFromPosts]
theorem savedCtx_posted : ((s.posted core k).core core).savedCtx = (s.core core).savedCtx := by
  obtain ⟨d, h⟩ := core_posted s core k
  rw [← savedCtx_apartFromPosts, h, coreModCtx_savedCtx, savedCtx_apartFromPosts]

end Posted

end Sys2Proof.Machine
end

section
/-!
PROOFS. The watchdog, the end of a slice and its saves, and faults found late (R37 to R40, R269, R366, R369).
-/

namespace Sys2Proof.Machine

theorem event_next {b : Bool} (h : b = true) (s : State) : event b s = .next s := if_pos h

theorem core_event_ok {core k : Nat} (hcore : coreIn core = true) (hk : k < 11) : (coreIn core && decide (k < 11)) = true := by
  rw [hcore, decide_eq_true hk]; rfl

/-! ## What stopping a context keeps of it -/

/-- Two contexts with the same registers, masks, views and streams, at the same word and group. -/
structure Ctx.SameWork (c d : Ctx) : Prop where
  x : d.x = c.x
  v : d.v = c.v
  m : d.m = c.m
  w : d.w = c.w
  q : d.q = c.q
  pc : d.pc = c.pc
  group : d.group = c.group

theorem Ctx.SameWork.refl (c : Ctx) : c.SameWork c := ⟨rfl, rfl, rfl, rfl, rfl, rfl, rfl⟩
theorem Ctx.SameWork.trans {c d e : Ctx} (h : c.SameWork d) (k : d.SameWork e) : c.SameWork e :=
  ⟨k.x.trans h.x, k.v.trans h.v, k.m.trans h.m, k.w.trans h.w, k.q.trans h.q, k.pc.trans h.pc, k.group.trans h.group⟩

theorem Ctx.SameWork.faultPc {c d : Ctx} (h : c.SameWork d) : d.faultPc = c.faultPc := by
  rw [Ctx.faultPc, Ctx.faultPc, h.group, h.pc]

theorem sameWork_mark (c : Ctx) (r : RegName) (full : Bool) : c.SameWork (c.mark r full) := by
  cases r with
  | x i =>
    unfold Ctx.mark
    dsimp only
    split
    · exact .refl c
    · exact ⟨rfl, rfl, rfl, rfl, rfl, rfl, rfl⟩
  | v i => exact ⟨rfl, rfl, rfl, rfl, rfl, rfl, rfl⟩
  | m i => exact .refl c
  | w i => exact ⟨rfl, rfl, rfl, rfl, rfl, rfl, rfl⟩

theorem sameWork_markDest (c : Ctx) (d : Dest) (full : Bool) : c.SameWork (c.markDest d full) := by
  unfold Ctx.markDest
  generalize d.regs = l
  induction l generalizing c with
  | nil => exact .refl c
  | cons r l ih => exact (sameWork_mark c r full).trans (ih _)

theorem sameWork_unstall (c : Ctx) : c.SameWork c.unstall := by
  unfold Ctx.unstall
  split
  · exact .refl c
  · exact (sameWork_markDest ..).trans ⟨rfl, rfl, rfl, rfl, rfl, rfl, rfl⟩


/-- What R38 and R369 leave of a context that is saved. -/
structure Ctx.Saved (c d : Ctx) : Prop where
  state : d.state = if c.state = .frozen then .frozen else .saved
  x : d.x = c.x
  v : d.v = c.v
  m : d.m = c.m
  w : d.w = c.w
  q : d.q = c.q
  pc : d.pc = if c.state = .frozen then c.pc else c.faultPc
  group : c.state ≠ .frozen → d.group = none

theorem saved_rollBack {c d : Ctx} (hc : c.state ≠ .frozen) (h : c.SameWork d) : c.Saved { d.rollBack with state := .saved } :=
  { state := by rw [if_neg hc]
    x := h.x, v := h.v, m := h.m, w := h.w, q := h.q
    pc := by rw [if_neg hc]; exact h.faultPc
    group := fun _ => rfl }

theorem saved_save (c : Ctx) : c.Saved c.save := by
  unfold Ctx.save
  split
  next h =>
    exact { state := by rw [if_pos h, h]
            x := rfl, v := rfl, m := rfl, w := rfl, q := rfl
            pc := by rw [if_pos h]
            group := fun hc => absurd h hc }
  next h => exact saved_rollBack (by rw [h]; decide) (sameWork_unstall c)
  next h _ => exact saved_rollBack h (.refl c)

/-! ## Faults of a context that does not act -/

/-- A core with one packet more. -/
def Core.withPacket (c : Core) (p : List Word × List Cover) : Core := { c with packets := c.packets ++ [p] }

theorem ctx_withPacket (c : Core) (p : List Word × List Cover) (j : Nat) : (c.withPacket p).ctx j = c.ctx j := rfl
theorem packets_withPacket (c : Core) (p : List Word × List Cover) : (c.withPacket p).packets.length = c.packets.length + 1 :=
  List.length_append

section RaiseOf
variable (s : State) (core k : Nat)

theorem core_packetOf_withPacket (ws : List Word) :
    (s.packetOf core k ws).core core = (s.core core).withPacket (ws, [⟨core, k, s.seq⟩]) := core_packetOf ..

theorem core_raise (f : FaultInfo) : ∃ p, (s.raise f).core s.cur.1 = (s.me.withPacket p).modCtx s.cur.2 Ctx.freeze := by
  let ws := packetWords s.cur.1 s.cur.2 f s.ctx.faultPc s.ctx.region.domain s.ctx.faultWord
  refine ⟨(ws, [⟨s.cur.1, s.cur.2, s.seq⟩]), ?_⟩
  rw [State.raise, State.modCtx, State.modMe, cur_packetOf, core_modCore_self, core_packetOf_withPacket, State.me]

/-- The state with another context acting. -/
def State.actingAs (s : State) (core k : Nat) : State := { s with cur := (core, k) }
theorem cores_raiseOf (f : FaultInfo) : (s.raiseOf core k f).cores = ((s.actingAs core k).raise f).cores := rfl

/-- A precise fault of any context: one packet more, and the context stopped. -/
theorem core_raiseOf (f : FaultInfo) : ∃ p, (s.raiseOf core k f).core core = ((s.core core).withPacket p).modCtx k Ctx.freeze := by
  obtain ⟨p, h⟩ := core_raise (s.actingAs core k) f
  have hself : ((s.actingAs core k).raise f).core core = ((s.core core).withPacket p).modCtx k Ctx.freeze := h
  exact ⟨p, by rw [← hself, State.core, cores_raiseOf, State.core]⟩

theorem ctx_raiseOf (f : FaultInfo) : ((s.raiseOf core k f).core core).ctx k = ((s.core core).ctx k).freeze := by
  obtain ⟨p, h⟩ := core_raiseOf s core k f
  rw [h, ctx_coreModCtx_self, ctx_withPacket]
theorem packets_raiseOf (f : FaultInfo) : ((s.raiseOf core k f).core core).packets.length = (s.core core).packets.length + 1 := by
  obtain ⟨p, h⟩ := core_raiseOf s core k f
  rw [h, coreModCtx_packets, packets_withPacket]

end RaiseOf

/-! ## The watchdog (R37, R39, R369) -/

/-- A BANKMODE a context waits in is to be issued again (R219). -/
def Core.dropBankWait (c : Core) (k : Nat) : Core := { c with bankWait := c.bankWait.filter fun w => w.1 != k }

theorem ctx_dropBankWait (c : Core) (k j : Nat) : (c.dropBankWait k).ctx j = c.ctx j := rfl
theorem packets_dropBankWait (c : Core) (k : Nat) : (c.dropBankWait k).packets = c.packets := rfl

theorem core_saveImage (s : State) (core k n : Nat) : (s.saveImage core k).core n = s.core n := by
  rw [State.core, saveImage_cores, State.core]

/-- What a run counter at zero makes of a state, outside a save (R37). -/
def State.watchdogFired (s : State) (core k : Nat) : State :=
  ((((s.posted core k).modCtxOf core k Ctx.rollBack).modCore core (·.dropBankWait k)).raiseOf core k (plain .watchdog)).saveImage core k

section Fired
variable (s : State) (core k : Nat)

theorem ctx_watchdogFired : ∃ d, ((s.watchdogFired core k).core core).ctx k = (((s.core core).ctx k).withDelta d).rollBack.freeze := by
  obtain ⟨d, h⟩ := ctx_posted_self s core k
  exact ⟨d, by rw [State.watchdogFired, core_saveImage, ctx_raiseOf, core_modCore_self, ctx_dropBankWait, ctxOf_modCtxOf, h]⟩

theorem packets_watchdogFired : ((s.watchdogFired core k).core core).packets.length = (s.core core).packets.length + 1 := by
  rw [State.watchdogFired, core_saveImage, packets_raiseOf, core_modCore_self, packets_dropBankWait, State.modCtxOf, core_modCore_self,
    coreModCtx_packets, packets_posted]

end Fired

section Reset
variable (core : Nat) (ws : State → Nat → List Word)

theorem packets_foldl_packetOf (l : List Nat) (s : State) :
    ((l.foldl (fun s j => s.packetOf core j (ws s j)) s).core core).packets.length = (s.core core).packets.length + l.length := by
  induction l generalizing s with
  | nil => rfl
  | cons j l ih => rw [List.foldl_cons, ih, core_packetOf_withPacket, packets_withPacket, List.length_cons]; omega

end Reset

/-- The core of a killed state: what R39 sets, and the packets of its live contexts. -/
theorem core_resetCore (s : State) (core k : Nat) : let c := (s.resetCore core k).core core
    c.killing = some 21 ∧ c.saving = none ∧
    c.packets.length = (s.core core).packets.length + ((List.range 11).filter fun j => ((s.core core).ctx j).state != .free).length := by
  rw [State.resetCore, core_modCore_self]
  exact ⟨rfl, rfl, packets_foldl_packetOf ..⟩

section Watchdog
variable {core k : Nat} {s : State}

/-- A run counter that does not run at zero, or has been reported, is left alone. -/
theorem watchdogExpire_idle (hcore : coreIn core = true) (hk : k < 11)
    (h : ((s.core core).ctx k).wdleft ≠ 0 ∨ (((s.core core).ctx k).state ≠ .running ∧ ((s.core core).ctx k).state ≠ .waiting) ∨
      ((s.core core).ctx k).forced = true ∨ (s.core core).killing ≠ none) : execWatchdogExpire core k s = .next s := by
  unfold execWatchdogExpire
  rw [event_next (core_event_ok hcore hk)]
  dsimp only
  rw [if_pos]
  rcases h with h | ⟨h, h'⟩ | h | h
  · simp [show ¬ ((s.core core).ctx k).wdleft = 0#32 from h]
  · simp [h, h']
  · simp [h]
  · simp [Option.isSome_iff_ne_none.mpr h]

/-- What runs out at zero: the branches left once the counter counts. -/
theorem watchdogExpire_live (hcore : coreIn core = true) (hk : k < 11) (hleft : ((s.core core).ctx k).wdleft = 0)
    (hrun : ((s.core core).ctx k).state = .running ∨ ((s.core core).ctx k).state = .waiting)
    (hforced : ((s.core core).ctx k).forced = false) (hkill : (s.core core).killing = none) : execWatchdogExpire core k s =
      .next (if (s.core core).ending = false then s.watchdogFired core k
        else if (s.core core).saving.any (·.1 == k) then s.resetCore core k
        else s.modCtxOf core k fun x => { x with forced := true }) := by
  unfold execWatchdogExpire
  rw [event_next (core_event_ok hcore hk)]
  dsimp only
  rw [if_neg (by rcases hrun with h | h <;> simp [hleft, h, hforced, hkill])]
  simp only [Bool.not_eq_true', State.watchdogFired, State.posted]
  rfl

end Watchdog

/-! ## The turns of the saves (R369) -/

section NextSave
variable {c : Core} {lo j : Nat}

theorem isLive_iff {x : Ctx} : x.isLive = true ↔ x.state ≠ .free := bne_iff_ne

/-- The next save is the lowest live context's that has not been saved. -/
theorem nextSave_eq_some (hlo : lo ≤ j) (hj : j < 11) (hlive : (c.ctx j).state ≠ .free) (hsaved : c.savedCtx.getLsbD j = false)
    (hlow : ∀ i, lo ≤ i → i < j → (c.ctx i).state = .free ∨ c.savedCtx.getLsbD i = true) : c.nextSave lo = some j := by
  refine List.find?_range_eq_some.mpr ⟨?_, List.mem_range.mpr hj, fun i hi => ?_⟩
  · simp [hlo, isLive_iff.mpr hlive, hsaved]
  · by_cases h : lo ≤ i
    · rcases hlow i h hi with hfree | hdone
      · simp [Ctx.isLive, hfree]
      · simp [hdone]
    · simp [h]

theorem nextSave_eq_none (h : ∀ i, lo ≤ i → i < 11 → (c.ctx i).state = .free ∨ c.savedCtx.getLsbD i = true) : c.nextSave lo = none := by
  refine List.find?_range_eq_none.mpr fun i hi => ?_
  by_cases hlo : lo ≤ i
  · rcases h i hlo hi with hfree | hdone
    · simp [Ctx.isLive, hfree]
    · simp [hdone]
  · simp [hlo]

end NextSave

/-! ## The grace interval's end (R38, R269) -/

theorem ctx_modAll (c : Core) (f : Ctx → Ctx) (k : Nat) : (c.modAll f).ctx k = f (c.ctx k) := by
  simp [Core.modAll, Core.ctx]

/-- An arrival at the barrier that waits is withdrawn (R269). -/
def Ctx.withdraw (x : Ctx) : Ctx := { x with arrival := x.arrival.filter fun a => a.phase != .waiting }

/-- A core with no context's save done. -/
def Core.unsaved (c : Core) : Core := { c with savedCtx := 0 }

/-- A core whose contexts have stopped: the first live one's save begins. -/
def Core.endSlice (c : Core) : Core :=
  { c.modAll Ctx.withdraw with ending := true, savedCtx := 0, saving := (c.unsaved.nextSave 0).map fun k => (k, 47) }

theorem ctx_endSlice (c : Core) (k : Nat) : c.endSlice.ctx k = (c.ctx k).withdraw := ctx_modAll c Ctx.withdraw k
theorem saving_endSlice (c : Core) : c.endSlice.saving = (c.unsaved.nextSave 0).map fun k => (k, 47) := rfl

theorem saving_endSlice_some {c : Core} {k : Nat} (hk : k < 11) (hlive : (c.ctx k).state ≠ .free)
    (hlow : ∀ j < k, (c.ctx j).state = .free) : c.endSlice.saving = some (k, 47) := by
  have h : c.unsaved.nextSave 0 = some k := nextSave_eq_some (Nat.zero_le k) hk hlive (BitVec.getLsbD_zero) fun j _ hj => .inl (hlow j hj)
  rw [saving_endSlice, h]
  rfl
theorem saving_endSlice_none {c : Core} (hfree : ∀ k < 11, (c.ctx k).state = .free) : c.endSlice.saving = none := by
  have h : c.unsaved.nextSave 0 = none := nextSave_eq_none fun k _ hk => .inl (hfree k hk)
  rw [saving_endSlice, h]
  rfl

section Grace
variable {core : Nat} {s : State}

theorem graceExpire_idle (hcore : coreIn core = true)
    (h : (s.core core).stopping = false ∨ (s.core core).ending = true ∨ (s.core core).grace ≠ 0) :
    execGraceExpire core s = .next s := by
  unfold execGraceExpire
  rw [event_next hcore]
  dsimp only
  rw [if_pos (by rcases h with h | h | h <;> simp [h])]

theorem graceExpire_ends (hcore : coreIn core = true) (hstop : (s.core core).stopping = true) (hend : (s.core core).ending = false)
    (hgrace : (s.core core).grace = 0) : execGraceExpire core s = .next (s.modCore core Core.endSlice) := by
  unfold execGraceExpire
  rw [event_next hcore]
  dsimp only
  rw [if_neg (by simp [hstop, hend, hgrace])]
  rfl

end Grace

/-! ## A context's save (R38, R264, R369) -/

section Busy
variable {c : Core}

theorem arraysIdle_eq_false (h : ∃ a < 8, (c.tile a).busy = true) : c.arraysIdle = false := by
  obtain ⟨a, ha, hbusy⟩ := h
  have hmem : c.tile a ∈ c.tiles.toList := by rw [Core.tile, Vector.mem_toList_iff]; exact Vector.getElem_mem _
  have hall : (c.tiles.toList.all fun t => !t.busy) = false := List.all_eq_false.mpr ⟨_, hmem, by simp [hbusy]⟩
  rw [Core.arraysIdle, hall, Bool.false_and]

theorem arraysIdle_eq_true (hdrain : c.drain = none) (h : ∀ a < 8, (c.tile a).busy = false) : c.arraysIdle = true := by
  have hall : (c.tiles.toList.all fun t => !t.busy) = true := List.all_eq_true.mpr fun t ht => by
    obtain ⟨a, ha, rfl⟩ := Vector.getElem_of_mem (Vector.mem_toList_iff.mp ht)
    have hidle := h a ha
    simp only [Core.tile, Nat.mod_eq_of_lt ha] at hidle
    rw [hidle]; rfl
  rw [Core.arraysIdle, hall, hdrain]
  rfl

end Busy

/-- A context whose watchdog is no longer to be reported in its save. -/
def Ctx.unforced (c : Ctx) : Ctx := { c with forced := false }

/-- A core whose context's save has ended: the next one's turn begins. -/
def Core.nextTurn (c : Core) (k : Nat) : Core :=
  { c with savedCtx := c.savedCtx ||| (1 <<< k), saving := (c.nextSave (k + 1)).map fun j => (j, 48) }

theorem ctx_nextTurn (c : Core) (k j : Nat) : (c.nextTurn k).ctx j = c.ctx j := rfl
theorem packets_nextTurn (c : Core) (k : Nat) : (c.nextTurn k).packets = c.packets := rfl
theorem saving_nextTurn (c : Core) (k : Nat) : (c.nextTurn k).saving = (c.nextSave (k + 1)).map fun j => (j, 48) := rfl
theorem savedCtx_nextTurn_self (c : Core) {k : Nat} (hk : k < 11) : (c.nextTurn k).savedCtx.getLsbD k = true := by
  rw [Core.nextTurn, BitVec.getLsbD_or, BitVec.natCast_eq_ofNat, BitVec.getLsbD_ofNat, Nat.testBit_shiftLeft]
  simp [hk]

/-- The end of a context's save, once it stands as its image is to show it. -/
def State.endSave (s : State) (core k : Nat) : State :=
  ((s.modCtxOf core k Ctx.unforced).saveImage core k).modCore core (·.nextTurn k)

theorem core_endSave (s : State) (core k : Nat) :
    (s.endSave core k).core core = ((s.core core).modCtx k Ctx.unforced).nextTurn k := by
  rw [State.endSave, core_modCore_self, core_saveImage, State.modCtxOf, core_modCore_self]

/-- What a save makes of a state at a context's turn (R369). -/
def State.savedTurn (s : State) (core k : Nat) : State :=
  (if ((s.core core).ctx k).forced then ((s.posted core k).modCtxOf core k Ctx.rollBack).raiseOf core k (plain .watchdog)
    else (s.posted core k).modCtxOf core k Ctx.save).endSave core k

section ContextSave
variable {core k n : Nat} {s : State}

theorem contextSave_idle (hcore : coreIn core = true) (hturn : (s.core core).saving = some (k, n))
    (h : n ≠ 0 ∨ ((s.core core).ctx k).state = .loading ∨ ((s.core core).ctx k).pends ≠ [] ∨ ∃ a < 8, ((s.core core).tile a).busy = true) :
    execContextSave core s = .next s := by
  unfold execContextSave
  rw [event_next hcore]
  simp only [hturn]
  rw [if_pos]
  rcases h with h | h | h | h
  · simp [h]
  · simp [h]
  · simp [h]
  · simp [arraysIdle_eq_false h]

theorem contextSave_done (hcore : coreIn core = true) (hturn : (s.core core).saving = some (k, 0))
    (hload : ((s.core core).ctx k).state ≠ .loading) (hpends : ((s.core core).ctx k).pends = []) (hword : (s.core core).midWord k = false)
    (hdrain : (s.core core).drain = none) (hidle : ∀ a < 8, ((s.core core).tile a).busy = false) :
    execContextSave core s = .next (s.savedTurn core k) := by
  unfold execContextSave
  rw [event_next hcore]
  simp only [hturn]
  rw [if_neg (by simp [arraysIdle_eq_true hdrain hidle, hload, hpends, hword])]
  rfl

end ContextSave

section Turn
variable (s : State) (core k : Nat)

/-- The core a save leaves, at a context whose watchdog has not run out, before the next turn begins. -/
def State.turned : Core := (((s.posted core k).modCtxOf core k Ctx.save).core core).modCtx k Ctx.unforced

theorem core_savedTurn_of_not_forced (h : ((s.core core).ctx k).forced = false) :
    (s.savedTurn core k).core core = (s.turned core k).nextTurn k := by
  rw [State.savedTurn, if_neg (by rw [h]; decide), core_endSave, State.turned]

theorem ctx_turned_self : ∃ d, (s.turned core k).ctx k = (((s.core core).ctx k).withDelta d).save.unforced := by
  obtain ⟨d, h⟩ := ctx_posted_self s core k
  exact ⟨d, by rw [State.turned, ctx_coreModCtx_self, ctxOf_modCtxOf, h]⟩
theorem ctx_turned_ne {j : Nat} (hj : j % 11 ≠ k % 11) : (s.turned core k).ctx j = (s.core core).ctx j := by
  rw [State.turned, ctx_coreModCtx_ne _ _ _ _ hj, State.modCtxOf, core_modCore_self, ctx_coreModCtx_ne _ _ _ _ hj, ctx_posted_ne s core k hj]
theorem savedCtx_turned : (s.turned core k).savedCtx = (s.core core).savedCtx := by
  rw [State.turned, coreModCtx_savedCtx, State.modCtxOf, core_modCore_self, coreModCtx_savedCtx, savedCtx_posted]

theorem saved_turned : ((s.core core).ctx k).Saved ((s.turned core k).ctx k) := by
  obtain ⟨d, h⟩ := ctx_turned_self s core k
  rw [h]
  exact { saved_save (((s.core core).ctx k).withDelta d) with }

/-- A core one of whose contexts is saved: whose turn comes next. -/
theorem nextSave_turned_some {j : Nat} (hk : k < j) (hj : j < 11) (hlive : ((s.core core).ctx j).state ≠ .free)
    (hsaved : (s.core core).savedCtx.getLsbD j = false)
    (hlow : ∀ i, k < i → i < j → ((s.core core).ctx i).state = .free ∨ (s.core core).savedCtx.getLsbD i = true) :
    (s.turned core k).nextSave (k + 1) = some j := by
  have hctx : ∀ i, k < i → i < 11 → (s.turned core k).ctx i = (s.core core).ctx i := fun i hi hi' =>
    ctx_turned_ne s core k (by omega)
  refine nextSave_eq_some hk hj ?_ ?_ fun i hi hij => ?_
  · rwa [hctx j hk hj]
  · rwa [savedCtx_turned]
  · rw [hctx i hi (by omega), savedCtx_turned]
    exact hlow i hi hij
theorem nextSave_turned_none
    (hlow : ∀ i, k < i → i < 11 → ((s.core core).ctx i).state = .free ∨ (s.core core).savedCtx.getLsbD i = true) :
    (s.turned core k).nextSave (k + 1) = none := by
  refine nextSave_eq_none fun i hi hi' => ?_
  rw [ctx_turned_ne s core k (by omega), savedCtx_turned]
  exact hlow i hi hi'

/-- A save whose context's watchdog has run out reports it (R369). -/
theorem savedTurn_forced (h : ((s.core core).ctx k).forced = true) :
    (∃ d, ((s.savedTurn core k).core core).ctx k = (((s.core core).ctx k).withDelta d).rollBack.freeze.unforced) ∧
    ((s.savedTurn core k).core core).packets.length = (s.core core).packets.length + 1 := by
  rw [State.savedTurn, if_pos h, core_endSave]
  constructor
  · obtain ⟨d, hd⟩ := ctx_posted_self s core k
    exact ⟨d, by rw [ctx_nextTurn, ctx_coreModCtx_self, ctx_raiseOf, ctxOf_modCtxOf, hd]⟩
  · rw [packets_nextTurn, coreModCtx_packets, packets_raiseOf, State.modCtxOf, core_modCore_self, coreModCtx_packets, packets_posted]

end Turn

/-! ## The save of the message state (R38, R366) -/

section Messages
variable {core : Nat} {s : State}

/-- A core whose message state stands in its save area. -/
def Core.setMsgSaved (c : Core) : Core := { c with msgSaved := true }

/-- The state once a core's message state is saved, before its pound is looked at. -/
def State.messagesSaved (s : State) (core : Nat) : State := (s.saveMessages core).modCore core Core.setMsgSaved

theorem messagesSaved_eq (s : State) (core : Nat) :
    (s.saveMessages core).modCore core (fun c => { c with msgSaved := true }) = s.messagesSaved core := rfl
theorem core_messagesSaved_self (s : State) (core : Nat) : (s.messagesSaved core).core core = (s.core core).setMsgSaved := by
  rw [State.messagesSaved, core_modCore_self, State.core, saveMessages_cores, State.core]
theorem core_messagesSaved_ne (s : State) {core n : Nat} (h : n ≠ core) : (s.messagesSaved core).core n = s.core n := by
  rw [State.messagesSaved, core_modCore_ne _ _ _ _ h, State.core, saveMessages_cores, State.core]
theorem pounds_messagesSaved (s : State) (core : Nat) : (s.messagesSaved core).pounds = s.pounds := by
  rw [State.messagesSaved, modCore_pounds, saveMessages_pounds]

theorem messageStateSave_idle (hcore : coreIn core = true) (h : (s.core core).ending = false ∨ (s.core core).saving ≠ none ∨
    (s.core core).msgSaved = true ∨ (s.core core).stores ≠ [] ∨ (s.core core).relays ≠ []) :
    execMessageStateSave core s = .next s := by
  unfold execMessageStateSave
  rw [event_next hcore]
  dsimp only
  rw [if_pos]
  rcases h with h | h | h | h | h
  · simp [h]
  · simp [Option.isSome_iff_ne_none.mpr h]
  · simp [h]
  · simp [h]
  · simp [h]

/-- A pound's device is no longer resident (R38). -/
def State.vacate (s : State) (p : Pound) : State :=
  (s.modPound p.record.node.toNat fun p => { p with resident := none }).modVd
    ((p.resident.map (·.toNat)).getD 0) fun v => { v with ending := false }

theorem core_vacate (s : State) (p : Pound) (n : Nat) : (s.vacate p).core n = s.core n := rfl

/-- The pound's device leaves it once every core of the pound has saved (R38). -/
theorem messageStateSave_saves {p : Pound} (hcore : coreIn core = true) (hend : (s.core core).ending = true)
    (hturn : (s.core core).saving = none) (hkill : (s.core core).killing = none) (hmsg : (s.core core).msgSaved = false)
    (hstores : (s.core core).stores = []) (hatoms : (s.core core).atomsOut = []) (hrelays : (s.core core).relays = [])
    (hlog : ∀ e ∈ (s.core core).sideLog, e.sent = false) (hpound : s.poundOf (clusterOf core) = some p) :
    execMessageStateSave core s = .next (if !(s.messagesSaved core).allSaved p then s.messagesSaved core
      else (s.messagesSaved core).vacate p) := by
  have hsent : (s.core core).sideLog.any (·.sent) = false := List.any_eq_false.mpr fun e he => by simp [hlog e he]
  have hpound' : (s.messagesSaved core).poundOf (clusterOf core) = some p := by
    rw [State.poundOf, pounds_messagesSaved]; exact hpound
  unfold execMessageStateSave
  rw [event_next hcore]
  dsimp only
  rw [if_neg (by simp [hend, hturn, hkill, hmsg, hstores, hatoms, hrelays, hsent])]
  rw [messagesSaved_eq, hpound']
  rfl

end Messages

/-! ## A core whose device is resident again (R38, R48, R334, R366) -/

/-- A core apart from what its resuming gives anew: its SYSBASE, and the launches that enter its spawn queue. -/
def Core.apartFromLaunches (c : Core) : Core := { c with sysbase := 0, spawnQ := [], sluiceDue := false }

theorem ctx_apartFromLaunches (c : Core) (k : Nat) : c.apartFromLaunches.ctx k = c.ctx k := rfl
theorem chans_apartFromLaunches (c : Core) : c.apartFromLaunches.chans = c.chans := rfl
theorem msgSaved_apartFromLaunches (c : Core) : c.apartFromLaunches.msgSaved = c.msgSaved := rfl
theorem stopping_apartFromLaunches (c : Core) : c.apartFromLaunches.stopping = c.stopping := rfl

section Launches
variable (s : State) (core : Nat)

theorem takeLaunches_core (i n : Nat) : ((s.takeLaunches core i n).core core).apartFromLaunches = (s.core core).apartFromLaunches := by
  induction n generalizing s with
  | zero => rfl
  | succ n ih =>
    rw [State.takeLaunches]
    split
    · split
      · rfl
      · rw [ih, core_modCore_self]; rfl
    · rfl
theorem takeLaunches_mem (i n : Nat) : (s.takeLaunches core i n).mem = s.mem := by
  induction n generalizing s with
  | zero => rfl
  | succ n ih =>
    rw [State.takeLaunches]
    split
    · split
      · rfl
      · rw [ih]; rfl
    · rfl

theorem ringLaunches_core : ((s.ringLaunches core).core core).apartFromLaunches = (s.core core).apartFromLaunches := by
  unfold State.ringLaunches
  split
  · rfl
  · split
    · rfl
    · exact takeLaunches_core ..
theorem ringLaunches_mem : (s.ringLaunches core).mem = s.mem := by
  unfold State.ringLaunches
  split
  · rfl
  · split
    · rfl
    · exact takeLaunches_mem ..

theorem placeSysbase_core (tag : Nat) : ((s.placeSysbase core tag).core core).apartFromLaunches = (s.core core).apartFromLaunches := by
  unfold State.placeSysbase
  dsimp only
  split
  · rw [core_modCore_self]; rfl
  · rfl
theorem placeSysbase_mem (tag : Nat) : (s.placeSysbase core tag).mem = s.mem := by
  unfold State.placeSysbase
  dsimp only
  split <;> rfl

end Launches

/-- A saved context runs again. -/
def Ctx.resumed (x : Ctx) : Ctx := if x.state = .saved then { x with state := .running } else x

/-- A core that holds what it saved, and runs again. -/
def Core.resumed (c : Core) : Core := (c.restored c).modAll Ctx.resumed

theorem ctx_resumed (c : Core) (k : Nat) : c.resumed.ctx k = (c.ctx k).resumed := ctx_modAll (c.restored c) _ k

/-- The state once a core that holds its device's own state resumes. -/
def State.resumed (s : State) (core : Nat) : State :=
  ((s.modCore core Core.resumed).placeSysbase core (s.tagOf core).toNat).ringLaunches core

theorem core_resumed (s : State) (core : Nat) :
    ((s.resumed core).core core).apartFromLaunches = (s.core core).resumed.apartFromLaunches := by
  rw [State.resumed, ringLaunches_core, placeSysbase_core, core_modCore_self]

theorem modCore_congr {s : State} {n : Nat} {f g : Core → Core} (h : f (s.core n) = g (s.core n)) : s.modCore n f = s.modCore n g := by
  rw [State.modCore, State.modCore, h]

section Resume
variable {core : Nat} {s : State}

theorem poundResume_idle (hcore : coreIn core = true) (h : (s.core core).msgSaved = false ∨ s.tagOf core = 0) :
    execPoundResume core s = .next s := by
  unfold execPoundResume
  rw [event_next hcore]
  dsimp only
  rw [if_pos (by rcases h with h | h <;> simp [h])]

theorem poundResume_own (hcore : coreIn core = true) (hmsg : (s.core core).msgSaved = true) (htag : s.tagOf core ≠ 0)
    (hown : (s.core core).devTag = s.tagOf core) : execPoundResume core s = .next (s.resumed core) := by
  have hself : (s.modCore core fun c => (c.restored (s.core core)).modAll Ctx.resumed) = s.modCore core Core.resumed :=
    modCore_congr rfl
  unfold execPoundResume
  rw [event_next hcore]
  dsimp only
  rw [if_neg (by simpa [hmsg] using htag), if_pos hown]
  rw [State.resumed, ← hself]
  rfl

end Resume

/-- What a saved core that resumes leaves (R366). -/
theorem resumed_spec (s : State) (core : Nat) : let d := (s.resumed core).core core
    (s.resumed core).mem = s.mem ∧ d.msgSaved = false ∧ d.stopping = false ∧ d.chans = (s.core core).chans ∧
    ∀ k, d.ctx k = ((s.core core).ctx k).resumed := by
  have h := core_resumed s core
  refine ⟨?_, ?_, ?_, ?_, fun k => ?_⟩
  · rw [State.resumed, ringLaunches_mem, placeSysbase_mem, modCore_mem]
  · rw [← msgSaved_apartFromLaunches, h]; rfl
  · rw [← stopping_apartFromLaunches, h]; rfl
  · rw [← chans_apartFromLaunches, h]; rfl
  · rw [← ctx_apartFromLaunches, h, ctx_apartFromLaunches, ctx_resumed]

/-! ## Faults found late (R40) -/

/-- A context at which a fault found late is taken. -/
def Ctx.takeDeferred (c : Ctx) (d : Deferred) : Ctx := { c.freeze with fpc := d.fpc, deferred := c.deferred.drop 1 }

section Deferred
variable (s : State) (core k : Nat) (d : Deferred)

theorem core_raiseDeferred : ∃ p, (s.raiseDeferred core k d).core core = ((s.core core).withPacket p).modCtx k (·.takeDeferred d) := by
  let c := (s.core core).ctx k
  refine ⟨(packetWords core k d.info c.faultPc c.region.domain c.ir, [⟨core, k, s.seq⟩]), ?_⟩
  rw [State.raiseDeferred, State.modCtxOf, core_modCore_self, core_packetOf_withPacket]
  rfl
theorem mem_raiseDeferred : (s.raiseDeferred core k d).mem = s.mem := by
  rw [State.raiseDeferred, modCtxOf_mem, mem_packetOf]

end Deferred

section DeferredTake
variable {core k : Nat} {s : State} {d : Deferred} {ds : List Deferred}

theorem deferredFaultTake_eq (hcore : coreIn core = true) (hk : k < 11) (hd : ((s.core core).ctx k).deferred = d :: ds) :
    execDeferredFaultTake core k s = .next (if ((s.core core).ctx k).state = .running ∨ ((s.core core).ctx k).state = .waiting then
      s.raiseDeferred core k d else s) := by
  unfold execDeferredFaultTake
  rw [event_next (core_event_ok hcore hk)]
  simp only [hd, Bool.or_eq_true, decide_eq_true_eq]

end DeferredTake

/-! ## The obligation -/

section Clauses
variable {core k : Nat} {s : State}

/-- A run counter at zero outside a save (R37). -/
theorem watchdogFired_spec (s : State) (core k : Nat) : let x := (s.core core).ctx k
    let t := s.watchdogFired core k
    ((t.core core).ctx k).state = .frozen ∧ ((t.core core).ctx k).pc = x.faultPc ∧ ((t.core core).ctx k).x = x.x ∧
      ((t.core core).ctx k).v = x.v ∧ (t.core core).packets.length = (s.core core).packets.length + 1 := by
  obtain ⟨d, h⟩ := ctx_watchdogFired s core k
  refine ⟨?_, ?_, ?_, ?_, packets_watchdogFired ..⟩ <;> rw [h] <;> rfl

/-- A pound whose other core has not saved keeps its device (R38). -/
theorem allSaved_messagesSaved {p : Pound} (h : ∃ k ∈ nodeClusters p.record.node, ∃ n ∈ coresOfCluster k, n ≠ core ∧ (s.core n).msgSaved = false) :
    (s.messagesSaved core).allSaved p = false := by
  obtain ⟨k, hk, n, hn, hne, hunsaved⟩ := h
  refine List.all_eq_false.mpr ⟨k, hk, ?_⟩
  rw [Bool.not_eq_true]
  exact List.all_eq_false.mpr ⟨n, hn, by rw [core_messagesSaved_ne s hne, hunsaved]; decide⟩

end Clauses

/-- Settles O49, clause by clause: each event of the watchdog, of a slice's end and of a late fault is one equation, and what
it leaves follows from what posting counts, raising faults and writing images leave of a core. -/
theorem watchdogsAndSlices : Obligations.WatchdogsAndSlices := by
  unfold Obligations.WatchdogsAndSlices
  refine ⟨fun core k s hcore hk => ⟨fun h => ?watchdogIdle, fun hleft hrun hforced hkill => ?watchdogExpires⟩,
    ⟨fun core g s hcore hsignal => ?sliceEnds, fun core s hcore => ⟨fun h => ?graceIdle, fun hstop hend hgrace => ?graceEnds⟩,
      fun core k n s hcore hk hturn => ⟨fun h => ?saveWaits, fun hn hload hpends hword hdrain hidle => ?saveDone⟩,
      fun core s p hcore => ⟨fun h => ?messagesWait, fun hend hturn hkill hmsg hstores hatoms hrelays hlog hpound => ?messagesSaved⟩,
      fun core s hcore => ⟨fun h => ?resumeIdle, fun hmsg htag hown => ?resumes⟩⟩,
    fun core k s d ds hcore hk hd => ⟨fun hrun => ?faultTaken, fun hrun hwait => ?faultWaits⟩⟩
  case watchdogIdle => exact watchdogExpire_idle hcore hk h
  case watchdogExpires =>
    have hrun' := watchdogExpire_live hcore hk hleft hrun hforced hkill
    refine ⟨fun hend => ⟨s.watchdogFired core k, ?_, watchdogFired_spec s core k⟩,
      fun hend hown => ⟨s.resetCore core k, ?_, core_resetCore s core k⟩,
      fun hend hother => ⟨s.modCtxOf core k fun x => { x with forced := true }, ?_, ctxOf_modCtxOf .., fun j hj => ?_⟩⟩
    · rw [exec_watchdogExpire, hrun', if_pos hend]
    · rw [exec_watchdogExpire, hrun', if_neg (by rw [hend]; decide), if_pos hown]
    · rw [exec_watchdogExpire, hrun', if_neg (by rw [hend]; decide), if_neg (by rw [hother]; decide)]
    · rw [State.modCtxOf, core_modCore_self, ctx_coreModCtx_ne _ _ _ _ hj]
  case sliceEnds =>
    rw [exec_sliceEndSignal, execSliceEndSignal, event_next hcore, hsignal]
  case graceIdle => exact graceExpire_idle hcore h
  case graceEnds =>
    have hcoreT : (s.modCore core Core.endSlice).core core = (s.core core).endSlice := core_modCore_self ..
    refine ⟨s.modCore core Core.endSlice, graceExpire_ends hcore hstop hend hgrace, rfl, ?_, fun k _ => ?_, fun k hk hlive hlow => ?_,
      fun hfree => ?_⟩
    · rw [hcoreT]; rfl
    · rw [hcoreT, ctx_endSlice]; exact ⟨rfl, rfl, rfl⟩
    · rw [hcoreT]; exact ⟨47, saving_endSlice_some hk hlive hlow⟩
    · rw [hcoreT]; exact saving_endSlice_none hfree
  case saveWaits => exact contextSave_idle hcore hturn h
  case saveDone =>
    subst hn
    have hdone := contextSave_done hcore hturn hload hpends hword hdrain hidle
    refine ⟨fun hforced => ?_, fun hforced => ?_⟩
    · have hcoreT := core_savedTurn_of_not_forced s core k hforced
      obtain ⟨hstate, hx, hv, hm, hw, hq, hpc, hgroup⟩ := saved_turned s core k
      refine ⟨s.savedTurn core k, hdone, ?_, ?_, fun j hkj hj hlive hsaved hlow => ?_, fun hlow => ?_⟩
      · rw [hcoreT, savedCtx_nextTurn_self _ hk]
      · rw [hcoreT, ctx_nextTurn]
        exact ⟨hstate, hx, hv, hm, hw, hq, hpc, hgroup⟩
      · rw [hcoreT, saving_nextTurn, nextSave_turned_some s core k hkj hj hlive hsaved hlow]
        exact ⟨48, rfl⟩
      · rw [hcoreT, saving_nextTurn, nextSave_turned_none s core k hlow]
        rfl
    · obtain ⟨⟨d, hctx⟩, hpackets⟩ := savedTurn_forced s core k hforced
      refine ⟨s.savedTurn core k, hdone, ?_, ?_, ?_, hpackets⟩ <;> rw [hctx] <;> rfl
  case messagesWait => exact messageStateSave_idle hcore h
  case messagesSaved =>
    have hsave := messageStateSave_saves hcore hend hturn hkill hmsg hstores hatoms hrelays hlog hpound
    have hcoreT := core_messagesSaved_self s core
    cases hall : (s.messagesSaved core).allSaved p with
    | false =>
      refine ⟨s.messagesSaved core, ?_, ?_, ?_, ?_, fun _ => pounds_messagesSaved s core⟩
      · rw [exec_messageStateSave, hsave, hall]; rfl
      all_goals rw [hcoreT]; rfl
    | true =>
      refine ⟨(s.messagesSaved core).vacate p, ?_, ?_, ?_, ?_, fun hother => ?_⟩
      · rw [exec_messageStateSave, hsave, hall]; rfl
      case refine_5 => exact absurd hall (by rw [allSaved_messagesSaved hother]; decide)
      all_goals rw [core_vacate, hcoreT]; rfl
  case resumeIdle => exact poundResume_idle hcore h
  case resumes =>
    obtain ⟨hmem, hmsgT, hstopT, hchans, hctx⟩ := resumed_spec s core
    exact ⟨s.resumed core, poundResume_own hcore hmsg htag hown, hmem, hmsgT, hstopT, hchans, fun k _ => hctx k⟩
  case faultTaken =>
    obtain ⟨p, hcoreT⟩ := core_raiseDeferred s core k d
    refine ⟨s.raiseDeferred core k d, ?_, ?_, ?_, mem_raiseDeferred ..⟩
    · rw [exec_deferredFaultTake, deferredFaultTake_eq hcore hk hd, if_pos hrun]
    · rw [hcoreT, ctx_coreModCtx_self, ctx_withPacket]
      exact ⟨rfl, rfl, rfl, congrArg (List.drop 1) hd, rfl, rfl⟩
    · rw [hcoreT, coreModCtx_packets, packets_withPacket]
  case faultWaits =>
    rw [exec_deferredFaultTake, deferredFaultTake_eq hcore hk hd, if_neg (fun h => h.elim hrun hwait)]

end Sys2Proof.Machine
end

section
/-!
PROOFS. What leaves a core, and fences (R46, R50, R52, R115, R118, R119, R201, R211, R337).
-/

namespace Sys2Proof.Machine

/-- A body that is not paired has no gate to wait at (R393). -/
theorem pairGate_of_unpaired {s : State} {core k : Nat} (h : (s.core core).pairOf k = none) (seq : Nat) :
    s.pairGate core k seq = some true := by
  rw [State.pairGate, h]

/-! ## The store buffer (R46, R52, R201, R337) -/

theorem stores_popStore (s : State) (core : Nat) (st : Store) :
    ((s.popStore core st).core core).stores = (s.core core).stores.filter (·.seq != st.seq) := by
  rw [State.popStore, State.modCtxOf, core_modCore_self, coreModCtx_stores, core_modCore_self]

/-- A store on its way to its home changes copies in the caches alone. -/
theorem stores_storeOut (s : State) (core : Nat) (st : Store) :
    ((s.storeOut core st).core core).stores = (s.core core).stores := by
  have h : (s.storeOut core st).core core = (s.modCore core fun c =>
      { c with l1 := storeLine c.l1 st.pa st.key (st.view.map (·.2)) st.mask st.data }).core core := rfl
  rw [h, core_modCore_self]

section Drain
variable {core : Nat} {s : State} {st : Store} {rest : List Store} (hcore : coreIn core = true)
  (hstores : (s.core core).stores = st :: rest) (hdrain : (s.core core).mayDrain st = true)
  (hpair : (s.core core).pairOf st.ctx = none)
include hcore hstores hdrain hpair

/-- An unpaired store that may leave: the port, its window or its home takes it. -/
theorem exec_storeBufferDrain_leaves : exec (.storeBufferDrain core) s = .next
    (if st.remote then
      if s.storeFar core st.seq then s else { s with remote := s.remote ++ [storeReq s core st false] }
    else if st.window then
      match s.windowState st.pa st.len st.va with
      | .busy => s
      | .fault f => (s.popStore core st).defer core st.ctx st.seq ((s.core core).ctx st.ctx).region.domain ⟨f, 0⟩
      | _ => { s.popStore core st with mem := writeMasked s.mem st.pa st.mask st.data.toNat 16 }
    else (s.popStore core st).storeOut core st) := by
  simp only [exec_storeBufferDrain, execStoreBufferDrain, event_next hcore, hstores, hdrain, pairGate_of_unpaired hpair, ite_self,
    Option.isNone_some, Bool.not_true, Bool.or_self, Bool.false_eq_true, if_false, Option.some.injEq, Bool.true_eq_false]
    <;> rfl

theorem exec_storeBufferDrain_window (hremote : st.remote = false) (hwindow : st.window = true) {a : Acc}
    (ha : s.windowState st.pa st.len st.va = .ok a) : exec (.storeBufferDrain core) s =
      .next { s.popStore core st with mem := writeMasked s.mem st.pa st.mask st.data.toNat 16 } := by
  rw [exec_storeBufferDrain_leaves hcore hstores hdrain hpair, hremote, hwindow, ha]
  rfl

theorem exec_storeBufferDrain_home (hremote : st.remote = false) (hwindow : st.window = false) :
    exec (.storeBufferDrain core) s = .next ((s.popStore core st).storeOut core st) := by
  rw [exec_storeBufferDrain_leaves hcore hstores hdrain hpair, hremote, hwindow]
  rfl

theorem exec_storeBufferDrain_port (hremote : st.remote = true) (hfar : s.storeFar core st.seq = false) :
    exec (.storeBufferDrain core) s = .next { s with remote := s.remote ++ [storeReq s core st false] } := by
  rw [exec_storeBufferDrain_leaves hcore hstores hdrain hpair, hremote, hfar]
  rfl

end Drain

/-! ## The atomic queue (R115, R211) -/

/-- Spilled atomics move up in the queue; those sent are as they were. -/
theorem atomsOut_refillAtoms (c : Core) : c.refillAtoms.atomsOut = c.atomsOut := by
  unfold Core.refillAtoms
  split
  · rfl
  · split <;> rfl

theorem exec_atomicQueueSend_sent {core : Nat} {s : State} {a : AtomEntry} {rest : List AtomEntry} (hcore : coreIn core = true)
    (hqueue : (s.core core).atomQ = a :: rest) (hpair : (s.core core).pairOf a.ctx = none)
    (hdone : s.strongDone core a.ctx a.scope a.seq = true)
    (hloads : (((s.core core).ctx a.ctx).pends.any fun p => decide (p.seq < a.seq) && p.pieces.any fun q =>
      q.value.isNone && overlaps a.va.toNat a.atom.bytes q.va.toNat q.len) = false) :
    exec (.atomicQueueSend core) s =
      .next ((s.modCore core fun c => ({ c with atomQ := rest } : Core).refillAtoms).sendAtom core a) := by
  simp only [exec_atomicQueueSend, execAtomicQueueSend, event_next hcore, hqueue, hloads, hdone, pairGate_of_unpaired hpair,
    Bool.not_true, Bool.or_self, Bool.false_eq_true, if_false]

theorem atomsOut_dropCopies (s : State) (core pa : Nat) : ((s.dropCopies core pa).core core).atomsOut = (s.core core).atomsOut := by
  rw [State.dropCopies, core_modCluster, core_modCore_self]

theorem sendReq_spec (s : State) (r : MemReq) : (s.sendReq r).mem = s.mem ∧ (s.sendReq r).cores = s.cores ∧
    (if r.target = 0 then (s.sendReq r).net = s.net ++ [r] else (s.sendReq r).remote = s.remote ++ [r]) := by
  unfold State.sendReq
  by_cases h : r.target = 0
  · rw [if_neg (by rw [h]; decide), if_pos h]
    exact ⟨rfl, rfl, rfl⟩
  · rw [if_pos (bne_iff_ne.mpr h), if_neg h]
    exact ⟨rfl, rfl, rfl⟩

/-- An atomic sent joins those sent, and its request the network, or the port of a remote target. -/
theorem sendAtom_spec (s : State) (core : Nat) (a : AtomEntry) : ∃ r : MemReq, (s.sendAtom core a).mem = s.mem ∧
    ((s.sendAtom core a).core core).atomsOut = (s.core core).atomsOut ++ [a] ∧
    (if leafTgt a.leaf = 0 then (s.sendAtom core a).net = s.net ++ [r] else (s.sendAtom core a).remote = s.remote ++ [r]) ∧
    r.op = .atomic a.atom ∧ r.pa = a.pa ∧ r.asker = .queued core a.ctx a.seq := by
  unfold State.sendAtom
  dsimp only
  generalize hu : (if (!a.remote && decide (a.pa < Config.csWindow)) = true then s.dropCopies core a.pa else s) = u
  obtain ⟨hmem, hnet, hremote, hatoms⟩ : u.mem = s.mem ∧ u.net = s.net ∧ u.remote = s.remote ∧
      (u.core core).atomsOut = (s.core core).atomsOut := by
    subst hu
    split
    · exact ⟨rfl, rfl, rfl, atomsOut_dropCopies ..⟩
    · exact ⟨rfl, rfl, rfl, rfl⟩
  obtain ⟨hmem', hcores, hsent⟩ := sendReq_spec (u.modCore core fun c => { c with atomsOut := c.atomsOut ++ [a] }) (queuedReq u core a)
  refine ⟨queuedReq u core a, hmem'.trans hmem, ?_, ?_, rfl, rfl, rfl⟩
  · rw [State.core, hcores, ← State.core, core_modCore_self, hatoms]
  · rw [← hnet, ← hremote]
    exact hsent

/-! ## Acquires and fences (R50, R118, R119) -/

/-- A state apart from its cores and clusters. -/
def State.apartFromUnits (s : State) : State := { s with cores := [], clusters := [] }

theorem apartFromUnits_modCore (s : State) (n : Nat) (f : Core → Core) : (s.modCore n f).apartFromUnits = s.apartFromUnits := rfl
theorem apartFromUnits_modCluster (s : State) (n : Nat) (f : Cluster → Cluster) :
    (s.modCluster n f).apartFromUnits = s.apartFromUnits := rfl

theorem apartFromUnits_stepCl (s : State) (n : Nat) : (s.stepCl n).apartFromUnits = s.apartFromUnits := by
  unfold State.stepCl
  dsimp only
  split
  · rw [foldl_keeps State.apartFromUnits _ (fun t m => apartFromUnits_modCore t m _), apartFromUnits_modCluster]
  · rw [apartFromUnits_modCluster]

theorem apartFromUnits_acquireCl (s : State) (core k : Nat) : (s.acquireCl core k).apartFromUnits = s.apartFromUnits := by
  unfold State.acquireCl
  rw [State.modCtxOf, apartFromUnits_modCore, apartFromUnits_stepCl]

theorem apartFromUnits_acquire (s : State) (core k : Nat) (sc : Scope) :
    (s.acquire core k sc).apartFromUnits = s.apartFromUnits := by
  cases sc with
  | core => rfl
  | clus => exact apartFromUnits_modCore ..
  | stack | dev | sys => exact (apartFromUnits_acquireCl ..).trans (apartFromUnits_modCore ..)

/-- A context apart from what it has acquired. -/
def Ctx.apartFromAcq (c : Ctx) : Ctx := { c with acqL1 := 0, acqCl := 0 }

/-- Two cores that differ in no more than what their contexts have acquired at the cluster cache. -/
structure Core.SameButCl (c d : Core) : Prop where
  l1 : d.l1 = c.l1
  l1Epoch : d.l1Epoch = c.l1Epoch
  ctx (k : Nat) : (d.ctx k).apartFromAcq = (c.ctx k).apartFromAcq ∧ (d.ctx k).acqL1 = (c.ctx k).acqL1

theorem Core.SameButCl.refl (c : Core) : c.SameButCl c := ⟨rfl, rfl, fun _ => ⟨rfl, rfl⟩⟩
theorem Core.SameButCl.trans {c d e : Core} (h : c.SameButCl d) (k : d.SameButCl e) : c.SameButCl e :=
  ⟨k.l1.trans h.l1, k.l1Epoch.trans h.l1Epoch, fun j => ⟨(k.ctx j).1.trans (h.ctx j).1, (k.ctx j).2.trans (h.ctx j).2⟩⟩

theorem sameButCl_modAll (c : Core) (e : BitVec 16) : c.SameButCl (c.modAll fun x => { x with acqCl := e }) :=
  ⟨rfl, rfl, fun k => by rw [ctx_modAll]; exact ⟨rfl, rfl⟩⟩

theorem sameButCl_modCtx (c : Core) (k : Nat) (e : BitVec 16) : c.SameButCl (c.modCtx k fun x => { x with acqCl := e }) := by
  refine ⟨rfl, rfl, fun j => ?_⟩
  by_cases h : j % 11 = k % 11
  · have hctx (d : Core) : d.ctx j = d.ctx k := by simp only [Core.ctx, h]
    rw [hctx, hctx, ctx_coreModCtx_self]
    exact ⟨rfl, rfl⟩
  · rw [ctx_coreModCtx_ne _ _ _ _ h]
    exact ⟨rfl, rfl⟩

theorem sameButCl_foldl_modCore {f : Core → Core} (hf : ∀ c : Core, c.SameButCl (f c)) (l : List Nat) (s : State) (core : Nat) :
    (s.core core).SameButCl ((l.foldl (fun s m => s.modCore m f) s).core core) := by
  induction l generalizing s with
  | nil => exact .refl _
  | cons m l ih =>
    refine .trans ?_ (ih (s.modCore m f))
    by_cases h : core = m
    · subst h
      rw [core_modCore_self]
      exact hf _
    · rw [core_modCore_ne _ _ _ _ h]
      exact .refl _

theorem sameButCl_stepCl (s : State) (n core : Nat) : (s.core core).SameButCl ((s.stepCl n).core core) := by
  unfold State.stepCl
  dsimp only
  split
  · exact sameButCl_foldl_modCore (fun c => sameButCl_modAll c 0) _ (s.modCluster n _) core
  · exact .refl _

theorem sameButCl_acquireCl (s : State) (core k : Nat) : (s.core core).SameButCl ((s.acquireCl core k).core core) := by
  unfold State.acquireCl
  rw [State.modCtxOf, core_modCore_self]
  exact (sameButCl_stepCl ..).trans (sameButCl_modCtx ..)

/-- An acquire beyond the core acquires at the L1, and leaves no more of the core than its contexts' Acq at the cluster cache. -/
theorem sameButCl_acquire {sc : Scope} (h : sc ≠ .core) (s : State) (core k : Nat) :
    ((s.core core).acquireL1 k).SameButCl ((s.acquire core k sc).core core) := by
  have hL1 : (s.modCore core (·.acquireL1 k)).core core = (s.core core).acquireL1 k := core_modCore_self ..
  rw [← hL1]
  cases sc with
  | core => exact absurd rfl h
  | clus => exact .refl _
  | stack | dev | sys => exact sameButCl_acquireCl ..

theorem apartFromAcq_acquireL1 (c : Core) (k : Nat) : ((c.acquireL1 k).ctx k).apartFromAcq = (c.ctx k).apartFromAcq := by
  unfold Core.acquireL1
  dsimp only
  rw [ctx_coreModCtx_self]
  split
  · rw [ctx_modAll]; rfl
  · rfl

/-- Below its last value the L1's epoch goes on by one, which the context takes for its Acq; the lines stay (R50). -/
theorem acquireL1_step {c : Core} (h : c.l1Epoch ≠ 65535) (k : Nat) :
    (c.acquireL1 k).l1 = c.l1 ∧ (c.acquireL1 k).l1Epoch = c.l1Epoch + 1 ∧ ((c.acquireL1 k).ctx k).acqL1 = c.l1Epoch + 1 := by
  have hstep : epochStep c.l1Epoch c.l1 = (c.l1, c.l1Epoch + 1, false) := if_neg h
  unfold Core.acquireL1
  rw [hstep]
  exact ⟨rfl, rfl, by dsimp only; rw [ctx_coreModCtx_self]⟩

theorem apartFromAcq_acquire (s : State) (core k : Nat) (sc : Scope) :
    (((s.acquire core k sc).core core).ctx k).apartFromAcq = ((s.core core).ctx k).apartFromAcq := by
  by_cases h : sc = .core
  · subst h; rfl
  · exact ((sameButCl_acquire h s core k).ctx k).1.trans (apartFromAcq_acquireL1 ..)

theorem cur_acquire (s : State) (core k : Nat) (sc : Scope) : (s.acquire core k sc).cur = s.cur :=
  (congrArg State.cur (apartFromUnits_acquire s core k sc) :)

/-- The acting context after its acquire, apart from what it acquired. -/
theorem ctx_acquire (s : State) (sc : Scope) : (s.acquire s.cur.1 s.cur.2 sc).ctx.apartFromAcq = s.ctx.apartFromAcq := by
  rw [State.ctx, State.me, cur_acquire]
  exact apartFromAcq_acquire ..

theorem me_past (s : State) (cls : Nat) (t : State) :
    (s.past cls t).me = t.me.modCtx t.cur.2 (·.retire (s.ctx.pc + 4)) :=
  me_modCtx t _

/-- A word that retires with an acquire issued, and owes and asks for nothing. -/
theorem issued_past_acquire (s : State) (sc : Scope) :
    let t := s.past 0 (s.acquire s.cur.1 s.cur.2 sc)
    s.issued t ∧ t.ctx.pends = s.ctx.pends ∧ t.net = s.net := by
  intro t
  have hctx := ctx_acquire s sc
  have hunits := apartFromUnits_acquire s s.cur.1 s.cur.2 sc
  have ht : t.ctx = (s.acquire s.cur.1 s.cur.2 sc).ctx.retire (s.ctx.pc + 4) := ctx_past ..
  refine ⟨?_, ?_, (congrArg State.net hunits :)⟩
  · unfold State.issued
    rw [ht]
    exact ⟨rfl, (congrArg Ctx.x hctx :), (congrArg Ctx.v hctx :), (congrArg Ctx.m hctx :), (congrArg Ctx.w hctx :), (congrArg Ctx.q hctx :),
      (congrArg Ctx.fpflags hctx :), (congrArg Ctx.fpctl hctx :), (congrArg State.mem hunits :), (congrArg State.weights hunits :)⟩
  · rw [ht]
    exact (congrArg Ctx.pends hctx :)

/-- Beyond the core, below the last epoch: the L1's epoch goes on, the context takes it, and the lines stay. -/
theorem acqL1_past_acquire {s : State} {sc : Scope} (hsc : sc ≠ .core) (he : s.me.l1Epoch ≠ 65535) :
    let t := s.past 0 (s.acquire s.cur.1 s.cur.2 sc)
    t.ctx.acqL1 = s.me.l1Epoch + 1 ∧ t.me.l1Epoch = s.me.l1Epoch + 1 ∧ t.me.l1 = s.me.l1 := by
  intro t
  obtain ⟨hl1, hepoch, hacq⟩ := acquireL1_step he s.cur.2
  have hcl := sameButCl_acquire hsc s s.cur.1 s.cur.2
  have hme : (s.acquire s.cur.1 s.cur.2 sc).me = (s.acquire s.cur.1 s.cur.2 sc).core s.cur.1 := by rw [State.me, cur_acquire]
  have hctx : t.ctx.acqL1 = (((s.acquire s.cur.1 s.cur.2 sc).core s.cur.1).ctx s.cur.2).acqL1 := by
    rw [← hme, show t.ctx = _ from ctx_past .., State.ctx, cur_acquire]
    rfl
  refine ⟨?_, ?_, ?_⟩
  · rw [hctx, (hcl.ctx s.cur.2).2]
    exact hacq
  · rw [me_past, coreModCtx_l1Epoch, hme, hcl.l1Epoch]
    exact hepoch
  · rw [me_past, coreModCtx_l1, hme, hcl.l1]
    exact hl1

theorem outcome_done_acquire (s : State) (sc : Scope) :
    (Did.done (s.acquire s.cur.1 s.cur.2 sc)).outcome 0 = .next (s.past 0 (s.acquire s.cur.1 s.cur.2 sc)) := by
  have hpc : (s.acquire s.cur.1 s.cur.2 sc).ctx.pc = s.ctx.pc := (congrArg Ctx.pc (ctx_acquire s sc) :)
  rw [Did.outcome, hpc]
  rfl

/-- A fence whose word issues: it stays until it is ready, and then retires with its acquire. -/
theorem fence_clear {scope : BitVec 3} {acq : Bool} {ready : State → Scope → Bool} {s : State} (h : s.Clear { scope := true }) :
    fence scope acq ready s = if ready s (s.ctx.scopeOr scope) = true then
      .next (s.past 0 (s.acquire s.cur.1 s.cur.2 (if acq then s.ctx.scopeOr scope else .core))) else .next s := by
  unfold fence
  rw [issue_of_clear h]
  dsimp only
  cases ready s (s.ctx.scopeOr scope) with
  | false => rfl
  | true =>
    cases acq with
    | false => rfl
    | true => exact outcome_done_acquire ..

/-- The scope of the classes a FENCE.X names (R119). -/
def classScope (x : FenceX) : Scope := if x.ca = 3 ∨ x.cb = 3 then .sys else if x.ca = 2 ∨ x.cb = 2 then .dev else .core

theorem execFenceX_clear {x : FenceX} {s : State} (h : s.Clear { scope := true }) :
    let sc := widest (s.ctx.scopeOr x.scope) (classScope x)
    execFenceX x s = if (s.loadsDone && s.allDone sc && (x.ca != 2 || !s.engineOpen) && (x.ca != 3 || s.rmas.all (·.left == 0))) = true
      then .next (s.past 0 (s.acquire s.cur.1 s.cur.2 sc)) else .next s := by
  have hclass : (if (x.ca == 3 || x.cb == 3) = true then Scope.sys else if (x.ca == 2 || x.cb == 2) = true then .dev else .core) =
      classScope x := by
    simp only [classScope, Bool.or_eq_true, beq_iff_eq]
  intro sc
  unfold execFenceX
  rw [issue_of_clear h]
  dsimp only
  rw [hclass, Bool.and_assoc]
  cases s.loadsDone && s.allDone sc with
  | false => rfl
  | true =>
    rw [Bool.true_and]
    cases (x.ca != 2 || !s.engineOpen) && (x.ca != 3 || s.rmas.all (·.left == 0)) with
    | false => rfl
    | true => exact outcome_done_acquire ..

/-- What R118 says of a word that waits until it is ready and then acquires at a scope, or nowhere. -/
theorem fence_waits_then_acquires {i : Instr} {s : State} {sc : Scope} {acq ready : Bool} (hexec : exec i s = if ready = true then
    .next (s.past 0 (s.acquire s.cur.1 s.cur.2 (if acq then sc else .core))) else .next s) :
    (ready = false → exec i s = .next s) ∧
    (ready = true → ∃ t : State, exec i s = .next t ∧ s.issued t ∧ t.ctx.pends = s.ctx.pends ∧ t.net = s.net ∧
      (acq = false ∨ sc = .core → t.ctx.acqL1 = s.ctx.acqL1 ∧ t.me.l1 = s.me.l1) ∧
      (acq = true → sc ≠ .core → s.me.l1Epoch ≠ 65535 →
        t.ctx.acqL1 = s.me.l1Epoch + 1 ∧ t.me.l1Epoch = s.me.l1Epoch + 1 ∧ t.me.l1 = s.me.l1)) := by
  refine ⟨fun h => ?_, fun h => ?_⟩
  · rw [hexec, h]; rfl
  · obtain ⟨hissued, hpends, hnet⟩ := issued_past_acquire s (if acq then sc else .core)
    refine ⟨_, hexec.trans (if_pos h), hissued, hpends, hnet, fun hcore => ?_, fun hacq hsc he => ?_⟩
    · have hnone : (if acq then sc else .core) = Scope.core := by
        rcases hcore with hacq | hsc
        · rw [hacq]; rfl
        · rw [hsc, ite_self]
      rw [hnone, ctx_past, me_past]
      exact ⟨rfl, rfl⟩
    · rw [if_pos hacq]
      exact acqL1_past_acquire hsc he

/-- Settles O28: an unpaired store leaves for its window, its home or its port by one equation each; an atomic sent is one request
more; and each fence is one word that stays until it is ready and then retires with its acquire. -/
theorem storesAndAtomicsLeave : Obligations.StoresAndAtomicsLeave := by
  unfold Obligations.StoresAndAtomicsLeave
  refine ⟨fun core s st rest hcore hstores hdrain hpair => ⟨?window, ?home, ?port⟩, ?atomic, ?fences⟩
  case window =>
    rintro hremote hwindow ⟨a, ha⟩
    exact ⟨_, exec_storeBufferDrain_window hcore hstores hdrain hpair hremote hwindow ha, stores_popStore .., rfl,
      fun c => readByte_writeMasked ..⟩
  case home =>
    intro hremote hwindow
    exact ⟨_, _, exec_storeBufferDrain_home hcore hstores hdrain hpair hremote hwindow,
      (stores_storeOut ..).trans (stores_popStore ..), rfl, rfl, rfl, rfl, rfl, rfl, rfl⟩
  case port =>
    intro hremote hfar
    exact ⟨_, _, exec_storeBufferDrain_port hcore hstores hdrain hpair hremote hfar, rfl, rfl, rfl, rfl, rfl, rfl, rfl, rfl⟩
  case atomic =>
    intro core s a rest hcore hqueue hpair hdone hloads
    obtain ⟨r, hmem, hsent, hreq, hr⟩ := sendAtom_spec (s.modCore core fun c => ({ c with atomQ := rest } : Core).refillAtoms) core a
    rw [core_modCore_self, atomsOut_refillAtoms] at hsent
    exact ⟨_, r, exec_atomicQueueSend_sent hcore hqueue hpair hdone hloads, hmem, hsent, hreq, hr⟩
  case fences =>
    intro scope x s hclear sc classes scX
    rw [List.forall_mem_cons, List.forall_mem_cons, List.forall_mem_cons, List.forall_mem_cons]
    exact ⟨fence_waits_then_acquires ((exec_fenceAcq s).trans (fence_clear hclear)),
      fence_waits_then_acquires ((exec_fenceRel s).trans (fence_clear hclear)),
      fence_waits_then_acquires ((exec_fenceSc s).trans (fence_clear hclear)),
      fence_waits_then_acquires (sc := scX) (acq := true) ((exec_fenceX s).trans (execFenceX_clear hclear)), List.forall_mem_nil _⟩

end Sys2Proof.Machine
end

section
/-!
PROOFS. A read that runs from one page into another that migrates (R49, R356): what the statement about home slices leaves out.
-/

namespace Sys2Proof.Machine

/-- A load of the last byte of page 0 and the first of page 1, by context 0 of core 0. -/
def crossingRead : MemReq := ⟨.load 0 0 1 0, .read 2 false false 0, 65535, 65535, 0, none, 0, 0, 0, 0, false, none, 0, 0⟩

/-- The producer that waits for it. -/
def crossingPend : Pend := ⟨1, .x 5, [⟨0, 65535, 2, 65535, 0, false, false, 0, 0, none⟩], .load 2 false, true, none, 0, false, none, none⟩

/-- An earlier store of 255 to the first byte of page 1. -/
def heldWrite : MemReq := { crossingRead with asker := .store 0 0 0, op := .write 1 255, va := 65536, pa := 65536 }

/-- A migration that copies page 1 to page 2 and holds that store. -/
def holdingMig : Mig := ⟨65536, 2, .copy, 0, false, false, [heldWrite], 1⟩

/-- The reset machine with that producer, that migration, and the load at the head of a slice's queue. -/
def crossing : State :=
  ((State.reset.modCtxOf 0 0 fun c => { c with pends := [crossingPend] }).modStack 0 (·.modMig 0 fun _ => holdingMig)).modStack 0
    (·.modSlice 0 fun l => { l with queue := [crossingRead] })

/-- DRAM itself holds neither byte. -/
theorem readDram_crossing : crossing.readDram crossingRead.pa 2 crossingRead.key = 0 := by decide +kernel

/-- What the slice gives the load has the held store's byte in it (R356). -/
theorem pends_sliceAnswer_crossing : ∃ t : State, exec (.sliceAnswer 0 0) crossing = .next t ∧
    (((t.core 0).ctx 0).pends.flatMap fun p => p.pieces.map (·.value)) = [some 0xFF00] :=
  ⟨_, rfl, by decide +kernel⟩

/-- Refutes O29: the clauses about a read ask only that no migration treats its first byte. A read whose later byte lies in a page
that migrates takes that byte with the writes held for it (R356), which are not in DRAM yet. -/
theorem not_homeSlicesAndFills : ¬ Obligations.HomeSlicesAndFills := by
  unfold Obligations.HomeSlicesAndFills
  rintro ⟨⟨-, answers⟩, -⟩
  obtain ⟨-, load, -⟩ := answers 0 0 crossing crossingRead [] (by decide) (by decide) rfl (by decide +kernel) rfl
  obtain ⟨t, hexec, -, -, hpends⟩ := load 2 false false 0 0 0 1 0 rfl rfl (by decide +kernel)
  obtain ⟨u, hexec', hbound⟩ := pends_sliceAnswer_crossing
  rw [← Host.Outcome.next.inj (hexec.symm.trans hexec'), hpends, readDram_crossing] at hbound
  exact absurd hbound (by decide +kernel)

end Sys2Proof.Machine
end

section
/-!
PROOFS. The checks of an access (R77, R199): alignment, and the rights and bounds of a view.
-/

namespace Sys2Proof.Machine

/-! ## Words that fault -/

/-- A word of the same kind that reads and writes no more registers executes normally too. -/
theorem State.Clear.mono {s : State} {r : WordRule} (h : s.Clear r) {srcs : List (RegName × Bool)} {dests : List RegName}
    (hs : srcs ⊆ r.srcs) (hd : dests ⊆ r.dests) : s.Clear { r with srcs := srcs, dests := dests } := by
  obtain ⟨hdeferred, hgroup, hpriv, hrep, hsrcs, hdests⟩ := h
  refine ⟨hdeferred, hgroup, hpriv, ?_, fun p hp => hsrcs p (hs hp), fun d hd' => hdests d (hd hd')⟩
  unfold repHolds at hrep ⊢
  cases hq : s.ctx.rep with
  | none => rfl
  | some q =>
    rw [hq] at hrep
    simp only [Bool.or_eq_false_iff, List.any_eq_false] at hrep ⊢
    exact ⟨hrep.1, fun d hd' => hrep.2 d (hd hd')⟩

/-- A word whose conditions hold and whose effect is a precise fault takes it (R40). -/
theorem faulted_of_issue {i : Instr} {r : WordRule} {body : State → Did} {s : State} {f : FaultInfo}
    (hexec : exec i s = issue r body s) (hclear : s.Clear r) (hbody : body s = .fault s f) :
    ∃ t : State, exec i s = .next t ∧ s.faulted t f :=
  ⟨s.raise f, by rw [hexec, issue_of_clear hclear, hbody]; rfl, faulted_raise s f⟩

/-! ## Alignment (R199) -/

section Misaligned
variable {s : State} {va : Word} {al : Nat} (h : va.toNat % al ≠ 0)
include h

theorem load_misaligned (w : LoadWay) (dest : Dest) (fin : Finish) (view : Option View) (slot n : Nat)
    (rest : List (Nat × Word × Nat)) : s.load w al dest fin view ((slot, va, n) :: rest) = .fault s (atAddr .align va) := by
  rw [State.load, State.loadChecks, State.loadCheck, if_pos h]

theorem storeCheck_misaligned (n : Nat) (mask : BitVec 16) (strict viaView : Bool) (dest : Dest) :
    s.storeCheck va n al mask strict viaView dest = (.inl (.fault s (atAddr .align va)), s) := by
  rw [State.storeCheck, if_pos h]

theorem store_misaligned (vec : Bool) (view : Option View) (n : Nat) (mask : BitVec 16) (data : BitVec 128)
    (rest : List (Word × Nat × BitVec 16 × BitVec 128)) :
    s.store vec al view ((va, n, mask, data) :: rest) = .fault s (atAddr .align va) := by
  rw [State.store, State.storeChecks, storeCheck_misaligned h]

theorem strongStore_misaligned {sc : Scope} (hready : s.strongReady sc = true) (data : Word) :
    s.strongStore sc va al data = .fault s (atAddr .align va) := by
  rw [State.strongStore, hready, storeCheck_misaligned h]
  rfl

end Misaligned

/-! ## Views (R77) -/

/-- Why an access through a view may not be made: its right, its bounds and its alignment, in that order. -/
def viewCause (v : View) (need : Right) (off : Word) (n al : Nat) : Option Cause :=
  if !v.live || !v.grants need then some .viewRights
  else if off.toNat < v.lo.toNat || v.hi.toNat < off.toNat + n then some .viewBounds
  else if off.toNat % al ≠ 0 then some .align
  else none

theorem viewCheck_of_cause {v : View} {need : Right} {off : Word} {n al : Nat} {c : Cause} (h : viewCause v need off n al = some c) :
    viewCheck v need off n al = .error (atAddr c (v.base + off)) := by
  unfold viewCheck
  unfold viewCause at h
  split_ifs at h ⊢ <;> injection h with h <;> rw [h]

/-! ## The obligation -/

/-- Settles O24: each access faults at the first check that fails, and a precise fault leaves all but the context's state. -/
theorem accessChecks : Obligations.AccessChecks := by
  unfold Obligations.AccessChecks
  refine ⟨fun o s hclear hva => ?plain, fun o s hclear hready hva => ?strong, fun o s hclear hva => ?pair,
    fun l o s hra hview hsz hld hst => ?view⟩
  case plain =>
    rw [List.forall_mem_cons, List.forall_mem_cons]
    exact ⟨faulted_of_issue (exec_ld s) (hclear.mono (by simp) (by simp)) (load_misaligned hva ..),
      faulted_of_issue (exec_st s) (hclear.mono (by simp) (by simp)) (store_misaligned hva ..), List.forall_mem_nil _⟩
  case strong =>
    rw [List.forall_mem_cons, List.forall_mem_cons]
    obtain ⟨hstrong, hhome⟩ := Bool.and_eq_true_iff.mp hready
    refine ⟨faulted_of_issue (exec_lds s) (hclear.mono (by simp) (by simp)) ?_,
      faulted_of_issue (exec_sts s) (hclear.mono (by simp) (by simp)) (strongStore_misaligned hva hstrong _), List.forall_mem_nil _⟩
    dsimp only
    rw [hstrong, hhome]
    exact load_misaligned hva ..
  case pair =>
    rw [List.forall_mem_cons, List.forall_mem_cons]
    exact ⟨faulted_of_issue (exec_ldp s) (hclear.mono (by simp) (by simp)) (load_misaligned hva ..),
      faulted_of_issue (exec_stp s) (hclear.mono (by simp) (by simp)) (store_misaligned hva ..), List.forall_mem_nil _⟩
  case view =>
    intro w off n
    rw [List.forall_mem_cons, List.forall_mem_cons]
    refine ⟨fun c hc => faulted_of_issue (exec_ldv s) hld ?_, fun c hc => faulted_of_issue (exec_stv s) hst ?_, List.forall_mem_nil _⟩
    · dsimp only
      rw [hra, hview, hsz, show viewCheck (s.ctx.readW o.view) .r (s.ctx.readX o.ra) n n = _ from viewCheck_of_cause hc]
      rfl
    · dsimp only
      rw [show viewCheck (s.ctx.readW o.view) .w (s.ctx.readX o.ra) n n = _ from viewCheck_of_cause hc]
      rfl

end Sys2Proof.Machine
end

section
/-!
PROOFS. What a word that places an entry in the outbox leaves (R30, R48, R215), and view registers marked empty (R156).
-/

namespace Sys2Proof.Machine

/-! ## View registers marked empty or full (R156) -/

/-- The bit of one view register among eight. -/
theorem getLsbD_two_pow_w (i j : BitVec 3) : (BitVec.ofNat 8 (1 <<< i.toNat)).getLsbD j.toNat = decide (j = i) := by
  have hj : j.toNat < 8 := j.isLt
  rw [BitVec.getLsbD_ofNat, Nat.one_shiftLeft, Nat.testBit_two_pow, Bool.eq_iff_iff]
  simp only [Bool.and_eq_true, decide_eq_true_eq, hj, true_and, ← BitVec.toNat_inj]
  exact eq_comm

@[simp] theorem full_mark_w (c : Ctx) (i j : BitVec 3) (b : Bool) :
    (c.mark (.w i) b).full (.w j) = if j = i then b else c.full (.w j) := by
  have hj : j.toNat < 8 := j.isLt
  have hone : (1#8 <<< i.toNat) = BitVec.ofNat 8 (1 <<< i.toNat) := by
    apply BitVec.eq_of_toNat_eq
    rw [BitVec.toNat_shiftLeft, BitVec.toNat_ofNat, BitVec.toNat_ofNat]
  cases b with
  | false =>
    show (c.wfull &&& ~~~(1#8 <<< i.toNat)).getLsbD j.toNat = if j = i then false else c.wfull.getLsbD j.toNat
    rw [hone, BitVec.getLsbD_and, BitVec.getLsbD_not, getLsbD_two_pow_w, decide_eq_true hj]
    by_cases h : j = i <;> simp [h]
  | true =>
    show (c.wfull ||| BitVec.ofNat 8 (1 <<< i.toNat)).getLsbD j.toNat = if j = i then true else c.wfull.getLsbD j.toNat
    rw [BitVec.getLsbD_or, getLsbD_two_pow_w]
    by_cases h : j = i <;> simp [h]

@[simp] theorem readW_mark (c : Ctx) (i j : BitVec 3) (b : Bool) : (c.mark (.w i) b).readW j = c.readW j := rfl
@[simp] theorem full_writeW (c : Ctx) (i j : BitVec 3) (v : View) : (c.writeW i v).full (.w j) = c.full (.w j) := rfl

/-- Every view register but those written reads as it did. -/
theorem readW_writeW (c : Ctx) (i j : BitVec 3) (v : View) : (c.writeW i v).readW j = if j = i then v else c.readW j := by
  by_cases h : j = i
  · rw [if_pos h, h, readW_writeW_self]
  · rw [if_neg h, readW_writeW_ne _ _ _ _ h]

/-! ## A word that changes its context alone -/

/-- A word that changes its context, and not its PC, and retires. -/
theorem outcome_done_modCtx (s : State) {f : Ctx → Ctx} (hpc : (f s.ctx).pc = s.ctx.pc) :
    (Did.done (s.modCtx f)).outcome 0 = .next (s.past 0 (s.modCtx f)) := by
  rw [Did.outcome, ctx_modCtx, hpc]
  rfl

/-- A word whose conditions hold and whose whole effect is a change of its context. -/
theorem exec_of_issue_modCtx {i : Instr} {r : WordRule} {body : State → Did} {s : State} {f : Ctx → Ctx}
    (hexec : exec i s = issue r body s) (hclear : s.Clear r) (hcls : r.cls = 0) (hbody : body s = .done (s.modCtx f))
    (hpc : (f s.ctx).pc = s.ctx.pc) : exec i s = .next (s.past 0 (s.modCtx f)) := by
  rw [hexec, issue_of_clear hclear, hbody, hcls, outcome_done_modCtx s hpc]

/-! ## Entries of the outbox (R30, R48) -/

/-- A core apart from what waits to leave it and what pairs record of it. -/
def Core.apartFromOut (c : Core) : Core := { c with outbox := [], spill := [], pairs := [] }

theorem ctx_apartFromOut (c : Core) (k : Nat) : c.apartFromOut.ctx k = c.ctx k := rfl

/-- What R30 says of an entry placed for the acting core: it stands behind what waited to leave the core, in the outbox or, behind
earlier spills, in the spill ring; nothing else of the core or of memory has changed. -/
structure State.Placed (s t : State) (e : OutEntry) : Prop where
  cur  : t.cur = s.cur
  mem  : t.mem = s.mem
  core : t.me.apartFromOut = s.me.apartFromOut
  entry : ∃ q, t.me.outbox = s.me.outbox ++ [{ e with seq := q }] ∧ t.me.spill = s.me.spill ∨
    t.me.outbox = s.me.outbox ∧ t.me.spill = s.me.spill ++ [.out { e with seq := q }]

theorem State.Placed.ctx {s t : State} {e : OutEntry} (h : s.Placed t e) : t.ctx = s.ctx := by
  rw [State.ctx, h.cur, ← ctx_apartFromOut, h.core]
  rfl

/-- A core with another record of what its pairs have asked for (R393). -/
def Core.withPairs (c : Core) (ps : List PairState) : Core := { c with pairs := ps }

/-- A pair's record of a request changes nothing but that record. -/
theorem pairNote_spec (s : State) (k seq : Nat) (d : List Nat) : ∃ u, s.pairNote s.cur.1 k seq d = u ∧
    u.cur = s.cur ∧ u.mem = s.mem ∧ ∃ ps, u.core s.cur.1 = s.me.withPairs ps := by
  refine ⟨_, rfl, ?_⟩
  unfold State.pairNote
  split
  · exact ⟨rfl, rfl, s.me.pairs, rfl⟩
  · exact ⟨rfl, rfl, _, core_modCore_self ..⟩

/-- An entry appended to the outbox or the spill ring of the acting core. -/
theorem placed_modCore {s u : State} {e : OutEntry} {ps : List PairState} {g : Core → Core} (o : Occur) (hcur : u.cur = s.cur)
    (hmem : u.mem = s.mem) (hcore : u.core s.cur.1 = s.me.withPairs ps) (hg : ∀ c, (g c).apartFromOut = c.apartFromOut)
    (hentry : ∃ q, ∀ c, (g c).outbox = c.outbox ++ [{ e with seq := q }] ∧ (g c).spill = c.spill ∨
      (g c).outbox = c.outbox ∧ (g c).spill = c.spill ++ [.out { e with seq := q }]) :
    s.Placed ((u.modCore s.cur.1 g).note o) e := by
  have hme : ((u.modCore s.cur.1 g).note o).me = g (s.me.withPairs ps) := by
    show (u.modCore s.cur.1 g).core u.cur.1 = _
    rw [hcur, core_modCore_self, hcore]
  obtain ⟨q, hq⟩ := hentry
  refine ⟨hcur, hmem, ?_, q, ?_⟩
  · rw [hme, hg]
    rfl
  · rw [hme]
    exact hq _

/-- With room in the outbox or the spill ring, an entry of the acting core is placed. -/
theorem placeAt_of_room {s : State} (hroom : s.me.outFull = false) (e : OutEntry) :
    ∃ t, s.placeAt s.cur.1 e = some t ∧ s.Placed t e := by
  obtain ⟨u, hu, hcur, hmem, ps, hcore⟩ := pairNote_spec s.nextSeq.2 e.ctx s.seq e.item.digest
  replace hu : s.nextSeq.2.pairNote s.cur.1 e.ctx s.seq e.item.digest = u := hu
  replace hcore : u.core s.cur.1 = s.me.withPairs ps := hcore
  unfold State.placeAt
  dsimp only
  rw [show s.nextSeq.1 = s.seq from rfl, hu, hcore]
  unfold Core.outFull at hroom
  split_ifs with hbox hring
  · exact ⟨_, rfl, placed_modCore _ hcur hmem hcore (fun _ => rfl) ⟨s.seq, fun _ => .inl ⟨rfl, rfl⟩⟩⟩
  · exact ⟨_, rfl, placed_modCore _ hcur hmem hcore (fun _ => rfl) ⟨s.seq, fun _ => .inr ⟨rfl, rfl⟩⟩⟩
  · exfalso
    replace hbox : ¬(decide (s.me.outbox.length < 16) && !s.me.spill.any Spill.isOut) = true := hbox
    replace hring : ¬s.me.spill.length < 256 := hring
    cases hspill : s.me.spill.any Spill.isOut <;> simp [hspill] at hroom hbox <;> omega

/-- A word whose effect is to place an entry and then to change its context, with room for the entry: it has sent it and retired. -/
theorem sent_of_issue {i : Instr} {r : WordRule} {body : State → Did} {s : State} {e : OutEntry} {f : Ctx → Ctx}
    (hexec : exec i s = issue r body s) (hclear : s.Clear r) (hcls : r.cls = 0) (hroom : s.me.outFull = false)
    (hbody : body s = s.nextSeq.2.place e fun u => .done (u.modCtx f)) (hctx : e.ctx = s.cur.2)
    (hpc : (f s.ctx).pc = s.ctx.pc) :
    ∃ t : State, exec i s = .next t ∧ t.ctx = (f s.ctx).retire (s.ctx.pc + 4) ∧ s.sentOut t e.item := by
  obtain ⟨u, hplace, hu⟩ := placeAt_of_room (s := s.nextSeq.2) hroom e
  replace hu : s.Placed u e := ⟨hu.cur, hu.mem, hu.core, hu.entry⟩
  obtain ⟨q, hq⟩ := hu.entry
  have hout : exec i s = .next (s.past 0 (u.modCtx f)) := by
    rw [hexec, issue_of_clear hclear, hbody, State.place, hplace, hcls, Did.outcome, ctx_modCtx, hu.ctx, hpc]
    rfl
  have hret : (s.past 0 (u.modCtx f)).ctx = (f s.ctx).retire (s.ctx.pc + 4) := by rw [ctx_past, ctx_modCtx, hu.ctx]
  have hme : (s.past 0 (u.modCtx f)).me = (u.me.modCtx u.cur.2 f).modCtx u.cur.2 (·.retire (s.ctx.pc + 4)) := by
    rw [me_past, me_modCtx, modCtx_cur]
  refine ⟨_, hout, hret, by rw [hret, ctxRetire_pc], { e with seq := q }, rfl, hctx, ?_⟩
  rw [hme]
  exact hq

end Sys2Proof.Machine
end

section
/-!
PROOFS. The words over views (R75, R80, R215).
-/

namespace Sys2Proof.Machine

/-! ## Requests to the Colander (R215) -/

section Requests
variable {s : State} (hroom : s.me.outFull = false)
include hroom

theorem crnew_request {o : ViewNew} (hclear : s.Clear { srcs := [(.x o.ra, o.ea)], dests := [.w o.wd] })
    (hwd : (s.ctx.readW o.wd).live = false) :
    ∃ t : State, exec (.crnew o) s = .next t ∧ t.ctx.full (.w o.wd) = false ∧ t.ctx.w = s.ctx.w ∧ t.ctx.x = s.ctx.x ∧
      s.sentOut t (.view (stackOf s.cur.1) (.alloc s.cur.1 s.cur.2 s.seq o.wd (s.ctx.readX o.ra) s.ctx.region.spansAt
        s.ctx.region.rcb (s.tagOf s.cur.1))) := by
  obtain ⟨t, hexec, hctx, hsent⟩ := sent_of_issue (exec_crnew s) hclear rfl hroom (by dsimp only; rw [hwd]; rfl) rfl rfl
  refine ⟨t, hexec, ?_, ?_, ?_, hsent⟩ <;> rw [hctx]
  · rw [full_retire]
    exact (full_mark_w ..).trans (if_pos rfl)
  · rfl
  · rfl

theorem vsplit_request {o : ViewSplit}
    (hclear : s.Clear { srcs := [(.x o.ra, o.ea), (.w o.ws, o.eb)], dests := [.w o.wd, .w o.ws] }) :
    let v := s.ctx.readW o.ws
    let x := s.ctx.readX o.ra
    (s.ctx.readW o.wd).live = false → v.live = true → v.lo.toNat < x.toNat → x.toNat < v.hi.toNat →
    ∃ t : State, exec (.vsplit o) s = .next t ∧ t.ctx.full (.w o.wd) = false ∧ t.ctx.full (.w o.ws) = false ∧ t.ctx.w = s.ctx.w ∧
      s.sentOut t (.view (regionStack v.region) (.split s.cur.1 s.cur.2 s.seq o.wd o.ws v (x.setWidth 32))) := by
  intro v x hwd hlive hlo hhi
  have hin : ¬(!v.live || decide (x.toNat ≤ v.lo.toNat) || decide (v.hi.toNat ≤ x.toNat)) = true := by
    simp [hlive, hlo, hhi]
  obtain ⟨t, hexec, hctx, hsent⟩ := sent_of_issue (exec_vsplit s) hclear rfl hroom
    (by dsimp only; rw [hwd, if_neg Bool.false_ne_true, if_neg hin]; rfl) rfl rfl
  refine ⟨t, hexec, ?_, ?_, ?_, hsent⟩ <;> rw [hctx]
  · rw [full_retire]
    refine (full_mark_w (s.ctx.mark (.w o.wd) false) o.ws o.wd false).trans ?_
    rw [full_mark_w, if_pos rfl, ite_self]
  · rw [full_retire]
    exact (full_mark_w (s.ctx.mark (.w o.wd) false) o.ws o.ws false).trans (if_pos rfl)
  · rfl

theorem vshare_request {o : ViewTwo} (hclear : s.Clear { srcs := [(.w o.ws, o.eb)], dests := [.w o.wd] }) :
    let v := s.ctx.readW o.ws
    (s.ctx.readW o.wd).live = false → v.live = true → v.canW = false →
    ∃ t : State, exec (.vshare o) s = .next t ∧ t.ctx.full (.w o.wd) = false ∧ t.ctx.w = s.ctx.w ∧
      s.sentOut t (.view (regionStack v.region) (.share s.cur.1 s.cur.2 s.seq o.wd v)) := by
  intro v hwd hlive hw
  have hmay : ¬(!v.live || v.canW) = true := by simp [hlive, hw]
  obtain ⟨t, hexec, hctx, hsent⟩ := sent_of_issue (exec_vshare s) hclear rfl hroom
    (by dsimp only; rw [hwd, if_neg Bool.false_ne_true, if_neg hmay]; rfl) rfl rfl
  refine ⟨t, hexec, ?_, ?_, hsent⟩ <;> rw [hctx]
  · rw [full_retire]
    exact (full_mark_w ..).trans (if_pos rfl)
  · rfl

/-! ## Views given up or made smaller (R75, R80) -/

/-- A word that places a notice of a view and writes its register. -/
theorem notice_of_issue {i : Instr} {r : WordRule} {body : State → Did} {w : BitVec 3} {v v' : View}
    {left : Option (BitVec 32 × BitVec 32)} (hexec : exec i s = issue r body s) (hclear : s.Clear r) (hcls : r.cls = 0)
    (hbody : body s = (s.viewEntry v left).2.place (s.viewEntry v left).1 fun u => .done (u.modCtx (·.writeW w v'))) :
    ∃ t : State, exec i s = .next t ∧ (∀ j, t.ctx.readW j = if j = w then v' else s.ctx.readW j) ∧
      s.sentOut t (.view (regionStack v.region) (.notice v.handle v.region left)) := by
  obtain ⟨t, ht, hctx, hsent⟩ := sent_of_issue hexec hclear hcls hroom hbody rfl rfl
  refine ⟨t, ht, fun j => ?_, hsent⟩
  rw [hctx, readW_retire, readW_writeW]

theorem vdrop_live {w : BitVec 3} (hclear : s.Clear { srcs := [(.w w, false)], dests := [.w w] }) :
    let v := s.ctx.readW w
    v.live = true →
    ∃ t : State, exec (.vdrop w) s = .next t ∧ (∀ j, t.ctx.readW j = if j = w then View.null else s.ctx.readW j) ∧
      s.sentOut t (.view (regionStack v.region) (.notice v.handle v.region none)) := by
  intro v hlive
  exact notice_of_issue hroom (exec_vdrop s) hclear rfl (by dsimp only; rw [if_pos hlive]; rfl)

theorem vnarrow_within {o : ViewNarrow}
    (hclear : s.Clear { srcs := [(.x o.ra, o.ea), (.x o.rb, o.eb), (.w o.ws, false)], dests := [.w o.ws] }) :
    let v := s.ctx.readW o.ws
    let a := s.ctx.readX o.ra
    let b := s.ctx.readX o.rb
    v.live = true → v.lo.toNat ≤ a.toNat → b.toNat ≤ v.hi.toNat → a.toNat ≤ b.toNat →
    ∃ t : State, exec (.vnarrow o) s = .next t ∧ (∀ j, t.ctx.readW j = if j = o.ws then
        (if a = b then View.null else { v with lo := a.setWidth 32, hi := b.setWidth 32 }) else s.ctx.readW j) ∧
      s.sentOut t (.view (regionStack v.region) (.notice v.handle v.region
        (if a = b then none else some (a.setWidth 32, b.setWidth 32)))) := by
  intro v a b hlive hlo hhi hab
  have hin : ¬(decide (a.toNat < v.lo.toNat) || decide (v.hi.toNat < b.toNat) || decide (b.toNat < a.toNat)) = true := by
    simp [hlo, hhi, hab]
  have hlive' : ¬(!v.live) = true := by simp [hlive]
  by_cases he : a = b
  · rw [if_pos he, if_pos he]
    exact notice_of_issue hroom (exec_vnarrow s) hclear rfl
      (by dsimp only; rw [if_neg hlive', if_neg hin, if_pos he]; rfl)
  · rw [if_neg he, if_neg he]
    exact notice_of_issue hroom (exec_vnarrow s) hclear rfl
      (by dsimp only; rw [if_neg hlive', if_neg hin, if_neg he])

end Requests

/-! ## Words that change views in place (R75) -/

section InPlace
variable {s : State}

theorem vdemote_live {o : ViewMask} (hclear : s.Clear { srcs := [(.w o.ws, false)], dests := [.w o.ws] }) :
    let v := s.ctx.readW o.ws
    v.live = true → exec (.vdemote o) s = .next (s.past 0 (s.modCtx (·.writeW o.ws { v with
      canW := v.canW && !o.mask.getLsbD 2, canR := v.canR && !o.mask.getLsbD 1, canA := v.canA && !o.mask.getLsbD 0 }))) := by
  intro v hlive
  have hlive' : ¬(!v.live) = true := by simp [hlive]
  exact exec_of_issue_modCtx (exec_vdemote s) hclear rfl (if_neg hlive') rfl

theorem vquery_part {o : ViewQuery} (hclear : s.Clear { srcs := [(.w o.ws, o.eb)], dests := [.x o.rd] }) :
    let v := s.ctx.readW o.ws
    exec (.vquery o) s = .next (s.wroteX o.rd (if o.sel = 0 then v.base else if o.sel = 1 then v.hi ++ v.lo else v.middle)) := by
  intro v
  rw [exec_vquery, execVquery, issue_of_clear hclear]
  refine (outcome_done_writeX ..).trans ?_
  obtain ⟨rd, ws, eb, ⟨sel, hsel⟩⟩ := o
  match sel with
  | 0 => rfl
  | 1 => rfl
  | n + 2 => rfl

theorem vmove_moves {o : ViewTwo} (hclear : s.Clear { srcs := [(.w o.ws, o.eb)], dests := [.w o.wd, .w o.ws] })
    (hwd : (s.ctx.readW o.wd).live = false) :
    ∃ t : State, exec (.vmove o) s = .next t ∧ t.ctx.pc = s.ctx.pc + 4 ∧ t.ctx.x = s.ctx.x ∧ t.mem = s.mem ∧
      ∀ i, t.ctx.readW i = if i = o.ws then View.null else if i = o.wd then s.ctx.readW o.ws else s.ctx.readW i := by
  refine ⟨_, exec_of_issue_modCtx (exec_vmove s) hclear rfl (if_neg (by simp [hwd])) rfl, ?_⟩
  rw [ctx_past, ctx_modCtx]
  exact ⟨rfl, rfl, rfl, fun i => by rw [readW_retire, readW_writeW, readW_writeW]⟩

end InPlace

/-! ## The obligation -/

/-- Settles O30: a request or a notice is one entry placed in the outbox, with the view register marked or written after it. -/
theorem viewWords : Obligations.ViewWords := by
  unfold Obligations.ViewWords
  refine ⟨⟨fun o s hclear => ⟨fun hlive => ?newLive, fun hwd hroom => crnew_request hroom hclear hwd⟩,
      fun o s hclear => ?split, fun o s hclear => ?share⟩,
    ⟨fun o s hclear => ⟨fun hlive => ?demoteNull, vdemote_live hclear⟩, fun o s hclear => vquery_part hclear,
      fun o s hclear => ⟨fun hlive => ?moveLive, vmove_moves hclear⟩⟩,
    fun w s hclear => ?drop, fun o s hclear => ?narrow⟩
  case newLive => exact faulted_of_issue (exec_crnew s) hclear (if_pos hlive)
  case split =>
    intro v x hwd
    refine ⟨fun hout => faulted_of_issue (exec_vsplit s) hclear ?_,
      fun hlive hlo hhi hroom => vsplit_request hroom hclear hwd hlive hlo hhi⟩
    dsimp only
    rw [hwd, if_neg Bool.false_ne_true]
    exact if_pos (by simpa [or_assoc] using hout)
  case share =>
    intro v hwd
    refine ⟨fun hbar => faulted_of_issue (exec_vshare s) hclear ?_,
      fun hlive hw hroom => vshare_request hroom hclear hwd hlive hw⟩
    dsimp only
    rw [hwd, if_neg Bool.false_ne_true]
    exact if_pos (by simpa using hbar)
  case demoteNull => exact faulted_of_issue (exec_vdemote s) hclear (if_pos (by simpa using hlive))
  case moveLive => exact faulted_of_issue (exec_vmove s) hclear (if_pos hlive)
  case drop =>
    intro v
    refine ⟨fun hnull => ?_, fun hlive hroom => ?_⟩
    · rw [exec_vdrop, execVdrop, issue_of_clear hclear]
      exact congrArg (Did.outcome 0) (if_neg (ne_true_of_eq_false hnull))
    · obtain ⟨t, hexec, hw, hsent⟩ := vdrop_live hroom hclear hlive
      exact ⟨t, hexec, (hw w).trans (if_pos rfl), fun i hi => (hw i).trans (if_neg hi), hsent⟩
  case narrow =>
    intro v a b hlive
    have hlive' : ¬(!v.live) = true := by simp [hlive]
    refine ⟨fun hout => faulted_of_issue (exec_vnarrow s) hclear ?_, fun hlo hhi hab hroom => ?_⟩
    · dsimp only
      rw [if_neg hlive']
      exact if_pos (by simpa [or_assoc] using hout)
    · obtain ⟨t, hexec, hw, hsent⟩ := vnarrow_within hroom hclear hlive hlo hhi hab
      exact ⟨t, hexec, fun i hi => (hw i).trans (if_neg hi), (hw o.ws).trans (if_pos rfl), hsent⟩

end Sys2Proof.Machine
end

section
/-!
PROOFS. What the part's reads of memory rest on, and what its charges leave of the Colanders (R29, R70, R340, R343, R356).
-/

namespace Sys2Proof.Machine

/-! ## Stacks -/

/-- A stack is changed, and the others stay. -/
theorem stack_modStack (s : State) (k j : Nat) (f : Stack → Stack) :
    (s.modStack k f).stack j = if j % 4 = k % 4 then f (s.stack j) else s.stack j := by
  by_cases h : j % 4 = k % 4
  · have e : ∀ u : State, u.stack j = u.stack k := fun u => by simp only [State.stack, h]
    rw [if_pos h, e, e, stack_modStack_self]
  · rw [if_neg h, stack_modStack_ne _ _ _ _ h]

/-! ## Reads of memory by the part itself -/

/-- Two states in which the part reads the same of memory: the same bytes, keys, migrations, tables and pounds. -/
structure State.SameReads (s t : State) : Prop where
  mem      : t.mem = s.mem
  lineKeys : t.lineKeys = s.lineKeys
  keyGens  : t.keyGens = s.keyGens
  freeCtr  : t.freeCtr = s.freeCtr
  devRegs  : t.devRegs = s.devRegs
  pounds   : t.pounds = s.pounds
  mig      : ∀ k i, (t.stack k).migEntry i = (s.stack k).migEntry i

section Reads
variable {s t : State} (h : s.SameReads t)
include h

theorem State.SameReads.devReg (r : DevReg) : t.devReg r = s.devReg r := by rw [State.devReg, State.devReg, h.devRegs]

theorem State.SameReads.poundOfTag (tag : Nat) : t.poundOfTag tag = s.poundOfTag tag := by
  rw [State.poundOfTag, State.poundOfTag, h.pounds]

theorem State.SameReads.readDram (pa n slot : Nat) : t.readDram pa n slot = s.readDram pa n slot := by
  have hline : ∀ l, t.lineUnder l slot = s.lineUnder l slot := fun l => by
    rw [State.lineUnder, State.lineUnder, State.keyNow, State.keyNow, h.mem, h.lineKeys, h.keyGens]
  simp only [State.readDram, hline]

theorem State.SameReads.migOf (pa : Nat) : t.migOf pa = s.migOf pa := by
  simp only [State.migOf, h.mig]

theorem State.SameReads.homeRead (pa n key : Nat) : t.homeRead pa n key = s.homeRead pa n key := by
  simp only [State.homeRead, State.peerByte, h.migOf, h.readDram, h.freeCtr]

theorem State.SameReads.homeReadN (pa key n : Nat) : t.homeReadN pa key n = s.homeReadN pa key n := by
  induction n generalizing pa with
  | zero => rfl
  | succ n ih => rw [State.homeReadN, State.homeReadN, h.homeRead, ih]

theorem State.SameReads.readPhys (pa n : Nat) : t.readPhys pa n = s.readPhys pa n := by
  simp only [State.readPhys, h.migOf, h.mem, h.homeReadN]

theorem State.SameReads.bucketFind (at_ tagWord i n : Nat) : bucketFind t at_ tagWord i n = bucketFind s at_ tagWord i n := by
  induction n generalizing i with
  | zero => rfl
  | succ n ih => simp only [Machine.bucketFind, h.readPhys, ih]

theorem State.SameReads.bucketLookup (tag vpn : Nat) : t.bucketLookup tag vpn = s.bucketLookup tag vpn := by
  simp only [State.bucketLookup, State.shardOf, h.poundOfTag, h.devReg, h.bucketFind]

theorem State.SameReads.nodeSlot (node va : Nat) (best : Option Nat) (i n : Nat) :
    nodeSlot t node va best i n = nodeSlot s node va best i n := by
  induction n generalizing best i with
  | zero => rfl
  | succ n ih => simp only [Machine.nodeSlot, h.readPhys, ih]

theorem State.SameReads.treeFind (node va n : Nat) : treeFind t node va n = treeFind s node va n := by
  induction n generalizing node with
  | zero => rfl
  | succ n ih => simp only [Machine.treeFind, h.readPhys, h.nodeSlot, ih]

theorem State.SameReads.walk (cluster : Nat) (tag : BitVec 16) (va : Nat) : t.walk cluster tag va = s.walk cluster tag va := by
  simp only [State.walk, State.treeLookup, h.bucketLookup, h.devReg, h.treeFind]

theorem State.SameReads.leafOk (tag : Nat) (l : Word) (target : Nat) : t.leafOk tag l target = s.leafOk tag l target := by
  simp only [State.leafOk, State.keyOk, State.routeOk, h.poundOfTag, h.devReg]

theorem State.SameReads.blockAt (tag : Nat) (va : Word) : t.blockAt tag va = s.blockAt tag va := by
  simp only [State.blockAt, State.leafOfTag, h.poundOfTag, h.walk, h.leafOk]

theorem State.SameReads.budget (tag : Nat) (block : Word) (which : Nat) : t.budget tag block which = s.budget tag block which := by
  simp only [State.budget, State.peekVa, h.blockAt, h.homeReadN]

end Reads

/-! ## What writes and charges leave of the Colanders -/

/-- Two states with the same Colanders and the same answers on their way. -/
structure State.SameColanders (s t : State) : Prop where
  colander : ∀ k, (t.stack k).colander = (s.stack k).colander
  answers  : t.answers = s.answers

theorem State.SameColanders.refl (s : State) : s.SameColanders s := ⟨fun _ => rfl, rfl⟩
theorem State.SameColanders.trans {s t u : State} (h : s.SameColanders t) (k : t.SameColanders u) : s.SameColanders u :=
  ⟨fun n => (k.colander n).trans (h.colander n), k.answers.trans h.answers⟩
theorem sameColanders_of_stk {s t : State} (h : t.stk = s.stk) (ha : t.answers = s.answers) : s.SameColanders t :=
  ⟨fun k => by rw [State.stack, State.stack]; simp only [h], ha⟩
theorem sameColanders_modStack (s : State) (k : Nat) {f : Stack → Stack} (hf : ∀ t, (f t).colander = t.colander) :
    s.SameColanders (s.modStack k f) := by
  refine ⟨fun j => ?_, rfl⟩
  rw [stack_modStack]
  split
  · exact hf _
  · rfl

section Charges
variable (s : State)

theorem sameColanders_rekey (line slot : Nat) : s.SameColanders (s.rekey line slot) := by
  unfold State.rekey
  dsimp only
  split
  · split <;> exact sameColanders_of_stk rfl rfl
  · exact sameColanders_of_stk rfl rfl

theorem sameColanders_writeDram (pa slot : Nat) (mask : BitVec 16) (data : Nat) :
    s.SameColanders (s.writeDram pa slot mask data) := by
  unfold State.writeDram
  refine State.SameColanders.trans (t := if lineOf (pa + 15) = lineOf pa then s.rekey (lineOf pa) slot
    else (s.rekey (lineOf pa) slot).rekey (lineOf (pa + 15)) slot) ?_ (sameColanders_of_stk rfl rfl)
  split
  · exact sameColanders_rekey ..
  · exact (sameColanders_rekey ..).trans (sameColanders_rekey ..)

theorem sameColanders_homeWrite (r : MemReq) (mask : BitVec 16) (data : BitVec 128) :
    s.SameColanders (s.homeWrite r mask data) := by
  unfold State.homeWrite
  split
  · exact sameColanders_writeDram ..
  · split
    · split
      · exact sameColanders_writeDram ..
      · exact sameColanders_of_stk rfl rfl
    · exact sameColanders_modStack _ _ fun _ => rfl

theorem sameColanders_homeWriteN (r : MemReq) (pa : Nat) (bs : List Byte) : s.SameColanders (s.homeWriteN r pa bs) := by
  induction bs generalizing s pa with
  | nil => exact .refl s
  | cons b bs ih => exact (sameColanders_homeWrite s _ _ _).trans (ih _ _)

theorem sameColanders_pokeVa (tag : Nat) (va : Word) (bs : List Byte) : s.SameColanders (s.pokeVa tag va bs) := by
  unfold State.pokeVa
  split
  · exact .refl s
  · exact sameColanders_homeWriteN ..

theorem sameColanders_countLost (tag : Nat) (rcb : Word) : s.SameColanders (s.countLost tag rcb) := by
  unfold State.countLost
  dsimp only
  split
  · exact sameColanders_pokeVa ..
  · exact .refl s

theorem sameColanders_dropPayload (core : Nat) (p : Payload) : s.SameColanders (s.dropPayload core p) := by
  rcases dropPayload_cases s core p with ⟨v, h⟩ | h <;> rw [h] <;> exact sameColanders_of_stk rfl rfl

theorem sameColanders_undeliver (core : Nat) (m : Msg) : s.SameColanders (s.undeliver core m) := by
  unfold State.undeliver
  split
  · exact (sameColanders_dropPayload ..).trans (sameColanders_countLost ..)
  · exact sameColanders_of_stk rfl rfl

theorem sameColanders_portCharge (rte : Word) (tag : Nat) (rcb : Word) (n : Nat) :
    s.SameColanders (s.portCharge rte tag rcb n) := by
  have hstack : ∀ k, s.SameColanders (s.chargeStack k 12 n) := fun k => by
    unfold State.chargeStack
    exact sameColanders_modStack _ _ fun _ => rfl
  unfold State.portCharge
  dsimp only
  split
  · exact hstack _
  · exact (hstack _).trans (sameColanders_of_stk rfl rfl)

theorem sameColanders_admitFor (tag core : Nat) (m : Msg) : s.SameColanders (s.admitFor tag core m) := by
  unfold State.admitFor
  split
  · exact sameColanders_undeliver ..
  · split
    case h_1 => exact sameColanders_of_stk rfl rfl
    case h_2 =>
      split
      · exact sameColanders_undeliver ..
      · exact sameColanders_of_stk rfl rfl
    case h_3 => exact (sameColanders_portCharge ..).trans (sameColanders_of_stk rfl rfl)
    case h_4 => exact sameColanders_undeliver ..

theorem sameColanders_setBudget (core tag : Nat) (block : Word) (which v : Nat) :
    s.SameColanders (s.setBudget core tag block which v) := by
  have hpoke := sameColanders_pokeVa s tag (block + BitVec.ofNat 64 (32 + 8 * which)) (toBytes 8 v)
  unfold State.setBudget
  extract_lets old at_ u
  split
  · split
    · exact hpoke
    · refine State.SameColanders.trans ?_ (sameColanders_admitFor ..)
      exact ⟨hpoke.colander, hpoke.answers⟩
  · exact hpoke

theorem sameColanders_chargeBudget (core tag : Nat) (block : Word) (which n : Nat) :
    s.SameColanders (s.chargeBudget core tag block which n) := by
  unfold State.chargeBudget
  extract_lets old
  split
  · exact .refl s
  · exact sameColanders_setBudget ..

end Charges

end Sys2Proof.Machine
end

section
/-!
PROOFS. The Colander's own steps (R70, R72, R75, R79 to R81).
-/

namespace Sys2Proof.Machine

/-! ## A Colander's tables -/

/-- A Colander changed. -/
def State.modColander (s : State) (k : Nat) (f : Colander → Colander) : State :=
  s.modStack k fun t => { t with colander := f t.colander }

@[simp] theorem colander_modColander (s : State) (k : Nat) (f : Colander → Colander) :
    ((s.modColander k f).stack k).colander = f (s.stack k).colander := by
  rw [State.modColander, stack_modStack_self]

/-- A Colander's queue changes nothing that the part reads of memory. -/
theorem sameReads_modColander (s : State) (k : Nat) (f : Colander → Colander) : s.SameReads (s.modColander k f) := by
  refine ⟨rfl, rfl, rfl, rfl, rfl, rfl, fun j i => ?_⟩
  rw [State.modColander, stack_modStack]
  split <;> rfl

/-- The queue with its head taken. -/
def State.popped (s : State) (k : Nat) (rest : List ViewReq) : State := s.modColander k fun c => { c with queue := rest }

/-- A Colander apart from the next handle and the next serial it gives. -/
def Colander.apartFromNames (c : Colander) : Colander := { c with handle := none, serial := none }

section Names
variable {s t : State} {k : Nat}

/-- A new handle changes nothing of its Colander but the handle that comes next. -/
theorem newHandle_spec {h : BitVec 32} (hn : s.newHandle k = (h, t)) : t.answers = s.answers ∧
    (t.stack k).colander.apartFromNames = (s.stack k).colander.apartFromNames := by
  have ht : t = (s.newHandle k).2 := by rw [hn]
  subst ht
  unfold State.newHandle
  dsimp only [State.free]
  exact ⟨rfl, by rw [stack_modStack_self]; rfl⟩

/-- A new serial changes nothing of its Colander but the serial that comes next. -/
theorem newSerial_spec {n : BitVec 22} (hn : s.newSerial k = (n, t)) : t.answers = s.answers ∧
    (t.stack k).colander.apartFromNames = (s.stack k).colander.apartFromNames := by
  have ht : t = (s.newSerial k).2 := by rw [hn]
  subst ht
  unfold State.newSerial
  dsimp only [State.free]
  rw [stack_modStack_self]
  split <;> exact ⟨rfl, rfl⟩

end Names

/-- The step of a Colander whose queue has a head. -/
theorem takeView_head {k : Nat} {s : State} {r : ViewReq} {rest : List ViewReq} (hk : k < 4)
    (hq : (s.stack k).colander.queue = r :: rest) (f : ViewReq → State → Option State) :
    takeView k s f = .next ((f r (s.popped k rest)).getD s) := by
  rw [takeView, event_next (decide_eq_true hk), hq]
  rfl

@[simp] theorem colander_popped (s : State) (k : Nat) (rest : List ViewReq) :
    ((s.popped k rest).stack k).colander = { (s.stack k).colander with queue := rest } := colander_modColander ..

/-- An answer on its way. -/
def State.answering (s : State) (a : ViewAnswer) : State := { s with answers := s.answers ++ [a] }

@[simp] theorem stack_answering (s : State) (a : ViewAnswer) (k : Nat) : (s.answering a).stack k = s.stack k := rfl

/-! ## CRNEW answered (R70, R72) -/

/-- What a Colander makes of a CRNEW: the reason it refuses it for, or the first span it grants. -/
def State.crnewCase (s : State) (k : Nat) (bytes spansAt : Word) (tag : BitVec 16) : BitVec 3 ⊕ Nat :=
  let c := (s.stack k).colander
  let pool := s.pool k tag.toNat
  let n := (bytes.toNat + 1023) / 1024
  if bytes = 0 || 2 ^ 30 < bytes.toNat || pool.2 = 0 then .inl 4
  else if maxRegions ≤ c.regions.length || maxViews ≤ c.views.length then .inl 5
  else (lowestRun (c.used tag pool.1) pool.2 n).elim (.inl 2) fun a =>
    if s.budget tag.toNat spansAt 2 < n then .inl 3 else .inr a

section Case
variable {s : State} {k : Nat} {bytes spansAt : Word} {tag : BitVec 16}

theorem crnewCase_size (h : bytes = 0 ∨ 2 ^ 30 < bytes.toNat ∨ (s.pool k tag.toNat).2 = 0) :
    s.crnewCase k bytes spansAt tag = .inl 4 :=
  if_pos (by simpa [or_assoc] using h)

variable (hsize : ¬(bytes = 0 ∨ 2 ^ 30 < bytes.toNat ∨ (s.pool k tag.toNat).2 = 0))
include hsize

theorem crnewCase_tables (h : maxRegions ≤ (s.stack k).colander.regions.length ∨ maxViews ≤ (s.stack k).colander.views.length) :
    s.crnewCase k bytes spansAt tag = .inl 5 :=
  (if_neg (by simpa [or_assoc] using hsize)).trans (if_pos (by simpa using h))

variable (hroom : ¬(maxRegions ≤ (s.stack k).colander.regions.length ∨ maxViews ≤ (s.stack k).colander.views.length))
include hroom

theorem crnewCase_noRun (h : lowestRun ((s.stack k).colander.used tag (s.pool k tag.toNat).1) (s.pool k tag.toNat).2
    ((bytes.toNat + 1023) / 1024) = none) : s.crnewCase k bytes spansAt tag = .inl 2 :=
  (if_neg (by simpa [or_assoc] using hsize)).trans ((if_neg (by simpa using hroom)).trans (by rw [h]; rfl))

theorem crnewCase_run {a : Nat} (h : lowestRun ((s.stack k).colander.used tag (s.pool k tag.toNat).1) (s.pool k tag.toNat).2
    ((bytes.toNat + 1023) / 1024) = some a) : s.crnewCase k bytes spansAt tag =
      if s.budget tag.toNat spansAt 2 < (bytes.toNat + 1023) / 1024 then .inl 3 else .inr a :=
  (if_neg (by simpa [or_assoc] using hsize)).trans ((if_neg (by simpa using hroom)).trans (by rw [h]; rfl))

end Case

/-- A Colander that grants `n` spans from span `a` up: charged, named, entered in the tables and answered. -/
def State.granted (s : State) (k core ctx seq : Nat) (wd : BitVec 3) (spansAt : Word) (tag : BitVec 16) (n a : Nat) : State :=
  let first := (s.pool k tag.toNat).1 + 1024 * a
  let serial := (s.chargeBudget core tag.toNat spansAt 2 n).newSerial k
  let handle := serial.2.newHandle k
  let id : BitVec 24 := BitVec.ofNat 2 k ++ serial.1
  let hi := BitVec.ofNat 32 (1024 * n)
  let zeros := (List.range n).map fun j => (tag.toNat, first / 1024 + j)
  (handle.2.modColander k fun c => { c with
    regions := ⟨id, BitVec.ofNat 64 first, n, [], spansAt, tag⟩ :: c.regions
    views := ⟨handle.1, id, 0, hi⟩ :: c.views
    zero := zeros ++ c.zero.filter fun z => !zeros.contains z }).answering
      ⟨core, ctx, seq, wd, ⟨BitVec.ofNat 64 first, id, handle.1, true, true, true, 0, hi, 0⟩, none⟩

/-- What a grant leaves of the Colander, and what it answers (R70). -/
theorem granted_spec (s : State) (k core ctx seq : Nat) (wd : BitVec 3) (spansAt : Word) (tag : BitVec 16) (n a : Nat) :
    ∃ (v : View) (r : CovRegion), let t := s.granted k core ctx seq wd spansAt tag n a
      t.answers = s.answers ++ [⟨core, ctx, seq, wd, v, none⟩] ∧ (t.stack k).colander.queue = (s.stack k).colander.queue ∧
      (t.stack k).colander.regions = r :: (s.stack k).colander.regions ∧ v.live = true ∧
      v.base = BitVec.ofNat 64 ((s.pool k tag.toNat).1 + 1024 * a) ∧ v.lo = 0 ∧ v.hi = BitVec.ofNat 32 (1024 * n) ∧
      (v.canR && v.canW && v.canA) = true ∧ r.id = v.region ∧ r.base = v.base ∧ r.spans = n ∧ r.tag = tag := by
  have hcharge := sameColanders_chargeBudget s core tag.toNat spansAt 2 n
  unfold State.granted
  dsimp only
  rcases hserial : (s.chargeBudget core tag.toNat spansAt 2 n).newSerial k with ⟨serial, u⟩
  dsimp only
  rcases hhandle : u.newHandle k with ⟨handle, w⟩
  dsimp only
  obtain ⟨hserialAnswers, hserialTables⟩ := newSerial_spec hserial
  obtain ⟨hhandleAnswers, hhandleTables⟩ := newHandle_spec hhandle
  have hkept := hhandleTables.trans (hserialTables.trans (congrArg Colander.apartFromNames (hcharge.colander k)))
  have hanswers : w.answers = s.answers := hhandleAnswers.trans (hserialAnswers.trans hcharge.answers)
  have hqueue : (w.stack k).colander.queue = (s.stack k).colander.queue := (congrArg Colander.queue hkept :)
  have hregions : (w.stack k).colander.regions = (s.stack k).colander.regions := (congrArg Colander.regions hkept :)
  exact ⟨⟨BitVec.ofNat 64 ((s.pool k tag.toNat).1 + 1024 * a), BitVec.ofNat 2 k ++ serial, handle, true, true, true, 0, _, 0⟩,
    ⟨BitVec.ofNat 2 k ++ serial, BitVec.ofNat 64 ((s.pool k tag.toNat).1 + 1024 * a), n, [], spansAt, tag⟩,
    congrArg (· ++ _) hanswers, by rw [stack_answering, colander_modColander]; exact hqueue,
    by rw [stack_answering, colander_modColander]; exact congrArg (_ :: ·) hregions, rfl, rfl, rfl, rfl, rfl, rfl, rfl, rfl, rfl⟩

section Allocate
variable {k core ctx seq : Nat} {wd : BitVec 3} {bytes spansAt rcb : Word} {tag : BitVec 16} {rest : List ViewReq} {s : State}
  (hk : k < 4) (hq : (s.stack k).colander.queue = .alloc core ctx seq wd bytes spansAt rcb tag :: rest)
include hk hq

/-- The CRNEW at the head of the queue is taken, and refused or granted. -/
theorem exec_colanderAllocate_head : exec (.colanderAllocate k) s = .next ((s.crnewCase k bytes spansAt tag).elim
    (fun code => (s.popped k rest).answering ⟨core, ctx, seq, wd, refusedView code, none⟩)
    ((s.popped k rest).granted k core ctx seq wd spansAt tag ((bytes.toNat + 1023) / 1024))) := by
  have hbudget : (s.popped k rest).budget tag.toNat spansAt 2 = s.budget tag.toNat spansAt 2 :=
    (sameReads_modColander ..).budget ..
  rw [exec_colanderAllocate, execColanderAllocate, takeView_head hk hq]
  unfold State.crnewCase
  dsimp only
  rw [colander_popped, hbudget, show (s.popped k rest).pool k tag.toNat = s.pool k tag.toNat from rfl]
  by_cases hsize : (decide (bytes = 0) || decide (2 ^ 30 < bytes.toNat) || decide ((s.pool k tag.toNat).2 = 0)) = true
  · rw [if_pos hsize, if_pos hsize]
    rfl
  rw [if_neg hsize, if_neg hsize]
  by_cases hfull : (decide (maxRegions ≤ (s.stack k).colander.regions.length) ||
      decide (maxViews ≤ (s.stack k).colander.views.length)) = true
  · rw [if_pos hfull, if_pos hfull]
    rfl
  rw [if_neg hfull, if_neg hfull, show ({ (s.stack k).colander with queue := rest } : Colander).used tag (s.pool k tag.toNat).1 =
    (s.stack k).colander.used tag (s.pool k tag.toNat).1 from rfl]
  cases lowestRun ((s.stack k).colander.used tag (s.pool k tag.toNat).1) (s.pool k tag.toNat).2 ((bytes.toNat + 1023) / 1024) with
  | none => rfl
  | some a =>
    dsimp only [Option.elim]
    split
    · rfl
    · rfl

/-- A refused CRNEW is answered with its reason, and the tables stay. -/
theorem colanderAllocate_refuses {code : BitVec 3} (hcase : s.crnewCase k bytes spansAt tag = .inl code) :
    ∃ t : State, exec (.colanderAllocate k) s = .next t ∧
      t.answers = s.answers ++ [⟨core, ctx, seq, wd, { View.null with status := code }, none⟩] ∧
      (t.stack k).colander.queue = rest ∧ (t.stack k).colander.regions = (s.stack k).colander.regions := by
  refine ⟨_, exec_colanderAllocate_head hk hq, ?_⟩
  rw [hcase, Sum.elim_inl, stack_answering, colander_popped]
  exact ⟨rfl, rfl, rfl⟩

/-- A granted CRNEW. -/
theorem colanderAllocate_grants {a : Nat} (hcase : s.crnewCase k bytes spansAt tag = .inr a) :
    let pool := s.pool k tag.toNat
    let n := (bytes.toNat + 1023) / 1024
    ∃ t : State, ∃ (v : View) (r : CovRegion), exec (.colanderAllocate k) s = .next t ∧
      t.answers = s.answers ++ [⟨core, ctx, seq, wd, v, none⟩] ∧ (t.stack k).colander.queue = rest ∧
      (t.stack k).colander.regions = r :: (s.stack k).colander.regions ∧ v.live = true ∧
      v.base = BitVec.ofNat 64 (pool.1 + 1024 * a) ∧ v.lo = 0 ∧ v.hi = BitVec.ofNat 32 (1024 * n) ∧
      (v.canR && v.canW && v.canA) = true ∧ r.id = v.region ∧ r.base = v.base ∧ r.spans = n ∧ r.tag = tag := by
  intro pool n
  obtain ⟨v, r, hanswers, hqueue, hregions, hview⟩ := granted_spec (s.popped k rest) k core ctx seq wd spansAt tag n a
  rw [colander_popped] at hqueue hregions
  refine ⟨_, v, r, exec_colanderAllocate_head hk hq, ?_⟩
  rw [hcase, Sum.elim_inr]
  exact ⟨hanswers, hqueue, hregions, hview⟩

end Allocate

end Sys2Proof.Machine
end

section
/-!
PROOFS. Splits, shares, answers and notices of views (R75, R80, R81).
-/

namespace Sys2Proof.Machine

/-! ## VSPLIT and VSHARE answered (R75, R80) -/

section Requests
variable {k core ctx seq : Nat} {wd ws : BitVec 3} {v : View} {cut : BitVec 32} {rest : List ViewReq} {s : State} (hk : k < 4)
include hk

theorem colanderSplit_refuses (hq : (s.stack k).colander.queue = .split core ctx seq wd ws v cut :: rest)
    (hfull : maxViews ≤ (s.stack k).colander.views.length) : exec (.colanderSplit k) s =
      .next ((s.popped k rest).answering ⟨core, ctx, seq, wd, refusedView 5, some (ws, v)⟩) := by
  rw [exec_colanderSplit, execColanderSplit, takeView_head hk hq]
  dsimp only
  rw [colander_popped, if_pos hfull]
  rfl

theorem colanderShare_refuses (hq : (s.stack k).colander.queue = .share core ctx seq wd v :: rest)
    (hfull : maxViews ≤ (s.stack k).colander.views.length) : exec (.colanderShare k) s =
      .next ((s.popped k rest).answering ⟨core, ctx, seq, wd, refusedView 5, none⟩) := by
  rw [exec_colanderShare, execColanderShare, takeView_head hk hq]
  dsimp only
  rw [colander_popped, if_pos hfull]
  rfl

omit hk in
/-- A view entered in a Colander's tables under a new handle, and the request for it answered. -/
theorem entered_spec {u : State} {h : BitVec 32} (hu : (s.popped k rest).newHandle k = (h, u)) (x : CovView) (a : ViewAnswer) :
    let t := (u.modColander k fun c => { c with views := x :: c.views }).answering a
    (t.stack k).colander.queue = rest ∧ t.answers = s.answers ++ [a] ∧ x ∈ (t.stack k).colander.views := by
  intro t
  obtain ⟨hanswers, htables⟩ := newHandle_spec hu
  rw [colander_popped] at htables
  have ht : (t.stack k).colander = { (u.stack k).colander with views := x :: (u.stack k).colander.views } := by
    simp only [t, stack_answering, colander_modColander]
  rw [ht]
  exact ⟨(congrArg Colander.queue htables :), congrArg (· ++ [a]) hanswers, List.mem_cons_self⟩

theorem colanderSplit_grants (hq : (s.stack k).colander.queue = .split core ctx seq wd ws v cut :: rest)
    (hroom : ¬maxViews ≤ (s.stack k).colander.views.length) :
    ∃ t : State, ∃ h : BitVec 32, exec (.colanderSplit k) s = .next t ∧ (t.stack k).colander.queue = rest ∧
      t.answers = s.answers ++ [⟨core, ctx, seq, wd, { v with handle := h, lo := cut }, some (ws, { v with hi := cut })⟩] ∧
      (⟨h, v.region, cut, v.hi⟩ : CovView) ∈ (t.stack k).colander.views := by
  rcases hu : (s.popped k rest).newHandle k with ⟨h, u⟩
  refine ⟨_, h, ?_, entered_spec hu _ _⟩
  rw [exec_colanderSplit, execColanderSplit, takeView_head hk hq]
  dsimp only
  rw [colander_popped, if_neg hroom, hu]
  rfl

theorem colanderShare_grants (hq : (s.stack k).colander.queue = .share core ctx seq wd v :: rest)
    (hroom : ¬maxViews ≤ (s.stack k).colander.views.length) :
    ∃ t : State, ∃ h : BitVec 32, exec (.colanderShare k) s = .next t ∧ (t.stack k).colander.queue = rest ∧
      t.answers = s.answers ++ [⟨core, ctx, seq, wd, { v with handle := h }, none⟩] ∧
      (⟨h, v.region, v.lo, v.hi⟩ : CovView) ∈ (t.stack k).colander.views := by
  rcases hu : (s.popped k rest).newHandle k with ⟨h, u⟩
  refine ⟨_, h, ?_, entered_spec hu _ _⟩
  rw [exec_colanderShare, execColanderShare, takeView_head hk hq]
  dsimp only
  rw [colander_popped, if_neg hroom, hu]
  rfl

end Requests

/-! ## Notices (R79, R80, R81) -/

/-- A Colander apart from its regions. -/
def Colander.apartFromRegions (c : Colander) : Colander := { c with regions := [] }

/-- Spans freed change regions and a budget, and nothing else of the Colander. -/
theorem apartFromRegions_freeSpans (s : State) (k : Nat) (id : BitVec 24) :
    ((s.freeSpans k id).stack k).colander.apartFromRegions = (s.stack k).colander.apartFromRegions := by
  unfold State.freeSpans
  extract_lets c
  split
  case h_1 => rfl
  case h_2 =>
    extract_lets gone r' u
    have hu : (u.stack k).colander.apartFromRegions = (s.stack k).colander.apartFromRegions := by
      simp only [u, stack_modStack_self]
      rfl
    split
    · exact hu
    · exact (congrArg Colander.apartFromRegions ((sameColanders_pokeVa ..).colander k)).trans hu

/-- The views of a Colander's table after a notice: one gone, or smaller. -/
def noticedViews (h : BitVec 32) (i : Option (BitVec 32 × BitVec 32)) (vs : List CovView) : List CovView :=
  match i with
  | none => vs.filter (·.handle != h)
  | some (lo, hi) => vs.map fun x => if x.handle = h then { x with lo := lo, hi := hi } else x

theorem colanderNotice_takes {k : Nat} {h : BitVec 32} {id : BitVec 24} {i : Option (BitVec 32 × BitVec 32)} {rest : List ViewReq}
    {s : State} (hk : k < 4) (hq : (s.stack k).colander.queue = .notice h id i :: rest) :
    ∃ t : State, exec (.colanderNotice k) s = .next t ∧ (t.stack k).colander.queue = rest ∧
      (t.stack k).colander.views = noticedViews h i (s.stack k).colander.views := by
  have hexec : exec (.colanderNotice k) s = .next
      (((s.popped k rest).modColander k fun c => { c with views := noticedViews h i c.views }).freeSpans k id) := by
    rw [exec_colanderNotice, execColanderNotice, takeView_head hk hq]
    cases i <;> rfl
  have htables := apartFromRegions_freeSpans ((s.popped k rest).modColander k fun c => { c with views := noticedViews h i c.views }) k id
  rw [colander_modColander, colander_popped] at htables
  exact ⟨_, hexec, (congrArg Colander.queue htables :), (congrArg Colander.views htables :)⟩

/-! ## Answers (R75, R80) -/

/-- A notice that a core comes to owe changes nothing else of it. -/
theorem apartFromOwed_oweSplit (s : State) (a : ViewAnswer) (n : Nat) :
    ((s.oweSplit a).core n).apartFromOwed = (s.core n).apartFromOwed := by
  unfold State.oweSplit
  split
  · rfl
  · split
    · exact apartFromOwed_owe ..
    · rfl

/-- A context that has been given a view: its register is full. -/
def Ctx.given (c : Ctx) (i : BitVec 3) (v : View) : Ctx := (c.writeW i v).mark (.w i) true

theorem readW_given (c : Ctx) (i j : BitVec 3) (v : View) : (c.given i v).readW j = if j = i then v else c.readW j :=
  readW_writeW ..
theorem full_given (c : Ctx) (i j : BitVec 3) (v : View) : (c.given i v).full (.w j) = if j = i then true else c.full (.w j) :=
  full_mark_w ..

/-- Two contexts with the same views, and the same of their registers full. -/
structure Ctx.SameViews (c d : Ctx) : Prop where
  w : d.w = c.w
  wfull : d.wfull = c.wfull

theorem Ctx.SameViews.readW {c d : Ctx} (h : c.SameViews d) (i : BitVec 3) : d.readW i = c.readW i := by
  simp only [Ctx.readW, h.w]
theorem Ctx.SameViews.full {c d : Ctx} (h : c.SameViews d) (i : BitVec 3) : d.full (.w i) = c.full (.w i) := by
  simp only [Ctx.full, h.wfull]

theorem sameViews_takeAnswer_none (c : Ctx) (seq : Nat) {a : ViewAnswer} (h : a.back = none) :
    (c.given a.dest a.view).SameViews (c.takeAnswer seq a) := by
  unfold Ctx.takeAnswer
  rw [h]
  exact ⟨rfl, rfl⟩

theorem sameViews_takeAnswer_some (c : Ctx) (seq : Nat) {a : ViewAnswer} {w : BitVec 3} {v : View} (h : a.back = some (w, v)) :
    ((c.given a.dest a.view).given w v).SameViews (c.takeAnswer seq a) := by
  unfold Ctx.takeAnswer
  rw [h]
  exact ⟨rfl, rfl⟩

/-- A context that takes an answer has the views it asked for, and their registers are full. -/
theorem takeAnswer_spec (c : Ctx) (seq : Nat) (a : ViewAnswer) : let d := c.takeAnswer seq a
    d.full (.w a.dest) = true ∧ (a.back = none → d.readW a.dest = a.view) ∧
    ∀ w v, a.back = some (w, v) → d.readW w = v ∧ d.full (.w w) = true ∧ (w ≠ a.dest → d.readW a.dest = a.view) := by
  intro d
  cases hback : a.back with
  | none =>
    have h := sameViews_takeAnswer_none c seq hback
    exact ⟨by rw [h.full, full_given, if_pos rfl], fun _ => by rw [h.readW, readW_given, if_pos rfl], nofun⟩
  | some p =>
    have h := sameViews_takeAnswer_some c seq (w := p.1) (v := p.2) hback
    refine ⟨by rw [h.full, full_given, full_given, if_pos rfl, ite_self], nofun, fun w v hwv => ?_⟩
    obtain rfl : p = (w, v) := Option.some.inj hwv
    exact ⟨by rw [h.readW, readW_given, if_pos rfl], by rw [h.full, full_given, if_pos rfl],
      fun hne => by rw [h.readW, readW_given, if_neg hne.symm, readW_given, if_pos rfl]⟩

/-- The answer at the head of those on their way reaches a context that waits for it, of a body that is not paired. -/
theorem colanderAnswer_reaches {a : ViewAnswer} {rest : List ViewAnswer} {s : State} (ha : s.answers = a :: rest)
    (hwait : ((s.core a.core).ctx a.ctx).pends.any (·.seq == a.seq) = true) (hpair : (s.core a.core).pairOf a.ctx = none) :
    ∃ t : State, exec (.colanderAnswer 0) s = .next t ∧ t.answers = rest ∧
      (t.core a.core).ctx a.ctx = ((s.core a.core).ctx a.ctx).takeAnswer a.seq a := by
  let u := ({ s with answers := rest } : State).modCtxOf a.core a.ctx fun c => c.takeAnswer a.seq a
  have howe := apartFromOwed_oweSplit u a a.core
  have hucore : u.core a.core = (s.core a.core).modCtx a.ctx fun c => c.takeAnswer a.seq a := core_modCore_self ..
  have hctx : ((u.oweSplit a).core a.core).ctx a.ctx = ((s.core a.core).ctx a.ctx).takeAnswer a.seq a :=
    (congrArg (Core.ctx · a.ctx) howe :).trans (ctxOf_modCtxOf ..)
  have hpair' : ((u.oweSplit a).core a.core).pairOf a.ctx = none := by
    refine (congrArg (Core.pairOf · a.ctx) howe :).trans ?_
    rw [hucore]
    exact hpair
  have hother : (u.oweSplit a).otherCopy a.core a.ctx a.seq = none := by rw [State.otherCopy, hpair']; rfl
  have hexec : exec (.colanderAnswer 0) s = .next (u.oweSplit a) := by
    rw [exec_colanderAnswer, execColanderAnswer, ha]
    dsimp only [List.getElem?_cons_zero]
    refine congrArg Host.Outcome.next ((if_neg Bool.false_ne_true).trans ((if_pos hwait).trans ?_))
    dsimp only [List.eraseIdx_cons_zero]
    rw [hother]
  refine ⟨_, hexec, ?_, hctx⟩
  unfold State.oweSplit
  split
  · rfl
  · split <;> rfl

/-! ## Notices that leave their core (R76, R80, R215) -/

theorem popOut_of_spill_nil {s : State} {core : Nat} (h : (s.core core).spill = []) :
    s.popOut core = s.modCore core fun c => { c with outbox := c.outbox.drop 1 } := by
  unfold State.popOut
  dsimp only
  rw [h]
  rfl

/-- The notice at the head of an outbox leaves for its Colander once its view is idle and no earlier notice about it is there. -/
theorem exec_viewNoticeSend_head {core k q st : Nat} {h : BitVec 32} {id : BitVec 24} {i : Option (BitVec 32 × BitVec 32)} {sc : Scope}
    {cv : List Cover} {vh : Option (BitVec 32)} {rest : List OutEntry} {s : State} (hcore : coreIn core = true)
    (hout : (s.core core).outbox = ⟨.view st (.notice h id i), k, sc, cv, vh, q⟩ :: rest) (hpair : (s.core core).pairOf k = none)
    (hidle : cv.all (fun v => s.viewIdle core h id v.upTo) = true) (hfirst : (s.core core).noticeBefore h q = false)
    (hspill : (s.core core).spill = []) : exec (.viewNoticeSend core) s =
      .next ((s.modCore core fun c => { c with outbox := c.outbox.drop 1 }).toColander st (.notice h id i)) := by
  rw [exec_viewNoticeSend, execViewNoticeSend, event_next hcore, hout]
  dsimp only
  rw [pairGate_of_unpaired hpair, hidle, hfirst, popOut_of_spill_nil hspill]
  rfl

/-! ## The obligation -/

/-- Settles O31: each step takes the head of its queue, and what it makes of it is one change of the Colander's tables and one answer;
charges, refunds and new names leave the tables and the answers alone. -/
theorem theColander : Obligations.TheColander := by
  unfold Obligations.TheColander
  refine ⟨fun k core ctx seq wd bytes spansAt rcb tag rest s hk hq => ?alloc,
    fun k core ctx seq wd ws v cut rest s hk hq => ?split, fun k core ctx seq wd v rest s hk hq => ?share,
    fun k h id i rest s hk hq => ?notice, fun a rest s ha hwait hpair => ?answer,
    fun core k q st h id i sc cv vh rest s hcore hout hpair hidle hfirst hspill => ?leave⟩
  case alloc =>
    intro c pool n refuse
    refine ⟨fun h => colanderAllocate_refuses hk hq (crnewCase_size h), fun hsome hmax hpool => ?_⟩
    have hsize : ¬(bytes = 0 ∨ 2 ^ 30 < bytes.toNat ∨ pool.2 = 0) := by
      rintro (h | h | h)
      · exact hsome h
      · omega
      · exact hpool h
    refine ⟨fun h => colanderAllocate_refuses hk hq (crnewCase_tables hsize h), fun hregions hviews => ?_⟩
    have hroom : ¬(16384 ≤ c.regions.length ∨ 65536 ≤ c.views.length) := by omega
    refine ⟨fun h => colanderAllocate_refuses hk hq (crnewCase_noRun hsize hroom h), fun a ha => ⟨fun h => ?_, fun h => ?_⟩⟩
    · exact colanderAllocate_refuses hk hq ((crnewCase_run hsize hroom ha).trans (if_pos h))
    · exact colanderAllocate_grants hk hq ((crnewCase_run hsize hroom ha).trans (if_neg (Nat.not_lt.mpr h)))
  case split =>
    by_cases hfull : 65536 ≤ (s.stack k).colander.views.length
    · rw [if_pos hfull]
      exact ⟨_, colanderSplit_refuses hk hq hfull, rfl⟩
    · rw [if_neg hfull]
      exact colanderSplit_grants hk hq hfull
  case share =>
    by_cases hfull : 65536 ≤ (s.stack k).colander.views.length
    · rw [if_pos hfull]
      exact ⟨_, colanderShare_refuses hk hq hfull, rfl⟩
    · rw [if_neg hfull]
      exact colanderShare_grants hk hq hfull
  case notice =>
    obtain ⟨t, hexec, hqueue, hviews⟩ := colanderNotice_takes hk hq
    exact ⟨t, hexec, hqueue, hviews.trans (by cases i <;> rfl)⟩
  case answer =>
    obtain ⟨t, hexec, hanswers, hctx⟩ := colanderAnswer_reaches ha hwait hpair
    refine ⟨t, hexec, hanswers, ?_⟩
    rw [hctx]
    exact takeAnswer_spec ..
  case leave =>
    refine ⟨_, exec_viewNoticeSend_head hcore hout hpair hidle hfirst hspill, ?_, ?_⟩
    · rw [State.toColander, core_modStack, core_modCore_self, hout]
      rfl
    · rw [State.toColander, stack_modStack_self]
      rfl

end Sys2Proof.Machine
end

section
/-!
PROOFS. What a word that keeps its context and memory leaves, and what a translation leaves (R199, R343).
-/

namespace Sys2Proof.Machine

/-! ## What a change of one or several cores keeps -/

/-- What a change of a core keeps of every core, a change of one of them keeps of all. -/
theorem core_modCore_keeps {α : Type} {π : Core → α} {f : Core → Core} (hf : ∀ c, π (f c) = π c) (s : State) (m n : Nat) :
    π ((s.modCore m f).core n) = π (s.core n) := by
  by_cases h : n = m
  · rw [h, core_modCore_self, hf]
  · rw [core_modCore_ne _ _ _ _ h]

theorem core_foldl_modCore_keeps {α : Type} {π : Core → α} {f : Core → Core} (hf : ∀ c, π (f c) = π c) (l : List Nat) (s : State)
    (n : Nat) : π ((l.foldl (fun s m => s.modCore m f) s).core n) = π (s.core n) := by
  induction l generalizing s with
  | nil => rfl
  | cons m l ih => exact (ih (s.modCore m f)).trans (core_modCore_keeps hf s m n)

/-- A word that retires keeps of every core what is not its contexts. -/
theorem core_past_keeps {α : Type} {π : Core → α} (hπ : ∀ (c : Core) k f, π (c.modCtx k f) = π c) (s : State) (cls : Nat) (t : State)
    (n : Nat) : π ((s.past cls t).core n) = π (t.core n) :=
  core_modCore_keeps (fun c => hπ c t.cur.2 _) t t.cur.1 n

theorem lookupD_map {α : Type} {d : α} {f : Nat → α → α} (hf : ∀ n, f n d = d) (k : Nat) (l : List (Nat × α)) :
    lookupD d k (l.map fun p => (p.1, f p.1 p.2)) = f k (lookupD d k l) := by
  induction l with
  | nil => exact (hf k).symm
  | cons p l ih =>
    simp only [List.map_cons, lookupD]
    by_cases h : p.1 = k
    · rw [if_pos h, if_pos h, h]
    · rw [if_neg h, if_neg h, ih]

/-- A change that leaves an untouched core as it is changes each core listed. -/
theorem core_modCores {f : Core → Core} (hf : f Core.reset = Core.reset) (s : State) (ns : List Nat) (n : Nat) :
    (s.modCores ns f).core n = if n ∈ ns then f (s.core n) else s.core n := by
  have hmap : (s.modCores ns f).cores = s.cores.map fun p => (p.1, if p.1 ∈ ns then f p.2 else p.2) := by
    refine List.map_congr_left fun p _ => ?_
    by_cases h : p.1 ∈ ns <;> simp [h]
  rw [State.core, hmap, lookupD_map (f := fun n c => if n ∈ ns then f c else c) fun n => ?_, State.core]
  rw [hf, ite_self]

theorem core_modCores_mem {f : Core → Core} (hf : f Core.reset = Core.reset) (s : State) {ns : List Nat} {n : Nat} (h : n ∈ ns) :
    (s.modCores ns f).core n = f (s.core n) := by
  rw [core_modCores hf, if_pos h]

theorem core_modCores_keeps {α : Type} {π : Core → α} {f : Core → Core} (hreset : f Core.reset = Core.reset)
    (hf : ∀ c, π (f c) = π c) (s : State) (ns : List Nat) (n : Nat) : π ((s.modCores ns f).core n) = π (s.core n) := by
  rw [core_modCores hreset]
  split
  · exact hf _
  · rfl

/-! ## A word that keeps its context -/

/-- Two states with the same acting context, but for what it has acquired, and the same bytes of memory. -/
structure State.SameCtx (s t : State) : Prop where
  ctx     : t.ctx.apartFromAcq = s.ctx.apartFromAcq
  mem     : t.mem = s.mem
  weights : t.weights = s.weights

theorem State.SameCtx.refl (s : State) : s.SameCtx s := ⟨rfl, rfl, rfl⟩
theorem State.SameCtx.trans {s t u : State} (h : s.SameCtx t) (k : t.SameCtx u) : s.SameCtx u :=
  ⟨k.ctx.trans h.ctx, k.mem.trans h.mem, k.weights.trans h.weights⟩

section SameCtx
variable {s t : State} (h : s.SameCtx t)
include h

theorem State.SameCtx.pc : t.ctx.pc = s.ctx.pc := (congrArg Ctx.pc h.ctx :)
theorem State.SameCtx.x : t.ctx.x = s.ctx.x := (congrArg Ctx.x h.ctx :)

theorem State.SameCtx.outcome : (Did.done t).outcome 0 = .next (s.past 0 t) := by
  rw [Did.outcome, h.pc]
  rfl

/-- A word that retires with its context kept has issued, and owes and asks for nothing. -/
theorem State.SameCtx.issued : s.issued (s.past 0 t) := by
  have hctx := h.ctx
  unfold State.issued
  rw [ctx_past]
  exact ⟨rfl, h.x, (congrArg Ctx.v hctx :), (congrArg Ctx.m hctx :), (congrArg Ctx.w hctx :), (congrArg Ctx.q hctx :),
    (congrArg Ctx.fpflags hctx :), (congrArg Ctx.fpctl hctx :), h.mem, h.weights⟩

theorem State.SameCtx.pends_past : (s.past 0 t).ctx.pends = s.ctx.pends := by
  rw [ctx_past]
  exact (congrArg Ctx.pends h.ctx :)

theorem State.SameCtx.full_past (r : RegName) : (s.past 0 t).ctx.full r = s.ctx.full r := by
  have hacq (c : Ctx) : c.apartFromAcq.full r = c.full r := by cases r <;> rfl
  rw [ctx_past, full_retire, ← hacq, h.ctx, hacq]

end SameCtx

theorem sameCtx_of_cores {s t : State} (hcores : t.cores = s.cores) (hcur : t.cur = s.cur) (hmem : t.mem = s.mem)
    (hweights : t.weights = s.weights) : s.SameCtx t := by
  refine ⟨?_, hmem, hweights⟩
  simp only [State.ctx, State.me, State.core, hcur, hcores]

/-- A change of some cores that keeps their contexts. -/
theorem sameCtx_modCores {f : Core → Core} (hreset : f Core.reset = Core.reset) (hf : ∀ c : Core, (f c).ctxs = c.ctxs) (s : State)
    (ns : List Nat) : s.SameCtx (s.modCores ns f) := by
  refine ⟨congrArg Ctx.apartFromAcq ?_, rfl, rfl⟩
  exact core_modCores_keeps (π := fun c => c.ctx s.cur.2) hreset (fun c => by simp only [Core.ctx, hf]) s ns s.cur.1

theorem sameCtx_modMe {f : Core → Core} (hf : ∀ c : Core, (f c).ctxs = c.ctxs) (s : State) : s.SameCtx (s.modMe f) := by
  refine ⟨congrArg Ctx.apartFromAcq ?_, rfl, rfl⟩
  exact core_modCore_keeps (π := fun c => c.ctx s.cur.2) (fun c => by simp only [Core.ctx, hf]) s s.cur.1 s.cur.1

/-! ## Translation (R343) -/

/-- A core apart from its TLBs. -/
def Core.apartFromTlbs (c : Core) : Core := { c with dtlb := [], itlb := [] }
/-- A state apart from its cores, its clusters and what is noted of it. -/
def State.apartFromWalk (s : State) : State := { s.apartFromUnits with occurs := [] }

/-- Two states that differ in no more than their cores' TLBs, their clusters and what is noted of them. -/
structure State.SameButTlbs (s t : State) : Prop where
  rest : t.apartFromWalk = s.apartFromWalk
  core (n : Nat) : (t.core n).apartFromTlbs = (s.core n).apartFromTlbs

/-- A translation changes no more than the TLBs, and notes a miss. -/
theorem sameButTlbs_translate (s : State) (core : Nat) (fetch : Bool) (va : Word) :
    s.SameButTlbs (s.translate core fetch va).2 := by
  have hput (e : TlbEntry) (c : Core) : (if fetch then { c with itlb := pageOf e va.toNat :: c.itlb }
      else { c with dtlb := pageOf e va.toNat :: c.dtlb } : Core).apartFromTlbs = c.apartFromTlbs := by
    split <;> rfl
  unfold State.translate
  extract_lets c k tag a put
  split
  · exact ⟨rfl, fun _ => rfl⟩
  · split
    · exact ⟨rfl, core_modCore_keeps (hput _) (s.note _) core⟩
    · split
      · exact ⟨rfl, core_modCore_keeps (hput _) ((s.note _).modCluster k _) core⟩
      · exact ⟨rfl, fun _ => rfl⟩

theorem sameButTlbs_of_translate {s u : State} {core : Nat} {fetch : Bool} {va : Word} {r : Option (Nat × Word)}
    (h : s.translate core fetch va = (r, u)) : s.SameButTlbs u := by
  have hs := sameButTlbs_translate s core fetch va
  rw [h] at hs
  exact hs

section SameButTlbs
variable {s u : State} (h : s.SameButTlbs u)
include h

theorem State.SameButTlbs.cur : u.cur = s.cur := (congrArg State.cur h.rest :)
theorem State.SameButTlbs.mem : u.mem = s.mem := (congrArg State.mem h.rest :)
theorem State.SameButTlbs.net : u.net = s.net := (congrArg State.net h.rest :)

theorem State.SameButTlbs.me : u.me.apartFromTlbs = s.me.apartFromTlbs := by
  rw [State.me, State.me, h.cur]
  exact h.core _

theorem State.SameButTlbs.ctx : u.ctx = s.ctx := by
  rw [State.ctx, State.ctx, h.cur]
  exact (congrArg (Core.ctx · s.cur.2) h.me :)

theorem State.SameButTlbs.sameCtx : s.SameCtx u := ⟨by rw [h.ctx], h.mem, (congrArg State.weights h.rest :)⟩

theorem State.SameButTlbs.leafOk (l : Word) (pa : Nat) :
    u.leafOk (u.tagOf u.cur.1).toNat l pa = s.leafOk (s.tagOf s.cur.1).toNat l pa := by
  have hreads : s.SameReads u := ⟨h.mem, (congrArg State.lineKeys h.rest :), (congrArg State.keyGens h.rest :),
    (congrArg State.freeCtr h.rest :), (congrArg State.devRegs h.rest :), (congrArg State.pounds h.rest :),
    fun k i => (congrArg (fun s : State => (s.stack k).migEntry i) h.rest :)⟩
  have htag : u.tagOf u.cur.1 = s.tagOf s.cur.1 := by
    rw [h.cur]
    exact (congrArg (State.tagOf · s.cur.1) h.rest :)
  rw [htag, hreads.leafOk]

/-- A precise fault found after a translation is taken as one found before it. -/
theorem State.SameButTlbs.faulted (f : FaultInfo) : s.faulted (u.raise f) f := by
  have hf := faulted_raise u f
  unfold State.faulted at hf ⊢
  rw [h.ctx, h.cur, h.mem, show u.me.packets = s.me.packets from (congrArg Core.packets h.me :)] at hf
  exact hf

end SameButTlbs

/-! ## Prefetches (R78, R207) -/

/-- A prefetch that retires with its context kept. -/
theorem pref_retires {o : Prefetch} {s t : State} (hexec : exec (.pref o) s = (Did.done t).outcome 0) (h : s.SameCtx t) :
    ∃ t' : State, (exec (.pref o) s = .next t' ∧ s.issued t' ∧ t'.ctx.pends = s.ctx.pends ∧ ∀ r, t'.ctx.full r = s.ctx.full r) ∧
      t'.net = t.net :=
  ⟨s.past 0 t, ⟨hexec.trans h.outcome, h.issued, h.pends_past, h.full_past⟩, rfl⟩

section Pref
variable {o : Prefetch} {s : State} (hclear : s.Clear { imm := true, cpol := true, srcs := [(.x o.base, o.ea)] })
include hclear

theorem exec_pref_window (hva : inWindows (s.ctx.memAddr o.base o.off 1) = true) : exec (.pref o) s = (Did.done s).outcome 0 := by
  rw [exec_pref, execPref, issue_of_clear hclear, if_pos hva]

variable (hva : inWindows (s.ctx.memAddr o.base o.off 1) = false)
include hva

theorem exec_pref_miss {u : State} (hu : s.translate s.cur.1 false (s.ctx.memAddr o.base o.off 1) = (none, u)) :
    exec (.pref o) s = (Did.done u).outcome 0 := by
  rw [exec_pref, execPref, issue_of_clear hclear]
  simp only [hva, hu, Bool.false_eq_true, if_false]

variable {pa : Nat} {l : Word} {u : State} (hu : s.translate s.cur.1 false (s.ctx.memAddr o.base o.off 1) = (some (pa, l), u))
include hu

theorem exec_pref_covered (hcr : leafCR l = true) :
    exec (.pref o) s = (Did.fault u (atAddr .viewClass (s.ctx.memAddr o.base o.off 1))).outcome 0 := by
  rw [exec_pref, execPref, issue_of_clear hclear]
  simp only [hva, hu, hcr, Bool.false_eq_true, if_false, if_true]

theorem exec_pref_dropped (hcr : leafCR l = false)
    (hno : leafR l = false ∨ leafTgt l ≠ 0 ∨ s.leafOk (s.tagOf s.cur.1).toNat l pa = false) :
    exec (.pref o) s = (Did.done u).outcome 0 := by
  have htest : (!leafR l || leafTgt l != 0 || !u.leafOk (u.tagOf u.cur.1).toNat l pa) = true := by
    rw [(sameButTlbs_of_translate hu).leafOk]
    rcases hno with h | h | h
    · rw [h]
      rfl
    · rw [bne_iff_ne.mpr h, Bool.or_true, Bool.true_or]
    · rw [h, Bool.not_false, Bool.or_true]
  rw [exec_pref, execPref, issue_of_clear hclear]
  simp only [hva, hu, hcr, htest, Bool.false_eq_true, if_false, if_true]

/-- A line that may be read is asked for: its request joins the network. -/
theorem exec_pref_asks (hcr : leafCR l = false) (hr : leafR l = true) (htgt : leafTgt l = 0)
    (hok : s.leafOk (s.tagOf s.cur.1).toNat l pa = true) :
    ∃ r : MemReq, exec (.pref o) s = (Did.done { u with seq := u.seq + 1, net := u.net ++ [r] }).outcome 0 ∧ r.pa = pa ∧
      ∃ f1 fc k, r.op = .read 1 f1 fc k := by
  have htest : (!leafR l || leafTgt l != 0 || !u.leafOk (u.tagOf u.cur.1).toNat l pa) = false := by
    rw [(sameButTlbs_of_translate hu).leafOk, hr, htgt, hok]
    rfl
  refine ⟨⟨.load u.cur.1 u.cur.2 u.seq 0, .read 1 (u.ctx.policy.2 && o.level == 0) (u.ctx.policy.2 && decide (o.level.toNat ≤ 1))
    (lineRank u.ctx.policy.1 l), s.ctx.memAddr o.base o.off 1, pa, leafKey l, none, u.tagOf u.cur.1, u.cur.1, u.ctx.region.rcb,
    u.ctx.region.energyAt, false, none, 0, 0⟩, ?_, rfl, _, _, _, rfl⟩
  rw [exec_pref, execPref, issue_of_clear hclear]
  simp only [hva, hu, hcr, htest, Bool.false_eq_true, if_false]
  rfl

end Pref

end Sys2Proof.Machine
end

section
/-!
PROOFS. The keeper's cache words (R216, R217).
-/

namespace Sys2Proof.Machine

/-! ## Words on a line -/

section KeeperLine
variable {o : KeeperM} {s : State} (hclear : s.Clear { priv := true, imm := true, srcs := [(.x o.base, o.ea)] })
  (f : State → Nat → Nat → Did)
include hclear

theorem keeperLine_window (hva : inWindows (s.ctx.memAddr o.base o.off 1) = true) :
    keeperLine o f s = (Did.done s).outcome 0 := by
  rw [keeperLine, issue_of_clear hclear, if_pos hva]

variable (hva : inWindows (s.ctx.memAddr o.base o.off 1) = false) {pa : Nat} {l : Word} {u : State}
  (hu : s.translate s.cur.1 false (s.ctx.memAddr o.base o.off 1) = (some (pa, l), u))
include hva hu

theorem keeperLine_remote (htgt : leafTgt l ≠ 0) : keeperLine o f s = (Did.done u).outcome 0 := by
  rw [keeperLine, issue_of_clear hclear]
  simp only [hva, hu, bne_iff_ne.mpr htgt, Bool.false_eq_true, if_false, if_true]

theorem keeperLine_local (htgt : leafTgt l = 0) (hok : s.leafOk (s.tagOf s.cur.1).toNat l pa = true) :
    keeperLine o f s = (f u pa (leafKey l)).outcome 0 := by
  have hok' : u.leafOk (u.tagOf u.cur.1).toNat l pa = true := (sameButTlbs_of_translate hu).leafOk l pa ▸ hok
  have htgt' : (leafTgt l != 0) = false := bne_eq_false_iff_eq.mpr htgt
  rw [keeperLine, issue_of_clear hclear]
  simp only [hva, hu, htgt', hok', Bool.not_true, Bool.false_eq_true, if_false]

/-- A word on a line of local DRAM that keeps its context retires, with what it has made of the part. -/
theorem keeperLine_retires (htgt : leafTgt l = 0) (hok : s.leafOk (s.tagOf s.cur.1).toNat l pa = true) {t : State}
    (hf : f u pa (leafKey l) = .done t) (ht : u.SameCtx t) : keeperLine o f s = .next (s.past 0 t) ∧ s.issued (s.past 0 t) := by
  have hst := (sameButTlbs_of_translate hu).sameCtx.trans ht
  refine ⟨?_, hst.issued⟩
  rw [keeperLine_local hclear f hva hu htgt hok, hf, hst.outcome]

end KeeperLine

/-! ## What the words make of the caches -/

/-- A line dropped from the L1s and the cluster cache of a cluster (CFLUSH.drop). -/
def State.lineDropped (s : State) (k pa : Nat) : State :=
  (s.modCores (clusterCores k) fun c => { c with l1 := dropLine c.l1 pa }).modCluster k fun c => { c with lines := dropLine c.lines pa }

/-- The lines of an address's home slice changed (CFLUSH.home, CFLUSH.clean). -/
def State.homeLines (s : State) (pa : Nat) (g : List L2Line → List L2Line) : State :=
  s.modStack (paStack pa) (·.modSlice (paSlice pa) fun l => { l with lines := g l.lines })

/-- The instruction caches of some cores changed, and code acquired at their cluster cache (CINV). -/
def State.codeDropped (s : State) (k : Nat) (ns : List Nat) (g : List Line → List Line) : State :=
  (s.modCores ns fun c => { c with icache := g c.icache }).acquireCode k

theorem cluster_past (s : State) (cls : Nat) (t : State) (k : Nat) : (s.past cls t).cluster k = t.cluster k := rfl
theorem stack_past (s : State) (cls : Nat) (t : State) (k : Nat) : (s.past cls t).stack k = t.stack k := rfl
theorem l1_past (s : State) (cls : Nat) (t : State) (n : Nat) : ((s.past cls t).core n).l1 = (t.core n).l1 :=
  core_past_keeps (π := Core.l1) (fun _ _ _ => rfl) ..
theorem icache_past (s : State) (cls : Nat) (t : State) (n : Nat) : ((s.past cls t).core n).icache = (t.core n).icache :=
  core_past_keeps (π := Core.icache) (fun _ _ _ => rfl) ..

theorem pa_ne_of_mem_dropLine {ls : List Line} {pa : Nat} {x : Line} (h : x ∈ dropLine ls pa) : x.pa ≠ lineOf pa :=
  bne_iff_ne.mp (List.mem_filter.mp h).2

theorem sameCtx_lineDropped (s : State) (k pa : Nat) : s.SameCtx (s.lineDropped k pa) :=
  (sameCtx_modCores (f := fun c => { c with l1 := dropLine c.l1 pa }) rfl (fun _ => rfl) s (clusterCores k)).trans
    (sameCtx_of_cores rfl rfl rfl rfl)

theorem lines_lineDropped (s : State) (k pa : Nat) : ((s.lineDropped k pa).cluster k).lines = dropLine (s.cluster k).lines pa := by
  rw [State.lineDropped, cluster_modCluster_self]
  rfl

theorem l1_lineDropped (s : State) (k pa : Nat) {n : Nat} (hn : n ∈ clusterCores k) :
    ((s.lineDropped k pa).core n).l1 = dropLine (s.core n).l1 pa := by
  rw [State.lineDropped, core_modCluster, core_modCores_mem rfl s hn]

theorem sameCtx_homeLines (s : State) (pa : Nat) (g : List L2Line → List L2Line) : s.SameCtx (s.homeLines pa g) :=
  sameCtx_of_cores rfl rfl rfl rfl

theorem lines_homeLines (s : State) (pa : Nat) (g : List L2Line → List L2Line) :
    (((s.homeLines pa g).stack (paStack pa)).slice (paSlice pa)).lines = g ((s.stack (paStack pa)).slice (paSlice pa)).lines := by
  rw [State.homeLines, stack_modStack_self, slice_modSlice_self]

/-- No copy of a line is dirty once they are written clean. -/
theorem dirty_of_mem_cleaned {ls : List L2Line} {a : Nat} {x : L2Line}
    (h : x ∈ ls.map fun y => if y.pa = a then { y with dirty := false } else y) (hx : x.pa = a) : x.dirty = false := by
  obtain ⟨y, -, rfl⟩ := List.mem_map.mp h
  by_cases hy : y.pa = a
  · rw [if_pos hy]
  · rw [if_neg hy] at hx
    exact absurd hx hy

theorem icache_modAll (f : Ctx → Ctx) (c : Core) : (c.modAll f).icache = c.icache := rfl

theorem icache_stepCl (s : State) (k n : Nat) : ((s.stepCl k).core n).icache = (s.core n).icache := by
  unfold State.stepCl
  dsimp only
  split
  · exact core_foldl_modCore_keeps (π := Core.icache) (icache_modAll _) _ (s.modCluster k _) n
  · rfl

theorem icache_acquireCode (s : State) (k n : Nat) : ((s.acquireCode k).core n).icache = (s.core n).icache := by
  rw [State.acquireCode, core_modCluster, icache_stepCl]

theorem codeAcq_acquireCode (s : State) (k : Nat) : ((s.acquireCode k).cluster k).codeAcq = ((s.acquireCode k).cluster k).epoch := by
  rw [State.acquireCode, cluster_modCluster_self]

theorem sameCtx_acquireCode (s : State) (k : Nat) : s.SameCtx (s.acquireCode k) := by
  have hunits := apartFromUnits_stepCl s k
  refine ⟨?_, (congrArg State.mem hunits :), (congrArg State.weights hunits :)⟩
  have hcur : (s.stepCl k).cur = s.cur := (congrArg State.cur hunits :)
  rw [State.acquireCode, ctx_modCluster, State.ctx, State.me, hcur]
  exact ((sameButCl_stepCl s k s.cur.1).ctx s.cur.2).1

section CodeDropped
variable {g : List Line → List Line} (hg : g [] = []) (s : State) (k : Nat) (ns : List Nat)
include hg

theorem icacheChange_reset : ({ Core.reset with icache := g Core.reset.icache } : Core) = Core.reset := by
  rw [show Core.reset.icache = [] from rfl, hg]
  rfl

theorem sameCtx_codeDropped : s.SameCtx (s.codeDropped k ns g) :=
  (sameCtx_modCores (f := fun c => { c with icache := g c.icache }) (icacheChange_reset hg) (fun _ => rfl) s ns).trans
    (sameCtx_acquireCode ..)

theorem icache_codeDropped {n : Nat} (hn : n ∈ ns) : ((s.codeDropped k ns g).core n).icache = g (s.core n).icache := by
  rw [State.codeDropped, icache_acquireCode, core_modCores_mem (icacheChange_reset hg) s hn]

end CodeDropped

theorem codeAcq_codeDropped (s : State) (k : Nat) (ns : List Nat) (g : List Line → List Line) :
    ((s.codeDropped k ns g).cluster k).codeAcq = ((s.codeDropped k ns g).cluster k).epoch := codeAcq_acquireCode ..

/-! ## The words on a line of local DRAM -/

section Line
variable {o : KeeperM} {s : State} (hclear : s.Clear { priv := true, imm := true, srcs := [(.x o.base, o.ea)] })
  (hva : inWindows (s.ctx.memAddr o.base o.off 1) = false) {pa : Nat} {l : Word} {u : State}
  (hu : s.translate s.cur.1 false (s.ctx.memAddr o.base o.off 1) = (some (pa, l), u))
  (htgt : leafTgt l = 0) (hok : s.leafOk (s.tagOf s.cur.1).toNat l pa = true)
include hclear hva hu htgt hok

theorem exec_cflushDrop_local : ∃ t : State, exec (.cflushDrop o) s = .next t ∧ s.issued t ∧
    (∀ x ∈ (t.cluster (clusterOf s.cur.1)).lines, x.pa ≠ lineOf pa) ∧
    ∀ n ∈ clusterCores (clusterOf s.cur.1), ∀ x ∈ (t.core n).l1, x.pa ≠ lineOf pa := by
  have hcur := (sameButTlbs_of_translate hu).cur
  obtain ⟨hexec, hissued⟩ := keeperLine_retires hclear (fun s pa _ => .done (s.lineDropped (clusterOf s.cur.1) pa)) hva hu htgt hok
    rfl (sameCtx_lineDropped ..)
  rw [hcur] at hexec hissued
  refine ⟨_, hexec, hissued, fun x hx => ?_, fun n hn x hx => ?_⟩
  · rw [cluster_past, lines_lineDropped] at hx
    exact pa_ne_of_mem_dropLine hx
  · rw [l1_past, l1_lineDropped u _ pa hn] at hx
    exact pa_ne_of_mem_dropLine hx

theorem exec_cflushHome_local : ∃ t : State, exec (.cflushHome o) s = .next t ∧ s.issued t ∧
    ∀ x ∈ ((t.stack (paStack pa)).slice (paSlice pa)).lines, x.pa ≠ lineOf pa := by
  obtain ⟨hexec, hissued⟩ := keeperLine_retires hclear
    (fun s pa _ => .done (s.homeLines pa (·.filter (·.pa != lineOf pa)))) hva hu htgt hok rfl (sameCtx_homeLines ..)
  refine ⟨_, hexec, hissued, fun x hx => ?_⟩
  rw [stack_past, lines_homeLines] at hx
  exact bne_iff_ne.mp (List.mem_filter.mp hx).2

theorem exec_cflushClean_local : ∃ t : State, exec (.cflushClean o) s = .next t ∧ s.issued t ∧
    ∀ x ∈ ((t.stack (paStack pa)).slice (paSlice pa)).lines, x.pa = lineOf pa → x.dirty = false := by
  obtain ⟨hexec, hissued⟩ := keeperLine_retires hclear
    (fun s pa _ => .done (s.homeLines pa (·.map fun x => if x.pa = lineOf pa then { x with dirty := false } else x))) hva hu htgt hok
    rfl (sameCtx_homeLines ..)
  refine ⟨_, hexec, hissued, fun x hx hpa => ?_⟩
  rw [stack_past, lines_homeLines] at hx
  exact dirty_of_mem_cleaned hx hpa

theorem exec_cinvLine_local : ∃ t : State, exec (.cinvLine o) s = .next t ∧ s.issued t ∧
    (t.cluster (clusterOf s.cur.1)).codeAcq = (t.cluster (clusterOf s.cur.1)).epoch ∧
    ∀ n ∈ coresOfCluster (clusterOf s.cur.1), ∀ x ∈ (t.core n).icache, x.pa ≠ lineOf pa := by
  have hcur := (sameButTlbs_of_translate hu).cur
  obtain ⟨hexec, hissued⟩ := keeperLine_retires hclear
    (fun s pa _ => .done (s.codeDropped (clusterOf s.cur.1) (coresOfCluster (clusterOf s.cur.1)) (dropLine · pa))) hva hu htgt hok
    rfl (sameCtx_codeDropped rfl ..)
  rw [hcur] at hexec hissued
  refine ⟨_, hexec, hissued, ?_, fun n hn x hx => ?_⟩
  · rw [cluster_past, codeAcq_codeDropped]
  · rw [icache_past, icache_codeDropped (g := (dropLine · pa)) rfl u _ _ hn] at hx
    exact pa_ne_of_mem_dropLine hx

end Line

/-! ## Words without operands -/

theorem keeperPlain_of_clear {s : State} (hclear : s.Clear { priv := true, imm := true }) (himm : s.ctx.immZ (0 : BitVec 12) = 0)
    (f : State → Did) : keeperPlain f s = (f s).outcome 0 := by
  rw [keeperPlain, issue_of_clear hclear, if_neg (not_not.mpr himm)]

theorem exec_cinvAll_of_clear {s : State} (hclear : s.Clear { priv := true, imm := true }) (himm : s.ctx.immZ (0 : BitVec 12) = 0) :
    ∃ t : State, exec .cinvAll s = .next t ∧ s.issued t ∧
      (t.cluster (clusterOf s.cur.1)).codeAcq = (t.cluster (clusterOf s.cur.1)).epoch ∧
      ∀ n ∈ clusterCores (clusterOf s.cur.1), (t.core n).icache = [] := by
  have hctx := sameCtx_codeDropped (g := fun _ => []) rfl s (clusterOf s.cur.1) (clusterCores (clusterOf s.cur.1))
  refine ⟨_, ?_, hctx.issued, ?_, fun n hn => ?_⟩
  · rw [exec_cinvAll, execCinvAll, keeperPlain_of_clear hclear himm]
    exact hctx.outcome
  · rw [cluster_past, codeAcq_codeDropped]
  · rw [icache_past, icache_codeDropped (g := fun _ => []) rfl s _ _ hn]

end Sys2Proof.Machine
end

section
/-!
PROOFS. The words that drop translations (R218).
-/

namespace Sys2Proof.Machine

/-! ## Cores touched since reset -/

theorem forall_insertAt {α : Type} {P : Nat → α → Prop} {l : List (Nat × α)} (h : ∀ p ∈ l, P p.1 p.2) {k : Nat} {v : α} (hv : P k v) :
    ∀ p ∈ insertAt k v l, P p.1 p.2 := by
  induction l with
  | nil => exact List.forall_mem_singleton.mpr hv
  | cons q l ih =>
    obtain ⟨hq, hl⟩ := List.forall_mem_cons.mp h
    unfold insertAt
    split_ifs
    · exact List.forall_mem_cons.mpr ⟨hv, h⟩
    · exact List.forall_mem_cons.mpr ⟨hv, hl⟩
    · exact List.forall_mem_cons.mpr ⟨hq, ih hl⟩

theorem forall_lookupD {α : Type} {P : Nat → α → Prop} {l : List (Nat × α)} (h : ∀ p ∈ l, P p.1 p.2) {d : α} {k : Nat} (hd : P k d) :
    P k (lookupD d k l) := by
  induction l with
  | nil => exact hd
  | cons q l ih =>
    obtain ⟨hq, hl⟩ := List.forall_mem_cons.mp h
    unfold lookupD
    split_ifs with hk
    · exact hk ▸ hq
    · exact ih hl

theorem exists_insertAt {α : Type} {P : Nat → α → Prop} {l : List (Nat × α)} (h : ∃ p ∈ l, P p.1 p.2) {d v : α} {k : Nat}
    (hv : P k (lookupD d k l) → P k v) : ∃ p ∈ insertAt k v l, P p.1 p.2 := by
  induction l with
  | nil => exact absurd h (by simp)
  | cons q l ih =>
    unfold insertAt
    split_ifs with hlt heq
    · exact List.exists_mem_cons_of_exists h
    · obtain hq | hl := (List.exists_mem_cons_iff ..).mp h
      · subst heq
        exact (List.exists_mem_cons_iff ..).mpr (.inl (hv (by rwa [lookupD, if_pos rfl])))
      · exact List.exists_mem_cons_of_exists hl
    · obtain hq | hl := (List.exists_mem_cons_iff ..).mp h
      · exact (List.exists_mem_cons_iff ..).mpr (.inl hq)
      · refine List.exists_mem_cons_of_exists (ih hl fun hp => hv ?_)
        rwa [lookupD, if_neg (Ne.symm heq)]

section Cores
variable {P : Nat → Core → Prop} {s : State} {f : Core → Core}

/-- What holds of every core touched and of an untouched one holds of every core touched once one of them has changed. -/
theorem forall_cores_modCore (h : ∀ p ∈ s.cores, P p.1 p.2) {n : Nat} (hreset : P n Core.reset) (hf : ∀ c, P n c → P n (f c)) :
    ∀ p ∈ (s.modCore n f).cores, P p.1 p.2 :=
  forall_insertAt h (hf _ (forall_lookupD h hreset))

theorem exists_cores_modCore (h : ∃ p ∈ s.cores, P p.1 p.2) {n : Nat} (hf : ∀ c, P n c → P n (f c)) :
    ∃ p ∈ (s.modCore n f).cores, P p.1 p.2 :=
  exists_insertAt h (hf _)

variable {ns : List Nat} (hf : ∀ n c, P n c → P n (f c))
include hf

theorem forall_cores_modCores (h : ∀ p ∈ s.cores, P p.1 p.2) : ∀ p ∈ (s.modCores ns f).cores, P p.1 p.2 := by
  intro p hp
  obtain ⟨q, hq, rfl⟩ := List.mem_map.mp hp
  split
  · exact hf _ _ (h q hq)
  · exact h q hq

theorem exists_cores_modCores (h : ∃ p ∈ s.cores, P p.1 p.2) : ∃ p ∈ (s.modCores ns f).cores, P p.1 p.2 := by
  obtain ⟨q, hq, hP⟩ := h
  refine ⟨_, List.mem_map_of_mem hq, ?_⟩
  split
  · exact hf _ _ hP
  · exact hP

end Cores

/-! ## Translations dropped -/

/-- A TLB without the entries that a test names. -/
def keptTlb (drop : TlbEntry → Bool) (t : List TlbEntry) : List TlbEntry := t.filter fun e => !drop e

/-- A core without the translations that a test names. -/
def Core.keepTlbs (drop : TlbEntry → Bool) (c : Core) : Core := { c with dtlb := keptTlb drop c.dtlb, itlb := keptTlb drop c.itlb }

/-- What a TLBI of the acting context waits for (R218): the accesses issued before it first issued, in the ranges it has dropped. -/
def State.tlbiWait (s : State) (drop : TlbEntry → Bool) (page : Option Nat) : TlbWait :=
  let k := clusterOf s.cur.1
  let gone := ((s.cluster k).tlb ++ (s.cores.filter fun p => (clusterCores k).contains p.1).flatMap fun p => p.2.dtlb ++ p.2.itlb).filter drop
  let old := s.me.tlbWait.filter (·.ctx == s.cur.2)
  ⟨s.cur.2, old.elim s.seq (·.before), old.elim [] (·.ranges) ++ (gone.map fun e => (e.first, e.limit)) ++
    (page.elim [] fun p => [(p * 2 ^ 16, (p + 1) * 2 ^ 16)])⟩

/-- Whether a TLBI waits for an access of an address under an issue number. -/
def TlbWait.hit (w : TlbWait) (a q : Nat) : Bool :=
  decide (q < w.before) && w.ranges.any fun r => decide (r.1 ≤ a) && decide (a < r.2)

/-- A core with another record of what a TLBI waits for. -/
def Core.withTlbWait (w : Option TlbWait) (c : Core) : Core := { c with tlbWait := w }

/-- The translations dropped from a cluster's TLBs. -/
def State.keepTlbs (s : State) (k : Nat) (drop : TlbEntry → Bool) : State :=
  (s.modCores (clusterCores k) (Core.keepTlbs drop)).modCluster k fun c => { c with tlb := keptTlb drop c.tlb }

/-- The translations dropped from a cluster's TLBs, and a TLBI of the acting context waiting. -/
def State.tlbsDropped (s : State) (k : Nat) (drop : TlbEntry → Bool) (w : Option TlbWait) : State :=
  (s.keepTlbs k drop).modMe (Core.withTlbWait w)

/-- Whether an access that a test names, translated by a core of a cluster, has not performed. -/
def State.openIn (s : State) (k : Nat) (hit : Nat → Nat → Bool) : Bool :=
  s.cores.any (fun p => (clusterCores k).contains p.1 && p.2.translatedOpen hit) ||
    s.requests.any fun r => clusterOf r.node == k && r.pa < Config.csWindow && hit r.va.toNat (r.of.elim 0 (·.2.2))

theorem tlbi_eq (s : State) (drop : TlbEntry → Bool) (page : Option Nat) : tlbi s drop page =
    let k := clusterOf s.cur.1
    let u := s.tlbsDropped k drop (some (s.tlbiWait drop page))
    if u.openIn k (s.tlbiWait drop page).hit = true then .stay u else .done (u.modMe (Core.withTlbWait none)) := rfl

theorem sameCtx_withTlbWait (s : State) (w : Option TlbWait) : s.SameCtx (s.modMe (Core.withTlbWait w)) :=
  sameCtx_modMe (f := Core.withTlbWait w) (fun _ => rfl) s

theorem tlbs_modMe_withTlbWait (s : State) (w : Option TlbWait) (n : Nat) :
    ((s.modMe (Core.withTlbWait w)).core n).dtlb ++ ((s.modMe (Core.withTlbWait w)).core n).itlb = (s.core n).dtlb ++ (s.core n).itlb :=
  core_modCore_keeps (π := fun c => c.dtlb ++ c.itlb) (f := Core.withTlbWait w) (fun _ => rfl) s s.cur.1 n

section Dropped
variable (s : State) (k : Nat) (drop : TlbEntry → Bool) (w : Option TlbWait)

theorem sameCtx_tlbsDropped : s.SameCtx (s.tlbsDropped k drop w) :=
  ((sameCtx_modCores (f := Core.keepTlbs drop) rfl (fun _ => rfl) s (clusterCores k)).trans
    (u := s.keepTlbs k drop) (sameCtx_of_cores rfl rfl rfl rfl)).trans (sameCtx_withTlbWait ..)

theorem tlbs_tlbsDropped {n : Nat} (hn : n ∈ clusterCores k) :
    ((s.tlbsDropped k drop w).core n).dtlb ++ ((s.tlbsDropped k drop w).core n).itlb =
      keptTlb drop (s.core n).dtlb ++ keptTlb drop (s.core n).itlb := by
  rw [State.tlbsDropped, tlbs_modMe_withTlbWait, State.keepTlbs, core_modCluster, core_modCores_mem rfl s hn, Core.keepTlbs]

theorem tlb_tlbsDropped : ((s.tlbsDropped k drop w).cluster k).tlb = keptTlb drop (s.cluster k).tlb := by
  show ((s.keepTlbs k drop).cluster k).tlb = _
  rw [State.keepTlbs, cluster_modCluster_self]
  rfl

end Dropped

theorem drop_of_mem_keptTlb {drop : TlbEntry → Bool} {t : List TlbEntry} {e : TlbEntry} (h : e ∈ keptTlb drop t) : drop e = false :=
  Bool.not_eq_eq_eq_not.mp (List.mem_filter.mp h).2

/-! ## Accesses still open (R218) -/

theorem any_false_mono {α : Type} {l : List α} {p q : α → Bool} (h : l.any p = false) (hqp : ∀ a, q a = true → p a = true) :
    l.any q = false :=
  List.any_eq_false.mpr fun a ha hq => List.any_eq_false.mp h a ha (hqp a hq)

/-- With no translated access of a core open, none that a test names is. -/
theorem translatedOpen_false {c : Core} (h : c.translatedOpen (fun _ _ => true) = false) (hit : Nat → Nat → Bool) :
    c.translatedOpen hit = false := by
  simp only [Core.translatedOpen, Bool.or_eq_false_iff, Bool.and_true] at h ⊢
  obtain ⟨⟨⟨⟨hstores, hq⟩, hout⟩, hspill⟩, hpends⟩ := h
  have hatom (a : AtomEntry) : (decide (a.pa < Config.csWindow) && hit a.va.toNat a.seq) = true → decide (a.pa < Config.csWindow) = true :=
    fun ha => (Bool.and_eq_true_iff.mp ha).1
  refine ⟨⟨⟨⟨any_false_mono hstores fun st hst => (Bool.and_eq_true_iff.mp hst).1, any_false_mono hq hatom⟩,
    any_false_mono hout hatom⟩, any_false_mono hspill fun e he => ?_⟩, any_false_mono hpends fun x hx => ?_⟩
  · cases e with
    | atom a => exact hatom a he
    | out e => exact he
  · obtain ⟨p, hp, hpieces⟩ := List.any_eq_true.mp hx
    obtain ⟨q, hq, hpiece⟩ := List.any_eq_true.mp hpieces
    exact List.any_eq_true.mpr ⟨p, hp, List.any_eq_true.mpr ⟨q, hq, (Bool.and_eq_true_iff.mp hpiece).1⟩⟩

theorem translatedOpen_of_store {c : Core} {st : Store} (hst : st ∈ c.stores) (hwindow : st.window = false) {hit : Nat → Nat → Bool}
    (hhit : hit st.va.toNat st.seq = true) : c.translatedOpen hit = true := by
  have hstores : c.stores.any (fun st => !st.window && hit st.va.toNat st.seq) = true :=
    List.any_eq_true.mpr ⟨st, hst, by rw [hwindow, hhit]; rfl⟩
  simp only [Core.translatedOpen, hstores, Bool.true_or]

section DroppedCores
variable {P : Nat → Core → Prop} {s : State} {k : Nat} (drop : TlbEntry → Bool) (w : Option TlbWait)
  (hkeep : ∀ n c, P n c → P n (Core.keepTlbs drop c)) (hwait : ∀ n c, P n c → P n (Core.withTlbWait w c))
include hkeep hwait

theorem forall_cores_tlbsDropped (h : ∀ p ∈ s.cores, P p.1 p.2) (hreset : P s.cur.1 Core.reset) :
    ∀ p ∈ (s.tlbsDropped k drop w).cores, P p.1 p.2 :=
  forall_cores_modCore (s := s.keepTlbs k drop) (P := P) (forall_cores_modCores (s := s) (P := P) hkeep h) hreset (hwait _)

theorem exists_cores_tlbsDropped (h : ∃ p ∈ s.cores, P p.1 p.2) : ∃ p ∈ (s.tlbsDropped k drop w).cores, P p.1 p.2 :=
  exists_cores_modCore (s := s.keepTlbs k drop) (P := P) (exists_cores_modCores (s := s) (P := P) hkeep h) (hwait _)

end DroppedCores

section Open
variable {s : State} {k : Nat} (drop : TlbEntry → Bool) (w : Option TlbWait)

/-- Where no translated access of the cluster is open, none is once its translations are dropped. -/
theorem openIn_tlbsDropped_false
    (hcores : ∀ c ∈ s.cores, c.1 ∈ clusterCores k → c.2.translatedOpen (fun _ _ => true) = false)
    (hreqs : ∀ r ∈ s.requests, clusterOf r.node ≠ k) (hit : Nat → Nat → Bool) : (s.tlbsDropped k drop w).openIn k hit = false := by
  have hall := forall_cores_tlbsDropped (P := fun n c => n ∈ clusterCores k → c.translatedOpen (fun _ _ => true) = false)
    (k := k) drop w (fun _ _ h => h) (fun _ _ h => h) hcores fun _ => rfl
  refine Bool.or_eq_false_iff.mpr ⟨List.any_eq_false.mpr fun p hp hopen => ?_, List.any_eq_false.mpr fun r hr hopen => ?_⟩
  · obtain ⟨hmem, htrue⟩ := Bool.and_eq_true_iff.mp hopen
    rw [translatedOpen_false (hall p hp (List.contains_iff_mem.mp hmem)) hit] at htrue
    exact Bool.false_ne_true htrue
  · simp only [Bool.and_eq_true, beq_iff_eq] at hopen
    exact hreqs r hr hopen.1.1

/-- A buffered store that the test names is open still once the translations are dropped. -/
theorem openIn_tlbsDropped_of_store {c : Nat × Core} (hc : c ∈ s.cores) (hk : c.1 ∈ clusterCores k) {st : Store}
    (hst : st ∈ c.2.stores) (hwindow : st.window = false) {hit : Nat → Nat → Bool} (hhit : hit st.va.toNat st.seq = true) :
    (s.tlbsDropped k drop w).openIn k hit = true := by
  obtain ⟨p, hp, hmem, hopen⟩ := exists_cores_tlbsDropped (P := fun n c => n ∈ clusterCores k ∧ c.translatedOpen hit = true)
    (k := k) drop w (fun _ _ h => h) (fun _ _ h => h) ⟨c, hc, hk, translatedOpen_of_store hst hwindow hhit⟩
  refine Bool.or_eq_true_iff.mpr (.inl (List.any_eq_true.mpr ⟨p, hp, ?_⟩))
  rw [hopen, List.contains_iff_mem.mpr hmem]
  rfl

end Open

/-- A first TLBI waits for the accesses issued before it in the range of each entry of the cluster TLB that it drops. -/
theorem hit_tlbiWait {s : State} (hnone : s.me.tlbWait = none) {drop : TlbEntry → Bool} {e : TlbEntry}
    (he : e ∈ (s.cluster (clusterOf s.cur.1)).tlb) (hdrop : drop e = true) (page : Option Nat) {a q : Nat} (hq : q < s.seq)
    (hfirst : e.first ≤ a) (hlimit : a < e.limit) : (s.tlbiWait drop page).hit a q = true := by
  have hbefore : (s.tlbiWait drop page).before = s.seq := by
    rw [State.tlbiWait, hnone]
    rfl
  have hrange : (e.first, e.limit) ∈ (s.tlbiWait drop page).ranges := by
    refine List.mem_append_left _ (List.mem_append_right _ (List.mem_map_of_mem (f := fun e : TlbEntry => (e.first, e.limit)) ?_))
    exact List.mem_filter.mpr ⟨List.mem_append_left _ he, hdrop⟩
  rw [TlbWait.hit, hbefore, decide_eq_true hq, Bool.true_and]
  refine List.any_eq_true.mpr ⟨_, hrange, ?_⟩
  rw [decide_eq_true hfirst, decide_eq_true hlimit]
  rfl

/-! ## What a TLBI comes to -/

/-- No register and no byte has changed, and no translation that a test names is left in a cluster's TLBs. -/
structure State.WithoutTlbs (s t : State) (k : Nat) (drop : TlbEntry → Bool) : Prop where
  x    : t.ctx.x = s.ctx.x
  mem  : t.mem = s.mem
  core : ∀ n ∈ clusterCores k, ∀ e ∈ (t.core n).dtlb ++ (t.core n).itlb, drop e = false
  tlb  : ∀ e ∈ (t.cluster k).tlb, drop e = false

theorem withoutTlbs_tlbsDropped (s : State) (k : Nat) (drop : TlbEntry → Bool) (w : Option TlbWait) :
    s.WithoutTlbs (s.tlbsDropped k drop w) k drop := by
  have hctx := sameCtx_tlbsDropped s k drop w
  refine ⟨hctx.x, hctx.mem, fun n hn e he => ?_, fun e he => ?_⟩
  · rw [tlbs_tlbsDropped s k drop w hn] at he
    exact (List.mem_append.mp he).elim drop_of_mem_keptTlb drop_of_mem_keptTlb
  · rw [tlb_tlbsDropped] at he
    exact drop_of_mem_keptTlb he

/-- A TLBI that ends retires with its record cleared. -/
def State.tlbiEnded (s u : State) : State := s.past 0 (u.modMe (Core.withTlbWait none))

theorem tlbs_tlbiEnded (s u : State) (n : Nat) :
    ((s.tlbiEnded u).core n).dtlb ++ ((s.tlbiEnded u).core n).itlb = (u.core n).dtlb ++ (u.core n).itlb := by
  rw [State.tlbiEnded, ← tlbs_modMe_withTlbWait u none]
  exact core_past_keeps (π := fun c => c.dtlb ++ c.itlb) (fun _ _ _ => rfl) ..

theorem State.WithoutTlbs.ended {s u : State} {k : Nat} {drop : TlbEntry → Bool} (h : s.WithoutTlbs u k drop) (hctx : s.SameCtx u) :
    s.WithoutTlbs (s.tlbiEnded u) k drop := by
  have hx := hctx.trans (sameCtx_withTlbWait u none)
  refine ⟨?_, h.mem, fun n hn => ?_, h.tlb⟩
  · rw [State.tlbiEnded, ctx_past]
    exact hx.x
  · rw [tlbs_tlbiEnded]
    exact h.core n hn

/-- R218: the translations go at once; the word retires where no translated access is open, and stays at its word while a store is
buffered that was translated through an entry it drops. -/
theorem tlbi_spec (s : State) (drop : TlbEntry → Bool) (page : Option Nat) : ∃ t : State, (tlbi s drop page).outcome 0 = .next t ∧
    s.WithoutTlbs t (clusterOf s.cur.1) drop ∧
    ((∀ c ∈ s.cores, c.1 ∈ clusterCores (clusterOf s.cur.1) → c.2.translatedOpen (fun _ _ => true) = false) →
      (∀ r ∈ s.requests, clusterOf r.node ≠ clusterOf s.cur.1) → t.ctx.pc = s.ctx.pc + 4) ∧
    (s.me.tlbWait = none → ∀ c ∈ s.cores, c.1 ∈ clusterCores (clusterOf s.cur.1) → ∀ st ∈ c.2.stores, st.window = false →
      st.seq < s.seq → ∀ e ∈ (s.cluster (clusterOf s.cur.1)).tlb, drop e = true → e.first ≤ st.va.toNat → st.va.toNat < e.limit →
      t.ctx.pc = s.ctx.pc) := by
  have hctx := sameCtx_tlbsDropped s (clusterOf s.cur.1) drop (some (s.tlbiWait drop page))
  have hgone := withoutTlbs_tlbsDropped s (clusterOf s.cur.1) drop (some (s.tlbiWait drop page))
  rw [tlbi_eq]
  dsimp only
  split
  case isTrue hopen =>
    refine ⟨_, rfl, hgone, fun hcores hreqs => ?_, fun _ _ _ _ _ _ _ _ _ _ _ _ _ => hctx.pc⟩
    rw [openIn_tlbsDropped_false drop _ hcores hreqs] at hopen
    exact absurd hopen Bool.false_ne_true
  case isFalse hopen =>
    have hdone := hctx.trans (sameCtx_withTlbWait _ none)
    refine ⟨_, hdone.outcome, hgone.ended hctx, fun _ _ => ?_,
      fun hnone c hc hk st hst hwindow hseq e he hdrop hfirst hlimit => absurd ?_ hopen⟩
    · rw [ctx_past]
      rfl
    · exact openIn_tlbsDropped_of_store drop _ hc hk hst hwindow (hit_tlbiWait hnone he hdrop page hseq hfirst hlimit)

/-! ## The three words -/

theorem exec_tlbiPage_of_clear {o : KeeperM} {s : State} (hclear : s.Clear { priv := true, imm := true, srcs := [(.x o.base, o.ea)] }) :
    let va := (s.ctx.memAddr o.base o.off 1).toNat
    exec (.tlbiPage o) s = (tlbi s (fun e => e.tag == s.tagOf s.cur.1 && decide (e.first / 2 ^ 16 ≤ va / 2 ^ 16) &&
      decide (va / 2 ^ 16 * 2 ^ 16 < e.limit)) (some (va / 2 ^ 16))).outcome 0 := by
  rw [exec_tlbiPage, execTlbiPage, issue_of_clear hclear]

section Plain
variable {s : State} (hclear : s.Clear { priv := true, imm := true }) (himm : s.ctx.immZ (0 : BitVec 12) = 0)
include hclear himm

theorem exec_tlbiPound_of_clear : exec .tlbiPound s = (tlbi s (fun e => e.tag == s.tagOf s.cur.1) none).outcome 0 := by
  rw [exec_tlbiPound, execTlbiPound, keeperPlain_of_clear hclear himm]

theorem exec_tlbiAll_of_clear : exec .tlbiAll s = (tlbi s (fun _ => true) none).outcome 0 := by
  rw [exec_tlbiAll, execTlbiAll, keeperPlain_of_clear hclear himm]

end Plain

end Sys2Proof.Machine
end

section
/-!
PROOFS. The change of a bank's mode (R55, R219), and the keeper's cache and TLB words as a whole.
-/

namespace Sys2Proof.Machine

/-! ## BANKMODE (R219) -/

/-- A core with another record of the change of a bank that it waits for. -/
def Core.withBankWait (w : Option (Nat × Nat × Bool)) (c : Core) : Core := { c with bankWait := w }

/-- A bank set BUSY for its new mode, and the lines of the cluster cache that it held dropped (R55). -/
def Cluster.bankBusy (c : Cluster) (b : Nat) (m : BankMode) : Cluster := (c.modBank b fun y => { y with busy := some m }).dropWay b

theorem bank_bankBusy (c : Cluster) (b : Nat) (m : BankMode) : (c.bankBusy b m).bank b = { c.bank b with busy := some m } :=
  bank_modBank_self c b fun y => { y with busy := some m }

theorem way_ne_of_mem_bankBusy {c : Cluster} {b : Nat} {m : BankMode} {l : Line} (h : l ∈ (c.bankBusy b m).lines) : l.way ≠ b :=
  bne_iff_ne.mp (List.mem_filter.mp h).2

/-- A bank's change of mode begun, and the acting context waiting for its end (R55). -/
def State.bankStarted (s : State) (k b : Nat) (m : BankMode) : State :=
  (s.modCluster k (·.bankBusy b m)).modMe (Core.withBankWait (some (s.cur.2, b, false)))

theorem cluster_bankStarted (s : State) (k b : Nat) (m : BankMode) :
    (s.bankStarted k b m).cluster k = (s.cluster k).bankBusy b m :=
  cluster_modCluster_self s k (·.bankBusy b m)

theorem bankWait_bankStarted (s : State) (k b : Nat) (m : BankMode) : (s.bankStarted k b m).me.bankWait = some (s.cur.2, b, false) := by
  rw [State.bankStarted, me_modMe]
  rfl

theorem sameCtx_withBankWait (s : State) (w : Option (Nat × Nat × Bool)) : s.SameCtx (s.modMe (Core.withBankWait w)) :=
  sameCtx_modMe (f := Core.withBankWait w) (fun _ => rfl) s

theorem sameCtx_bankStarted (s : State) (k b : Nat) (m : BankMode) : s.SameCtx (s.bankStarted k b m) :=
  (sameCtx_of_cores (s := s) (t := s.modCluster k (·.bankBusy b m)) rfl rfl rfl rfl).trans
    (sameCtx_withBankWait _ (some (s.cur.2, b, false)))

section Bankmode
variable {o : KeeperB} {s : State} (hclear : s.Clear { priv := true, imm := true, srcs := [(.x o.base, o.ea)] })
  (himm : s.ctx.immZ (0 : BitVec 12) = 0)
include hclear himm

theorem exec_bankmode_faults (hwait : s.me.bankWait = none)
    (hno : ((s.cluster (clusterOf s.cur.1)).bank (bits (s.ctx.readX o.base) 3 0)).sys = true ∨
      ((s.cluster (clusterOf s.cur.1)).bank (bits (s.ctx.readX o.base) 3 0)).ringCount ≠ 0 ∨ bits (s.ctx.readX o.base) 9 8 = 3) :
    ∃ t : State, exec (.bankmode o) s = .next t ∧ s.faulted t ⟨.bankMode, 0, 0⟩ := by
  refine faulted_of_issue (exec_bankmode s) hclear ?_
  dsimp only
  rw [if_neg (not_not.mpr himm), hwait]
  dsimp only
  cases hmode : bankModeOf (bits (s.ctx.readX o.base) 9 8) with
  | none => rfl
  | some m =>
    refine if_pos ?_
    rcases hno with h | h | h
    · rw [h, Bool.true_or]
    · rw [decide_eq_true h, Bool.or_true]
    · rw [h] at hmode
      cases hmode

theorem exec_bankmode_starts {m : BankMode} (hwait : s.me.bankWait = none)
    (hsys : ((s.cluster (clusterOf s.cur.1)).bank (bits (s.ctx.readX o.base) 3 0)).sys = false)
    (hrings : ((s.cluster (clusterOf s.cur.1)).bank (bits (s.ctx.readX o.base) 3 0)).ringCount = 0)
    (hbusy : ((s.cluster (clusterOf s.cur.1)).bank (bits (s.ctx.readX o.base) 3 0)).busy = none)
    (hmode : bankModeOf (bits (s.ctx.readX o.base) 9 8) = some m) :
    exec (.bankmode o) s = .next (s.bankStarted (clusterOf s.cur.1) (bits (s.ctx.readX o.base) 3 0) m) := by
  rw [exec_bankmode, execBankmode, issue_of_clear hclear]
  dsimp only
  rw [if_neg (not_not.mpr himm), hwait, hmode, hsys, hrings, hbusy]
  rfl

theorem exec_bankmode_ends {b : Nat} (hwait : s.me.bankWait = some (s.cur.2, b, true)) :
    exec (.bankmode o) s = .next (s.past 0 (s.modMe (Core.withBankWait none))) := by
  rw [exec_bankmode, execBankmode, issue_of_clear hclear]
  dsimp only
  rw [if_neg (not_not.mpr himm), hwait, ← (sameCtx_withBankWait s none).outcome]
  dsimp only
  rw [decide_eq_true rfl, Bool.and_true, if_pos rfl]
  rfl

end Bankmode

/-! ## BANK_MODE_DONE (R55) -/

/-- A bank whose change of mode has ended (R55): zeroed, in its new mode, not BUSY; the keeper's BANKMODE of it may end. -/
def State.bankChanged (s : State) (k b : Nat) (m : BankMode) : State :=
  (({ s with mem := clearMem s.mem (csKey k b 0) (csKey k b 0 + 2 ^ 16) } : State).modCluster k
    (·.modBank b fun y => { y with mode := m, busy := none })).modCore (Config.keeperOf k)
    fun c => { c with bankWait := c.bankWait.map fun w => if w.2.1 = b then (w.1, w.2.1, true) else w }

theorem exec_bankModeDone_busy {s : State} {k b : Nat} {m : BankMode} (hk : k < Config.clusters) (hb : b < 16)
    (hbusy : ((s.cluster k).bank b).busy = some m) : exec (.bankModeDone k b) s = .next (s.bankChanged k b m) := by
  have hin : (clusterIn k && decide (b < 16)) = true := by
    rw [clusterIn, decide_eq_true hk, decide_eq_true hb]
    rfl
  rw [exec_bankModeDone, execBankModeDone, event_next hin, hbusy]
  rfl

theorem csKey_eq_add (k b off : Nat) : csKey k b off = csKey k b 0 + off := by
  rw [csKey, csKey, Nat.add_zero]

section BankChanged
variable (s : State) (k b : Nat) (m : BankMode)

theorem bank_bankChanged : ((s.bankChanged k b m).cluster k).bank b = { (s.cluster k).bank b with mode := m, busy := none } := by
  show ((({ s with mem := clearMem s.mem (csKey k b 0) (csKey k b 0 + 2 ^ 16) } : State).modCluster k
    (·.modBank b fun y => { y with mode := m, busy := none })).cluster k).bank b = _
  rw [cluster_modCluster_self, bank_modBank_self]
  rfl

theorem readByte_bankChanged (a : Nat) : readByte (s.bankChanged k b m).mem a =
    if csKey k b 0 ≤ a ∧ a < csKey k b 0 + 2 ^ 16 then unwritten else readByte s.mem a := readByte_clearMem ..

theorem bankWait_bankChanged {c : Nat} (h : (s.core (Config.keeperOf k)).bankWait = some (c, b, false)) :
    ((s.bankChanged k b m).core (Config.keeperOf k)).bankWait = some (c, b, true) := by
  have hcore (f : Core → Core) (u : State) : (u.modCore (Config.keeperOf k) f).core (Config.keeperOf k) = f (u.core (Config.keeperOf k)) :=
    core_modCore_self ..
  rw [State.bankChanged, hcore, core_modCluster]
  show ((s.core (Config.keeperOf k)).bankWait.map _) = _
  rw [h, Option.map_some, if_pos rfl]

end BankChanged

/-! ## The obligation -/

/-- Each of the keeper's words on a line is one of `keeperLine`. -/
theorem exec_eq_keeperLine {o : KeeperM} {i : Instr} (hi : i ∈ [Instr.cflushDrop o, .cflushHome o, .cflushClean o, .cinvLine o])
    (s : State) : ∃ f, exec i s = keeperLine o f s := by
  simp only [List.mem_cons, List.not_mem_nil, or_false] at hi
  rcases hi with rfl | rfl | rfl | rfl
  · exact ⟨_, (exec_cflushDrop s).trans (by rw [execCflushDrop])⟩
  · exact ⟨_, (exec_cflushHome s).trans (by rw [execCflushHome])⟩
  · exact ⟨_, (exec_cflushClean s).trans (by rw [execCflushClean])⟩
  · exact ⟨_, (exec_cinvLine s).trans (by rw [execCinvLine])⟩

/-- Settles O25, word by word: each changes the caches, TLBs and banks of its cluster and keeps its context and memory. -/
theorem cacheWordsAndBanks : Obligations.CacheWordsAndBanks := by
  unfold Obligations.CacheWordsAndBanks
  refine ⟨fun o s hclear => ?pref, ⟨fun o s hclear => ?line, fun s hclear himm => exec_cinvAll_of_clear hclear himm⟩,
    fun o s => ?tlbi, fun o s hclear himm => ?bankmode, fun k b s m hk hb hbusy => ?bankDone⟩
  case pref =>
    intro va kept
    refine ⟨fun hva => ?_, fun hva u hu => ?_, fun hva pa l u hu => ⟨fun hcr => ?_, fun hcr hno => ?_, fun hcr hr htgt hok => ?_⟩⟩
    · rw [exec_pref_window hclear hva, (State.SameCtx.refl s).outcome]
    · have htlbs := sameButTlbs_of_translate hu
      obtain ⟨t, ht, hnet⟩ := pref_retires (exec_pref_miss hclear hva hu) htlbs.sameCtx
      exact ⟨t, ht, hnet.trans htlbs.net⟩
    · exact ⟨_, exec_pref_covered hclear hva hu hcr, (sameButTlbs_of_translate hu).faulted _⟩
    · have htlbs := sameButTlbs_of_translate hu
      obtain ⟨t, ht, hnet⟩ := pref_retires (exec_pref_dropped hclear hva hu hcr hno) htlbs.sameCtx
      exact ⟨t, ht, hnet.trans htlbs.net⟩
    · have htlbs := sameButTlbs_of_translate hu
      obtain ⟨r, hexec, hpa, hop⟩ := exec_pref_asks hclear hva hu hcr hr htgt hok
      obtain ⟨t, ht, hnet⟩ := pref_retires hexec (htlbs.sameCtx.trans (sameCtx_of_cores rfl rfl rfl rfl))
      exact ⟨t, ht, r, hnet.trans (congrArg (· ++ [r]) htlbs.net), hpa, hop⟩
  case line =>
    intro va k
    refine ⟨fun hva => ?_, fun hva pa l u hu => ⟨fun htgt => ?_, fun htgt hok => ?_⟩⟩
    · intro i hi
      obtain ⟨f, hf⟩ := exec_eq_keeperLine hi s
      rw [hf, keeperLine_window hclear f hva, (State.SameCtx.refl s).outcome]
    · intro i hi
      obtain ⟨f, hf⟩ := exec_eq_keeperLine hi s
      have hctx := (sameButTlbs_of_translate hu).sameCtx
      exact ⟨_, hf.trans ((keeperLine_remote hclear f hva hu htgt).trans hctx.outcome), hctx.issued⟩
    · exact ⟨exec_cflushDrop_local hclear hva hu htgt hok, exec_cflushHome_local hclear hva hu htgt hok,
        exec_cflushClean_local hclear hva hu htgt hok, exec_cinvLine_local hclear hva hu htgt hok⟩
  case tlbi =>
    intro va p hp hclear himm k
    obtain ⟨page, hexec⟩ : ∃ page, exec p.1 s = (tlbi s p.2.2 page).outcome 0 := by
      simp only [List.mem_cons, List.not_mem_nil, or_false] at hp
      rcases hp with rfl | rfl | rfl
      · exact ⟨_, exec_tlbiPage_of_clear hclear⟩
      · exact ⟨_, exec_tlbiPound_of_clear hclear (himm.resolve_left Instr.noConfusion)⟩
      · exact ⟨_, exec_tlbiAll_of_clear hclear (himm.resolve_left Instr.noConfusion)⟩
    obtain ⟨t, ht, hgone, hretires, hstays⟩ := tlbi_spec s p.2.2 page
    exact ⟨t, hexec.trans ht, hgone.x, hgone.mem, hgone.core, hgone.tlb, hretires, hstays⟩
  case bankmode =>
    intro x b k bank
    refine ⟨exec_bankmode_faults hclear himm, fun m hwait hsys hrings hbusy hmode => ?_, fun c hwait => ?_⟩
    · refine ⟨_, exec_bankmode_starts hclear himm hwait hsys hrings hbusy hmode, (sameCtx_bankStarted ..).pc, ?_, ?_,
        bankWait_bankStarted .., fun l hl => ?_⟩
      · rw [cluster_bankStarted, bank_bankBusy]
      · rw [cluster_bankStarted, bank_bankBusy]
      · rw [cluster_bankStarted] at hl
        exact way_ne_of_mem_bankBusy hl
    · obtain ⟨hpc, hx, -⟩ := (sameCtx_withBankWait s none).issued
      refine ⟨_, exec_bankmode_ends hclear himm hwait, hpc, hx, ?_⟩
      rw [me_past, coreModCtx_bankWait, me_modMe]
      rfl
  case bankDone =>
    refine ⟨_, exec_bankModeDone_busy hk hb hbusy, ?_, ?_, fun off hoff => ?_, fun a ha => ?_, fun c hc => bankWait_bankChanged s k b m hc⟩
    · rw [bank_bankChanged]
    · rw [bank_bankChanged]
    · rw [readByte_bankChanged, csKey_eq_add, if_pos ⟨Nat.le_add_right .., Nat.add_lt_add_left hoff _⟩]
      rfl
    · rw [csKey_eq_add k b (2 ^ 16)] at ha
      rw [readByte_bankChanged, if_neg]
      omega

end Sys2Proof.Machine
end

section
/-!
PROOFS. Deltas stay below their limits (R92, R399): what a move leaves is posted when it has reached a limit, and nothing after that,
nor any clock, raises a delta.
-/

namespace Sys2Proof.Machine

/-! ## Deltas that no update raises to their limits -/

/-- The deltas of a core: its energy charges, and the exception counts of each of its contexts. -/
noncomputable def Core.deltas (c : Core) : List (Word × Nat) × (Nat → Vector Nat 16) := (c.energy, fun k => (c.ctx k).fpDelta)

/-- Every energy delta of a core is below its limit (R399). -/
def Core.energyBelow (c : Core) : Prop := ∀ d ∈ c.energy, d.2 < postAt

/-- Every exception count of a context is below its limit (R92). -/
def Ctx.countsBelow (c : Ctx) : Prop := ∀ d ∈ c.fpDelta.toList, d < 256

theorem deltasBelow_iff (s : State) : s.deltasBelow ↔ ∀ n, (s.core n).energyBelow ∧ ∀ k < 11, ((s.core n).ctx k).countsBelow :=
  Iff.rfl

/-- What is below its limit in the first state is below it in the second. -/
def State.KeepsBelow (s t : State) : Prop :=
  (∀ n, (s.core n).energyBelow → (t.core n).energyBelow) ∧
    ∀ n k, ((s.core n).ctx k).countsBelow → ((t.core n).ctx k).countsBelow

theorem State.KeepsBelow.energy {s t : State} (h : s.KeepsBelow t) (n : Nat) : (s.core n).energyBelow → (t.core n).energyBelow :=
  h.1 n
theorem State.KeepsBelow.counts {s t : State} (h : s.KeepsBelow t) (n k : Nat) :
    ((s.core n).ctx k).countsBelow → ((t.core n).ctx k).countsBelow := h.2 n k

theorem State.KeepsBelow.refl (s : State) : s.KeepsBelow s := ⟨fun _ h => h, fun _ _ h => h⟩

theorem State.KeepsBelow.trans {s t u : State} (h : s.KeepsBelow t) (k : t.KeepsBelow u) : s.KeepsBelow u :=
  ⟨fun n => k.energy n ∘ h.energy n, fun n j => k.counts n j ∘ h.counts n j⟩

/-- One of two updates, by a condition. -/
theorem State.KeepsBelow.ite {s t u : State} (h : s.KeepsBelow t) (k : s.KeepsBelow u) {p : Prop} {_ : Decidable p} :
    s.KeepsBelow (if p then t else u) := by
  split
  · exact h
  · exact k

/-- An update made under a condition. -/
theorem State.KeepsBelow.when {s t : State} (h : s.KeepsBelow t) {p : Prop} {_ : Decidable p} : s.KeepsBelow (if p then t else s) :=
  h.ite (State.KeepsBelow.refl s)

theorem State.KeepsBelow.deltasBelow {s t : State} (h : s.KeepsBelow t) (hs : s.deltasBelow) : t.deltasBelow :=
  fun n => ⟨h.energy n (hs n).1, fun k hk => h.counts n k ((hs n).2 k hk)⟩

theorem energyBelow_of_energy {c d : Core} (h : d.energy = c.energy) (hc : c.energyBelow) : d.energyBelow := fun e he => hc e (h ▸ he)

theorem keepsBelow_of_deltas {s t : State} (h : ∀ n, (t.core n).deltas = (s.core n).deltas) : s.KeepsBelow t := by
  refine ⟨fun n => energyBelow_of_energy (congrArg Prod.fst (h n)), fun n k hs => ?_⟩
  rwa [Ctx.countsBelow, show ((t.core n).ctx k).fpDelta = ((s.core n).ctx k).fpDelta from congrFun (congrArg Prod.snd (h n)) k]

theorem keepsBelow_of_cores {s t : State} (h : t.cores = s.cores) : s.KeepsBelow t :=
  keepsBelow_of_deltas fun n => by rw [State.core, State.core, h]

/-- A change of one core that leaves its deltas. -/
theorem keepsBelow_modCore (s : State) (core : Nat) {f : Core → Core} (hf : ∀ c, (f c).deltas = c.deltas) :
    s.KeepsBelow (s.modCore core f) :=
  keepsBelow_of_deltas (core_modCore_keeps hf s core)

/-- A change of one context reaches another or leaves it. -/
theorem ctx_coreModCtx_or (c : Core) (k j : Nat) (f : Ctx → Ctx) :
    (c.modCtx k f).ctx j = f (c.ctx j) ∨ (c.modCtx k f).ctx j = c.ctx j := by
  by_cases h : j % 11 = k % 11
  · have hj (d : Core) : d.ctx j = d.ctx k := by simp only [Core.ctx, h]
    rw [hj, hj, ctx_coreModCtx_self]
    exact .inl rfl
  · exact .inr (ctx_coreModCtx_ne _ _ _ _ h)

/-- A change of one context that leaves its exception counts. -/
theorem deltas_modCtx (c : Core) (k : Nat) {f : Ctx → Ctx} (hf : ∀ x, (f x).fpDelta = x.fpDelta) :
    (c.modCtx k f).deltas = c.deltas :=
  Prod.ext rfl (funext fun j => (ctx_coreModCtx_or c k j f).elim (fun h => (congrArg Ctx.fpDelta h).trans (hf _)) (congrArg Ctx.fpDelta))

theorem keepsBelow_foldl {α : Type} {f : State → α → State} (hf : ∀ (s : State) (a : α), s.KeepsBelow (f s a)) (l : List α)
    (s : State) : s.KeepsBelow (l.foldl f s) := by
  induction l generalizing s with
  | nil => exact State.KeepsBelow.refl s
  | cons a l ih => exact (hf s a).trans (ih _)

/-- A step of a fold that comes to a property which every step keeps: the fold has it. -/
theorem foldl_of_mem {α β : Type} {P : α → Prop} {f : α → β → α} {b : β} {l : List β} (hb : b ∈ l) (hreach : ∀ a, P (f a b))
    (hkeep : ∀ a c, P a → P (f a c)) (a : α) : P (l.foldl f a) := by
  induction l generalizing a with
  | nil => exact absurd hb List.not_mem_nil
  | cons c l ih =>
    rw [List.foldl_cons]
    by_cases h : b ∈ l
    · exact ih h _
    · obtain rfl : b = c := (List.mem_cons.mp hb).resolve_right h
      exact List.foldlRecOn l f (hreach a) fun a ha c _ => hkeep a c ha

/-! ## Charges and counts posted (R92, R340, R399) -/

section Posts
variable (s : State) (core tag : Nat)

theorem keepsBelow_undeliver (m : Msg) : s.KeepsBelow (s.undeliver core m) := by
  unfold State.undeliver
  split
  · exact (keepsBelow_of_deltas fun n => (congrArg Core.deltas (apartFromOwed_dropPayload s core m.payload n) :)).trans
      (keepsBelow_of_cores (countLost_cores ..))
  · exact keepsBelow_modCore _ _ fun _ => rfl

theorem keepsBelow_admitFor (m : Msg) : s.KeepsBelow (s.admitFor tag core m) := by
  refine (keepsBelow_undeliver s core m).ite ?_
  cases s.routeOf tag m.name with
  | here => exact keepsBelow_of_cores rfl
  | host =>
    refine (keepsBelow_undeliver s core m).ite ?_
    exact keepsBelow_of_cores rfl
  | peer r => exact keepsBelow_of_cores (portCharge_cores ..)
  | none => exact keepsBelow_undeliver s core m

theorem keepsBelow_admitFor_of {s u : State} {core tag : Nat} {m : Msg} (h : u.cores = s.cores) :
    s.KeepsBelow (u.admitFor tag core m) :=
  (keepsBelow_of_cores h).trans (keepsBelow_admitFor ..)

theorem keepsBelow_setBudget (block : Word) (which v : Nat) : s.KeepsBelow (s.setBudget core tag block which v) := by
  have hpoke := pokeVa_cores s tag (block + BitVec.ofNat 64 (32 + 8 * which)) (toBytes 8 v)
  unfold State.setBudget
  extract_lets old at_ u
  split
  · split
    · exact keepsBelow_of_cores hpoke
    · exact keepsBelow_admitFor_of hpoke
  · exact keepsBelow_of_cores hpoke

theorem keepsBelow_chargeBudget (block : Word) (which n : Nat) : s.KeepsBelow (s.chargeBudget core tag block which n) :=
  (State.KeepsBelow.refl s).ite (keepsBelow_setBudget ..)

theorem keepsBelow_addCounter (rcb : Word) (i n : Nat) : s.KeepsBelow (s.addCounter core tag rcb i n) := by
  unfold State.addCounter
  split
  · exact State.KeepsBelow.refl s
  · extract_lets at_ old new u
    have hpoke : u.cores = s.cores := pokeVa_cores ..
    split
    · exact keepsBelow_of_cores hpoke
    · extract_lets thr
      split
      · exact keepsBelow_admitFor_of hpoke
      · exact keepsBelow_of_cores hpoke

theorem keepsBelow_addCounters (rcb : Word) (d : Vector Nat 16) : s.KeepsBelow (s.addCounters core tag rcb d) :=
  keepsBelow_foldl (fun s i => keepsBelow_addCounter s core tag rcb i _) _ s

theorem keepsBelow_postCycles : s.KeepsBelow (s.postCycles core) := by
  unfold State.postCycles
  refine State.KeepsBelow.trans ?_ (keepsBelow_modCore _ _ fun _ => rfl)
  exact keepsBelow_foldl (fun s _ => keepsBelow_chargeBudget s ..) _ s

theorem keepsBelow_postDeltas (ds : List ((Nat × Word) × Nat)) : s.KeepsBelow (s.postDeltas core ds) :=
  keepsBelow_foldl (fun s _ => keepsBelow_chargeBudget s ..) ds s

theorem keepsBelow_postSlice (t i : Nat) : s.KeepsBelow (s.postSlice t i) := by
  refine State.KeepsBelow.trans ?_ (keepsBelow_postDeltas ..)
  exact keepsBelow_of_cores rfl

theorem keepsBelow_postEngine (t i : Nat) : s.KeepsBelow (s.postEngine t i) := by
  refine State.KeepsBelow.trans ?_ (keepsBelow_postDeltas ..)
  exact keepsBelow_of_cores rfl

theorem keepsBelow_postPort (half : Nat) : s.KeepsBelow (s.postPort half) := by
  refine State.KeepsBelow.trans ?_ (keepsBelow_postDeltas ..)
  exact keepsBelow_of_cores rfl

theorem keepsBelow_flushSlice (t i : Nat) : s.KeepsBelow (s.flushSlice t i) := by
  refine State.KeepsBelow.trans ?_ (keepsBelow_foldl (fun s _ => keepsBelow_addCounters s ..) _ _)
  exact keepsBelow_of_cores rfl

/-- Charges of less than a picojoule are all that a posting keeps. -/
theorem lt_postAt_of_mem_restOf {α : Type} {ds : List (α × Nat)} {d : α × Nat} (h : d ∈ restOf ds) : d.2 < postAt := by
  obtain ⟨e, -, rfl⟩ := List.mem_map.mp (List.mem_filter.mp h).1
  exact (Nat.mod_lt _ (by decide)).trans (by decide)

/-- A core that has posted its energy is below its limit. -/
theorem energyBelow_postEnergy : ((s.postEnergy core).core core).energyBelow := by
  refine (keepsBelow_postCycles ..).energy core ?_
  rw [core_modCore_self]
  exact fun d => lt_postAt_of_mem_restOf

theorem keepsBelow_postEnergy : s.KeepsBelow (s.postEnergy core) := by
  refine ⟨fun n hs => ?_, fun n k hs => ?_⟩
  · by_cases h : n = core
    · exact h ▸ energyBelow_postEnergy s core
    · refine (keepsBelow_postCycles ..).energy n ?_
      rw [core_modCore_ne _ _ _ _ h]
      exact (keepsBelow_foldl (fun s _ => keepsBelow_chargeBudget s ..) _ s).energy n hs
  · rwa [← ctx_apartFromPosts, (sameBodies_postEnergy ..).core, ctx_apartFromPosts]

/-- A context whose counts have been added to its region's. -/
noncomputable def Ctx.flushed (c : Ctx) : Ctx := { c with fpDelta := Vector.replicate 16 0 }

theorem countsBelow_flushed (c : Ctx) : c.flushed.countsBelow := by
  intro d (hd : d ∈ (Vector.replicate 16 0).toList)
  rw [Vector.toList_replicate] at hd
  rw [List.eq_of_mem_replicate hd]
  decide

theorem flushCounters_of_counts {k : Nat} (h : ¬((s.core core).ctx k).fpDelta.toList.all (· == 0) = true) : s.flushCounters core k =
    (s.addCounters core (s.tagOf core).toNat ((s.core core).ctx k).region.rcb ((s.core core).ctx k).fpDelta).modCtxOf core k
      Ctx.flushed := if_neg h

/-- A context whose counts have been added to its region's is below its limit. -/
theorem countsBelow_flushCounters (k : Nat) : (((s.flushCounters core k).core core).ctx k).countsBelow := by
  by_cases h : ((s.core core).ctx k).fpDelta.toList.all (· == 0) = true
  · rw [show s.flushCounters core k = s from if_pos h]
    intro d hd
    rw [eq_of_beq (List.all_eq_true.mp h d hd)]
    decide
  · rw [flushCounters_of_counts s core h, ctxOf_modCtxOf]
    exact countsBelow_flushed _

theorem keepsBelow_flushed (k : Nat) : s.KeepsBelow (s.modCtxOf core k Ctx.flushed) := by
  have henergy := core_modCore_keeps (π := Core.energy) (f := (·.modCtx k Ctx.flushed)) (fun _ => rfl) s core
  refine ⟨fun n => energyBelow_of_energy (henergy n), fun n j hs => ?_⟩
  by_cases h : n = core
  · rw [h, State.modCtxOf, core_modCore_self]
    rcases ctx_coreModCtx_or (s.core core) k j Ctx.flushed with hctx | hctx
    · exact hctx ▸ countsBelow_flushed _
    · exact hctx ▸ h ▸ hs
  · rwa [State.modCtxOf, core_modCore_ne _ _ _ _ h]

theorem keepsBelow_flushCounters (k : Nat) : s.KeepsBelow (s.flushCounters core k) := by
  by_cases h : ((s.core core).ctx k).fpDelta.toList.all (· == 0) = true
  · rw [show s.flushCounters core k = s from if_pos h]
    exact State.KeepsBelow.refl s
  · rw [flushCounters_of_counts s core h]
    exact (keepsBelow_addCounters ..).trans (keepsBelow_flushed ..)

end Posts

/-! ## Everything a move leaves to be done (R92, R399) -/

/-- What `postDue` does for one context of a core that stood as `c` when the move's charges were counted. -/
noncomputable def State.flushDue (core : Nat) (c : Core) (s : State) (k : Nat) : State :=
  if (c.ctx k).fpDelta.toList.any fun n => decide (256 ≤ n) then s.flushCounters core k else s

section PostDue
variable (s : State) (core : Nat)

theorem postDue_eq : s.postDue core = (List.range 11).foldl (State.flushDue core (s.core core))
    (if overPost (s.core core).energy then s.postEnergy core else s) := rfl

theorem keepsBelow_flushDue (c : Core) (k : Nat) : s.KeepsBelow (State.flushDue core c s k) :=
  (keepsBelow_flushCounters ..).when

theorem keepsBelow_postDue : s.KeepsBelow (s.postDue core) := by
  rw [postDue_eq]
  exact ((keepsBelow_postEnergy s core).when).trans (keepsBelow_foldl (fun s k => keepsBelow_flushDue s core _ k) _ _)

/-- A core's energy once what has reached its limit is posted. -/
theorem energyBelow_postDue : ((s.postDue core).core core).energyBelow := by
  rw [postDue_eq]
  refine (keepsBelow_foldl (fun s k => keepsBelow_flushDue s core _ k) _ _).energy core ?_
  split
  · exact energyBelow_postEnergy s core
  · rename_i h
    intro d hd
    by_contra hlt
    exact h (List.any_eq_true.mpr ⟨d, hd, decide_eq_true (Nat.not_lt.mp hlt)⟩)

/-- The counts of a core's contexts once those that have reached their limit are added to their regions'. -/
theorem countsBelow_postDue {k : Nat} (hk : k < 11) : (((s.postDue core).core core).ctx k).countsBelow := by
  rw [postDue_eq]
  by_cases h : ((s.core core).ctx k).fpDelta.toList.any (fun n => decide (256 ≤ n)) = true
  · refine foldl_of_mem (P := fun u : State => ((u.core core).ctx k).countsBelow) (List.mem_range.mpr hk) (fun u => ?_)
      (fun u j => (keepsBelow_flushDue u core _ j).counts core k) _
    rw [State.flushDue, if_pos h]
    exact countsBelow_flushCounters u core k
  · refine (((keepsBelow_postEnergy s core).when).trans (keepsBelow_foldl (fun s k => keepsBelow_flushDue s core _ k) _ _)).counts core k ?_
    intro d hd
    by_contra hlt
    exact h (List.any_eq_true.mpr ⟨d, hd, decide_eq_true (Nat.not_lt.mp hlt)⟩)

end PostDue

theorem lookupD_of_notMem {α : Type} (d : α) {k : Nat} {l : List (Nat × α)} (h : ∀ p ∈ l, p.1 ≠ k) : lookupD d k l = d := by
  induction l with
  | nil => rfl
  | cons p l ih =>
    rw [List.forall_mem_cons] at h
    rw [lookupD, if_neg h.1, ih h.2]

/-- Once each core that the state lists has posted what has reached its limit, every core is below: one not listed is as reset left
it. -/
theorem deltasBelow_foldl_postDue (s : State) :
    (s.cores.foldl (fun (s : State) (c : Nat × Core) => s.postDue c.1) s).deltasBelow := by
  intro n
  have hkeep (u : State) (c : Nat × Core) : u.KeepsBelow (u.postDue c.1) := keepsBelow_postDue ..
  by_cases h : ∃ p ∈ s.cores, p.1 = n
  · obtain ⟨p, hp, rfl⟩ := h
    constructor
    · exact foldl_of_mem (P := fun u : State => (u.core p.1).energyBelow) (f := fun (s : State) (c : Nat × Core) => s.postDue c.1) hp
        (fun u => energyBelow_postDue u p.1) (fun u c => (hkeep u c).energy p.1) s
    · intro k hk
      exact foldl_of_mem (P := fun u : State => ((u.core p.1).ctx k).countsBelow)
        (f := fun (s : State) (c : Nat × Core) => s.postDue c.1) hp
        (fun u => countsBelow_postDue u p.1 hk) (fun u c => (hkeep u c).counts p.1 k) s
  · have hcore : s.core n = Core.reset := lookupD_of_notMem _ fun p hp hpn => h ⟨p, hp, hpn⟩
    have hreset := (deltasBelow_iff State.reset).mp deltasBelow_reset n
    rw [core_reset, ← hcore] at hreset
    obtain ⟨henergy, hcounts⟩ := hreset
    have hfold := keepsBelow_foldl hkeep s.cores s
    exact ⟨hfold.energy n henergy, fun k hk => hfold.counts n k (hcounts k hk)⟩

theorem keepsBelow_postUnits (s : State) : s.KeepsBelow s.postUnits := by
  unfold State.postUnits
  refine State.KeepsBelow.trans (keepsBelow_foldl (fun s t => keepsBelow_foldl (fun s i => ?_) _ s) _ s)
    (keepsBelow_foldl (fun s d => (keepsBelow_postPort ..).when) _ _)
  exact ((keepsBelow_postSlice s t i).when).trans ((keepsBelow_postEngine ..).when)

theorem resumeCtx_fpDelta (slot : List Word32) (step : Bool) (c : Ctx) : (resumeCtx slot step c).fpDelta = c.fpDelta := by
  unfold resumeCtx
  extract_lets d
  split
  · rfl
  · generalize d.rep = r
    cases r with
    | none => rfl
    | some q => exact (apply_ite Ctx.fpDelta _ _ _).trans (ite_self _)

theorem passBreak_fpDelta (v : Snivis) (c : Ctx) : (c.passBreak v).fpDelta = c.fpDelta := by
  unfold Ctx.passBreak
  cases v.breakOf c with
  | none => exact (apply_ite Ctx.fpDelta _ _ _).trans (by rw [resumeCtx_fpDelta, ite_self])
  | some b => exact resumeCtx_fpDelta ..

theorem keepsBelow_passForeign (s : State) (core k : Nat) : s.KeepsBelow (s.passForeign core k) := by
  unfold State.passForeign
  extract_lets c
  cases s.snivis.breakOf c with
  | none => exact State.KeepsBelow.refl s
  | some b => exact (State.KeepsBelow.refl s).ite (keepsBelow_modCore _ _ fun c => deltas_modCtx c k (passBreak_fpDelta _))

theorem report_cores (s : State) : s.report.cores = s.cores := by
  unfold State.report
  split
  · rfl
  · extract_lets now text
    exact foldl_keeps State.cores (fun (s : State) r => s.printText r.1 (text r) r.2) (fun _ _ => rfl) _ _

/-- Whatever a move has charged and counted, all that has reached a limit is posted before the next. -/
theorem deltasBelow_settle (before s : State) : (State.settle before s).deltasBelow := by
  unfold State.settle
  extract_lets os u v w x y
  refine State.KeepsBelow.deltasBelow ?_ (deltasBelow_foldl_postDue w)
  exact (keepsBelow_postUnits _).trans ((keepsBelow_passForeign x x.cur.1 x.cur.2).trans (keepsBelow_of_cores (report_cores y)))

theorem deltasBelow_settled {before t : State} {o : Out} (h : settled before o = .next t) : t.deltasBelow := by
  cases o with
  | next u => exact Host.Outcome.next.inj h ▸ deltasBelow_settle before u
  | fault r => cases h
  | refused r => cases h

/-! ## The clocks (R341, R380, R399) -/

theorem countPerf_deltas (c : Core) (ev n : Nat) : (c.countPerf ev n).deltas = c.deltas := by
  unfold Core.countPerf
  split <;> rfl

theorem ctxTick_fpDelta (runs : Bool) (c : Ctx) : (c.tick runs).fpDelta = c.fpDelta :=
  (apply_ite Ctx.fpDelta _ _ _).trans (ite_self _)

theorem coreTick_deltas (c : Core) : c.tick.deltas = c.deltas := by
  unfold Core.tick
  extract_lets live stuck stalled d d'
  have hd' : d'.deltas = c.deltas := (countPerf_deltas ..).trans ((countPerf_deltas ..).trans (countPerf_deltas d 1 1))
  split
  · exact hd'
  · have hticks := foldl_keeps Core.deltas (fun d k => d.modCtx k (Ctx.tick (c.counts k))) (fun d k => deltas_modCtx d k (ctxTick_fpDelta (c.counts k))) (List.range 11) d'
    have hrest (e : Core) (a g v) : ({ e with cycles := a, grace := g, saving := v } : Core).deltas = e.deltas := rfl
    exact (hrest ..).trans (hticks.trans hd')

theorem keepsBelow_tick (s : State) (core : Nat) : s.KeepsBelow (s.tick core) := by
  have hsamples (u : State) : (u.takeSamples core).cores = u.cores := by
    unfold State.takeSamples
    refine foldl_keeps State.cores _ (fun v p => ?_) _ _
    split <;> rfl
  unfold State.tick
  extract_lets u
  have hu : s.KeepsBelow u := (keepsBelow_modCore s core coreTick_deltas).trans (keepsBelow_of_cores (hsamples _))
  exact hu.trans ((keepsBelow_postEnergy ..).when)

theorem wharfTick_cores (s : State) : s.wharfTick.cores = s.cores := by
  unfold State.wharfTick
  refine foldl_keeps State.cores _ (fun v p => ?_) _ _
  dsimp only
  cases p.resident <;> rfl

theorem keepsBelow_portTick (s : State) (port : Nat) : s.KeepsBelow (s.portTick port) := by
  unfold State.portTick
  extract_lets u v
  have hu : s.KeepsBelow u := keepsBelow_of_cores rfl
  have hv : u.KeepsBelow v := ((keepsBelow_postPort ..).trans (keepsBelow_postPort ..)).when
  exact (hu.trans hv).trans (keepsBelow_of_cores rfl)

theorem keepsBelow_clockTick (s : State) (u : Timed) : s.KeepsBelow (s.clockTick u) := by
  have hage : s.KeepsBelow (s.older u) := keepsBelow_of_cores rfl
  cases u with
  | refill | port => exact State.KeepsBelow.refl s
  | stack | bucket => exact hage
  | engine t i => exact hage.trans ((keepsBelow_postEngine ..).when)
  | slice t i => exact (hage.trans ((keepsBelow_postSlice ..).when)).trans ((keepsBelow_flushSlice ..).when)

/-! ## The obligation -/

/-- An issue is a cycle of the core's clock, and after it the word that it issues, if any, settled. -/
theorem move_issue (s : State) (core : Nat) :
    s.move (.issue core) = .next (s.tick core) ∨ ∃ u, s.move (.issue core) = settled u u.issueWord := by
  delta State.move
  dsimp only
  cases (s.tick core).issuer core with
  | none => exact .inl rfl
  | some u => exact .inr ⟨u, rfl⟩

theorem deltasBelow_of_keepsBelow {s t u : State} (hs : s.deltasBelow) (hu : s.KeepsBelow u) (h : (.next u : Out) = .next t) :
    t.deltasBelow := Host.Outcome.next.inj h ▸ hu.deltasBelow hs

theorem deltasBelow_move {s t : State} {m : Move} (hs : s.deltasBelow) (h : s.move m = .next t) : t.deltasBelow := by
  cases m with
  | issue core =>
    rcases move_issue s core with hmove | ⟨u, hmove⟩
    · exact deltasBelow_of_keepsBelow hs (keepsBelow_tick s core) (hmove.symm.trans h)
    · exact deltasBelow_settled (hmove.symm.trans h)
  | event i => exact deltasBelow_settled h
  | tick core => exact deltasBelow_of_keepsBelow hs (keepsBelow_tick s core) h
  | wharf => exact deltasBelow_of_keepsBelow hs (keepsBelow_of_cores (wharfTick_cores s)) h
  | port i => exact deltasBelow_of_keepsBelow hs (keepsBelow_portTick s i) h
  | clock u => exact deltasBelow_of_keepsBelow hs (keepsBelow_clockTick s u) h

/-- A step fills an empty agenda, or makes its first move. -/
theorem step_cases (s : State) :
    step s = .next { s with agenda := s.round } ∨ ∃ m rest, step s = State.move { s with agenda := rest } m := by
  delta step
  cases s.agenda with
  | nil => exact .inl rfl
  | cons m rest => exact .inr ⟨m, rest, rfl⟩

/-- Settles O10: an issue or an event ends in `settle`, which posts what has reached a limit, whatever the word or the event has
charged; a clock alone raises no delta. -/
theorem deltasStayBelowTheirLimits : Obligations.DeltasStayBelowTheirLimits := by
  unfold Obligations.DeltasStayBelowTheirLimits
  intro s t hs hstep
  rcases step_cases s with hcase | ⟨m, rest, hcase⟩
  · refine deltasBelow_of_keepsBelow hs ?_ (hcase.symm.trans hstep)
    exact keepsBelow_of_cores rfl
  · exact deltasBelow_move (s := { s with agenda := rest }) hs (hcase.symm.trans hstep)

end Sys2Proof.Machine
end

section
/-!
PROOFS. Residue words: fields, mixed-radix conversion, and the exactness of arithmetic and correction (R101 to R106).
-/

namespace Sys2Proof.Machine

/-! ## Fields of a residue word (R102, R103) -/

/-- A number laid out in fields: field `i` of `wd i` bits from bit `lo i` up. -/
noncomputable def layFields (lo wd f : Nat → Nat) (n : Nat) : Nat := ((List.range n).map fun i => f i % 2 ^ wd i * 2 ^ lo i).sum

section LayFields
variable {lo wd f : Nat → Nat}

theorem layFields_succ (n : Nat) : layFields lo wd f (n + 1) = layFields lo wd f n + f n % 2 ^ wd n * 2 ^ lo n := by
  show ((List.range (n + 1)).map _).sum = _
  rw [List.range_succ, List.map_append, List.sum_append, List.map_singleton, List.sum_singleton]
  rfl

/-- Fields that each begin where the one before has ended stay below the next. -/
theorem layFields_lt {n : Nat} (h : ∀ i j, i < j → j ≤ n → lo i + wd i ≤ lo j) : layFields lo wd f n < 2 ^ lo n := by
  induction n with
  | zero => exact Nat.two_pow_pos _
  | succ n ih =>
    have hlow := ih fun i j hij hj => h i j hij (Nat.le_succ_of_le hj)
    rw [layFields_succ]
    calc layFields lo wd f n + f n % 2 ^ wd n * 2 ^ lo n
        < 2 ^ lo n * 2 ^ wd n := by
          rw [Nat.add_comm, Nat.mul_comm (f n % _)]
          exact mul_add_lt_mul_of_lt (Nat.mod_lt _ (Nat.two_pow_pos _)) hlow
      _ = 2 ^ (lo n + wd n) := (pow_add 2 _ _).symm
      _ ≤ 2 ^ lo (n + 1) := Nat.pow_le_pow_right (by decide) (h n (n + 1) (Nat.lt_succ_self n) le_rfl)

/-- Each field is read back as it was laid. -/
theorem layFields_field {n i : Nat} (h : ∀ i j, i < j → j < n → lo i + wd i ≤ lo j) (hi : i < n) :
    layFields lo wd f n / 2 ^ lo i % 2 ^ wd i = f i % 2 ^ wd i := by
  induction n with
  | zero => exact absurd hi (Nat.not_lt_zero i)
  | succ n ih =>
    rw [layFields_succ]
    rcases Nat.lt_succ_iff_lt_or_eq.mp hi with hlt | rfl
    · have hdvd : 2 ^ lo i * 2 ^ wd i ∣ 2 ^ lo n := Nat.pow_add 2 .. ▸ Nat.pow_dvd_pow 2 (h i n hlt (Nat.lt_succ_self n))
      have hlow : (layFields lo wd f n + f n % 2 ^ wd n * 2 ^ lo n) % (2 ^ lo i * 2 ^ wd i) = layFields lo wd f n % (2 ^ lo i * 2 ^ wd i) :=
        Nat.ModEq.add_left _ (Nat.modEq_zero_iff_dvd.mpr (hdvd.mul_left _))
      rw [← Nat.mod_mul_right_div_self, hlow, Nat.mod_mul_right_div_self]
      exact ih (fun i j hij hj => h i j hij (Nat.lt_succ_of_lt hj)) hlt
    · have hlow : layFields lo wd f i < 2 ^ lo i := layFields_lt fun a b hab hb => h a b hab (Nat.lt_succ_of_le hb)
      rw [Nat.add_mul_div_right _ _ (Nat.two_pow_pos _), Nat.div_eq_of_lt hlow, Nat.zero_add, Nat.mod_mod]

end LayFields

theorem residue_packResidues (f : Nat → Nat) {i : Nat} (hi : i < 7) :
    residue (packResidues f) i = f i % 2 ^ (rnField i).2 := by
  have hfields : ∀ j < 7, ∀ i < j, (rnField i).1 + (rnField i).2 ≤ (rnField j).1 := by decide
  exact layFields_field (lo := fun i => (rnField i).1) (wd := fun i => (rnField i).2) (fun i j hij hj => hfields j hj i hij) hi

theorem modulus_pos {i : Nat} (hi : i < 7) : 0 < modulus i := by
  have h : ∀ i < 7, 0 < modulus i := by decide
  exact h i hi

/-- A field holds every value below its modulus. -/
theorem modulus_le_two_pow {i : Nat} (hi : i < 7) : modulus i ≤ 2 ^ (rnField i).2 := by
  have h : ∀ i < 7, modulus i ≤ 2 ^ (rnField i).2 := by decide
  exact h i hi

theorem emod_modulus_nonneg (x : Int) {i : Nat} (hi : i < 7) : 0 ≤ x % modulus i :=
  Int.emod_nonneg x (Int.natCast_ne_zero.mpr (modulus_pos hi).ne')

theorem emod_modulus_lt (x : Int) {i : Nat} (hi : i < 7) : x % modulus i < modulus i :=
  Int.emod_lt_of_pos x (Int.natCast_pos.mpr (modulus_pos hi))

theorem toNat_emod_modulus_lt (x : Int) {i : Nat} (hi : i < 7) : (x % modulus i).toNat < modulus i :=
  (Int.toNat_lt (emod_modulus_nonneg x hi)).mpr (emod_modulus_lt x hi)

/-- A value below its channel's modulus is read back from the word packed with it. -/
theorem residue_packResidues_of_lt {f : Nat → Nat} {i : Nat} (hi : i < 7) (h : f i < modulus i) :
    residue (packResidues f) i = f i := by
  rw [residue_packResidues f hi, Nat.mod_eq_of_lt (h.trans_le (modulus_le_two_pow hi))]

theorem residue_residues (x : Int) {i : Nat} (hi : i < 7) : residue (residues x) i = (x % modulus i).toNat :=
  residue_packResidues_of_lt hi (toNat_emod_modulus_lt x hi)

/-! ## Mixed-radix conversion (R104) -/

/-- The value of mixed-radix digits, lowest first. -/
noncomputable def radixVal (ds : List (Nat × Nat)) : Nat := ds.foldr (fun d z => z * d.1 + d.2) 0

/-- The product of the moduli of mixed-radix digits. -/
noncomputable def radixProd (ds : List (Nat × Nat)) : Nat := (ds.map (·.1)).prod

theorem radixProd_cons (d : Nat × Nat) (ds : List (Nat × Nat)) : radixProd (d :: ds) = d.1 * radixProd ds := List.prod_cons

theorem radixVal_append (ds : List (Nat × Nat)) (m a : Nat) :
    radixVal (ds ++ [(m, a)]) = radixVal ds + radixProd ds * a := by
  induction ds with
  | nil => exact ((Nat.zero_mul m).symm ▸ rfl : 0 * m + a = 0 + a).trans (congrArg (0 + ·) (Nat.one_mul a).symm)
  | cons d ds ih =>
    show radixVal (ds ++ [(m, a)]) * d.1 + d.2 = radixVal ds * d.1 + d.2 + radixProd (d :: ds) * a
    rw [ih, Nat.add_mul, Nat.add_right_comm, radixProd_cons, Nat.mul_comm d.1, Nat.mul_right_comm]

theorem radixProd_append (ds : List (Nat × Nat)) (m a : Nat) : radixProd (ds ++ [(m, a)]) = radixProd ds * m := by
  show ((ds ++ [(m, a)]).map _).prod = _
  rw [List.map_append, List.prod_append, List.map_singleton, List.prod_singleton]
  rfl

/-- What makes `invMod` an inverse. -/
def Inverts (a m : Nat) : Prop := (a : Int) * invMod a m ≡ 1 [ZMOD m]

/-- The digit of a number whose lower digits are known: what is left of it once they are taken off. -/
theorem mrcDigit_modEq {m : Nat} {ds : List (Nat × Nat)} (hds : ∀ d ∈ ds, Inverts d.1 m) {t q : Int}
    (ht : t ≡ radixVal ds + q * radixProd ds [ZMOD m]) : mrcDigit m ds t ≡ q [ZMOD m] := by
  induction ds generalizing t with
  | nil =>
    rw [show radixVal [] = 0 from rfl, show radixProd [] = 1 from rfl, Nat.cast_zero, Nat.cast_one, zero_add, mul_one] at ht
    exact ht
  | cons d ds ih =>
    rw [List.forall_mem_cons] at hds
    refine ih hds.2 ((Int.mod_modEq _ _).trans ?_)
    have hsum : (radixVal (d :: ds) + q * radixProd (d :: ds) : Int) = (radixVal ds + q * radixProd ds) * d.1 + d.2 := by
      rw [show radixVal (d :: ds) = radixVal ds * d.1 + d.2 from rfl, radixProd_cons, Nat.cast_add, Nat.cast_mul, Nat.cast_mul, add_right_comm, add_mul, mul_comm (d.1 : Int), mul_assoc]
    rw [hsum] at ht
    calc (t - d.2) * invMod d.1 m
        ≡ ((radixVal ds + q * radixProd ds) * d.1 + d.2 - d.2) * invMod d.1 m [ZMOD m] := (ht.sub_right _).mul_right _
      _ = (radixVal ds + q * radixProd ds) * (d.1 * invMod d.1 m) := by rw [add_sub_cancel_right, mul_assoc]
      _ ≡ (radixVal ds + q * radixProd ds) * 1 [ZMOD m] := hds.1.mul_left _
      _ = radixVal ds + q * radixProd ds := mul_one _

theorem mrcDigit_bounds {m : Nat} (hm : 0 < m) (ds : List (Nat × Nat)) {t : Int} (h0 : 0 ≤ t) (ht : t < m) :
    0 ≤ mrcDigit m ds t ∧ mrcDigit m ds t < m := by
  induction ds generalizing t with
  | nil => exact ⟨h0, ht⟩
  | cons d ds ih =>
    have hm' := Int.natCast_pos.mpr hm
    exact ih (Int.emod_nonneg _ hm'.ne') (Int.emod_lt_of_pos _ hm')

/-- The next digit of `x` is its quotient by the product of the moduli so far, modulo the next modulus. -/
theorem mrcDigit_eq {m : Nat} {ds : List (Nat × Nat)} (hm : 0 < m) (hds : ∀ d ∈ ds, Inverts d.1 m) {x : Int}
    (hx : (radixVal ds : Int) = x % radixProd ds) : mrcDigit m ds (x % m) = x / radixProd ds % m := by
  have hm' := Int.natCast_pos.mpr hm
  obtain ⟨h0, hlt⟩ := mrcDigit_bounds hm ds (Int.emod_nonneg x hm'.ne') (Int.emod_lt_of_pos x hm')
  rw [← Int.emod_eq_of_lt h0 hlt]
  refine mrcDigit_modEq hds ((Int.mod_modEq _ _).trans ?_)
  rw [hx, mul_comm, Int.emod_add_mul_ediv]

/-- A remainder by a product, from the remainders by its factors. -/
theorem emod_mul_eq (x : Int) {a : Int} (ha : 0 ≤ a) (b : Int) : x % (a * b) = x % a + a * (x / a % b) := by
  rw [Int.emod_def, Int.emod_def x a, Int.emod_def (x / a) b, ← Int.ediv_ediv_of_nonneg ha, mul_sub, sub_add_sub_cancel, mul_assoc]

/-- One digit more gives a number modulo one modulus more. -/
theorem radixVal_digit {x : Int} {ds : List (Nat × Nat)} (hx : (radixVal ds : Int) = x % radixProd ds) {m a : Nat}
    (ha : (a : Int) = x / radixProd ds % m) : (radixVal (ds ++ [(m, a)]) : Int) = x % radixProd (ds ++ [(m, a)]) := by
  rw [radixVal_append, radixProd_append, Nat.cast_add, Nat.cast_mul, Nat.cast_mul, hx, ha, emod_mul_eq x (Int.natCast_nonneg _)]

/-- Digits that give `x` so far go on to give it modulo all the channels' moduli. -/
theorem radixVal_mrcDigits {w : Nat} {x : Int} {cs : List Nat} {ds : List (Nat × Nat)} (hpos : ∀ c ∈ cs, 0 < modulus c)
    (hres : ∀ c ∈ cs, (residue w c : Int) = x % modulus c) (hcs : cs.Pairwise fun b c => Inverts (modulus b) (modulus c))
    (hds : ∀ d ∈ ds, ∀ c ∈ cs, Inverts d.1 (modulus c)) (hx : (radixVal ds : Int) = x % radixProd ds) :
    (radixVal (mrcDigits w cs ds) : Int) = x % (radixProd ds * (cs.map modulus).prod : Nat) := by
  induction cs generalizing ds with
  | nil => exact hx.trans (congrArg (x % ·) (congrArg Nat.cast (Nat.mul_one _).symm))
  | cons c cs ih =>
    rw [List.forall_mem_cons] at hpos hres
    obtain ⟨hc, hcs⟩ := List.pairwise_cons.mp hcs
    have hdigit := mrcDigit_eq hpos.1 (fun d hd => hds d hd c List.mem_cons_self) hx
    rw [← hres.1] at hdigit
    have hnonneg := Int.emod_nonneg (x / radixProd ds) (Int.natCast_ne_zero.mpr hpos.1.ne')
    have hprod (a : Nat) := (congrArg (· * (cs.map modulus).prod) (radixProd_append ds (modulus c) a)).trans (Nat.mul_assoc ..)
    refine (ih hpos.2 hres.2 hcs ?_ (radixVal_digit hx ?_)).trans (congrArg (fun n : Nat => x % n) (hprod _))
    · intro d hd b hb
      rcases List.mem_append.mp hd with hd | hd
      · exact hds d hd b (List.mem_cons_of_mem _ hb)
      · rw [List.mem_singleton.mp hd]
        exact hc b hb
    · rw [hdigit, Int.toNat_of_nonneg hnonneg]

theorem pairwise_inverts : allChannels.Pairwise fun b c => Inverts (modulus b) (modulus c) := by
  unfold Inverts Int.ModEq
  decide

theorem mem_allChannels {i : Nat} : i ∈ allChannels ↔ i < 7 := List.mem_range

/-- Mixed radix over some of the channels gives every integer of those residues, modulo the channels' moduli. -/
theorem mrc_eq {w : Nat} {x : Int} {cs : List Nat} (hsub : cs.Sublist allChannels)
    (hres : ∀ c ∈ cs, (residue w c : Int) = x % modulus c) : (mrc w cs : Int) = x % ((cs.map modulus).prod : Nat) := by
  have hpos : ∀ c ∈ cs, 0 < modulus c := fun c hc => modulus_pos (mem_allChannels.mp (hsub.subset hc))
  have h := radixVal_mrcDigits hpos hres (pairwise_inverts.sublist hsub) (ds := []) (by simp) (by simp [radixVal, radixProd])
  rwa [show radixProd [] = 1 from rfl, Nat.one_mul] at h

theorem le_two_mul_iff (z q : Nat) : q ≤ 2 * z ↔ ¬(z : Int) < (q + 1) / 2 := by
  have h : (z : Int) < (q + 1) / 2 ↔ (z + 1) * 2 ≤ q + 1 := Int.ofNat_lt.trans (Nat.le_div_iff_mul_le two_pos)
  rw [h, Nat.not_le, Nat.add_mul, Nat.mul_comm]
  exact Nat.lt_succ_iff.symm.trans Nat.succ_lt_succ_iff.symm

/-- The signed value of a remainder is the balanced one. -/
theorem signedMod_of_eq_emod {z q : Nat} {x : Int} (hz : (z : Int) = x % q) : signedMod z q = x.bmod q := by
  refine ((if_congr (le_two_mul_iff z q) rfl rfl).trans (ite_not ..)).trans ?_
  rw [Int.bmod_def, ← hz]

/-! ## The ranges of the moduli (R101, R105) -/

/-- The product of all moduli but one. -/
noncomputable def prodWithout (i : Nat) : Nat := rnsP / modulus i

theorem prod_allChannels : (allChannels.map modulus).prod = rnsP := by decide

theorem prod_channelsWithout {i : Nat} (hi : i < 7) : ((allChannels.filter (· != i)).map modulus).prod = prodWithout i := by
  have h : ∀ i < 7, ((allChannels.filter (· != i)).map modulus).prod = rnsP / modulus i := by decide
  exact h i hi

theorem prodWithout_mul {i : Nat} (hi : i < 7) : prodWithout i * modulus i = rnsP := by
  have h : ∀ i < 7, rnsP / modulus i * modulus i = rnsP := by decide
  exact h i hi

/-- Any six moduli together are over a thousand times the range of the five that inform. -/
theorem prodWithout_ge {i : Nat} (hi : i < 7) : 1019 * rnsM ≤ prodWithout i := by
  have h : ∀ i < 7, 1019 * rnsM ≤ rnsP / modulus i := by decide
  exact h i hi

/-- Any five moduli together are at least the range of the five that inform. -/
theorem exists_common_divisor {i j : Nat} (hi : i < 7) (hj : j < 7) (hij : j ≠ i) :
    ∃ q, rnsM ≤ q ∧ q ∣ prodWithout i ∧ q ∣ prodWithout j ∧ modulus i ∣ prodWithout j := by
  have h : ∀ i < 7, ∀ j < 7, j ≠ i → rnsM ≤ rnsP / modulus i / modulus j ∧ rnsP / modulus i / modulus j ∣ rnsP / modulus i ∧
      rnsP / modulus i / modulus j ∣ rnsP / modulus j ∧ modulus i ∣ rnsP / modulus j := by decide
  exact ⟨_, h i hi j hj hij⟩

theorem inRange_iff (x : Int) : inRange x = true ↔ -(rnsM : Int) ≤ 2 * x ∧ 2 * x < rnsM :=
  (Bool.and_eq_true ..).to_iff.trans (and_congr decide_eq_true_iff decide_eq_true_iff)

theorem sub_lt_of_inRange {x y : Int} (hx : inRange x = true) (hy : inRange y = true) : y - x < rnsM := by
  obtain ⟨h0, -⟩ := (inRange_iff x).mp hx
  obtain ⟨-, h1⟩ := (inRange_iff y).mp hy
  lia

/-- Two integers in range that agree modulo at least the range are one. -/
theorem eq_of_inRange {x y : Int} (hx : inRange x = true) (hy : inRange y = true) {q : Nat} (hq : rnsM ≤ q)
    (h : (q : Int) ∣ y - x) : y = x := by
  have hq' := Int.ofNat_le.mpr hq
  exact Int.sub_eq_zero.mp (Int.eq_zero_of_abs_lt_dvd h
    (abs_sub_lt_iff.mpr ⟨(sub_lt_of_inRange hx hy).trans_le hq', (sub_lt_of_inRange hy hx).trans_le hq'⟩))

theorem two_mul_natAbs_le {x : Int} (hx : inRange x = true) : 2 * x.natAbs ≤ rnsM := by
  obtain ⟨h0, h1⟩ := (inRange_iff x).mp hx
  have habs := abs_le.mpr ⟨h0, h1.le⟩
  rw [← Int.natCast_natAbs, Int.natAbs_mul] at habs
  exact Int.ofNat_le.mp habs

theorem not_inRange_of_natAbs_ge {y : Int} (h : 2 ^ 49 ≤ y.natAbs) : inRange y = false :=
  Bool.eq_false_iff.mpr fun hin => absurd (two_mul_natAbs_le hin) (Nat.not_le.mpr ((by decide : rnsM < 2 * 2 ^ 49).trans_le
    (Nat.mul_le_mul_left 2 h)))

theorem bmod_of_inRange {x : Int} (hx : inRange x = true) {q : Nat} (hq : rnsM ≤ q) : x.bmod q = x := by
  obtain ⟨h0, h1⟩ := (inRange_iff x).mp hx
  have hq' := Int.ofNat_le.mpr hq
  rw [mul_comm] at h0 h1
  exact Int.bmod_eq_of_le_mul_two ((neg_le_neg hq').trans h0) (h1.trans_le hq')

/-! ## Decoding in full mode (R105) -/

section Decode
variable {w : Nat} {x : Int}

theorem valueWithout_eq {i : Nat} (hi : i < 7) (hres : ∀ c < 7, c ≠ i → (residue w c : Int) = x % modulus c) :
    valueWithout w i = x.bmod (prodWithout i) := by
  have hmrc := mrc_eq (w := w) (x := x) (cs := allChannels.filter (· != i)) List.filter_sublist fun c hc => by
    obtain ⟨hc, hne⟩ := List.mem_filter.mp hc
    exact hres c (mem_allChannels.mp hc) (by simpa using hne)
  rw [prod_channelsWithout hi] at hmrc
  exact signedMod_of_eq_emod hmrc

theorem signedMod_mrc_eq (hres : ∀ c < 7, (residue w c : Int) = x % modulus c) :
    signedMod (mrc w allChannels) rnsP = x.bmod rnsP := by
  have hmrc := mrc_eq (List.Sublist.refl allChannels) fun c hc => hres c (mem_allChannels.mp hc)
  rw [prod_allChannels] at hmrc
  exact signedMod_of_eq_emod hmrc

/-- The channels whose field is at or above their modulus. -/
noncomputable def badChannels (w : Nat) : List Nat := allChannels.filter fun i => decide (modulus i ≤ residue w i)

theorem badChannels_eq_nil (h : ∀ c < 7, residue w c < modulus c) : badChannels w = [] :=
  List.filter_eq_nil_iff.mpr fun c hc => by simpa using h c (mem_allChannels.mp hc)

/-- The one channel for which a test holds is the list of those for which it holds. -/
theorem filter_allChannels_eq_singleton {p : Nat → Bool} {i : Nat} (hi : i < 7) (hp : p i = true)
    (hne : ∀ c < 7, c ≠ i → p c = false) : allChannels.filter p = [i] := by
  have hfilter : allChannels.filter p = allChannels.filter (· == i) := List.filter_congr fun c hc => by
    by_cases h : c = i
    · simp [h, hp]
    · simp [h, hne c (mem_allChannels.mp hc) h]
  have hone : ∀ i < 7, allChannels.filter (· == i) = [i] := by decide
  rw [hfilter, hone i hi]

theorem decodeFull_good (hbad : badChannels w = []) (hx : inRange (signedMod (mrc w allChannels) rnsP) = true) :
    decodeFull w = .good (signedMod (mrc w allChannels) rnsP) := by
  unfold badChannels at hbad
  unfold decodeFull
  rw [hbad]
  exact if_pos hx

/-- No field is too large, but the value is far out of range, and one channel left out brings it back. -/
theorem decodeFull_corrected {i : Nat} (hbad : badChannels w = []) (hout : inRange (signedMod (mrc w allChannels) rnsP) = false)
    (hfar : 2 ^ 49 ≤ (signedMod (mrc w allChannels) rnsP).natAbs)
    (hone : allChannels.filter (fun i => inRange (valueWithout w i)) = [i]) :
    decodeFull w = .corrected i (valueWithout w i) := by
  unfold badChannels at hbad
  unfold decodeFull
  rw [hbad, hone]
  simp only [hout, Bool.false_eq_true, if_false, if_neg (Nat.not_lt.mpr hfar)]

/-- One field is too large, and its channel left out gives a value in range. -/
theorem decodeFull_corrected_bad {i : Nat} (hbad : badChannels w = [i]) (hx : inRange (valueWithout w i) = true) :
    decodeFull w = .corrected i (valueWithout w i) := by
  unfold badChannels at hbad
  unfold decodeFull
  rw [hbad]
  exact if_pos hx

/-- A word of an integer in range decodes to it. -/
theorem decodeFull_of_residues (hx : inRange x = true) (hres : ∀ c < 7, (residue w c : Int) = x % modulus c) :
    decodeFull w = .good x := by
  have hlt : ∀ c < 7, residue w c < modulus c := fun c hc => Int.ofNat_lt.mp (hres c hc ▸ emod_modulus_lt x hc)
  have hval : signedMod (mrc w allChannels) rnsP = x := by rw [signedMod_mrc_eq hres, bmod_of_inRange hx (by decide)]
  rw [decodeFull_good (badChannels_eq_nil hlt) (by rw [hval, hx]), hval]

end Decode

/-! ## One channel in error (R105, R106) -/

/-- A word whose fields are below their moduli is the word of some integer. -/
theorem exists_int_of_residues {w : Nat} (hlt : ∀ c < 7, residue w c < modulus c) :
    ∃ X : Int, ∀ c < 7, (residue w c : Int) = X % modulus c := by
  have hcoprime : allChannels.Pairwise (Function.onFun Nat.Coprime modulus) := by
    unfold Function.onFun
    decide
  obtain ⟨k, hk⟩ := Nat.chineseRemainderOfList (residue w) modulus allChannels hcoprime
  refine ⟨k, fun c hc => ?_⟩
  have hmod : k % modulus c = residue w c % modulus c := hk c (mem_allChannels.mpr hc)
  rw [Nat.mod_eq_of_lt (hlt c hc)] at hmod
  exact_mod_cast hmod.symm

section OneChannel
variable {w i : Nat} {x : Int} (hx : inRange x = true) (hi : i < 7) (hwrong : (residue w i : Int) ≠ x % modulus i)
  (hres : ∀ c < 7, c ≠ i → (residue w c : Int) = x % modulus c)
include hx hi hres

/-- The channels that are right give the integer. -/
theorem valueWithout_wrong : valueWithout w i = x := by
  rw [valueWithout_eq hi hres]
  exact bmod_of_inRange hx (le_trans (by decide) (prodWithout_ge hi))

variable {X : Int} (hX : ∀ c < 7, (residue w c : Int) = X % modulus c)
include hX

/-- The integer that a word stands for differs from the one meant by a multiple of the moduli of the channels that are right. -/
theorem prodWithout_dvd_sub : (prodWithout i : Int) ∣ x - X := by
  have hv := valueWithout_eq hi fun c hc _ => hX c hc
  rw [valueWithout_wrong hx hi hres] at hv
  rw [hv]
  exact Int.dvd_bmod_sub_self

include hwrong

omit hx hres in
/-- An integer that agrees with the word in the wrong channel is not the one meant. -/
theorem ne_of_dvd_sub {y : Int} {q : Nat} (hq : modulus i ∣ q) (h : (q : Int) ∣ y - X) : y ≠ x := by
  rintro rfl
  refine hwrong ((hX i hi).trans ?_)
  exact Int.modEq_iff_dvd.mpr ((Int.natCast_dvd_natCast.mpr hq).trans h)

/-- With its wrong channel the word stands for an integer far out of range. -/
theorem natAbs_bmod_ge : 2 ^ 49 ≤ (X.bmod rnsP).natAbs := by
  have hsub := prodWithout_dvd_sub hx hi hres hX
  have hne : X.bmod rnsP ≠ x :=
    ne_of_dvd_sub hi hwrong hX ⟨prodWithout i, by rw [Nat.mul_comm, prodWithout_mul hi]⟩ Int.dvd_bmod_sub_self
  have hdvd : (prodWithout i : Int) ∣ X.bmod rnsP - x := by
    have hP : (prodWithout i : Int) ∣ X.bmod rnsP - X :=
      (Int.natCast_dvd_natCast.mpr ⟨modulus i, (prodWithout_mul hi).symm⟩).trans Int.dvd_bmod_sub_self
    simpa using Int.dvd_sub hP hsub
  by_contra hlt
  refine hne (Int.sub_eq_zero.mp (Int.eq_zero_of_dvd_of_natAbs_lt_natAbs hdvd ?_))
  calc (X.bmod rnsP - x).natAbs ≤ (X.bmod rnsP).natAbs + x.natAbs := Int.natAbs_sub_le ..
    _ < 2 ^ 49 + rnsM := Nat.add_lt_add_of_lt_of_le (Nat.not_le.mp hlt) ((Nat.le_mul_of_pos_left _ two_pos).trans (two_mul_natAbs_le hx))
    _ ≤ 1019 * rnsM := by decide
    _ ≤ prodWithout i := prodWithout_ge hi

/-- Leaving another channel out leaves the wrong one in, and the value out of range. -/
theorem valueWithout_other {j : Nat} (hj : j < 7) (hij : j ≠ i) : inRange (valueWithout w j) = false := by
  obtain ⟨q, hq, hqi, hqj, hij'⟩ := exists_common_divisor hi hj hij
  rw [valueWithout_eq hj fun c hc _ => hX c hc]
  by_contra hin
  refine ne_of_dvd_sub hi hwrong hX hij' Int.dvd_bmod_sub_self (eq_of_inRange hx (Bool.not_eq_false _ ▸ hin) hq ?_)
  have hz : (q : Int) ∣ X.bmod (prodWithout j) - X := (Int.natCast_dvd_natCast.mpr hqj).trans Int.dvd_bmod_sub_self
  have hx' : (q : Int) ∣ x - X := (Int.natCast_dvd_natCast.mpr hqi).trans (prodWithout_dvd_sub hx hi hres hX)
  simpa using Int.dvd_sub hz hx'

end OneChannel

/-- A word of an integer in range with one channel's field wrong decodes as corrected there, to the integer. -/
theorem decodeFull_of_wrong_channel {w i : Nat} {x : Int} (hx : inRange x = true) (hi : i < 7)
    (hwrong : (residue w i : Int) ≠ x % modulus i) (hres : ∀ c < 7, c ≠ i → (residue w c : Int) = x % modulus c) :
    decodeFull w = .corrected i x := by
  have hval := valueWithout_wrong hx hi hres
  have hlt : ∀ c < 7, c ≠ i → residue w c < modulus c := fun c hc hne => Int.ofNat_lt.mp (hres c hc hne ▸ emod_modulus_lt x hc)
  by_cases hbad : residue w i < modulus i
  · have hall : ∀ c < 7, residue w c < modulus c := fun c hc => by
      by_cases h : c = i
      · exact h ▸ hbad
      · exact hlt c hc h
    obtain ⟨X, hX⟩ := exists_int_of_residues hall
    have hfar := natAbs_bmod_ge hx hi hwrong hres hX
    rw [← signedMod_mrc_eq hX] at hfar
    rw [decodeFull_corrected (badChannels_eq_nil hall) (not_inRange_of_natAbs_ge hfar) hfar, hval]
    exact filter_allChannels_eq_singleton hi (by rw [hval, hx]) fun j hj hij => valueWithout_other hx hi hwrong hres hX hj hij
  · rw [decodeFull_corrected_bad _ (by rw [hval, hx]), hval]
    exact filter_allChannels_eq_singleton hi (by simpa using hbad) fun j hj hij => by simpa using hlt j hj hij

/-! ## The obligations -/

theorem inRange_of_bounds {x : Int} (h0 : -544387186560 ≤ x) (h1 : x < 544387186560) : inRange x = true := by
  have hM : (rnsM : Int) = 2 * 544387186560 := by decide
  rw [inRange_iff, hM, ← mul_neg]
  exact ⟨Int.mul_le_mul_of_nonneg_left h0 zero_le_two, Int.mul_lt_mul_of_pos_left h1 two_pos⟩

theorem natCast_toNat_emod_modulus (x : Int) {i : Nat} (hi : i < 7) : ((x % modulus i).toNat : Int) = x % modulus i :=
  Int.toNat_of_nonneg (emod_modulus_nonneg x hi)

/-- Channel arithmetic on words of two integers, for an operation that remainders respect. -/
theorem residue_rnArith {op : Int → Int → Int} (hop : ∀ (m : Nat) (a b : Int), op (a % m) (b % m) % m = op a b % m) (x y : Int)
    {i : Nat} (hi : i < 7) : (residue (rnArith op (residues x) (residues y)) i : Int) = op x y % modulus i := by
  have hx := toNat_emod_modulus_lt x hi
  have hy := toNat_emod_modulus_lt y hi
  have hfield : (if modulus i ≤ residue (residues x) i || modulus i ≤ residue (residues y) i then 2 ^ (rnField i).2 - 1
      else (op (residue (residues x) i) (residue (residues y) i) % modulus i).toNat) = (op x y % modulus i).toNat := by
    rw [if_neg (by simp [residue_residues _ hi, hx, hy]), residue_residues x hi, residue_residues y hi,
      natCast_toNat_emod_modulus x hi, natCast_toNat_emod_modulus y hi, hop]
  rw [← natCast_toNat_emod_modulus _ hi, ← hfield, rnArith, residue_packResidues_of_lt hi]
  rw [hfield]
  exact toNat_emod_modulus_lt _ hi

/-- Settles O37: the fields of the result are the residues of the exact result, which decoding gives back when it is in range. -/
theorem residueArithmeticIsExact : Obligations.ResidueArithmeticIsExact := by
  unfold Obligations.ResidueArithmeticIsExact
  refine fun x y => ⟨fun op hop h0 h1 => ?_, fun i hi => residue_residues x hi⟩
  refine decodeFull_of_residues (inRange_of_bounds h0 h1) fun c hc => residue_rnArith (fun m a b => ?_) x y hc
  simp only [List.mem_cons, List.not_mem_nil, or_false] at hop
  rcases hop with rfl | rfl | rfl
  · exact (Int.add_emod a b m).symm
  · exact (Int.sub_emod a b m).symm
  · exact (Int.mul_emod a b m).symm

/-- Settles O38: leaving the wrong channel out gives the integer; with it the value is far out of range, and so it is when another
channel is left out in its place. -/
theorem singleChannelErrorsAreCorrected : Obligations.SingleChannelErrorsAreCorrected := by
  unfold Obligations.SingleChannelErrorsAreCorrected
  intro x i r w h0 h1 hi hr hwrong hres _
  refine decodeFull_of_wrong_channel (inRange_of_bounds h0 h1) hi ?_ fun c hc hne => ?_
  · rw [hr, ← natCast_toNat_emod_modulus x hi]
    exact_mod_cast hwrong
  · rw [hres c hc hne, natCast_toNat_emod_modulus x hc]

end Sys2Proof.Machine
end

section
/-!
PROOFS. Computed NaNs, and magnitudes cut to whole last places (R85, R87).
-/

namespace Sys2Proof.Machine

/-! ## Computed NaNs (R85) -/

theorem nanOut_flags (f : Fmt) (ops : List FVal) : (nanOut f ops false).flags = if ops.any isSNaN then 16 else 0 := rfl

section NaN
variable {f : Fmt} {m : BitVec 3} {a b : FVal}

theorem isNaN_iff (a : FVal) : isNaN a = true ↔ ∃ s, a = .nan s := by
  cases a with
  | nan s => exact ⟨fun _ => ⟨s, rfl⟩, fun _ => rfl⟩
  | inf neg => exact ⟨Bool.noConfusion, fun ⟨_, h⟩ => FVal.noConfusion h⟩
  | fin neg man exp => exact ⟨Bool.noConfusion, fun ⟨_, h⟩ => FVal.noConfusion h⟩

theorem fadd_of_isNaN (h : isNaN a = true ∨ isNaN b = true) : fadd f m a b = nanOut f [a, b] false :=
  if_pos (by simpa using h)

theorem fmul_of_isNaN (h : isNaN a = true ∨ isNaN b = true) : fmul f m a b = nanOut f [a, b] false :=
  if_pos (by simpa using h)

theorem fdiv_of_isNaN (h : isNaN a = true ∨ isNaN b = true) : fdiv f m a b = nanOut f [a, b] false := by
  rw [isNaN_iff, isNaN_iff] at h
  rcases h with ⟨s, rfl⟩ | ⟨s, rfl⟩
  · rfl
  · cases a <;> rfl

/-- A binary operation with a NaN operand. -/
theorem binaryNaN {r : FOut} (h : r = nanOut f [a, b] false) :
    r.bits = fmtNaN f ∧ r.flags = if isSNaN a || isSNaN b then 16 else 0 := by
  subst h
  exact ⟨rfl, by rw [nanOut_flags, List.any_cons, List.any_cons, List.any_nil, Bool.or_false]⟩

/-- A unary operation with a NaN operand. -/
theorem unaryNaN {r : FOut} (h : r = nanOut f [a] false) : r.bits = fmtNaN f ∧ r.flags = if isSNaN a then 16 else 0 := by
  subst h
  exact ⟨rfl, by rw [nanOut_flags, List.any_cons, List.any_nil, Bool.or_false]⟩

end NaN

/-! ## Magnitudes cut to whole last places (R87) -/

/-- Whether a cut of `k` bits rounds away from zero. -/
noncomputable def cutsUp (mode : BitVec 3) (neg : Bool) (man k : Nat) : Bool :=
  roundUp mode neg (man / 2 ^ k % 2 == 1) (man % 2 ^ k == 2 ^ (k - 1)) (decide (2 ^ (k - 1) < man % 2 ^ k)) (man % 2 ^ k != 0)

theorem roundShift_cut {k : Nat} (hk : 0 < k) (mode : BitVec 3) (neg : Bool) (man : Nat) : roundShift mode neg man false k =
    (if cutsUp mode neg man k then man / 2 ^ k + 1 else man / 2 ^ k, man % 2 ^ k != 0) := by
  obtain ⟨j, rfl⟩ := Nat.exists_eq_add_of_lt hk
  refine (if_neg (Int.not_le.mpr (Nat.cast_pos.mpr hk))).trans ?_
  simp only [Int.toNat_natCast, Bool.or_false, Bool.not_false, Bool.and_true, Bool.and_false]
  rfl

/-! A magnitude `m` of which `r` is cut off, in last places of `P`, `2 * h`, each: `X` is what the whole last places come to. -/

section Places
variable {X r m h P : Nat}

theorem bounds_of_up (hP : P = 2 * h) (hX : X + r = m + P) (hle : h ≤ r) (hlt : r < P) : 2 * X ≤ 2 * m + P ∧ 2 * m < 2 * X + P := by
  lia
theorem tie_of_up (hP : P = 2 * h) (hX : X + r = m + P) (heq : 2 * X = 2 * m + P) : r = h := by lia

theorem bounds_of_off (hP : P = 2 * h) (hX : X + r = m) (hle : r ≤ h) : 2 * X ≤ 2 * m + P ∧ 2 * m ≤ 2 * X + P := by lia
theorem tie_of_off (hP : P = 2 * h) (hX : X + r = m) (heq : 2 * m = 2 * X + P) : r = h := by lia

end Places

section Cut
variable {k : Nat} (hk : 0 < k) {mode : BitVec 3} {neg : Bool} {man : Nat}
include hk

theorem roundShift_up (h : cutsUp mode neg man k = true) : (roundShift mode neg man false k).1 = man / 2 ^ k + 1 := by
  rw [roundShift_cut hk, h]
  rfl

theorem roundShift_off (h : cutsUp mode neg man k = false) : (roundShift mode neg man false k).1 = man / 2 ^ k := by
  rw [roundShift_cut hk, h]
  rfl

omit hk in
theorem places_up (man k : Nat) : (man / 2 ^ k + 1) * 2 ^ k + man % 2 ^ k = man + 2 ^ k := by
  rw [Nat.succ_mul, Nat.add_right_comm, Nat.div_add_mod']

theorem two_pow_eq_two_mul : 2 ^ k = 2 * 2 ^ (k - 1) := by
  rw [← pow_succ', Nat.sub_add_cancel hk]

/-- RNE: the nearest, and of two the even one. -/
theorem roundShift_rne (neg : Bool) (man : Nat) : let R := (roundShift 0 neg man false k).1
    2 * (R * 2 ^ k) ≤ 2 * man + 2 ^ k ∧ 2 * man ≤ 2 * (R * 2 ^ k) + 2 ^ k ∧
      (2 * (R * 2 ^ k) = 2 * man + 2 ^ k ∨ 2 * man = 2 * (R * 2 ^ k) + 2 ^ k → R % 2 = 0) := by
  have hup : cutsUp 0 neg man k = true ↔ 2 ^ (k - 1) < man % 2 ^ k ∨ man % 2 ^ k = 2 ^ (k - 1) ∧ man / 2 ^ k % 2 = 1 :=
    (Bool.or_eq_true (decide (2 ^ (k - 1) < man % 2 ^ k)) (man % 2 ^ k == 2 ^ (k - 1) && man / 2 ^ k % 2 == 1)).to_iff.trans
      (or_congr decide_eq_true_iff ((Bool.and_eq_true ..).to_iff.trans (and_congr beq_iff_eq beq_iff_eq)))
  have hP := two_pow_eq_two_mul hk
  by_cases hc : cutsUp 0 neg man k = true
  · have hcut := hup.mp hc
    obtain ⟨hle, hlt⟩ := bounds_of_up hP (places_up man k) (hcut.elim Nat.le_of_lt fun h => h.1.ge) (Nat.mod_lt _ (Nat.two_pow_pos k))
    rw [roundShift_up hk hc]
    refine ⟨hle, hlt.le, fun htie => ?_⟩
    rw [tie_of_up hP (places_up man k) (htie.resolve_right hlt.ne)] at hcut
    exact Nat.succ_mod_two_eq_zero_iff.mpr (hcut.resolve_left (Nat.lt_irrefl _)).2
  · obtain ⟨hmore, hodd⟩ := not_or.mp (mt hup.mpr hc)
    rw [roundShift_off hk (Bool.eq_false_iff.mpr hc)]
    have hlow := Nat.div_mul_le_self man (2 ^ k)
    obtain ⟨hle, hge⟩ := bounds_of_off hP (Nat.div_add_mod' ..) (Nat.not_lt.mp hmore)
    refine ⟨hle, hge, fun htie => Nat.mod_two_ne_one.mp fun h => hodd ⟨?_, h⟩⟩
    refine tie_of_off hP (Nat.div_add_mod' ..) (htie.resolve_left fun h => ?_)
    exact absurd (Nat.mul_le_mul_left 2 hlow) (Nat.not_le.mpr (h ▸ Nat.lt_add_of_pos_right (Nat.two_pow_pos k)))

/-- RNA: the nearest, and of two the one away from zero. -/
theorem roundShift_rna (neg : Bool) (man : Nat) : let R := (roundShift 4 neg man false k).1
    2 * (R * 2 ^ k) ≤ 2 * man + 2 ^ k ∧ 2 * man < 2 * (R * 2 ^ k) + 2 ^ k := by
  have hup : cutsUp 4 neg man k = true ↔ 2 ^ (k - 1) ≤ man % 2 ^ k :=
    (Bool.or_eq_true (decide (2 ^ (k - 1) < man % 2 ^ k)) (man % 2 ^ k == 2 ^ (k - 1))).to_iff.trans
      ((or_congr decide_eq_true_iff (beq_iff_eq.trans eq_comm)).trans Nat.le_iff_lt_or_eq.symm)
  have hP := two_pow_eq_two_mul hk
  by_cases hc : cutsUp 4 neg man k = true
  · rw [roundShift_up hk hc]
    exact bounds_of_up hP (places_up man k) (hup.mp hc) (Nat.mod_lt _ (Nat.two_pow_pos k))
  · have hlt := Nat.not_le.mp (mt hup.mpr hc)
    rw [roundShift_off hk (Bool.eq_false_iff.mpr hc)]
    obtain ⟨hle, hge⟩ := bounds_of_off hP (Nat.div_add_mod' ..) hlt.le
    exact ⟨hle, hge.lt_of_ne fun h => hlt.ne (tie_of_off hP (Nat.div_add_mod' ..) h)⟩

/-- A mode that never rounds this sign away from zero: the magnitude is cut off. -/
theorem roundShift_toward (h : cutsUp mode neg man k = false) : let R := (roundShift mode neg man false k).1
    R * 2 ^ k ≤ man ∧ man < (R + 1) * 2 ^ k := by
  rw [roundShift_off hk h]
  exact ⟨Nat.div_mul_le_self .., (Nat.div_lt_iff_lt_mul (Nat.two_pow_pos k)).mp (Nat.lt_succ_self _)⟩

/-- A mode that rounds this sign away from zero whenever something is cut. -/
theorem roundShift_away (h : cutsUp mode neg man k = (man % 2 ^ k != 0)) : let R := (roundShift mode neg man false k).1
    man ≤ R * 2 ^ k ∧ R * 2 ^ k < man + 2 ^ k := by
  have hpos := Nat.two_pow_pos k
  by_cases hr : man % 2 ^ k = 0
  · have hR : man / 2 ^ k * 2 ^ k = man := Nat.div_mul_cancel (Nat.dvd_of_mod_eq_zero hr)
    rw [hr] at h
    rw [roundShift_off hk h]
    dsimp only
    rw [hR]
    exact ⟨le_rfl, Nat.lt_add_of_pos_right hpos⟩
  · rw [roundShift_up hk (h.trans (bne_iff_ne.mpr hr))]
    exact ⟨((Nat.div_lt_iff_lt_mul hpos).mp (Nat.lt_succ_self _)).le,
      places_up man k ▸ Nat.lt_add_of_pos_right (Nat.pos_of_ne_zero hr)⟩

end Cut

/-- Settles O15: a NaN operand leads every operation to `nanOut`; a cut rounds up exactly when its mode says so. -/
theorem naNsAndRounding : Obligations.NaNsAndRounding := by
  unfold Obligations.NaNsAndRounding
  refine ⟨fun f m a b => ⟨fun h => ?_, fun h => ?_⟩, fun neg man k hk => ?_⟩
  · exact List.forall_mem_cons.mpr ⟨binaryNaN (fadd_of_isNaN h), List.forall_mem_cons.mpr ⟨binaryNaN (fmul_of_isNaN h),
      List.forall_mem_singleton.mpr (binaryNaN (fdiv_of_isNaN h))⟩⟩
  · obtain ⟨s, rfl⟩ := (isNaN_iff a).mp h
    obtain ⟨hbits, hflags⟩ := unaryNaN (f := f) (a := .nan s) rfl
    exact ⟨hbits, hflags, hbits, hflags⟩
  · refine ⟨roundShift_rne hk neg man, roundShift_rna hk neg man, roundShift_toward hk rfl, ?_, ?_,
      (congrArg Prod.snd (roundShift_cut hk 0 neg man)).trans (decide_not ..).symm⟩
    · cases neg with
      | true => exact roundShift_toward hk (Bool.and_false _)
      | false => exact roundShift_away hk (Bool.and_true _)
    · cases neg with
      | true => exact roundShift_away hk (Bool.and_true _)
      | false => exact roundShift_toward hk (Bool.and_false _)

end Sys2Proof.Machine
end

section
/-!
PROOFS. Residue words in x registers, and words whose known result arrives later (R103, R156, R277, R278).
-/

namespace Sys2Proof.Machine

/-! ## Residue words in registers (R102) -/

theorem packResidues_lt (f : Nat → Nat) : packResidues f < 2 ^ 61 := by
  have hfields : ∀ j ≤ 6, ∀ i < j, (rnField i).1 + (rnField i).2 ≤ (rnField j).1 := by decide
  have hlow := layFields_lt (lo := fun i => (rnField i).1) (wd := fun i => (rnField i).2) (f := f) fun i j hij hj => hfields j hj i hij
  have htop : f 6 % 2 ^ (rnField 6).2 < 2 ^ 10 := Nat.mod_lt _ (Nat.two_pow_pos _)
  calc packResidues f
      = layFields (fun i => (rnField i).1) (fun i => (rnField i).2) f 6 + f 6 % 2 ^ (rnField 6).2 * 2 ^ 51 := layFields_succ 6
    _ < 2 ^ 51 * 2 ^ 10 := by
      rw [Nat.add_comm, Nat.mul_comm (f 6 % _)]
      exact mul_add_lt_mul_of_lt htop hlow

/-- A residue word is held whole by an x register. -/
theorem toNat_ofNat_packResidues (f : Nat → Nat) : (BitVec.ofNat 64 (packResidues f)).toNat = packResidues f := by
  rw [BitVec.toNat_ofNat, Nat.mod_eq_of_lt ((packResidues_lt f).trans (by decide))]

theorem szBits_pos (sz : BitVec 2) : 0 < szBits sz := by
  have h : ∀ sz : BitVec 2, 0 < szBits sz := by decide
  exact h sz

/-- The low bits of a register as a signed number. -/
theorem toSigned_szBits (sz : BitVec 2) (v : Word) : toSigned (szBits sz) v.toNat = (v.setWidth (szBits sz)).toInt := by
  rw [toSigned_eq _ _ (szBits_pos sz), BitVec.ofNat_toNat]

/-- A channel of an arithmetic word: the operation modulo the channel's modulus, or all ones for a field that is too large. -/
theorem residue_rnArith_field (op : Int → Int → Int) (a b : Nat) {i : Nat} (hi : i < 7) : residue (rnArith op a b) i =
    if residue a i < modulus i ∧ residue b i < modulus i then (op (residue a i) (residue b i) % modulus i).toNat
    else 2 ^ (rnField i).2 - 1 := by
  refine (residue_packResidues _ hi).trans ?_
  by_cases h : residue a i < modulus i ∧ residue b i < modulus i
  · rw [if_pos h, if_neg (by simpa using h),
      Nat.mod_eq_of_lt ((toNat_emod_modulus_lt _ hi).trans_le (modulus_le_two_pow hi))]
  · rw [if_neg h, if_pos (by simpa only [Bool.or_eq_true, decide_eq_true_eq, not_and_or, Nat.not_lt] using h),
      Nat.mod_eq_of_lt (Nat.sub_lt (Nat.two_pow_pos _) Nat.one_pos)]

/-- A change of the acting context is what it makes of that context. -/
theorem modCtx_congr {s : State} {f g : Ctx → Ctx} (h : f s.ctx = g s.ctx) : s.modCtx f = s.modCtx g :=
  modCore_congr (f := (·.modCtx s.cur.2 f)) (g := (·.modCtx s.cur.2 g)) (congrArg (s.me.setCtx s.cur.2) h)

/-- A word whose whole effect is to write a register with what it makes of its context. -/
theorem outcome_done_writeX_ctx (s : State) (rd : BitVec 5) (v : Ctx → Word) :
    (Did.done (s.modCtx fun c => c.writeX rd (v c))).outcome 0 = .next (s.wroteX rd (v s.ctx)) := by
  rw [modCtx_congr (g := fun c => c.writeX rd (v s.ctx)) rfl, outcome_done_writeX]

theorem exec_rnfwd_of_clear {o : Fp1} {s : State} (h : s.Clear (rnfwdRule o)) : exec (.rnfwd o) s =
    .next (s.wroteX o.rd (BitVec.ofNat 64 (residues (toSigned (szBits o.sz) (s.ctx.readX o.ra).toNat)))) :=
  ((exec_rnfwd s).trans (issue_of_clear h)).trans
    (outcome_done_writeX_ctx s o.rd fun c => BitVec.ofNat 64 (residues (toSigned (szBits o.sz) (c.readX o.ra).toNat)))

theorem rnOp_of_clear {o : Reg2} {s : State} (h : s.Clear { reg2Rule o with rep := true, noHint := true }) (op : Int → Int → Int) :
    rnOp op o s = .next (s.wroteX o.rd (BitVec.ofNat 64 (rnArith op (s.ctx.readX o.ra).toNat (s.ctx.readX o.rb).toNat))) :=
  (issue_of_clear h).trans
    (outcome_done_writeX_ctx s o.rd fun c => BitVec.ofNat 64 (rnArith op (c.readX o.ra).toNat (c.readX o.rb).toNat))

theorem exec_rnchk_of_clear {o : Reg1} {s : State} (h : s.Clear { reg1Rule o with rep := true, noHint := true }) :
    exec (.rnchk o) s = .next (s.wroteX o.rd (rnOutWord (s.me.decode (s.ctx.readX o.ra)))) :=
  ((exec_rnchk s).trans (issue_of_clear h)).trans (outcome_done_writeX s o.rd _)

/-! ## A known result that arrives later (R156) -/

theorem getLsbD_and_not_bit (m : BitVec 32) (rd : BitVec 5) : (m &&& ~~~((1 : BitVec 32) <<< rd.toNat)).getLsbD rd.toNat = false := by
  simp

theorem emptied_markDest (c : Ctx) (rd : BitVec 5) : (c.markDest (destX rd) false).x = c.x ∧
    (c.markDest (destX rd) false).pends = c.pends ∧ (c.markDest (destX rd) false).deferred = c.deferred ∧
    (rd ≠ 0 → (c.markDest (destX rd) false).full (.x rd) = false) := by
  by_cases h : rd = 0
  · rw [show c.markDest (destX rd) false = c from congrArg (c.markDest · false) (if_pos h)]
    exact ⟨rfl, rfl, rfl, absurd h⟩
  · have hmark := (congrArg (c.markDest · false) (if_neg h : destX rd = .x rd)).trans (if_neg h : c.mark (.x rd) false = _)
    exact ⟨(congrArg Ctx.x hmark :), (congrArg Ctx.pends hmark :), (congrArg Ctx.deferred hmark :), fun _ =>
      (congrArg (·.full (.x rd)) hmark :).trans (Bool.or_eq_false_iff.mpr ⟨beq_eq_false_iff_ne.mpr h, getLsbD_and_not_bit c.xfull rd⟩)⟩

/-- A context that has emptied a destination, for one producer more. -/
noncomputable def Ctx.owing (c : Ctx) (d : Dest) (p : Pend) : Ctx := { c.markDest d false with pends := c.pends ++ [p] }

theorem ctx_awaitKnown (u : State) (d : Dest) (v v2 : BitVec 192) (flags : BitVec 5) : (u.awaitKnown d v v2 flags).ctx =
    u.ctx.owing d ⟨u.seq, d, [], .known v v2 flags, true, none, u.ctx.pc, false, none, none⟩ := ctx_modCtx u.nextSeq.2 _

/-- What a word leaves that has retired before the value of its destination is there. -/
def State.RetiredEmpty (s t : State) (rd : BitVec 5) : Prop :=
  t.ctx.pc = s.ctx.pc + 4 ∧ t.ctx.x = s.ctx.x ∧ t.me.tiles = s.me.tiles ∧ (rd ≠ 0 → t.ctx.full (.x rd) = false)

/-- A word with nothing deferred that has retired owes its destination a known value, its core's packets as they are in `u`. -/
def State.Owes (s t u : State) (rd : BitVec 5) (v : BitVec 192) : Prop :=
  ∃ p : Pend, t.ctx.pends = s.ctx.pends ++ [p] ∧ p.dest = destX rd ∧ p.finish = .known v 0 0 ∧ t.ctx.deferred = [] ∧
    t.me.packets = u.me.packets

section Owes
variable {s u : State} (hu : u.ctx = s.ctx) (hdue : s.ctx.deferred = []) (rd : BitVec 5) (v : BitVec 192)
include hu

theorem ctx_past_awaitKnown (d : Dest) : (s.past 0 (u.awaitKnown d v 0 0)).ctx =
    (s.ctx.owing d ⟨u.seq, d, [], .known v 0 0, true, none, s.ctx.pc, false, none, none⟩).retire (s.ctx.pc + 4) := by
  rw [ctx_past, ctx_awaitKnown, hu]

omit hu in
theorem me_past_awaitKnown_keeps {α : Type} {π : Core → α} (hπ : ∀ (c : Core) k f, π (c.modCtx k f) = π c) (d : Dest) :
    π (s.past 0 (u.awaitKnown d v 0 0)).me = π u.me := by
  rw [me_past, hπ]
  exact (congrArg π (me_modCtx u.nextSeq.2 _)).trans (hπ ..)

include hdue

/-- A word that has kept its context and its tiles until it owes a known result retires. -/
theorem outcome_done_awaitKnown (htiles : u.me.tiles = s.me.tiles) : ∃ t,
    (Did.done (u.awaitKnown (destX rd) v 0 0)).outcome 0 = .next t ∧ s.RetiredEmpty t rd ∧ s.Owes t u rd v := by
  obtain ⟨hx, -, hdeferred, hempty⟩ := emptied_markDest s.ctx rd
  have hpast := ctx_past_awaitKnown hu v (destX rd)
  refine ⟨_, ?_, ⟨congrArg Ctx.pc hpast, (congrArg Ctx.x hpast).trans hx,
    (me_past_awaitKnown_keeps (π := Core.tiles) v (fun _ _ _ => rfl) _).trans htiles, fun hne => ?_⟩,
    _, congrArg Ctx.pends hpast, rfl, rfl, ((congrArg Ctx.deferred hpast).trans hdeferred).trans hdue,
    me_past_awaitKnown_keeps (π := Core.packets) v (fun _ _ _ => rfl) _⟩
  · have hpc : (u.awaitKnown (destX rd) v 0 0).ctx.pc = s.ctx.pc := by
      rw [ctx_awaitKnown, hu]
      exact (sameWork_markDest ..).pc
    rw [Did.outcome, hpc]
    rfl
  · exact ((congrArg (·.full (.x rd)) hpast).trans (full_retire ..)).trans (hempty hne)

end Owes

/-! ## RNREV (R278) -/

/-- A context whose word fails after it has retired: its destination empty, and the fault due at its next issue. -/
noncomputable def Ctx.failsLate (c : Ctx) (rd : BitVec 5) (f : FaultInfo) : Ctx :=
  { c.markDest (destX rd) false with deferred := c.deferred ++ [⟨f, c.pc⟩] }

theorem outcome_done_failsLate {s : State} (hdue : s.ctx.deferred = []) (rd : BitVec 5) (f : FaultInfo) : ∃ t,
    (Did.done (s.modCtx (·.failsLate rd f))).outcome 0 = .next t ∧ s.RetiredEmpty t rd ∧ t.ctx.pends = s.ctx.pends ∧
      t.ctx.deferred = [⟨f, s.ctx.pc⟩] := by
  obtain ⟨hx, hpends, -, hempty⟩ := emptied_markDest s.ctx rd
  have hpast := ctx_past s 0 (s.modCtx (·.failsLate rd f))
  rw [ctx_modCtx] at hpast
  have htiles : (s.past 0 (s.modCtx (·.failsLate rd f))).me.tiles = s.me.tiles := by
    rw [me_past, me_modCtx]
    rfl
  refine ⟨_, outcome_done_modCtx s (f := (·.failsLate rd f)) (sameWork_markDest ..).pc,
    ⟨congrArg Ctx.pc hpast, (congrArg Ctx.x hpast).trans hx, htiles, fun hne => ?_⟩, (congrArg Ctx.pends hpast).trans hpends,
    (congrArg Ctx.deferred hpast).trans (congrArg (· ++ _) hdue)⟩
  exact ((congrArg (·.full (.x rd)) hpast).trans (full_retire ..)).trans (hempty hne)

/-- A core with one packet more in its queue. -/
noncomputable def Core.reported (c : Core) (ws : List Word) : Core := { c with packets := c.packets ++ [(ws, [])] }

theorem core_packet (s : State) (n : Nat) (ws : List Word) : (s.packet n ws).core n = (s.core n).reported ws := by
  unfold State.packet
  cases causeCounter (bits (ws.headD 0) 36 31) with
  | none => exact core_modCore_self s n _
  | some i => exact core_modCore_self (s.countError (s.blockOf n) i) n _

theorem cur_packet (s : State) (n : Nat) (ws : List Word) : (s.packet n ws).cur = s.cur := by
  unfold State.packet
  cases causeCounter (bits (ws.headD 0) 36 31) <;> rfl

theorem me_packet (s : State) (ws : List Word) : (s.packet s.cur.1 ws).me = s.me.reported ws := by
  rw [State.me, cur_packet, core_packet]
  rfl

section CorrectedEvent
variable (s : State) (d : BitVec 24)

theorem cur_correctedEvent : (s.correctedEvent s.cur.1 s.cur.2 d).cur = s.cur := cur_packet ..

theorem me_correctedEvent : ∃ ws, (s.correctedEvent s.cur.1 s.cur.2 d).me = s.me.reported ws :=
  ⟨_, me_packet s _⟩

theorem ctx_correctedEvent : (s.correctedEvent s.cur.1 s.cur.2 d).ctx = s.ctx := by
  obtain ⟨ws, hme⟩ := me_correctedEvent s d
  rw [State.ctx, cur_correctedEvent, hme]
  rfl

end CorrectedEvent

/-- The report of a word put right. -/
noncomputable def State.rnrevCorrected (s : State) (i : Nat) : State := s.correctedEvent s.cur.1 s.cur.2 (residueDetail 7 15 7 (BitVec.ofNat 7 (2 ^ i)))

theorem owes_rnrevCorrected {s t : State} {rd : BitVec 5} {i : Nat} {v : BitVec 192} (h : s.Owes t (s.rnrevCorrected i) rd v) :
    ∃ p : Pend, t.ctx.pends = s.ctx.pends ++ [p] ∧ p.dest = destX rd ∧ p.finish = .known v 0 0 ∧ t.ctx.deferred = [] ∧
      t.me.packets.length = s.me.packets.length + 1 := by
  obtain ⟨p, hpends, hdest, hfinish, hdeferred, hpackets⟩ := h
  obtain ⟨ws, hws⟩ := me_correctedEvent s (residueDetail 7 15 7 (BitVec.ofNat 7 (2 ^ i)))
  exact ⟨p, hpends, hdest, hfinish, hdeferred,
    (congrArg List.length (hpackets.trans (congrArg Core.packets hws))).trans List.length_append⟩

/-- What RNREV leaves of a word that decodes in a certain way. -/
def State.Reversed (s t : State) (rd : BitVec 5) : RnOut → Prop
  | .good x => s.Owes t s rd (BitVec.ofInt 192 x)
  | .corrected i x => s.Owes t (s.rnrevCorrected i) rd (BitVec.ofInt 192 x)
  | .overflow _ => t.ctx.pends = s.ctx.pends ∧ t.ctx.deferred = [⟨⟨.rnsOverflow, residueDetail 7 15 7 0, 0⟩, s.ctx.pc⟩]
  | .mismatch m => t.ctx.pends = s.ctx.pends ∧ t.ctx.deferred = [⟨⟨.residueMismatch, residueDetail 7 15 7 m, 0⟩, s.ctx.pc⟩]

theorem exec_rnrev_of_clear {o : Reg1} {s : State} (hclear : s.Clear { reg1Rule o with rep := true, noHint := true }) : ∃ t,
    exec (.rnrev o) s = .next t ∧ s.RetiredEmpty t o.rd ∧ s.Reversed t o.rd (s.me.decode (s.ctx.readX o.ra)) := by
  rw [(exec_rnrev s).trans (issue_of_clear hclear)]
  cases s.me.decode (s.ctx.readX o.ra) with
  | good x => exact outcome_done_awaitKnown rfl hclear.1 o.rd _ rfl
  | corrected i x => exact outcome_done_awaitKnown (ctx_correctedEvent ..) hclear.1 o.rd _ ((me_correctedEvent s _).elim fun _ h => h ▸ rfl)
  | overflow x => exact outcome_done_failsLate hclear.1 o.rd _
  | mismatch m => exact outcome_done_failsLate hclear.1 o.rd _

end Sys2Proof.Machine
end

section
/-!
PROOFS. Tiles, and the words on them (R102, R106, R263 to R265).
-/

namespace Sys2Proof.Machine

/-! ## Words of a tile (R263, R265) -/

section Tile
variable (t : Tile)

theorem tile_read_of_valid {t : Tile} {i : Nat} (hi : i < 128) : t.read i = if t.valid then t.word.getD i 0 else 0 := by
  refine (if_pos hi).trans ?_
  unfold Tile.shown
  split
  · rfl
  · exact getD_replicate_self ..

theorem getD_setIfInBounds_ne {α : Type} {n i j : Nat} (h : j ≠ i) (v : Vector α n) (a d : α) :
    (v.setIfInBounds i a).getD j d = v.getD j d := by
  simp [Vector.getD, Array.getElem?_setIfInBounds_ne h.symm]

theorem tile_write_element {i : Nat} (hi : i < 128) (v : Word) :
    (t.write i v).read i = v &&& 0x1FFFFFFFFFFFFFFF ∧ (t.write i v).valid = true := by
  have hwrite : t.write i v = { t.shown with word := t.shown.word.setIfInBounds i (v &&& 0x1FFFFFFFFFFFFFFF), valid := true } :=
    (if_neg (Nat.not_le.mpr (hi.trans (by decide)))).trans (if_pos hi)
  rw [hwrite]
  exact ⟨(tile_read_of_valid hi).trans (getD_setIfInBounds_self _ _ _ hi), rfl⟩

/-- The bytes of a number, each at its place. -/
theorem ofBytes_digits (v n : Nat) : ofBytes ((List.range n).map fun j => BitVec.ofNat 8 (v / 256 ^ j)) = v % 256 ^ n := by
  induction n generalizing v with
  | zero => rw [pow_zero, Nat.mod_one]; rfl
  | succ n ih =>
    have htail : (List.range n).map ((fun j => BitVec.ofNat 8 (v / 256 ^ j)) ∘ Nat.succ) =
        (List.range n).map fun j => BitVec.ofNat 8 (v / 256 / 256 ^ j) :=
      List.map_congr_left fun j _ => by rw [Function.comp_apply, Nat.pow_succ', Nat.div_div_eq_div_mul]
    have hmod : v % 256 ^ (n + 1) = v % 2 ^ 8 + 256 * (v / 256 % 256 ^ n) := by rw [Nat.pow_succ', Nat.mod_mul]; rfl
    rw [List.range_succ_eq_map, List.map_cons, List.map_map, htail]
    show (BitVec.ofNat 8 (v / 256 ^ 0)).toNat + 256 * ofBytes _ = _
    rw [ih, pow_zero, Nat.div_one, BitVec.toNat_ofNat, hmod]

theorem ofBytes_extractLsb' (v : Word) : BitVec.ofNat 64 (ofBytes ((List.range 8).map fun j => v.extractLsb' (8 * j) 8)) = v := by
  have hbytes : (List.range 8).map (fun j => v.extractLsb' (8 * j) 8) = (List.range 8).map fun j => BitVec.ofNat 8 (v.toNat / 256 ^ j) :=
    List.map_congr_left fun j _ => by
      rw [BitVec.extractLsb', Nat.shiftRight_eq_div_pow, pow_mul, show (2 : Nat) ^ 8 = 256 from rfl]
  rw [hbytes, ofBytes_digits, Nat.mod_eq_of_lt (show v.toNat < 256 ^ 8 from v.isLt), BitVec.ofNat_toNat, BitVec.setWidth_eq]

/-- Places set one by one, read back. -/
theorem getElem_foldl_setIfInBounds {α : Type} {m : Nat} (r : Vector α m) (b : Nat) (g : Nat → α) {j n : Nat} (hj : j < n)
    (hm : b + j < m) : ((List.range n).foldl (fun r j => r.setIfInBounds (b + j) (g j)) r)[b + j] = g j := by
  induction n with
  | zero => exact absurd hj (Nat.not_lt_zero j)
  | succ n ih =>
    rw [List.range_succ, List.foldl_append, List.foldl_cons, List.foldl_nil, Vector.getElem_setIfInBounds]
    rcases Nat.lt_succ_iff_lt_or_eq.mp hj with h | rfl
    · rw [if_neg fun he => h.ne' (Nat.add_left_cancel he), ih h]
    · rw [if_pos rfl]

/-- Row exponents from place `b` on, as the eight bytes of a word. -/
noncomputable def rowWritten (r : Vector Byte 16) (b : Nat) (v : Word) : Vector Byte 16 :=
  (List.range 8).foldl (fun r j => r.setIfInBounds (b + j) (v.extractLsb' (8 * j) 8)) r

theorem ofBytes_rowWritten (r : Vector Byte 16) {b : Nat} (hb : b + 8 ≤ 16) (v : Word) :
    BitVec.ofNat 64 (ofBytes (((rowWritten r b v).toList.drop b).take 8)) = v := by
  have hlen : (((rowWritten r b v).toList.drop b).take 8).length = ((List.range 8).map fun j => v.extractLsb' (8 * j) 8).length := by
    rw [List.length_take, List.length_drop, Vector.length_toList, List.length_map, List.length_range]
    exact Nat.min_eq_left (Nat.le_sub_of_add_le' hb)
  have hbytes : ((rowWritten r b v).toList.drop b).take 8 = (List.range 8).map fun j => v.extractLsb' (8 * j) 8 :=
    List.ext_getElem hlen fun j _ hj => by
      rw [List.length_map, List.length_range] at hj
      rw [List.getElem_take, List.getElem_drop, Vector.getElem_toList, List.getElem_map, List.getElem_range]
      exact getElem_foldl_setIfInBounds r b _ hj (Nat.lt_of_lt_of_le (Nat.add_lt_add_left hj b) hb)
  rw [hbytes, ofBytes_extractLsb']

theorem tile_write_row {i : Nat} (hi : i = 129 ∨ i = 130) (v : Word) : (t.write i v).read i = v ∧ (t.write i v).valid = true := by
  rcases hi with rfl | rfl
  · exact ⟨ofBytes_rowWritten t.shown.rowexp (b := 0) (by decide) v, rfl⟩
  · exact ⟨ofBytes_rowWritten t.shown.rowexp (b := 8) (by decide) v, rfl⟩

/-- A pair of column scales written as a word, read back. -/
theorem getD_columnsWritten (c : Vector (BitVec 32) 8) {p : Nat} (hp : 2 * p + 1 < 8) (v : Word) :
    let d := (c.setIfInBounds (2 * p) (v.extractLsb' 0 32)).setIfInBounds (2 * p + 1) (v.extractLsb' 32 32)
    d.getD (2 * p + 1) 0 ++ d.getD (2 * p) 0 = v := by
  dsimp only
  rw [getD_setIfInBounds_self _ _ _ hp, getD_setIfInBounds_ne (Nat.ne_of_lt (Nat.lt_succ_self _)),
    getD_setIfInBounds_self _ _ _ (Nat.lt_of_succ_lt hp)]
  exact (BitVec.extractLsb'_append_extractLsb'_eq_extractLsb' rfl).trans BitVec.extractLsb'_eq_self

theorem tile_write_column {i : Nat} (hi : i = 131 ∨ i = 132 ∨ i = 133 ∨ i = 134) (v : Word) :
    (t.write i v).read i = v ∧ (t.write i v).valid = true := by
  rcases hi with rfl | rfl | rfl | rfl
  · exact ⟨getD_columnsWritten t.shown.cols (p := 0) (by decide) v, rfl⟩
  · exact ⟨getD_columnsWritten t.shown.cols (p := 1) (by decide) v, rfl⟩
  · exact ⟨getD_columnsWritten t.shown.cols (p := 2) (by decide) v, rfl⟩
  · exact ⟨getD_columnsWritten t.shown.cols (p := 3) (by decide) v, rfl⟩

theorem tile_write_reserved {i : Nat} (hi : 135 ≤ i) (v : Word) : t.write i v = t ∧ t.read i = 0 := by
  have hgt {n : Nat} (hn : n < 135) : n < i := Nat.lt_of_lt_of_le hn hi
  refine ⟨if_pos hi, ?_⟩
  have hrow : (decide (i = 129) || decide (i = 130)) = false := by
    rw [decide_eq_false (hgt (by decide)).ne', decide_eq_false (hgt (by decide)).ne']
    rfl
  unfold Tile.read
  rw [if_neg (hgt (by decide)).asymm, if_neg (hgt (by decide)).ne', hrow, if_neg Bool.false_ne_true,
    if_neg (Nat.not_le.mpr (hgt (by decide)))]

end Tile

end Sys2Proof.Machine
end

section
/-!
PROOFS. Words on tiles (R106, R264, R265).
-/

namespace Sys2Proof.Machine

@[simp] theorem tile_modTile_ne (c : Core) {i j : Nat} (f : Tile → Tile) (h : j % 8 ≠ i % 8) : (c.modTile i f).tile j = c.tile j := by
  simp only [Core.modTile, Core.tile]
  exact Vector.getElem_set_ne _ _ h.symm

theorem tile_me_past (s : State) (cls : Nat) (t : State) (j : Nat) : (s.past cls t).me.tile j = t.me.tile j := by
  rw [me_past]
  rfl

section OnTile
variable {s : State} {acc : BitVec 3} {k : Tile → Did}

theorem onTile_busy (h : (s.me.tile acc.toNat).busy = true) : s.onTile acc k = .stay s := if_pos h
theorem onTile_idle (h : (s.me.tile acc.toNat).busy = false) : s.onTile acc k = k (s.me.tile acc.toNat) := if_neg (by simp [h])

/-- A word on a tile waits while the tile is BUSY. -/
theorem issue_onTile_busy {r : WordRule} {k : State → Tile → Did} (hclear : s.Clear r) (h : (s.me.tile acc.toNat).busy = true) :
    issue r (fun s => s.onTile acc (k s)) s = .next s := by
  rw [issue_of_clear hclear, onTile_busy h]
  rfl

/-- A word on an idle tile comes to what it does with it. -/
theorem issue_onTile_idle {r : WordRule} {k : State → Tile → Did} (hclear : s.Clear r) (h : (s.me.tile acc.toNat).busy = false) :
    issue r (fun s => s.onTile acc (k s)) s = (k s (s.me.tile acc.toNat)).outcome r.cls := by
  rw [issue_of_clear hclear, onTile_idle h]

/-- A word that retires and changes one tile of its core. -/
def State.ChangesTile (s : State) (o : Out) (acc : BitVec 3) (f : Tile → Tile) : Prop :=
  ∃ u : State, o = .next u ∧ u.ctx.pc = s.ctx.pc + 4 ∧ u.ctx.x = s.ctx.x ∧ u.mem = s.mem ∧
    u.me.tile acc.toNat = f (s.me.tile acc.toNat) ∧ ∀ j < 8, j ≠ acc.toNat → u.me.tile j = s.me.tile j

/-- A word that keeps its context retires with its memory and registers as they were. -/
theorem kept_past {s t : State} (h : s.SameCtx t) :
    (s.past 0 t).ctx.pc = s.ctx.pc + 4 ∧ (s.past 0 t).ctx.x = s.ctx.x ∧ (s.past 0 t).mem = s.mem := by
  rw [ctx_past]
  exact ⟨rfl, h.x, h.mem⟩

theorem outcome_done_modTile (s : State) (acc : BitVec 3) (f : Tile → Tile) :
    s.ChangesTile ((Did.done (s.modMe (·.modTile acc.toNat f))).outcome 0) acc f := by
  have hctx : s.SameCtx (s.modMe (·.modTile acc.toNat f)) := sameCtx_modMe (f := (·.modTile acc.toNat f)) (fun _ => rfl) s
  have htile (j : Nat) : (s.past 0 (s.modMe (·.modTile acc.toNat f))).me.tile j = (s.me.modTile acc.toNat f).tile j := by
    rw [tile_me_past, me_modMe]
  obtain ⟨hpc, hx, hmem⟩ := kept_past hctx
  refine ⟨_, hctx.outcome, hpc, hx, hmem, (htile _).trans (tile_modTile_self ..), fun j hj hne => (htile j).trans ?_⟩
  exact tile_modTile_ne _ _ (by rwa [Nat.mod_eq_of_lt hj, Nat.mod_eq_of_lt acc.isLt])

end OnTile

/-! ## MZERO, ARD and AWR (R265) -/

section Words
variable {s : State}

theorem exec_mzero_busy {acc : BitVec 3} (h : (s.me.tile acc.toNat).busy = true) (hclear : s.Clear mzeroRule) :
    exec (.mzero acc) s = .next s := (exec_mzero s).trans (issue_onTile_busy hclear h)
theorem exec_ard_busy {o : AccRead} {acc : BitVec 3} (hacc : o.acc = acc) (h : (s.me.tile acc.toNat).busy = true)
    (hclear : s.Clear (ardRule o)) : exec (.ard o) s = .next s := (exec_ard s).trans (issue_onTile_busy hclear (hacc ▸ h))
theorem exec_awr_busy {o : AccWrite} {acc : BitVec 3} (hacc : o.acc = acc) (h : (s.me.tile acc.toNat).busy = true)
    (hclear : s.Clear (awrRule o)) : exec (.awr o) s = .next s := (exec_awr s).trans (issue_onTile_busy hclear (hacc ▸ h))
theorem exec_achk_busy {o : AccCheck} {acc : BitVec 3} (hacc : o.acc = acc) (h : (s.me.tile acc.toNat).busy = true)
    (hclear : s.Clear (achkRule o)) : exec (.achk o) s = .next s := (exec_achk s).trans (issue_onTile_busy hclear (hacc ▸ h))

theorem exec_mzero_idle {acc : BitVec 3} (hclear : s.Clear mzeroRule) (h : (s.me.tile acc.toNat).busy = false) :
    s.ChangesTile (exec (.mzero acc) s) acc fun t => { t with valid := false, ksteps := 0 } :=
  (exec_mzero s).trans (issue_onTile_idle hclear h) ▸ outcome_done_modTile s acc fun t => { t with valid := false, ksteps := 0 }

theorem exec_awr_idle {o : AccWrite} {acc : BitVec 3} (hacc : o.acc = acc) (hclear : s.Clear (awrRule o))
    (h : (s.me.tile acc.toNat).busy = false) :
    s.ChangesTile (exec (.awr o) s) acc (·.write (bits (s.ctx.readX o.ri) 7 0) (s.ctx.readX o.rs)) := by
  subst hacc
  exact (exec_awr s).trans (issue_onTile_idle hclear h) ▸ outcome_done_modTile s o.acc (·.write (bits (s.ctx.readX o.ri) 7 0) (s.ctx.readX o.rs))

theorem exec_ard_idle {o : AccRead} {acc : BitVec 3} (hacc : o.acc = acc) (hclear : s.Clear (ardRule o))
    (h : (s.me.tile acc.toNat).busy = false) : ∃ u, exec (.ard o) s = .next u ∧ s.RetiredEmpty u o.rd ∧
      s.Owes u s o.rd (((s.me.tile acc.toNat).read (bits (s.ctx.readX o.ri) 7 0)).setWidth 192) := by
  subst hacc
  exact (exec_ard s).trans (issue_onTile_idle hclear h) ▸ outcome_done_awaitKnown rfl hclear.1 o.rd _ rfl

end Words

/-! ## ACHK (R106, R265) -/

/-- Whether a word decodes as corrected. -/
noncomputable def RnOut.isCorrected : RnOut → Bool
  | .corrected _ _ => true
  | _ => false

/-- How element `e` of a tile of the acting core decodes. -/
noncomputable def State.elem (s : State) (tile e : Nat) : RnOut := s.me.decode ((s.me.tile tile).read e)

section DecodeTile
variable {s : State} {tile : Nat}

theorem decodeElem_good {e : Nat} {x : Int} (sat : Bool) (h : s.elem tile e = .good x) :
    s.decodeElem s.cur.1 s.cur.2 tile e sat = (s, .ok (x, false)) := by
  unfold State.elem State.me at h
  unfold State.decodeElem
  simp only [h]

theorem decodeElem_mismatch {e : Nat} {m : BitVec 7} (h : s.elem tile e = .mismatch m) :
    ∃ d, s.decodeElem s.cur.1 s.cur.2 tile e false = (s, .error ⟨.residueMismatch, d, 0⟩) := by
  unfold State.elem State.me at h
  refine ⟨residueDetail tile (e / 8) (e % 8) m, ?_⟩
  unfold State.decodeElem
  simp only [h]

theorem decodeElem_overflow {e : Nat} {x : Int} (h : s.elem tile e = .overflow x) :
    ∃ d, s.decodeElem s.cur.1 s.cur.2 tile e false = (s, .error ⟨.rnsOverflow, d, 0⟩) := by
  unfold State.elem State.me at h
  refine ⟨residueDetail tile (e / 8) (e % 8) 0, ?_⟩
  unfold State.decodeElem
  simp only [h]
  rfl

/-- An element written leaves what every other shows. -/
theorem tile_read_setIfInBounds_ne (t : Tile) {e j : Nat} (w : Word) (hj : j < 128) (hne : j ≠ e) :
    ({ t with word := t.word.setIfInBounds e w } : Tile).read j = t.read j := by
  rw [tile_read_of_valid hj, tile_read_of_valid hj]
  exact if_congr Iff.rfl (getD_setIfInBounds_ne hne ..) rfl

/-- What an element that decodes leaves as it was: the context, and how every other element decodes. -/
def State.KeepsOthers (s u : State) (tile e : Nat) : Prop :=
  u.cur = s.cur ∧ u.ctx = s.ctx ∧ ∀ j < 128, j ≠ e → u.elem tile j = s.elem tile j

theorem decodeElem_corrected {e i : Nat} {x : Int} (sat : Bool) (h : s.elem tile e = .corrected i x) :
    ∃ u, s.decodeElem s.cur.1 s.cur.2 tile e sat = (u, .ok (x, true)) ∧ s.KeepsOthers u tile e := by
  unfold State.elem State.me at h
  let v := s.modMe (·.modTile tile fun t => { t with word := t.word.setIfInBounds e (BitVec.ofNat 64 (residues x)) })
  refine ⟨v.correctedEvent v.cur.1 v.cur.2 (residueDetail tile (e / 8) (e % 8) (BitVec.ofNat 7 (2 ^ i))), ?_, ?_⟩
  · unfold State.decodeElem
    simp only [h]
    rfl
  · obtain ⟨ws, hme⟩ := me_correctedEvent v (residueDetail tile (e / 8) (e % 8) (BitVec.ofNat 7 (2 ^ i)))
    refine ⟨cur_correctedEvent .., (ctx_correctedEvent ..).trans ?_, fun j hj hne => ?_⟩
    · rw [State.ctx, me_modMe]
      rfl
    · unfold State.elem
      rw [hme]
      show v.me.decode ((v.me.tile tile).read j) = _
      rw [me_modMe, tile_modTile_self, tile_read_setIfInBounds_ne _ _ hj hne]
      rfl

/-- The next element, when `n` more follow it. -/
theorem next_element {e n : Nat} (hn : e + (n + 1) = 128) : 127 - n = e := Nat.sub_eq_of_eq_add (Nat.succ.inj hn).symm

section Step
variable {e n : Nat} (hn : e + (n + 1) = 128) {sat : Bool} {u : State}
include hn

theorem decodeTile_succ_error {f : FaultInfo} (h : s.decodeElem s.cur.1 s.cur.2 tile e sat = (u, .error f)) (xs : List Int) (cnt : Nat) :
    s.decodeTile s.cur.1 s.cur.2 tile sat (n + 1) xs cnt = (u, .error f) := by
  obtain rfl := next_element hn
  show (match s.decodeElem s.cur.1 s.cur.2 tile (127 - n) sat with
    | (u, .error f) => ((u, .error f) : State × Except FaultInfo (List Int × Nat))
    | (u, .ok (x, fixed)) => u.decodeTile s.cur.1 s.cur.2 tile sat n (xs ++ [x]) (cnt + num fixed)) = _
  rw [h]

theorem decodeTile_succ_ok {x : Int} {fixed : Bool} (h : s.decodeElem s.cur.1 s.cur.2 tile e sat = (u, .ok (x, fixed))) (xs : List Int)
    (cnt : Nat) : s.decodeTile s.cur.1 s.cur.2 tile sat (n + 1) xs cnt =
      u.decodeTile s.cur.1 s.cur.2 tile sat n (xs ++ [x]) (cnt + num fixed) := by
  obtain rfl := next_element hn
  show (match s.decodeElem s.cur.1 s.cur.2 tile (127 - n) sat with
    | (u, .error f) => ((u, .error f) : State × Except FaultInfo (List Int × Nat))
    | (u, .ok (x, fixed)) => u.decodeTile s.cur.1 s.cur.2 tile sat n (xs ++ [x]) (cnt + num fixed)) = _
  rw [h]

end Step

/-- Elements that all decode as they stand change nothing. -/
theorem decodeTile_of_good {e n : Nat} (hn : e + n = 128) (sat : Bool) (xs : List Int) (cnt : Nat)
    (h : ∀ j < 128, e ≤ j → ∃ x, s.elem tile j = .good x) :
    ∃ ys, s.decodeTile s.cur.1 s.cur.2 tile sat n xs cnt = (s, .ok (ys, cnt)) := by
  induction n generalizing e xs with
  | zero => exact ⟨xs, rfl⟩
  | succ n ih =>
    obtain ⟨x, hx⟩ := h e (Nat.lt_of_lt_of_eq (Nat.lt_add_of_pos_right n.succ_pos) hn) le_rfl
    rw [decodeTile_succ_ok hn (decodeElem_good sat hx)]
    exact ih ((Nat.succ_add_eq_add_succ e n).trans hn) _ fun j hj hle => h j hj (Nat.le_of_succ_le hle)

/-- The first element that does not decode ends the check, the state as it was when those before it decode as they stand. -/
theorem decodeTile_of_error {e n k : Nat} {f : FaultInfo} (hn : e + n = 128) (sat : Bool) (xs : List Int) (cnt : Nat) (hle : e ≤ k)
    (hk : k < 128) (hgood : ∀ j < k, ∃ x, s.elem tile j = .good x)
    (hbad : s.decodeElem s.cur.1 s.cur.2 tile k sat = (s, .error f)) :
    s.decodeTile s.cur.1 s.cur.2 tile sat n xs cnt = (s, .error f) := by
  induction n generalizing e xs with
  | zero => exact absurd (hn.symm.le.trans hle) (Nat.not_le_of_lt hk)
  | succ n ih =>
    rcases Nat.eq_or_lt_of_le hle with rfl | hlt
    · exact decodeTile_succ_error hn hbad xs cnt
    · obtain ⟨x, hx⟩ := hgood e hlt
      rw [decodeTile_succ_ok hn (decodeElem_good sat hx)]
      exact ih ((Nat.succ_add_eq_add_succ e n).trans hn) _ hlt

/-- How many of the `n` elements of a tile from `e` on decode as corrected. -/
noncomputable def State.correctedFrom (s : State) (tile e n : Nat) : Nat := ((List.range' e n).filter fun j => (s.elem tile j).isCorrected).length

theorem correctedFrom_succ (e n cnt : Nat) : cnt + s.correctedFrom tile e (n + 1) =
    cnt + num (s.elem tile e).isCorrected + s.correctedFrom tile (e + 1) n := by
  show cnt + ((List.range' e (n + 1)).filter _).length = _
  rw [List.range'_succ, List.filter_cons, Nat.add_assoc]
  cases (s.elem tile e).isCorrected with
  | true => exact congrArg (cnt + ·) (Nat.add_comm _ 1)
  | false => exact congrArg (cnt + ·) (Nat.zero_add _).symm

theorem correctedFrom_congr {u : State} {e n : Nat} (hn : e + (n + 1) = 128)
    (h : ∀ j < 128, j ≠ e → u.elem tile j = s.elem tile j) : u.correctedFrom tile (e + 1) n = s.correctedFrom tile (e + 1) n := by
  refine congrArg List.length (List.filter_congr fun j hj => ?_)
  obtain ⟨hle, hlt⟩ := List.mem_range'_1.mp hj
  rw [h j (Nat.lt_of_lt_of_eq hlt ((Nat.succ_add_eq_add_succ e n).trans hn)) (Nat.ne_of_gt hle)]

/-- Whether a word decodes, as it stands or corrected. -/
def RnOut.Decodes (r : RnOut) : Prop := (∃ x, r = .good x) ∨ ∃ i x, r = .corrected i x

/-- An element that decodes is put right where it must be. -/
theorem decodeElem_decodes {e : Nat} (sat : Bool) (h : (s.elem tile e).Decodes) :
    ∃ u x, s.decodeElem s.cur.1 s.cur.2 tile e sat = (u, .ok (x, (s.elem tile e).isCorrected)) ∧ s.KeepsOthers u tile e := by
  rcases h with ⟨x, hx⟩ | ⟨i, x, hx⟩
  · exact ⟨s, x, hx ▸ decodeElem_good sat hx, rfl, rfl, fun _ _ _ => rfl⟩
  · obtain ⟨u, hu, hkeeps⟩ := decodeElem_corrected sat hx
    exact ⟨u, x, hx ▸ hu, hkeeps⟩

/-- A check of a tile that ends well: how many words it has put right, its context as in `s`. -/
def State.Checked (s : State) (r : State × Except FaultInfo (List Int × Nat)) (cnt : Nat) : Prop :=
  ∃ u ys, r = (u, .ok (ys, cnt)) ∧ u.ctx = s.ctx

theorem State.Checked.of_ctx {u : State} {r : State × Except FaultInfo (List Int × Nat)} {cnt : Nat} (h : u.Checked r cnt)
    (hctx : u.ctx = s.ctx) : s.Checked r cnt :=
  h.imp fun _ => Exists.imp fun _ => And.imp_right (·.trans hctx)

/-- Elements that all decode are put right where they must be, and counted. -/
theorem decodeTile_of_decodes {e n : Nat} (hn : e + n = 128) (sat : Bool) (xs : List Int) (cnt : Nat)
    (h : ∀ j < 128, e ≤ j → (s.elem tile j).Decodes) :
    s.Checked (s.decodeTile s.cur.1 s.cur.2 tile sat n xs cnt) (cnt + s.correctedFrom tile e n) := by
  induction n generalizing s e xs cnt with
  | zero => exact ⟨s, xs, rfl, rfl⟩
  | succ n ih =>
    obtain ⟨u, x, hu, hcur, hctx, hothers⟩ :=
      decodeElem_decodes sat (h e (Nat.lt_of_lt_of_eq (Nat.lt_add_of_pos_right n.succ_pos) hn) le_rfl)
    rw [decodeTile_succ_ok hn hu, correctedFrom_succ, ← correctedFrom_congr hn hothers, ← hcur]
    exact (ih ((Nat.succ_add_eq_add_succ e n).trans hn) _ _ fun j hj hle =>
      hothers j hj (Nat.ne_of_gt hle) ▸ h j hj (Nat.le_of_succ_le hle)).of_ctx hctx

end DecodeTile

section Achk
variable {o : AccCheck} {s : State} {acc : BitVec 3} (hacc : o.acc = acc) (hclear : s.Clear (achkRule o))
  (hidle : (s.me.tile acc.toNat).busy = false)
include hacc hclear hidle

theorem exec_achk_invalid (h : (s.me.tile acc.toNat).valid = false) : exec (.achk o) s = .next (s.wroteX o.rd 0) := by
  subst hacc
  refine ((exec_achk s).trans (issue_onTile_idle hclear hidle)).trans ?_
  rw [h]
  exact outcome_done_writeX s o.rd 0

section Valid
variable (hvalid : (s.me.tile acc.toNat).valid = true)
include hvalid

theorem exec_achk_ok {u : State} {ys : List Int} {n : Nat}
    (h : s.decodeTile s.cur.1 s.cur.2 acc.toNat false 128 [] 0 = (u, .ok (ys, n))) :
    exec (.achk o) s = .next (u.wroteX o.rd (BitVec.ofNat 64 n)) := by
  subst hacc
  refine ((exec_achk s).trans (issue_onTile_idle hclear hidle)).trans ?_
  rw [hvalid, h]
  exact outcome_done_writeX u o.rd _

/-- A valid tile of words that all decode: how many of them were put right. -/
theorem exec_achk_decodes
    (h : ∀ e < 128, (∃ x, s.elem acc.toNat e = .good x) ∨ ∃ i x, s.elem acc.toNat e = .corrected i x) : ∃ u : State,
      exec (.achk o) s = .next u ∧ u.ctx.pc = s.ctx.pc + 4 ∧
        (o.rd ≠ 0 → u.ctx.readX o.rd = BitVec.ofNat 64 ((List.range 128).filter fun e => (s.elem acc.toNat e).isCorrected).length) := by
  obtain ⟨u, ys, hu, hctx⟩ := decodeTile_of_decodes (Nat.zero_add 128) false [] 0 fun e he _ => h e he
  refine ⟨_, exec_achk_ok hacc hclear hidle hvalid hu, ?_, fun hne => ?_⟩
  · rw [State.wroteX, ctx_past, ctxRetire_pc, hctx]
  · rw [readX_wroteX, if_neg hne, if_pos rfl, Nat.zero_add, List.range_eq_range']
    rfl

/-- The first word that does not decode raises its fault. -/
theorem exec_achk_fault {e : Nat} {f : FaultInfo} (he : e < 128) (hgood : ∀ j < e, ∃ x, s.elem acc.toNat j = .good x)
    (hbad : s.decodeElem s.cur.1 s.cur.2 acc.toNat e false = (s, .error f)) :
    ∃ u : State, exec (.achk o) s = .next u ∧ s.faulted u f := by
  have hrun := decodeTile_of_error (Nat.zero_add 128) false [] 0 (Nat.zero_le e) he hgood hbad
  subst hacc
  refine ⟨s.raise f, ((exec_achk s).trans (issue_onTile_idle hclear hidle)).trans ?_, faulted_raise ..⟩
  rw [hvalid, hrun]
  rfl

end Valid

/-- A tile with nothing to put right. -/
theorem exec_achk_good (h : (s.me.tile acc.toNat).valid = false ∨ ∀ e < 128, ∃ x, s.elem acc.toNat e = .good x) :
    exec (.achk o) s = .next (s.wroteX o.rd 0) := by
  by_cases hvalid : (s.me.tile acc.toNat).valid = true
  · obtain ⟨ys, hys⟩ := decodeTile_of_good (Nat.zero_add 128) false [] 0 fun e he _ =>
      h.resolve_left (Bool.not_eq_false _ ▸ hvalid) e he
    exact exec_achk_ok hacc hclear hidle hvalid hys
  · exact exec_achk_invalid hacc hclear hidle (Bool.eq_false_iff.mpr hvalid)

end Achk

end Sys2Proof.Machine
end

section
/-!
PROOFS. The residue configuration and the alternate codebook (R275, R276), and the obligation on tiles and configuration words.
-/

namespace Sys2Proof.Machine

/-! ## ACFG (R275) -/

/-- A change of a core that keeps its contexts leaves the acting context. -/
theorem ctx_modCore_of_ctxs (s : State) (n : Nat) {f : Core → Core} (hf : ∀ c, (f c).ctxs = c.ctxs) : (s.modCore n f).ctx = s.ctx :=
  core_modCore_keeps (π := fun c => c.ctx s.cur.2) (fun c => by simp only [Core.ctx, hf]) s n s.cur.1

/-- A core with another request for a configuration. -/
noncomputable def Core.withAcfgWait (c : Core) (w : Option AcfgWait) : Core := { c with acfgWait := w }

theorem ctx_withAcfgWait (s : State) (n : Nat) (w : Option AcfgWait) : (s.modCore n (·.withAcfgWait w)).ctx = s.ctx :=
  ctx_modCore_of_ctxs s n (f := (·.withAcfgWait w)) fun _ => rfl

theorem outside_iff (n a b : Nat) : (decide (Config.workers ≤ n) || decide (a ≠ b)) = true ↔ Config.workers ≤ n ∨ a ≠ b := by
  rw [Bool.or_eq_true, decide_eq_true_eq, decide_eq_true_eq]

section Acfg
variable {o : AccCfg} {s : State} (hclear : s.Clear (acfgRule o))
include hclear

theorem exec_acfg_bounds (h : Config.workers ≤ (s.ctx.readX o.rcore).toNat ∨ clusterOf (s.ctx.readX o.rcore).toNat ≠ clusterOf s.cur.1) :
    ∃ t : State, exec (.acfg o) s = .next t ∧ s.faulted t ⟨.windowBounds, 0, 0⟩ :=
  faulted_of_issue (exec_acfg s) hclear (if_pos ((outside_iff ..).mpr h))

variable (hin : ¬(Config.workers ≤ (s.ctx.readX o.rcore).toNat ∨ clusterOf (s.ctx.readX o.rcore).toNat ≠ clusterOf s.cur.1))
  (hlegal : ¬((s.ctx.readX o.rval).getLsbD 3 && bits (s.ctx.readX o.rval) 2 0 == 7) = true)
include hin hlegal

theorem exec_acfg_asks (h : (s.core (s.ctx.readX o.rcore).toNat).acfgWait = none) : exec (.acfg o) s =
    .next (s.modCore (s.ctx.readX o.rcore).toNat (·.withAcfgWait (some
      ⟨s.cur.1, s.cur.2, (s.ctx.readX o.rval).getLsbD 3, (s.ctx.readX o.rval).setWidth 3, none⟩))) := by
  refine ((exec_acfg s).trans (issue_of_clear hclear)).trans ?_
  refine (congrArg (Did.outcome 0) ((if_neg (mt (outside_iff ..).mp hin)).trans (if_neg hlegal))).trans ?_
  rw [h]
  rfl

theorem exec_acfg_answers {w : AcfgWait} {old : Word} (h : (s.core (s.ctx.readX o.rcore).toNat).acfgWait = some w)
    (hmine : ¬(decide (w.keeper ≠ s.cur.1) || decide (w.ctx ≠ s.cur.2)) = true) (hold : w.old = some old) :
    exec (.acfg o) s = .next ((s.modCore (s.ctx.readX o.rcore).toNat (·.withAcfgWait none)).wroteX o.rold old) := by
  refine ((exec_acfg s).trans (issue_of_clear hclear)).trans ?_
  refine (congrArg (Did.outcome 0) ((if_neg (mt (outside_iff ..).mp hin)).trans (if_neg hlegal))).trans ?_
  rw [h]
  refine (congrArg (Did.outcome 0) (if_neg hmine)).trans ?_
  rw [hold]
  exact outcome_done_writeX (s.modCore _ (·.withAcfgWait none)) o.rold old

end Acfg

/-- A word that writes a register and retires keeps of every core what is not its contexts. -/
theorem core_wroteX_keeps {α : Type} {π : Core → α} (hπ : ∀ (c : Core) k f, π (c.modCtx k f) = π c) (s : State) (rd : BitVec 5)
    (v : Word) (n : Nat) : π ((s.wroteX rd v).core n) = π (s.core n) :=
  (core_past_keeps hπ ..).trans (core_modCore_keeps (fun c => hπ c s.cur.2 _) s s.cur.1 n)

/-- A core whose configuration has changed as asked, the old one its answer. -/
noncomputable def Core.configured (c : Core) (w : AcfgWait) : Core :=
  { c with acfgDeg := w.deg, acfgFch := w.fch, acfgWait := some { w with old := some c.acfgWord } }

theorem acfgWord_eq (c : Core) : c.acfgWord = BitVec.ofNat 64 ((if c.acfgDeg then 8 else 0) + c.acfgFch.toNat) := by
  unfold Core.acfgWord
  cases c.acfgDeg <;> rfl

theorem exec_acfgApply_waiting {core : Nat} {s : State} {w : AcfgWait} (hcore : coreIn core = true)
    (hw : (s.core core).acfgWait = some w) (hold : w.old = none) : exec (.acfgApply core) s =
      .next (if (s.core core).tiles.toList.any (·.busy) then s else s.modCore core (·.configured w)) := by
  refine (exec_acfgApply s).trans ((event_next hcore _).trans (congrArg _ ?_))
  rw [hw]
  dsimp only
  rw [hold]
  rfl

/-! ## CBLD (R276) -/

/-- A core with the sixteen bytes of a number its alternate codebook. -/
noncomputable def Core.withCodebook (c : Core) (d : Nat) : Core :=
  { c with codebook := Vector.ofFn fun i : Fin 16 => BitVec.ofNat 8 (d / 256 ^ i.val) }

/-- A word whose bytes have all arrived goes on with their value. -/
theorem readAt_of_reads {s : State} {p : Pend} (hreads : s.ctx.reads = [p]) (hpoison : p.poison = none) (hopen : p.open_ = false)
    (view : Option View) (parts : List (Nat × Word × Nat)) (k : State → Nat → Did) : s.readAt 0 view parts k = k s p.gather := by
  unfold State.readAt
  rw [hreads]
  simp [hpoison, hopen]

section Cbld
variable {ra : BitVec 5} {s : State} {p : Pend} (hclear : s.Clear (cbldRule ra)) (hal : (s.ctx.readX ra).toNat % 16 = 0)
  (hreads : s.ctx.reads = [p]) (hpoison : p.poison = none) (hopen : p.open_ = false)
include hclear hal hreads hpoison hopen

theorem exec_cbld_ready : exec (.cbld ra) s = (Did.done (s.dropReads.modMe (·.withCodebook p.gather))).outcome 0 :=
  ((exec_cbld s).trans (issue_of_clear hclear)).trans
    (congrArg (Did.outcome 0) ((if_neg (not_not.mpr hal)).trans (readAt_of_reads hreads hpoison hopen ..)))

/-- CBLD with its bytes there makes them the codebook. -/
theorem exec_cbld_of_reads : ∃ t : State, exec (.cbld ra) s = .next t ∧ t.ctx.pc = s.ctx.pc + 4 ∧ t.ctx.x = s.ctx.x ∧
    t.mem = s.mem ∧ ∀ i : Fin 16, t.me.codebook.get i = BitVec.ofNat 8 (p.gather / 256 ^ i.val) := by
  have hctx : s.dropReads.SameCtx (s.dropReads.modMe (·.withCodebook p.gather)) :=
    sameCtx_modMe (f := (·.withCodebook p.gather)) (fun _ => rfl) _
  have hdrop := ctx_modCtx s fun c => { c with pends := c.pends.filter fun q => !(q.isRead && q.pc == c.pc) }
  obtain ⟨hpc, hx, hmem⟩ := kept_past hctx
  refine ⟨_, (exec_cbld_ready hclear hal hreads hpoison hopen).trans hctx.outcome, hpc.trans (congrArg (·.pc + 4) hdrop :),
    hx.trans (congrArg Ctx.x hdrop :), hmem, fun i => ?_⟩
  rw [me_past, coreModCtx_codebook, me_modMe]
  exact Vector.getElem_ofFn ..

end Cbld

/-! ## The obligation -/

section Clauses
variable {s : State}

theorem rnfwd_spec {o : Fp1} (h : s.Clear (rnfwdRule o)) : ∃ v, exec (.rnfwd o) s = .next (s.wroteX o.rd v) ∧
    ∀ i < 7, residue v.toNat i = (((s.ctx.readX o.ra).setWidth (szBits o.sz)).toInt % modulus i).toNat :=
  ⟨_, exec_rnfwd_of_clear h, fun i hi => (congrArg (residue · i) (toNat_ofNat_packResidues _)).trans
    ((residue_residues _ hi).trans (congrArg (fun x : Int => (x % modulus i).toNat) (toSigned_szBits o.sz _)))⟩

theorem rnOp_spec {o : Reg2} (h : s.Clear { reg2Rule o with rep := true, noHint := true }) (op : Int → Int → Int) :
    ∃ v, rnOp op o s = .next (s.wroteX o.rd v) ∧ ∀ i < 7, residue v.toNat i =
      if residue (s.ctx.readX o.ra).toNat i < modulus i ∧ residue (s.ctx.readX o.rb).toNat i < modulus i then
        (op (residue (s.ctx.readX o.ra).toNat i) (residue (s.ctx.readX o.rb).toNat i) % modulus i).toNat
      else 2 ^ (rnField i).2 - 1 :=
  ⟨_, rnOp_of_clear h op, fun i hi => (congrArg (residue · i) (toNat_ofNat_packResidues _)).trans (residue_rnArith_field op _ _ hi)⟩

end Clauses

theorem row_or_column : ∀ i < 135, 128 < i → (i = 129 ∨ i = 130) ∨ i = 131 ∨ i = 132 ∨ i = 133 ∨ i = 134 := by decide

/-- Settles O39: each word that may issue comes to one named change of its context, its tile or a core of its cluster; ACHK by
induction over the elements of the tile, of which putting one right leaves the others as they decode. -/
theorem tilesAndConfiguration : Obligations.TilesAndConfiguration := by
  unfold Obligations.TilesAndConfiguration
  refine ⟨⟨fun o s h => rnfwd_spec h, ?arith, fun o s h => ?rnchk, fun o s h => ?rnrev⟩, ⟨fun t i v => ?tile, ?tileWords⟩,
    ⟨fun o s h => ?acfg, fun core s w hcore hw hold => ?acfgApply, fun ra s p h hal hreads hpoison hopen => ?cbld⟩⟩
  case arith =>
    exact List.forall_mem_cons.mpr ⟨fun o s h => rnOp_spec h (· + ·), List.forall_mem_cons.mpr ⟨fun o s h => rnOp_spec h (· - ·),
      List.forall_mem_singleton.mpr fun o s h => rnOp_spec h (· * ·)⟩⟩
  case rnchk =>
    refine (exec_rnchk_of_clear h).trans (congrArg (fun v => (.next (s.wroteX o.rd v) : Out)) ?_)
    cases s.me.decode (s.ctx.readX o.ra) with
    | good x => rfl
    | corrected i x => exact congrArg (fun n => BitVec.ofNat 64 (n + 1)) (pow_add 2 2 i)
    | overflow x => rfl
    | mismatch m => exact congrArg (fun n => BitVec.ofNat 64 (n + 3)) (Nat.mul_comm ..)
  case rnrev =>
    obtain ⟨t, hexec, ⟨hpc, hx, -, hempty⟩, hrev⟩ := exec_rnrev_of_clear h
    have hout {r : RnOut} (hd : s.me.decode (s.ctx.readX o.ra) = r) : s.Reversed t o.rd r := hd ▸ hrev
    exact ⟨t, hexec, hpc, hx, hempty, fun x => hout, fun i x hd => owes_rnrevCorrected (hout hd),
      fun x hd => (hout hd).imp_right (Exists.intro _), fun m hd => (hout hd).imp_right (Exists.intro _)⟩
  case tile =>
    refine ⟨tile_read_of_valid, fun hi => tile_write_element t hi v, fun h0 h1 => ?_, fun hi => tile_write_reserved t hi v⟩
    exact (row_or_column i h1 h0).elim (tile_write_row t · v) (tile_write_column t · v)
  case tileWords =>
    intro acc r w c s hr hw hc t
    refine ⟨fun hbusy => ?busy, fun hidle => ⟨(exec_mzero_idle · hidle), (exec_awr_idle hw · hidle), fun h => ?ard, fun h => ?achk⟩⟩
    case busy =>
      exact List.forall_mem_cons.mpr ⟨exec_mzero_busy hbusy, List.forall_mem_cons.mpr ⟨exec_ard_busy hr hbusy,
        List.forall_mem_cons.mpr ⟨exec_awr_busy hw hbusy, List.forall_mem_singleton.mpr (exec_achk_busy hc hbusy)⟩⟩⟩
    case ard =>
      obtain ⟨u, hexec, ⟨hpc, hx, htiles, hempty⟩, p, hpends, hdest, hfinish, -⟩ := exec_ard_idle hr h hidle
      exact ⟨u, p, hexec, hpc, hx, htiles, hempty, hpends, hdest, hfinish⟩
    case achk =>
      refine ⟨exec_achk_good hc h hidle, exec_achk_decodes hc h hidle, fun e m hvalid he hgood hbad => ?_,
        fun e x hvalid he hgood hbad => ?_⟩
      · obtain ⟨d, hd⟩ := decodeElem_mismatch hbad
        exact (exec_achk_fault hc h hidle hvalid he hgood hd).imp fun u hu => ⟨d, hu⟩
      · obtain ⟨d, hd⟩ := decodeElem_overflow hbad
        exact (exec_achk_fault hc h hidle hvalid he hgood hd).imp fun u hu => ⟨d, hu⟩
  case acfg =>
    intro n v
    refine ⟨exec_acfg_bounds h, fun hworker hcluster hlegal => ⟨fun hnone => ?_, fun w old hw hk hc hold => ?_⟩⟩ <;>
      have hin := not_or.mpr ⟨Nat.not_le.mpr hworker, not_not.mpr hcluster⟩ <;> have hlegal := Bool.eq_false_iff.mp hlegal
    · have hcore := core_modCore_self s n (·.withAcfgWait (some ⟨s.cur.1, s.cur.2, v.getLsbD 3, v.setWidth 3, none⟩))
      exact ⟨_, _, exec_acfg_asks h hin hlegal hnone, congrArg Ctx.pc (ctx_withAcfgWait ..), congrArg Core.acfgWait hcore, rfl, rfl, rfl,
        (congrArg Core.acfgDeg hcore :)⟩
    · have hmine : ¬(decide (w.keeper ≠ s.cur.1) || decide (w.ctx ≠ s.cur.2)) = true := by simp [hk, hc]
      refine ⟨_, exec_acfg_answers h hin hlegal hw hmine hold, ?_, ?_, fun i => ?_⟩
      · rw [State.wroteX, ctx_past, ctxRetire_pc, ctx_withAcfgWait]
      · rw [core_wroteX_keeps (π := Core.acfgWait) (fun _ _ _ => rfl), core_modCore_self]
        rfl
      · rw [readX_wroteX, ctx_withAcfgWait]
  case acfgApply =>
    have hexec := exec_acfgApply_waiting hcore hw hold
    have hconf := core_modCore_self s core (·.configured w)
    refine ⟨fun hbusy => hexec.trans (congrArg _ (if_pos hbusy)), fun hidle =>
      ⟨_, hexec.trans (congrArg _ (if_neg (Bool.eq_false_iff.mp hidle))), congrArg Core.acfgDeg hconf, congrArg Core.acfgFch hconf,
        (congrArg Core.acfgWait hconf).trans ?_⟩⟩
    exact congrArg (fun v => some ({ w with old := some v } : AcfgWait)) (acfgWord_eq (s.core core))
  case cbld => exact exec_cbld_of_reads h hal hreads hpoison hopen

end Sys2Proof.Machine
end

section
/-!
PROOFS. Words of the spec read bit by bit (R130, R177, R189, R191 to R193, R203, R220, R243).
-/

namespace Sys2Proof.Machine
open Laws.RoundTrip

/-- An instruction whose operands keep to its form is accepted. -/
theorem accept_of_wf {i : Instr} (h : i.wf = true) : accept i = .ok i := if_pos h

/-- Major 0x00 holds no instruction (R176). -/
theorem decode_major_zero {w : Word32} (h : fld w 26 6 = 0#6) : decode w = .error .major := by
  unfold decode
  rw [h]
  rfl

/-- Settles O7: the fields that choose a word's form are read off its bits, and so are the operands, which keep to the form; the word 0
has major 0x00. -/
theorem wordsOfTheSpecDecode : Obligations.WordsOfTheSpecDecode := by
  unfold Obligations.WordsOfTheSpecDecode
  refine ⟨?addi, ?sub, ?fcmpLt, ?crr, ?jal, ?bgeu, ?endBody, ?jalr, ?ld, ?st, ?zero⟩
  case addi => exact (decode_addi rfl).trans (accept_of_wf rfl)
  case sub => exact (decode_sub rfl rfl).trans (accept_of_wf rfl)
  case fcmpLt => exact (decode_fcmpLt rfl rfl).trans (accept_of_wf rfl)
  case crr => exact (decode_crr rfl rfl rfl rfl).trans (accept_of_wf rfl)
  case jal => exact (decode_jal rfl).trans (accept_of_wf rfl)
  case bgeu => exact (decode_bgeu rfl rfl).trans (accept_of_wf rfl)
  case endBody => exact (decode_endBody rfl rfl rfl).trans (accept_of_wf rfl)
  case jalr => exact (decode_jalr rfl).trans (accept_of_wf rfl)
  case ld => exact (decode_ld rfl).trans (accept_of_wf rfl)
  case st => exact (decode_st rfl).trans (accept_of_wf rfl)
  case zero => exact ⟨.major, decode_major_zero rfl⟩

end Sys2Proof.Machine
end
